-- ==== Sys2Proof/Word.lean ====
section
/-! DEFINITION. The word types of the JL-16 (R5, R275): bytes, 64-bit words and the record and packet images that move as one value. -/

namespace Sys2Proof

/-- A byte of any memory (R5). -/
abbrev Byte := BitVec 8

/-- A scalar register, queue word or 64-bit register (R165, R275). -/
abbrev Word := BitVec 64

/-- A 256-bit predicate register (R155). -/
abbrev Mask := BitVec 256

/-- A task record, 64 bytes, byte 0 in bits [7:0] (R77). -/
abbrev Record := BitVec 512

/-- A fault packet or command message, 64 bytes (R233, R97). -/
abbrev Packet := BitVec 512

end Sys2Proof
end

