-- ==== Sys2Proof/Config.lean ====
section
/-! DEFINITION. What one module's build fixes, and the free values: constants without a body, of which nothing can be proved, for what the spec leaves open. -/

namespace Sys2Proof.Config

/-- FREE VALUE. Which pending turn the machine takes when its agenda is empty: the spec orders agents only where a rule says so
(R138, R173, R208, R249). Applied to the tick. Log entry 2. -/
opaque choose : Nat → Nat

/-- FREE VALUE. A byte of another module's memory as this module reads it: (tick, global address). R198, R208: its home and its
other writers are outside this module. Log entry 3. -/
opaque outsideByte : Nat → Nat → Byte

/-- UNINTERPRETED. S0, the unique device secret held in fuses (R89). Log entry 4. -/
opaque deviceSecret : BitVec 256

/-- FREE VALUE. A byte of a word that the spec lets be old or new, or gives no value: (tick, address). Log entry 3. -/
opaque openByte : Nat → Nat → Byte

/-- FREE VALUE. Which entry leaves a TLB that is full (R204), applied to the tick. Log entry 12. -/
opaque tlbVictim : Nat → Nat

/-- FREE VALUE. Which pieces of an access of several 8-byte pieces move next (R209), as the bits of a number, applied to the tick. Log entry 20. -/
opaque piece : Nat → Nat

/-- FREE VALUE. Which throttle reasons a lowering of a domain's frequency gives (R147, R149), as the bits of a number, applied to the tick. Log
entry 29. -/
opaque lowered : Nat → Nat

/-- FREE VALUE. Whether a laser group that is waking fails (R37: failure to reach LIT within 3.0 µs). Log entry 5. -/
opaque laserFails : Nat → Bool

end Sys2Proof.Config
end

