-- ==== Sys2Proof/Syntax.lean ====
section
/-! DEFINITION. The whole instruction set and the steps of the other agents: one constructor of Instr per row of the opcode table.
The first part is the encodable instructions of R280 to R287; the second is the rows that name a step of the host, a port,
an engine, a controller or the fabric. Operands hold what the encoding leaves once every field the opcode does not use is zero. -/

namespace Sys2Proof

/-- A class S source operand (R275). -/
inductive Src where
  | g (n : Fin 48)
  | q (n : Fin 4)
  | q4 | q5 | q6 | q7
  | t (n : Fin 4)
  deriving DecidableEq, Repr

/-- A class S destination operand: q4-q7 and t0-t3 raise ILLOP there (R165, R275). -/
inductive Dst where
  | g (n : Fin 48)
  | q (n : Fin 4)
  deriving DecidableEq, Repr

/-- An operand with its last-use bit (R277). -/
structure Use (α : Type) where
  r : α
  last : Bool
  deriving DecidableEq, Repr

/-- PRED (R274): the inversion and the predicate register. -/
structure Pred where
  neg : Bool
  p : Fin 8
  deriving DecidableEq, Repr

/-- The head fields every opcode carries: PRED and the wait class WT (R270, R216). -/
structure Com where
  pred : Pred
  wt : Fin 4
  deriving DecidableEq, Repr

/-- Memory spaces by selector (R195). -/
inductive Space where
  | glb | spm | cls | twr | lane | ist | rmt
  deriving DecidableEq, Repr

/-- The space of a synchronisation object (R335): a memory space or a group. -/
inductive Osp where
  | glb | spm | cls | twr | rmt | grp
  deriving DecidableEq, Repr

/-- Element types (R178). -/
inductive Ty where
  | i8 | z8 | i16 | z16 | i32 | z32 | i64 | bf16 | f32 | t8 | t6 | i4
  deriving DecidableEq, Repr

/-- Operand types of the MMA rows (R285). -/
inductive MmaTy where
  | i8 | t8 | t6 | i4 | bf16
  deriving DecidableEq, Repr

/-- Condition codes (R288). -/
inductive Cond where
  | eq | ne | lt | ge | le | gt | ltz | gez | lez | gtz
  deriving DecidableEq, Repr

/-- Rounding modes, coded as STATUS.RM (R159). -/
inductive Rm where
  | rne | rtz | rdn | rup
  deriving DecidableEq, Repr

/-- The rounding override fields RO and RMO (R272). -/
structure Rnd where
  ro : Bool
  rmo : Rm
  deriving DecidableEq, Repr

/-- SAT with the rounding override, for the vector forms that may use them (R354). -/
structure VX where
  sat : Bool
  rnd : Rnd
  deriving DecidableEq, Repr

/-- The offset of a scalar memory form, which also fixes its length (R278). -/
inductive Off where
  | imm24 (v : BitVec 24)
  | imm32 (v : BitVec 32)
  deriving DecidableEq, Repr

/-- A memory operand (R278, R195, R196). -/
structure MemOp where
  base : Use Src
  sel : Space
  lu : Bool
  na : Bool
  off : Off
  deriving DecidableEq, Repr

/-- A memory operand whose offset is always IMM32 (groups 3, 4 and 5). -/
structure MemOp32 where
  base : Use Src
  sel : Space
  lu : Bool
  na : Bool
  off : BitVec 32
  deriving DecidableEq, Repr

/-- The pitch register of MBLD with its OPX[4:0]: a load that is not block-scaled ignores OPX[3:0], and OPX[4] raises FORMAT (R398 to R400). -/
structure TilePitch where
  p : Use Src
  opx : BitVec 5
  deriving DecidableEq, Repr

/-- The lengths of NOP (R311). -/
inductive NopLen where
  | x64 | x96 | x128
  deriving DecidableEq, Repr

/-- LD by FN (R328). -/
inductive LdKind where
  | z8 | s8 | z16 | s16 | z32 | s32 | d64
  deriving DecidableEq, Repr

/-- ST by FN (R328). -/
inductive StKind where
  | b8 | b16 | b32 | b64
  deriving DecidableEq, Repr

/-- Forms of the scalar float instructions (R321): 64 bits, or 96 bits with the override fields. -/
inductive FForm where
  | short
  | long (r : Rnd)
  deriving DecidableEq, Repr

/-- FCVT by FN (R325). -/
inductive FCvt where
  | i32f | z32f | i64f | fi32 | fz32 | fi64 | bff | fbf | t8f | ft8 | t6f | ft6
  deriving DecidableEq, Repr

/-- AMO by FN 0-8 (R340). -/
inductive AmoOp where
  | add | and | or | xor | min | max | minz | maxz | swap
  deriving DecidableEq, Repr

/-- FENCE and the posted-count classes (R214, R217). -/
inductive Cls where
  | clu | mod | sys
  deriving DecidableEq, Repr

/-- FORKR scope (R347). -/
inductive Scope where
  | cluster | tower | module
  deriving DecidableEq, Repr

/-- VRED by FN (R377). -/
inductive RedOp where
  | add | max | min | and | or
  deriving DecidableEq, Repr

/-- VSCAN by FN (R378). -/
inductive ScanOp where
  | add | max
  deriving DecidableEq, Repr

/-- VSHUF mode (R379). -/
inductive ShufMode where
  | lo | hi | ev | od
  deriving DecidableEq, Repr

/-- The store a bank instruction names (R427). -/
inductive BankSel where
  | rs | spm
  deriving DecidableEq, Repr

/-- The space code of a pour's source and destination (R416). -/
inductive PourSp where
  | glb | twr
  deriving DecidableEq, Repr

/-- The space of a job's sync word (R407). -/
inductive SyncSp where
  | none | spm | cls | twr
  deriving DecidableEq, Repr

/-- The operands that RPOUR, RSKIM and RBCAST share (R416). -/
structure PourOp where
  src : Src
  dst : Use Src
  sync : Use Src
  seqev : Use Src
  ssp : PourSp
  dsp : PourSp
  ysp : SyncSp
  q7 : Bool
  count : BitVec 32
  grp : Fin 64
  port : Fin 8
  deriving DecidableEq, Repr

/-- The operands that LDL and LDL2D share (R408). -/
structure LadleOp where
  d : Dst
  a : Use Src
  b : Use Src
  c : Src
  ssp : Space
  dsp : Space
  ysp : SyncSp
  q5 : Bool
  deriving DecidableEq, Repr

/-- What boot firmware sets before READY: every field whose Reset column says "fw" (R8, R87). -/
structure FwInit where
  ldly : List (BitVec 18)
  slewlim : List (BitVec 16)
  xlbase : Word
  alarmAct : BitVec 8
  /-- (cluster, register 0-7, value) of CLADM -/
  cladm : List (Nat × Nat × Word)
  /-- the runtime image from which firmware derives a further layer, if it does (R89) -/
  layer2 : Option (List Byte)
  deriving DecidableEq, Repr

/-- What a calibration brings to a port (R32). -/
structure CalMeas where
  /-- the delay that aligns the port -/
  ldly : BitVec 18
  /-- per wavelength 0-67 and per level 0-15 of the reference source, the training samples, normalised, in 1/64 of a level -/
  train : List (List (List Int))
  /-- the other enabled ports of the segment: their SPOS and the PLIM that they report -/
  others : List (Fin 32 × Fin 16)
  /-- the generation that the master distributes -/
  calgen : BitVec 32
  deriving DecidableEq, Repr

/-- An announcement as read in one position's idle slot (R54). -/
structure Announce where
  seq : BitVec 16
  grp : Fin 64
  ty : BitVec 3
  gm1 : BitVec 5
  replay : BitVec 3
  form : BitVec 2
  countM1 : BitVec 28
  deriving DecidableEq, Repr

/-- What a port's detectors receive from the OTHER writers in one frame (R59, R67): per slot, per wavelength 0-67, their light as a
normalised sample in 1/64 of a level (R30). -/
structure FrameIn where
  slots : List (List Int)
  deriving DecidableEq, Repr

/-- One bank of a core (R187, R190): a context's register store or the scratchpad. -/
inductive BankOf where
  | rs0 | rs1 | spm
  deriving DecidableEq, Repr

/-- The memories that have error counters, in the order of R95. -/
inductive ErrUnit where
  | regStore | scratch | bsram | towerL2 | dram | links | cxl
  deriving DecidableEq, Repr

/-- Every instruction and every step of the opcode table. -/
inductive Instr where
  -- group 0, control (R280)
  | nop (c : Com) (l : NopLen)
  | br (c : Com) (imm : BitVec 24)
  | brc (c : Com) (cond : Cond) (a b : Use Src) (imm : BitVec 24)
  | brz (c : Com) (a : Use Src) (imm : BitVec 24)
  | brnz (c : Com) (a : Use Src) (imm : BitVec 24)
  | brpAny (c : Com) (a : Use (Fin 8)) (imm : BitVec 24)
  | brpAll (c : Com) (a : Use (Fin 8)) (imm : BitVec 24)
  | call (c : Com) (imm : BitVec 24)
  | callr (c : Com) (a : Use Src)
  | ret (c : Com)
  | jmpr (c : Com) (a : Use Src)
  | loop (c : Com) (a : Use Src) (imm : BitVec 24)
  | end_ (c : Com)
  | trap (c : Com) (code : BitVec 8)
  | brk (c : Com)
  -- group 1, integer and scalar float (R281)
  | add (c : Com) (d : Dst) (a b : Use Src)
  | sub (c : Com) (d : Dst) (a b : Use Src)
  | and (c : Com) (d : Dst) (a b : Use Src)
  | or (c : Com) (d : Dst) (a b : Use Src)
  | xor (c : Com) (d : Dst) (a b : Use Src)
  | andn (c : Com) (d : Dst) (a b : Use Src)
  | shl (c : Com) (d : Dst) (a b : Use Src)
  | shr (c : Com) (d : Dst) (a b : Use Src)
  | sra (c : Com) (d : Dst) (a b : Use Src)
  | rotl (c : Com) (d : Dst) (a b : Use Src)
  | min (c : Com) (d : Dst) (a b : Use Src)
  | max (c : Com) (d : Dst) (a b : Use Src)
  | minz (c : Com) (d : Dst) (a b : Use Src)
  | maxz (c : Com) (d : Dst) (a b : Use Src)
  | addi (c : Com) (d : Dst) (a : Use Src) (imm : BitVec 24)
  | andi (c : Com) (d : Dst) (a : Use Src) (imm : BitVec 24)
  | ori (c : Com) (d : Dst) (a : Use Src) (imm : BitVec 24)
  | xori (c : Com) (d : Dst) (a : Use Src) (imm : BitVec 24)
  | shli (c : Com) (d : Dst) (a : Use Src) (n : Fin 64)
  | shri (c : Com) (d : Dst) (a : Use Src) (n : Fin 64)
  | srai (c : Com) (d : Dst) (a : Use Src) (n : Fin 64)
  | mul (c : Com) (d : Dst) (a b : Use Src)
  | mulh (c : Com) (d : Dst) (a b : Use Src)
  | mulhz (c : Com) (d : Dst) (a b : Use Src)
  | div (c : Com) (d : Dst) (a b : Use Src)
  | divz (c : Com) (d : Dst) (a b : Use Src)
  | rem (c : Com) (d : Dst) (a b : Use Src)
  | remz (c : Com) (d : Dst) (a b : Use Src)
  | clz (c : Com) (d : Dst) (a : Use Src)
  | ctz (c : Com) (d : Dst) (a : Use Src)
  | popc (c : Com) (d : Dst) (a : Use Src)
  | sext (c : Com) (d : Dst) (a : Use Src) (n : Fin 65)
  | zext (c : Com) (d : Dst) (a : Use Src) (n : Fin 65)
  | sel (c : Com) (d : Dst) (a b x : Use Src)
  | setc (c : Com) (cond : Cond) (d : Dst) (a b : Use Src)
  | li24 (c : Com) (d : Dst) (imm : BitVec 24)
  | li32 (c : Com) (d : Dst) (sh32 : Bool) (imm : BitVec 32)
  | li64 (c : Com) (d : Dst) (imm : BitVec 64)
  | lea (c : Com) (sc : Fin 4) (d : Dst) (a b : Use Src) (off : Off)
  | bfx (c : Com) (d : Dst) (a : Use Src) (pos : Fin 64) (len : Fin 128)
  | bfi (c : Com) (d : Fin 48) (a : Use Src) (pos : Fin 64) (len : Fin 128)
  | fadd (c : Com) (f : FForm) (d : Dst) (a b : Use Src)
  | fsub (c : Com) (f : FForm) (d : Dst) (a b : Use Src)
  | fmul (c : Com) (f : FForm) (d : Dst) (a b : Use Src)
  | ffma (c : Com) (r : Rnd) (d : Dst) (a b x : Use Src)
  | fmin (c : Com) (d : Dst) (a b : Use Src)
  | fmax (c : Com) (d : Dst) (a b : Use Src)
  | fsqrt (c : Com) (f : FForm) (d : Dst) (a : Use Src)
  | fcmp (c : Com) (cond : Cond) (d : Dst) (a b : Use Src)
  | fcvt (c : Com) (cv : FCvt) (f : FForm) (d : Dst) (a : Use Src)
  -- group 2, memory and remote (R282)
  | ld (c : Com) (k : LdKind) (d : Dst) (m : MemOp)
  | st (c : Com) (k : StKind) (d : Src) (m : MemOp)
  | ldw (c : Com) (d : Dst) (m : MemOp)
  | lde (c : Com) (d : Dst) (m : MemOp)
  | stw (c : Com) (d : Src) (m : MemOp)
  | stf (c : Com) (d : Src) (m : MemOp)
  | fesetE (c : Com) (m : MemOp)
  | fesetF (c : Com) (m : MemOp)
  | put (c : Com) (d a : Src) (sel : Space) (len : BitVec 32)
  | get (c : Com) (d a : Src) (sel : Space) (len : BitVec 32)
  | putsig (c : Com) (d a x : Src) (sel ssp : Space) (len : BitVec 32)
  | radd (c : Com) (d : Src) (m : MemOp)
  | bind (c : Com) (d : Src) (a : Use Src) (sizeM1 : BitVec 40) (rsp : Space) (osp : Osp)
  | unbind (c : Com) (a : Use Src) (osp : Osp)
  | acq (c : Com) (a : Use Src) (osp : Osp)
  | rel (c : Com) (a : Use Src) (osp : Osp)
  | fence (p : Pred) (sc : Cls)
  | cntw (c : Com) (k : Cls) (n : Fin 513)
  | stage (c : Com) (a : Fin 16)
  -- group 3, atomic and synchronisation (R283)
  | amo (c : Com) (op : AmoOp) (w64 : Bool) (d : Dst) (m : MemOp32) (x : Src)
  | amoCas (c : Com) (w64 : Bool) (d : Dst) (m : MemOp32) (x n : Src)
  | amofAdd (c : Com) (d : Dst) (m : MemOp32) (x : Use Src)
  | grpnew (c : Com) (d : Dst)
  | grpinit (c : Com) (a : Use Src) (id : BitVec 12)
  | grpfree (c : Com) (a : Use Src) (id : BitVec 12)
  | join (c : Com) (d : Dst) (a : Use Src) (id : BitVec 12)
  | leave (c : Com) (a : Use Src) (id : BitVec 12)
  | sync (c : Com) (d : Dst) (a : Use Src) (id : BitVec 12)
  | sstep (c : Com) (d : Dst) (a : Use Src) (id : BitVec 12)
  | swarm (c : Com) (d : Dst) (m : MemOp32) (x : Use Src)
  | waitw (c : Com) (d : Dst) (m : MemOp32) (x : Use Src)
  | waitg (c : Com) (d : Dst) (a : Use Src) (id : BitVec 12)
  | forkr (c : Com) (sc : Scope) (d : Dst) (a b : Use Src) (x : Src) (drop : BitVec 6) (qm1 : BitVec 16) (lim : BitVec 14) (entry cont : BitVec 15)
  | joinc (c : Com) (a : Use Src) (off : BitVec 24)
  | qpoll (c : Com) (d : Dst) (k : Fin 8)
  | msg (c : Com) (a : Use Src) (off : BitVec 32)
  -- group 4, vector (R284)
  | vwsetReg (wt : Fin 4) (d : Fin 16) (a : Src)
  | vwsetImm (wt : Fin 4) (d : Fin 16) (imm : Word)
  | vwadv (wt : Fin 4) (d : Fin 16) (a : Use Src)
  | vld (c : Com) (ty : Ty) (d : Fin 16) (m : MemOp32)
  | vst (c : Com) (ty : Ty) (d : Fin 16) (m : MemOp32)
  | vldl (c : Com) (ty : Ty) (d : Fin 16) (a : Use Src) (off : BitVec 32) (idx : Option (Use (Fin 16)))
  | vstl (c : Com) (ty : Ty) (d : Fin 16) (a : Use Src) (off : BitVec 32) (idx : Option (Use (Fin 16)))
  | vgath (c : Com) (ty : Ty) (d : Fin 16) (m : MemOp32) (x : Use (Fin 16)) (sc : Fin 4)
  | vscat (c : Com) (ty : Ty) (d : Fin 16) (m : MemOp32) (x : Use (Fin 16)) (sc : Fin 4)
  | vadd (c : Com) (ty : Ty) (d : Fin 16) (a b : Use (Fin 16)) (x : VX)
  | vsub (c : Com) (ty : Ty) (d : Fin 16) (a b : Use (Fin 16)) (x : VX)
  | vmul (c : Com) (ty : Ty) (d : Fin 16) (a b : Use (Fin 16)) (x : VX)
  | vmin (c : Com) (ty : Ty) (d : Fin 16) (a b : Use (Fin 16))
  | vmax (c : Com) (ty : Ty) (d : Fin 16) (a b : Use (Fin 16))
  | vabs (c : Com) (ty : Ty) (d : Fin 16) (a : Use (Fin 16)) (sat : Bool)
  | vneg (c : Com) (ty : Ty) (d : Fin 16) (a : Use (Fin 16)) (sat : Bool)
  | vfma (c : Com) (ty : Ty) (d : Fin 16) (a b z : Use (Fin 16)) (x : VX)
  | vand (c : Com) (ty : Ty) (d : Fin 16) (a b : Use (Fin 16))
  | vor (c : Com) (ty : Ty) (d : Fin 16) (a b : Use (Fin 16))
  | vxor (c : Com) (ty : Ty) (d : Fin 16) (a b : Use (Fin 16))
  | vandn (c : Com) (ty : Ty) (d : Fin 16) (a b : Use (Fin 16))
  | vshl (c : Com) (ty : Ty) (d : Fin 16) (a b : Use (Fin 16))
  | vshr (c : Com) (ty : Ty) (d : Fin 16) (a b : Use (Fin 16))
  | vsra (c : Com) (ty : Ty) (d : Fin 16) (a b : Use (Fin 16))
  | vcmp (c : Com) (cond : Cond) (ty : Ty) (d : Fin 8) (a b : Use (Fin 16))
  | vsel (c : Com) (ty : Ty) (d : Fin 16) (a b : Use (Fin 16)) (x : Use (Fin 8))
  | vcvt (c : Com) (ty : Ty) (d : Fin 16) (a : Use (Fin 16)) (src : Ty) (part : Fin 16) (x : VX)
  | vbcast (c : Com) (ty : Ty) (d : Fin 16) (a : Use Src)
  | vext (wt : Fin 4) (ty : Ty) (a : Use (Fin 16)) (idx : BitVec 9)
  | vred (c : Com) (op : RedOp) (ty : Ty) (a : Use (Fin 16)) (r : Rnd)
  | vscan (c : Com) (op : ScanOp) (ty : Ty) (d : Fin 16) (a : Use (Fin 16)) (x : VX)
  | vwadd (c : Com) (ty : Ty) (d : Fin 16) (a b : Use (Fin 16)) (part wb : Bool) (x : VX)
  | vwmul (c : Com) (ty : Ty) (d : Fin 16) (a b : Use (Fin 16)) (part wb : Bool) (x : VX)
  | vdot (c : Com) (ty : Ty) (d : Fin 16) (a b : Use (Fin 16)) (x : VX)
  | vperm (c : Com) (ty : Ty) (d : Fin 16) (a b : Use (Fin 16))
  | vshuf (c : Com) (ty : Ty) (d : Fin 16) (a b : Use (Fin 16)) (mode : ShufMode)
  | vslide (c : Com) (ty : Ty) (d : Fin 16) (a b : Use (Fin 16)) (s : BitVec 9)
  | vpand (c : Com) (ty : Ty) (d : Fin 8) (a b : Use (Fin 8))
  | vpor (c : Com) (ty : Ty) (d : Fin 8) (a b : Use (Fin 8))
  | vpnot (c : Com) (ty : Ty) (d : Fin 8) (a : Use (Fin 8))
  | vpcnt (c : Com) (ty : Ty) (a : Use (Fin 8))
  | vbs (wt : Fin 4) (ty : Ty) (d : Fin 16) (a : Use (Fin 16)) (w16 : Bool) (r : Rnd)
  | vunbs (c : Com) (ty : Ty) (d : Fin 16) (a : Use (Fin 16)) (w16 : Bool)
  | vrcp (c : Com) (ty : Ty) (d : Fin 16) (a : Use (Fin 16)) (r : Rnd)
  | vrsq (c : Com) (ty : Ty) (d : Fin 16) (a : Use (Fin 16)) (r : Rnd)
  | vexp2 (c : Com) (ty : Ty) (d : Fin 16) (a : Use (Fin 16)) (r : Rnd)
  -- group 5, matrix (R285)
  | mbsetReg (wt : Fin 4) (d : Fin 16) (a : Src)
  | mbsetImm (wt : Fin 4) (d : Fin 16) (imm : Word)
  | mbld (c : Com) (ty : Ty) (d : Fin 16) (m : MemOp32) (x : TilePitch)
  | mma (c : Com) (ty : MmaTy) (d : Fin 16) (a : Use (Fin 16)) (b : Fin 16) (ov : Bool) (bs : Option (Use (Fin 16)))
  | mmaRa (c : Com) (ty : MmaTy) (d : Fin 16) (a : Use Src) (b : Fin 16) (ov : Bool) (shape : Fin 16) (sp : Space)
  | mmar (c : Com) (ty : MmaTy) (d : Fin 16) (a : Use (Fin 16)) (b : Fin 16) (ov : Bool) (bs : Option (Use (Fin 16)))
  | mzero (c : Com) (ty : Ty) (d : Fin 16)
  | mtld (c : Com) (ty : Ty) (d : Fin 16) (m : MemOp32) (x : Use Src) (ev : Fin 16) (hi : Bool)
  | mtldRb (c : Com) (ty : Ty) (d : Fin 16) (m : MemOp32) (x : Use Src) (ev : Fin 16) (hi : Bool)
  | mepi96 (c : Com) (ty : Ty) (acc : Use (Fin 16)) (base : Use Src) (sel : Space) (off : BitVec 32) (cols : Option (Fin 16)) (r : Rnd)
  | mepi128 (c : Com) (ty : Ty) (acc : Use (Fin 16)) (base : Use Src) (sel : Space) (scale : BitVec 32) (pitch : BitVec 20) (cols : Option (Fin 16)) (r : Rnd)
  | macc (c : Com) (ty : Ty) (d : Fin 16) (a : Use (Fin 16)) (sat : Bool)
  | mwait (c : Com)
  -- group 6, engines and Runner (R286)
  | ldl (c : Com) (o : LadleOp) (len : BitVec 32) (evt : BitVec 16)
  | ldl2d (c : Com) (o : LadleOp) (rowlen nrows spitch dpitch : BitVec 16)
  | ldlz (c : Com) (d : Dst) (b : Use Src) (x : Src) (dsp : Space) (ysp : SyncSp) (q5 : Bool) (len : BitVec 32)
  | ewait (c : Com) (a : Use Src)
  | ewaitN (c : Com) (n : BitVec 5)
  | rarm (c : Com) (port : Fin 8)
  | rpourInt (c : Com) (o : PourOp) (ty : BitVec 3)
  | rpourBs (c : Com) (o : PourOp) (bs8 : Bool)
  | rskim (c : Com) (o : PourOp)
  | rbcast (c : Com) (o : PourOp) (root : Fin 32)
  | rstat (c : Com) (d : Dst) (port : Fin 8) (grp : Fin 64)
  | rdisarm (c : Com) (port : Fin 8) (grp : Fin 64)
  -- group 7, system, pattern and bank (R287)
  | srd (c : Com) (d : Dst) (n : BitVec 12)
  | swr (c : Com) (n : BitVec 12) (a : Use Src)
  | tbr (c : Com) (d : Dst)
  | pmcr (c : Com) (d : Dst) (a : Use Src) (k : Fin 8) (clr : Bool)
  | take (c : Com)
  | doneg (c : Com) (a : Use Src)
  | yieldt (c : Com) (a : Use Src)
  | patr (c : Com) (d : Dst) (slot : Fin 4) (reg : Fin 16) (sh : Bool)
  | patw (c : Com) (slot : Fin 4) (reg : Fin 16) (a : Use Src)
  | patwC (c : Com) (slot : Fin 4) (reg : Fin 16) (a : Use Src)
  | prevoke (c : Com) (slot : Fin 4) (a : Use Src)
  | bkwake (c : Com) (a : Use Src) (k : BankSel)
  | bkhold (c : Com) (a : Use Src) (k : BankSel)
  | bkoff (c : Com) (a : Use Src) (k : BankSel)
  | bkstat (c : Com) (d : Dst) (k : BankSel)
  | spkill (c : Com) (d : Src) (a : Use Src) (off : Off)
  | swap (c : Com)
  | halt (c : Com)
  | dbgrd (c : Com) (d : Dst) (a : Use Src)
  | dbgwr (c : Com) (d : Src) (a : Use Src)
  | resume (c : Com) (d : Dst) (a : Use Src)
  | redir (c : Com) (d : Dst) (a b : Use Src) (drop : Bool)
  | kill (c : Com) (d : Dst) (a : Use Src)
  | fwait (c : Com) (d : Dst) (a : Use Src) (off : BitVec 24)
  -- words that are no instruction (R266, R289)
  | unassignedOpcode (raw : BitVec 128)
  | zeroedWordFetch (raw : BitVec 128)
  -- steps that the module makes by itself (R97-R250, R327-R411): these stand first so that compiled code can build them
  | queueRecordCheck (q : Fin 16)
  | holdStoreIntake (k : Nat)
  | heldRelease (id : Nat)
  | recordArrival (k : Nat)
  | istloadCopy (k : Nat)
  | outboundRecordSend (key : Nat)
  | msgAdmissionRefused (k : Nat)
  | laneGroupGrant (quad : Nat)
  | mxuGrant (quad : Nat)
  | autoSwap (key : Nat)
  | contextSwap (key : Nat)
  | groupOpApply (k : Nat)
  | groupRelease (k : Nat)
  | groupRefusalReturn (k : Nat)
  | sstepRelease (k : Nat)
  | rampStep (quad : Nat)
  | domainSwitch (cl : Nat)
  | domainSwitchEnd (cl : Nat)
  | calibration (p : Fin 8)
  | laserWakeDone (p : Fin 8) (g : Fin 9)
  | laserWakeFail (p : Fin 8) (g : Fin 9)
  | laserHoldExpire (p : Fin 8) (g : Fin 9)
  | pourAnnounceStart (p : Fin 8) (n : Fin 64)
  | pourEdgesSatisfied (p : Fin 8) (n : Fin 64) (seq : BitVec 16)
  | announcement (p : Fin 8)
  | rolltoExpire (p : Fin 8) (n : Fin 64)
  | pourComplete (p : Fin 8) (n : Fin 64) (seq : BitVec 16)
  | takeResume (key : Nat)
  | seam (cl : Nat) (slot : Fin 4)
  | patternEventSignal (cl : Nat) (slot : Fin 4)
  | bankIdleOff (key : Nat) (b : BankOf) (k : Fin 32)
  | bankRetainEntry (key : Nat) (b : BankOf) (k : Fin 32)
  | bankWakeDone (key : Nat) (b : BankOf) (k : Fin 32)
  | killpendApply (quad : Nat) (k : Nat)
  | loadReply (k : Nat)
  | writePerform (k : Nat)
  | monitorNotify (key : Nat) (ctx : Bool)
  | writeAck (k : Nat)
  | tlbInvalidate (cl : Nat) (v : Word)
  | jobStart (cl : Nat) (k : Nat)
  | ladleBurst (cl : Nat) (eng : Bool)
  | ladleJobComplete (cl : Nat) (k : Nat)
  | faultPacketArrive (key : Nat)
  | epiStoreFault (quad : Nat) (k : Nat)
  | spillComplete (key : Nat)
  | restoreComplete (key : Nat)
  | mmarTileReceive (key : Nat) (ctx : Bool)
  | voltageTargetReached (dom : Fin 4)
  -- reset, boot, life cycle, alarm and errors (R23, R87-R95, R149)
  | moduleReset
  | wipeComplete
  | fwlockWrite (v : Word)
  | bootGo (fw : FwInit)
  | featAccLower (v : Word)
  | featAccUpper (v : Word)
  | attestRequest (v : Word)
  | attestReportDone
  | lifecycleChange (v : Word)
  | alarmTamper
  | alarmGlitch
  | overTemperatureHalt
  | supplyFault
  | thermalThrottle (cl : Nat)
  | thermalThrottleEnd (cl : Nat)
  | currentThrottle (dom : Fin 4)
  | currentThrottleEnd (dom : Fin 4)
  | slewExceed (dom : Fin 4)
  | errorCorrected (u : ErrUnit)
  | poisonMark (u : ErrUnit) (addr : Nat)
  -- host, events and launch (R75-R86, R96-R109)
  | hostMemAccess (wr : Bool) (addr : Nat) (len : Nat) (data : List Byte)
  | queueDisable (q : Fin 16)
  | counterReadClear (off : Nat)
  | registerWrite (off : Nat) (v : Word)
  | eventArm (v : Word)
  | eventFree (id : Nat)
  | eventSignal (id : Nat)
  | commandLinkMessage (link : Nat) (toLeaf : Bool) (m : Packet)
  | permitReturn (link : Nat) (toLeaf : Bool) (n : Nat)
  -- arbiter, swaps and groups (R114-R117, R139-R143, R163, R172-R174)
  | quadwWrite (quad : Nat) (v : Word)
  | engshrWrite (tower : Fin 4) (v : Word)
  | podBarrierCensus (row : List Int)
  -- power and time (R145-R151)
  | frequencyRequest (dom : Fin 4) (v : Word)
  | timebaseLoad (cl : Nat)
  | timebaseSteer (offs : Int)
  -- Runner segments (R32-R41)
  | portEnable (p : Fin 8) (v : Word)
  | portDisable (p : Fin 8)
  | calibrationComplete (p : Fin 8) (m : CalMeas)
  | rwlimWrite (p : Fin 8) (v : Word)
  | rwlimAdopt (p : Fin 8) (v : Option (BitVec 4))
  | alignError (p : Fin 8) (aerr : Option (BitVec 8))
  | driftStep (p : Fin 8) (aerr : BitVec 8)
  | probeSlot (p : Fin 8) (data ctl : List Int)
  | clockLoss (p : Fin 8)
  | clockRelock (p : Fin 8)
  | rplasWrite (p : Fin 8) (v : Word)
  | groupEntryInvalidate (p : Fin 8) (n : Fin 64)
  -- pours (R53-R72)
  | announcementCycleEnd (p : Fin 8) (r0 r1 r2 r3 : BitVec 16)
  | roundFrame (p : Fin 8) (f : FrameIn)
  | skimFrame (p : Fin 8) (f : FrameIn)
  -- pattern unit (R122, R123, R129, R134, R137)
  | patternActivate (cl : Nat) (slot : Fin 4) (v : Word)
  | patternDeactivate (cl : Nat) (slot : Fin 4)
  -- banks (R185, R188, R189)
  | bkcfgWrite (key : Nat) (v : Word)
  -- fabric, translation and base dies (R205-R208, R214, R343, R430)
  | tlbWalk (key : Nat) (va : Word)
  | msqHold (stack : Fin 16) (unit : BitVec 24)
  | msqRelease (stack : Fin 16) (unit : BitVec 24)
  | msqDrop (stack : Fin 16) (unit : BitVec 24)
  -- Ladle jobs, faults and supervision (R226, R234, R235, R239-R246, R393, R410, R411)
  | corectlSwap (key : Nat)
  | corectlFreeze (key : Nat) (ctx : Bool)
  | corectlSpill (key : Nat) (ctx : Bool)
  | corectlRestore (key : Nat) (ctx : Bool)
  deriving DecidableEq, Repr

end Sys2Proof
end

