-- ==== Sys2Proof/WellFormed.lean ====
section
/-! DEFINITION. Which terms of Instr are instructions: the value rules that the operand types do not already carry (R273, R289 and
the entries). Decode refuses an encoding whose term is not well-formed; on every agent such a word raises ILLOP. -/

namespace Sys2Proof

/-- The integer element types (R250). -/
def Ty.isInt : Ty → Bool
  | .i8 | .z8 | .i16 | .z16 | .i32 | .z32 | .i64 | .i4 => true
  | .bf16 | .f32 | .t8 | .t6 => false

/-- The IEEE element types (R253). -/
def Ty.isFloat : Ty → Bool
  | .bf16 | .f32 => true
  | _ => false

/-- Elements of a V view (R351). -/
def Ty.count : Ty → Nat
  | .i8 | .z8 | .t8 | .t6 => 256
  | .i16 | .z16 | .bf16 => 128
  | .i32 | .z32 | .f32 => 64
  | .i64 => 32
  | .i4 => 512

/-- PRED = `1000` is reserved (R274). -/
def Pred.wf (p : Pred) : Bool := !(p.neg && p.p == 0)

/-- PRED = `0000`, required where an entry ignores PRED (R274). -/
def Com.wf (c : Com) : Bool := c.pred.wf

/-- No rounding override (R272). -/
def Rnd.isNone (r : Rnd) : Bool := !r.ro && r.rmo == .rne

/-- SAT only for integer TY, RO and RMO only for types whose results round (R354). -/
def VX.wf (x : VX) (satOk rndOk : Bool) : Bool := (!x.sat || satOk) && (rndOk || x.rnd.isNone)

/-- The spaces of R360 and R398: glb, spm, cls, twr and rmt. -/
def Space.vecOk : Space → Bool
  | .glb | .spm | .cls | .twr | .rmt => true
  | _ => false

/-- The spaces of RADD, SWARM, WAITW and PUTSIG's sync word (R332, R334). -/
def Space.syncOk : Space → Bool := Space.vecOk

/-- Selectors of loads: every space with a selector; `ist` is refused as PROT when the load issues (R195, R328). LU on spm loads only (R196). -/
def MemOp.loadOk (m : MemOp) : Bool := !m.lu || m.sel == .spm

/-- LU never (R196). -/
def MemOp.storeOk (m : MemOp) : Bool := !m.lu

/-- The full/empty forms act on spm or rmt (R330); LU as the entry allows. -/
def MemOp.feOk (m : MemOp) (luOk : Bool) : Bool :=
  (m.sel == .spm && (!m.lu || luOk)) || (m.sel == .rmt && !m.lu)

/-- Sync-word operands: no lane, no ist, no LU (R334). -/
def MemOp32.syncWf (m : MemOp32) : Bool := m.sel.syncOk && !m.lu

/-- A vector or matrix load's memory operand (R360, R398). -/
def MemOp32.vloadWf (m : MemOp32) (luOk : Bool) : Bool := m.sel.vecOk && (!m.lu || (luOk && m.sel == .spm))

/-- A vector store's memory operand: every hint raises ILLOP (R360). -/
def MemOp32.vstoreWf (m : MemOp32) : Bool := m.sel.vecOk && !m.lu && !m.na

/-- LEN of a PUT or a GET (R332). -/
def putLenOk (len : BitVec 32) : Bool := 8 ≤ len.toNat && len.toNat ≤ 16384 && len.toNat % 8 == 0

/-- LEN of LDL and LDLZ (R408). -/
def ldlLenOk (len : BitVec 32) : Bool := 8 ≤ len.toNat && len.toNat % 8 == 0

/-- Spaces of a Ladle source (R407): SSP 5 and 4 raise ILLOP (R408). -/
def Space.ladleSrc : Space → Bool
  | .glb | .spm | .cls | .twr | .rmt => true
  | .lane | .ist => false

/-- Spaces of a Ladle destination (R407). -/
def Space.ladleDst : Space → Bool
  | .lane => false
  | _ => true

/-- C must be 0 when there is no sync word (R408). -/
def syncOperandOk (ysp : SyncSp) (c : Src) : Bool := ysp != .none || c == .g 0

/-- The shared rules of LDL and LDL2D (R408). -/
def LadleOp.wf (o : LadleOp) : Bool := o.ssp.ladleSrc && o.dsp.ladleDst && syncOperandOk o.ysp o.c

/-- The shared rules of a pour (R416). -/
def PourOp.wf (o : PourOp) : Bool := o.ysp != .none && 1 ≤ o.count.toNat && o.count.toNat ≤ 2 ^ 28

/-- Reduction and scan: RO only for a floating-point add (R354, R377, R378). -/
def rndAdd (ty : Ty) (isAdd : Bool) : Bool := isAdd && ty.isFloat

/-- VCVT rounds unless it copies, stays within the integers, or widens exactly into FP32 (R261, R354, R373). -/
def cvtRounds (dst src : Ty) : Bool :=
  dst != src && !(dst.isInt && src.isInt) && !(dst == .f32 && (src == .bf16 || src == .t8 || src == .t6))

/-- PART of VCVT (R373). -/
def cvtPartOk (dst src : Ty) (part : Fin 16) : Bool :=
  part.val < Nat.max (dst.count / src.count) (src.count / dst.count)

/-- Every rule of value that an instruction's entry makes. -/
def Instr.wf : Instr → Bool
  | .nop c _ | .br c _ | .call c _ | .ret c | .end_ c | .trap c _ | .brk c => c.wf
  | .brc c _ _ _ _ | .brz c _ _ | .brnz c _ _ | .brpAny c _ _ | .brpAll c _ _ | .callr c _ | .jmpr c _ => c.wf
  | .loop c _ imm => c.wf && decide (0 < imm.toInt)
  | .add c .. | .sub c .. | .and c .. | .or c .. | .xor c .. | .andn c .. | .shl c .. | .shr c .. | .sra c .. | .rotl c ..
  | .min c .. | .max c .. | .minz c .. | .maxz c .. | .addi c .. | .andi c .. | .ori c .. | .xori c .. | .shli c ..
  | .shri c .. | .srai c .. | .mul c .. | .mulh c .. | .mulhz c .. | .div c .. | .divz c .. | .rem c .. | .remz c ..
  | .clz c .. | .ctz c .. | .popc c .. | .sel c .. | .setc c .. | .li24 c .. | .li32 c .. | .li64 c .. | .lea c .. => c.wf
  | .sext c _ _ n | .zext c _ _ n => c.wf && decide (n ≠ 0)
  | .bfx c _ _ pos len | .bfi c _ _ pos len => c.wf && decide (1 ≤ len.val) && decide (pos.val + len.val ≤ 64)
  | .fadd c .. | .fsub c .. | .fmul c .. | .ffma c .. | .fmin c .. | .fmax c .. | .fsqrt c .. | .fcvt c .. => c.wf
  | .fcmp c cond _ _ _ => c.wf && !(cond == .ltz || cond == .gez || cond == .lez || cond == .gtz)
  | .ld c _ _ m => c.wf && m.loadOk
  | .st c _ _ m => c.wf && m.storeOk
  | .ldw c _ m | .lde c _ m => c.wf && m.feOk true
  | .stw c _ m | .stf c _ m | .fesetE c m | .fesetF c m => c.wf && m.feOk false
  | .put c _ _ sp len => c.wf && sp != .spm && sp != .lane && putLenOk len
  | .get c _ _ sp len => c.wf && sp != .spm && sp != .lane && sp != .ist && putLenOk len
  | .putsig c _ _ _ sp ssp len => c.wf && sp != .spm && sp != .lane && ssp.syncOk && putLenOk len
  | .radd c _ m => c.wf && m.sel.syncOk && !m.lu
  | .bind c _ _ _ rsp _ => c.wf && (rsp == .glb || rsp == .cls || rsp == .twr || rsp == .rmt)
  | .unbind c .. | .acq c .. | .rel c .. | .cntw c .. | .stage c .. => c.wf
  | .fence p _ => p.wf
  | .amo c _ _ _ m _ | .amoCas c _ _ m _ _ | .amofAdd c _ m _ => c.wf && m.sel.vecOk && !m.lu
  | .grpnew c .. | .grpinit c .. | .grpfree c .. | .join c .. | .leave c .. | .sync c .. | .sstep c .. | .waitg c .. => c.wf
  | .swarm c _ m _ | .waitw c _ m _ => c.wf && m.syncWf
  | .forkr c _ _ _ _ _ _ _ lim entry cont => c.wf && decide (lim.toNat < 10240) && entry.toNat % 4 == 0 && cont.toNat % 4 == 0
  | .joinc c .. | .qpoll c .. | .msg c .. => c.wf
  | .vwsetReg .. | .vwsetImm .. | .vwadv .. | .mbsetReg .. | .mbsetImm .. => true
  | .vld c _ _ m => c.wf && m.vloadWf true
  | .vst c _ _ m => c.wf && m.vstoreWf
  | .vldl c .. | .vstl c .. => c.wf
  | .vgath c _ _ m _ _ => c.wf && m.vloadWf true
  | .vscat c _ _ m _ _ => c.wf && m.vstoreWf
  | .vadd c ty _ _ _ x | .vsub c ty _ _ _ x | .vmul c ty _ _ _ x | .vfma c ty _ _ _ _ x => c.wf && x.wf ty.isInt ty.isFloat
  | .vmin c .. | .vmax c .. => c.wf
  | .vabs c ty _ _ sat | .vneg c ty _ _ sat => c.wf && (!sat || ty.isInt)
  | .vand c .. | .vor c .. | .vxor c .. | .vandn c .. | .vshl c .. | .vshr c .. | .vsra c .. | .vsel c .. | .vbcast c .. => c.wf
  | .vcmp c _ _ d _ _ => c.wf && d != 0
  | .vcvt c ty _ _ src part x => c.wf && cvtPartOk ty src part && x.wf (ty.isInt && src.isInt) (cvtRounds ty src)
  | .vext _ ty _ idx => decide (idx.toNat < ty.count)
  | .vred c op ty _ r => c.wf && (r.isNone || rndAdd ty (op == .add))
  | .vscan c op ty _ _ x => c.wf && x.wf (ty.isInt && op == .add) (rndAdd ty (op == .add))
  | .vwadd c ty _ _ _ _ _ x | .vwmul c ty _ _ _ _ _ x | .vdot c ty _ _ _ x => c.wf && x.wf ty.isInt (ty == .bf16)
  | .vperm c .. | .vshuf c .. => c.wf
  | .vslide c ty _ _ _ s => c.wf && decide (-(ty.count : Int) ≤ s.toInt) && decide (s.toInt < ty.count)
  | .vpand c _ d _ _ | .vpor c _ d _ _ | .vpnot c _ d _ => c.wf && d != 0
  | .vpcnt c _ _ => c.wf
  | .vbs .. => true
  | .vunbs c .. => c.wf
  | .vrcp c ty _ _ r | .vrsq c ty _ _ r | .vexp2 c ty _ _ r => c.wf && (r.isNone || ty.isFloat)
  | .mbld c _ _ m _ => c.wf && m.vloadWf false
  | .mma c .. | .mmar c .. | .mzero c .. | .mwait c => c.wf
  | .mmaRa c _ _ _ _ _ _ sp => c.wf && (sp == .glb || sp == .cls || sp == .twr || sp == .rmt)
  | .mtld c _ _ m _ _ _ | .mtldRb c _ _ m _ _ _ => c.wf && m.vloadWf false
  | .mepi96 c _ _ _ sp .. | .mepi128 c _ _ _ sp .. => c.wf && sp.vecOk
  | .macc c ty _ _ sat => c.wf && (!sat || ty != .f32)
  | .ldl c o len _ => c.wf && o.wf && ldlLenOk len
  | .ldl2d c o rowlen nrows _ dpitch => c.wf && o.wf && 8 ≤ rowlen.toNat && rowlen.toNat % 8 == 0 && 1 ≤ nrows.toNat &&
      decide (rowlen.toNat ≤ dpitch.toNat * 8)
  | .ldlz c _ _ x dsp ysp _ len => c.wf && dsp.ladleDst && syncOperandOk ysp x && ldlLenOk len
  | .ewait c .. | .ewaitN c .. | .rarm c .. | .rstat c .. | .rdisarm c .. => c.wf
  | .rpourInt c o ty => c.wf && o.wf && ty != 6 && !(ty == 0 && o.count.toNat % 2 == 1)
  | .rpourBs c o _ | .rskim c o | .rbcast c o _ => c.wf && o.wf
  | .srd c .. | .swr c .. | .tbr c .. | .pmcr c .. | .take c | .doneg c .. | .yieldt c .. | .patr c .. | .patw c .. | .patwC c ..
  | .prevoke c .. | .bkwake c .. | .bkhold c .. | .bkoff c .. | .bkstat c .. | .spkill c .. | .swap c | .halt c => c.wf
  | .dbgrd c .. | .dbgwr c .. | .resume c .. | .redir c .. | .kill c .. | .fwait c .. => c.wf
  -- a word that is no instruction, and the steps of the other agents, are not encoded
  | .unassignedOpcode _ | .zeroedWordFetch _ | .moduleReset | .wipeComplete | .fwlockWrite _ | .bootGo _ | .featAccLower _
  | .featAccUpper _ | .attestRequest _ | .attestReportDone | .lifecycleChange _ | .alarmTamper | .alarmGlitch
  | .overTemperatureHalt | .supplyFault | .thermalThrottle _ | .thermalThrottleEnd _ | .currentThrottle _
  | .currentThrottleEnd _ | .slewExceed _ | .errorCorrected _ | .poisonMark .. | .hostMemAccess .. | .queueRecordCheck _
  | .queueDisable _ | .counterReadClear _ | .registerWrite .. | .eventArm _ | .eventFree _ | .eventSignal _
  | .holdStoreIntake _ | .heldRelease _ | .commandLinkMessage .. | .permitReturn .. | .recordArrival _ | .istloadCopy _
  | .outboundRecordSend _ | .msgAdmissionRefused _ | .laneGroupGrant _ | .mxuGrant _ | .quadwWrite .. | .engshrWrite ..
  | .autoSwap _ | .contextSwap _ | .groupOpApply _ | .groupRelease _ | .groupRefusalReturn _ | .sstepRelease _ | .rampStep _
  | .podBarrierCensus _ | .domainSwitch _ | .domainSwitchEnd _ | .frequencyRequest .. | .voltageTargetReached _
  | .timebaseLoad _ | .timebaseSteer _ | .portEnable .. | .portDisable _ | .calibration _ | .calibrationComplete ..
  | .rwlimWrite .. | .rwlimAdopt .. | .alignError .. | .driftStep .. | .probeSlot .. | .clockLoss _ | .clockRelock _
  | .laserWakeDone .. | .laserWakeFail .. | .laserHoldExpire .. | .rplasWrite .. | .groupEntryInvalidate ..
  | .pourAnnounceStart .. | .pourEdgesSatisfied .. | .announcement _ | .announcementCycleEnd .. | .rolltoExpire ..
  | .roundFrame .. | .skimFrame .. | .pourComplete .. | .takeResume _ | .seam .. | .patternActivate .. | .patternDeactivate ..
  | .patternEventSignal .. | .bankIdleOff .. | .bankRetainEntry .. | .bankWakeDone .. | .bkcfgWrite .. | .killpendApply ..
  | .loadReply _ | .writePerform _ | .monitorNotify .. | .writeAck _ | .tlbWalk .. | .tlbInvalidate .. | .msqHold ..
  | .msqRelease .. | .msqDrop .. | .jobStart .. | .ladleBurst .. | .ladleJobComplete .. | .faultPacketArrive _
  | .epiStoreFault .. | .corectlSwap _ | .corectlFreeze .. | .corectlSpill .. | .spillComplete _ | .corectlRestore ..
  | .restoreComplete _ | .mmarTileReceive .. => false

end Sys2Proof
end

