-- ==== Sys2Proof/Decode.lean ====
section
/-! DEFINITION. The instruction formats of R266 to R287: the fields of a word, the decoder and the encoder.
The decoder takes a word apart, builds the instruction of its OP, FN and length, and accepts it when the instruction is
well-formed and every field the opcode does not use is zero (R273): that is, when encoding it again gives the same fields. -/

namespace Sys2Proof

/-- Why a word is no instruction. lenZero raises ILLFETCH (R266); every other one raises ILLOP (R289). -/
inductive DecodeError where
  | lenZero | unassigned | badLength | badMinor | badOperand | reserved
  deriving DecidableEq, Repr

/-- The fields of a word (R270, R271). hi is what lies above bit 63; x24 is IMM24 or EXT24. -/
structure Raw where
  len : Nat
  op : Nat
  pred : Nat := 0
  wt : Nat := 0
  d : Nat := 0
  a : Nat := 0
  b : Nat := 0
  la : Nat := 0
  lb : Nat := 0
  fn : Nat := 0
  x24 : Nat := 0
  hi : Nat := 0
  deriving DecidableEq, Repr

/-- The fields of EXT24 (R272). -/
structure Ext where
  c : Nat := 0
  lc : Nat := 0
  ro : Nat := 0
  rmo : Nat := 0
  ty : Nat := 0
  sat : Nat := 0
  opx : Nat := 0
  deriving DecidableEq, Repr

/-- Bytes of a word with length code n (R266): 8, 12 or 16. -/
def lenBytes (n : Nat) : Nat := 4 * (n + 1)

/-- The word of some fields (R270, R271). -/
def Raw.toNat (r : Raw) : Nat :=
  r.len + r.op * 2 ^ 2 + r.pred * 2 ^ 10 + r.wt * 2 ^ 14 + r.d * 2 ^ 16 + r.a * 2 ^ 22 + r.b * 2 ^ 28 + r.la * 2 ^ 34
    + r.lb * 2 ^ 35 + r.fn * 2 ^ 36 + r.x24 * 2 ^ 40 + r.hi * 2 ^ 64

/-- The fields of a word (R270, R271): bits above its length are not part of it. -/
def rawOfNat (w : Nat) : Raw :=
  { len := w % 4, op := w / 2 ^ 2 % 256, pred := w / 2 ^ 10 % 16, wt := w / 2 ^ 14 % 4, d := w / 2 ^ 16 % 64, a := w / 2 ^ 22 % 64
    b := w / 2 ^ 28 % 64, la := w / 2 ^ 34 % 2, lb := w / 2 ^ 35 % 2, fn := w / 2 ^ 36 % 16, x24 := w / 2 ^ 40 % 2 ^ 24
    hi := w / 2 ^ 64 % (if w % 4 = 3 then 2 ^ 64 else if w % 4 = 2 then 2 ^ 32 else 1) }

/-- EXT24 from its fields (R272). -/
def Ext.toNat (e : Ext) : Nat :=
  e.c + e.lc * 2 ^ 6 + e.ro * 2 ^ 7 + e.rmo * 2 ^ 8 + e.ty * 2 ^ 10 + e.sat * 2 ^ 14 + e.opx * 2 ^ 15

/-- The fields of EXT24 (R272). -/
def extOfNat (x : Nat) : Ext :=
  { c := x % 64, lc := x / 2 ^ 6 % 2, ro := x / 2 ^ 7 % 2, rmo := x / 2 ^ 8 % 4, ty := x / 2 ^ 10 % 16, sat := x / 2 ^ 14 % 2
    opx := x / 2 ^ 15 % 512 }

/-! ### Codes of the operand types -/

/-- R275, as a source. -/
def encSrc : Src → Nat
  | .g n => n.val
  | .q n => 48 + n.val
  | .q4 => 52 | .q5 => 53 | .q6 => 54 | .q7 => 55
  | .t n => 56 + n.val

/-- R275, as a destination. -/
def encDst : Dst → Nat
  | .g n => n.val
  | .q n => 48 + n.val

/-- R275. -/
def decSrc (n : Nat) : Except DecodeError Src :=
  if h : n < 48 then .ok (.g ⟨n, h⟩)
  else if n < 52 then .ok (.q (Fin.ofNat 4 (n - 48)))
  else if n = 52 then .ok .q4
  else if n = 53 then .ok .q5
  else if n = 54 then .ok .q6
  else if n = 55 then .ok .q7
  else if n < 60 then .ok (.t (Fin.ofNat 4 (n - 56)))
  else .error .badOperand

/-- R275: q4-q7 and t0-t3 raise ILLOP as a destination. -/
def decDst (n : Nat) : Except DecodeError Dst :=
  if h : n < 48 then .ok (.g ⟨n, h⟩)
  else if n < 52 then .ok (.q (Fin.ofNat 4 (n - 48)))
  else .error .badOperand

/-- A code below k (R276, R384). -/
def decFin (k n : Nat) : Except DecodeError (Fin k) :=
  if h : n < k then .ok ⟨n, h⟩ else .error .badOperand

/-- The n-th name of a list: the codes of an enumeration, in order. -/
def decName {α : Type} (l : List α) (n : Nat) (e : DecodeError) : Except DecodeError α :=
  match l[n]? with
  | some x => .ok x
  | none => .error e

/-- Codes 0 to 11 of R178. -/
def tyNames : List Ty := [.i8, .z8, .i16, .z16, .i32, .z32, .i64, .bf16, .f32, .t8, .t6, .i4]
/-- Selectors 0 to 6 of R195. -/
def spaceNames : List Space := [.glb, .spm, .cls, .twr, .lane, .ist, .rmt]
/-- FN of the MMA rows (R285). -/
def mmaNames : List MmaTy := [.i8, .t8, .t6, .i4, .bf16]
/-- Conditions 0 to 9 (R288). -/
def condNames : List Cond := [.eq, .ne, .lt, .ge, .le, .gt, .ltz, .gez, .lez, .gtz]
/-- `STATUS.RM` (R159). -/
def rmNames : List Rm := [.rne, .rtz, .rdn, .rup]
/-- FN of LD (R328). -/
def ldNames : List LdKind := [.z8, .s8, .z16, .s16, .z32, .s32, .d64]
/-- FN of ST (R328). -/
def stNames : List StKind := [.b8, .b16, .b32, .b64]
/-- FN of FCVT (R325). -/
def cvtNames : List FCvt := [.i32f, .z32f, .i64f, .fi32, .fz32, .fi64, .bff, .fbf, .t8f, .ft8, .t6f, .ft6]
/-- FN 0 to 8 of AMO (R340). -/
def amoNames : List AmoOp := [.add, .and, .or, .xor, .min, .max, .minz, .maxz, .swap]
/-- FN of CNTW; FENCE adds 1 (R337). -/
def clsNames : List Cls := [.clu, .mod, .sys]
/-- Scope of FORKR (R347). -/
def scopeNames : List Scope := [.cluster, .tower, .module]
/-- FN of VRED (R377). -/
def redNames : List RedOp := [.add, .max, .min, .and, .or]
/-- FN of VSCAN (R378). -/
def scanNames : List ScanOp := [.add, .max]
/-- Mode of VSHUF (R379). -/
def shufNames : List ShufMode := [.lo, .hi, .ev, .od]
/-- IMM24[0] of the bank instructions (R427). -/
def bankNames : List BankSel := [.rs, .spm]
/-- OPX[0] and OPX[1] of a pour (R416). -/
def pourSpNames : List PourSp := [.glb, .twr]
/-- The 2-bit sync-word space (R407). -/
def syncSpNames : List SyncSp := [.none, .spm, .cls, .twr]

/-- OSP (R335): 0 glb, 1 spm, 2 cls, 3 twr, 6 rmt, 7 group. -/
def encOsp : Osp → Nat
  | .glb => 0 | .spm => 1 | .cls => 2 | .twr => 3 | .rmt => 6 | .grp => 7

/-- OSP (R335). -/
def decOsp (n : Nat) : Except DecodeError Osp :=
  match n with
  | 0 => .ok .glb | 1 => .ok .spm | 2 => .ok .cls | 3 => .ok .twr | 6 => .ok .rmt | 7 => .ok .grp
  | _ => .error .reserved

/-! ### Building an instruction from its fields -/

/-- PRED and WT (R270, R274). -/
def comOf (r : Raw) : Com := { pred := { neg := decide (r.pred / 8 = 1), p := Fin.ofNat 8 r.pred }, wt := Fin.ofNat 4 r.wt }
/-- A one-bit field. -/
def flag (n : Nat) : Bool := decide (n = 1)
/-- A class S operand with its last-use bit. -/
def useS (n l : Nat) : Except DecodeError (Use Src) := do return ⟨← decSrc n, flag l⟩
/-- A class V, P or B operand with its last-use bit. -/
def useN (k n l : Nat) : Except DecodeError (Use (Fin k)) := do return ⟨← decFin k n, flag l⟩
/-- A, class S. -/
def fA (r : Raw) : Except DecodeError (Use Src) := useS r.a r.la
/-- B, class S. -/
def fB (r : Raw) : Except DecodeError (Use Src) := useS r.b r.lb
/-- A, class V. -/
def vA (r : Raw) : Except DecodeError (Use (Fin 16)) := useN 16 r.a r.la
/-- B, class V. -/
def vB (r : Raw) : Except DecodeError (Use (Fin 16)) := useN 16 r.b r.lb
/-- EXT24. -/
def fX (r : Raw) : Ext := extOfNat r.x24
/-- C, class S. -/
def fC (r : Raw) : Except DecodeError (Use Src) := useS (fX r).c (fX r).lc
/-- C, class V. -/
def vC (r : Raw) : Except DecodeError (Use (Fin 16)) := useN 16 (fX r).c (fX r).lc
/-- TY (R272): 12 to 15 are reserved. -/
def fTy (r : Raw) : Except DecodeError Ty := decName tyNames (fX r).ty .reserved
/-- RO and RMO. -/
def fRnd (r : Raw) : Rnd := { ro := flag (fX r).ro, rmo := rmNames.getD (fX r).rmo .rne }
/-- SAT, RO and RMO. -/
def fVX (r : Raw) : VX := { sat := flag (fX r).sat, rnd := fRnd r }
/-- IMM24. -/
def imm24 (r : Raw) : BitVec 24 := BitVec.ofNat 24 r.x24
/-- IMM24 or IMM32 by length (R278). -/
def fOff (r : Raw) : Except DecodeError Off :=
  if r.len = 1 then .ok (.imm24 (imm24 r)) else if r.len = 2 then .ok (.imm32 (BitVec.ofNat 32 r.hi)) else .error .badLength
/-- A memory operand (R278). -/
def fMem (r : Raw) : Except DecodeError MemOp := do
  return { base := ← fA r, sel := ← decName spaceNames (r.b % 8) .reserved, lu := flag (r.b / 8 % 2), na := flag (r.b / 16 % 2), off := ← fOff r }
/-- A memory operand with IMM32 at the given place of hi. -/
def fMem32 (r : Raw) (off : Nat) : Except DecodeError MemOp32 := do
  return { base := ← fA r, sel := ← decName spaceNames (r.b % 8) .reserved, lu := flag (r.b / 8 % 2), na := flag (r.b / 16 % 2)
           off := BitVec.ofNat 32 off }
/-- SAT and length-independent three-operand scalar shape. -/
def bSSS (r : Raw) (k : Com → Dst → Use Src → Use Src → Instr) : Except DecodeError Instr := do
  return k (comOf r) (← decDst r.d) (← fA r) (← fB r)
/-- D and A. -/
def bSS (r : Raw) (k : Com → Dst → Use Src → Instr) : Except DecodeError Instr := do
  return k (comOf r) (← decDst r.d) (← fA r)
/-- D, A, B of class V with TY. -/
def bVVV (r : Raw) (k : Com → Ty → Fin 16 → Use (Fin 16) → Use (Fin 16) → Instr) : Except DecodeError Instr := do
  return k (comOf r) (← fTy r) (← decFin 16 r.d) (← vA r) (← vB r)
/-- D and A of class V with TY. -/
def bVV (r : Raw) (k : Com → Ty → Fin 16 → Use (Fin 16) → Instr) : Except DecodeError Instr := do
  return k (comOf r) (← fTy r) (← decFin 16 r.d) (← vA r)
/-- The override form of a scalar float instruction (R321). -/
def fForm (r : Raw) : FForm := if r.len = 1 then .short else .long (fRnd r)
/-- The shared operands of LDL and LDL2D (R408). -/
def fLadle (r : Raw) : Except DecodeError LadleOp := do
  let o := (fX r).opx
  return { d := ← decDst r.d, a := ← fA r, b := ← fB r, c := ← decSrc (fX r).c, ssp := ← decName spaceNames (o % 8) .reserved
           dsp := ← decName spaceNames (o / 8 % 8) .reserved, ysp := ← decName syncSpNames (o / 64 % 4) .reserved, q5 := flag (o / 256) }
/-- The shared operands of a pour (R416). -/
def fPour (r : Raw) : Except DecodeError PourOp := do
  let o := (fX r).opx
  return { src := ← decSrc r.d, dst := ← fA r, sync := ← fB r, seqev := ← fC r
           ssp := ← decName pourSpNames (o % 2) .reserved, dsp := ← decName pourSpNames (o / 2 % 2) .reserved
           ysp := ← decName syncSpNames (o / 4 % 4) .reserved, q7 := flag (o / 16 % 2), count := BitVec.ofNat 32 r.hi
           grp := Fin.ofNat 64 (r.hi / 2 ^ 32), port := Fin.ofNat 8 (r.hi / 2 ^ 38) }

/-- Group 0 (R280). -/
def build0 (r : Raw) : Except DecodeError Instr :=
  let c := comOf r
  match r.op with
  | 0x00 => if r.len = 1 then .ok (.nop c .x64) else if r.len = 2 then .ok (.nop c .x96) else .ok (.nop c .x128)
  | 0x01 => .ok (.br c (imm24 r))
  | 0x02 => do return .brc c (← decName condNames r.fn .badMinor) (← fA r) (← fB r) (imm24 r)
  | 0x03 => do return .brz c (← fA r) (imm24 r)
  | 0x04 => do return .brnz c (← fA r) (imm24 r)
  | 0x05 => do
    let a ← useN 8 r.a r.la
    match r.fn with
    | 0 => return .brpAny c a (imm24 r)
    | 1 => return .brpAll c a (imm24 r)
    | _ => .error .badMinor
  | 0x06 => .ok (.call c (imm24 r))
  | 0x07 => do return .callr c (← fA r)
  | 0x08 => .ok (.ret c)
  | 0x09 => do return .jmpr c (← fA r)
  | 0x0A => do return .loop c (← fA r) (imm24 r)
  | 0x0B => .ok (.end_ c)
  | 0x0C => .ok (.trap c (BitVec.ofNat 8 r.x24))
  | 0x0D => .ok (.brk c)
  | _ => .error .unassigned

/-- Group 1 (R281). -/
def build1 (r : Raw) : Except DecodeError Instr :=
  let c := comOf r
  match r.op with
  | 0x20 => match r.fn with
    | 0 => bSSS r .add | 1 => bSSS r .sub | 2 => bSSS r .and | 3 => bSSS r .or | 4 => bSSS r .xor | 5 => bSSS r .andn
    | 6 => bSSS r .shl | 7 => bSSS r .shr | 8 => bSSS r .sra | 9 => bSSS r .rotl | 10 => bSSS r .min | 11 => bSSS r .max
    | 12 => bSSS r .minz | 13 => bSSS r .maxz | _ => .error .badMinor
  | 0x21 => match r.fn with
    | 0 => bSS r (.addi · · · (imm24 r)) | 2 => bSS r (.andi · · · (imm24 r)) | 3 => bSS r (.ori · · · (imm24 r))
    | 4 => bSS r (.xori · · · (imm24 r)) | 6 => bSS r (.shli · · · (Fin.ofNat 64 r.x24)) | 7 => bSS r (.shri · · · (Fin.ofNat 64 r.x24))
    | 8 => bSS r (.srai · · · (Fin.ofNat 64 r.x24)) | _ => .error .badMinor
  | 0x22 => match r.fn with
    | 0 => bSSS r .mul | 1 => bSSS r .mulh | 2 => bSSS r .mulhz | 3 => bSSS r .div | 4 => bSSS r .divz | 5 => bSSS r .rem
    | 6 => bSSS r .remz | _ => .error .badMinor
  | 0x23 => match r.fn with
    | 0 => bSS r .clz | 1 => bSS r .ctz | 2 => bSS r .popc | 3 => bSS r (.sext · · · (Fin.ofNat 65 r.x24))
    | 4 => bSS r (.zext · · · (Fin.ofNat 65 r.x24)) | _ => .error .badMinor
  | 0x24 => do return .sel c (← decDst r.d) (← fA r) (← fB r) (← fC r)
  | 0x25 => do return .setc c (← decName condNames r.fn .badMinor) (← decDst r.d) (← fA r) (← fB r)
  | 0x26 => do
    let d ← decDst r.d
    if r.len = 1 then return .li24 c d (imm24 r)
    else if r.len = 2 then return .li32 c d (flag (fX r).opx) (BitVec.ofNat 32 r.hi)
    else return .li64 c d (BitVec.ofNat 64 r.hi)
  | 0x27 => do return .lea c (← decFin 4 r.fn) (← decDst r.d) (← fA r) (← fB r) (← fOff r)
  | 0x28 => bSS r (.bfx · · · (Fin.ofNat 64 r.x24) (Fin.ofNat 128 (r.x24 / 64)))
  | 0x29 => do return .bfi c (← decFin 48 r.d) (← fA r) (Fin.ofNat 64 r.x24) (Fin.ofNat 128 (r.x24 / 64))
  | 0x2A => match r.fn with
    | 0 => bSSS r (.fadd · (fForm r)) | 1 => bSSS r (.fsub · (fForm r)) | 2 => bSSS r (.fmul · (fForm r))
    | 3 => do return .ffma c (fRnd r) (← decDst r.d) (← fA r) (← fB r) (← fC r)
    | 4 => bSSS r .fmin | 5 => bSSS r .fmax | 6 => bSS r (.fsqrt · (fForm r)) | _ => .error .badMinor
  | 0x2B => do return .fcmp c (← decName condNames r.fn .badMinor) (← decDst r.d) (← fA r) (← fB r)
  | 0x2C => do return .fcvt c (← decName cvtNames r.fn .badMinor) (fForm r) (← decDst r.d) (← fA r)
  | _ => .error .unassigned

/-- Group 2 (R282). -/
def build2 (r : Raw) : Except DecodeError Instr :=
  let c := comOf r
  match r.op with
  | 0x40 => do return .ld c (← decName ldNames r.fn .badMinor) (← decDst r.d) (← fMem r)
  | 0x41 => do return .st c (← decName stNames r.fn .badMinor) (← decSrc r.d) (← fMem r)
  | 0x42 => do return .ldw c (← decDst r.d) (← fMem r)
  | 0x43 => do return .lde c (← decDst r.d) (← fMem r)
  | 0x44 => do return .stw c (← decSrc r.d) (← fMem r)
  | 0x45 => do return .stf c (← decSrc r.d) (← fMem r)
  | 0x46 => do
    let m ← fMem r
    match r.fn with
    | 0 => return .fesetE c m
    | 1 => return .fesetF c m
    | _ => .error .badMinor
  | 0x47 => do return .put c (← decSrc r.d) (← decSrc r.a) (← decName spaceNames (r.b % 8) .reserved) (BitVec.ofNat 32 r.hi)
  | 0x48 => do return .get c (← decSrc r.d) (← decSrc r.a) (← decName spaceNames (r.b % 8) .reserved) (BitVec.ofNat 32 r.hi)
  | 0x49 => do
    return .putsig c (← decSrc r.d) (← decSrc r.a) (← decSrc (fX r).c) (← decName spaceNames (r.b % 8) .reserved)
      (← decName spaceNames (r.hi / 2 ^ 32 % 8) .reserved) (BitVec.ofNat 32 r.hi)
  | 0x4A => do return .radd c (← decSrc r.d) (← fMem r)
  | 0x4B => do
    return .bind c (← decSrc r.d) (← fA r) (BitVec.ofNat 40 r.hi) (← decName spaceNames (r.hi / 2 ^ 40 % 8) .reserved)
      (← decOsp (r.hi / 2 ^ 43 % 8))
  | 0x4C => do return .unbind c (← fA r) (← decOsp (r.x24 % 8))
  | 0x4D => do return .acq c (← fA r) (← decOsp (r.x24 % 8))
  | 0x4E => do return .rel c (← fA r) (← decOsp (r.x24 % 8))
  | 0x4F => do return .fence c.pred (← decName clsNames (r.fn - 1) .badMinor)
  | 0x50 => do return .cntw c (← decName clsNames r.fn .badMinor) (Fin.ofNat 513 r.x24)
  | 0x51 => do return .stage c (← decFin 16 r.a)
  | _ => .error .unassigned

/-- Group 3 (R283). -/
def build3 (r : Raw) : Except DecodeError Instr :=
  let c := comOf r
  match r.op with
  | 0x60 => do
    let w64 := flag ((fX r).ty / 2 % 2)
    if r.fn = 9 then
      return .amoCas c w64 (← decDst r.d) (← fMem32 r (r.hi / 2 ^ 32)) (← decSrc (fX r).c) (← decSrc (r.hi % 64))
    else return .amo c (← decName amoNames r.fn .badMinor) w64 (← decDst r.d) (← fMem32 r r.hi) (← decSrc (fX r).c)
  | 0x61 => do return .amofAdd c (← decDst r.d) (← fMem32 r r.hi) (← fC r)
  | 0x62 => do return .grpnew c (← decDst r.d)
  | 0x63 => do return .grpinit c (← fA r) (BitVec.ofNat 12 r.x24)
  | 0x64 => do return .grpfree c (← fA r) (BitVec.ofNat 12 r.x24)
  | 0x65 => bSS r (.join · · · (BitVec.ofNat 12 r.x24))
  | 0x66 => do return .leave c (← fA r) (BitVec.ofNat 12 r.x24)
  | 0x67 => bSS r (.sync · · · (BitVec.ofNat 12 r.x24))
  | 0x68 => bSS r (.sstep · · · (BitVec.ofNat 12 r.x24))
  | 0x69 => do return .swarm c (← decDst r.d) (← fMem32 r r.hi) (← fC r)
  | 0x6A => do return .waitw c (← decDst r.d) (← fMem32 r r.hi) (← fC r)
  | 0x6B => bSS r (.waitg · · · (BitVec.ofNat 12 r.x24))
  | 0x6C => do
    return .forkr c (← decName scopeNames (r.hi / 2 ^ 30 % 4) .reserved) (← decDst r.d) (← fA r) (← fB r) (← decSrc (fX r).c)
      (BitVec.ofNat 6 (fX r).opx) (BitVec.ofNat 16 r.hi) (BitVec.ofNat 14 (r.hi / 2 ^ 16)) (BitVec.ofNat 15 (r.hi / 2 ^ 32))
      (BitVec.ofNat 15 (r.hi / 2 ^ 48))
  | 0x6D => do return .joinc c (← fA r) (imm24 r)
  | 0x6E => do return .qpoll c (← decDst r.d) (Fin.ofNat 8 r.x24)
  | 0x6F => do return .msg c (← fA r) (BitVec.ofNat 32 r.hi)
  | _ => .error .unassigned

/-- Group 4 (R284). -/
def build4 (r : Raw) : Except DecodeError Instr :=
  let c := comOf r
  let x := fX r
  match r.op with
  | 0x80 => do
    let d ← decFin 16 r.d
    if r.len = 1 then return .vwsetReg c.wt d (← decSrc r.a) else return .vwsetImm c.wt d (BitVec.ofNat 64 r.hi)
  | 0x81 => do return .vwadv c.wt (← decFin 16 r.d) (← fA r)
  | 0x82 => do return .vld c (← fTy r) (← decFin 16 r.d) (← fMem32 r r.hi)
  | 0x83 => do return .vst c (← fTy r) (← decFin 16 r.d) (← fMem32 r r.hi)
  | 0x84 => do
    let idx ← if x.opx % 2 = 1 then (do return some (← vC r)) else .ok none
    return .vldl c (← fTy r) (← decFin 16 r.d) (← fA r) (BitVec.ofNat 32 r.hi) idx
  | 0x85 => do
    let idx ← if x.opx % 2 = 1 then (do return some (← vC r)) else .ok none
    return .vstl c (← fTy r) (← decFin 16 r.d) (← fA r) (BitVec.ofNat 32 r.hi) idx
  | 0x86 => do return .vgath c (← fTy r) (← decFin 16 r.d) (← fMem32 r r.hi) (← vC r) (Fin.ofNat 4 x.opx)
  | 0x87 => do return .vscat c (← fTy r) (← decFin 16 r.d) (← fMem32 r r.hi) (← vC r) (Fin.ofNat 4 x.opx)
  | 0x88 => match r.fn with
    | 0 => bVVV r (.vadd · · · · · (fVX r)) | 1 => bVVV r (.vsub · · · · · (fVX r)) | 2 => bVVV r (.vmul · · · · · (fVX r))
    | 3 => bVVV r .vmin | 4 => bVVV r .vmax | 5 => bVV r (.vabs · · · · (flag x.sat)) | 6 => bVV r (.vneg · · · · (flag x.sat))
    | _ => .error .badMinor
  | 0x89 => do return .vfma c (← fTy r) (← decFin 16 r.d) (← vA r) (← vB r) (← vC r) (fVX r)
  | 0x8A => match r.fn with
    | 0 => bVVV r .vand | 1 => bVVV r .vor | 2 => bVVV r .vxor | 3 => bVVV r .vandn | _ => .error .badMinor
  | 0x8B => match r.fn with
    | 0 => bVVV r .vshl | 1 => bVVV r .vshr | 2 => bVVV r .vsra | _ => .error .badMinor
  | 0x8C => do return .vcmp c (← decName condNames r.fn .badMinor) (← fTy r) (← decFin 8 r.d) (← vA r) (← vB r)
  | 0x8D => do return .vsel c (← fTy r) (← decFin 16 r.d) (← vA r) (← vB r) (← useN 8 x.c x.lc)
  | 0x8E => do
    return .vcvt c (← fTy r) (← decFin 16 r.d) (← vA r) (← decName tyNames (x.opx % 16) .reserved) (Fin.ofNat 16 (x.opx / 16)) (fVX r)
  | 0x8F => do return .vbcast c (← fTy r) (← decFin 16 r.d) (← fA r)
  | 0x90 => do return .vext c.wt (← fTy r) (← vA r) (BitVec.ofNat 9 x.opx)
  | 0x91 => do return .vred c (← decName redNames r.fn .badMinor) (← fTy r) (← vA r) (fRnd r)
  | 0x92 => do return .vscan c (← decName scanNames r.fn .badMinor) (← fTy r) (← decFin 16 r.d) (← vA r) (fVX r)
  | 0x93 => match r.fn with
    | 0 => bVVV r (.vwadd · · · · · (flag (x.opx % 2)) (flag (x.opx / 2 % 2)) (fVX r))
    | 1 => bVVV r (.vwmul · · · · · (flag (x.opx % 2)) (flag (x.opx / 2 % 2)) (fVX r))
    | _ => .error .badMinor
  | 0x94 => bVVV r (.vdot · · · · · (fVX r))
  | 0x95 => match r.fn with
    | 0 => bVVV r .vperm | 1 => bVVV r (.vshuf · · · · · (shufNames.getD (x.opx % 4) .lo))
    | 2 => bVVV r (.vslide · · · · · (BitVec.ofNat 9 x.opx)) | _ => .error .badMinor
  | 0x96 => match r.fn with
    | 0 => do return .vpand c (← fTy r) (← decFin 8 r.d) (← useN 8 r.a r.la) (← useN 8 r.b r.lb)
    | 1 => do return .vpor c (← fTy r) (← decFin 8 r.d) (← useN 8 r.a r.la) (← useN 8 r.b r.lb)
    | 2 => do return .vpnot c (← fTy r) (← decFin 8 r.d) (← useN 8 r.a r.la)
    | 3 => do return .vpcnt c (← fTy r) (← useN 8 r.a r.la)
    | _ => .error .badMinor
  | 0x97 => match r.fn with
    | 0 => do return .vbs c.wt (← fTy r) (← decFin 16 r.d) (← vA r) (flag (x.opx % 2)) (fRnd r)
    | 1 => bVV r (.vunbs · · · · (flag (x.opx % 2)))
    | _ => .error .badMinor
  | 0x98 => match r.fn with
    | 0 => bVV r (.vrcp · · · · (fRnd r)) | 1 => bVV r (.vrsq · · · · (fRnd r)) | 2 => bVV r (.vexp2 · · · · (fRnd r))
    | _ => .error .badMinor
  | _ => .error .unassigned

/-- Group 5 (R285). -/
def build5 (r : Raw) : Except DecodeError Instr :=
  let c := comOf r
  let x := fX r
  match r.op with
  | 0xA0 => do
    let d ← decFin 16 r.d
    if r.len = 1 then return .mbsetReg c.wt d (← decSrc r.a) else return .mbsetImm c.wt d (BitVec.ofNat 64 r.hi)
  | 0xA1 => do return .mbld c (← fTy r) (← decFin 16 r.d) (← fMem32 r r.hi) { p := ← fC r, opx := BitVec.ofNat 5 x.opx }
  | 0xA2 => do
    let bs ← if x.opx / 2 % 2 = 1 then (do return some (← vC r)) else .ok none
    return .mma c (← decName mmaNames r.fn .badMinor) (← decFin 16 r.d) (← vA r) (← decFin 16 r.b) (flag (x.opx % 2)) bs
  | 0xA3 => do
    return .mmaRa c (← decName mmaNames r.fn .badMinor) (← decFin 16 r.d) (← fA r) (← decFin 16 r.b) (flag (x.opx % 2))
      (← decFin 16 x.c) (← decName spaceNames (x.opx / 4 % 8) .reserved)
  | 0xA4 => do
    let bs ← if x.opx / 2 % 2 = 1 then (do return some (← vC r)) else .ok none
    return .mmar c (← decName mmaNames r.fn .badMinor) (← decFin 16 r.d) (← vA r) (← decFin 16 r.b) (flag (x.opx % 2)) bs
  | 0xA5 => do return .mzero c (← fTy r) (← decFin 16 r.d)
  | 0xA6 => match r.fn with
    | 0 => do return .mtld c (← fTy r) (← decFin 16 r.d) (← fMem32 r r.hi) (← fC r) (Fin.ofNat 16 x.opx) (flag (x.opx / 16 % 2))
    | 1 => do return .mtldRb c (← fTy r) (← decFin 16 r.d) (← fMem32 r r.hi) (← fC r) (Fin.ofNat 16 x.opx) (flag (x.opx / 16 % 2))
    | _ => .error .badMinor
  | 0xA7 => do
    let cols ← if x.opx % 2 = 1 then (do return some (← decFin 16 r.d)) else .ok none
    let sel ← decName spaceNames (r.b % 8) .reserved
    if r.len = 2 then return .mepi96 c (← fTy r) (← vC r) (← fA r) sel (BitVec.ofNat 32 r.hi) cols (fRnd r)
    else return .mepi128 c (← fTy r) (← vC r) (← fA r) sel (BitVec.ofNat 32 r.hi) (BitVec.ofNat 20 (r.hi / 2 ^ 32)) cols (fRnd r)
  | 0xA8 => bVV r (.macc · · · · (flag x.sat))
  | 0xA9 => .ok (.mwait c)
  | _ => .error .unassigned

/-- Group 6 (R286). -/
def build6 (r : Raw) : Except DecodeError Instr :=
  let c := comOf r
  match r.op with
  | 0xC0 => do return .ldl c (← fLadle r) (BitVec.ofNat 32 r.hi) (BitVec.ofNat 16 (r.hi / 2 ^ 32))
  | 0xC1 => do
    return .ldl2d c (← fLadle r) (BitVec.ofNat 16 r.hi) (BitVec.ofNat 16 (r.hi / 2 ^ 16)) (BitVec.ofNat 16 (r.hi / 2 ^ 32))
      (BitVec.ofNat 16 (r.hi / 2 ^ 48))
  | 0xC2 => do
    let o := (fX r).opx
    return .ldlz c (← decDst r.d) (← fB r) (← decSrc (fX r).c) (← decName spaceNames (o / 8 % 8) .reserved)
      (← decName syncSpNames (o / 64 % 4) .reserved) (flag (o / 256)) (BitVec.ofNat 32 r.hi)
  | 0xC3 => match r.fn with
    | 0 => do return .ewait c (← fA r)
    | 1 => .ok (.ewaitN c (BitVec.ofNat 5 r.x24))
    | _ => .error .badMinor
  | 0xC4 => .ok (.rarm c (Fin.ofNat 8 r.x24))
  | 0xC5 => match r.fn with
    | 0 => do return .rpourInt c (← fPour r) (BitVec.ofNat 3 (r.hi / 2 ^ 41))
    | 1 => do return .rpourBs c (← fPour r) (flag (r.hi / 2 ^ 44 % 2))
    | _ => .error .badMinor
  | 0xC6 => do return .rskim c (← fPour r)
  | 0xC7 => do return .rbcast c (← fPour r) (Fin.ofNat 32 (r.hi / 2 ^ 45))
  | 0xC8 => do return .rstat c (← decDst r.d) (Fin.ofNat 8 r.x24) (Fin.ofNat 64 (r.x24 / 8))
  | 0xC9 => .ok (.rdisarm c (Fin.ofNat 8 r.x24) (Fin.ofNat 64 (r.x24 / 8)))
  | _ => .error .unassigned

/-- Group 7 (R287). -/
def build7 (r : Raw) : Except DecodeError Instr :=
  let c := comOf r
  match r.op with
  | 0xE0 => do return .srd c (← decDst r.d) (BitVec.ofNat 12 r.x24)
  | 0xE1 => do return .swr c (BitVec.ofNat 12 r.x24) (← fA r)
  | 0xE2 => do return .tbr c (← decDst r.d)
  | 0xE3 => bSS r (.pmcr · · · (Fin.ofNat 8 r.x24) (flag (r.x24 / 8 % 2)))
  | 0xE4 => .ok (.take c)
  | 0xE5 => do return .doneg c (← fA r)
  | 0xE6 => do return .yieldt c (← fA r)
  | 0xE7 => do return .patr c (← decDst r.d) (Fin.ofNat 4 r.x24) (Fin.ofNat 16 (r.x24 / 4)) (flag (r.x24 / 64 % 2))
  | 0xE8 => match r.fn with
    | 0 => do return .patw c (Fin.ofNat 4 r.x24) (Fin.ofNat 16 (r.x24 / 4)) (← fA r)
    | 1 => do return .patwC c (Fin.ofNat 4 r.x24) (Fin.ofNat 16 (r.x24 / 4)) (← fA r)
    | _ => .error .badMinor
  | 0xE9 => do return .prevoke c (Fin.ofNat 4 r.x24) (← fA r)
  | 0xEA => do return .bkwake c (← fA r) (bankNames.getD (r.x24 % 2) .rs)
  | 0xEB => do return .bkhold c (← fA r) (bankNames.getD (r.x24 % 2) .rs)
  | 0xEC => do return .bkoff c (← fA r) (bankNames.getD (r.x24 % 2) .rs)
  | 0xED => do return .bkstat c (← decDst r.d) (bankNames.getD (r.x24 % 2) .rs)
  | 0xEE => do return .spkill c (← decSrc r.d) (← fA r) (← fOff r)
  | 0xEF => .ok (.swap c)
  | 0xF0 => .ok (.halt c)
  | 0xF8 => do return .dbgrd c (← decDst r.d) (← fA r)
  | 0xF9 => do return .dbgwr c (← decSrc r.d) (← fA r)
  | 0xFA => bSS r .resume
  | 0xFB => bSSS r (.redir · · · · (flag (r.x24 % 2)))
  | 0xFC => bSS r .kill
  | 0xFD => bSS r (.fwait · · · (imm24 r))
  | _ => .error .unassigned

/-- The instruction that OP, FN and the length name, its operands read without regard to the unused fields (R279). -/
def build (r : Raw) : Except DecodeError Instr :=
  match r.op / 32 with
  | 0 => build0 r | 1 => build1 r | 2 => build2 r | 3 => build3 r | 4 => build4 r | 5 => build5 r | 6 => build6 r | _ => build7 r

/-! ### The encoder -/

/-- LEN, OP, FN, PRED and WT. -/
def rawOf (c : Com) (len op fn : Nat) : Raw :=
  { len, op, fn, pred := c.pred.neg.toNat * 8 + c.pred.p.val, wt := c.wt.val }
/-- The head of an instruction that ignores PRED. -/
def rawWt (wt : Fin 4) (len op fn : Nat) : Raw := { len, op, fn, wt := wt.val }
/-- A, class S. -/
def Raw.sA (r : Raw) (a : Use Src) : Raw := { r with a := encSrc a.r, la := a.last.toNat }
/-- B, class S. -/
def Raw.sB (r : Raw) (b : Use Src) : Raw := { r with b := encSrc b.r, lb := b.last.toNat }
/-- A, class V, P or B. -/
def Raw.nA {k : Nat} (r : Raw) (a : Use (Fin k)) : Raw := { r with a := a.r.val, la := a.last.toNat }
/-- B, class V or P. -/
def Raw.nB {k : Nat} (r : Raw) (b : Use (Fin k)) : Raw := { r with b := b.r.val, lb := b.last.toNat }
/-- D, a scalar destination. -/
def Raw.dD (r : Raw) (d : Dst) : Raw := { r with d := encDst d }
/-- D, a scalar read as a source. -/
def Raw.dS (r : Raw) (d : Src) : Raw := { r with d := encSrc d }
/-- D, class V, P or B. -/
def Raw.dN {k : Nat} (r : Raw) (d : Fin k) : Raw := { r with d := d.val }
/-- IMM24. -/
def Raw.imm (r : Raw) (n : Nat) : Raw := { r with x24 := n }
/-- EXT24. -/
def Raw.ext (r : Raw) (e : Ext) : Raw := { r with x24 := e.toNat }
/-- Bits above 63. -/
def Raw.up (r : Raw) (n : Nat) : Raw := { r with hi := n }
/-- The selector field B (R278). -/
def encSel (s : Space) (lu na : Bool) : Nat := s.ctorIdx + lu.toNat * 8 + na.toNat * 16
/-- The length an offset form takes. -/
def Off.len : Off → Nat
  | .imm24 _ => 1
  | .imm32 _ => 2
/-- The offset in its place. -/
def Raw.off (r : Raw) : Off → Raw
  | .imm24 v => { r with x24 := v.toNat }
  | .imm32 v => { r with hi := v.toNat }
/-- A memory operand (R278). -/
def Raw.mem (r : Raw) (m : MemOp) : Raw := ({ r.sA m.base with b := encSel m.sel m.lu m.na }).off m.off
/-- A memory operand with IMM32 (its offset is placed by the caller). -/
def Raw.mem32 (r : Raw) (m : MemOp32) : Raw := { r.sA m.base with b := encSel m.sel m.lu m.na, hi := m.off.toNat }
/-- RO and RMO of an Ext. -/
def Ext.rnd (e : Ext) (r : Rnd) : Ext := { e with ro := r.ro.toNat, rmo := r.rmo.ctorIdx }
/-- SAT, RO and RMO of an Ext. -/
def Ext.vx (e : Ext) (x : VX) : Ext := { e.rnd x.rnd with sat := x.sat.toNat }
/-- An Ext that holds TY. -/
def extTy (t : Ty) : Ext := { ty := t.ctorIdx }
/-- C of class S with LC. -/
def Ext.cS (e : Ext) (u : Use Src) : Ext := { e with c := encSrc u.r, lc := u.last.toNat }
/-- C of class V or P with LC. -/
def Ext.cN {k : Nat} (e : Ext) (u : Use (Fin k)) : Ext := { e with c := u.r.val, lc := u.last.toNat }
/-- Length and override of a scalar float form (R321). -/
def FForm.len : FForm → Nat
  | .short => 1
  | .long _ => 2
/-- EXT24 of a scalar float form. -/
def FForm.ext : FForm → Ext
  | .short => {}
  | .long r => ({} : Ext).rnd r
/-- D, A, B scalar. -/
def encSSS (c : Com) (op fn : Nat) (d : Dst) (a b : Use Src) : Raw := ((rawOf c 1 op fn).dD d).sA a |>.sB b
/-- D, A scalar and IMM24. -/
def encSSI (c : Com) (op fn : Nat) (d : Dst) (a : Use Src) (n : Nat) : Raw := ((rawOf c 1 op fn).dD d).sA a |>.imm n
/-- A scalar and IMM24. -/
def encSI (c : Com) (op fn : Nat) (a : Use Src) (n : Nat) : Raw := (rawOf c 1 op fn).sA a |>.imm n
/-- D, A, B of class V. -/
def encVVV (c : Com) (op fn : Nat) (d : Fin 16) (a b : Use (Fin 16)) (e : Ext) : Raw := ((rawOf c 1 op fn).dN d).nA a |>.nB b |>.ext e
/-- D, A of class V. -/
def encVV (c : Com) (op fn : Nat) (d : Fin 16) (a : Use (Fin 16)) (e : Ext) : Raw := ((rawOf c 1 op fn).dN d).nA a |>.ext e
/-- A vector memory form. -/
def encVM (c : Com) (op fn : Nat) (d : Fin 16) (m : MemOp32) (e : Ext) : Raw := ((rawOf c 2 op fn).dN d).mem32 m |>.ext e
/-- The index operand of VLDL and VSTL (R363). -/
def extIdx (ty : Ty) : Option (Use (Fin 16)) → Ext
  | none => extTy ty
  | some u => { (extTy ty).cN u with opx := 1 }
/-- OPX, C and LC of MMA and MMAR (R390). -/
def extMma (ov : Bool) : Option (Use (Fin 16)) → Ext
  | none => { opx := ov.toNat }
  | some u => { ({} : Ext).cN u with opx := ov.toNat + 2 }
/-- LDL and LDL2D (R408). -/
def encLadle (c : Com) (op : Nat) (o : LadleOp) (h : Nat) : Raw :=
  ((rawOf c 3 op 0).dD o.d).sA o.a |>.sB o.b |>.ext
    { c := encSrc o.c, opx := o.ssp.ctorIdx + o.dsp.ctorIdx * 8 + o.ysp.ctorIdx * 64 + o.q5.toNat * 256 } |>.up h
/-- The pours (R416). -/
def encPour (c : Com) (op fn : Nat) (o : PourOp) (ty form root : Nat) : Raw :=
  ((rawOf c 3 op fn).dS o.src).sA o.dst |>.sB o.sync |>.ext
    (({ opx := o.ssp.ctorIdx + o.dsp.ctorIdx * 2 + o.ysp.ctorIdx * 4 + o.q7.toNat * 16 } : Ext).cS o.seqev) |>.up
    (o.count.toNat + o.grp.val * 2 ^ 32 + o.port.val * 2 ^ 38 + ty * 2 ^ 41 + form * 2 ^ 44 + root * 2 ^ 45)
/-- MEPI (R401). -/
def encMepi (c : Com) (len : Nat) (ty : Ty) (acc : Use (Fin 16)) (base : Use Src) (sel : Space) (cols : Option (Fin 16)) (r : Rnd)
    (h : Nat) : Raw :=
  let e := ((extTy ty).rnd r).cN acc
  let q := { (rawOf c len 0xA7 0).sA base with b := encSel sel false false }
  match cols with
  | none => (q.ext e).up h
  | some d => ((q.dN d).ext { e with opx := 1 }).up h

/-- The fields of an instruction; none for the steps of other agents. -/
def encodeRaw : Instr → Option Raw
  | .nop c .x64 => some (rawOf c 1 0x00 0)
  | .nop c .x96 => some (rawOf c 2 0x00 0)
  | .nop c .x128 => some (rawOf c 3 0x00 0)
  | .br c i => some ((rawOf c 1 0x01 0).imm i.toNat)
  | .brc c k a b i => some (((rawOf c 1 0x02 k.ctorIdx).sA a).sB b |>.imm i.toNat)
  | .brz c a i => some (encSI c 0x03 0 a i.toNat)
  | .brnz c a i => some (encSI c 0x04 0 a i.toNat)
  | .brpAny c a i => some (((rawOf c 1 0x05 0).nA a).imm i.toNat)
  | .brpAll c a i => some (((rawOf c 1 0x05 1).nA a).imm i.toNat)
  | .call c i => some ((rawOf c 1 0x06 0).imm i.toNat)
  | .callr c a => some (encSI c 0x07 0 a 0)
  | .ret c => some (rawOf c 1 0x08 0)
  | .jmpr c a => some (encSI c 0x09 0 a 0)
  | .loop c a i => some (encSI c 0x0A 0 a i.toNat)
  | .end_ c => some (rawOf c 1 0x0B 0)
  | .trap c k => some ((rawOf c 1 0x0C 0).imm k.toNat)
  | .brk c => some (rawOf c 1 0x0D 0)
  | .add c d a b => some (encSSS c 0x20 0 d a b)
  | .sub c d a b => some (encSSS c 0x20 1 d a b)
  | .and c d a b => some (encSSS c 0x20 2 d a b)
  | .or c d a b => some (encSSS c 0x20 3 d a b)
  | .xor c d a b => some (encSSS c 0x20 4 d a b)
  | .andn c d a b => some (encSSS c 0x20 5 d a b)
  | .shl c d a b => some (encSSS c 0x20 6 d a b)
  | .shr c d a b => some (encSSS c 0x20 7 d a b)
  | .sra c d a b => some (encSSS c 0x20 8 d a b)
  | .rotl c d a b => some (encSSS c 0x20 9 d a b)
  | .min c d a b => some (encSSS c 0x20 10 d a b)
  | .max c d a b => some (encSSS c 0x20 11 d a b)
  | .minz c d a b => some (encSSS c 0x20 12 d a b)
  | .maxz c d a b => some (encSSS c 0x20 13 d a b)
  | .addi c d a i => some (encSSI c 0x21 0 d a i.toNat)
  | .andi c d a i => some (encSSI c 0x21 2 d a i.toNat)
  | .ori c d a i => some (encSSI c 0x21 3 d a i.toNat)
  | .xori c d a i => some (encSSI c 0x21 4 d a i.toNat)
  | .shli c d a n => some (encSSI c 0x21 6 d a n.val)
  | .shri c d a n => some (encSSI c 0x21 7 d a n.val)
  | .srai c d a n => some (encSSI c 0x21 8 d a n.val)
  | .mul c d a b => some (encSSS c 0x22 0 d a b)
  | .mulh c d a b => some (encSSS c 0x22 1 d a b)
  | .mulhz c d a b => some (encSSS c 0x22 2 d a b)
  | .div c d a b => some (encSSS c 0x22 3 d a b)
  | .divz c d a b => some (encSSS c 0x22 4 d a b)
  | .rem c d a b => some (encSSS c 0x22 5 d a b)
  | .remz c d a b => some (encSSS c 0x22 6 d a b)
  | .clz c d a => some (encSSI c 0x23 0 d a 0)
  | .ctz c d a => some (encSSI c 0x23 1 d a 0)
  | .popc c d a => some (encSSI c 0x23 2 d a 0)
  | .sext c d a n => some (encSSI c 0x23 3 d a n.val)
  | .zext c d a n => some (encSSI c 0x23 4 d a n.val)
  | .sel c d a b x => some ((((rawOf c 2 0x24 0).dD d).sA a).sB b |>.ext (({} : Ext).cS x))
  | .setc c k d a b => some (encSSS c 0x25 k.ctorIdx d a b)
  | .li24 c d i => some (((rawOf c 1 0x26 0).dD d).imm i.toNat)
  | .li32 c d sh i => some ((((rawOf c 2 0x26 0).dD d).ext { opx := sh.toNat }).up i.toNat)
  | .li64 c d i => some (((rawOf c 3 0x26 0).dD d).up i.toNat)
  | .lea c s d a b o => some (((((rawOf c o.len 0x27 s.val).dD d).sA a).sB b).off o)
  | .bfx c d a p l => some (encSSI c 0x28 0 d a (p.val + l.val * 64))
  | .bfi c d a p l => some ((((rawOf c 1 0x29 0).dN d).sA a).imm (p.val + l.val * 64))
  | .fadd c f d a b => some ({ encSSS c 0x2A 0 d a b with len := f.len }.ext f.ext)
  | .fsub c f d a b => some ({ encSSS c 0x2A 1 d a b with len := f.len }.ext f.ext)
  | .fmul c f d a b => some ({ encSSS c 0x2A 2 d a b with len := f.len }.ext f.ext)
  | .ffma c r d a b x => some ({ encSSS c 0x2A 3 d a b with len := 2 }.ext ((({} : Ext).rnd r).cS x))
  | .fmin c d a b => some (encSSS c 0x2A 4 d a b)
  | .fmax c d a b => some (encSSS c 0x2A 5 d a b)
  | .fsqrt c f d a => some ({ encSSI c 0x2A 6 d a 0 with len := f.len }.ext f.ext)
  | .fcmp c k d a b => some (encSSS c 0x2B k.ctorIdx d a b)
  | .fcvt c k f d a => some ({ encSSI c 0x2C k.ctorIdx d a 0 with len := f.len }.ext f.ext)
  | .ld c k d m => some (((rawOf c m.off.len 0x40 k.ctorIdx).dD d).mem m)
  | .st c k d m => some (((rawOf c m.off.len 0x41 k.ctorIdx).dS d).mem m)
  | .ldw c d m => some (((rawOf c m.off.len 0x42 0).dD d).mem m)
  | .lde c d m => some (((rawOf c m.off.len 0x43 0).dD d).mem m)
  | .stw c d m => some (((rawOf c m.off.len 0x44 0).dS d).mem m)
  | .stf c d m => some (((rawOf c m.off.len 0x45 0).dS d).mem m)
  | .fesetE c m => some ((rawOf c m.off.len 0x46 0).mem m)
  | .fesetF c m => some ((rawOf c m.off.len 0x46 1).mem m)
  | .put c d a s l => some (({ (rawOf c 3 0x47 0).dS d with a := encSrc a, b := s.ctorIdx }).up l.toNat)
  | .get c d a s l => some (({ (rawOf c 3 0x48 0).dS d with a := encSrc a, b := s.ctorIdx }).up l.toNat)
  | .putsig c d a x s y l =>
      some ((({ (rawOf c 3 0x49 0).dS d with a := encSrc a, b := s.ctorIdx }).ext { c := encSrc x }).up (l.toNat + y.ctorIdx * 2 ^ 32))
  | .radd c d m => some (((rawOf c m.off.len 0x4A 0).dS d).mem m)
  | .bind c d a n rs os => some ((((rawOf c 3 0x4B 0).dS d).sA a).up (n.toNat + rs.ctorIdx * 2 ^ 40 + encOsp os * 2 ^ 43))
  | .unbind c a o => some (encSI c 0x4C 0 a (encOsp o))
  | .acq c a o => some (encSI c 0x4D 0 a (encOsp o))
  | .rel c a o => some (encSI c 0x4E 0 a (encOsp o))
  | .fence p k => some (rawOf { pred := p, wt := 0 } 1 0x4F (k.ctorIdx + 1))
  | .cntw c k n => some ((rawOf c 1 0x50 k.ctorIdx).imm n.val)
  | .stage c a => some ({ rawOf c 1 0x51 0 with a := a.val })
  | .amo c o w d m x => some ((((rawOf c 2 0x60 o.ctorIdx).dD d).mem32 m).ext { c := encSrc x, ty := 4 + w.toNat * 2 })
  | .amoCas c w d m x n =>
      some (((((rawOf c 3 0x60 9).dD d).mem32 m).ext { c := encSrc x, ty := 4 + w.toNat * 2 }).up (encSrc n + m.off.toNat * 2 ^ 32))
  | .amofAdd c d m x => some ((((rawOf c 2 0x61 0).dD d).mem32 m).ext (({ ty := 8 } : Ext).cS x))
  | .grpnew c d => some ((rawOf c 1 0x62 0).dD d)
  | .grpinit c a i => some (encSI c 0x63 0 a i.toNat)
  | .grpfree c a i => some (encSI c 0x64 0 a i.toNat)
  | .join c d a i => some (encSSI c 0x65 0 d a i.toNat)
  | .leave c a i => some (encSI c 0x66 0 a i.toNat)
  | .sync c d a i => some (encSSI c 0x67 0 d a i.toNat)
  | .sstep c d a i => some (encSSI c 0x68 0 d a i.toNat)
  | .swarm c d m x => some ((((rawOf c 2 0x69 0).dD d).mem32 m).ext (({} : Ext).cS x))
  | .waitw c d m x => some ((((rawOf c 2 0x6A 0).dD d).mem32 m).ext (({} : Ext).cS x))
  | .waitg c d a i => some (encSSI c 0x6B 0 d a i.toNat)
  | .forkr c sc d a b x dr q lim en co =>
      some ((({ encSSS c 0x6C 0 d a b with len := 3 }).ext { c := encSrc x, opx := dr.toNat }).up
        (q.toNat + lim.toNat * 2 ^ 16 + sc.ctorIdx * 2 ^ 30 + en.toNat * 2 ^ 32 + co.toNat * 2 ^ 48))
  | .joinc c a o => some ({ encSI c 0x6D 0 a o.toNat with b := 2 })
  | .qpoll c d k => some (((rawOf c 1 0x6E 0).dD d).imm k.val)
  | .msg c a o => some ({ (rawOf c 2 0x6F 0).sA a with b := 1, hi := o.toNat })
  | .vwsetReg w d a => some ({ (rawWt w 1 0x80 0).dN d with a := encSrc a })
  | .vwsetImm w d i => some (((rawWt w 3 0x80 0).dN d).up i.toNat)
  | .vwadv w d a => some (((rawWt w 1 0x81 0).dN d).sA a)
  | .vld c t d m => some (encVM c 0x82 0 d m (extTy t))
  | .vst c t d m => some (encVM c 0x83 0 d m (extTy t))
  | .vldl c t d a o x => some (({ ((rawOf c 2 0x84 0).dN d).sA a with b := 4, hi := o.toNat }).ext (extIdx t x))
  | .vstl c t d a o x => some (({ ((rawOf c 2 0x85 0).dN d).sA a with b := 4, hi := o.toNat }).ext (extIdx t x))
  | .vgath c t d m x s => some (encVM c 0x86 0 d m { (extTy t).cN x with opx := s.val })
  | .vscat c t d m x s => some (encVM c 0x87 0 d m { (extTy t).cN x with opx := s.val })
  | .vadd c t d a b x => some (encVVV c 0x88 0 d a b ((extTy t).vx x))
  | .vsub c t d a b x => some (encVVV c 0x88 1 d a b ((extTy t).vx x))
  | .vmul c t d a b x => some (encVVV c 0x88 2 d a b ((extTy t).vx x))
  | .vmin c t d a b => some (encVVV c 0x88 3 d a b (extTy t))
  | .vmax c t d a b => some (encVVV c 0x88 4 d a b (extTy t))
  | .vabs c t d a s => some (encVV c 0x88 5 d a { extTy t with sat := s.toNat })
  | .vneg c t d a s => some (encVV c 0x88 6 d a { extTy t with sat := s.toNat })
  | .vfma c t d a b z x => some (encVVV c 0x89 0 d a b (((extTy t).vx x).cN z))
  | .vand c t d a b => some (encVVV c 0x8A 0 d a b (extTy t))
  | .vor c t d a b => some (encVVV c 0x8A 1 d a b (extTy t))
  | .vxor c t d a b => some (encVVV c 0x8A 2 d a b (extTy t))
  | .vandn c t d a b => some (encVVV c 0x8A 3 d a b (extTy t))
  | .vshl c t d a b => some (encVVV c 0x8B 0 d a b (extTy t))
  | .vshr c t d a b => some (encVVV c 0x8B 1 d a b (extTy t))
  | .vsra c t d a b => some (encVVV c 0x8B 2 d a b (extTy t))
  | .vcmp c k t d a b => some ((((rawOf c 1 0x8C k.ctorIdx).dN d).nA a).nB b |>.ext (extTy t))
  | .vsel c t d a b x => some (encVVV c 0x8D 0 d a b ((extTy t).cN x))
  | .vcvt c t d a s p x => some (encVV c 0x8E 0 d a { (extTy t).vx x with opx := s.ctorIdx + p.val * 16 })
  | .vbcast c t d a => some ((((rawOf c 1 0x8F 0).dN d).sA a).ext (extTy t))
  | .vext w t a i => some (((rawWt w 1 0x90 0).nA a).ext { extTy t with opx := i.toNat })
  | .vred c o t a r => some (((rawOf c 1 0x91 o.ctorIdx).nA a).ext ((extTy t).rnd r))
  | .vscan c o t d a x => some (encVV c 0x92 o.ctorIdx d a ((extTy t).vx x))
  | .vwadd c t d a b p w x => some (encVVV c 0x93 0 d a b { (extTy t).vx x with opx := p.toNat + w.toNat * 2 })
  | .vwmul c t d a b p w x => some (encVVV c 0x93 1 d a b { (extTy t).vx x with opx := p.toNat + w.toNat * 2 })
  | .vdot c t d a b x => some (encVVV c 0x94 0 d a b ((extTy t).vx x))
  | .vperm c t d a b => some (encVVV c 0x95 0 d a b (extTy t))
  | .vshuf c t d a b m => some (encVVV c 0x95 1 d a b { extTy t with opx := m.ctorIdx })
  | .vslide c t d a b s => some (encVVV c 0x95 2 d a b { extTy t with opx := s.toNat })
  | .vpand c t d a b => some ((((rawOf c 1 0x96 0).dN d).nA a).nB b |>.ext (extTy t))
  | .vpor c t d a b => some ((((rawOf c 1 0x96 1).dN d).nA a).nB b |>.ext (extTy t))
  | .vpnot c t d a => some ((((rawOf c 1 0x96 2).dN d).nA a).ext (extTy t))
  | .vpcnt c t a => some (((rawOf c 1 0x96 3).nA a).ext (extTy t))
  | .vbs w t d a h r => some ((((rawWt w 1 0x97 0).dN d).nA a).ext { (extTy t).rnd r with opx := h.toNat })
  | .vunbs c t d a h => some (encVV c 0x97 1 d a { extTy t with opx := h.toNat })
  | .vrcp c t d a r => some (encVV c 0x98 0 d a ((extTy t).rnd r))
  | .vrsq c t d a r => some (encVV c 0x98 1 d a ((extTy t).rnd r))
  | .vexp2 c t d a r => some (encVV c 0x98 2 d a ((extTy t).rnd r))
  | .mbsetReg w d a => some ({ (rawWt w 1 0xA0 0).dN d with a := encSrc a })
  | .mbsetImm w d i => some (((rawWt w 3 0xA0 0).dN d).up i.toNat)
  | .mbld c t d m x => some (encVM c 0xA1 0 d m { (extTy t).cS x.p with opx := x.opx.toNat })
  | .mma c t d a b ov bs => some (({ ((rawOf c 1 0xA2 t.ctorIdx).dN d).nA a with b := b.val }).ext (extMma ov bs))
  | .mmaRa c t d a b ov sh sp =>
      some (({ ((rawOf c 1 0xA3 t.ctorIdx).dN d).sA a with b := b.val }).ext { c := sh.val, opx := ov.toNat + sp.ctorIdx * 4 })
  | .mmar c t d a b ov bs => some (({ ((rawOf c 1 0xA4 t.ctorIdx).dN d).nA a with b := b.val }).ext (extMma ov bs))
  | .mzero c t d => some (((rawOf c 1 0xA5 0).dN d).ext (extTy t))
  | .mtld c t d m x ev hi => some (encVM c 0xA6 0 d m { (extTy t).cS x with opx := ev.val + hi.toNat * 16 })
  | .mtldRb c t d m x ev hi => some (encVM c 0xA6 1 d m { (extTy t).cS x with opx := ev.val + hi.toNat * 16 })
  | .mepi96 c t acc base sel o cols r => some (encMepi c 2 t acc base sel cols r o.toNat)
  | .mepi128 c t acc base sel sc pi cols r => some (encMepi c 3 t acc base sel cols r (sc.toNat + pi.toNat * 2 ^ 32))
  | .macc c t d a s => some (encVV c 0xA8 0 d a { extTy t with sat := s.toNat })
  | .mwait c => some (rawOf c 1 0xA9 0)
  | .ldl c o l e => some (encLadle c 0xC0 o (l.toNat + e.toNat * 2 ^ 32))
  | .ldl2d c o rl nr sp dp => some (encLadle c 0xC1 o (rl.toNat + nr.toNat * 2 ^ 16 + sp.toNat * 2 ^ 32 + dp.toNat * 2 ^ 48))
  | .ldlz c d b x dsp ysp q5 l =>
      some ((((rawOf c 2 0xC2 0).dD d).sB b |>.ext { c := encSrc x, opx := dsp.ctorIdx * 8 + ysp.ctorIdx * 64 + q5.toNat * 256 }).up l.toNat)
  | .ewait c a => some (encSI c 0xC3 0 a 0)
  | .ewaitN c n => some ((rawOf c 1 0xC3 1).imm n.toNat)
  | .rarm c p => some ((rawOf c 1 0xC4 0).imm p.val)
  | .rpourInt c o ty => some (encPour c 0xC5 0 o ty.toNat 0 0)
  | .rpourBs c o b => some (encPour c 0xC5 1 o 6 b.toNat 0)
  | .rskim c o => some (encPour c 0xC6 0 o 6 1 0)
  | .rbcast c o r => some (encPour c 0xC7 0 o 4 0 r.val)
  | .rstat c d p g => some (((rawOf c 1 0xC8 0).dD d).imm (p.val + g.val * 8))
  | .rdisarm c p g => some ((rawOf c 1 0xC9 0).imm (p.val + g.val * 8))
  | .srd c d n => some (((rawOf c 1 0xE0 0).dD d).imm n.toNat)
  | .swr c n a => some (encSI c 0xE1 0 a n.toNat)
  | .tbr c d => some ((rawOf c 1 0xE2 0).dD d)
  | .pmcr c d a k clr => some (encSSI c 0xE3 0 d a (k.val + clr.toNat * 8))
  | .take c => some (rawOf c 1 0xE4 0)
  | .doneg c a => some (encSI c 0xE5 0 a 0)
  | .yieldt c a => some (encSI c 0xE6 0 a 0)
  | .patr c d s n sh => some (((rawOf c 1 0xE7 0).dD d).imm (s.val + n.val * 4 + sh.toNat * 64))
  | .patw c s n a => some (encSI c 0xE8 0 a (s.val + n.val * 4))
  | .patwC c s n a => some (encSI c 0xE8 1 a (s.val + n.val * 4))
  | .prevoke c s a => some (encSI c 0xE9 0 a s.val)
  | .bkwake c a k => some (encSI c 0xEA 0 a k.ctorIdx)
  | .bkhold c a k => some (encSI c 0xEB 0 a k.ctorIdx)
  | .bkoff c a k => some (encSI c 0xEC 0 a k.ctorIdx)
  | .bkstat c d k => some (((rawOf c 1 0xED 0).dD d).imm k.ctorIdx)
  | .spkill c d a o => some (({ ((rawOf c o.len 0xEE 0).dS d).sA a with b := 1 }).off o)
  | .swap c => some (rawOf c 1 0xEF 0)
  | .halt c => some (rawOf c 1 0xF0 0)
  | .dbgrd c d a => some (encSSI c 0xF8 0 d a 0)
  | .dbgwr c d a => some (((rawOf c 1 0xF9 0).dS d).sA a)
  | .resume c d a => some (encSSI c 0xFA 0 d a 0)
  | .redir c d a b dr => some ((encSSS c 0xFB 0 d a b).imm dr.toNat)
  | .kill c d a => some (encSSI c 0xFC 0 d a 0)
  | .fwait c d a o => some ({ encSSI c 0xFD 0 d a o.toNat with b := 1 })
  | _ => none

/-- The words of an instruction as one number, bit 0 the least significant bit of its first byte; none unless it is well-formed. -/
def encode (i : Instr) : Option Nat :=
  if i.wf then (encodeRaw i).map Raw.toNat else none

/-- Bytes an instruction takes (R266); 0 for the steps of other agents. -/
def Instr.size (i : Instr) : Nat :=
  match encodeRaw i with
  | some r => lenBytes r.len
  | none => 0

/-- The decoder on fields: LEN first, then OP, length, FN and the operands, and last every unused field and reserved value (R279, R289). -/
def decodeRaw (r : Raw) : Except DecodeError Instr :=
  if r.len = 0 then .error .lenZero
  else do
    let i ← build r
    if i.wf && encodeRaw i == some r then .ok i else .error .reserved

/-- The decoder, on any word: bits above the instruction's length are ignored. -/
def decode (w : Nat) : Except DecodeError Instr := decodeRaw (rawOfNat w)

/-- A little-endian number from bytes (R5, R266). -/
def natOfBytes : List Byte → Nat
  | [] => 0
  | b :: bs => b.toNat + 256 * natOfBytes bs

/-- The n low bytes of a number, least significant first. -/
def bytesOfNat (n w : Nat) : List Byte :=
  match n with
  | 0 => []
  | k + 1 => BitVec.ofNat 8 w :: bytesOfNat k (w / 256)

/-- Whether an agent accepts an instruction (R289): leaf-only opcodes on controllers, and neither groups 4 to 6 nor FORKR, JOINC, TAKE,
DONEG, YIELDT, STAGE and the bank instructions there. -/
def opForAgent (onTile : Bool) (op : Nat) : Bool :=
  if onTile then !(0xF8 ≤ op && op ≤ 0xFD)
  else !((0x80 ≤ op && op < 0xE0) || op == 0x6C || op == 0x6D || op == 0x51 || op == 0xE4 || op == 0xE5 || op == 0xE6
    || op == 0xEA || op == 0xEB || op == 0xEC || op == 0xED)

/-- The host's view of the decoder: nbits is the table's width of the row and every bit above it is 0. -/
def decodeTableWord (nbits w : Nat) : Option Instr :=
  match decode (natOfBytes (bytesOfNat 16 (w % 2 ^ nbits))) with
  | .ok i => some i
  | .error _ => none

end Sys2Proof
end

