-- ==== Sys2Proof/Machine/State.lean ====
section
/-! DEFINITION. The state of one JL-16 module as plain data: every register, queue, table and memory the spec names, and the model's own
bookkeeping (marked MODEL). Tables that reset leaves at one value everywhere are sparse: a key that is not listed holds the default. -/

namespace Sys2Proof.Machine

/-- A sparse table: a key that is not listed holds the default of its entry type. Keys rise strictly. -/
abbrev Tbl (α : Type) := List (Nat × α)

/-- The canonical form of a memory: addresses strictly rising, and no listed byte equal to the 0 that an unlisted address reads as (R91). -/
def memWf : List Host.Cell → Bool
  | [] => true
  | [c] => c.2 != 0
  | c :: d :: l => c.2 != 0 && decide (c.1 < d.1) && memWf (d :: l)

/-- A memory in canonical form. A wipe zeroes every byte (R91), so an unlisted byte reads 0. -/
structure Mem where
  cells : List Host.Cell
  wf : memWf cells = true
  deriving DecidableEq, Repr

/-- Memory with nothing listed: every byte 0 (R91). -/
def Mem.empty : Mem := ⟨[], rfl⟩

/-! ### Contexts and cores -/

/-- Context states (R157, R238). -/
inductive CtxSt where
  | idle | reserved | running | ready | frozen
  deriving DecidableEq, Repr

/-- Full/empty forms at a word (R202). -/
inductive FeForm where
  | ldw | lde | stw | stf | setE | setF
  deriving DecidableEq, Repr

/-- LOOP state (R307, R308). -/
structure LoopSt where
  count : BitVec 32
  start : BitVec 15
  last : BitVec 15
  deriving DecidableEq, Repr

/-- An entry of the binding table (R219, R237, R335). -/
structure Binding where
  obj : Word
  osp : Osp
  rsp : Space
  base : Word
  sizeM1 : BitVec 40
  deriving DecidableEq, Repr

/-- A pending wait (R155, R174, R237, R343). notes are the values that notifying writes left, oldest first (MODEL). -/
inductive PWait where
  | none
  | group (gid : Nat) (sstep : Bool) (code : Option Nat)
  | waitw (loc : Nat) (objAddr : Word) (gen : BitVec 16) (val : Option Word) (notes : List Word)
  | waitg (gid : Nat) (code : Option Nat)
  deriving DecidableEq, Repr

/-- A reply that the context awaits before it goes on: of a controller to GRPNEW or JOIN (R345), with its value or its GROUP fault, or of
FORKR's join cell (R347), by request id. MODEL. -/
inductive Ask where
  | none | sent | answered (v : Word) | refused | cell (id : Nat) (n : Word)
  deriving DecidableEq, Repr

/-- A pattern claim (R127, R128): the descriptor and the granules still CLAIMED (bits of its mask). -/
structure Claim where
  slot : Fin 4
  t0 : Word
  t1 : Word
  mask : Word
  gen : BitVec 16
  deriving DecidableEq, Repr

/-- How far an END, a JOINC or an implied TAKE has come (R161, R162): steps that have been made and after which the context waits. MODEL. -/
inductive Ending where
  | none
  /-- END has left its groups -/
  | left
  /-- only END's implied TAKE remains (R130) -/
  | take
  /-- JOINC has sent its decrement to the join cell at a location: request id and location -/
  | joinSent (id : Nat) (loc : Nat)
  /-- the decrement did not continue: JOINC ends the task -/
  | join
  /-- that end has left its groups -/
  | joinLeft
  deriving DecidableEq, Repr

/-- What a task was started with (R77, R158): kept for END and the implied TAKE. -/
structure Task where
  active : Bool := false
  pat : Bool := false
  evend : Bool := false
  cevt : Nat := 0
  pc : BitVec 15 := 0
  arg0 : Word := 0
  arg1 : Word := 0
  /-- an implied TAKE is due before any instruction (R130) -/
  takeDue : Bool := false
  /-- frozen by an implied TAKE: RESUME makes it again (R130, R241) -/
  takeFault : Bool := false
  /-- JSEQ of the task's next Ladle job (R409) -/
  jseq : BitVec 16 := 0
  /-- the KID, ASID and CAP it was started with: the next pattern tile task has them again (R158) -/
  kid : BitVec 32 := 0
  asid : BitVec 16 := 0
  cap : BitVec 32 := 0
  deriving DecidableEq, Repr

/-- One context (R155). -/
structure Ctx where
  st : CtxSt := .idle
  /-- slot spilled and vacant (R238, R244) -/
  vac : Bool := false
  /-- CODE that froze the context (R238) -/
  fcode : BitVec 8 := 0
  /-- PC (R155): instruction addresses are 15 bits (R267) -/
  pc : BitVec 15 := 0
  /-- g0-g47; accessors read g0 as 0 (R155, R275) -/
  g : Vector Word 48 := Vector.replicate 48 0
  /-- p0-p7; accessors read p0 as all ones (R155) -/
  p : Vector Mask 8 := Vector.replicate 8 0
  /-- vw0-vw15 (R178) -/
  vw : Vector Word 16 := Vector.replicate 16 0
  /-- t0-t3 (R127, R155) -/
  t : Vector Word 4 := Vector.replicate 4 0
  /-- `STATUS` (R159) -/
  status : Word := 0
  /-- `TASKINF` (R160): KID, ASID, and CTX with CORE in place -/
  kid : BitVec 32 := 0
  asid : BitVec 16 := 0
  place : BitVec 14 := 0
  /-- `TASKCAP` (R160) -/
  cap : BitVec 32 := 0
  task : Task := {}
  loop : Option LoopSt := none
  /-- the start and end that LOOP state last held: a DBGWR of the count finds them (R237) -/
  loopStart : BitVec 15 := 0
  loopLast : BitVec 15 := 0
  /-- granules that are LIVE or KILLPEND (R181) -/
  live : BitVec 1024 := 0
  /-- granules that are KILLPEND (R181, R185) -/
  pend : BitVec 1024 := 0
  /-- inbox (R100), oldest first, at most 8 -/
  inbox : List Record := []
  /-- words of the first record already read through q6 (R102) -/
  inboxRead : Nat := 0
  /-- q4 (R167) -/
  q4 : List Word := []
  /-- q5 (R168) -/
  q5 : List Word := []
  /-- q7 (R168) -/
  q7 : List Word := []
  /-- posted counts (R214, R215) -/
  clu : Nat := 0
  mod : Nat := 0
  sys : Nat := 0
  /-- binding table (R219), at most 8 -/
  binds : List Binding := []
  /-- membership table (R155, R171): 4 entries of group id and epoch -/
  members : Vector (Option (Nat × BitVec 16)) 4 := Vector.replicate 4 none
  claim : Option Claim := none
  wait : PWait := .none
  ask : Ask := .none
  /-- a TAKE is parked in the pattern unit (R129); true once the unit has answered none -/
  parked : Option Bool := none
  ending : Ending := .none
  /-- last fault packet (R234, R237) -/
  packet : Packet := 0
  /-- the context has a parked epilogue store (R238) -/
  epip : Bool := false
  /-- id of the queue place that the instruction now waiting reserved (R327). MODEL -/
  due : Nat := 0
  /-- the full/empty form in front has arrived at its own word: its place in the arrival order, the form, and the location once its base is known (R331).
  MODEL -/
  feArr : Option (Nat × FeForm × Option Nat) := none
  /-- 0 while the context is not blocked, else one more than the cycles it has been blocked (R163). MODEL -/
  blocked : Nat := 0
  /-- a KILL waits for its Ladle jobs to complete before the context becomes IDLE (R242). MODEL -/
  killing : Bool := false
  /-- the address and the D of the instruction whose wait stands in `wait` or `ask`: a redirected context runs others meanwhile (R241). MODEL -/
  waitPc : BitVec 15 := 0
  waitDst : Dst := .g 0
  /-- the queue word, and the record that it ended, which a JOIN now waiting has popped: a refused one has popped none (R13, R345). MODEL -/
  popped : Option (Src × Word × Option Record) := none
  deriving DecidableEq, Repr

/-- Supply states of a bank (R187). -/
inductive BankSt where
  | off | retain | full | waking
  deriving DecidableEq, Repr

/-- A bank: its state, the core cycle of its last access, the cycle its wake ends, and whether BKHOLD waits for the wake's end (R188). -/
structure Bank where
  st : BankSt := .off
  last : Nat := 0
  wakeAt : Nat := 0
  hold : Bool := false
  deriving DecidableEq, Repr

/-- A line of the load reuse buffer (R201): its home address, its bytes, the 8-byte words of it that are poisoned (R94), and whether a glb load
allocated it (R221). Newest first. -/
structure LrbLine where
  loc : Nat
  bytes : List Byte
  pois : BitVec 8 := 0
  glb : Bool
  deriving DecidableEq, Repr

/-- The scalar operands, views, predicate mask and rounding mode that a vector or matrix instruction carries from its push (R153, R154, R159). -/
structure VOp where
  ctx : Bool
  instr : Instr
  pc : BitVec 15
  /-- value of the scalar named by A (a base address or a broadcast value), after the offset where there is one -/
  sa : Word
  /-- value of the scalar named by C (a row pitch) -/
  sc : Word
  /-- the views named by D, A, B and C, as they stood at push -/
  vd : Word
  va : Word
  vb : Word
  vc : Word
  /-- the B view (R384) -/
  bv : Word
  /-- PRED after its inversion (R274) -/
  mask : Mask
  /-- the predicates that its operand fields name, in their order -/
  pa : Mask
  pb : Mask
  rm : Rm
  /-- the bytes it accesses, as resolved and checked at push (R230): (place in the operand's image, location) -/
  mem : List (Nat × Nat)
  /-- the 64-byte lines of them that lie on memory-side pages -/
  ms : List Nat
  /-- how a matrix load reads: 0 plain, 1 block-scaled along columns, 2 re-blocking (R399, R400) -/
  blk : Nat
  deriving DecidableEq, Repr

/-- An entry of a core's vector and matrix queue (R114) with the quarters already granted. -/
structure VEntry where
  op : VOp
  quarters : Nat := 0
  /-- granted before a kill: its register-store writes are discarded (R242) -/
  dead : Bool := false
  /-- MMA.RA: the flight that fetches its tile, once its reads have begun (R392) -/
  tile : Option Nat := none
  /-- MMA.RA: MXPF at its push (R389) -/
  depth : Nat := 0
  /-- MMAR: the value of a write of MRSEQ that counts from this one on; and the number that it has taken at its grant (R389) -/
  seqSet : Option (BitVec 16) := none
  seq : BitVec 16 := 0
  /-- MEPI: the MXU's decision has fallen on it, and it waits for a free entry of the epilogue buffer (R403) -/
  won : Bool := false
  /-- granted, while it reads its B tile: the 8-byte pieces still to be read, those read, and whether one was poisoned; the rows of its A view (R388) -/
  btodo : List Nat := []
  bgot : List (Nat × List Byte) := []
  bpois : Bool := false
  rows : List (List Byte) := []
  deriving DecidableEq, Repr

/-- A granted load, or the tile reads of an MMA.RA, until its data have arrived (R355, R398); or an MMAR until its tiles are exchanged (R393). -/
structure Flight where
  id : Nat
  op : VOp
  /-- requests not yet answered -/
  left : Nat
  /-- bytes that have arrived: (home address, byte) -/
  got : List (Nat × Byte)
  /-- killed: the writes are discarded (R242) -/
  dead : Bool := false
  /-- MMAR: its MRSEQ, and which partner tiles are still to come (R393) -/
  mrseq : BitVec 16 := 0
  needA : Bool := false
  needB : Bool := false
  /-- MBLD and MTLD: the 8-byte pieces of the destination whose data have arrived (R398) -/
  placed : List Nat := []
  /-- pieces of B-SRAM that it still has to write, as (location, bytes) (R388) -/
  out : List (Nat × List Byte) := []
  deriving DecidableEq, Repr

/-- An entry of q0-q3 (R166): a word, or a place that a reply will fill, by request id (R327). -/
inductive QWord where
  | word (w : Word) | due (id : Nat)
  deriving DecidableEq, Repr

/-- A record in an outbound buffer (R103), with its place among the sends of its core (R105) and what a refusal's packet needs (R233); dead: the
task that sent it has ended. -/
structure Outgoing where
  id : Nat
  body : Record
  pc : BitVec 15
  insn : BitVec 128
  opa : Word
  ctx : Bool
  dead : Bool := false
  area : Option Nat := none
  deriving DecidableEq, Repr

/-- A write to a bank of a context's register store that is not FULL: its (offset, byte) pairs wait for the bank's wake (R188). -/
structure LateWrite where
  ctx : Bool
  bank : Nat
  bytes : List (Nat × Byte)
  /-- the result of a matrix instruction (R404) -/
  mx : Bool := false
  deriving DecidableEq, Repr

/-- A SPILL or RESTORE in progress on a core (R239, R244, R246). -/
inductive SpillOp where
  | none | spill (ctx : Bool) | restore (ctx : Bool)
  deriving DecidableEq, Repr

/-- One core: a tile core, a leaf controller or the global scheduler core (R96, R155, R156). -/
structure Core where
  c0 : Ctx := {}
  c1 : Ctx := {}
  /-- the active context (R155) -/
  active : Bool := false
  /-- q0-q3 (R166): the words that position i pushed, oldest first -/
  q : Vector (List QWord) 4 := Vector.replicate 4 []
  /-- `CORECFG` (R164) -/
  autosw : Bool := false
  swth : BitVec 16 := 256
  /-- `BKCFG` (R189) -/
  bkRet : BitVec 12 := 0
  bkIdle : BitVec 13 := 256
  /-- `RDESC0.A`-`RDESC7.B` (R199): entry 2k is A, 2k+1 is B -/
  rdesc : Vector Word 16 := Vector.replicate 16 0
  /-- `MXCFG` (R389) -/
  mrseq : BitVec 16 := 0
  mxpf : BitVec 4 := 2
  /-- a value written to MRSEQ while an MMAR pushed before the write stood in the queue: it counts from the next push on (R389) -/
  mrset : Option (BitVec 16) := none
  /-- `PMCSEL0`-`PMCSEL7` (R433) -/
  pmcsel : Vector Word 8 := Vector.replicate 8 0
  /-- PMC0-PMC7 (R432) -/
  pmc : Vector (BitVec 48) 8 := Vector.replicate 8 0
  /-- `CORECTL` (R239) -/
  ctlCtx : Bool := false
  ctlErr : Bool := false
  spill : SpillOp := .none
  /-- `CTXSAVE0`, `CTXSAVE1` (R237) -/
  save0 : Word := 0
  save1 : Word := 0
  /-- what the state map does not hold of spilled contexts, by save area: how their tasks started and how far their instructions have come (MODEL,
  log entry 22) -/
  shelf : Tbl Ctx := []
  /-- banks of the register stores (key 32·ctx + k) and of the scratchpad (key 64 + k) (R187, R190) -/
  banks : Tbl Bank := []
  /-- load reuse buffer (R201), at most 128 lines, the most recently used first -/
  lrb : List LrbLine := []
  /-- staging buffer (R186): granules of context 0 and 1024 + granules of context 1, the most recently used first, at most 64 -/
  staged : List Nat := []
  /-- vector and matrix queue (R114), head first, at most 16 -/
  vq : List VEntry := []
  /-- granted instructions whose data or tiles have not arrived (R355, R393) -/
  fly : List Flight := []
  /-- writes that wait for their register-store banks, oldest first (R188) -/
  late : List LateWrite := []
  /-- outbound buffer (R103), at most 2 records -/
  outbound : List Outgoing := []
  /-- a swap is in progress (R163, R243) -/
  swapping : Bool := false
  /-- packets raised and not yet at the leaf (R234) -/
  pktOut : List Packet := []
  /-- cycles of the core's clock since reset (R7). MODEL -/
  cyc : Nat := 0
  /-- the controller has executed HALT (R435) -/
  stopped : Bool := false
  deriving DecidableEq, Repr

/-! ### Quads, clusters, towers -/

/-- Bytes of a MEPI row still to be sent: (row address in its space, bytes). -/
structure EpiRow where
  addr : Nat
  bytes : List Byte
  deriving DecidableEq, Repr

/-- An entry of the epilogue buffer (R235, R403). -/
structure Epi where
  id : Nat
  pos : Fin 4
  op : VOp
  /-- rows not yet sent -/
  rows : List EpiRow
  /-- rows sent and not yet acknowledged, in requests -/
  left : Nat
  /-- a row has faulted: it and the rows not sent are parked (R235) -/
  parked : Bool := false
  /-- the granules that become dead when the entry is freed -/
  kill : BitVec 1024
  /-- the ASID under which its rows are translated -/
  asid : BitVec 16 := 0
  /-- the task has been killed: a row that faults is dropped (R242) -/
  dead : Bool := false
  area : Option Nat := none
  deriving DecidableEq, Repr

/-- One quad. -/
structure Quad where
  /-- `QUADW` (R116): W0-W3 in [15:0], LDLW in [19:16] -/
  quadw : BitVec 20 := 0x44444
  /-- bv0-bv15 (R384, R385) -/
  bv : Vector Word 16 := Vector.replicate 16 0
  /-- credits and last zero-weight winner of the lane-group arbiter (R117) -/
  laneCr : Vector Int 4 := Vector.replicate 4 0
  laneLast : Fin 4 := 3
  /-- the same of the MXU arbiter -/
  mxuCr : Vector Int 4 := Vector.replicate 4 0
  mxuLast : Fin 4 := 3
  /-- epilogue buffer (R235), at most 4 entries -/
  epi : List Epi := []
  /-- issue level (R141), 16 outside a ramp; the step length of a slew ramp (R146); cycles since the ramp began and to the next step -/
  level : Nat := 16
  rampStep : Nat := 0
  rampPhase : Nat := 0
  rampLeft : Nat := 0
  deriving DecidableEq, Repr

/-- A TLB entry (R204, R205): ASID, virtual page base, page size in bytes, and the leaf entry. -/
structure TlbEnt where
  asid : BitVec 16
  vbase : Nat
  size : Nat
  leaf : Word
  deriving DecidableEq, Repr

/-- Pattern slot states (R119). -/
inductive SlotSt where
  | idle | active | complete
  deriving DecidableEq, Repr

/-- A pattern slot (R120). -/
structure PatSlot where
  st : SlotSt := .idle
  space : Word := 0
  gran : Word := 0x0001000100010001
  order : Word := 0xE4
  tile : Word := 0x01010101
  place : Word := 0
  shOrder : Word := 0xE4
  shTile : Word := 0x01010101
  shPlace : Word := 0
  map : Word := 0
  /-- EVT, KID and IDEM of `PAT.FLAGS`; ACT reads from st -/
  evt : BitVec 16 := 0
  kid : BitVec 32 := 0
  idem : Bool := false
  gen : BitVec 16 := 0
  rank : Nat := 0
  /-- cores revoked by PREVOKE and not admitted again since (R127, R135) -/
  rev : Word := 0
  pend : Bool := false
  /-- how far a seam has come (R134): 0 none, 1 its commit's cycle, 2 the seam's cycle before the seam, 3 that cycle after it, 4 the cycle after. MODEL -/
  seam : Nat := 0
  nfree : Nat := 0
  nclaim : Nat := 0
  nlost : Nat := 0
  /-- events to be signalled: COMPLETE was entered with them in EVT (R137) -/
  evDue : List (BitVec 16) := []
  deriving DecidableEq, Repr

/-- What a footprint-scheduler job does (R226, R408, R416). -/
inductive JobKind where
  | ldl | ldl2d | ldlz | pour (port : Fin 8) (grp : Fin 64) (seq : BitVec 16)
  deriving DecidableEq, Repr

/-- A piece of an engine's access that is parked at a stack's base die (R207): its id in the stack's queue, its first location, whether it is written, and
whether a command has released it: to be replayed, or dropped. -/
structure Park where
  id : Nat
  loc : Nat
  write : Bool
  replay : Bool := false
  drop : Bool := false
  deriving DecidableEq, Repr

/-- A job held by a cluster's footprint scheduler (R226, R409). Addresses as issued; homes are found when its bytes move. -/
structure Job where
  id : Nat
  kind : JobKind
  key : Nat
  ctx : Bool
  asid : BitVec 16
  /-- read and write ranges: home intervals [lo, hi) (R226) -/
  rd : Option (Nat × Nat)
  wr : Option (Nat × Nat)
  /-- jobs this one waits for (R226) -/
  edges : List Nat
  started : Bool := false
  src : Word
  dst : Word
  ssp : Space
  dsp : Space
  /-- bits [127:64] of the instruction, OPX and EVT (R409) -/
  block : Word
  opx : BitVec 9
  evt : BitVec 16
  /-- the sync word: the address operand as issued, its 2-bit space and its home address -/
  sync : Word
  ysp : SyncSp
  syncLoc : Nat
  /-- the job id that D received (R409) -/
  jobid : Word
  len : Nat
  /-- bytes completed in job order (R247) -/
  cursor : Nat := 0
  poisoned : Bool := false
  /-- stopped by a spill; a kill; a fault with its CODE and DETAIL (R235, R242, R244) -/
  stopped : Bool := false
  killed : Bool := false
  faulted : Bool := false
  /-- every byte moved, or ended: waits for its completion step (R227) -/
  ended : Bool := false
  /-- the task that issued it still runs: q5 words go to it (R168) -/
  owned : Bool := true
  /-- the burst under way (R209, R410): pieces still to be read, as (source, destination); pieces still to be written; its lines that lie on
  memory-side pages. Of a pour: pieces of the frame's source still to be read, as (source, place in the frame), and of its result to be written -/
  todo : List (List (Nat × Nat)) := []
  out : List (List (Nat × Byte)) := []
  msl : List Nat := []
  /-- of a pour: the reading of a frame's source has begun; what has been read of it, as (place, byte) (R228) -/
  reading : Bool := false
  got : List (Nat × Byte) := []
  /-- pieces that are parked (R207) -/
  parks : List Park := []
  /-- its context is spilled to this save area (R244) -/
  area : Option Nat := none
  deriving DecidableEq, Repr

/-- A tile sent over the torus by an MMAR (R393). -/
structure TorusTile where
  quad : Nat
  pos : Fin 4
  isA : Bool
  mrseq : BitVec 16
  /-- the core that sent it, and its MMAR, which is not complete before the tile is delivered -/
  sender : Nat
  src : Nat
  /-- bytes per row or column that it carries, and the bytes, rows or columns in order -/
  k : Nat
  rows : List (List Byte)
  deriving DecidableEq, Repr

/-- One cluster. -/
structure Cluster where
  /-- TLB (R204), newest first, at most 2,048 -/
  tlb : List TlbEnt := []
  /-- `TLBINV` (R430): ALL and ASID as written; GO while it works -/
  invAll : Bool := false
  invAsid : BitVec 16 := 0
  invGo : Bool := false
  /-- `CLADM0`-`CLADM7` (R99) -/
  cladm : Vector Word 8 := Vector.replicate 8 0
  /-- pattern slots (R119) -/
  slots : Vector PatSlot 4 := Vector.replicate 4 {}
  /-- footprint scheduler (R226), in the order jobs reached it, at most 64 -/
  jobs : List Job := []
  /-- the job each Ladle engine is on; credits and last zero-weight winner of the two engines (R412) -/
  ldl0 : Option Nat := none
  ldl1 : Option Nat := none
  ldlCr : Vector Int 32 := Vector.replicate 32 0
  ldlLast : Vector (Fin 16) 2 := Vector.replicate 2 15
  /-- leaf fault queue (R234), at most 64 -/
  faults : List Packet := []
  /-- command error of the leaf's last command (R241) -/
  cmdErr : Bool := false
  /-- tiles on the torus (R393) -/
  torus : List TorusTile := []
  /-- `THRRSN` (R149) -/
  thrrsn : BitVec 5 := 0
  /-- thermal throttle acts: the clock is stretched to half rate (R149) -/
  thermal : Bool := false
  /-- a domain switch is due, or in progress until a time (R145) -/
  switchUntil : Option Nat := none
  /-- the regulator that supplies the cluster now; none: the reset value i div 20 (R145) -/
  dom : Option (Fin 4) := none
  deriving DecidableEq, Repr

/-- One tower. -/
structure Tower where
  /-- `SSCFG` (R140) -/
  rstep : BitVec 8 := 0
  stagger : BitVec 8 := 0
  /-- `ENGSHR` (R413) -/
  portw : BitVec 4 := 4
  ladw : BitVec 4 := 4
  /-- credits of port engines and of Ladle engines at the tower's L2 (0, 1) and at its scratchpad (2, 3); the last zero-weight winner at each (R117, R413) -/
  engCr : Vector Int 4 := Vector.replicate 4 0
  engLast : Vector (Fin 2) 2 := Vector.replicate 2 1
  deriving DecidableEq, Repr

/-- Phase kinds of a group (R170). -/
inductive PhaseKind where
  | none | sync | sstep
  deriving DecidableEq, Repr

/-- A context that waits at a group (R173, R345): for its phase, or by WAITG; area: it is spilled to this save area. -/
structure Waiter where
  key : Nat
  ctx : Bool
  waitg : Bool
  area : Option Nat := none
  deriving DecidableEq, Repr

/-- A membership group (R170), with its waiters. -/
structure Group where
  opened : Bool := false
  asid : BitVec 16 := 0
  epoch : BitVec 16 := 0
  m : Nat := 0
  a : Nat := 0
  kind : PhaseKind := .none
  waiters : List Waiter := []
  /-- pod barrier: the group has completed and waits for the census (R143) -/
  podArrived : Bool := false
  deriving DecidableEq, Repr

/-- Group operations on their way to a controller (R172, R345). -/
inductive GroupOpKind where
  | new | init | free | join | leave | sync | sstep | waitg
  deriving DecidableEq, Repr

/-- One group operation under way. INSN, OPA, OPB and pc are kept for a refusal (R233); dead: the task that sent it has been killed, and no answer or
refusal reaches the context. -/
structure GroupOp where
  id : Nat
  key : Nat
  ctx : Bool
  kind : GroupOpKind
  gid : Nat
  asid : BitVec 16
  pc : BitVec 15
  insn : BitVec 128
  opa : Word
  opb : Word
  dead : Bool := false
  deriving DecidableEq, Repr

/-- A release on its way to a member (R172, R139): the code, and for an SSTEP the time and the ramp's step carried with it, the completion it belongs
to, its column, and the time by which its column is released once one of it has been. -/
structure Release where
  id : Nat
  key : Nat
  ctx : Bool
  code : Nat
  sstep : Bool
  at_ : Nat
  rstep : BitVec 8
  batch : Nat := 0
  col : Nat := 0
  by_ : Option Nat := none
  /-- of a pod barrier (R143) -/
  pod : Bool := false
  area : Option Nat := none
  deriving DecidableEq, Repr

/-- A refusal on its way back to the context that posted the operation (R230, R345, R350). -/
structure PostRefusal where
  id : Nat
  key : Nat
  ctx : Bool
  /-- false for a JOIN, which still waits for its reply -/
  posted : Bool
  code : BitVec 8
  detail : BitVec 8
  pc : BitVec 15
  insn : BitVec 128
  opa : Word
  opb : Word
  area : Option Nat := none
  deriving DecidableEq, Repr

/-! ### The fabric -/

/-- What a request does at its home (R208). -/
inductive ReqKind where
  /-- a write of these (home address, byte) pairs -/
  | write (bytes : List (Nat × Byte))
  /-- a read of these home addresses -/
  | load (locs : List Nat)
  /-- RADD, and the addition of PUTSIG (R333, R334) -/
  | syncAdd (loc : Nat) (n : Nat)
  | amo (op : AmoOp) (w64 : Bool) (loc : Nat) (x : Word)
  | cas (w64 : Bool) (loc : Nat) (x n : Word)
  | amof (loc : Nat) (x : BitVec 32)
  | swarm (loc : Nat) (target : BitVec 48)
  /-- WAITW: arming and the first read (R343) -/
  | arm (loc : Nat) (gen : BitVec 16)
  | fe (form : FeForm) (loc : Nat) (data : Word)
  /-- FORKR's start of a recruit (R111): key, context, entry PC, argument, t0-t3, KID, ASID and CAP -/
  | forkStart (key : Nat) (ctx : Bool) (pc : BitVec 15) (arg : Word) (t : Vector Word 4) (kid : BitVec 32) (asid : BitVec 16) (cap : BitVec 32)
  /-- JOINC's decrement of the join cell at this location (R112) -/
  | join (loc : Nat)
  /-- a record on its way to the hold store (R107) -/
  | hold (r : Record)
  /-- a task record or an ISTLOAD on the ordered route (R105); msg: sent by MSG, whose refusal returns -/
  | record (r : Record) (msg : Bool) (pc : BitVec 15) (insn : BitVec 128) (opa : Word)
  deriving DecidableEq, Repr

/-- Where an answer goes. -/
inductive ReqDst where
  | none
  /-- a scalar register, with the load's extension -/
  | reg (d : Dst) (k : LdKind)
  /-- the place reserved for this request in q_i of a core (R327) -/
  | slot (key : Nat) (i : Fin 4) (k : LdKind)
  /-- GET: the scratchpad of the source core, from this address on -/
  | spm (base : Nat)
  /-- a vector or matrix load, or a tile of MMA.RA -/
  | flight (id : Nat)
  /-- a row of a MEPI -/
  | epi (quad : Nat) (id : Nat)
  deriving DecidableEq, Repr

/-- A request beyond the core: counted, performed at its home, and answered (R214). -/
structure Req where
  id : Nat
  key : Nat
  ctx : Bool
  kind : ReqKind
  /-- the first home address, and the aligned 64-byte line (R212) -/
  loc : Nat
  /-- the class it counts in (R214) -/
  cls : Option Cls
  dst : ReqDst := .none
  /-- on the ordered route of this core (R105) -/
  route : Option Nat := none
  /-- performed only after these (R333) -/
  after : List Nat := []
  /-- the task was killed: the answer is discarded (R327, R331) -/
  dead : Bool := false
  /-- on a memory-side page: served at the stack (R206) -/
  ms : Bool := false
  /-- released from a park: applied whatever its word holds (R207) -/
  replayed : Bool := false
  performed : Bool := false
  parked : Bool := false
  /-- a full/empty form waits at its word with this place in the arrival order (R202) -/
  arr : Option Nat := none
  /-- the answer fixed at the home, its poison and its floating-point flags (R94, R340, R341) -/
  val : Word := 0
  pois : Bool := false
  flags : Word := 0
  /-- a load that allocates a line of the reuse buffer, and whether by glb (R201) -/
  alloc : Bool := false
  glb : Bool := false
  /-- lines like its own have been dropped since it was sent: the line that it allocates is read at the home anew (R221, R223) -/
  fresh : Bool := false
  /-- a load's bytes read so far: (home address, byte) (R209) -/
  got : List (Nat × Byte) := []
  area : Option Nat := none
  deriving DecidableEq, Repr

/-- A 64 KiB unit's base-die state (R207): HELD by firmware or on an error. -/
structure Stack where
  held : List (BitVec 24) := []
  /-- requests and engine jobs parked, by id, in queue order, at most 64 -/
  queue : List Nat := []
  /-- units set HELD on an error, oldest first, at most 64 -/
  errUnits : List (BitVec 24) := []
  /-- `MSQCTL` (R207) -/
  err : Bool := false
  cmd : BitVec 3 := 0
  unit : BitVec 24 := 0
  /-- the unit of the command in progress -/
  cmdUnit : BitVec 24 := 0
  deriving DecidableEq, Repr

/-! ### Host, events, boot -/

/-- A command queue (R79). -/
structure HostQueue where
  base : Word := 0
  asid : BitVec 16 := 0
  capmax : BitVec 32 := 0
  logsz : BitVec 4 := 0
  en : Bool := false
  tail : BitVec 32 := 0
  head : BitVec 32 := 0
  errIndex : BitVec 32 := 0
  errCount : BitVec 16 := 0
  errCode : BitVec 4 := 0
  deriving DecidableEq, Repr

/-- An event object (R81). -/
structure Event where
  target : BitVec 32 := 0
  count : BitVec 32 := 0
  deriving DecidableEq, Repr

/-- A notification slot (R83). -/
structure NotSlot where
  addr : Word := 0
  cfg : Word := 0
  deriving DecidableEq, Repr

/-- A record in the hold store (R107); released: the place of its event's signal in the order of signals (R108). -/
structure Held where
  id : Nat
  body : Record
  released : Option Nat
  deriving DecidableEq, Repr

/-- A command link's channel pair at one cluster (R97, R98): global core to leaf (down) and leaf to global core (up); held: messages that their
sender holds for want of a permit, oldest first. -/
structure CmdLink where
  downPermits : Nat := 16
  downBuf : List Packet := []
  downStalls : BitVec 16 := 0
  downHeld : List Packet := []
  upPermits : Nat := 16
  upBuf : List Packet := []
  upStalls : BitVec 16 := 0
  upHeld : List Packet := []
  deriving DecidableEq, Repr

/-- A package regulator and its domain (R145-R149). -/
structure Regulator where
  /-- `SLEWLIM.LIM` (R146) -/
  lim : BitVec 16 := 0
  /-- `DVREQ.FCODE`; the present frequency code and the target of the request in force (R147, R148) -/
  fcode : BitVec 5 := 15
  f : BitVec 5 := 15
  fnew : BitVec 5 := 15
  /-- voltage target in mV, present voltage in units of 10 µV (10 mV/µs is one unit per ns) -/
  vt : Nat := 600
  v : Nat := 60000
  /-- a current throttle acts (R149) -/
  current : Bool := false
  /-- the timebase when the over-current was last seen (R149) -/
  currentAt : Nat := 0
  /-- a rise is held by the slew limit (R146) -/
  slewHold : Bool := false
  deriving DecidableEq, Repr

/-! ### Runner ports -/

/-- Laser states (R37). -/
inductive LaserSt where
  | off | waking | lit
  deriving DecidableEq, Repr

/-- A laser group: its state, when it entered it or its hold began, and whether a hold runs (R37, R39). -/
structure Laser where
  st : LaserSt := .off
  since : Nat := 0
  holding : Bool := false
  deriving DecidableEq, Repr

/-- Calibration states (R46). -/
inductive CalSt where
  | uncal | pending | running | calok | calfail
  deriving DecidableEq, Repr

/-- A group entry (R49, R50). -/
structure RGroup where
  expseq : BitVec 16 := 0
  rollto : BitVec 14 := 1000
  replaymax : BitVec 3 := 3
  valid : Bool := false
  mask : BitVec 32 := 0
  deriving DecidableEq, Repr

/-- Pour states (R53). -/
inductive PourSt where
  | queued | announcing | running
  deriving DecidableEq, Repr

/-- What a pour sends and how it writes its result (R416-R420). -/
inductive PourKind where
  | int (ty : BitVec 3)
  | bs (bs8 : Bool)
  | skim
  | bcast (root : Fin 32)
  deriving DecidableEq, Repr

/-- Which frame of a running pour is under way (R57, R66). -/
inductive Phase where
  | data (pos : Nat) | skim (set : Nat)
  deriving DecidableEq, Repr

/-- A pour at a port (R53), from RPOUR to its completion. -/
structure Pour where
  grp : Fin 64
  seq : BitVec 16
  kind : PourKind
  count : Nat
  src : Word
  dst : Word
  ssp : Space
  dsp : Space
  asid : BitVec 16
  syncLoc : Nat
  evt : BitVec 16
  q7 : Bool
  key : Nat
  ctx : Bool
  owned : Bool := true
  job : Nat
  cluster : Nat
  st : PourSt := .queued
  /-- its footprint edges are satisfied (R53) -/
  edgesOk : Bool := false
  /-- ns left of `ROLLTO`, once started (R53) -/
  timer : Option Nat := none
  /-- its `ROLLTO` has expired, with so many idle slots passed then (R55) -/
  expired : Option Nat := none
  /-- ended with this CODE: its completion writes are due (R70, R72) -/
  code : Option (BitVec 4) := none
  /-- fixed at the first census (R57): L, R and the writers -/
  lim : Nat := 0
  rounds : Nat := 0
  mask : BitVec 32 := 0
  phase : Phase := .data 0
  round : Nat := 0
  sending : Nat := 0
  acc : List Int := []
  emax : List Nat := []
  /-- the elements of the round-frame being sent, and whether a source byte of it was poisoned: kept for its replays (R64); none before its
  first sending, and in a round in which the port does not write -/
  kept : Option (List Int × Bool) := none
  /-- the port's own exponents of the skim set (R66) -/
  exps : List Nat := []
  /-- ended, and every block is written or on its way (R70) -/
  blocksDone : Bool := false
  /-- frame positions (or, for BS8, skim sets) poisoned; blocks poisoned and replays (R71) -/
  badPos : List Nat := []
  badSets : List Nat := []
  npois : Nat := 0
  nrepl : Nat := 0
  sat : Bool := false
  area : Option Nat := none
  deriving DecidableEq, Repr

/-- A Runner port (R42-R50, R73). -/
structure Port where
  segid : BitVec 8 := 0
  spos : BitVec 5 := 0
  gbw : BitVec 4 := 8
  ckmst : Bool := false
  en : Bool := false
  calgen : BitVec 32 := 0
  rwlim : BitVec 4 := 0
  lcal : BitVec 4 := 0
  aerr : BitVec 8 := 0
  auto : Bool := true
  ldly : BitVec 18 := 0
  hold : BitVec 16 := 0x0100
  force : BitVec 9 := 0
  lasers : Vector Laser 9 := Vector.replicate 9 {}
  failw : BitVec 8 := 0
  plim : BitVec 4 := 0
  cal : CalSt := .uncal
  start : Bool := false
  stat : BitVec 8 := 0
  eras : BitVec 32 := 0
  overs : BitVec 32 := 0
  pourCnt : BitVec 32 := 0
  absCnt : BitVec 32 := 0
  replCnt : BitVec 32 := 0
  poisCnt : BitVec 32 := 0
  groups : Tbl RGroup := []
  pours : List Pour := []
  /-- last group granted (R56) -/
  lastGrant : Fin 64 := 63
  /-- the positions that took part in the last calibration (R32), by which the port knows the probe slots of its segment (R36) -/
  known : BitVec 32 := 0
  /-- announcement cycle count k (R54) -/
  k : Nat := 0
  /-- idle slots since the calibration epoch (R54): slot idle mod 32 of idle cycle idle div 32 -/
  idle : Nat := 0
  /-- the announcements of the cycle under way, as seen in its slots so far (R54) -/
  seen : List (Option Announce) := []
  /-- the pour announced in the cycle under way, by its job, and whether its `ROLLTO` had expired when the cycle started (R54, R55) -/
  ann : Option Nat := none
  annExp : Bool := false
  /-- a pour past its census uses the segment (R34, R57) -/
  busy : Bool := false
  /-- a value of LDLY that takes effect in the next idle slot (R44) -/
  ldlyNext : Option (BitVec 18) := none
  /-- the microsecond of the timebase in which the last drift step was made (R36) -/
  stepUs : Option Nat := none
  /-- a value of RWLIM in distribution (R33) -/
  rwlimDist : Option (BitVec 4) := none
  /-- the clock is lost (R41) -/
  ckLost : Bool := false
  /-- the port has stopped writing on an alignment error (R35) -/
  alignStop : Bool := false
  deriving DecidableEq, Repr

/-! ### The module -/

/-- What acts next: an agent issues, a step of another agent happens, a stack completes its command, whole nanoseconds or half a nanosecond pass, or the
host writes its own memory. MODEL. -/
inductive Turn where
  | issue (key : Nat)
  | event (i : Instr)
  | stackEnd (stack : Fin 16)
  | elapse (ns : Nat)
  | half
  | hostStore (addr : Nat) (bytes : List Byte)
  deriving DecidableEq, Repr

/-- One JL-16 module and the host memory it reaches. -/
structure State where
  /-- bits [63:54] of this module's global addresses (R198) -/
  modId : BitVec 10
  /-- the segment of port 0 is the segment 0 of a pod (R26): cabling, which the device does not change (R25). MODEL -/
  inPod : Bool
  /-- all memories, by home address (R198); see Ops for the model's addresses of the memories that no module-local range names -/
  mem : Mem
  /-- poisoned 8-byte words, by home address div 8, rising (R94) -/
  poison : List Nat
  /-- FULL tags of scratchpad words (R202), by home address div 8, rising -/
  full : List Nat
  /-- live scratchpad words (R190), by home address div 8, rising -/
  spmLive : List Nat
  /-- sync marks (R203), by home address div 16, rising -/
  marks : List Nat
  /-- monitors of WAITW at this module's homes (R343): (home address, key, context) -/
  monitors : List (Nat × Nat × Bool)
  cores : Tbl Core
  quads : Tbl Quad
  clusters : Tbl Cluster
  towers : Tbl Tower
  groups : Tbl Group
  dram : Tbl Stack
  ports : Vector Port 8
  regs : Vector Regulator 4
  /-- `DOMMAP0`-`2` (R145), as written -/
  dommap : Vector Word 3
  /-- requests of the fabric (R214), in the order they were sent -/
  fabric : List Req
  groupOps : List GroupOp
  releases : List Release
  refusals : List PostRefusal
  /-- next id of a request, job, operation or record (MODEL) -/
  nextId : Nat
  /-- host queues (R79) -/
  queues : Tbl HostQueue
  events : Tbl Event
  slots : Tbl NotSlot
  evsel : BitVec 16
  held : List Held
  hldrop : BitVec 32
  links : Tbl CmdLink
  clsel : BitVec 7
  /-- `FEATACC`: each half as written, whether it has been written, and the set in force (R86) -/
  featLower : Word
  featUpper : Word
  featLowerSet : Bool
  featUpperSet : Bool
  featAcc : Word
  /-- `BOOTSTAT` (R87) -/
  wiped : Bool
  go : Bool
  measured : Bool
  bootReady : Bool
  /-- `FWLOCK` (R88), and whether its single write has been made (R9) -/
  fwWritten : Bool
  lock : Bool
  lockLimit : BitVec 24
  lockBase : BitVec 24
  /-- `ALARM` (R93): the cause bits and ACT -/
  alarm : BitVec 4
  alarmAct : BitVec 8
  /-- `ATREQ` (R90), the mailbox nonce and the report -/
  atBusy : Bool
  atErr : Bool
  nonce : BitVec 256
  report : List Byte
  /-- M1, M2 and the identities (R89); cert2: the certificate of layer 2, none without one; keysErased: the secrets zeroised (R93) -/
  m1 : BitVec 256
  s1 : BitVec 256
  cert : List Byte
  pk0 : List Byte
  m2 : BitVec 256
  s2 : BitVec 256
  cert2 : Option (List Byte)
  keysErased : Bool
  /-- life-cycle fuses (R92); the ERR and TARGET of `LCREQ` -/
  fuses : BitVec 2
  lcErr : Bool
  lcTarget : BitVec 2
  /-- error counters (R95): correctable and uncorrectable, in the order of R95 -/
  errCor : Vector (BitVec 32) 7
  errUnc : Vector (BitVec 32) 7
  /-- `XLBASE` (R205) -/
  xlbase : Word
  /-- `PODCFG` (R144): PODSTAG, MEMB, PODG, EN -/
  podstag : BitVec 10
  podMemb : BitVec 6
  podg : BitVec 12
  podEn : Bool
  /-- all clocks stopped until reset (R23, R93) -/
  halted : Bool
  /-- the timebase of the I/O die (R150), each cluster's copy, and `TBSTAT` (R151) -/
  tb : Nat
  tbCopies : Vector Nat 80
  tbLock : Bool
  tbOffs : BitVec 32
  /-- time to be given back at half rate while the module is ahead of the pod (R151) -/
  tbSlow : Nat
  /-- MSI-X vectors sent, newest first (R84, R93): what the host saw (MODEL) -/
  msix : List Nat
  /-- host memory (R74): rings and descriptors; what the last BAR0 or CXL.mem read returned to the host, and whether with poison (MODEL) -/
  hostMem : Mem
  hostRead : List Byte
  hostPois : Bool
  /-- nanoseconds of real time since reset (MODEL): the timebase before steering -/
  now : Nat
  /-- the first half of the nanosecond under way has passed (MODEL) -/
  halfNs : Bool
  /-- the agent whose instruction is executed (MODEL) -/
  focus : Nat
  /-- what acts next; when it is empty a free value chooses among what is pending (MODEL) -/
  agenda : List Turn
  /-- steps made (MODEL): the counter of the free values -/
  tick : Nat
  deriving DecidableEq, Repr

/-- Why a step stops. -/
inductive Fault where
  /-- Raised by step when the agenda names an agent that the module does not have (R16, R19). Safe: no hardware step is dropped. -/
  | noSuchAgent
  deriving DecidableEq, Repr

/-- Why an instruction has no meaning. -/
inductive Refusal where
  /-- Raised by an arm of exec that has no meaning yet. Safe: nothing follows from it. -/
  | notModelled (mnemonic : String)
  deriving DecidableEq, Repr

/-- The module right after reset (R8, R91): every memory byte 0, every event FREE, every group UNUSED, every granule dead, every bank OFF,
`FEATACC` 0, timebase 0. Where the spec gives no reset value the log names it (entry 1). -/
def State.reset : State where
  modId := 0
  inPod := true
  mem := Mem.empty
  poison := []
  full := []
  spmLive := []
  marks := []
  monitors := []
  cores := []
  quads := []
  clusters := []
  towers := []
  groups := []
  dram := []
  ports := Vector.replicate 8 {}
  regs := Vector.replicate 4 {}
  dommap := #v[0x5555550000000000, 0xFFAAAAAAAAAA5555, 0xFFFFFFFF]
  fabric := []
  groupOps := []
  releases := []
  refusals := []
  nextId := 1
  queues := []
  events := []
  slots := []
  evsel := 0
  held := []
  hldrop := 0
  links := []
  clsel := 0
  featLower := 0
  featUpper := 0
  featLowerSet := false
  featUpperSet := false
  featAcc := 0
  wiped := false
  go := false
  measured := false
  bootReady := false
  fwWritten := false
  lock := false
  lockLimit := 0
  lockBase := 0
  alarm := 0
  alarmAct := 0
  atBusy := false
  atErr := false
  nonce := 0
  report := []
  m1 := 0
  s1 := 0
  cert := []
  pk0 := []
  m2 := 0
  s2 := 0
  cert2 := none
  keysErased := false
  fuses := 0
  lcErr := false
  lcTarget := 0
  errCor := Vector.replicate 7 0
  errUnc := Vector.replicate 7 0
  xlbase := 0
  podstag := 0
  podMemb := 0
  podg := 0
  podEn := false
  halted := false
  tb := 0
  tbCopies := Vector.replicate 80 0
  tbLock := false
  tbOffs := 0
  tbSlow := 0
  msix := []
  hostMem := Mem.empty
  hostRead := []
  hostPois := false
  now := 0
  halfNs := false
  focus := 0
  agenda := []
  tick := 0

end Sys2Proof.Machine
end

