-- ==== Sys2Proof/Machine/Ops.lean ====
section
/-! DEFINITION. The named operations over the state: tables, memory and its side marks, addresses and homes, contexts and cores, taking a fault
and returning from one. -/

namespace Sys2Proof.Machine

/-! ### Tables and sets -/

/-- The entry at a key, or the default. -/
def tget {α : Type} (d : α) : Tbl α → Nat → α
  | [], _ => d
  | (k, v) :: l, n => if k = n then v else tget d l n

/-- The table with one entry replaced, keys rising. -/
def tset {α : Type} : Tbl α → Nat → α → Tbl α
  | [], n, x => [(n, x)]
  | (k, v) :: l, n, x => if n < k then (n, x) :: (k, v) :: l else if n = k then (n, x) :: l else (k, v) :: tset l n x

/-- Add to a rising list without repeats. -/
def nsAdd : List Nat → Nat → List Nat
  | [], n => [n]
  | k :: l, n => if n < k then n :: k :: l else if n = k then k :: l else k :: nsAdd l n

/-- Remove from a list. -/
def nsDel (l : List Nat) (n : Nat) : List Nat := l.filter (· ≠ n)

/-- Replace the element at an index. -/
def lset {α : Type} : List α → Nat → α → List α
  | [], _, _ => []
  | _ :: l, 0, x => x :: l
  | a :: l, n + 1, x => a :: lset l n x

/-! ### Memory -/

/-- The byte at an address of a list of cells. -/
def cellsGet : List Host.Cell → Nat → Byte
  | [], _ => 0
  | (k, v) :: l, a => if k = a then v else cellsGet l a

/-- The cells with one byte written: writing 0 removes the entry. -/
def cellsPut : List Host.Cell → Nat → Byte → List Host.Cell
  | [], a, b => if b = 0 then [] else [(a, b)]
  | (k, v) :: l, a, b =>
    if a < k then (if b = 0 then (k, v) :: l else (a, b) :: (k, v) :: l)
    else if a = k then (if b = 0 then l else (a, b) :: l)
    else (k, v) :: cellsPut l a b

/-- The tail of a canonical list is canonical. -/
theorem memWf_tail {c : Host.Cell} {l : List Host.Cell} (h : memWf (c :: l) = true) : memWf l = true := by
  cases l with
  | nil => rfl
  | cons d l => simp [memWf] at h; exact h.2

/-- In front of a canonical list whose addresses are all above, a nonzero byte keeps the form. -/
theorem memWf_cons {a : Nat} {b : Byte} {l : List Host.Cell} (hb : b ≠ 0) (hl : memWf l = true)
    (hlt : ∀ c ∈ l.head?, a < c.1) : memWf ((a, b) :: l) = true := by
  cases l with
  | nil => simpa [memWf] using hb
  | cons d l =>
    have := hlt d (by simp)
    simp only [memWf, Bool.and_eq_true, bne_iff_ne, decide_eq_true_eq]
    exact ⟨⟨hb, this⟩, hl⟩

/-- Everything a write can put at the head: the old head, or the address written. -/
theorem cellsPut_head (l : List Host.Cell) (a : Nat) (b : Byte) (k : Nat) (hk : k < a)
    (h : memWf l = true) (hl : ∀ c ∈ l.head?, k < c.1) : ∀ c ∈ (cellsPut l a b).head?, k < c.1 := by
  cases l with
  | nil => simp only [cellsPut]; split <;> simp [hk]
  | cons d l =>
    obtain ⟨dk, dv⟩ := d
    have hd : k < dk := hl (dk, dv) (by simp)
    simp only [cellsPut]
    split
    · split <;> simp [hk, hd]
    · split
      · split
        · cases l with
          | nil => simp
          | cons e l => simp only [memWf, Bool.and_eq_true, decide_eq_true_eq] at h; simp; omega
        · simp [hk]
      · simp [hd]

/-- A write keeps the canonical form. -/
theorem cellsPut_wf (l : List Host.Cell) (a : Nat) (b : Byte) (h : memWf l = true) : memWf (cellsPut l a b) = true := by
  induction l with
  | nil => simp only [cellsPut]; split <;> simp_all [memWf]
  | cons d l ih =>
    obtain ⟨dk, dv⟩ := d
    have ht := memWf_tail h
    have hv : dv ≠ 0 := by cases l <;> simp_all [memWf]
    simp only [cellsPut]
    split
    · split
      · exact h
      · rename_i h1 h2; exact memWf_cons h2 h (by simpa using h1)
    · split
      · split
        · exact ht
        · rename_i h1 h2 h3
          refine memWf_cons h3 ht ?_
          cases l with
          | nil => simp
          | cons e l => simp only [memWf, Bool.and_eq_true, decide_eq_true_eq] at h; simp; omega
      · rename_i h1 h2
        refine memWf_cons hv (ih ht) (cellsPut_head l a b dk (by omega) ht ?_)
        cases l with
        | nil => simp
        | cons e l => simp only [memWf, Bool.and_eq_true, decide_eq_true_eq] at h; simp; omega

/-- The byte at an address; an unlisted address reads 0 (R91). -/
def Mem.get (m : Mem) (a : Nat) : Byte := cellsGet m.cells a

/-- One byte written. -/
def Mem.put (m : Mem) (a : Nat) (b : Byte) : Mem := ⟨cellsPut m.cells a b, cellsPut_wf m.cells a b m.wf⟩

/-- n bytes from an address on. -/
def Mem.getN (m : Mem) (a n : Nat) : List Byte := (List.range n).map fun i => m.get (a + i)

/-- Bytes written from an address on. -/
def Mem.putN (m : Mem) (a : Nat) : List Byte → Mem
  | [] => m
  | b :: bs => (m.put a b).putN (a + 1) bs

/-- A little-endian number of n bytes. -/
def Mem.getLE (m : Mem) (a n : Nat) : Nat := natOfBytes (m.getN a n)

/-! ### Naming agents (R18, R96) -/

/-- The key of leaf controller i. -/
def leafKey (i : Nat) : Nat := 0x10000 + i
/-- The key of the global scheduler core. -/
def globalKey : Nat := 0x20000
/-- A tile core: a 13-bit id whose CCOL is at most 4 (R18, R19). -/
def isTile (key : Nat) : Bool := key < 0x2000 && key / 64 % 8 ≤ 4
/-- A leaf controller. -/
def isLeaf (key : Nat) : Bool := 0x10000 ≤ key && key < 0x10000 + 80
/-- A key that names an agent. -/
def isAgent (key : Nat) : Bool := isTile key || isLeaf key || key == globalKey
/-- Tower of a core id. -/
def towerOfCore (key : Nat) : Nat := key / 2048 % 4
/-- Cluster index of a tile core or of a leaf (R18); 80 for the global scheduler core, which is in none. -/
def clusterOf (key : Nat) : Nat :=
  if 0x10000 ≤ key then min (key - 0x10000) 80 else key / 2048 * 20 + key / 512 % 4 * 5 + key / 64 % 8
/-- A core's number within its cluster, 0-63 (R18). -/
def coreNum (key : Nat) : Nat := key % 64
/-- The core id with this number in cluster i. -/
def coreAt (i n : Nat) : Nat := i / 20 * 2048 + i % 20 / 5 * 512 + i % 5 * 64 + n % 64
/-- Position in the quad. -/
def posOf (key : Nat) : Fin 4 := Fin.ofNat 4 key
/-- The quad of a core id: its id without POS. -/
def quadOf (key : Nat) : Nat := key / 4
/-- Tower of a cluster index. -/
def towerOfCluster (i : Nat) : Nat := i / 20

/-! ### Addresses (R195, R198). Locations below 2^54 are module-local addresses; a scratchpad's locations are logical (R200). -/

/-- First location of another module's memory: 2^63 and the global address. -/
def foreignBase : Nat := 2 ^ 63
/-- Tower scratchpad t. -/
def locTwr (t a : Nat) : Nat := 0x010000000000 + t * 0x04000000 + a
/-- Cluster-shared window of cluster i. -/
def locCls (i a : Nat) : Nat := 0x010100000000 + i * 0x00400000 + a
/-- Scratchpad of a tile core, or data memory of a controller (model's own place). -/
def locSpm (key a : Nat) : Nat := if key < 0x2000 then 0x010200000000 + key * 0x00040000 + a else 2 ^ 60 + key * 0x10000 + a
/-- A quad's lane slices (model's own place). -/
def locLane (quad a : Nat) : Nat := 2 ^ 56 + quad * 2 ^ 18 + a
/-- A core's instruction store (model's own place). -/
def locIst (key off : Nat) : Nat := 2 ^ 57 + key * 2 ^ 15 + off
/-- A quad's B-SRAM: slice j, byte b (model's own place). -/
def locBs (quad j b : Nat) : Nat := 2 ^ 58 + quad * 2 ^ 19 + j * 2 ^ 14 + b
/-- A context's register store (model's own place). -/
def locRs (key : Nat) (ctx : Bool) (off : Nat) : Nat := 2 ^ 59 + (key * 2 + ctx.toNat) * 2 ^ 16 + off

/-- The scratchpad window of the module-local map: core id and offset. -/
def spmOfLoc (loc : Nat) : Option (Nat × Nat) :=
  if 0x010200000000 ≤ loc && loc < 0x010200000000 + 0x2000 * 0x40000 then
    some ((loc - 0x010200000000) / 0x40000, (loc - 0x010200000000) % 0x40000)
  else if 2 ^ 60 ≤ loc && loc < 2 ^ 60 + 0x30000 * 0x10000 then some ((loc - 2 ^ 60) / 0x10000, (loc - 2 ^ 60) % 0x10000)
  else none

/-- The cluster-shared window: cluster and offset. -/
def clsOfLoc (loc : Nat) : Option (Nat × Nat) :=
  if 0x010100000000 ≤ loc && loc < 0x010100000000 + 80 * 0x400000 then
    some ((loc - 0x010100000000) / 0x400000, (loc - 0x010100000000) % 0x400000)
  else none

/-- A location in a tower scratchpad. -/
def isTwrLoc (loc : Nat) : Bool := 0x010000000000 ≤ loc && loc < 0x010010000000
/-- A location in DRAM. -/
def isDram (loc : Nat) : Bool := loc < 0x010000000000
/-- The stack that holds a DRAM address (R198). -/
def stackOf (loc : Nat) : Nat := 4 * (loc / 2 ^ 38 % 4) + loc / 2 ^ 16 % 4

/-- Where a module-local address lies (R197, R198): a byte of DRAM, in a tower's L2 home, a stack and one of its pseudo-channels; a byte of a tower
scratchpad; a byte of a cluster's shared window, in a core's slice and at an offset there; a byte of a core's scratchpad. -/
inductive Home where
  | dram (tower stack channel : Nat)
  | twr (tower off : Nat)
  | cls (cluster core off : Nat)
  | spm (core off : Nat)
  deriving DecidableEq, Repr

/-- The home of a module-local address, if there is a memory at it (R197, R198). -/
def homeOf (loc : Nat) : Option Home :=
  if isDram loc then some (.dram (loc / 2 ^ 38 % 4) (stackOf loc) (loc / 2 ^ 8 % 256))
  else if isTwrLoc loc then some (.twr ((loc - 0x010000000000) / 0x04000000) ((loc - 0x010000000000) % 0x04000000))
  else
    match clsOfLoc loc, spmOfLoc loc with
    | some (i, a), _ => some (.cls i (coreAt i (a / 256 % 64)) (a / 16384 * 256 + a % 256))
    | none, some (k, a) => if isTile k then some (.spm k a) else none
    | none, none => none

/-- The cluster that a home belongs to, if it belongs to one (R214). -/
def Home.cluster : Home → Option Nat
  | .cls i _ _ => some i
  | .spm k _ => some (clusterOf k)
  | .dram .. | .twr .. => none

/-- A module-local address at which there is a memory (R198). -/
def localExists (loc : Nat) : Bool := (homeOf loc).isSome

/-! ### Reading and replacing parts of the state -/

/-- A core. -/
def State.core (s : State) (key : Nat) : Core := tget {} s.cores key
/-- Replace a core. -/
def State.setCore (s : State) (key : Nat) (c : Core) : State := { s with cores := tset s.cores key c }
/-- A quad. -/
def State.quad (s : State) (n : Nat) : Quad := tget {} s.quads n
/-- Replace a quad. -/
def State.setQuad (s : State) (n : Nat) (x : Quad) : State := { s with quads := tset s.quads n x }
/-- A cluster. -/
def State.cluster (s : State) (n : Nat) : Cluster := tget {} s.clusters n
/-- Replace a cluster. -/
def State.setCluster (s : State) (n : Nat) (x : Cluster) : State := { s with clusters := tset s.clusters n x }
/-- A tower. -/
def State.tower (s : State) (n : Nat) : Tower := tget {} s.towers n
/-- Replace a tower. -/
def State.setTower (s : State) (n : Nat) (x : Tower) : State := { s with towers := tset s.towers n x }
/-- A group. -/
def State.group (s : State) (n : Nat) : Group := tget {} s.groups n
/-- Replace a group. -/
def State.setGroup (s : State) (n : Nat) (x : Group) : State := { s with groups := tset s.groups n x }
/-- A stack's base die. -/
def State.stack (s : State) (n : Nat) : Stack := tget {} s.dram n
/-- Replace a stack's base die. -/
def State.setStack (s : State) (n : Nat) (x : Stack) : State := { s with dram := tset s.dram n x }
/-- A port. -/
def State.port (s : State) (p : Fin 8) : Port := s.ports.get p
/-- Replace a port. -/
def State.setPort (s : State) (p : Fin 8) (x : Port) : State := { s with ports := s.ports.set p x }

/-- A core's context. -/
def Core.ctx (c : Core) (n : Bool) : Ctx := if n then c.c1 else c.c0
/-- Replace a core's context. -/
def Core.setCtx (c : Core) (n : Bool) (x : Ctx) : Core := if n then { c with c1 := x } else { c with c0 := x }
/-- A context. -/
def State.ctx (s : State) (key : Nat) (n : Bool) : Ctx := (s.core key).ctx n
/-- Replace a context. -/
def State.setCtx (s : State) (key : Nat) (n : Bool) (x : Ctx) : State := s.setCore key ((s.core key).setCtx n x)
/-- Change a context. -/
def State.modCtx (s : State) (key : Nat) (n : Bool) (f : Ctx → Ctx) : State := s.setCtx key n (f (s.ctx key n))
/-- Change a core. -/
def State.modCore (s : State) (key : Nat) (f : Core → Core) : State := s.setCore key (f (s.core key))
/-- Change a cluster. -/
def State.modCluster (s : State) (n : Nat) (f : Cluster → Cluster) : State := s.setCluster n (f (s.cluster n))
/-- Change a quad. -/
def State.modQuad (s : State) (n : Nat) (f : Quad → Quad) : State := s.setQuad n (f (s.quad n))

/-- The core whose instruction is executed. -/
def State.me (s : State) : Core := s.core s.focus
/-- The number of the context whose instruction is executed: the active one (R153). -/
def State.act (s : State) : Bool := s.me.active
/-- The context whose instruction is executed. -/
def State.cur (s : State) : Ctx := s.ctx s.focus s.act
/-- Change the context whose instruction is executed. -/
def State.modCur (s : State) (f : Ctx → Ctx) : State := s.modCtx s.focus s.act f
/-- Change the core whose instruction is executed. -/
def State.modMe (s : State) (f : Core → Core) : State := s.modCore s.focus f
/-- The cluster of the executing core. -/
def State.myCluster (s : State) : Nat := clusterOf s.focus
/-- A fresh id. -/
def State.fresh (s : State) : Nat × State := (s.nextId, { s with nextId := s.nextId + 1 })

/-- A scalar register: g0 reads 0 (R155, R275). -/
def Ctx.readG (c : Ctx) (n : Fin 48) : Word := if n = 0 then 0 else c.g.get n
/-- Write a scalar register: a write of g0 is ignored (R155, R275). -/
def Ctx.writeG (c : Ctx) (n : Fin 48) (v : Word) : Ctx := if n = 0 then c else { c with g := c.g.set n v }
/-- A predicate: p0 is all ones (R155). -/
def Ctx.readP (c : Ctx) (n : Fin 8) : Mask := if n = 0 then BitVec.allOnes 256 else c.p.get n
/-- Write a predicate: p0 is fixed (R155). -/
def Ctx.writeP (c : Ctx) (n : Fin 8) (v : Mask) : Ctx := if n = 0 then c else { c with p := c.p.set n v }

/-- The clock of a cluster stands still while it changes its regulator (R145). -/
def clockStopped (s : State) (cl : Nat) : Bool := (s.cluster cl).switchUntil.isSome

/-- The cluster in whose memory a location lies. -/
def clusterOfLoc (loc : Nat) : Option Nat :=
  match clsOfLoc loc, spmOfLoc loc with
  | some (i, _), _ => some i
  | none, some (k, _) => some (clusterOf k)
  | none, none => none

/-- A location in the memory of a cluster whose clock stands still. -/
def stoppedAt (s : State) (loc : Nat) : Bool := (clusterOfLoc loc).any (clockStopped s)

/-- The timebase that a cluster reads, or the I/O die's own (R150). -/
def State.tbOf (s : State) (cl : Nat) : Nat := if cl < 80 then s.tbCopies.get (Fin.ofNat 80 cl) else s.tb

/-- CTX and CORE of a context as `TASKINF` and `CORE` of a packet hold them (R160, R233). -/
def placeOf (key : Nat) (n : Bool) : BitVec 14 := BitVec.ofNat 14 (n.toNat * 2 ^ 13 + key % 2 ^ 13)

/-- `TASKINF` (R160). -/
def taskInf (c : Ctx) : Word := BitVec.ofNat 64 (c.kid.toNat * 2 ^ 32 + c.asid.toNat * 2 ^ 16 + c.place.toNat)

/-- `PCNT` (R215). -/
def Ctx.pcnt (c : Ctx) : Word := BitVec.ofNat 64 (c.sys * 2 ^ 32 + c.mod * 2 ^ 16 + c.clu)

/-! ### Skew, liveness, tags, poison, marks -/

/-- A region descriptor that is in force for a scratchpad byte: the lowest k with V, SPACE spm and the byte in range (R199). -/
def spmDesc (c : Core) (a : Nat) : Option Nat :=
  (List.range 8).find? fun k =>
    let base := (c.rdesc.get (Fin.ofNat 16 (2 * k))).toNat
    let b := c.rdesc.get (Fin.ofNat 16 (2 * k + 1))
    b.getLsbD 63 && b.toNat / 2 ^ 60 % 8 == 1 && base ≤ a && a < base + b.toNat % 2 ^ 40

/-- Where a scratchpad byte is stored (R200). -/
def skewOf (c : Core) (a : Nat) : Nat :=
  match spmDesc c a with
  | none => a
  | some k =>
    let base := (c.rdesc.get (Fin.ofNat 16 (2 * k))).toNat
    if (c.rdesc.get (Fin.ofNat 16 (2 * k + 1))).getLsbD 57 then
      let o := a - base
      let row := o / 256 % 32
      let word := o / 8 % 32
      base + (o - o % 8192) + row * 256 + (word + row) % 32 * 8 + o % 8
    else a

/-- The physical location of a logical one: only a tile core's scratchpad can be skewed (R200). -/
def State.phys (s : State) (loc : Nat) : Nat :=
  match spmOfLoc loc with
  | some (key, a) => if isTile key then locSpm key (skewOf (s.core key) a) else loc
  | none => loc

/-- The 16-byte word of a location, for the sync marks (R203). -/
def markIx (loc : Nat) : Nat := loc / 16

/-- Whether the locked range holds this location (R88). -/
def State.lockedLoc (s : State) (loc : Nat) : Bool :=
  s.lock && isDram loc && s.lockBase.toNat ≤ loc / 2 ^ 16 && loc / 2 ^ 16 ≤ s.lockLimit.toNat

/-- The byte at a location, 0 when its word is poisoned (R94). Another module's byte is a free value. -/
def State.byteAt (s : State) (loc : Nat) : Byte :=
  if foreignBase ≤ loc then Config.outsideByte s.tick (loc - foreignBase)
  else if s.poison.contains (s.phys loc / 8) then 0
  else s.mem.get (s.phys loc)

/-- Whether the word at a location is poisoned (R94), or reads as poison because the range is locked to this reader (R88). -/
def State.poisonAt (s : State) (loc : Nat) : Bool := loc < foreignBase && s.poison.contains (s.phys loc / 8)

/-- n bytes, little-endian, at consecutive locations. -/
def State.readLE (s : State) (loc n : Nat) : Nat := natOfBytes ((List.range n).map fun i => s.byteAt (loc + i))

/-- Bytes placed with no check, mark or tag: the register stores, instruction stores, B-SRAM and lanes. -/
def State.putRaw (s : State) (loc : Nat) (bs : List Byte) : State := { s with mem := s.mem.putN loc bs }

/-- An unpoisoned raw read (register store, B-SRAM, instruction store). -/
def State.getRaw (s : State) (loc n : Nat) : List Byte := (List.range n).map fun i => s.byteAt (loc + i)

/-! ### Events, alarm, MSI-X -/

/-- Whether a feature is accepted (R85, R86). -/
def State.feat (s : State) (n : Nat) : Bool := s.featAcc.getLsbD n

/-- Take the action configured for an alarm cause (R93): 0 TAMPER, 1 GLITCH, 2 FWLOCK, 3 POWER; POWER at 110 °C always halts. -/
def raiseAlarm (s : State) (cause : Nat) (mustHalt : Bool) : State :=
  let s := { s with alarm := s.alarm ||| BitVec.ofNat 4 (2 ^ cause), msix := 0 :: s.msix }
  let act := s.alarmAct.toNat / 4 ^ cause % 4
  let s := if act = 2 then { s with keysErased := true, s1 := 0, s2 := 0 } else s
  if act = 1 || act = 2 || mustHalt then { s with halted := true } else s

/-- Saturating counts of 32 bits (R48). -/
def inc32 (c : BitVec 32) (n : Nat) : BitVec 32 := BitVec.ofNat 32 (min (c.toNat + n) 0xFFFFFFFF)

/-- Index of a unit's counters (R95). -/
def errIx : ErrUnit → Fin 7
  | .regStore => 0 | .scratch => 1 | .bsram => 2 | .towerL2 => 3 | .dram => 4 | .links => 5 | .cxl => 6

/-- Count an uncorrectable error (R95). -/
def countUnc (s : State) (u : ErrUnit) : State := { s with errUnc := s.errUnc.set (errIx u) (inc32 (s.errUnc.get (errIx u)) 1) }

/-- Post one notification (R84): slot's address register and configuration. -/
def postNotification (s : State) (n : NotSlot) : State :=
  let vec := n.cfg.toNat % 2 ^ 11
  if !s.feat 1 then { s with msix := vec :: s.msix }
  else
    let desc := n.addr.toNat / 64 * 64
    let bit := n.cfg.toNat / 2 ^ 16 % 64
    let pend := BitVec.ofNat 64 (s.hostMem.getLE desc 8) ||| BitVec.ofNat 64 (2 ^ bit)
    let ctrl := s.hostMem.get (desc + 8)
    let m := (s.hostMem.putN desc (bytesOfNat 8 pend.toNat)).put (desc + 8) (ctrl ||| 1)
    let oldOn := ctrl.getLsbD 0
    let run := ctrl.getLsbD 1
    let m := if run && !oldOn then m.putN (m.getLE (desc + 16) 8) (m.getN (desc + 24) 4) else m
    let s := { s with hostMem := m }
    if run then s else { s with msix := vec :: s.msix }

/-- Signal an event once (R81): the step from ARMED to SIGNALLED releases its held records (R108) and triggers its notifications (R83),
in the order of their slots' numbers (DESIGN CHOICE, log entry 36). -/
def signalEvent (s : State) (id : Nat) : State :=
  let e := tget {} s.events id
  if id = 0 || e.target = 0 then s
  else
    let e' : Event := { e with count := inc32 e.count 1 }
    let s := { s with events := tset s.events id e' }
    if e.count.toNat < e.target.toNat && e.target.toNat ≤ e'.count.toNat then
      let wevt (r : Record) : Nat := r.toNat / 2 ^ 288 % 2 ^ 32
      let s := { s with nextId := s.nextId + 1
                        held := s.held.map fun (h : Held) => if wevt h.body = id && h.released.isNone then { h with released := some s.nextId } else h }
      (s.slots.filter fun (n : Nat × NotSlot) => n.2.addr.getLsbD 0 && n.2.cfg.toNat / 2 ^ 32 % 2 ^ 16 = id).foldl (fun s (n : Nat × NotSlot) => postNotification s n.2) s
    else s

/-! ### Writes at a home -/

/-- COUNT, GEN, TARGET and FLAGS of the sync word at a location (R203). -/
def State.syncCount (s : State) (loc : Nat) : Nat := s.readLE loc 6
/-- GEN. -/
def State.syncGen (s : State) (loc : Nat) : Nat := s.readLE (loc + 6) 2
/-- TARGET. -/
def State.syncTarget (s : State) (loc : Nat) : Nat := s.readLE (loc + 8) 6

/-- Bytes written at consecutive logical locations, each at its physical place. -/
def State.putPhys (s : State) (loc : Nat) : List Byte → State
  | [] => s
  | b :: bs => ({ s with mem := s.mem.put (s.phys loc) b } : State).putPhys (loc + 1) bs

/-- A scratchpad word becomes live (R190): by its physical word index. -/
def State.liven (s : State) (w : Nat) : State := { s with spmLive := nsAdd s.spmLive w }

/-- The step of R203 on a marked word, in closed form: COUNT mod TARGET, and GEN advanced by the quotient. -/
def syncStep (s : State) (w : Nat) : State :=
  let loc := w * 16
  let t := s.syncTarget loc
  let c := s.syncCount loc
  if s.marks.contains w && 0 < t && t ≤ c then
    s.putPhys loc (bytesOfNat 6 (c % t) ++ bytesOfNat 2 ((s.syncGen loc + c / t) % 2 ^ 16))
  else s

/-- What a monitor brings to a waiting context: bytes 0-7 of its word, and POIS, bit 14 of `STATUS`, if they are poisoned (R94, R159, R343). -/
def Ctx.note (c : Ctx) (v : Word) (pois : Bool) : Ctx :=
  match c.wait with
  | .waitw l o g r ns => { c with wait := .waitw l o g r (ns ++ [v]), status := if pois then c.status ||| BitVec.ofNat 64 (2 ^ 14) else c.status }
  | _ => c

/-- Tell the monitors on a word (R343): each waiting context receives bytes 0-7 as this write's step left them. -/
def notifyMonitors (s : State) (w : Nat) : State :=
  (s.monitors.filter fun m => m.1 / 16 = w).foldl (fun s m =>
    s.modCtx m.2.1 m.2.2 fun c => c.note (BitVec.ofNat 64 (s.readLE (w * 16) 8)) (s.poisonAt (w * 16))) s

/-- Set a sync mark (R203). -/
def setMark (s : State) (loc : Nat) : State := { s with marks := nsAdd s.marks (markIx loc) }

/-- A write of (logical location, byte) pairs applied at the home in one step (R208): FWLOCK (R88), the bytes, liveness (R190), poison (R94),
the sync-word step and the monitors (R203, R343). fw: the agent is firmware. -/
def performWrite (s : State) (fw : Bool) (ps : List (Nat × Byte)) : State :=
  let bad := ps.any fun p => s.lockedLoc p.1 && !fw
  let s := if bad then raiseAlarm s 2 false else s
  let ps := ps.filter fun p => p.1 < foreignBase && !(s.lockedLoc p.1 && !fw)
  let locs := ps.map fun p => s.phys p.1
  let s := ps.foldl (fun s p => { s with mem := s.mem.put (s.phys p.1) p.2 }) s
  let words := locs.foldl (fun l a => nsAdd l (a / 8)) []
  let s := { s with poison := s.poison.filter fun w => !(words.contains w && (List.range 8).all fun i => locs.contains (w * 8 + i))
                    spmLive := words.foldl (fun l w => if (spmOfLoc (w * 8)).isSome then nsAdd l w else l) s.spmLive }
  let sw := ps.foldl (fun l p => nsAdd l (markIx p.1)) []
  sw.foldl (fun s w => notifyMonitors (syncStep s w) w) s

/-- Consecutive bytes as (location, byte) pairs. -/
def pairsAt (loc : Nat) (bs : List Byte) : List (Nat × Byte) := (List.range bs.length).zipWith (fun i b => (loc + i, b)) bs

/-- Add to COUNT of a sync word modulo 2^48 and apply the step; pois sets FLAGS.POIS (R203, R411). The word is marked first. -/
def syncAdd (s : State) (loc n : Nat) (pois : Bool) : State :=
  let s := setMark s loc
  let s := s.putPhys loc (bytesOfNat 6 ((s.syncCount loc + n) % 2 ^ 48))
  let s := if pois then s.putPhys (loc + 14) [s.byteAt (loc + 14) ||| 1] else s
  let s := if (spmOfLoc loc).isSome then s.liven (s.phys loc / 8) else s
  let s := if pois && (spmOfLoc loc).isSome then s.liven (s.phys (loc + 8) / 8) else s
  notifyMonitors (syncStep s (markIx loc)) (markIx loc)

/-- Kill a scratchpad word (R190): dead, contents zero, tag EMPTY, and the sync mark of the 16-byte word it lies in cleared (R203). -/
def killSpmWord (s : State) (loc : Nat) : State :=
  let w := s.phys loc / 8
  { s with mem := s.mem.putN (w * 8) (List.replicate 8 0), full := nsDel s.full w, spmLive := nsDel s.spmLive w
           poison := nsDel s.poison w, marks := nsDel s.marks (markIx loc) }

/-- Whether a coverage map of an ACTIVE or COMPLETE slot holds this location (R125). -/
def State.inCoverage (s : State) (loc : Nat) : Bool :=
  match clsOfLoc loc with
  | none => false
  | some (i, a) => (s.cluster i).slots.any fun p =>
      let ext (k : Nat) : Nat := max 1 (p.space.toNat / 2 ^ (16 * k) % 2 ^ 16)
      let n := ext 0 * ext 1 * ext 2 * ext 3
      let b := p.map.toNat / 64 % 2 ^ 16 * 64
      p.st != .idle && b ≤ a && a < b + (n + 3) / 4

/-! ### Faults (R229-R235) -/

/-- What a fault reports: CODE, DETAIL, ADDR and SPACE. -/
structure FaultInfo where
  code : Nat
  detail : Nat := 0
  addr : Nat := 0
  space : Nat := 0
  deriving DecidableEq, Repr

/-- ILLOP. -/
def fIllop : FaultInfo := { code := 1 }
/-- ILLFETCH. -/
def fIllfetch (d : Nat) : FaultInfo := { code := 2, detail := d }
/-- DEADREAD naming a granule. -/
def fDead (granule : Nat) : FaultInfo := { code := 3, addr := granule * 64, space := 7 }
/-- PRIV. -/
def fPriv (d : Nat) : FaultInfo := { code := 4, detail := d }
/-- ALIGN. -/
def fAlign (addr sp : Nat) : FaultInfo := { code := 5, addr, space := sp }
/-- XLATE. -/
def fXlate (d addr : Nat) : FaultInfo := { code := 6, detail := d, addr }
/-- PROT. -/
def fProt (d addr sp : Nat) : FaultInfo := { code := 7, detail := d, addr, space := sp }
/-- BOUND. -/
def fBound (addr sp : Nat) : FaultInfo := { code := 8, addr, space := sp }
/-- FORMAT. -/
def fFormat : FaultInfo := { code := 9 }
/-- GROUP. -/
def fGroup : FaultInfo := { code := 10 }
/-- PATTERN. -/
def fPattern : FaultInfo := { code := 11 }
/-- RUNNER. -/
def fRunner : FaultInfo := { code := 12 }

/-- A fault packet (R233). -/
def packetOf (f : FaultInfo) (flags core pc insn npc : Nat) (opa opb : Word) (time : Nat) : Packet :=
  BitVec.ofNat 512 (f.code + flags * 2 ^ 8 + core % 2 ^ 16 * 2 ^ 16 + pc * 2 ^ 32 + insn * 2 ^ 64 + f.addr % 2 ^ 64 * 2 ^ 192
    + f.space * 2 ^ 256 + f.detail * 2 ^ 264 + npc * 2 ^ 288 + opa.toNat * 2 ^ 320 + opb.toNat * 2 ^ 384 + time % 2 ^ 64 * 2 ^ 448)

/-- The bytes of the instruction at an address of a core's store, zero beyond its length (R233). -/
def State.insnAt (s : State) (key : Nat) (pc : BitVec 15) : Nat :=
  let b0 := (s.byteAt (locIst key pc.toNat)).toNat
  if b0 % 4 = 0 then s.readLE (locIst key pc.toNat) 4
  else natOfBytes ((List.range (lenBytes (b0 % 4))).map fun i => s.byteAt (locIst key ((pc.toNat + i) % 2 ^ 15)))

/-- The successor of the instruction at an address (R268). -/
def nextPc (pc : BitVec 15) (len : Nat) : BitVec 15 :=
  let n := pc.toNat + len
  BitVec.ofNat 15 (if n % 32 = 28 then n + 4 else n)

/-- Length in bytes of the instruction at an address, from its LEN. -/
def State.lenAt (s : State) (key : Nat) (pc : BitVec 15) : Nat := lenBytes ((s.byteAt (locIst key pc.toNat)).toNat % 4)

/-- The scalar sources that the A and B fields name, where they name any (R233). -/
def opFields : Instr → Option Src × Option Src
  | .brc _ _ a b _ | .add _ _ a b | .sub _ _ a b | .and _ _ a b | .or _ _ a b | .xor _ _ a b | .andn _ _ a b | .shl _ _ a b
  | .shr _ _ a b | .sra _ _ a b | .rotl _ _ a b | .min _ _ a b | .max _ _ a b | .minz _ _ a b | .maxz _ _ a b | .mul _ _ a b
  | .mulh _ _ a b | .mulhz _ _ a b | .div _ _ a b | .divz _ _ a b | .rem _ _ a b | .remz _ _ a b | .sel _ _ a b _
  | .setc _ _ _ a b | .lea _ _ _ a b _ | .fadd _ _ _ a b | .fsub _ _ _ a b | .fmul _ _ _ a b | .ffma _ _ _ a b _
  | .fmin _ _ a b | .fmax _ _ a b | .fcmp _ _ _ a b | .forkr _ _ _ a b _ _ _ _ _ _ | .redir _ _ a b _ => (some a.r, some b.r)
  | .brz _ a _ | .brnz _ a _ | .callr _ a | .jmpr _ a | .loop _ a _ | .addi _ _ a _ | .andi _ _ a _ | .ori _ _ a _ | .xori _ _ a _
  | .shli _ _ a _ | .shri _ _ a _ | .srai _ _ a _ | .clz _ _ a | .ctz _ _ a | .popc _ _ a | .sext _ _ a _ | .zext _ _ a _
  | .bfx _ _ a _ _ | .bfi _ _ a _ _ | .fsqrt _ _ _ a | .fcvt _ _ _ _ a | .bind _ _ a _ _ _ | .unbind _ a _ | .acq _ a _ | .rel _ a _
  | .grpinit _ a _ | .grpfree _ a _ | .join _ _ a _ | .leave _ a _ | .sync _ _ a _ | .sstep _ _ a _ | .waitg _ _ a _
  | .joinc _ a _ | .msg _ a _ | .vwadv _ _ a | .vldl _ _ _ a _ _ | .vstl _ _ _ a _ _ | .vbcast _ _ _ a | .mmaRa _ _ _ a _ _ _ _
  | .ewait _ a | .swr _ _ a | .pmcr _ _ a _ _ | .doneg _ a | .yieldt _ a | .patw _ _ _ a | .patwC _ _ _ a | .prevoke _ _ a
  | .bkwake _ a _ | .bkhold _ a _ | .bkoff _ a _ | .spkill _ _ a _ | .dbgrd _ _ a | .dbgwr _ _ a | .resume _ _ a | .kill _ _ a
  | .fwait _ _ a _ => (some a.r, none)
  | .ld _ _ _ m | .st _ _ _ m | .ldw _ _ m | .lde _ _ m | .stw _ _ m | .stf _ _ m | .fesetE _ m | .fesetF _ m | .radd _ _ m =>
      (some m.base.r, none)
  | .amo _ _ _ _ m _ | .amoCas _ _ _ m _ _ | .amofAdd _ _ m _ | .swarm _ _ m _ | .waitw _ _ m _ | .vld _ _ _ m | .vst _ _ _ m
  | .vgath _ _ _ m _ _ | .vscat _ _ _ m _ _ | .mbld _ _ _ m _ | .mtld _ _ _ m _ _ _ | .mtldRb _ _ _ m _ _ _ => (some m.base.r, none)
  | .mepi96 _ _ _ b _ _ _ _ | .mepi128 _ _ _ b _ _ _ _ _ => (some b.r, none)
  | .put _ _ a _ _ | .get _ _ a _ _ | .putsig _ _ a _ _ _ _ | .vwsetReg _ _ a | .mbsetReg _ _ a => (some a, none)
  | .ldl _ o _ _ | .ldl2d _ o _ _ _ _ => (some o.a.r, some o.b.r)
  | .ldlz _ _ b _ _ _ _ _ => (none, some b.r)
  | .rpourInt _ o _ | .rpourBs _ o _ | .rskim _ o | .rbcast _ o _ => (some o.dst.r, some o.sync.r)
  | _ => (none, none)

/-- Opcodes whose field A is of class S: an operand or a base register (R280 to R287). -/
def scalarA : List Nat :=
  [0x02, 0x03, 0x04, 0x07, 0x09, 0x0A, 0x20, 0x21, 0x22, 0x23, 0x24, 0x25, 0x27, 0x28, 0x29, 0x2A, 0x2B, 0x2C, 0x40, 0x41, 0x42, 0x43, 0x44, 0x45,
   0x46, 0x47, 0x48, 0x49, 0x4A, 0x4B, 0x4C, 0x4D, 0x4E] ++
  [0x60, 0x61, 0x63, 0x64, 0x65, 0x66, 0x67, 0x68, 0x69, 0x6A, 0x6B, 0x6C, 0x6D, 0x6F, 0x80, 0x81, 0x82, 0x83, 0x84, 0x85, 0x86, 0x87, 0x8F, 0xA0,
   0xA1, 0xA3, 0xA6, 0xA7, 0xC0, 0xC1, 0xC3, 0xC5, 0xC6, 0xC7] ++
  [0xE1, 0xE3, 0xE5, 0xE6, 0xE8, 0xE9, 0xEA, 0xEB, 0xEC, 0xEE, 0xF8, 0xF9, 0xFA, 0xFB, 0xFC, 0xFD]

/-- Opcodes whose field B is of class S. -/
def scalarB : List Nat := [0x02, 0x20, 0x22, 0x24, 0x25, 0x27, 0x2A, 0x2B, 0x6C, 0xC0, 0xC1, 0xC2, 0xC5, 0xC6, 0xC7, 0xFB]

/-- A class S field of a word. -/
def srcField (w k : Nat) : Option Src :=
  match decSrc (w / 2 ^ k % 64) with
  | .ok x => some x
  | .error _ => none

/-- The scalar sources that the fields of a word name: an instruction's own, or those of a word that is none but has an assigned opcode (R233). -/
def operandsOf (w : Nat) : Option Src × Option Src :=
  match decode w with
  | .ok i => opFields i
  | .error _ =>
    (if scalarA.contains (w / 4 % 256) then srcField w 22 else none, if scalarB.contains (w / 4 % 256) then srcField w 28 else none)

/-- The value of a scalar operand for a packet: a queue operand is not popped and reads zero (R233). -/
def packetVal (c : Ctx) : Option Src → Word
  | some (.g n) => c.readG n
  | some (.t n) => c.t.get n
  | _ => 0

/-- The instruction that stands at a context's pc, if it is one. -/
def State.instrAt (s : State) (key : Nat) (pc : BitVec 15) : Option Instr :=
  match decode (s.insnAt key pc) with
  | .ok i => some i
  | .error _ => none

/-- Count an event on a core's performance counters (R432, R433). ctx: the context it belongs to, none for the events of no context. -/
def countPmc (s : State) (key : Nat) (ctx : Option Bool) (ev n : Nat) : State :=
  s.modCore key fun c =>
    (List.finRange 8).foldl (fun c k =>
      let sel := c.pmcsel.get k
      let f := sel.toNat / 2 ^ 14 % 4
      let okCtx := match ctx with | none => true | some x => f = 0 || f = 1 + x.toNat
      if sel.toNat % 256 = ev && okCtx then
        let v := (c.pmc.get k).toNat + n
        { c with pmc := c.pmc.set k (BitVec.ofNat 48 v)
                 pmcsel := if 2 ^ 48 ≤ v then c.pmcsel.set k (sel ||| 0x10000) else c.pmcsel }
      else c) c

/-- Freeze a context with a packet (R232, R233): it counts as blocked, and the packet is kept in the debug window and, on a tile core, sent to the leaf. -/
def freezeWith (s : State) (key : Nat) (n : Bool) (code : Nat) (pkt : Packet) : State :=
  let s := s.modCtx key n fun c => { c with st := .frozen, fcode := BitVec.ofNat 8 code, packet := pkt, blocked := max 1 c.blocked, feArr := none, parked := none }
  let s := countPmc s key (some n) 8 1
  if isTile key then s.modCore key fun c => { c with pktOut := c.pktOut ++ [pkt] } else s

/-- CORE field of a packet (R233). -/
def packetCore (key : Nat) (n : Bool) : Nat := (placeOf key n).toNat

/-- TAKING A FAULT (R232): the instruction at the PC of a context raises f. The context freezes, its PC stays at the instruction, or at the
next one for TRAP and BRK, and a packet goes to the leaf. -/
def takeFault (s : State) (key : Nat) (n : Bool) (f : FaultInfo) : State :=
  let c := s.ctx key n
  let insn := s.insnAt key c.pc
  let ops := operandsOf insn
  let npc := if f.code = 13 || f.code = 14 then nextPc c.pc (s.lenAt key c.pc) else c.pc
  let shadow := n != (s.core key).active
  let pkt := packetOf f (if shadow then 4 else 0) (packetCore key n) c.pc.toNat insn npc.toNat (packetVal c ops.1) (packetVal c ops.2)
    (s.tbOf (clusterOf key))
  freezeWith (s.modCtx key n fun c => { c with pc := npc }) key n f.code pkt

/-- A fault of an implied TAKE (R130): PC and NPC name the entry PC and INSN is zero. -/
def takeImpliedFault (s : State) (key : Nat) (n : Bool) : State :=
  let s := s.modCtx key n fun c => { c with pc := c.task.pc, t := Vector.replicate 4 0, task := { c.task with takeFault := true } }
  let c := s.ctx key n
  let shadow := n != (s.core key).active
  let pkt := packetOf fPattern (if shadow then 4 else 0) (packetCore key n) c.pc.toNat 0 c.pc.toNat 0 0 (s.tbOf (clusterOf key))
  freezeWith s key n 11 pkt

/-- A context that can freeze at a boundary: it runs or is ready to (R230, R240). -/
def canFreeze (s : State) (key : Nat) (n : Bool) : Bool := (s.ctx key n).st == .running || (s.ctx key n).st == .ready

/-- A refusal of a posted operation reaches its context (R230, R345, R350): it freezes at the boundary it stands at. -/
def takePosted (s : State) (r : PostRefusal) : State :=
  let c := s.ctx r.key r.ctx
  let shadow := r.ctx != (s.core r.key).active
  let pkt := packetOf { code := r.code.toNat, detail := r.detail.toNat } (8 + (if shadow then 4 else 0)) (packetCore r.key r.ctx)
    r.pc.toNat r.insn.toNat c.pc.toNat r.opa r.opb (s.tbOf (clusterOf r.key))
  freezeWith s r.key r.ctx r.code.toNat pkt

/-- An engine job's fault (R235): an ASYNC packet, and the context does not freeze. -/
def sendAsync (s : State) (key : Nat) (n : Bool) (f : FaultInfo) (jobid : Word) : State :=
  let c := s.ctx key n
  let shadow := n != (s.core key).active
  let pkt := packetOf f (1 + (if shadow then 4 else 0)) (packetCore key n) 0 0 c.pc.toNat jobid 0 (s.tbOf (clusterOf key))
  let s := s.modCtx key n fun c => { c with packet := pkt }
  countPmc (s.modCore key fun c => { c with pktOut := c.pktOut ++ [pkt] }) key (some n) 8 1

/-- RETURNING FROM A FAULT (R241): a FROZEN context goes on at its PC, RUNNING if it is the active one and READY if the shadow. A context
frozen by an implied TAKE makes it again when it goes on at its entry PC (R130). -/
def unfreeze (s : State) (key : Nat) (n : Bool) : State :=
  s.modCtx key n fun c =>
    { c with st := if n == (s.core key).active then .running else .ready, fcode := 0, blocked := 0
             task := { c.task with takeDue := c.task.takeDue || (c.task.takeFault && c.pc == c.task.pc), takeFault := false } }

/-! ### Banks (R187-R190) -/

/-- Key of a bank in a core's table. -/
def bankKey (b : BankOf) (k : Nat) : Nat :=
  match b with
  | .rs0 => k % 32
  | .rs1 => 32 + k % 32
  | .spm => 64 + k % 32

/-- The register-store banks of a context. -/
def rsBank (n : Bool) : BankOf := if n then .rs1 else .rs0

/-- A bank of a core. -/
def Core.bank (c : Core) (b : BankOf) (k : Nat) : Bank := tget {} c.banks (bankKey b k)

/-- Replace a bank. -/
def Core.setBank (c : Core) (b : BankOf) (k : Nat) (x : Bank) : Core := { c with banks := tset c.banks (bankKey b k) x }

/-- Whether a bank holds something: a LIVE or KILLPEND granule, or a live word (R188, R190). -/
def State.bankLive (s : State) (key : Nat) (b : BankOf) (k : Nat) : Bool :=
  match b with
  | .rs0 => (s.ctx key false).live.toNat / 2 ^ (32 * (k % 32)) % 2 ^ 32 ≠ 0
  | .rs1 => (s.ctx key true).live.toNat / 2 ^ (32 * (k % 32)) % 2 ^ 32 ≠ 0
  | .spm => s.spmLive.any fun w => locSpm key 0 ≤ w * 8 && w * 8 < locSpm key 0 + 0x40000 && w % 32 = k % 32

/-- An access to a bank: it starts a wake of a bank that is OFF or RETAIN (12 or 6 cycles), and leaves one that is waking (R188). -/
def touchBank (c : Core) (b : BankOf) (k : Nat) : Core :=
  let x := c.bank b k
  match x.st with
  | .full => c.setBank b k { x with last := c.cyc }
  | .waking => c
  | .retain => c.setBank b k { x with st := .waking, wakeAt := c.cyc + 6, last := c.cyc }
  | .off => c.setBank b k { x with st := .waking, wakeAt := c.cyc + 12, last := c.cyc }

/-- Whether a touch starts a wake, for the performance counters. -/
def wakes (c : Core) (b : BankOf) (k : Nat) : Bool := (c.bank b k).st == .off || (c.bank b k).st == .retain

/-- Touch banks of one store, counting wakes (R433 events 6 and 7). -/
def touchBanks (s : State) (key : Nat) (b : BankOf) (ks : List Nat) : State :=
  ks.foldl (fun s k =>
    let w := wakes (s.core key) b k
    let s := s.modCore key fun c => touchBank c b k
    if w then countPmc s key none (if b == .spm then 7 else 6) 1 else s) s

/-- Whether every bank of a list is FULL. -/
def banksFull (c : Core) (b : BankOf) (ks : List Nat) : Bool := ks.all fun k => (c.bank b k).st == .full

/-- The scratchpad bank of a location (R197): its physical word index modulo 32. -/
def State.spmBank (s : State) (loc : Nat) : Nat := s.phys loc / 8 % 32

/-! ### Translation (R204, R205) -/

/-- A canonical virtual address: bits [63:57] equal bit 56 (R204). -/
def canonical (va : Nat) : Bool := va / 2 ^ 56 = 0 || va / 2 ^ 56 = 255

/-- One level of the walk: indexes are (low bit, entries, leaf size or none, DETAIL). -/
def walkLevels : List (Nat × Nat × Option Nat × Nat) :=
  [(48, 512, none, 2), (39, 512, none, 3), (30, 512, some (2 ^ 30), 4), (21, 512, some (2 ^ 21), 5), (16, 32, some (2 ^ 16), 6)]

/-- A table entry as a walk reads it (R205): poisoned data are no valid entry, and so is an entry of the locked range to a walk for an agent that
is not firmware (R88, R94; log entry 37). -/
def tableEntry (s : State) (fw : Bool) (a : Nat) : Nat := if s.lockedLoc a && !fw then 0 else s.readLE a 8

/-- The walk below the root (R205): the leaf entry and its page size, or the DETAIL at which it stopped. -/
def walkFrom (s : State) (fw : Bool) (va : Nat) (table : Nat) : List (Nat × Nat × Option Nat × Nat) → Except Nat (Word × Nat)
  | [] => .error 6
  | (lo, n, leaf, d) :: rest =>
    let e := tableEntry s fw (table + 8 * (va / 2 ^ lo % n))
    if e % 2 = 0 then .error d
    else if e / 2 % 2 = 1 then
      match leaf with
      | some sz => .ok (BitVec.ofNat 64 e, sz)
      | none => .error d
    else if rest.isEmpty then .error d
    else walkFrom s fw va (e / 256 * 256) rest

/-- The whole walk: the root entry, then up to five table entries (R205). -/
def walk (s : State) (fw : Bool) (asid : BitVec 16) (va : Nat) : Except Nat (Word × Nat) :=
  if !s.xlbase.getLsbD 0 then .error 1
  else
    let root := tableEntry s fw (s.xlbase.toNat / 2 ^ 16 % 2 ^ 24 * 2 ^ 16 + 8 * asid.toNat)
    if root % 4 ≠ 1 then .error 1 else walkFrom s fw va (root / 256 * 256) walkLevels

/-- Whether a walk below a table reads an entry of the locked range (R88). -/
def walkLockedFrom (s : State) (va : Nat) (table : Nat) : List (Nat × Nat × Option Nat × Nat) → Bool
  | [] => false
  | (lo, n, _, _) :: rest =>
    let a := table + 8 * (va / 2 ^ lo % n)
    let e := s.readLE a 8
    s.lockedLoc a || (e % 4 = 1 && !rest.isEmpty && walkLockedFrom s va (e / 256 * 256) rest)

/-- Whether a walk reads an entry of the locked range: of an agent that is not firmware, a violation (R88). -/
def walkLocked (s : State) (asid : BitVec 16) (va : Nat) : Bool :=
  s.xlbase.getLsbD 0 &&
    (let a := s.xlbase.toNat / 2 ^ 16 % 2 ^ 24 * 2 ^ 16 + 8 * asid.toNat
     let root := s.readLE a 8
     s.lockedLoc a || (root % 4 = 1 && walkLockedFrom s va (root / 256 * 256) walkLevels))

/-- The TLB entry that maps a virtual address (R204). -/
def Cluster.hit (c : Cluster) (asid : BitVec 16) (va : Nat) : Option TlbEnt :=
  c.tlb.find? fun e => e.asid == asid && e.vbase ≤ va && va < e.vbase + e.size

/-- A page's leaf and its size: a TLB hit, or a walk (R204). -/
def pageOf (s : State) (fw : Bool) (cl : Nat) (asid : BitVec 16) (va : Nat) : Except Nat TlbEnt :=
  if !canonical va then .error 0
  else
    match (s.cluster cl).hit asid va with
    | some e => .ok e
    | none =>
      match walk s fw asid va with
      | .error d => .error d
      | .ok (leaf, sz) => .ok { asid, vbase := va / sz * sz, size := sz, leaf }

/-- The entries that stay when one more is put into a TLB of 2,048: a full one loses an entry that a free value names (log entry 12). -/
def tlbRoom (tick : Nat) (l : List TlbEnt) : List TlbEnt := if l.length < 2048 then l else l.eraseIdx (Config.tlbVictim tick % l.length)

/-- Put an entry into a cluster's TLB. -/
def tlbFill (s : State) (cl : Nat) (e : TlbEnt) : State :=
  s.modCluster cl fun c => if (c.hit e.asid e.vbase).isSome then c else { c with tlb := e :: tlbRoom s.tick c.tlb }

/-- The location of a global address: this module's own, or another's. -/
def State.globLoc (s : State) (ga : Nat) : Nat := if ga / 2 ^ 54 = s.modId.toNat then ga % 2 ^ 54 else foreignBase + ga

/-- Page attributes that an access needs (R205). -/
structure PageUse where
  write : Bool
  read : Bool
  pin : Bool := false

/-- Translate the bytes of a glb access (R204, R205), lowest first: XLATE of any page comes before PROT (R231), and PROT names the lowest
byte. The locations, and the 64-byte lines of them that lie on memory-side pages (R206). While LINKS is declined there is no memory beyond the module
(R85, R198; log entry 38). -/
def xlate (s : State) (fw : Bool) (cl : Nat) (asid : BitVec 16) (u : PageUse) (vas : List Nat) : Except FaultInfo (List Nat × List Nat) := do
  let es ← vas.mapM fun va =>
    match pageOf s fw cl asid va with
    | .error d => .error (fXlate d va)
    | .ok e => if u.pin && !e.leaf.getLsbD 5 then .error (fXlate 7 va) else .ok (va, e)
  let ls := es.map fun p => s.globLoc (p.2.leaf.toNat / 256 * 256 + (p.1 - p.2.vbase))
  match es.find? fun p => (u.write && !p.2.leaf.getLsbD 3) || (u.read && !p.2.leaf.getLsbD 2) with
  | some p => .error (fProt 0 p.1 0)
  | none =>
    match (vas.zip ls).find? fun p => if p.2 < foreignBase then !localExists p.2 else !s.feat 5 with
    | some p => .error (fProt 2 p.1 0)
    | none => .ok (ls, ((es.zip ls).filterMap fun p => if p.1.2.leaf.getLsbD 4 then some (p.2 / 64) else none).dedup)

/-- The alarm of R88 where a walk for an agent that is not firmware reads an entry of the locked range. -/
def lockAlarm (s : State) (fw : Bool) (cl : Nat) (asid : BitVec 16) (vas : List Nat) : State :=
  if !fw && vas.any (fun va => ((s.cluster cl).hit asid va).isNone && canonical va && walkLocked s asid va) then raiseAlarm s 2 false else s

/-- Keep in the TLB the pages that an access used (R204). -/
def tlbFills (s : State) (fw : Bool) (cl : Nat) (asid : BitVec 16) (vas : List Nat) : State :=
  vas.foldl (fun s va => match pageOf s fw cl asid va with | .ok e => tlbFill s cl e | .error _ => s) (lockAlarm s fw cl asid vas)

end Sys2Proof.Machine
end

