-- ==== Sys2Proof/Machine/Operands.lean ====
section
/-! DEFINITION. Operand forms and issue: scalar sources and destinations (R165, R275), predicates (R274), the WT wait (R216), and the one
wrapper through which every encodable instruction issues (R153): it waits, has its effect and moves the PC, or takes its fault. -/

namespace Sys2Proof.Machine

/-- Why an instruction's meaning does not complete: its wait is not met (keep says what the attempt leaves behind, a bank's wake or an
arrival), that wait is one that blocks the context (R163), or it raises a fault (keep is the identity but for a commit that fails, R133). -/
inductive Stop where
  | wait (keep : State → State)
  | block (keep : State → State)
  | raise (f : FaultInfo) (keep : State → State)

/-- A meaning. -/
abbrev Exec (α : Type) := Except Stop α

/-- Where control goes after an instruction: to its successor, to a target, or wherever the meaning has put it. -/
inductive Flow where
  | fall | jump (pc : BitVec 15) | placed

/-- Wait, leaving nothing. -/
def waiting {α : Type} : Exec α := .error (.wait id)
/-- Wait, blocked (R163). -/
def blocking {α : Type} : Exec α := .error (.block id)
/-- Raise a fault. -/
def raise {α : Type} (f : FaultInfo) : Exec α := .error (.raise f id)
/-- Wait unless b. -/
def waitFor (b : Bool) : Exec Unit := if b then .ok () else waiting
/-- Wait, blocked, unless b. -/
def blockFor (b : Bool) : Exec Unit := if b then .ok () else blocking
/-- Raise f if b. -/
def raiseIf (b : Bool) (f : FaultInfo) : Exec Unit := if b then raise f else .ok ()

/-! ### What is still under way for a context -/

/-- Requests of the executing context. -/
def State.myReqs (s : State) : List Req := s.fabric.filter fun r => r.key == s.focus && r.ctx == s.act && !r.dead

/-- The register that the reply of a GRPNEW or a JOIN will write (R327, R345): JOINC's reply writes none. -/
def Ctx.replyReg (c : Ctx) : Option (Fin 48) :=
  match c.ask, c.ending, c.waitDst with
  | .sent, .joinSent .., _ => none
  | .sent, _, .g m => some m
  | _, _, _ => none

/-- A reply is due to register n of the executing context (R302, R327). -/
def State.regBusy (s : State) (n : Fin 48) : Bool :=
  n != 0 && (s.cur.replyReg == some n || s.myReqs.any fun r => match r.dst with | .reg (.g m) _ => m == n | _ => false)

/-- Whether a JOIN that waits keeps a place of a queue: its operand's, until its reply says that it has popped it (R345; log entry 16). -/
def Ctx.heldOf (c : Ctx) (x : Src) : Nat :=
  match c.popped with
  | some (y, _, r) => if y = x && (y != .q6 || r.isSome) then 1 else 0
  | none => 0

/-- What a JOIN keeps of its operand, read as v by a context in this state. -/
def Ctx.popOf (c : Ctx) (x : Src) (v : Word) : Option (Src × Word × Option Record) :=
  match x with
  | .g _ | .t _ => none
  | .q6 => some (.q6, v, if c.inboxRead = 7 then c.inbox.head? else none)
  | x => some (x, v, none)

/-- A reply of a load, AMO or remote full/empty form is outstanding (R210). -/
def State.replyDue (s : State) : Bool :=
  s.myReqs.any fun r => match r.kind, r.dst with
    | .fe .., _ => true
    | _, .reg .. => true
    | _, .slot .. => true
    | _, _ => false

/-- A full/empty form sent through rmt has not been answered: its context is blocked (R331). -/
def State.feDue (s : State) : Bool := s.myReqs.any fun r => match r.kind with | .fe .. => true | _ => false

/-- Instructions that access memory when granted (R213). -/
def accessesMemory : Instr → Bool
  | .vld .. | .vst .. | .vldl .. | .vstl .. | .vgath .. | .vscat .. | .mbld .. | .mtld .. | .mtldRb .. | .mmaRa .. | .mepi96 ..
  | .mepi128 .. => true
  | _ => false

/-- Group 5 instructions that are pushed (R387). -/
def isMatrix : Instr → Bool
  | .mbld .. | .mma .. | .mmaRa .. | .mmar .. | .mzero .. | .mtld .. | .mtldRb .. | .mepi96 .. | .mepi128 .. | .macc .. => true
  | _ => false

/-- An epilogue entry of the task that a context runs. -/
def epiIs (key : Nat) (n : Bool) (e : Epi) : Bool := e.pos == posOf key && e.op.ctx == n && !e.dead && e.area.isNone

/-- Epilogue entries of a context. -/
def State.episOf (s : State) (key : Nat) (n : Bool) : List Epi := (s.quad (quadOf key)).epi.filter (epiIs key n)

/-- A vector or matrix instruction of the context is queued or in flight, or a write of one waits for its bank. -/
def State.vecBusy (s : State) (key : Nat) (n : Bool) : Bool :=
  (s.core key).vq.any (·.op.ctx == n) || (s.core key).fly.any (fun f => f.op.ctx == n && !f.dead) || (s.core key).late.any (·.ctx == n)

/-- An MMA.RA whose tile has been read (R392). -/
def Flight.tileRead (f : Flight) : Bool :=
  match f.op.instr with
  | .mmaRa .. => f.left == 0
  | _ => false

/-- The tile of a queued MMA.RA has been read. -/
def Core.tileDone (c : Core) (e : VEntry) : Bool := c.fly.any fun f => e.tile == some f.id && f.tileRead

/-- One of them accesses memory and has not issued its requests or not performed its loads (R213). -/
def State.vecMemPending (s : State) (key : Nat) (n : Bool) : Bool :=
  ((s.core key).vq.any fun e => e.op.ctx == n && accessesMemory e.op.instr && !(s.core key).tileDone e)
    || ((s.core key).fly.any fun f => f.op.ctx == n && !f.dead && accessesMemory f.op.instr && !f.tileRead)
    || (s.episOf key n).any fun e => !e.rows.isEmpty

/-- Whether it is an MMAR. -/
def isMmar (o : VOp) : Bool := match o.instr with | .mmar .. => true | _ => false

/-- An MMAR that stands in the queue and has not been granted. -/
def VEntry.mmarWaits (e : VEntry) : Bool := isMmar e.op && e.quarters == 0

/-- MRSEQ as software reads it: the number that follows every write so far (R389). -/
def Core.mrseqNow (c : Core) : BitVec 16 :=
  match c.mrset, (c.vq.reverse.filter VEntry.mmarWaits).findSome? (·.seqSet) with
  | some x, _ => x
  | none, some x => x
  | none, none => c.mrseq

/-- A write of `MXCFG` (R389): MMARs pushed before it keep their numbers. -/
def Core.writeMxcfg (c : Core) (seq : BitVec 16) (pf : BitVec 4) : Core :=
  if c.vq.any VEntry.mmarWaits then { c with mrset := some seq, mxpf := pf } else { c with mrseq := seq, mrset := none, mxpf := pf }

/-- The entries that stay of a queue; a value of MRSEQ that an MMAR would have brought is brought by the next one, or by the next push. -/
def keepEntries (keep : VEntry → Bool) : Option (BitVec 16) → List VEntry → List VEntry × Option (BitVec 16)
  | x, [] => ([], x)
  | x, e :: es =>
    if !keep e then keepEntries keep (e.seqSet <|> x) es
    else if e.mmarWaits then (let r := keepEntries keep none es; ({ e with seqSet := e.seqSet <|> x } :: r.1, r.2))
    else (let r := keepEntries keep x es; (e :: r.1, r.2))

/-- The predicate that a queued instruction writes. -/
def predWritten : Instr → Option (Fin 8)
  | .vcmp _ _ _ d _ _ | .vpand _ _ d _ _ | .vpor _ _ d _ _ | .vpnot _ _ d _ => some d
  | _ => none

/-- An earlier instruction of the executing context may still write predicate p (R154). -/
def State.predBusy (s : State) (p : Fin 8) : Bool :=
  s.me.vq.any fun e => e.op.ctx == s.act && predWritten e.op.instr == some p

/-! ### Scalar sources and destinations -/

/-- Read a class S source of the executing context, popping a queue that it names (R165, R275). -/
def readSrc (s : State) (x : Src) : Exec (Word × State) :=
  let c := s.cur
  match x with
  | .g n => do waitFor (!s.regBusy n); return (c.readG n, s)
  | .t n => .ok (c.t.get n, s)
  | .q i =>
    match s.me.q.get i with
    | .word w :: ws => .ok (w, s.modMe fun k => { k with q := k.q.set i ws })
    | _ => blocking
  | .q4 =>
    match c.q4 with
    | w :: ws => .ok (w, s.modCur fun c => { c with q4 := ws })
    | [] => blocking
  | .q5 =>
    match c.q5 with
    | w :: ws => .ok (w, s.modCur fun c => { c with q5 := ws })
    | [] => blocking
  | .q7 =>
    match c.q7 with
    | w :: ws => .ok (w, s.modCur fun c => { c with q7 := ws })
    | [] => blocking
  | .q6 =>
    match c.inbox with
    | r :: rs =>
      let w := BitVec.ofNat 64 (r.toNat / 2 ^ (64 * c.inboxRead))
      .ok (w, s.modCur fun c => if c.inboxRead = 7 then { c with inbox := rs, inboxRead := 0 } else { c with inboxRead := c.inboxRead + 1 })
    | [] => blocking

/-- The core and the queue index that a push to q_k goes to (R166): position k of the quad, the index of the pusher's own position; a
controller has no quad and pushes to itself (log entry 13). -/
def queueTarget (key : Nat) (k : Fin 4) : Nat × Fin 4 :=
  if isTile key then (quadOf key * 4 + k.val, posOf key) else (key, k)

/-- Push one entry to a queue of at most 8 (R166). -/
def pushQueue (s : State) (k : Fin 4) (w : QWord) : Exec State :=
  let (j, i) := queueTarget s.focus k
  let q := (s.core j).q.get i
  if q.length + (s.ctx j false).heldOf (.q i) + (s.ctx j true).heldOf (.q i) < 8 then .ok (s.modCore j fun c => { c with q := c.q.set i (q ++ [w]) }) else blocking

/-- Write a class S destination (R275): g0 ignores, a queue is pushed. -/
def writeDst (s : State) (d : Dst) (v : Word) : Exec State :=
  match d with
  | .g n => do waitFor (!s.regBusy n); return s.modCur fun c => c.writeG n v
  | .q k => pushQueue s k (.word v)

/-- Make a destination ready for the reply of request id (R327). -/
def reserveDst (s : State) (d : Dst) (k : LdKind) (id : Nat) : Exec (ReqDst × State) :=
  match d with
  | .g n => do waitFor (!s.regBusy n); return (.reg d k, s)
  | .q i => do
    let s' ← pushQueue s i (.due id)
    let (j, m) := queueTarget s.focus i
    return (.slot j m k, s')

/-- Two sources, A first (R165). -/
def read2 (s : State) (a b : Src) : Exec (Word × Word × State) := do
  let (x, s) ← readSrc s a
  let (y, s) ← readSrc s b
  return (x, y, s)

/-! ### Issue -/

/-- The agents on which an instruction executes (R289). -/
inductive Where where
  | any | tile | leaf
  deriving DecidableEq, Repr

/-- Whether the executing agent runs instructions of this kind. -/
def Where.ok (w : Where) (key : Nat) : Bool :=
  match w with
  | .any => true
  | .tile => isTile key
  | .leaf => !isTile key

/-- PRED after its inversion (R274). -/
def State.predMask (s : State) (p : Pred) : Mask := if p.neg then ~~~(s.cur.readP p.p) else s.cur.readP p.p

/-- The counts that WT names are zero, and the wait of R213 is met (R216). -/
def State.wtMet (s : State) (wt : Fin 4) : Bool :=
  wt == 0 || (!s.vecMemPending s.focus s.act && s.cur.clu == 0 && (wt == 1 || s.cur.mod == 0) && (wt != 3 || s.cur.sys == 0))

/-- The instruction at the PC has completed without a transfer: the loop's count (R308), or the successor (R268). -/
def retireAt (s : State) (key : Nat) (c : Ctx) : Ctx :=
  let fall := nextPc c.pc (s.lenAt key c.pc)
  match c.loop with
  | some l =>
    if l.last = c.pc then
      if 1 < l.count.toNat then { c with pc := l.start, loop := some { l with count := l.count - 1 }, blocked := 0, feArr := none }
      else { c with pc := fall, loop := none, blocked := 0, feArr := none }
    else { c with pc := fall, blocked := 0, feArr := none }
  | none => { c with pc := fall, blocked := 0, feArr := none }

/-- Fall through to the next instruction. -/
def retire (s : State) : State := s.modCur (retireAt s s.focus)

/-- Take a transfer of control (R304). -/
def jumpTo (s : State) (pc : BitVec 15) : State := s.modCur fun c => { c with pc, blocked := 0, feArr := none }

/-- The context stays before its instruction, not blocked. -/
def stay (s : State) : State := s.modCur fun c => { c with blocked := 0 }

/-- The context stays before its instruction, blocked: the cycles that pass count (R163). -/
def stayBlocked (s : State) : State := s.modCur fun c => { c with blocked := max 1 c.blocked }

/-- The end of an attempt: the effect and the move of the PC, a wait, or a fault. s is the state before the attempt. -/
def settle (s : State) (r : Exec (State × Flow)) : Host.Outcome State Fault Refusal :=
  match r with
  | .ok (t, .fall) => .next (retire t)
  | .ok (t, .jump pc) => .next (jumpTo t pc)
  | .ok (t, .placed) => .next t
  | .error (.wait keep) => .next (stay (keep s))
  | .error (.block keep) => .next (stayBlocked (keep s))
  | .error (.raise f keep) => .next (takeFault (keep s) s.focus s.act f)

/-- One scalar instruction (R153, R274, R216): it waits while a remote full/empty form blocks its context (R331); on an agent that does not
run it, ILLOP (R289); predicated off, nothing but its issue cycle; else its WT wait and its meaning. -/
def issue (w : Where) (c : Com) (s : State) (m : State → Exec (State × Flow)) : Host.Outcome State Fault Refusal :=
  settle s (do
    blockFor (!s.feDue)
    raiseIf (!w.ok s.focus) fIllop
    waitFor (!s.predBusy c.pred.p)
    if s.predMask c.pred = 0 then return (s, .fall)
    waitFor (s.wtMet c.wt)
    let (t, f) ← m s
    return (countPmc t s.focus (some s.act) 2 1, f))

/-- A meaning that falls through. -/
def falls (r : Exec State) : Exec (State × Flow) := do return (← r, .fall)

/-- A scalar instruction that falls through. -/
def issueFall (w : Where) (c : Com) (s : State) (m : State → Exec State) : Host.Outcome State Fault Refusal :=
  issue w c s fun s => falls (m s)

/-- A privileged instruction checks its capability bit (R78). -/
def needCap (s : State) (bit : Nat) : Exec Unit := raiseIf (!s.cur.cap.getLsbD bit) (fPriv bit)

/-! ### Posted counts (R214) -/

/-- Count n more requests of a class for a context, as the class's field. -/
def Ctx.addCount (c : Ctx) (k : Cls) (n : Nat) : Ctx :=
  match k with
  | .clu => { c with clu := c.clu + n }
  | .mod => { c with mod := c.mod + n }
  | .sys => { c with sys := c.sys + n }

/-- One request of a class is acknowledged. -/
def Ctx.subCount (c : Ctx) (k : Cls) : Ctx :=
  match k with
  | .clu => { c with clu := c.clu - 1 }
  | .mod => { c with mod := c.mod - 1 }
  | .sys => { c with sys := c.sys - 1 }

/-- The count of a class. -/
def Ctx.count (c : Ctx) : Cls → Nat
  | .clu => c.clu
  | .mod => c.mod
  | .sys => c.sys

/-- The class of a home as a context counts it (R214). -/
def classOf (key : Nat) (loc : Nat) : Cls :=
  if foreignBase ≤ loc then .sys
  else
    match homeOf loc with
    | some h => if h.cluster = some (clusterOf key) then .clu else .mod
    | none => if 2 ^ 57 ≤ loc && clusterOf ((loc - 2 ^ 57) / 2 ^ 15) = clusterOf key then .clu else .mod

/-- The mnemonic's saturating operations of the integer types are in Flags; this is the signed value of a word's low w bits. -/
def sextNat (w v : Nat) : Int := if 2 ^ (w - 1) ≤ v % 2 ^ w then (v % 2 ^ w : Nat) - (2 ^ w : Nat) else (v % 2 ^ w : Nat)

/-- The value of an offset. -/
def offVal : Off → Int
  | .imm24 v => v.toInt
  | .imm32 v => v.toInt

/-- A memory form's address (R278): the base plus the sign-extended offset, modulo 2^64. -/
def addrPlus (a : Word) (off : Int) : Nat := (BitVec.ofInt 64 (a.toNat + off)).toNat

end Sys2Proof.Machine
end

