-- ==== Sys2Proof/Machine/Flags.lean ====
section
/-! DEFINITION. The sticky flags of `STATUS` (R159), the condition codes (R288) and the saturating integer step (R251). -/

namespace Sys2Proof.Machine

/-- `STATUS.NX`. -/
def flNX : Nat := 2 ^ 3
/-- `STATUS.UF`. -/
def flUF : Nat := 2 ^ 4
/-- `STATUS.OF`. -/
def flOF : Nat := 2 ^ 5
/-- `STATUS.DZ`. -/
def flDZ : Nat := 2 ^ 6
/-- `STATUS.NV`. -/
def flNV : Nat := 2 ^ 7
/-- `STATUS.SATF`. -/
def flSATF : Nat := 2 ^ 13
/-- `STATUS.POIS`. -/
def flPOIS : Nat := 2 ^ 14
/-- `STATUS.QOVF`. -/
def flQOVF : Nat := 2 ^ 15

/-- OR flags into `STATUS` (R255, R303). -/
def Ctx.orFlags (c : Ctx) (f : Nat) : Ctx := { c with status := c.status ||| BitVec.ofNat 64 f }

/-- `STATUS.RM` as a mode (R159). -/
def Ctx.rm (c : Ctx) : Rm :=
  match c.status.toNat % 4 with
  | 0 => .rne
  | 1 => .rtz
  | 2 => .rdn
  | _ => .rup

/-- The mode of an instruction: its override, or `STATUS.RM` (R256). -/
def rmOf (r : Rnd) (base : Rm) : Rm := if r.ro then r.rmo else base

/-- A write of `STATUS` (R9, R159): W1C flags, RW RM, reserved bits ignored. -/
def writeStatus (old v : Word) : Word :=
  let flags : Word := 0xE0F8
  (old &&& flags &&& ~~~v) ||| (v &&& 3)

/-- Conditions 0 to 9 on 64-bit integers (R288, R305). -/
def condHolds (k : Cond) (a b : Word) : Bool :=
  match k with
  | .eq => a == b
  | .ne => a != b
  | .lt => decide (a.toInt < b.toInt)
  | .ge => decide (b.toInt ≤ a.toInt)
  | .le => decide (a.toInt ≤ b.toInt)
  | .gt => decide (b.toInt < a.toInt)
  | .ltz => decide (a.toNat < b.toNat)
  | .gez => decide (b.toNat ≤ a.toNat)
  | .lez => decide (a.toNat ≤ b.toNat)
  | .gtz => decide (b.toNat < a.toNat)

/-- sat(v, lo, hi) and whether it changed the value (R12, R251). -/
def satInt (v lo hi : Int) : Int × Bool := if v < lo then (lo, true) else if hi < v then (hi, true) else (v, false)

/-- Bits of an element type (R351). -/
def tyBits : Ty → Nat
  | .i8 | .z8 | .t8 | .t6 => 8
  | .i16 | .z16 | .bf16 => 16
  | .i32 | .z32 | .f32 => 32
  | .i64 => 64
  | .i4 => 4

/-- Signed integer types (R250). -/
def tySigned : Ty → Bool
  | .i8 | .i16 | .i32 | .i64 | .i4 => true
  | _ => false

/-- Least value of an integer type. -/
def tyMin (t : Ty) : Int := if tySigned t then -(2 ^ (tyBits t - 1) : Nat) else 0
/-- Greatest value of an integer type. -/
def tyMax (t : Ty) : Int := if tySigned t then (2 ^ (tyBits t - 1) : Nat) - 1 else (2 ^ tyBits t : Nat) - 1

/-- The integer that an element's bits hold (R250). -/
def intOf (t : Ty) (bits : Nat) : Int := if tySigned t then sextNat (tyBits t) bits else (bits % 2 ^ tyBits t : Nat)

/-- The low bits of an integer, as an element. -/
def bitsOf (w : Nat) (v : Int) : Nat := (v % (2 ^ w : Nat)).toNat

/-- An exact integer result written to a type: wrapped, or saturated with SATF (R251). -/
def intResult (t : Ty) (sat : Bool) (v : Int) : Nat × Nat :=
  if sat then
    let (x, ch) := satInt v (tyMin t) (tyMax t)
    (bitsOf (tyBits t) x, if ch then flSATF else 0)
  else (bitsOf (tyBits t) v, 0)

end Sys2Proof.Machine
end

