-- ==== Sys2Proof/Machine/Num.lean ====
section
/-! DEFINITION. Number formats and arithmetic (R250 to R264): BF16 and FP32 by exact values and one rounding, T8 and T6, BS8 and BS16.
A finite value is a sign, a magnitude and a power of two. Each operation gives bits and the flags it sets (R255). -/

namespace Sys2Proof.Machine

/-- A decoded number: a NaN, an infinity, or ± m · 2^e. -/
inductive FV where
  | nan (signalling : Bool)
  | inf (neg : Bool)
  | fin (neg : Bool) (m : Nat) (e : Int)
  deriving DecidableEq, Repr

/-- Fraction bits of FP32 (R253). -/
def frF32 : Nat := 23
/-- Fraction bits of BF16 (R253). -/
def frBf : Nat := 7

/-- Bits as a number, with fr fraction bits (R253). -/
def unpack (fr bits : Nat) : FV :=
  let neg := bits / 2 ^ (fr + 8) % 2 == 1
  let e := bits / 2 ^ fr % 256
  let f := bits % 2 ^ fr
  if e = 255 then (if f = 0 then .inf neg else .nan (f / 2 ^ (fr - 1) == 0))
  else if e = 0 then .fin neg f (-126 - (fr : Int))
  else .fin neg (f + 2 ^ fr) ((e : Int) - 127 - fr)

/-- The default NaN (R253). -/
def defNan (fr : Nat) : Nat := 511 * 2 ^ (fr - 1)
/-- An infinity. -/
def infBits (fr : Nat) (neg : Bool) : Nat := neg.toNat * 2 ^ (fr + 8) + 255 * 2 ^ fr
/-- A signed zero. -/
def zeroBits (fr : Nat) (neg : Bool) : Nat := neg.toNat * 2 ^ (fr + 8)
/-- A NaN with its quiet bit set, sign and payload kept (R254). -/
def quiet (fr bits : Nat) : Nat := if bits / 2 ^ (fr - 1) % 2 = 1 then bits else bits + 2 ^ (fr - 1)

/-- m / 2^k rounded to an integer under a mode, and whether it is inexact (R256). -/
def roundShift (rm : Rm) (neg : Bool) (m k : Nat) : Nat × Bool :=
  let q := m / 2 ^ k
  let r := m % 2 ^ k
  let up := match rm with
    | .rne => 2 ^ k < 2 * r || (2 ^ k == 2 * r && q % 2 == 1)
    | .rtz => false
    | .rdn => neg && r != 0
    | .rup => !neg && r != 0
  (if up then q + 1 else q, r != 0)

/-- m · 2^e rounded to a multiple of 2^q: the multiple, and whether it is inexact. -/
def roundAt (rm : Rm) (neg : Bool) (m : Nat) (e q : Int) : Nat × Bool :=
  if q ≤ e then (m * 2 ^ (e - q).toNat, false) else roundShift rm neg m (q - e).toNat

/-- An exact ± m · 2^e rounded once into a format (R254, R256), with OF, UF and NX (R255). Tininess is detected after rounding. -/
def roundTo (fr : Nat) (rm : Rm) (neg : Bool) (m : Nat) (e : Int) : Nat × Nat :=
  if m = 0 then (zeroBits fr neg, 0)
  else
    let top : Int := e + m.log2
    let q := max (top - fr) (-126 - (fr : Int))
    let (k, inex) := roundAt rm neg m e q
    let (k, q) := if k = 2 ^ (fr + 1) then (2 ^ fr, q + 1) else (k, q)
    let unb := (roundAt rm neg m e (top - fr)).1
    let tiny := top < -127 || (top == -127 && unb != 2 ^ (fr + 1))
    let nx := if inex then flNX else 0
    if k < 2 ^ fr then (neg.toNat * 2 ^ (fr + 8) + k, nx + (if tiny && inex then flUF else 0))
    else
      let be := q + fr + 127
      if 255 ≤ be then
        let toInf := match rm with | .rne => true | .rtz => false | .rdn => neg | .rup => !neg
        (if toInf then infBits fr neg else infBits fr neg - 1, flOF + flNX)
      else (neg.toNat * 2 ^ (fr + 8) + be.toNat * 2 ^ fr + (k - 2 ^ fr), nx + (if tiny && inex then flUF else 0))

/-- The signed magnitude of an exact value over 2^e. -/
def scaled (neg : Bool) (m : Nat) (e base : Int) : Int := (if neg then -1 else 1) * (m * 2 ^ (e - base).toNat : Nat)

/-- An exact integer times 2^e, rounded; a zero takes the sign given. -/
def roundInt (fr : Nat) (rm : Rm) (v : Int) (e : Int) (zeroNeg : Bool) : Nat × Nat :=
  if v = 0 then (zeroBits fr zeroNeg, 0) else roundTo fr rm (decide (v < 0)) v.natAbs e

/-- NV when some operand is a signalling NaN (R255). -/
def sigFlag (fr : Nat) (xs : List Nat) : Nat := if xs.any fun x => unpack fr x == .nan true then flNV else 0

/-- The first NaN source, quieted (R254). -/
def firstNan (fr : Nat) (xs : List Nat) : Option Nat :=
  (xs.find? fun x => match unpack fr x with | .nan _ => true | _ => false).map (quiet fr)

/-- The sum of two exact values in one rounding: IEEE signs for an exact zero (R322). -/
def addFin (fr : Nat) (rm : Rm) (n1 : Bool) (m1 : Nat) (e1 : Int) (n2 : Bool) (m2 : Nat) (e2 : Int) : Nat × Nat :=
  let b := min e1 e2
  let v := scaled n1 m1 e1 b + scaled n2 m2 e2 b
  roundInt fr rm v b (if m1 = 0 && m2 = 0 && n1 == n2 then n1 else rm == .rdn)

/-- A · B + C with one rounding (R254, R322). Add is A · 1 + C and multiply has its own rule for a zero product. -/
def fpFma (fr : Nat) (rm : Rm) (a b c : Nat) : Nat × Nat :=
  let x := unpack fr a
  let y := unpack fr b
  let z := unpack fr c
  let zeroInf := match x, y with
    | .inf _, .fin _ 0 _ => true
    | .fin _ 0 _, .inf _ => true
    | _, _ => false
  match firstNan fr [a, b, c] with
  | some n => (n, sigFlag fr [a, b, c] ||| (if zeroInf then flNV else 0))
  | none =>
    if zeroInf then (defNan fr, flNV)
    else
      match x, y, z with
      | .fin n1 m1 e1, .fin n2 m2 e2, .fin n3 m3 e3 => addFin fr rm (n1 != n2) (m1 * m2) (e1 + e2) n3 m3 e3
      | .fin .., .fin .., .inf n3 => (infBits fr n3, 0)
      | _, _, _ =>
        let sgn : FV → Bool := fun v => match v with | .inf n => n | .fin n _ _ => n | .nan _ => false
        let pn := sgn x != sgn y
        match z with
        | .inf n3 => if n3 == pn then (infBits fr pn, 0) else (defNan fr, flNV)
        | _ => (infBits fr pn, 0)

/-- The sign bit flipped. -/
def fpNeg (fr a : Nat) : Nat := if a / 2 ^ (fr + 8) % 2 = 1 then a - 2 ^ (fr + 8) else a + 2 ^ (fr + 8)
/-- The sign bit cleared. -/
def fpAbs (fr a : Nat) : Nat := a % 2 ^ (fr + 8)

/-- A + B (R322). -/
def fpAdd (fr : Nat) (rm : Rm) (a b : Nat) : Nat × Nat :=
  match firstNan fr [a, b] with
  | some n => (n, sigFlag fr [a, b])
  | none =>
    match unpack fr a, unpack fr b with
    | .fin n1 m1 e1, .fin n2 m2 e2 => addFin fr rm n1 m1 e1 n2 m2 e2
    | .inf n1, .inf n2 => if n1 == n2 then (infBits fr n1, 0) else (defNan fr, flNV)
    | .inf n1, _ => (infBits fr n1, 0)
    | _, .inf n2 => (infBits fr n2, 0)
    | _, _ => (defNan fr, 0)

/-- A − B: a NaN operand keeps its own sign (R254). -/
def fpSub (fr : Nat) (rm : Rm) (a b : Nat) : Nat × Nat :=
  match firstNan fr [a, b] with
  | some n => (n, sigFlag fr [a, b])
  | none => fpAdd fr rm a (fpNeg fr b)

/-- A · B (R322). -/
def fpMul (fr : Nat) (rm : Rm) (a b : Nat) : Nat × Nat :=
  match firstNan fr [a, b] with
  | some n => (n, sigFlag fr [a, b])
  | none =>
    match unpack fr a, unpack fr b with
    | .fin n1 m1 e1, .fin n2 m2 e2 => roundTo fr rm (n1 != n2) (m1 * m2) (e1 + e2)
    | .inf _, .fin _ 0 _ => (defNan fr, flNV)
    | .fin _ 0 _, .inf _ => (defNan fr, flNV)
    | .inf n1, .inf n2 => (infBits fr (n1 != n2), 0)
    | .inf n1, .fin n2 _ _ => (infBits fr (n1 != n2), 0)
    | .fin n1 _ _, .inf n2 => (infBits fr (n1 != n2), 0)
    | _, _ => (defNan fr, 0)

/-- The order of two numbers that are not NaNs; −0 below +0 (R323). -/
def fpLess (fr a b : Nat) : Bool :=
  let key (x : Nat) : Int := if x / 2 ^ (fr + 8) % 2 = 1 then -(x % 2 ^ (fr + 8) : Nat) - 1 else (x % 2 ^ (fr + 8) : Nat)
  decide (key a < key b)

/-- Minimum or maximum (R323). -/
def fpMinMax (fr : Nat) (isMax : Bool) (a b : Nat) : Nat × Nat :=
  let nan (x : Nat) : Bool := match unpack fr x with | .nan _ => true | _ => false
  let nv := sigFlag fr [a, b]
  if nan a && nan b then (quiet fr a, nv)
  else if nan a then (b, nv)
  else if nan b then (a, nv)
  else if fpLess fr a b != isMax then (a, nv) else (b, nv)

/-- Value order of two numbers that are not NaNs: −0 equals +0. -/
def fpCmpVal (fr a b : Nat) : Ordering :=
  let key (x : Nat) : Int := if x / 2 ^ (fr + 8) % 2 = 1 then -(x % 2 ^ (fr + 8) : Nat) else (x % 2 ^ (fr + 8) : Nat)
  compare (key a) (key b)

/-- FCMP (R324): the relation and its NV. Conditions 6 to 9 do not reach it. -/
def fpCmp (fr : Nat) (k : Cond) (a b : Nat) : Bool × Nat :=
  match firstNan fr [a, b] with
  | some _ =>
    match k with
    | .ne => (true, sigFlag fr [a, b])
    | .eq => (false, sigFlag fr [a, b])
    | _ => (false, flNV)
  | none =>
    let o := fpCmpVal fr a b
    (match k with
      | .eq => o == .eq
      | .ne => o != .eq
      | .lt => o == .lt
      | .ge => o != .lt
      | .le => o != .gt
      | .gt => o == .gt
      | _ => false, 0)

/-- Integer square root by Newton's iteration from above: fuel bounds the steps. -/
def isqrtIter : Nat → Nat → Nat → Nat
  | 0, _, x => x
  | f + 1, n, x => let y := (x + n / x) / 2; if y < x then isqrtIter f n y else x

/-- The integer square root. -/
def isqrt (n : Nat) : Nat := if n = 0 then 0 else isqrtIter (n.log2 + 2) n (2 ^ (n.log2 / 2 + 1))

/-- A positive real q · 2^e, plus a little more when it is not exact: q must hold more bits than the result. -/
def roundSticky (fr : Nat) (rm : Rm) (neg : Bool) (q : Nat) (e : Int) (exact : Bool) : Nat × Nat :=
  if exact then roundTo fr rm neg q e else roundTo fr rm neg (2 * q + 1) (e - 1)

/-- √A (R322). -/
def fpSqrt (fr : Nat) (rm : Rm) (a : Nat) : Nat × Nat :=
  match unpack fr a with
  | .nan s => (quiet fr a, if s then flNV else 0)
  | .inf false => (a, 0)
  | .inf true => (defNan fr, flNV)
  | .fin neg m e =>
    if m = 0 then (a, 0)
    else if neg then (defNan fr, flNV)
    else
      let (m, e) := if e % 2 = 0 then (m, e) else (m * 2, e - 1)
      let n := m * 2 ^ 64
      let r := isqrt n
      roundSticky fr rm false r (e / 2 - 32) (r * r == n)

/-- 1/A (R383). -/
def fpRcp (fr : Nat) (rm : Rm) (a : Nat) : Nat × Nat :=
  match unpack fr a with
  | .nan s => (quiet fr a, if s then flNV else 0)
  | .inf neg => (zeroBits fr neg, 0)
  | .fin neg m e => if m = 0 then (infBits fr neg, flDZ) else roundSticky fr rm neg (2 ^ 80 / m) (-e - 80) (2 ^ 80 % m == 0)

/-- 1/√A (R383). -/
def fpRsq (fr : Nat) (rm : Rm) (a : Nat) : Nat × Nat :=
  match unpack fr a with
  | .nan s => (quiet fr a, if s then flNV else 0)
  | .inf false => (zeroBits fr false, 0)
  | .inf true => (defNan fr, flNV)
  | .fin neg m e =>
    if m = 0 then (infBits fr neg, flDZ)
    else if neg then (defNan fr, flNV)
    else
      let (m, e) := if e % 2 = 0 then (m, e) else (m * 2, e - 1)
      let q := isqrt (2 ^ 160 / m)
      roundSticky fr rm false q (-(e / 2) - 80) (q * q * m == 2 ^ 160)

/-- Precision of 2^x, in bits: far more than separates 2^x, irrational for x not an integer, from any rounding boundary. -/
def expP : Nat := 256

/-- The product of 2^(2^-i) over the one bits of a fraction f of n bits, most significant first; root is 2^(2^-i) at the present bit. -/
def expFrac : Nat → Nat → Nat → Nat → Nat
  | 0, _, _, acc => acc
  | n + 1, f, root, acc =>
    let r := isqrt (root * 2 ^ expP)
    expFrac n (f % 2 ^ n) r (if f / 2 ^ n % 2 = 1 then acc * r / 2 ^ expP else acc)

/-- 2^A (R383). -/
def fpExp2 (fr : Nat) (rm : Rm) (a : Nat) : Nat × Nat :=
  match unpack fr a with
  | .nan s => (quiet fr a, if s then flNV else 0)
  | .inf false => (infBits fr false, 0)
  | .inf true => (zeroBits fr false, 0)
  | .fin neg m e =>
    if m = 0 then (127 * 2 ^ fr, 0)
    else if 9 < e + (m.log2 : Int) then roundTo fr rm false 1 (if neg then -1000 else 1000)
    else if 0 ≤ e then roundTo fr rm false 1 ((if neg then -1 else 1) * (m * 2 ^ e.toNat : Nat))
    else
      let n := (-e).toNat
      let v : Int := (if neg then -1 else 1) * m
      let ip := v / (2 ^ n : Nat)
      let f := (v % (2 ^ n : Nat)).toNat
      if f = 0 then roundTo fr rm false 1 ip
      else roundSticky fr rm false (expFrac n f (2 * 2 ^ expP) (2 ^ expP)) (ip - expP) false

/-! ### Integers and floats (R261) -/

/-- An integer rounded into a format. -/
def intToFp (fr : Nat) (rm : Rm) (v : Int) : Nat × Nat := roundInt fr rm v 0 false

/-- ± m · 2^e rounded to an integer, and whether it is inexact. -/
def toInteger (rm : Rm) (neg : Bool) (m : Nat) (e : Int) : Int × Bool :=
  let (k, i) := roundAt rm neg m e 0
  ((if neg then -1 else 1) * (k : Int), i)

/-- A float to an integer range, saturating (R261). -/
def fvToInt (rm : Rm) (lo hi : Int) (x : FV) : Int × Nat :=
  match x with
  | .nan _ => (0, flNV + flSATF)
  | .inf neg => (if neg then lo else hi, flNV + flSATF)
  | .fin neg m e =>
    let (v, i) := toInteger rm neg m e
    let (w, ch) := satInt v lo hi
    if ch then (w, flNV + flSATF) else (w, if i then flNX else 0)

/-- FP32 to BF16 (R261). -/
def f32ToBf (rm : Rm) (a : Nat) : Nat × Nat :=
  match unpack 23 a with
  | .nan s => (a / 2 ^ 31 * 2 ^ 15 + 0x7FC0 + a / 2 ^ 16 % 64, if s then flNV else 0)
  | .inf neg => (infBits 7 neg, 0)
  | .fin neg m e => roundTo 7 rm neg m e

/-- BF16 to FP32 (R261). -/
def bfToF32 (a : Nat) : Nat × Nat :=
  match unpack 7 a with
  | .nan s => (quiet 7 a * 2 ^ 16, if s then flNV else 0)
  | _ => (a * 2 ^ 16, 0)

/-! ### T8 and T6 (R257, R258) -/

/-- The run of bits equal to b from bit i − 1 of u downwards. -/
def runLen (u : Nat) (b : Bool) : Nat → Nat
  | 0 => 0
  | i + 1 => if u.testBit i == b then runLen u b i + 1 else 0

/-- decode_T (R257): NaR is a NaN. -/
def decodeT (n c : Nat) : FV :=
  let c := c % 2 ^ n
  if c = 0 then .fin false 0 0
  else if c = 2 ^ (n - 1) then .nan false
  else
    let neg := c.testBit (n - 1)
    let u := if neg then 2 ^ n - c else c
    let b := u.testBit (n - 2)
    let m := runLen u b (n - 1)
    let k : Int := if b then (m : Int) - 1 else -(m : Int)
    let w := n - 2 - m
    let e := if 1 ≤ w then u / 2 ^ (w - 1) % 2 else 0
    let f := w - 1
    .fin neg (2 ^ f + u % 2 ^ f) (2 * k + e - f)

/-- Whether two finite values are the same number. -/
def sameVal (n1 : Bool) (m1 : Nat) (e1 : Int) (n2 : Bool) (m2 : Nat) (e2 : Int) : Bool :=
  scaled n1 m1 e1 (min e1 e2) == scaled n2 m2 e2 (min e1 e2)

/-- The nearest code of a magnitude strictly between minpos and maxpos, by the code's bit string (R258). -/
def encodeMag (n m : Nat) (e : Int) : Nat :=
  let top : Int := e + m.log2
  let k := top / 2
  let ex := (top % 2).toNat
  let (reg, rl) := if 0 ≤ k then ((2 ^ (k.toNat + 1) - 1) * 2, k.toNat + 2) else (1, (-k).toNat + 1)
  let fb := m.log2
  let str := (reg * 2 + ex) * 2 ^ fb + (m - 2 ^ fb)
  let len := rl + 1 + fb
  if len ≤ n - 1 then str * 2 ^ (n - 1 - len) else (roundShift .rne false str (len - (n - 1))).1

/-- encode_T and its flags (R258). -/
def encodeT (n : Nat) (x : FV) : Nat × Nat :=
  match x with
  | .nan s => (2 ^ (n - 1), if s then flNV else 0)
  | .inf neg => (if neg then 2 ^ n - (2 ^ (n - 1) - 1) else 2 ^ (n - 1) - 1, flNX + flSATF)
  | .fin neg m e =>
    if m = 0 then (0, 0)
    else
      let mx : Int := 2 * ((n : Int) - 2)
      let atMax := mx ≤ e + (m.log2 : Int)
      let isPow := m == 2 ^ m.log2
      let atMin := e + (m.log2 : Int) < -mx || (e + (m.log2 : Int) == -mx && isPow)
      let u := if atMax then 2 ^ (n - 1) - 1 else if atMin then 1 else encodeMag n m e
      let c := if neg then 2 ^ n - u else u
      let beyond := (atMax && !(e + (m.log2 : Int) == mx && isPow)) || e + (m.log2 : Int) < -mx
      let same := match decodeT n c with | .fin n2 m2 e2 => sameVal neg m e n2 m2 e2 | _ => false
      (c, (if same then 0 else flNX) + (if beyond then flSATF else 0))

/-! ### Block-scaled formats (R259, R260) -/

/-- x · 2^k rounded to an integer. -/
def fvScaleInt (rm : Rm) (k : Int) : FV → Int
  | .fin neg m e => (toInteger rm neg m (e + k)).1
  | _ => 0

/-- bs_encode (R260): the mantissas, the exponent byte and the flags. W is 8 or 16. -/
def bsEncode (w : Nat) (rm : Rm) (xs : List FV) : List Int × Nat × Nat :=
  let bias : Int := if w = 8 then 133 else 141
  let lo : Int := -(2 ^ (w - 1) : Nat)
  let hi : Int := (2 ^ (w - 1) : Nat) - 1
  if xs.any fun x => match x with | .fin .. => false | _ => true then (xs.map fun _ => 0, 255, flNV)
  else if xs.all fun x => match x with | .fin _ m _ => m == 0 | _ => false then (xs.map fun _ => 0, 0, 0)
  else
    let fits (e : Nat) : Bool := xs.all fun x => let v := fvScaleInt rm (bias - e) x; decide (lo ≤ v) && decide (v ≤ hi)
    let e := ((List.range 255).find? fits).getD 254
    let ms := xs.map fun x => satInt (fvScaleInt rm (bias - e) x) lo hi
    let nx := (xs.zip ms).any fun p => match p.1 with
      | .fin n m x => !(sameVal n m x (decide (p.2.1 < 0)) p.2.1.natAbs ((e : Int) - bias))
      | _ => false
    (ms.map (·.1), e, (if nx then flNX else 0) + (if ms.any (·.2) then flSATF else 0))

/-- Decode one element of a block as FP32 bits (R259, R260). -/
def bsDecode (w : Nat) (e : Nat) (m : Int) : Nat × Nat :=
  if e = 255 then (0x7FC00000, 0)
  else roundInt 23 .rne m ((e : Int) - (if w = 8 then 133 else 141)) false

/-! ### Elements of any type -/

/-- The value of a floating-point or T element. -/
def valOf (t : Ty) (bits : Nat) : FV :=
  match t with
  | .f32 => unpack 23 (bits % 2 ^ 32)
  | .bf16 => unpack 7 (bits % 2 ^ 16)
  | .t8 => decodeT 8 bits
  | .t6 => decodeT 6 bits
  | t => let v := intOf t bits; .fin (decide (v < 0)) v.natAbs 0

/-- An element as a write leaves it in the register store: a T6 code's container has bits [7:6] zero (R257). -/
def stored (t : Ty) (bits : Nat) : Nat := if t = .t6 then bits % 64 else bits % 2 ^ tyBits t

/-- Conversion of one element (R261, R373): same type copies; integers wrap or saturate; T passes through its exact value. -/
def convert (src dst : Ty) (rm : Rm) (sat : Bool) (bits : Nat) : Nat × Nat :=
  if src == dst then (stored src bits, 0)
  else if src.isInt && dst.isInt then intResult dst sat (intOf src bits)
  else
    match dst with
    | .f32 =>
      match src with
      | .bf16 => bfToF32 (bits % 2 ^ 16)
      | .t8 | .t6 => match valOf src bits with | .fin n m e => roundTo 23 rm n m e | _ => (defNan 23, 0)
      | _ => intToFp 23 rm (intOf src bits)
    | .bf16 =>
      match src with
      | .f32 => f32ToBf rm (bits % 2 ^ 32)
      | .t8 | .t6 => match valOf src bits with | .fin n m e => roundTo 7 rm n m e | _ => (defNan 7, 0)
      | _ => intToFp 7 rm (intOf src bits)
    | .t8 | .t6 =>
      let n := if dst == .t8 then 8 else 6
      if src.isInt then
        let (f, fl) := intToFp 23 rm (intOf src bits)
        let (c, fl2) := encodeT n (unpack 23 f)
        (c, fl ||| fl2)
      else encodeT n (valOf src bits)
    | d =>
      let (v, fl) := fvToInt rm (tyMin d) (tyMax d) (valOf src bits)
      (bitsOf (tyBits d) v, fl)

end Sys2Proof.Machine
end

