-- ==== Sys2Proof/Machine/VectorOps.lean ====
section
/-! DEFINITION. What the vector instructions compute (R351, R352, R366 to R383): functions of element lists. A result is one entry per element,
none where the element is not written, with the flags of the active elements. -/

namespace Sys2Proof.Machine

/-! ### Elements (R351) -/

/-- Bytes of an element; 0 for I4, two of which share a byte. -/
def tyBytes (t : Ty) : Nat := tyBits t / 8

/-- Split a list into pieces of k. fuel bounds the pieces. -/
def pieces {α : Type} (k : Nat) : Nat → List α → List (List α)
  | 0, _ => []
  | f + 1, l => if l.isEmpty then [] else l.take k :: pieces k f (l.drop k)

/-- The elements of an image of bytes. -/
def elems (t : Ty) (bs : List Byte) : List Nat :=
  if t = .i4 then bs.flatMap fun b => [b.toNat % 16, b.toNat / 16]
  else (pieces (tyBytes t) bs.length bs).map natOfBytes

/-- The byte at which an element begins. -/
def elemByte (t : Ty) (i : Nat) : Nat := if t = .i4 then i / 2 else i * tyBytes t

/-- Whether element i is active (R352). -/
def active (mask : Mask) (t : Ty) (i : Nat) : Bool := mask.getLsbD (elemByte t i)

/-- The result of one element: bits and flags. -/
abbrev ElemRes := Nat × Nat

/-- Results of a vector: what is written, and the flags. -/
structure VRes where
  out : List (Option Nat) := []
  flags : Nat := 0

/-- Keep the results of the active elements. -/
def collect (mask : Mask) (t : Ty) (rs : List (Option ElemRes)) : VRes :=
  let xs := (rs.zip (List.range rs.length)).map fun p => if active mask t p.2 then p.1 else none
  { out := xs.map fun x => x.map (·.1), flags := xs.foldl (fun f x => f ||| (match x with | some r => r.2 | none => 0)) 0 }

/-- The bytes that results write, as (byte of the view, byte): a T6 code's container has bits [7:6] zero (R257). -/
def resBytes (t : Ty) (out : List (Option Nat)) : List (Nat × Byte) :=
  if t = .i4 then
    (pieces 2 out.length out).zip (List.range out.length) |>.filterMap fun p =>
      match p.1 with
      | [some a, some b] => some (p.2, BitVec.ofNat 8 (a % 16 + b % 16 * 16))
      | _ => none
  else
    (out.zip (List.range out.length)).flatMap fun p =>
      match p.1 with
      | some v => (List.range (tyBytes t)).map fun j => (p.2 * tyBytes t + j, BitVec.ofNat 8 (stored t v / 256 ^ j))
      | none => []

/-- Fraction bits of an IEEE element type. -/
def frOf (t : Ty) : Nat := if t = .bf16 then 7 else 23

/-! ### Element-wise operations (R366 to R372) -/

/-- Two-operand arithmetic of R366. -/
inductive ArithOp where
  | add | sub | mul | min | max
  deriving DecidableEq, Repr

/-- One element of R366. -/
def arith2 (op : ArithOp) (t : Ty) (sat : Bool) (rm : Rm) (a b : Nat) : ElemRes :=
  if t.isInt then
    let x := intOf t a
    let y := intOf t b
    match op with
    | .add => intResult t sat (x + y)
    | .sub => intResult t sat (x - y)
    | .mul => intResult t sat (x * y)
    | .min => if y < x then (b, 0) else (a, 0)
    | .max => if x < y then (b, 0) else (a, 0)
  else
    let fr := frOf t
    match op with
    | .add => fpAdd fr rm a b
    | .sub => fpSub fr rm a b
    | .mul => fpMul fr rm a b
    | .min => fpMinMax fr false a b
    | .max => fpMinMax fr true a b

/-- VABS (R366). -/
def absElem (t : Ty) (sat : Bool) (a : Nat) : ElemRes :=
  if t.isInt then (let x := intOf t a; if x < 0 then intResult t sat (-x) else (a, 0)) else (fpAbs (frOf t) a, 0)

/-- VNEG (R366). -/
def negElem (t : Ty) (sat : Bool) (a : Nat) : ElemRes :=
  if t.isInt then intResult t sat (-(intOf t a)) else (fpNeg (frOf t) a, 0)

/-- VFMA (R367). -/
def fmaElem (t : Ty) (sat : Bool) (rm : Rm) (a b c : Nat) : ElemRes :=
  if t.isInt then intResult t sat (intOf t a * intOf t b + intOf t c) else fpFma (frOf t) rm a b c

/-- Shifts of R369. -/
inductive ShiftOp where
  | shl | shr | sra
  deriving DecidableEq, Repr

/-- One element of R369. -/
def shiftElem (op : ShiftOp) (t : Ty) (a b : Nat) : ElemRes :=
  let w := tyBits t
  let n := b % w
  match op with
  | .shl => (a * 2 ^ n % 2 ^ w, 0)
  | .shr => (a / 2 ^ n, 0)
  | .sra => (bitsOf w (sextNat w a / (2 ^ n : Nat)), 0)

/-- VCMP on one element (R370, R288). -/
def cmpElem (k : Cond) (t : Ty) (a b : Nat) : Bool × Nat :=
  if t.isInt then
    let w := tyBits t
    (condHolds k (match k with | .ltz | .gez | .lez | .gtz => BitVec.ofNat 64 (a % 2 ^ w) | _ => BitVec.ofInt 64 (sextNat w a))
      (match k with | .ltz | .gez | .lez | .gtz => BitVec.ofNat 64 (b % 2 ^ w) | _ => BitVec.ofInt 64 (sextNat w b)), 0)
  else fpCmp (frOf t) k a b

/-- Element-wise results of two sources. -/
def map2 (f : Nat → Nat → ElemRes) (a b : List Nat) : List (Option ElemRes) := (a.zip b).map fun p => some (f p.1 p.2)
/-- Element-wise results of one source. -/
def map1 (f : Nat → ElemRes) (a : List Nat) : List (Option ElemRes) := a.map fun x => some (f x)
/-- Element-wise results of three sources. -/
def map3 (f : Nat → Nat → Nat → ElemRes) (a b c : List Nat) : List (Option ElemRes) := ((a.zip b).zip c).map fun p => some (f p.1.1 p.1.2 p.2)

/-- The predicate that VCMP leaves: every bit of an active element's bytes is the result. -/
def cmpPred (old mask : Mask) (t : Ty) (rs : List (Bool × Nat)) : Mask × Nat :=
  (rs.zip (List.range rs.length)).foldl (fun m p =>
    if active mask t p.2 then
      let bits : Mask := BitVec.ofNat 256 ((2 ^ tyBytes t - 1) * 2 ^ (p.2 * tyBytes t))
      (if p.1.1 then m.1 ||| bits else m.1 &&& ~~~bits, m.2 ||| p.1.2)
    else m) (old, 0)

/-- VBCAST (R372). -/
def bcastVal (t : Ty) (a : Word) : Nat := if t = .t6 then a.toNat % 64 else a.toNat % 2 ^ tyBits t

/-! ### Conversion and widening (R373, R374) -/

/-- VCVT: which source element goes to destination element i. -/
def cvtIndex (nd ns part i : Nat) : Option Nat :=
  if ns < nd then (if part * ns ≤ i && i < part * ns + ns then some (i - part * ns) else none)
  else if nd < ns then some (part * nd + i)
  else some i

/-- VCVT (R373). A T6 container is written with its code alone. -/
def cvtAll (dst src : Ty) (part : Nat) (rm : Rm) (sat : Bool) (a : List Nat) : List (Option ElemRes) :=
  (List.range dst.count).map fun i => (cvtIndex dst.count src.count part i).map fun j => convert src dst rm sat (a.getD j 0)

/-- The wide type of VWADD and VWMUL (R374). -/
def wideTy : Ty → Option Ty
  | .i8 => some .i16
  | .z8 => some .z16
  | .i16 => some .i32
  | .z16 => some .z32
  | .i32 => some .i64
  | .z32 => some .i64
  | .bf16 => some .f32
  | _ => none

/-- One element of VWADD or VWMUL: the operands are wide already, or are widened. -/
def wideElem (mul : Bool) (t w : Ty) (wb sat : Bool) (rm : Rm) (a b : Nat) : ElemRes :=
  if t.isInt then
    let x := if wb then intOf w a else intOf t a
    let y := intOf t b
    intResult w sat (if mul then x * y else x + y)
  else
    let x := if wb then a else a * 2 ^ 16
    let y := b * 2 ^ 16
    if mul then fpMul 23 rm x y else fpAdd 23 rm x y

/-- VWADD and VWMUL (R374). -/
def wideAll (mul : Bool) (t w : Ty) (part : Nat) (wb sat : Bool) (rm : Rm) (a b : List Nat) : List (Option ElemRes) :=
  (List.range w.count).map fun i =>
    some (wideElem mul t w wb sat rm (a.getD (if wb then i else part * w.count + i) 0) (b.getD (part * w.count + i) 0))

/-! ### Dot products (R375) -/

/-- What a sum of products meets: exact terms over a common power of two, infinities and invalid products. -/
structure DotAcc where
  terms : List (Bool × Nat × Int) := []
  posInf : Bool := false
  negInf : Bool := false
  bad : Bool := false

/-- Add the product of two decoded numbers; one with a NaN adds nothing here. -/
def dotStep (d : DotAcc) (x y : FV) : DotAcc :=
  let inf (n : Bool) : DotAcc := if n then { d with negInf := true } else { d with posInf := true }
  match x, y with
  | .fin n1 m1 e1, .fin n2 m2 e2 => { d with terms := (n1 != n2, m1 * m2, e1 + e2) :: d.terms }
  | .inf _, .fin _ 0 _ => { d with bad := true }
  | .fin _ 0 _, .inf _ => { d with bad := true }
  | .inf n1, .inf n2 => inf (n1 != n2)
  | .inf n1, .fin n2 _ _ => inf (n1 != n2)
  | .fin n1 _ _, .inf n2 => inf (n1 != n2)
  | .nan _, _ | _, .nan _ => d

/-- The exact sum of terms, over the least power of two. -/
def dotSum (ts : List (Bool × Nat × Int)) : Int × Int :=
  let b := ts.foldl (fun m t => min m t.2.2) 0
  (ts.foldl (fun v t => v + scaled t.1 t.2.1 t.2.2 b) 0, b)

/-- D + Σ A[k]·B[k] in FP32 with one rounding, of BF16 pairs (R375). A NaN result is the first NaN of A[k], B[k] in order, then D (R254); 0 · ∞ and
∞ − ∞ set NV beside a NaN too (R255). -/
def dotFp (rm : Rm) (d : Nat) (ps : List (Nat × Nat)) : ElemRes :=
  let srcs := (ps.flatMap fun p => [p.1 * 2 ^ 16, p.2 * 2 ^ 16]) ++ [d]
  let acc := ps.foldl (fun a p => dotStep a (unpack 7 p.1) (unpack 7 p.2)) {}
  let acc := match unpack 23 d with
    | .inf n => if n then { acc with negInf := true } else { acc with posInf := true }
    | .fin n m e => { acc with terms := (n, m, e) :: acc.terms }
    | .nan _ => acc
  let nv := if acc.bad || (acc.posInf && acc.negInf) then flNV else 0
  match firstNan 23 srcs with
  | some n => (n, sigFlag 23 srcs ||| nv)
  | none =>
    if nv ≠ 0 then (defNan 23, flNV)
    else if acc.posInf then (infBits 23 false, 0)
    else if acc.negInf then (infBits 23 true, 0)
    else
      let (v, e) := dotSum acc.terms
      let zneg := if acc.terms.all fun t => t.2.1 == 0 && t.1 then true else if acc.terms.all fun t => t.2.1 == 0 && !t.1 then false else rm == .rdn
      roundInt 23 rm v e zneg

/-- Groups of VDOT. -/
def dotGroup (t : Ty) : Nat := if tyBits t = 8 then 4 else 2

/-- VDOT (R375). -/
def dotAll (t : Ty) (sat : Bool) (rm : Rm) (a b d : List Nat) : List (Option ElemRes) :=
  let g := dotGroup t
  (List.range 64).map fun i =>
    let ps := (List.range g).map fun k => (a.getD (g * i + k) 0, b.getD (g * i + k) 0)
    let x := d.getD i 0
    some (if t.isInt then intResult .i32 sat (intOf .i32 x + ps.foldl (fun v p => v + intOf t p.1 * intOf t p.2) 0) else dotFp rm x ps)

/-! ### Across elements (R376 to R379) -/

/-- An element as a 64-bit word (R376). -/
def extWord (t : Ty) (x : Nat) : Word :=
  if t.isInt then BitVec.ofInt 64 (intOf t x) else BitVec.ofNat 64 (if t = .t6 then x % 64 else x)

/-- One level of the fixed tree of R377. -/
def treeLevel (f : Nat → Nat → ElemRes) : List Nat → List Nat × Nat
  | a :: b :: l => let r := f a b; let t := treeLevel f l; (r.1 :: t.1, r.2 ||| t.2)
  | l => (l, 0)

/-- The tree: fuel bounds its levels. -/
def treeRed (f : Nat → Nat → ElemRes) : Nat → List Nat → ElemRes
  | 0, l => (l.headD 0, 0)
  | n + 1, l =>
    match l with
    | [x] => (x, 0)
    | l => let t := treeLevel f l; let r := treeRed f n t.1; (r.1, r.2 ||| t.2)

/-- VRED (R377): the word for q4 and the flags. -/
def redAll (op : RedOp) (t : Ty) (rm : Rm) (mask : Mask) (a : List Nat) : Word × Nat :=
  let on (i : Nat) : Bool := active mask t i
  let ix := a.zip (List.range a.length)
  if t.isInt then
    let v (x : Nat) : Int := intOf t x
    match op with
    | .add => (BitVec.ofInt 64 (ix.foldl (fun r p => if on p.2 then r + v p.1 else r) 0), 0)
    | .max => (BitVec.ofInt 64 (ix.foldl (fun r p => if on p.2 then max r (v p.1) else r) (tyMin t)), 0)
    | .min => (BitVec.ofInt 64 (ix.foldl (fun r p => if on p.2 then min r (v p.1) else r) (tyMax t)), 0)
    | .and => (extWord t (ix.foldl (fun r p => if on p.2 then r &&& p.1 else r) (2 ^ tyBits t - 1)), 0)
    | .or => (extWord t (ix.foldl (fun r p => if on p.2 then r ||| p.1 else r) 0), 0)
  else
    let ident := match op with | .max => infBits 23 true | .min => infBits 23 false | _ => zeroBits 23 true
    let f (x y : Nat) : ElemRes := match op with
      | .max => fpMinMax 23 true x y
      | .min => fpMinMax 23 false x y
      | _ => fpAdd 23 rm x y
    let xs := ix.map fun p => if on p.2 then (if t = .bf16 then p.1 * 2 ^ 16 else p.1) else ident
    let r := treeRed f 8 xs
    (BitVec.ofNat 64 r.1, r.2)

/-- VSCAN (R378): running results of the elements in order. -/
def scanAll (op : ScanOp) (t : Ty) (sat : Bool) (rm : Rm) (mask : Mask) (a : List Nat) : VRes :=
  let ident := match op, t.isInt with
    | .add, true => 0
    | .max, true => bitsOf (tyBits t) (tyMin t)
    | .add, false => zeroBits (frOf t) true
    | .max, false => infBits (frOf t) true
  let f (x y : Nat) : ElemRes := arith2 (match op with | .add => .add | .max => .max) t sat rm x y
  let r := (a.zip (List.range a.length)).foldl (fun (q : Nat × List (Option Nat) × Nat) p =>
    if active mask t p.2 then
      let y := f q.1 p.1
      (y.1, some y.1 :: q.2.1, q.2.2 ||| y.2)
    else (q.1, none :: q.2.1, q.2.2)) (ident, [], 0)
  { out := r.2.1.reverse, flags := r.2.2 }

/-- VPERM (R379). -/
def permAll (a b : List Nat) : List (Option ElemRes) := b.map fun x => some (a.getD (x % a.length) 0, 0)

/-- VSHUF (R379). -/
def shufAll (m : ShufMode) (a b : List Nat) : List (Option ElemRes) :=
  let n := a.length
  let x := a ++ b
  (List.range n).map fun i =>
    let pick (j : Nat) : Nat := if i % 2 = 0 then a.getD j 0 else b.getD j 0
    some (match m with
      | .lo => pick (i / 2)
      | .hi => pick (i / 2 + n / 2)
      | .ev => x.getD (2 * i) 0
      | .od => x.getD (2 * i + 1) 0, 0)

/-- VSLIDE (R379). -/
def slideAll (sh : Int) (a b : List Nat) : List (Option ElemRes) :=
  let n := a.length
  (List.range n).map fun (i : Nat) =>
    let k : Int := (i : Int) + sh
    some (if k < 0 then b.getD (k + n).toNat 0 else if k < n then a.getD k.toNat 0 else b.getD (k - n).toNat 0, 0)

/-! ### Block scaling (R381, R382) -/

/-- The image of a block (R259). -/
def blockImage (w16 : Bool) (ms : List Int) (e : Nat) : List Byte :=
  (ms.flatMap fun m => bytesOfNat (if w16 then 2 else 1) (bitsOf (if w16 then 16 else 8) m)) ++ bytesOfNat 8 e

/-- VBS: the image and the flags. -/
def vbsAll (w16 : Bool) (rm : Rm) (a : List Nat) : List Byte × Nat :=
  let (ms, e, f) := bsEncode (if w16 then 16 else 8) rm (a.map (unpack 23))
  (blockImage w16 ms e, f)

/-- The mantissas and the exponent of a block image. -/
def blockParts (w16 : Bool) (bs : List Byte) : List Int × Nat :=
  let k := if w16 then 2 else 1
  (((pieces k 64 bs).take 64).map fun p => sextNat (8 * k) (natOfBytes p), (bs.getD (64 * k) 0).toNat)

/-- VUNBS. -/
def vunbsAll (w16 : Bool) (bs : List Byte) : List (Option ElemRes) :=
  let (ms, e) := blockParts w16 bs
  ms.map fun m => some (bsDecode (if w16 then 16 else 8) e m)

end Sys2Proof.Machine
end

