-- ==== Sys2Proof/Machine/MatrixOps.lean ====
section
/-! DEFINITION. MXU arithmetic (R263, R391), the epilogue's conversion (R402) and the re-blocking of a row-blocked copy (R264, R400). -/

namespace Sys2Proof.Machine

/-- An operand as the MXU reads it (R263): a BF16 subnormal is a zero of its sign, and NaR is a NaN. -/
def mxuVal (t : MmaTy) (bits : Nat) : FV :=
  match t with
  | .t8 => decodeT 8 bits
  | .t6 => decodeT 6 bits
  | .bf16 => match unpack 7 bits with
    | .fin n m e => if m < 128 then .fin n 0 0 else .fin n m e
    | v => v
  | .i8 => let v := intOf .i8 bits; .fin (decide (v < 0)) v.natAbs 0
  | .i4 => let v := intOf .i4 bits; .fin (decide (v < 0)) v.natAbs 0

/-- K-group size (R263). -/
def mxuGroup : MmaTy → Nat
  | .i8 | .t8 => 4
  | .i4 | .t6 => 8
  | .bf16 => 2

/-- The exact sum of a K-group. -/
inductive GSum where
  | nan
  | inf (neg : Bool)
  | fin (v : Int) (e : Int) (zneg : Bool)

/-- Whether a product has a NaN operand. -/
def eitherNan (x y : FV) : Bool :=
  match x, y with
  | .nan _, _ => true
  | _, .nan _ => true
  | _, _ => false

/-- The sum of the products of a K-group (R263). -/
def groupSum (ps : List (FV × FV)) : GSum :=
  let d := ps.foldl (fun a p => if eitherNan p.1 p.2 then { a with bad := true } else dotStep a p.1 p.2) {}
  if d.bad || (d.posInf && d.negInf) then .nan
  else if d.posInf then .inf false
  else if d.negInf then .inf true
  else
    let (v, e) := dotSum d.terms
    .fin v e (d.terms.all fun t => t.1 && t.2.1 == 0)

/-- The accumulator after a group (R263): every NaN is the default NaN, and the rounding is RNE. -/
def accAdd (acc : Nat) (g : GSum) : ElemRes :=
  match g, unpack 23 acc with
  | .nan, z => (defNan 23, flNV ||| (match z with | .nan true => flNV | _ => 0))
  | _, .nan sig => (defNan 23, if sig then flNV else 0)
  | .inf m, .inf n => if m == n then (infBits 23 n, 0) else (defNan 23, flNV)
  | .inf m, .fin .. => (infBits 23 m, 0)
  | .fin .., .inf n => (infBits 23 n, 0)
  | .fin v e zneg, .fin n m e2 =>
    let b := min e e2
    let t := scaled n m e2 b + v * (2 ^ (e - b).toNat : Nat)
    roundInt 23 .rne t b (n && m == 0 && v == 0 && zneg)

/-- One element of an MMA (R390): a row of A and a column of B. -/
def mmaElemAcc (t : MmaTy) (acc : Nat) (a b : List Nat) : ElemRes :=
  match t with
  | .i8 | .i4 =>
    let ty := if t = .i8 then Ty.i8 else Ty.i4
    (bitsOf 32 (intOf .i32 acc + ((a.zip b).map fun p => intOf ty p.1 * intOf ty p.2).sum), 0)
  | _ =>
    (pieces (mxuGroup t) a.length (a.zip b)).foldl (fun (r : ElemRes) g =>
      let x := accAdd r.1 (groupSum (g.map fun p => (mxuVal t p.1, mxuVal t p.2)))
      (x.1, r.2 ||| x.2)) (acc, 0)

/-- A product of integers that is a zero of negative sign: one factor is zero and the other negative (R263). -/
def negZero (p : Int × Int) : Bool := p.1 * p.2 == 0 && decide (p.1 < 0) != decide (p.2 < 0)

/-- One element of a block-scaled MMA (R391): exponents of the row's and the column's blocks. -/
def mmaElemBs (acc : Nat) (a b ea eb : List Nat) : ElemRes :=
  ((pieces 64 a.length (a.zip b)).zip (ea.zip eb)).foldl (fun (r : ElemRes) g =>
    if g.2.1 = 255 || g.2.2 = 255 then (defNan 23, r.2 ||| flNV)
    else
      let ps := g.1.map fun p => (intOf .i8 p.1, intOf .i8 p.2)
      let x := accAdd r.1 (.fin (ps.map fun p => p.1 * p.2).sum ((g.2.1 : Int) + g.2.2 - 266) (ps.all negZero))
      (x.1, r.2 ||| x.2)) (acc, 0)

/-! ### MEPI (R402) -/

/-- An accumulator element as an exact value; its type is I32 or FP32. -/
def accVal (c : Ty) (bits : Nat) : FV := if c = .i32 then valOf .i32 bits else unpack 23 bits

/-- The product of two exact values; none when it is 0 · ∞. -/
def fvMul (x y : FV) : Option FV :=
  match x, y with
  | .fin n1 m1 e1, .fin n2 m2 e2 => some (.fin (n1 != n2) (m1 * m2) (e1 + e2))
  | .inf _, .fin _ 0 _ => none
  | .fin _ 0 _, .inf _ => none
  | .inf n1, .inf n2 => some (.inf (n1 != n2))
  | .inf n1, .fin n2 _ _ => some (.inf (n1 != n2))
  | .fin n1 _ _, .inf n2 => some (.inf (n1 != n2))
  | _, _ => none

/-- An exact value rounded once into a type (R402). -/
def epiRound (t : Ty) (rm : Rm) (y : FV) : ElemRes :=
  match t with
  | .f32 => match y with
    | .fin n m e => roundTo 23 rm n m e
    | .inf n => (infBits 23 n, 0)
    | .nan _ => (defNan 23, flNV)
  | .bf16 => match y with
    | .fin n m e => roundTo 7 rm n m e
    | .inf n => (infBits 7 n, 0)
    | .nan _ => (defNan 7, flNV)
  | .t8 => encodeT 8 y
  | .t6 => encodeT 6 y
  | t =>
    match y with
    | .fin n m e =>
      let (v, inex) := toInteger rm n m e
      let (w, ch) := satInt v (tyMin t) (tyMax t)
      (bitsOf (tyBits t) w, if ch then flSATF else if inex then flNX else 0)
    | .inf n => (bitsOf (tyBits t) (if n then tyMin t else tyMax t), flSATF)
    | .nan _ => (0, flNV + flSATF)

/-- A NaN y written as a type: the first NaN source, quieted (R254), or the default NaN. -/
def epiNan (t : Ty) (bits : Nat) (nv : Nat) : ElemRes :=
  match t with
  | .f32 => (quiet 23 bits, nv)
  | .bf16 => ((f32ToBf .rne (quiet 23 bits)).1, nv)
  | .t8 => (128, nv)
  | .t6 => (32, nv)
  | _ => (0, flNV + flSATF)

/-- One element of MEPI: value(C) · SCALE · (D[j] or 1.0), rounded once (R402). A product 0 · ∞ sets NV beside a NaN too (R255). -/
def epiElem (c t : Ty) (rm : Rm) (acc scale : Nat) (col : Option Nat) : ElemRes :=
  let fst := (if c = .f32 then [acc] else []) ++ [scale]
  let srcs := fst ++ col.toList
  let xy := fvMul (accVal c acc) (unpack 23 scale)
  match firstNan 23 srcs with
  | some n => epiNan t n (sigFlag 23 srcs ||| (if (firstNan 23 fst).isNone && xy.isNone then flNV else 0))
  | none =>
    match xy.bind fun y => (match col with | some d => fvMul y (unpack 23 d) | none => some y) with
    | some y => epiRound t rm y
    | none => epiNan t (defNan 23) flNV

/-- A row of 32 codes packed as memory holds it (R401). -/
def packRow (t : Ty) (xs : List Nat) : List Byte :=
  match t with
  | .i4 => (pieces 2 xs.length xs).map fun p => BitVec.ofNat 8 (p.headD 0 % 16 + p.getD 1 0 % 16 * 16)
  | .t6 => (pieces 4 xs.length xs).flatMap fun g => bytesOfNat 3 ((g.zip (List.range 4)).map fun p => p.1 % 64 * 64 ^ p.2).sum
  | t => xs.flatMap fun x => bytesOfNat (tyBytes t) x

/-- Bytes of a row of 32 elements in memory (R398, R401). -/
def rowBytes (t : Ty) : Nat := if t = .t6 then 24 else if t = .i4 then 16 else 32 * tyBytes t

/-- The codes of a row of 32 elements in memory. -/
def unpackRow (t : Ty) (bs : List Byte) : List Nat :=
  if t = .t6 then (pieces 3 bs.length bs).flatMap fun g => (List.range 4).map fun j => natOfBytes g / 64 ^ j % 64 else elems t bs

/-- Codes as a register-store row or a column of B holds them: containers for T6. -/
def storeRow (t : Ty) (xs : List Nat) : List Byte :=
  match t with
  | .i4 => packRow .i4 xs
  | .t6 => xs.map fun x => BitVec.ofNat 8 (x % 64)
  | t => xs.flatMap fun x => bytesOfNat (tyBytes t) x

/-! ### Re-blocking (R264, R400) -/

/-- An element of a stored block of 8-bit mantissas as it decodes (R260): a NaN block has no value, and the one value beyond FP32 is −∞. -/
def blockVal (e : Nat) (m : Int) : FV :=
  if e = 255 then .nan false else if e = 254 && m = -128 then .inf true else .fin (decide (m < 0)) m.natAbs ((e : Int) - 133)

/-- An element has no finite value. -/
def FV.isInf : FV → Bool
  | .inf _ => true
  | _ => false

/-- An element is a NaN. -/
def FV.isNan : FV → Bool
  | .nan _ => true
  | _ => false

/-- One destination block of a re-blocking, and its flags: those of decoding and of encoding, and NX when the block becomes a NaN block and one of
its elements was none (R260, R264). -/
def reblockOne (vs : List FV) : List Int × Nat × Nat :=
  let b := bsEncode 8 .rne vs
  (b.1, b.2.1, b.2.2 ||| (if vs.any FV.isInf then flOF ||| flNX else 0) ||| (if b.2.1 = 255 && vs.any (fun v => !v.isNan) then flNX else 0))

/-- The columns of a row-blocked copy re-encoded along K: mantissas and exponents of each A row, and the flags. NX is set when any element
changes. rows holds, for each stored row, its 32 mantissas and its exponent. -/
def reblock (rows : List (List Int × Nat)) : List (List Int × List Nat) × Nat :=
  (List.range 32).foldl (fun (acc : List (List Int × List Nat) × Nat) i =>
    let blocks := (pieces 64 rows.length rows).map fun blk => reblockOne (blk.map fun r => blockVal r.2 (r.1.getD i 0))
    (acc.1 ++ [(blocks.flatMap (·.1), blocks.map (·.2.1))], blocks.foldl (fun f b => f ||| b.2.2) acc.2)) ([], 0)

end Sys2Proof.Machine
end

