-- ==== Sys2Proof/Machine/Access.lean ====
section
/-! DEFINITION. Memory accesses: where an operand's bytes lie and the checks it makes (R195, R198, R231), scratchpad banks (R188, R190), the load
reuse buffer (R201), the requests a core sends (R212, R214) and what they do at their homes: plain accesses, full/empty forms (R202), sync
words (R203) and atomics (R224, R340). -/

namespace Sys2Proof.Machine

/-! ### Resolving an operand -/

/-- Selector of a space (R195). -/
def spaceNum : Space → Nat
  | .glb => 0 | .spm => 1 | .cls => 2 | .twr => 3 | .lane => 4 | .ist => 5 | .rmt => 6

/-- Bytes of an agent's own scratchpad: 256 KiB, or a controller's data memory of 64 KiB (R195, R437). -/
def spmSize (key : Nat) : Nat := if isTile key then 0x40000 else 0x10000

/-- The location that a byte address of a space other than glb names for an agent, if it lies in the space's range (R195). An agent
without a quad or a cluster has no lane slices or no cluster and tower memory to name (log entry 14). -/
def directByte (key : Nat) (sp : Space) (a : Nat) : Option Nat :=
  match sp with
  | .glb => none
  | .spm => if a < spmSize key then some (locSpm key a) else none
  | .cls => if a < 0x400000 && clusterOf key < 80 then some (locCls (clusterOf key) a) else none
  | .twr => if a < 0x4000000 && clusterOf key < 80 then some (locTwr (towerOfCluster (clusterOf key)) a) else none
  | .lane => if a < 0x40000 && isTile key then some (locLane (quadOf key) a) else none
  | .ist => if a < 2 ^ 31 && isTile (a / 2 ^ 18) && a / 2 ^ 15 % 8 = 0 then some (locIst (a / 2 ^ 18) (a % 2 ^ 15)) else none
  | .rmt => if a < 2 ^ 31 && isTile (a / 2 ^ 18) then some (locSpm (a / 2 ^ 18) (a % 2 ^ 18)) else none

/-- n consecutive byte addresses, modulo 2^64 (R278). -/
def addrRange (a n : Nat) : List Nat := (List.range n).map fun i => (a + i) % 2 ^ 64

/-- A resolved access: the location of each byte; whether it is to the context's own spm or lane (R211); its lines on memory-side pages. -/
structure Acc where
  locs : List Nat
  own : Bool
  ms : List Nat

/-- Whether an agent is firmware (R88). -/
def isFw (key : Nat) : Bool := !isTile key

/-- Resolve byte addresses whose first is addr, checking in the order of R231: BOUND, ALIGN, XLATE, PROT. -/
def resolve (s : State) (key : Nat) (asid : BitVec 16) (sp : Space) (u : PageUse) (addr align : Nat) (as : List Nat) : Except FaultInfo Acc :=
  let covered (ls : List Nat) : Bool := u.write && ls.any s.inCoverage
  match sp with
  | .glb =>
    if addr % align ≠ 0 then .error (fAlign addr 0)
    else
      match xlate s (isFw key) (clusterOf key) asid u as with
      | .error f => .error f
      | .ok (ls, ms) => if covered ls then .error (fProt 3 addr 0) else .ok { locs := ls, own := false, ms }
  | _ =>
    match as.mapM (directByte key sp) with
    | none => .error (fBound addr (spaceNum sp))
    | some ls =>
      if addr % align ≠ 0 then .error (fAlign addr (spaceNum sp))
      else if sp == .ist && u.read then .error (fProt 1 addr 5)
      else if covered ls then .error (fProt 3 addr (spaceNum sp))
      else .ok { locs := ls, own := sp == .spm || sp == .lane, ms := [] }

/-- Resolve several bytes, each address its own: a fault names the first byte that meets it (R233, R353). fw: the agent is firmware. -/
def resolveBytes (s : State) (fw : Bool) (key : Nat) (asid : BitVec 16) (sp : Space) (u : PageUse) (as : List Nat) :
    Except FaultInfo (List Nat × List Nat) :=
  let covered (ls : List Nat) : Option Nat := if u.write then ((as.zip ls).find? fun p => s.inCoverage p.2).map (·.1) else none
  let done (ls ms : List Nat) : Except FaultInfo (List Nat × List Nat) :=
    match covered ls with
    | some a => .error (fProt 3 a (spaceNum sp))
    | none => .ok (ls, ms)
  match sp with
  | .glb =>
    match xlate s fw (clusterOf key) asid u as with
    | .error f => .error f
    | .ok (ls, ms) => done ls ms
  | _ =>
    match as.find? fun a => (directByte key sp a).isNone with
    | some a => .error (fBound a (spaceNum sp))
    | none => done (as.filterMap (directByte key sp)) []

/-- A check that raises its fault. -/
def checked {α : Type} (r : Except FaultInfo α) : Exec α :=
  match r with
  | .ok a => .ok a
  | .error f => raise f

/-- What the translation of an access leaves behind: its pages in the TLB (R204). -/
def translated (s : State) (sp : Space) (vas : List Nat) : State :=
  if sp == .glb then tlbFills s (isFw s.focus) s.myCluster s.cur.asid vas else s

/-- A check of an access to a space that raises its fault; a walk through the locked range has raised its alarm all the same (R88). -/
def checkedIn {α : Type} (s : State) (sp : Space) (vas : List Nat) (r : Except FaultInfo α) : Exec α :=
  match r with
  | .ok a => .ok a
  | .error f => .error (.raise f fun t => if sp == .glb then lockAlarm t (isFw s.focus) s.myCluster s.cur.asid vas else t)

/-- Resolve an operand of the executing context; its pages stay in the TLB. -/
def access (s : State) (sp : Space) (u : PageUse) (addr align n : Nat) : Exec (Acc × State) := do
  let as := addrRange addr n
  let acc ← checkedIn s sp as (resolve s s.focus s.cur.asid sp u addr align as)
  return (acc, translated s sp as)

/-- Plain reads and writes. -/
def rdUse : PageUse := { write := false, read := true }
/-- A write. -/
def wrUse : PageUse := { write := true, read := false }
/-- A read and a write. -/
def rwUse : PageUse := { write := true, read := true }

/-- The place of a memory fault in the order of R231. -/
def faultRank (f : FaultInfo) : Nat :=
  match f.code with
  | 8 => 0 | 5 => 1 | 6 => 2 | _ => 3

/-- Of several operands' faults, the first in the order of R231. -/
def firstFault (fs : List (Option FaultInfo)) : Option FaultInfo :=
  fs.foldl (fun best f =>
    match best, f with
    | none, f => f
    | some b, some g => if faultRank g < faultRank b then some g else some b
    | b, none => b) none

/-- The fault of a check, if it has one. -/
def errOf {α : Type} : Except FaultInfo α → Option FaultInfo
  | .ok _ => none
  | .error f => some f

/-- Raise a fault that is there. -/
def raiseOpt (f : Option FaultInfo) : Exec Unit :=
  match f with
  | some f => raise f
  | none => .ok ()

/-! ### Banks (R188, R190) -/

/-- Banks of a core's store must be FULL: an access wakes them and waits. -/
def needBanks (s : State) (b : BankOf) (ks : List Nat) : Exec State :=
  let t := touchBanks s s.focus b ks
  if banksFull (t.core s.focus) b ks then .ok t else .error (.wait fun s => touchBanks s s.focus b ks)

/-- Scratchpad banks that accesses to these locations need, as (core, bank): every bank for a write, those of live words for a read (R191). -/
def spmNeeds (s : State) (write : Bool) (locs : List Nat) : List (Nat × Nat) :=
  locs.filterMap fun l =>
    match spmOfLoc l with
    | some (k, _) => if isTile k && (write || s.spmLive.contains (s.phys l / 8)) then some (k, s.spmBank l) else none
    | none => none

/-- The banks that an own access needs. -/
def ownBanks (s : State) (write : Bool) (locs : List Nat) : Exec State := needBanks s .spm ((spmNeeds s write locs).map (·.2)).dedup

/-- The banks that an own access needs which writes some locations and reads others. -/
def ownBanksRw (s : State) (ws rs : List Nat) : Exec State :=
  needBanks s .spm ((List.append (spmNeeds s true ws) (spmNeeds s false rs)).map (·.2)).dedup

/-- At a home: the scratchpad banks needed by an access that writes some locations and reads others, touched, and whether all are FULL. -/
def homeBanksRw (s : State) (ws rs : List Nat) : State × Bool :=
  let ns := (List.append (spmNeeds s true ws) (spmNeeds s false rs)).dedup
  let t := ns.foldl (fun s n => touchBanks s n.1 .spm [n.2]) s
  (t, ns.all fun n => banksFull (t.core n.1) .spm [n.2])

/-- The same of an access that only writes, or only reads. -/
def homeBanks (s : State) (write : Bool) (locs : List Nat) : State × Bool := if write then homeBanksRw s locs [] else homeBanksRw s [] locs

/-- What a sync-word addition at a location writes and reads: COUNT with GEN, and FLAGS if it sets POIS; TARGET (R203). -/
def syncNeeds (loc : Nat) (pois : Bool) : List Nat × List Nat := (loc :: if pois then [loc + 8] else [], [loc + 8])

/-- What a request for a word writes and reads at its home. SWARM writes TARGET and reads the first word (R342). -/
def needsOf : ReqKind → List Nat × List Nat
  | .syncAdd l _ => syncNeeds l false
  | .swarm l _ => ([l + 8], [l])
  | .amo _ _ l _ | .cas _ l _ _ | .amof l _ | .fe _ l _ | .join l => ([l], [])
  | .arm l _ => ([], [l])
  | _ => ([], [])

/-! ### Reading and writing bytes -/

/-- The bytes at locations and whether one is poisoned (R94). A read of the locked range by an agent that is not firmware gives poison and
raises the alarm (R88). -/
def readHome (s : State) (fw : Bool) (locs : List Nat) : List Byte × Bool × State :=
  let bad := !fw && locs.any s.lockedLoc
  (locs.map fun l => if !fw && s.lockedLoc l then 0 else s.byteAt l, bad || locs.any s.poisonAt, if bad then raiseAlarm s 2 false else s)

/-- Kill the scratchpad words that hold these bytes (R190, R191). -/
def killWords (s : State) (locs : List Nat) : State := locs.foldl killSpmWord s

/-- Set `STATUS.POIS` of a context when b (R94). -/
def poisIf (s : State) (key : Nat) (n b : Bool) : State := if b then s.modCtx key n fun c => c.orFlags flPOIS else s

/-! ### The load reuse buffer (R201) -/

/-- Whether a load of this location may use the buffer: DRAM, tower scratchpad or cluster window of this module, not memory-side. -/
def reusable (loc : Nat) : Bool := isDram loc || isTwrLoc loc || (clsOfLoc loc).isSome

/-- The line of a location. -/
def lineOf (loc : Nat) : Nat := loc / 64

/-- A held line. -/
def Core.heldLine (c : Core) (loc : Nat) : Option LrbLine := c.lrb.find? fun l => lineOf l.loc = lineOf loc

/-- Allocate a line, the least recently used of 128 leaving. -/
def lrbAlloc (c : Core) (l : LrbLine) : Core := { c with lrb := (l :: c.lrb.filter fun x => lineOf x.loc ≠ lineOf l.loc).take 128 }

/-- A hit makes its line the most recently used. -/
def lrbTouch (c : Core) (loc : Nat) : Core :=
  match c.heldLine loc with
  | some l => lrbAlloc c l
  | none => c

/-- A store of the core to a held line updates it; a word that it writes whole is poisoned no longer (R94). -/
def lrbStore (c : Core) (ps : List (Nat × Byte)) : Core :=
  { c with lrb := c.lrb.map fun l =>
      let whole (w : Nat) : Bool := (List.range 8).all fun i => ps.any fun p => p.1 = l.loc + 8 * w + i
      { l with bytes := ps.foldl (fun bs p => if lineOf p.1 = lineOf l.loc then lset bs (p.1 % 64) p.2 else bs) l.bytes
               pois := (List.range 8).foldl (fun b w => if whole w then b &&& ~~~BitVec.ofNat 8 (2 ^ w) else b) l.pois } }

/-- A word of a held line that holds this location is poisoned (R94). -/
def LrbLine.poisAt (l : LrbLine) (loc : Nat) : Bool := l.pois.getLsbD (loc % 64 / 8)

/-- Drop lines of a core's reuse buffer: a load under way that would allocate such a line brings no byte of it from before (R221, R223). -/
def lrbDrop (s : State) (key : Nat) (hits : Nat → Bool → Bool) : State :=
  let s : State := { s with fabric := s.fabric.map fun r =>
    if r.key == key && r.alloc && hits (r.loc / 64 * 64) r.glb then { r with fresh := true } else r }
  s.modCore key fun c => { c with lrb := c.lrb.filter fun l => !hits l.loc l.glb }

/-- Drop every line (R223). -/
def lrbClear (s : State) (key : Nat) : State := lrbDrop s key fun _ _ => true

/-- ACQ of an object by a context (R221, R223). -/
def acquire (s : State) (key : Nat) (n : Bool) (osp : Osp) (obj : Word) : State :=
  let es := (s.ctx key n).binds.filter fun e => e.osp == osp && e.obj == obj
  let hits (loc : Nat) (glb : Bool) (e : Binding) : Bool :=
    let base := e.base.toNat
    let last := base + e.sizeM1.toNat
    let within (a : Nat) : Bool := base < a + 64 && a ≤ last
    match e.rsp with
    | .glb => glb
    | .cls => match clsOfLoc loc with | some (i, a) => i = clusterOf key && within (a / 64 * 64) | none => false
    | .twr => isTwrLoc loc && (loc - 0x010000000000) / 0x04000000 = towerOfCluster (clusterOf key)
        && within ((loc - 0x010000000000) % 0x04000000 / 64 * 64)
    | _ => false
  lrbDrop s key fun loc glb => es.any (hits loc glb)

/-! ### Requests (R210 to R214) -/

/-- The waits of every scalar memory access: earlier replies (R210) and vector or matrix work (R213). -/
def memReady (s : State) : Exec Unit := waitFor (!s.replyDue && !s.vecMemPending s.focus s.act)

/-- A context has an unacknowledged access to one of these lines (R212). -/
def State.linesBusy (s : State) (key : Nat) (n : Bool) (lines : List Nat) : Bool :=
  s.fabric.any fun r => r.key == key && r.ctx == n && lines.contains (lineOf r.loc)

/-- The ordered route that a location's writes take (R105): that of the core whose instruction store it is. -/
def routeOf (loc : Nat) : Option Nat := if 2 ^ 57 ≤ loc && loc < 2 ^ 58 then some ((loc - 2 ^ 57) / 2 ^ 15) else none

/-- The place of a request that accesses no memory at a line: a record or a start. -/
def noLoc : Nat := 2 ^ 100

/-- Put a request onto the fabric with the next id, counted in its class (R214). -/
def sendReq (s : State) (r : Req) : State :=
  let r := { r with id := s.nextId, route := r.route <|> routeOf r.loc }
  let s := { s with nextId := s.nextId + 1, fabric := s.fabric ++ [r] }
  match r.cls with
  | some k => s.modCtx r.key r.ctx fun c => c.addCount k 1
  | none => s

/-- A request of a context. -/
def reqOf (key : Nat) (n : Bool) (kind : ReqKind) (loc : Nat) (cls : Option Cls) : Req := { id := 0, key, ctx := n, kind, loc, cls }

/-- A request of the executing context. -/
def mkReq (s : State) (kind : ReqKind) (loc : Nat) (cls : Option Cls) : Req := reqOf s.focus s.act kind loc cls

/-- Room in the counts of a context for one request at each location (R214). -/
def roomOf (s : State) (key : Nat) (n : Bool) (locs : List Nat) : Bool :=
  let cs := locs.map (classOf key)
  [Cls.clu, .mod, .sys].all fun k => (s.ctx key n).count k + cs.count k ≤ 512

/-- The same for the executing context. -/
def roomFor (s : State) (locs : List Nat) : Bool := roomOf s s.focus s.act locs

/-- Lines of locations, each once, in order of first appearance. -/
def linesOf (locs : List Nat) : List Nat := (locs.map lineOf).reverse.dedup.reverse

/-- The waits of a request that writes these lines (R212, R214). -/
def sendReady (s : State) (locs : List Nat) : Exec Unit := do
  waitFor (!s.linesBusy s.focus s.act (linesOf locs))
  waitFor (roomFor s ((linesOf locs).map (· * 64)))

/-- Posted writes of (location, byte) pairs by a context, one request for each line (R214); the ids of the requests. -/
def postFor (s : State) (key : Nat) (n : Bool) (ms : List Nat) (dst : ReqDst) (ps : List (Nat × Byte)) : List Nat × State :=
  (linesOf (ps.map (·.1))).foldl (fun (a : List Nat × State) ln =>
    let bs := ps.filter fun p => lineOf p.1 = ln
    let loc := (bs.headD (0, 0)).1
    (a.1 ++ [a.2.nextId], sendReq a.2 { reqOf key n (.write bs) loc (some (classOf key loc)) with ms := ms.contains ln, dst })) ([], s)

/-- The same for the executing context. -/
def postWrites (s : State) (ms : List Nat) (ps : List (Nat × Byte)) : List Nat × State := postFor s s.focus s.act ms .none ps

/-- Consecutive elements that lie in one line, kept together in order. -/
def splitRuns {α : Type} (xs : List (Nat × α)) : List (List (Nat × α)) :=
  xs.foldr (fun x rs =>
    match rs with
    | (y :: r) :: rest => if lineOf x.1 = lineOf y.1 then (x :: y :: r) :: rest else [x] :: (y :: r) :: rest
    | rs => [x] :: rs) []

/-- Consecutive elements that lie in one aligned 8-byte piece, kept together in order (R209). -/
def splitPieces {α : Type} (xs : List (Nat × α)) : List (List (Nat × α)) :=
  xs.foldr (fun x rs =>
    match rs with
    | (y :: r) :: rest => if x.1 / 8 = y.1 / 8 then (x :: y :: r) :: rest else [x] :: (y :: r) :: rest
    | rs => [x] :: rs) []

/-- The elements that a number's bits name, and the others. -/
def pickBits {α : Type} : Nat → List α → List α × List α
  | _, [] => ([], [])
  | n, x :: xs => let r := pickBits (n / 2) xs; if n % 2 = 1 then (x :: r.1, r.2) else (r.1, x :: r.2)

/-- The pieces of an access that move now, and the rest: a free value names them, all where it names none (R209; log entry 20). -/
def pick {α : Type} (tick : Nat) (ps : List α) : List α × List α :=
  let r := pickBits (Config.piece tick) ps
  if ps.length ≤ 1 || r.1.isEmpty then (ps, []) else r

/-- A write of several bytes, one 8-byte piece after the other (R209, R362). -/
def writePieces (s : State) (fw : Bool) (ps : List (Nat × Byte)) : State :=
  (splitPieces ps).foldl (fun s piece => performWrite s fw piece) s

/-- A store of the executing context: at issue to its own spm or lane (R211), else posted (R214). -/
def storeBytes (s : State) (acc : Acc) (bs : List Byte) : Exec State :=
  let ps := acc.locs.zip bs
  if acc.own then do
    let s ← ownBanks s true acc.locs
    return performWrite s (isFw s.focus) ps
  else do
    sendReady s acc.locs
    return (postWrites (s.modMe fun c => lrbStore c ps) acc.ms ps).2

/-! ### Full/empty forms (R202) -/

/-- Waiting forms at a physical word, with their places in the arrival order. -/
def feWaiters (s : State) (w : Nat) : List (Nat × FeForm) :=
  (s.fabric.filterMap fun r =>
    match r.kind, r.arr with
    | .fe f l _, some n => if s.phys l / 8 = w && !r.performed then some (n, f) else none
    | _, _ => none) ++
  (match spmOfLoc (w * 8) with
    | some (k, _) => [(s.core k).c0, (s.core k).c1].filterMap fun c =>
        match c.feArr with
        | some (n, f, some l) => if s.phys l / 8 = w then some (n, f) else none
        | _ => none
    | none => [])

/-- Whether a form that arrived at place n may take its step: FULL serves every waiting LDW, then the first LDE; EMPTY the first STW. -/
def feReady (s : State) (w n : Nat) (f : FeForm) : Bool :=
  let ws := feWaiters s w
  let full := s.full.contains w
  let first := ws.all fun x => x.2 != f || n ≤ x.1
  match f with
  | .ldw => full
  | .lde => full && first && ws.all fun x => x.2 != .ldw
  | .stw => !full && first
  | _ => true

/-- The step of a form at its word: the state, the word read and whether it was poisoned (R94, R202, R330). -/
def feStep (s : State) (f : FeForm) (loc : Nat) (data : Word) (lu : Bool) : State × Word × Bool :=
  let w := s.phys loc / 8
  let v := BitVec.ofNat 64 (s.readLE loc 8)
  let p := s.poisonAt loc
  let kill (s : State) : State := if lu then killSpmWord s loc else s
  let put (s : State) : State := { performWrite s true (pairsAt loc (bytesOfNat 8 data.toNat)) with full := nsAdd s.full w }
  match f with
  | .ldw => (kill s, v, p)
  | .lde => (kill { s with full := nsDel s.full w }, v, p)
  | .stw | .stf => (put s, 0, false)
  | .setE => ({ s with full := nsDel s.full w }, 0, false)
  | .setF => ({ s.liven w with full := nsAdd s.full w }, 0, false)

/-! ### Atomics (R340, R341) -/

/-- The new value of an AMO on w bits. -/
def amoNew (op : AmoOp) (w : Nat) (old x : Nat) : Nat :=
  let x := x % 2 ^ w
  let lt := decide (sextNat w x < sextNat w old)
  match op with
  | .add => (old + x) % 2 ^ w
  | .and => old &&& x
  | .or => old ||| x
  | .xor => old ^^^ x
  | .min => if lt then x else old
  | .max => if lt then old else x
  | .minz => if x < old then x else old
  | .maxz => if x < old then old else x
  | .swap => x

/-- What an atomic step returns: the old value, poison, flags. A poisoned word returns zero and is not written (R94). -/
structure AtomRes where
  st : State
  val : Word
  pois : Bool := false
  flags : Nat := 0

/-- The step of an AMO at its word: fw is whether the agent is firmware, for the locked range (R88). -/
def amoStep (s : State) (fw : Bool) (op : AmoOp) (w64 : Bool) (loc : Nat) (x : Word) : AtomRes :=
  let n := if w64 then 8 else 4
  let old := s.readLE loc n
  if s.poisonAt loc || (s.lockedLoc loc && !fw) then { st := (readHome s fw [loc]).2.2, val := 0, pois := true }
  else
    { st := performWrite s fw (pairsAt loc (bytesOfNat n (amoNew op (8 * n) old x.toNat)))
      val := if !w64 && (op == .min || op == .max) then BitVec.ofInt 64 (sextNat 32 old) else BitVec.ofNat 64 old }

/-- The step of AMO.cas. -/
def casStep (s : State) (fw w64 : Bool) (loc : Nat) (x n : Word) : AtomRes :=
  let k := if w64 then 8 else 4
  let old := s.readLE loc k
  if s.poisonAt loc || (s.lockedLoc loc && !fw) then { st := (readHome s fw [loc]).2.2, val := 0, pois := true }
  else
    { st := if old = x.toNat % 2 ^ (8 * k) then performWrite s fw (pairsAt loc (bytesOfNat k n.toNat)) else s
      val := BitVec.ofNat 64 old }

/-- The step of SWARM (R342): TARGET written, the step of R203, and the GEN that results, with its poison (R94). -/
def swarmStep (s : State) (loc : Nat) (t : BitVec 48) : State × Word × Bool :=
  let s := if t = 0 then s else setMark s loc
  let s := performWrite s true (pairsAt (loc + 8) (bytesOfNat 6 t.toNat))
  let s := if t = 0 then { s with marks := nsDel s.marks (markIx loc) } else s
  (s, BitVec.ofNat 64 (s.syncGen loc), s.poisonAt loc)

/-- Arm a monitor at a sync word and take the first read (R343), with its poison (R94). -/
def armStep (s : State) (key : Nat) (n : Bool) (loc : Nat) : State :=
  let s := if loc < foreignBase then setMark s loc else s
  let s := { s with monitors := (loc, key, n) :: s.monitors.filter fun m => !(m.2.1 = key && m.2.2 == n) }
  s.modCtx key n fun c => c.note (BitVec.ofNat 64 (s.readLE loc 8)) (s.poisonAt loc)

/-- A location that may hold a sync word (R203): scratchpad, cluster window or tower scratchpad, of this module or another. -/
def syncPlace (loc : Nat) : Bool :=
  let l := if foreignBase ≤ loc then loc % 2 ^ 54 else loc
  (spmOfLoc l).isSome || (clsOfLoc l).isSome || isTwrLoc l

end Sys2Proof.Machine
end

