-- ==== Sys2Proof/Machine/Integer.lean ====
section
/-! DEFINITION. Integer instructions (R312 to R320): functions of 64-bit words, and the three shapes in which they read and write. None sets a flag. -/

namespace Sys2Proof.Machine

/-! ### The three shapes -/

/-- D := f A B. -/
def alu2 (c : Com) (d : Dst) (a b : Use Src) (f : Word → Word → Word) (s : State) : Host.Outcome State Fault Refusal :=
  issueFall .any c s fun s => do
    let (x, y, s) ← read2 s a.r b.r
    writeDst s d (f x y)

/-- D := f A. -/
def alu1 (c : Com) (d : Dst) (a : Use Src) (f : Word → Word) (s : State) : Host.Outcome State Fault Refusal :=
  issueFall .any c s fun s => do
    let (x, s) ← readSrc s a.r
    writeDst s d (f x)

/-- D := v. -/
def alu0 (c : Com) (d : Dst) (v : Word) (s : State) : Host.Outcome State Fault Refusal :=
  issueFall .any c s fun s => writeDst s d v

/-! ### Values -/

/-- The shift amount B[5:0] (R312). -/
def sh6 (b : Word) : Nat := b.toNat % 64
/-- The 24-bit immediate, sign-extended (R313). -/
def sx24 (imm : BitVec 24) : Word := imm.signExtend 64

/-- The lesser, signed. -/
def minS (a b : Word) : Word := if a.toInt < b.toInt then a else b
/-- The greater, signed. -/
def maxS (a b : Word) : Word := if a.toInt < b.toInt then b else a
/-- The lesser, unsigned. -/
def minU (a b : Word) : Word := if a.toNat < b.toNat then a else b
/-- The greater, unsigned. -/
def maxU (a b : Word) : Word := if a.toNat < b.toNat then b else a

/-- Bits [127:64] of the signed product (R314). -/
def mulHigh (a b : Word) : Word := BitVec.ofInt 64 (a.toInt * b.toInt / 2 ^ 64)
/-- Bits [127:64] of the unsigned product (R314). -/
def mulHighZ (a b : Word) : Word := BitVec.ofNat 64 (a.toNat * b.toNat / 2 ^ 64)
/-- Signed quotient: truncated, −1 for a zero divisor; −2^63 by −1 wraps to −2^63 (R252). -/
def divS (a b : Word) : Word := if b = 0 then BitVec.allOnes 64 else BitVec.ofInt 64 (a.toInt.tdiv b.toInt)
/-- Unsigned quotient; all ones for a zero divisor (R252). -/
def divU (a b : Word) : Word := if b = 0 then BitVec.allOnes 64 else BitVec.ofNat 64 (a.toNat / b.toNat)
/-- Signed remainder, of the dividend's sign; A for a zero divisor (R252). -/
def remS (a b : Word) : Word := if b = 0 then a else BitVec.ofInt 64 (a.toInt.tmod b.toInt)
/-- Unsigned remainder; A for a zero divisor (R252). -/
def remU (a b : Word) : Word := if b = 0 then a else BitVec.ofNat 64 (a.toNat % b.toNat)

/-- Leading zero bits of the low n bits (R315). -/
def clzN : Nat → Nat → Nat
  | 0, _ => 0
  | n + 1, v => if v.testBit n then 0 else clzN n v + 1
/-- Trailing zero bits, at most n (R315). -/
def ctzN : Nat → Nat → Nat
  | 0, _ => 0
  | n + 1, v => if v % 2 = 1 then 0 else ctzN n (v / 2) + 1
/-- One bits among the low n (R12, R315). -/
def popN : Nat → Nat → Nat
  | 0, _ => 0
  | n + 1, v => v % 2 + popN n (v / 2)

/-- sext(A, n) (R12). -/
def sextW (a : Word) (n : Nat) : Word := BitVec.ofInt 64 (sextNat n a.toNat)
/-- zext(A, n) (R12). -/
def zextW (a : Word) (n : Nat) : Word := BitVec.ofNat 64 (a.toNat % 2 ^ n)
/-- A field of len bits at pos, replaced (R320). -/
def insertBits (d a : Word) (pos len : Nat) : Word :=
  BitVec.ofNat 64 (d.toNat % 2 ^ pos + a.toNat % 2 ^ len * 2 ^ pos + d.toNat / 2 ^ (pos + len) * 2 ^ (pos + len))

/-! ### Register ALU group (R312) -/

/-- ADD (R312). -/
def execAdd (c : Com) (d : Dst) (a b : Use Src) (s : State) : Host.Outcome State Fault Refusal := alu2 c d a b (fun x y => x + y) s
/-- SUB (R312). -/
def execSub (c : Com) (d : Dst) (a b : Use Src) (s : State) : Host.Outcome State Fault Refusal := alu2 c d a b (fun x y => x - y) s
/-- AND (R312). -/
def execAnd (c : Com) (d : Dst) (a b : Use Src) (s : State) : Host.Outcome State Fault Refusal := alu2 c d a b (fun x y => x &&& y) s
/-- OR (R312). -/
def execOr (c : Com) (d : Dst) (a b : Use Src) (s : State) : Host.Outcome State Fault Refusal := alu2 c d a b (fun x y => x ||| y) s
/-- XOR (R312). -/
def execXor (c : Com) (d : Dst) (a b : Use Src) (s : State) : Host.Outcome State Fault Refusal := alu2 c d a b (fun x y => x ^^^ y) s
/-- ANDN (R312). -/
def execAndn (c : Com) (d : Dst) (a b : Use Src) (s : State) : Host.Outcome State Fault Refusal := alu2 c d a b (fun x y => x &&& ~~~y) s
/-- SHL (R312). -/
def execShl (c : Com) (d : Dst) (a b : Use Src) (s : State) : Host.Outcome State Fault Refusal := alu2 c d a b (fun x y => x <<< sh6 y) s
/-- SHR (R312). -/
def execShr (c : Com) (d : Dst) (a b : Use Src) (s : State) : Host.Outcome State Fault Refusal := alu2 c d a b (fun x y => x >>> sh6 y) s
/-- SRA (R312). -/
def execSra (c : Com) (d : Dst) (a b : Use Src) (s : State) : Host.Outcome State Fault Refusal := alu2 c d a b (fun x y => x.sshiftRight (sh6 y)) s
/-- ROTL (R312). -/
def execRotl (c : Com) (d : Dst) (a b : Use Src) (s : State) : Host.Outcome State Fault Refusal := alu2 c d a b (fun x y => x.rotateLeft (sh6 y)) s
/-- MIN (R312). -/
def execMin (c : Com) (d : Dst) (a b : Use Src) (s : State) : Host.Outcome State Fault Refusal := alu2 c d a b minS s
/-- MAX (R312). -/
def execMax (c : Com) (d : Dst) (a b : Use Src) (s : State) : Host.Outcome State Fault Refusal := alu2 c d a b maxS s
/-- MINZ (R312). -/
def execMinz (c : Com) (d : Dst) (a b : Use Src) (s : State) : Host.Outcome State Fault Refusal := alu2 c d a b minU s
/-- MAXZ (R312). -/
def execMaxz (c : Com) (d : Dst) (a b : Use Src) (s : State) : Host.Outcome State Fault Refusal := alu2 c d a b maxU s

/-! ### Immediate ALU group (R313) -/

/-- ADDI (R313). -/
def execAddi (c : Com) (d : Dst) (a : Use Src) (imm : BitVec 24) (s : State) : Host.Outcome State Fault Refusal := alu1 c d a (fun x => x + sx24 imm) s
/-- ANDI (R313). -/
def execAndi (c : Com) (d : Dst) (a : Use Src) (imm : BitVec 24) (s : State) : Host.Outcome State Fault Refusal := alu1 c d a (fun x => x &&& sx24 imm) s
/-- ORI (R313). -/
def execOri (c : Com) (d : Dst) (a : Use Src) (imm : BitVec 24) (s : State) : Host.Outcome State Fault Refusal := alu1 c d a (fun x => x ||| sx24 imm) s
/-- XORI (R313). -/
def execXori (c : Com) (d : Dst) (a : Use Src) (imm : BitVec 24) (s : State) : Host.Outcome State Fault Refusal := alu1 c d a (fun x => x ^^^ sx24 imm) s
/-- SHLI (R313). -/
def execShli (c : Com) (d : Dst) (a : Use Src) (n : Fin 64) (s : State) : Host.Outcome State Fault Refusal := alu1 c d a (fun x => x <<< n.val) s
/-- SHRI (R313). -/
def execShri (c : Com) (d : Dst) (a : Use Src) (n : Fin 64) (s : State) : Host.Outcome State Fault Refusal := alu1 c d a (fun x => x >>> n.val) s
/-- SRAI (R313). -/
def execSrai (c : Com) (d : Dst) (a : Use Src) (n : Fin 64) (s : State) : Host.Outcome State Fault Refusal := alu1 c d a (fun x => x.sshiftRight n.val) s

/-! ### Multiply and divide (R314) -/

/-- MUL (R314). -/
def execMul (c : Com) (d : Dst) (a b : Use Src) (s : State) : Host.Outcome State Fault Refusal := alu2 c d a b (fun x y => x * y) s
/-- MULH (R314). -/
def execMulh (c : Com) (d : Dst) (a b : Use Src) (s : State) : Host.Outcome State Fault Refusal := alu2 c d a b mulHigh s
/-- MULHZ (R314). -/
def execMulhz (c : Com) (d : Dst) (a b : Use Src) (s : State) : Host.Outcome State Fault Refusal := alu2 c d a b mulHighZ s
/-- DIV (R314, R252). -/
def execDiv (c : Com) (d : Dst) (a b : Use Src) (s : State) : Host.Outcome State Fault Refusal := alu2 c d a b divS s
/-- DIVZ (R314, R252). -/
def execDivz (c : Com) (d : Dst) (a b : Use Src) (s : State) : Host.Outcome State Fault Refusal := alu2 c d a b divU s
/-- REM (R314, R252). -/
def execRem (c : Com) (d : Dst) (a b : Use Src) (s : State) : Host.Outcome State Fault Refusal := alu2 c d a b remS s
/-- REMZ (R314, R252). -/
def execRemz (c : Com) (d : Dst) (a b : Use Src) (s : State) : Host.Outcome State Fault Refusal := alu2 c d a b remU s

/-! ### Unary group (R315) -/

/-- CLZ (R315). -/
def execClz (c : Com) (d : Dst) (a : Use Src) (s : State) : Host.Outcome State Fault Refusal := alu1 c d a (fun x => BitVec.ofNat 64 (clzN 64 x.toNat)) s
/-- CTZ (R315). -/
def execCtz (c : Com) (d : Dst) (a : Use Src) (s : State) : Host.Outcome State Fault Refusal := alu1 c d a (fun x => BitVec.ofNat 64 (ctzN 64 x.toNat)) s
/-- POPC (R315). -/
def execPopc (c : Com) (d : Dst) (a : Use Src) (s : State) : Host.Outcome State Fault Refusal := alu1 c d a (fun x => BitVec.ofNat 64 (popN 64 x.toNat)) s
/-- SEXT (R315). -/
def execSext (c : Com) (d : Dst) (a : Use Src) (n : Fin 65) (s : State) : Host.Outcome State Fault Refusal := alu1 c d a (fun x => sextW x n.val) s
/-- ZEXT (R315). -/
def execZext (c : Com) (d : Dst) (a : Use Src) (n : Fin 65) (s : State) : Host.Outcome State Fault Refusal := alu1 c d a (fun x => zextW x n.val) s

/-! ### SEL, SETC, LI, LEA, BFX, BFI -/

/-- SEL (R316): C is read first, then A, then B; every queue named pops. -/
def execSel (c : Com) (d : Dst) (a b x : Use Src) (s : State) : Host.Outcome State Fault Refusal :=
  issueFall .any c s fun s => do
    let (z, s) ← readSrc s x.r
    let (u, v, s) ← read2 s a.r b.r
    writeDst s d (if z != 0 then u else v)

/-- SETC (R317). -/
def execSetc (c : Com) (cond : Cond) (d : Dst) (a b : Use Src) (s : State) : Host.Outcome State Fault Refusal :=
  alu2 c d a b (fun x y => if condHolds cond x y then 1 else 0) s

/-- LI of 64 bits (R318). -/
def execLi24 (c : Com) (d : Dst) (imm : BitVec 24) (s : State) : Host.Outcome State Fault Refusal := alu0 c d (sx24 imm) s
/-- LI of 96 bits (R318). -/
def execLi32 (c : Com) (d : Dst) (sh32 : Bool) (imm : BitVec 32) (s : State) : Host.Outcome State Fault Refusal :=
  alu0 c d (if sh32 then imm.signExtend 64 <<< 32 else imm.signExtend 64) s
/-- LI of 128 bits (R318). -/
def execLi64 (c : Com) (d : Dst) (imm : BitVec 64) (s : State) : Host.Outcome State Fault Refusal := alu0 c d imm s

/-- LEA (R319). -/
def execLea (c : Com) (sc : Fin 4) (d : Dst) (a b : Use Src) (off : Off) (s : State) : Host.Outcome State Fault Refusal :=
  alu2 c d a b (fun x y => x + (y <<< sc.val) + BitVec.ofInt 64 (offVal off)) s

/-- BFX (R320). -/
def execBfx (c : Com) (d : Dst) (a : Use Src) (pos : Fin 64) (len : Fin 128) (s : State) : Host.Outcome State Fault Refusal :=
  alu1 c d a (fun x => zextW (x >>> pos.val) len.val) s

/-- BFI (R320): D is read and written back. -/
def execBfi (c : Com) (d : Fin 48) (a : Use Src) (pos : Fin 64) (len : Fin 128) (s : State) : Host.Outcome State Fault Refusal :=
  issueFall .any c s fun s => do
    let (x, s) ← readSrc s a.r
    let (y, s) ← readSrc s (.g d)
    writeDst s (.g d) (insertBits y x pos.val len.val)

end Sys2Proof.Machine
end

