-- ==== Sys2Proof/Machine/MemoryIsa.lean ====
section
/-! DEFINITION. Loads, stores, full/empty forms, block transfers, RADD, bindings, fences (R326 to R337). STAGE stands with the views. -/

namespace Sys2Proof.Machine

/-- Width in bytes and sign of a load (R328). -/
def ldInfo (k : LdKind) : Nat × Bool :=
  match k with
  | .z8 => (1, false) | .s8 => (1, true) | .z16 => (2, false) | .s16 => (2, true) | .z32 => (4, false) | .s32 => (4, true) | .d64 => (8, false)

/-- The value that a load writes (R328). -/
def loadVal (k : LdKind) (bs : List Byte) : Word :=
  let (n, sg) := ldInfo k
  if sg then BitVec.ofInt 64 (sextNat (8 * n) (natOfBytes bs)) else BitVec.ofNat 64 (natOfBytes bs)

/-- Width in bytes of a store (R328). -/
def stWidth : StKind → Nat
  | .b8 => 1 | .b16 => 2 | .b32 => 4 | .b64 => 8

/-- The base register of a memory form, and its address (R278). -/
def memAddr (s : State) (m : MemOp) : Exec (Nat × State) := do
  let (a, s) ← readSrc s m.base.r
  return (addrPlus a (offVal m.off), s)

/-- The address of a form whose offset is always IMM32. -/
def memAddr32 (s : State) (m : MemOp32) : Exec (Nat × State) := do
  let (a, s) ← readSrc s m.base.r
  return (addrPlus a m.off.toInt, s)

/-- A load that goes beyond the core (R201, R212, R327): a hit in the reuse buffer, or a request whose reply writes D. -/
def loadBeyond (s : State) (d : Dst) (k : LdKind) (sel : Space) (na : Bool) (acc : Acc) : Exec State := do
  let loc := acc.locs.headD 0
  let ms := acc.ms.contains (lineOf loc)
  let may := !na && !ms && reusable loc && (sel == .glb || sel == .cls || sel == .twr)
  waitFor (!s.linesBusy s.focus s.act [lineOf loc])
  match if may then s.me.heldLine loc else none with
  | some l =>
    let s := countPmc (s.modMe fun c => lrbTouch c loc) s.focus (some s.act) 11 1
    writeDst (poisIf s s.focus s.act (l.poisAt loc)) d (loadVal k ((l.bytes.drop (loc % 64)).take acc.locs.length))
  | none =>
    let (dst, s) ← reserveDst s d k s.nextId
    let s := if may then countPmc s s.focus (some s.act) 12 1 else s
    return sendReq s { mkReq s (.load acc.locs) loc none with dst, ms, alloc := may, glb := sel == .glb }

/-- LD (R328, R329). -/
def execLd (c : Com) (k : LdKind) (d : Dst) (m : MemOp) (s : State) : Host.Outcome State Fault Refusal :=
  issueFall .any c s fun s => do
    let (a, s) ← memAddr s m
    memReady s
    let n := (ldInfo k).1
    let (acc, s) ← access s m.sel rdUse a n n
    if acc.own then
      let s ← ownBanks s false acc.locs
      let (bs, p, s) := readHome s (isFw s.focus) acc.locs
      let s := if m.lu then killWords s acc.locs else s
      writeDst (poisIf s s.focus s.act p) d (loadVal k bs)
    else loadBeyond s d k m.sel m.na acc

/-- ST (R328, R329). -/
def execSt (c : Com) (k : StKind) (d : Src) (m : MemOp) (s : State) : Host.Outcome State Fault Refusal :=
  issueFall .any c s fun s => do
    let (a, s) ← memAddr s m
    let (v, s) ← readSrc s d
    memReady s
    let n := stWidth k
    let (acc, s) ← access s m.sel wrUse a n n
    storeBytes s acc (bytesOfNat n v.toNat)

/-! ### Full/empty forms (R330, R331) -/

/-- On the own spm: the form waits at its word in arrival order and has not issued until its step. -/
def feOwn (s : State) (f : FeForm) (loc : Nat) (data : Word) (lu : Bool) : Exec (State × Word) := do
  let n := match s.cur.feArr with | some (n, _, _) => n | none => s.nextId
  let w := s.phys loc / 8
  if feReady s w n f then
    let s ← if f == .setE then pure s else ownBanks s true [loc]
    let (s, v, p) := feStep s f loc data lu
    return (poisIf s s.focus s.act p, v)
  else .error (.block fun s => { s.modCur fun c => { c with feArr := some (n, f, some loc) } with nextId := max s.nextId (n + 1) })

/-- The full/empty form on its own spm that stands next in the active context of a core, with its word's location, unless its base is still awaited. -/
def nextForm (s : State) (key : Nat) : Option (FeForm × Option Nat) :=
  let s : State := { s with focus := key }
  let form (f : FeForm) (c : Com) (m : MemOp) : Option (FeForm × Option Nat) :=
    if m.sel != .spm || s.predMask c.pred = 0 then none
    else
      match memAddr s m with
      | .ok (a, _) => if a % 8 = 0 && a < spmSize key then some (f, some (locSpm key a)) else none
      | .error _ => some (f, none)
  if s.cur.st != .running then none
  else
    match s.instrAt key s.cur.pc with
    | some (.ldw c _ m) => form .ldw c m
    | some (.lde c _ m) => form .lde c m
    | some (.stw c _ m) => form .stw c m
    | some (.stf c _ m) => form .stf c m
    | some (.fesetE c m) => form .setE c m
    | some (.fesetF c m) => form .setF c m
    | _ => none

/-- That form has arrived: arrival is the first cycle in which it is the context's next instruction, so it stands before every form that arrives from
now on (R202, R331). It keeps its place when its base, awaited until then, names its word. -/
def noteArrival (s : State) (key : Nat) : State :=
  let put (n : Nat) (f : FeForm) (l : Option Nat) : State := s.modCtx key (s.core key).active fun c => { c with feArr := some (n, f, l) }
  match nextForm s key, (s.ctx key (s.core key).active).feArr with
  | some (f, l), none => { put s.nextId f l with nextId := s.nextId + 1 }
  | some (f, some l), some (n, _, none) => put n f (some l)
  | _, _ => s

/-- Through rmt: the request goes at once, counted as one line, and the context blocks until its answer. -/
def feRemote (s : State) (f : FeForm) (loc : Nat) (data : Word) (dst : ReqDst) : Exec State := do
  sendReady s [loc]
  return sendReq s { mkReq s (.fe f loc data) loc (some (classOf s.focus loc)) with dst }

/-- LDW and LDE. -/
def feLoad (c : Com) (f : FeForm) (d : Dst) (m : MemOp) (s : State) : Host.Outcome State Fault Refusal :=
  issueFall .any c s fun s => do
    let (a, s) ← memAddr s m
    memReady s
    let (acc, s) ← access s m.sel rdUse a 8 8
    let loc := acc.locs.headD 0
    if acc.own then
      let (s, v) ← feOwn s f loc 0 m.lu
      writeDst s d v
    else
      sendReady s [loc]
      let (dst, s) ← reserveDst s d .d64 s.nextId
      feRemote s f loc 0 dst

/-- STW, STF and FESET, with their data. -/
def feStore (c : Com) (f : FeForm) (d : Option Src) (m : MemOp) (s : State) : Host.Outcome State Fault Refusal :=
  issueFall .any c s fun s => do
    let (a, s) ← memAddr s m
    let (v, s) ← match d with | some d => readSrc s d | none => pure (0, s)
    memReady s
    let (acc, s) ← access s m.sel wrUse a 8 8
    let loc := acc.locs.headD 0
    if acc.own then return (← feOwn s f loc v false).1
    else feRemote s f loc v .none

/-- LDW (R330). -/
def execLdw (c : Com) (d : Dst) (m : MemOp) (s : State) : Host.Outcome State Fault Refusal := feLoad c .ldw d m s
/-- LDE (R330). -/
def execLde (c : Com) (d : Dst) (m : MemOp) (s : State) : Host.Outcome State Fault Refusal := feLoad c .lde d m s
/-- STW (R330). -/
def execStw (c : Com) (d : Src) (m : MemOp) (s : State) : Host.Outcome State Fault Refusal := feStore c .stw (some d) m s
/-- STF (R330). -/
def execStf (c : Com) (d : Src) (m : MemOp) (s : State) : Host.Outcome State Fault Refusal := feStore c .stf (some d) m s
/-- FESET.e (R330). -/
def execFesetE (c : Com) (m : MemOp) (s : State) : Host.Outcome State Fault Refusal := feStore c .setE none m s
/-- FESET.f (R330). -/
def execFesetF (c : Com) (m : MemOp) (s : State) : Host.Outcome State Fault Refusal := feStore c .setF none m s

/-! ### Block transfers (R332, R333) -/

/-- Read the local range of a PUT (R333): a poisoned word reads zero and sets POIS (log entry 15). -/
def putSource (s : State) (locs : List Nat) : Exec (List Byte × State) := do
  let s ← ownBanks s false locs
  let (bs, p, s) := readHome s (isFw s.focus) locs
  return (bs, poisIf s s.focus s.act p)

/-- The local and the remote range of a transfer, checked together (R231). -/
def transferRanges (s : State) (loc rem : Nat) (sel : Space) (n : Nat) (u : PageUse) (extra : Option FaultInfo) :
    Except FaultInfo (Acc × Acc) :=
  let l := resolve s s.focus s.cur.asid .spm rdUse loc 8 (addrRange loc n)
  let r := resolve s s.focus s.cur.asid sel u rem 8 (addrRange rem n)
  match l, r, firstFault [errOf l, errOf r, extra] with
  | .ok a, .ok b, none => .ok (a, b)
  | _, _, some f => .error f
  | _, _, none => .error fIllop

/-- PUT (R332, R333). -/
def execPut (c : Com) (d a : Src) (sel : Space) (len : BitVec 32) (s : State) : Host.Outcome State Fault Refusal :=
  issueFall .any c s fun s => do
    let (r, s) ← readSrc s a
    let (l, s) ← readSrc s d
    memReady s
    let (src, dst) ← checkedIn s sel (addrRange r.toNat len.toNat) (transferRanges s l.toNat r.toNat sel len.toNat wrUse none)
    let s := translated s sel (addrRange r.toNat len.toNat)
    sendReady s dst.locs
    let (bs, s) ← putSource s src.locs
    return (postWrites s dst.ms (dst.locs.zip bs)).2

/-- GET (R332, R333): one counted read for each remote line; its data are written as they return. -/
def execGet (c : Com) (d a : Src) (sel : Space) (len : BitVec 32) (s : State) : Host.Outcome State Fault Refusal :=
  issueFall .any c s fun s => do
    let (r, s) ← readSrc s a
    let (l, s) ← readSrc s d
    memReady s
    let (dst, src) ← checkedIn s sel (addrRange r.toNat len.toNat) (transferRanges s l.toNat r.toNat sel len.toNat rdUse none)
    let s := translated s sel (addrRange r.toNat len.toNat)
    sendReady s src.locs
    return (splitRuns (src.locs.zip dst.locs)).foldl (fun s run =>
      let loc := (run.headD (0, 0)).1
      sendReq s { mkReq s (.load (run.map (·.1))) loc (some (classOf s.focus loc)) with
        dst := .spm (run.headD (0, 0)).2, ms := src.ms.contains (lineOf loc) }) s

/-- A sync-word operand (R334): 16 bytes, in a memory that can hold one. -/
def syncWord (s : State) (sel : Space) (u : PageUse) (a : Nat) : Except FaultInfo Acc :=
  match resolve s s.focus s.cur.asid sel u a 16 (addrRange a 16) with
  | .error f => .error f
  | .ok acc => if syncPlace (acc.locs.headD 0) then .ok acc else .error (fProt 0 a (spaceNum sel))

/-- PUTSIG (R332, R333): the addition is performed after every data write. -/
def execPutsig (c : Com) (d a x : Src) (sel ssp : Space) (len : BitVec 32) (s : State) : Host.Outcome State Fault Refusal :=
  issueFall .any c s fun s => do
    let (r, s) ← readSrc s a
    let (y, s) ← readSrc s x
    let (l, s) ← readSrc s d
    memReady s
    let sw := syncWord s ssp wrUse y.toNat
    let vas := (if sel == .glb then addrRange r.toNat len.toNat else []) ++ (if ssp == .glb then addrRange y.toNat 16 else [])
    let (src, dst) ← checkedIn s .glb vas (transferRanges s l.toNat r.toNat sel len.toNat wrUse (errOf sw))
    let sync ← checked sw
    let s := translated s .glb vas
    let at_ := sync.locs.headD 0
    waitFor (!s.linesBusy s.focus s.act (lineOf at_ :: linesOf dst.locs))
    waitFor (roomFor s (at_ :: (linesOf dst.locs).map (· * 64)))
    let (bs, s) ← putSource s src.locs
    let (ids, s) := postWrites s dst.ms (dst.locs.zip bs)
    return sendReq s { mkReq s (.syncAdd at_ len.toNat) at_ (some (classOf s.focus at_)) with after := ids }

/-- RADD (R334). -/
def execRadd (c : Com) (d : Src) (m : MemOp) (s : State) : Host.Outcome State Fault Refusal :=
  issueFall .any c s fun s => do
    let (a, s) ← memAddr s m
    let (v, s) ← readSrc s d
    memReady s
    let acc ← checkedIn s m.sel (addrRange a 16) (syncWord s m.sel wrUse a)
    let s := translated s m.sel (addrRange a 16)
    let loc := acc.locs.headD 0
    let n := v.toNat % 2 ^ 48
    if acc.own then
      let (ws, rs) := syncNeeds loc false
      let s ← ownBanksRw s ws rs
      return syncAdd s loc n false
    else
      sendReady s [loc]
      return sendReq s (mkReq s (.syncAdd loc n) loc (some (classOf s.focus loc)))

/-! ### Bindings and fences (R219 to R221, R335 to R337) -/

/-- BIND (R219, R335): an entry already there changes nothing; a full table raises BOUND. Bits of the base above 56 are not held (R237). -/
def execBind (c : Com) (d : Src) (a : Use Src) (sizeM1 : BitVec 40) (rsp : Space) (osp : Osp) (s : State) : Host.Outcome State Fault Refusal :=
  issueFall .any c s fun s => do
    let (o, s) ← readSrc s a.r
    let (b, s) ← readSrc s d
    let e : Binding := { obj := o, osp, rsp, base := zextW b 57, sizeM1 }
    if s.cur.binds.contains e then return s
    else
      raiseIf (decide (8 ≤ s.cur.binds.length)) (fBound 0 0)
      return s.modCur fun k => { k with binds := k.binds ++ [e] }

/-- UNBIND (R219). -/
def execUnbind (c : Com) (a : Use Src) (osp : Osp) (s : State) : Host.Outcome State Fault Refusal :=
  issueFall .any c s fun s => do
    let (o, s) ← readSrc s a.r
    return s.modCur fun k => { k with binds := k.binds.filter fun e => !(e.osp == osp && e.obj == o) }

/-- ACQ (R221). -/
def execAcq (c : Com) (a : Use Src) (osp : Osp) (s : State) : Host.Outcome State Fault Refusal :=
  issueFall .any c s fun s => do
    let (o, s) ← readSrc s a.r
    waitFor (!s.vecMemPending s.focus s.act)
    return acquire s s.focus s.act osp o

/-- The WT scope that REL waits for (R220): 0 for none. -/
def relScope (key : Nat) (es : List Binding) : Fin 4 :=
  let level (e : Binding) : Fin 4 :=
    match e.rsp with
    | .glb => 3
    | .cls => 1
    | .rmt =>
      let lo := e.base.toNat / 2 ^ 18
      let hi := (e.base.toNat + e.sizeM1.toNat) / 2 ^ 18
      if hi - lo < 64 && (List.range (hi - lo + 1)).all fun i => isTile (lo + i) && clusterOf (lo + i) == clusterOf key then 1 else 2
    | _ => 2
  es.foldl (fun m e => if m.val < (level e).val then level e else m) 0

/-- REL (R220): its waits, and nothing else. -/
def execRel (c : Com) (a : Use Src) (osp : Osp) (s : State) : Host.Outcome State Fault Refusal :=
  issueFall .any c s fun s => do
    let (o, s) ← readSrc s a.r
    waitFor (!s.vecMemPending s.focus s.act)
    waitFor (s.wtMet (relScope s.focus (s.cur.binds.filter fun e => e.osp == osp && e.obj == o)))
    return s

/-- The WT code of a scope (R216, R217). -/
def wtOf : Cls → Fin 4
  | .clu => 1 | .mod => 2 | .sys => 3

/-- FENCE (R217, R337): the wait of its scope. -/
def execFence (p : Pred) (sc : Cls) (s : State) : Host.Outcome State Fault Refusal :=
  issueFall .any { pred := p, wt := 0 } s fun s => do
    waitFor (s.wtMet (wtOf sc))
    return s

/-- CNTW (R337): it makes no wait of R213. -/
def execCntw (c : Com) (k : Cls) (n : Fin 513) (s : State) : Host.Outcome State Fault Refusal :=
  issueFall .any c s fun s => do
    waitFor (decide (s.cur.count k ≤ n.val))
    return s

end Sys2Proof.Machine
end

