-- ==== Sys2Proof/Machine/Views.lean ====
section
/-! DEFINITION. Views (R178, R179), the register store and its liveness (R176 to R185), the staging buffer (R186), and STAGE (R338). -/

namespace Sys2Proof.Machine

/-! ### View words -/

/-- Kinds of R178. -/
inductive Kind where
  | v | a | c | reserved
  deriving DecidableEq, Repr

/-- KIND of a view word. -/
def viewKind (w : Word) : Kind :=
  match w.toNat / 2 ^ 40 % 4 with
  | 0 => .v
  | 1 => .a
  | 2 => .c
  | _ => .reserved

/-- TYPE of a view word; none for a reserved code. -/
def viewTy (w : Word) : Option Ty := tyNames[w.toNat / 2 ^ 36 % 16]?
/-- KSZ. -/
def viewKsz (w : Word) : Nat := w.toNat / 2 ^ 34 % 4
/-- K: bytes of an A row or of a B column (R178, R385). -/
def viewK (w : Word) : Nat := 32 * 2 ^ viewKsz w
/-- Row pitch in bytes. -/
def viewPitch (w : Word) : Nat := w.toNat / 2 ^ 21 % 2 ^ 11 * 32
/-- BASE: the first granule. -/
def viewBase (w : Word) : Nat := w.toNat / 2 ^ 6 % 2 ^ 10
/-- A view word with its reserved bits cleared (R358). -/
def cleanView (w : Word) : Word := w &&& 0x000003FCFFE0FFC0
/-- A view register with BASE replaced. -/
def withBase (w : Word) (b : Nat) : Word := (w &&& ~~~0xFFC0) ||| BitVec.ofNat 64 (b % 1024 * 64)

/-- The covered ranges as (offset, length), row by row; span is the length of a V operand, 256 but for a block image (R179, R381). -/
def viewRows (w : Word) (span : Nat) : List (Nat × Nat) :=
  let b := viewBase w * 64
  match viewKind w with
  | .a => (List.range 32).map fun r => (b + r * viewPitch w, viewK w)
  | .c => (List.range 32).map fun r => (b + r * viewPitch w, 128)
  | _ => [(b, span)]

/-- Granules of ranges, rising. -/
def rangeGranules (rs : List (Nat × Nat)) : List Nat :=
  rs.foldl (fun l r => if r.2 = 0 then l else (List.range ((r.1 + r.2 - 1) / 64 - r.1 / 64 + 1)).foldl (fun l i => nsAdd l (r.1 / 64 + i)) l) []

/-- Covered offsets in order. -/
def rangeOffs (rs : List (Nat × Nat)) : List Nat := rs.flatMap fun r => (List.range r.2).map fun i => r.1 + i

/-- A granule list as a bit per granule. -/
def granMask (gs : List Nat) : BitVec 1024 := gs.foldl (fun m g => m ||| BitVec.ofNat 1024 (2 ^ g)) 0

/-- How an instruction uses a view. -/
structure VUse where
  w : Word
  /-- the kind and the type fit -/
  fits : Bool
  /-- bytes of a V view that count for liveness (R381, R402), and bytes that it covers for BOUND (R179, R382) -/
  span : Nat := 256
  cover : Nat := 256
  src : Bool := false
  last : Bool := false

/-- The rules of R179 that do not depend on the instruction. -/
def viewSane (w : Word) : Bool :=
  let ty := viewTy w
  match viewKind w with
  | .v => ty.isSome && viewKsz w = 0
  | .a => ty.isSome && 0 < viewPitch w && viewK w ≤ viewPitch w
  | .c => (ty == some .i32 || ty == some .f32) && viewKsz w = 0 && 128 ≤ viewPitch w
  | .reserved => false

/-- Granules that a use covers. -/
def VUse.granules (u : VUse) : List Nat := rangeGranules (viewRows u.w u.span)

/-- The lowest covered offset at or above 65,536 (R179, R233). -/
def viewBeyond (u : VUse) : Option Nat :=
  (viewRows u.w u.cover).foldl (fun m r =>
    let lo := max r.1 65536
    if lo < r.1 + r.2 then (match m with | some x => some (min x lo) | none => some lo) else m) none

/-- FORMAT, then BOUND, of an instruction's views (R179, R231). -/
def viewFault (us : List VUse) : Option FaultInfo :=
  if us.any fun u => !u.fits || !viewSane u.w then some fFormat
  else (us.findSome? viewBeyond).map fun a => fBound a 7

/-! ### Reading and writing the store -/

/-- Granules that can be read: LIVE and not KILLPEND (R181). -/
def Ctx.readable (c : Ctx) : BitVec 1024 := c.live &&& ~~~c.pend

/-- The lowest granule of a list that is not set in a map. -/
def lowestDead (m : BitVec 1024) (gs : List Nat) : Option Nat :=
  gs.foldl (fun d g => if m.getLsbD g then d else match d with | some x => some (min x g) | none => some g) none

/-- Bytes of a context's store, and whether one lies in a poisoned word. -/
def readStore (s : State) (key : Nat) (n : Bool) (offs : List Nat) : List Byte × Bool :=
  (offs.map fun o => s.byteAt (locRs key n o), offs.any fun o => s.poisonAt (locRs key n o))

/-- Banks of granules. -/
def granBanks (gs : List Nat) : List Nat := (gs.map (· / 32)).dedup

/-- A granule's number in the staging buffer (R186). -/
def stagedIx (n : Bool) (g : Nat) : Nat := n.toNat * 1024 + g

/-- Granules leave the staging buffer (R186). -/
def unstage (s : State) (key : Nat) (n : Bool) (gs : List Nat) : State :=
  s.modCore key fun c => { c with staged := c.staged.filter fun x => !(gs.any fun g => stagedIx n g = x) }

/-- Granules become DEAD (R181, R183). -/
def killGranules (s : State) (key : Nat) (n : Bool) (gs : List Nat) : State :=
  let m := ~~~granMask gs
  unstage (s.modCtx key n fun c => { c with live := c.live &&& m, pend := c.pend &&& m }) key n gs

/-- Granules become KILLPEND (R185). -/
def pendGranules (s : State) (key : Nat) (n : Bool) (gs : List Nat) : State :=
  unstage (s.modCtx key n fun c => { c with pend := c.pend ||| granMask gs }) key n gs

/-- Writes to a register store or a B-SRAM clear the poison of words that they cover whole (R94). -/
def cleanPoison (s : State) (locs : List Nat) : State :=
  { s with poison := s.poison.filter fun w => !((List.range 8).all fun i => locs.contains (w * 8 + i)) }

/-- A write of (offset, byte) pairs to the store, performed (R182): other bytes of a DEAD granule become zero, and every granule written is LIVE. -/
def storeNow (s : State) (key : Nat) (n : Bool) (ps : List (Nat × Byte)) : State :=
  let gs := ps.foldl (fun l p => nsAdd l (p.1 / 64)) []
  let live := (s.ctx key n).live
  let m := gs.foldl (fun m g => if live.getLsbD g then m else m.putN (locRs key n (g * 64)) (List.replicate 64 0)) s.mem
  let m := ps.foldl (fun m p => m.put (locRs key n p.1) p.2) m
  let dead := gs.filter fun g => !live.getLsbD g
  let s := { s with mem := m, poison := s.poison.filter fun w => !(dead.any fun g => locRs key n (g * 64) / 8 ≤ w && w < locRs key n (g * 64) / 8 + 8) }
  let s := cleanPoison s (ps.map fun p => locRs key n p.1)
  let s := touchBanks (unstage s key n gs) key (rsBank n) (granBanks gs)
  s.modCtx key n fun c => { c with live := c.live ||| granMask gs, pend := c.pend &&& ~~~granMask gs }

/-- The bank of an offset in a register store (R176). -/
def bankOfOff (off : Nat) : Nat := off / 2048

/-- A write of (offset, byte) pairs: what lies in banks that are FULL is written; the rest wakes its banks and waits for them, in order (R188). -/
def writeStore (s : State) (key : Nat) (n : Bool) (ps : List (Nat × Byte)) (mx : Bool := false) : State :=
  let ks := (ps.map fun p => bankOfOff p.1).dedup
  let s := touchBanks s key (rsBank n) ks
  let late := ks.filter fun k => ((s.core key).bank (rsBank n) k).st != .full
  let ws := late.map fun k : Nat => ({ ctx := n, bank := k, bytes := ps.filter fun p => bankOfOff p.1 = k, mx } : LateWrite)
  let now := ps.filter fun p => !late.contains (bankOfOff p.1)
  let s := if ws.isEmpty then s else s.modCore key fun c => { c with late := c.late ++ ws }
  if now.isEmpty then s else storeNow s key n now

/-- A bank of a context's store is FULL: the writes that wait for it are performed, oldest first (R188). -/
def lateWrites (s : State) (key : Nat) (n : Bool) (bank : Nat) : State :=
  let mine (l : LateWrite) : Bool := l.ctx == n && l.bank == bank
  let ws := (s.core key).late.filter mine
  ws.foldl (fun s l => storeNow s key n l.bytes) (s.modCore key fun c => { c with late := c.late.filter fun l => !mine l })

/-- Granules of a context that a write waits to reach. -/
def State.lateGranules (s : State) (key : Nat) (n : Bool) : List Nat :=
  ((s.core key).late.filter (·.ctx == n)).foldl (fun l w => w.bytes.foldl (fun l p => nsAdd l (p.1 / 64)) l) []

/-- Whether the granules can be read now: staged, or in a bank that is FULL (R115, R186, R188). -/
def granulesReady (s : State) (key : Nat) (n : Bool) (gs : List Nat) : Bool :=
  let c := s.core key
  gs.all fun g =>
    let st := (c.bank (rsBank n) (g / 32)).st
    st == .full || (st != .waking && c.staged.contains (stagedIx n g))

/-- The reads of granules start (R186): staged ones are used from the buffer, the others access their banks. -/
def startReads (s : State) (key : Nat) (n : Bool) (gs : List Nat) : State :=
  let gs := gs.filter fun g => (s.ctx key n).live.getLsbD g
  let st := gs.filter fun g => (s.core key).staged.contains (stagedIx n g)
  let s := s.modCore key fun c => { c with staged := st.foldl (fun l g => stagedIx n g :: l.filter (· ≠ stagedIx n g)) c.staged }
  touchBanks s key (rsBank n) (granBanks (gs.filter fun g => !st.contains g))

/-! ### STAGE (R338) -/

/-- STAGE: the reads of a view's readable granules start, and they enter the buffer of 64. -/
def execStage (c : Com) (a : Fin 16) (s : State) : Host.Outcome State Fault Refusal :=
  issueFall .tile c s fun s =>
    let w := s.cur.vw.get a
    if viewSane w then
      let gs := (rangeGranules (viewRows w 256)).filter fun g => g < 1024 && s.cur.readable.getLsbD g
      let s := startReads s s.focus s.act gs
      let put (l : List Nat) (g : Nat) : List Nat := stagedIx s.act g :: l.filter (· ≠ stagedIx s.act g)
      return s.modMe fun k => { k with staged := (gs.foldl put k.staged).take 64 }
    else return s

end Sys2Proof.Machine
end

