-- ==== Sys2Proof/Machine/Queue.lean ====
section
/-! DEFINITION. The vector and matrix queue (R114): how each instruction uses views, what it kills and writes, the checks at its push (R230, R231,
R353), and what stands between a head and its grant (R115). -/

namespace Sys2Proof.Machine

/-! ### Types that fit -/

/-- A view of this kind and type. -/
def typeFits (w : Word) (k : Kind) (t : Ty) : Bool := viewKind w == k && viewTy w == some t

/-- The types of the arithmetic group (R366). -/
def arithTy (t : Ty) : Bool := t != .t8 && t != .t6 && t != .i4

/-- Integer types other than I4. -/
def intTy (t : Ty) : Bool := t.isInt && t != .i4

/-- The element type of an MMA's operands (R386). -/
def mmaElem : MmaTy → Ty
  | .i8 => .i8 | .t8 => .t8 | .t6 => .t6 | .i4 => .i4 | .bf16 => .bf16

/-- The accumulator's type (R386, R390). -/
def accTy (t : MmaTy) (bs : Bool) : Ty :=
  if bs then .f32 else match t with | .i8 | .i4 => .i32 | _ => .f32

/-- Operand types of the matrix loads and of B views (R385, R398). -/
def operandTy (t : Ty) : Bool := t == .i8 || t == .t8 || t == .t6 || t == .i4 || t == .bf16

/-! ### B views (R385) -/

/-- BSE. -/
def bvBse (w : Word) : Bool := w.getLsbD 41
/-- BASE in bytes of a slice. -/
def bvBase (w : Word) : Nat := w.toNat % 2 ^ 9 * 32
/-- A B view with its reserved bits cleared (R397). -/
def cleanBview (w : Word) : Word := w &&& 0x000002FC000001FF
/-- Bytes of a slice that it covers. -/
def bvLen (w : Word) : Nat := viewK w + (if bvBse w then 32 else 0)
/-- The FORMAT rules of R385. -/
def bvSane (w : Word) : Bool :=
  (match viewTy w with | some t => operandTy t | none => false) && !(bvBse w && (viewTy w != some .i8 || viewK w = 32))
/-- The BOUND of R385, with the lowest covered offset at or above 16,384. -/
def bvBeyond (w : Word) : Option FaultInfo :=
  if 16384 < bvBase w + bvLen w then some { code := 8, detail := 1, addr := max (bvBase w) 16384, space := 7 } else none

/-- The B view that an instruction uses, if it uses one. -/
def usesB (o : VOp) : Bool :=
  match o.instr with
  | .mma .. | .mmaRa .. | .mmar .. | .mbld .. => true
  | _ => false

/-! ### Uses of views -/

/-- The rules of an MMA's views (R386, R390, R391) with its exponent view. -/
def mmaUses (o : VOp) (t : MmaTy) (la ov : Bool) (bs : Option Bool) : List VUse :=
  [{ w := o.va, fits := typeFits o.va .a (mmaElem t), src := true, last := la },
   { w := o.vd, fits := typeFits o.vd .c (accTy t bs.isSome), src := !ov }] ++
  (match bs with
    | some lc => [{ w := o.vc, fits := typeFits o.vc .v .z8, span := 128, cover := 128, src := true, last := lc }]
    | none => [])

/-- How an instruction uses the views it names: fits covers the kind and the type that its entry asks for. The entry of VUNBS states no type, so both its
views have TY, FP32 (R351, R382; DEDUCED, log entry 39). -/
def usesOf (o : VOp) : List VUse :=
  let a (t : Ty) (last : Bool) : VUse := { w := o.va, fits := typeFits o.va .v t, src := true, last }
  let b (t : Ty) (last : Bool) : VUse := { w := o.vb, fits := typeFits o.vb .v t, src := true, last }
  let c (t : Ty) (last : Bool) : VUse := { w := o.vc, fits := typeFits o.vc .v t, src := true, last }
  let d (t : Ty) : VUse := { w := o.vd, fits := typeFits o.vd .v t }
  let index (last : Bool) : VUse := { w := o.vc, fits := typeFits o.vc .v .i32 || typeFits o.vc .v .z32, src := true, last }
  let moved (k : Com) (t : Ty) (src : Bool) : List VUse :=
    [{ w := o.vd, fits := viewTy o.vd == some t && (viewKind o.vd == .v || k.pred == { neg := false, p := 0 }), src }]
  match o.instr with
  | .vld k t _ _ => moved k t false
  | .vst k t _ _ => moved k t true
  | .vldl _ t _ _ _ i => d t :: (match i with | some u => [index u.last] | none => [])
  | .vstl _ t _ _ _ i => { d t with src := true } :: (match i with | some u => [index u.last] | none => [])
  | .vgath _ t _ _ x _ => [d t, index x.last]
  | .vscat _ t _ _ x _ => [{ d t with src := true }, index x.last]
  | .vadd _ t _ x y _ | .vsub _ t _ x y _ | .vmul _ t _ x y _ | .vmin _ t _ x y | .vmax _ t _ x y | .vand _ t _ x y | .vor _ t _ x y
  | .vxor _ t _ x y | .vandn _ t _ x y | .vshl _ t _ x y | .vshr _ t _ x y | .vsra _ t _ x y | .vsel _ t _ x y _
  | .vshuf _ t _ x y _ | .vslide _ t _ x y _ => [a t x.last, b t y.last, d t]
  | .vcmp _ _ t _ x y => [a t x.last, b t y.last]
  | .vabs _ t _ x _ | .vneg _ t _ x _ | .vscan _ _ t _ x _ | .vrcp _ t _ x _ | .vrsq _ t _ x _ | .vexp2 _ t _ x _ => [a t x.last, d t]
  | .vfma _ t _ x y z _ => [a t x.last, b t y.last, c t z.last, d t]
  | .vbcast _ t _ _ => [d t]
  | .vcvt _ t _ x src _ _ => [a src x.last, d t]
  | .vext _ t x _ | .vred _ _ t x _ => [a t x.last]
  | .vwadd _ t _ x y _ wb _ | .vwmul _ t _ x y _ wb _ =>
    match wideTy t with
    | some w => [a (if wb then w else t) x.last, b t y.last, d w]
    | none => []
  | .vdot _ t _ x y _ => [a t x.last, b t y.last, { d (if t.isInt then .i32 else .f32) with src := true }]
  | .vperm _ t _ x y =>
    let wide := match viewTy o.vb with | some u => tyBits u == tyBits t | none => false
    [a t x.last, { w := o.vb, fits := viewKind o.vb == .v && wide, src := true, last := y.last }, d t]
  | .vbs _ _ _ x w16 _ => [a .f32 x.last, { d (if w16 then .i16 else .i8) with span := if w16 then 136 else 72 }]
  | .vunbs _ t _ x w16 =>
    let n := if w16 then 136 else 72
    [{ a t x.last with span := n, cover := n }, d t]
  | .mma _ t _ x _ ov bs => mmaUses o t x.last ov (bs.map (·.last))
  | .mmar _ t _ x _ ov bs => mmaUses o t x.last ov (bs.map (·.last))
  | .mmaRa _ t _ _ _ ov _ _ =>
    [{ w := o.vc, fits := typeFits o.vc .a (mmaElem t) }, { w := o.vd, fits := typeFits o.vd .c (accTy t false), src := !ov }]
  | .mzero _ t _ => [{ w := o.vd, fits := typeFits o.vd .c t }]
  | .macc _ t _ x _ =>
    [{ w := o.va, fits := typeFits o.va .c t, src := true, last := x.last }, { w := o.vd, fits := typeFits o.vd .c t, src := true }]
  | .mtld _ t .. | .mtldRb _ t .. =>
    { w := o.vd, fits := typeFits o.vd .a t } ::
      (if o.blk = 0 then [] else [{ w := o.vb, fits := typeFits o.vb .v .z8, span := 128 }])
  | .mepi96 _ _ x _ _ _ cols _ | .mepi128 _ _ x _ _ _ _ cols _ =>
    { w := o.vc, fits := viewKind o.vc == .c, src := true, last := x.last } ::
      (match cols with | some _ => [{ w := o.vd, fits := typeFits o.vd .v .f32, span := 128, src := true }] | none => [])
  | _ => []

/-- The element types that an entry accepts, and its other FORMAT rules (R351, R364 to R383, R385, R386, R391, R395 to R401). -/
def formatOk (o : VOp) : Bool :=
  match o.instr with
  | .vgath _ t .. | .vscat _ t .. => t == .i32 || t == .z32 || t == .f32 || t == .i64
  | .vadd _ t .. | .vsub _ t .. | .vmul _ t .. | .vmin _ t .. | .vmax _ t .. | .vabs _ t .. | .vneg _ t .. | .vfma _ t .. => arithTy t
  | .vshl _ t .. | .vshr _ t .. | .vsra _ t .. => intTy t
  | .vcmp _ k t .. => arithTy t && (t.isInt || !(k == .ltz || k == .gez || k == .lez || k == .gtz))
  | .vwadd _ t .. | .vwmul _ t .. => (wideTy t).isSome
  | .vdot _ t .. => t == .i8 || t == .z8 || t == .i16 || t == .z16 || t == .bf16
  | .vred _ op t .. => intTy t || (t.isFloat && (op == .add || op == .max || op == .min))
  | .vscan _ _ t .. => arithTy t
  | .vperm _ t .. => t != .i4
  | .vpand _ t .. | .vpor _ t .. | .vpnot _ t .. | .vpcnt _ t _ => t == .i8
  | .vbs _ t .. | .vunbs _ t .. => t == .f32
  | .vrcp _ t .. | .vrsq _ t .. | .vexp2 _ t .. => t.isFloat
  | .mma _ t _ _ _ _ bs | .mmar _ t _ _ _ _ bs =>
    bvSane o.bv && viewTy o.bv == some (mmaElem t) && viewK o.va == viewK o.bv
      && (bs.isNone || (t == .i8 && bvBse o.bv && 64 ≤ viewK o.va))
  | .mmaRa _ t .. => bvSane o.bv && viewTy o.bv == some (mmaElem t) && viewK o.vc == viewK o.bv
  | .mbld _ t .. => operandTy t && bvSane o.bv && viewTy o.bv == some t
  | .mtld _ t .. | .mtldRb _ t .. => operandTy t
  | .mzero _ t _ | .macc _ t .. => t == .i32 || t == .f32
  | .mepi96 _ t .. | .mepi128 _ t .. => t != .i64
  | _ => true

/-- Granules that an instruction reads (R184). -/
def readsOf (o : VOp) : List Nat := ((usesOf o).filter (·.src)).foldl (fun l u => u.granules.foldl nsAdd l) []

/-- Whether it is a MEPI, whose last use is a pending kill (R185). -/
def isMepi (o : VOp) : Bool :=
  match o.instr with
  | .mepi96 .. | .mepi128 .. => true
  | _ => false

/-- Granules that its last-use bits kill, or leave KILLPEND for a MEPI. -/
def killsOf (o : VOp) : List Nat := ((usesOf o).filter (·.last)).foldl (fun l u => u.granules.foldl nsAdd l) []

/-- Bytes of a V view that belong to active elements. -/
def activeBytes (mask : Mask) (t : Ty) : List Nat := (List.range 256).filter fun j => mask.getLsbD (j - j % max 1 (tyBytes t))

/-- Bytes of a T6 view in the groups of four of which one is active (R361). -/
def activeGroups (mask : Mask) : List Nat := (List.range 256).filter fun j => (List.range 4).any fun k => mask.getLsbD (j / 4 * 4 + k)

/-- Bytes of D that VCVT converts into. -/
def cvtBytes (mask : Mask) (t src : Ty) (part : Nat) : List Nat :=
  (activeBytes mask t).filter fun j => (cvtIndex t.count src.count part (if t = .i4 then 2 * j else j / tyBytes t)).isSome

/-- Offsets that an instruction writes into the store (R182, R353), as its mask at push fixes them. -/
def writesOf (o : VOp) : List Nat :=
  let d (bs : List Nat) : List Nat := bs.map fun j => viewBase o.vd * 64 + j
  let all (w : Word) (span : Nat) : List Nat := rangeOffs (viewRows w span)
  match o.instr with
  | .vld _ t .. => if viewKind o.vd == .v then d (if t = .t6 then activeGroups o.mask else activeBytes o.mask t) else all o.vd 256
  | .vldl _ t .. | .vgath _ t .. | .vadd _ t .. | .vsub _ t .. | .vmul _ t .. | .vmin _ t .. | .vmax _ t .. | .vabs _ t .. | .vneg _ t ..
  | .vfma _ t .. | .vand _ t .. | .vor _ t .. | .vxor _ t .. | .vandn _ t .. | .vshl _ t .. | .vshr _ t .. | .vsra _ t .. | .vsel _ t ..
  | .vbcast _ t .. | .vscan _ _ t .. | .vperm _ t .. | .vshuf _ t .. | .vslide _ t .. | .vrcp _ t .. | .vrsq _ t .. | .vexp2 _ t .. =>
    d (activeBytes o.mask t)
  | .vcvt _ t _ _ src part _ => d (cvtBytes o.mask t src part.val)
  | .vwadd _ t .. | .vwmul _ t .. => match wideTy t with | some w => d (activeBytes o.mask w) | none => []
  | .vdot .. | .vunbs .. => d (activeBytes o.mask .i32)
  | .vbs _ _ _ _ w16 _ => all o.vd (if w16 then 136 else 72)
  | .mma .. | .mmaRa .. | .mzero .. | .macc .. => all o.vd 256
  | .mmar .. => all o.vd 256 ++ all o.va 256
  | .mtld .. | .mtldRb .. => all o.vd 256 ++ (if o.blk = 0 then [] else all o.vb 128)
  | _ => []

/-- Granules that it writes. -/
def writeGranules (o : VOp) : List Nat := (writesOf o).foldl (fun l x => nsAdd l (x / 64)) []

/-- Whether a granted instruction still has data to write: not the tile reads of an MMA.RA, which only fill its buffer (R392). -/
def Flight.writes (f : Flight) : List Nat :=
  match f.op.instr with
  | .mmaRa .. => []
  | .mmar .. => rangeGranules (viewRows f.op.va 256)
  | _ => writeGranules f.op

/-- Entries of a context that still stand in the queue. -/
def State.entriesOf (s : State) (key : Nat) (n : Bool) : List VEntry := (s.core key).vq.filter fun e => e.op.ctx == n && !e.dead

/-- Granted instructions of a context whose data are not complete. -/
def State.flightsOf (s : State) (key : Nat) (n : Bool) : List Flight := (s.core key).fly.filter fun f => f.op.ctx == n && !f.dead

/-- Granules readable after every earlier instruction of the context in program order (R184). -/
def progReadable (s : State) (key : Nat) (n : Bool) : BitVec 1024 :=
  let m := (s.flightsOf key n).foldl (fun m f => m ||| granMask f.writes) ((s.ctx key n).readable ||| granMask (s.lateGranules key n))
  (s.entriesOf key n).foldl (fun m e => (m &&& ~~~granMask (killsOf e.op)) ||| granMask (writeGranules e.op)) m

/-- An MMAR with last use of A leaves A LIVE only as far as its partner's rows reach (R393): a push that reads A waits for it. -/
def mmarPending (s : State) (key : Nat) (n : Bool) (gs : List Nat) : Bool :=
  let waits (o : VOp) : Bool :=
    match o.instr with
    | .mmar _ _ _ a .. => a.last && (rangeGranules (viewRows o.va 256)).any gs.contains
    | _ => false
  (s.entriesOf key n).any (fun e => waits e.op) || (s.flightsOf key n).any fun f => waits f.op

/-! ### Push -/

/-- The queue of a core holds 16 (R114). -/
def vqRoom (s : State) : Bool := decide (s.me.vq.length < 16)

/-- An instruction of the executing context as its push captures it. -/
def baseOp (s : State) (i : Instr) (mask : Mask) : VOp :=
  { ctx := s.act, instr := i, pc := s.cur.pc, sa := 0, sc := 0, vd := 0, va := 0, vb := 0, vc := 0, bv := 0, mask
    pa := 0, pb := 0, rm := s.cur.rm, mem := [], ms := [], blk := 0 }

/-- The checks of the views, of the B view and of liveness, in the order of R231. -/
def checkViews (s : State) (o : VOp) : Exec Unit := do
  raiseIf (!formatOk o) fFormat
  raiseOpt (viewFault (usesOf o))
  if usesB o then raiseOpt (bvBeyond o.bv)
  let gs := readsOf o
  waitFor (!mmarPending s s.focus s.act gs)
  raiseOpt ((lowestDead (progReadable s s.focus s.act) gs).map fDead)

/-- Granules that an earlier write of a context still has to reach: of entries that stand before, of granted instructions, or waiting for a bank. -/
def State.awaited (s : State) (key : Nat) (n : Bool) (before : List VEntry) : List Nat :=
  ((before.filter fun e => e.op.ctx == n && !e.dead).flatMap fun e => writeGranules e.op) ++ (s.flightsOf key n).flatMap Flight.writes
    ++ s.lateGranules key n

/-- The reads of entries start in order, but for an entry of which a source granule awaits an earlier write of its context. -/
def startEntries (key : Nat) : List VEntry → List VEntry → State → State
  | _, [], s => s
  | before, e :: es, s =>
    let gs := readsOf e.op
    let waits := s.awaited key e.op.ctx before
    startEntries key (before ++ [e]) es (if gs.any waits.contains then s else startReads s key e.op.ctx gs)

/-- Lookahead (R186): the reads of the first 8 entries. -/
def lookahead (s : State) (key : Nat) : State := startEntries key [] ((s.core key).vq.take 8) s

/-- `MXCFG.MXPF` as it acts (R389). -/
def prefetchDepth (c : Core) : Nat := if c.mxpf = 0 then 1 else min 8 c.mxpf.toNat

/-- The push: an MMA.RA keeps the prefetch depth of its push, and a value written to MRSEQ counts from the first MMAR pushed after the write (R389). -/
def pushEntry (s : State) (o : VOp) : State :=
  lookahead (s.modMe fun c =>
    { c with vq := c.vq ++ [{ op := o, depth := prefetchDepth c, seqSet := if isMmar o then c.mrset else none }]
             mrset := if isMmar o then none else c.mrset }) s.focus

/-- Issue of an instruction of group 4 (R274, R352): PRED is its element mask. It waits for the predicate, its WT class and room. -/
def issueV (pred : Pred) (wt : Fin 4) (s : State) (m : Mask → State → Exec State) : Host.Outcome State Fault Refusal :=
  settle s (do
    blockFor (!s.feDue)
    raiseIf (!isTile s.focus) fIllop
    waitFor (!s.predBusy pred.p)
    waitFor (s.wtMet wt)
    blockFor (vqRoom s)
    let t ← m (s.predMask pred) s
    return (t, .fall))

/-- Issue of a pushed instruction of group 5: predicated as a whole (R387, R390). -/
def issueM (c : Com) (s : State) (m : State → Exec State) : Host.Outcome State Fault Refusal :=
  settle s (do
    blockFor (!s.feDue)
    raiseIf (!isTile s.focus) fIllop
    waitFor (!s.predBusy c.pred.p)
    if s.predMask c.pred = 0 then return (s, .fall)
    waitFor (s.wtMet c.wt)
    blockFor (vqRoom s)
    return (← m s, .fall))

/-! ### Heads (R115) -/

/-- Slices' bytes that an instruction reads: the region of its B view. -/
def bReads (o : VOp) : Option (Nat × Nat) :=
  match o.instr with
  | .mma .. | .mmaRa .. | .mmar .. => some (bvBase o.bv, bvLen o.bv)
  | _ => none

/-- Slices' bytes that it writes. -/
def bWrites (o : VOp) : Option (Nat × Nat) :=
  match o.instr with
  | .mbld .. | .mmar .. => some (bvBase o.bv, bvLen o.bv)
  | _ => none

/-- Whether two byte ranges meet. -/
def meet (a b : Option (Nat × Nat)) : Bool :=
  match a, b with
  | some (x, n), some (y, m) => decide (x < y + m) && decide (y < x + n)
  | _, _ => false

/-- Flights of the context whose data an instruction must wait for: it reads or writes what they still write (R182, R388, R393). -/
def flightBlocks (o : VOp) (f : Flight) : Bool :=
  let gs := readsOf o ++ writeGranules o
  let xa := match f.op.instr with | .mmar .. => rangeGranules (viewRows f.op.vc 128) | _ => []
  f.writes.any gs.contains || (match f.op.instr with | .mmar _ _ _ _ _ _ (some _) => xa.any gs.contains | _ => false)
    || meet (bReads o) (bWrites f.op) || meet (bWrites o) (bWrites f.op)

/-- q4 has room for a word that the instruction delivers (R115, R356). -/
def q4Room (s : State) (key : Nat) (o : VOp) : Bool :=
  match o.instr with
  | .vext .. | .vred .. | .vpcnt .. => decide ((s.ctx key o.ctx).q4.length + (s.ctx key o.ctx).heldOf .q4 < 16)
  | _ => true

/-- Lines beyond the core that an instruction's accesses touch. -/
def opLines (o : VOp) : List Nat := linesOf (o.mem.map (·.2))

/-- The instruction stores beyond the core. -/
def isVstore (o : VOp) : Bool :=
  match o.instr with
  | .vst .. | .vscat .. => true
  | _ => false

/-- The space of a vector or matrix memory form. -/
def opSpace : Instr → Option Space
  | .vld _ _ _ m | .vst _ _ _ m | .vgath _ _ _ m _ _ | .vscat _ _ _ m _ _ | .mbld _ _ _ m _ | .mtld _ _ _ m _ _ _ | .mtldRb _ _ _ m _ _ _ => some m.sel
  | .vldl .. | .vstl .. => some .lane
  | .mmaRa _ _ _ _ _ _ _ sp => some sp
  | .mepi96 _ _ _ _ sp _ _ _ | .mepi128 _ _ _ _ sp _ _ _ _ => some sp
  | _ => none

/-- An access to the context's own spm or lane (R211). -/
def opOwn (o : VOp) : Bool := opSpace o.instr == some .spm || opSpace o.instr == some .lane

/-- Every load that stands before an instruction of a context in program order has been performed (R210): scalar ones, and granted ones. -/
def loadsDone (s : State) (key : Nat) (n : Bool) : Bool :=
  !(s.fabric.any fun r => r.key == key && r.ctx == n && !r.dead && (match r.dst with | .reg .. | .slot .. => true | _ => false))
    && !((s.flightsOf key n).any fun f => accessesMemory f.op.instr && !f.tileRead)

/-- A memory instruction's turn in program order: earlier loads, epilogue rows, its lines and room in the counts (R210, R212 to R214). -/
def memTurn (s : State) (key : Nat) (o : VOp) : Bool :=
  let n := o.ctx
  let rows := (s.episOf key n).any fun e => !e.parked && !e.rows.isEmpty
  loadsDone s key n && !rows
    && (opOwn o || !s.linesBusy key n (opLines o))
    && (!isVstore o || opOwn o || roomOf s key n ((opLines o).map (· * 64)))

/-- The scratchpad banks of an own access are FULL (R188); a read of a dead word needs none (R191). -/
def spmReady (s : State) (key : Nat) (o : VOp) : Bool :=
  let locs := o.mem.map (·.2)
  !(opSpace o.instr == some .spm) || banksFull (s.core key) .spm ((spmNeeds s (isVstore o) locs).map (·.2)).dedup

/-- A head's wakes: the scratchpad banks of an own access. -/
def wakeSpm (s : State) (key : Nat) (o : VOp) : State :=
  if opSpace o.instr == some .spm then touchBanks s key .spm ((spmNeeds s (isVstore o) (o.mem.map (·.2))).map (·.2)).dedup else s

/-- The head is ready (R115): operands readable, destination not blocked, room in q4, and its turn among the context's memory accesses. A MEPI's rows
follow one another in the epilogue buffer (R403). -/
def headReady (s : State) (key : Nat) (e : VEntry) : Bool :=
  let o := e.op
  let n := o.ctx
  granulesReady s key n (readsOf o)
    && !((s.flightsOf key n).any fun f => e.tile != some f.id && flightBlocks o f)
    && !((s.lateGranules key n).any fun g => (readsOf o).contains g)
    && !((writeGranules o).any fun g => (s.ctx key n).pend.getLsbD g)
    && q4Room s key o
    && (match o.instr with
      | .mmaRa .. => (match e.tile with
          | some id => (s.core key).fly.any fun f => f.id == id && f.left == 0
          | none => false)
      | .mepi96 .. | .mepi128 .. => loadsDone s key n
      | i => !accessesMemory i || (memTurn s key o && spmReady s key o))

end Sys2Proof.Machine
end

