-- ==== Sys2Proof/Machine/VectorExec.lean ====
section
/-! DEFINITION. What a vector instruction does when its last quarter is granted (R353): it reads its sources, computes, applies its kills, and
writes. Memory forms send their requests then (R362, R365); a load writes D when all its data have arrived. -/

namespace Sys2Proof.Machine

/-- Elements of a V view of a context, read as one type. -/
def viewElems (s : State) (key : Nat) (n : Bool) (w : Word) (t : Ty) : List Nat :=
  elems t (readStore s key n (rangeOffs [(viewBase w * 64, 256)])).1

/-- Flags of a completed instruction go into `STATUS` of the context that pushed it (R255, R354). -/
def flagCtx (s : State) (key : Nat) (n : Bool) (f : Nat) : State := if f = 0 then s else s.modCtx key n fun c => c.orFlags f

/-- A poisoned word of the store reads zero and sets POIS (R94). -/
def readPoison (s : State) (key : Nat) (o : VOp) : Bool :=
  (usesOf o).any fun u => u.src && (readStore s key o.ctx (rangeOffs (viewRows u.w u.span))).2

/-- The kills of an instruction (R183, R185). -/
def applyKills (s : State) (key : Nat) (o : VOp) : State :=
  if isMepi o then pendGranules s key o.ctx (killsOf o) else killGranules s key o.ctx (killsOf o)

/-- Kills, then writes, then flags (R353). -/
def finishWrite (s : State) (key : Nat) (o : VOp) (ps : List (Nat × Byte)) (flags : Nat) : State :=
  flagCtx (writeStore (applyKills s key o) key o.ctx ps (isMatrix o.instr)) key o.ctx flags

/-- The bytes of a result in a V view. -/
def placeRes (w : Word) (t : Ty) (out : List (Option Nat)) : List (Nat × Byte) :=
  (resBytes t out).map fun p => (viewBase w * 64 + p.1, p.2)

/-- Deliver a word to q4 (R167, R356). -/
def pushQ4 (s : State) (key : Nat) (n : Bool) (w : Word) : State := s.modCtx key n fun c => { c with q4 := c.q4 ++ [w] }

/-- The result of the element-wise and permuting instructions, by D's type; none for the others. -/
def vecResult (s : State) (key : Nat) (o : VOp) : Option (Ty × VRes) :=
  let n := o.ctx
  let a (t : Ty) : List Nat := viewElems s key n o.va t
  let b (t : Ty) : List Nat := viewElems s key n o.vb t
  let c (t : Ty) : List Nat := viewElems s key n o.vc t
  let res (t : Ty) (rs : List (Option ElemRes)) : Option (Ty × VRes) := some (t, collect o.mask t rs)
  let ar (op : ArithOp) (t : Ty) (x : VX) : Option (Ty × VRes) := res t (map2 (arith2 op t x.sat (rmOf x.rnd o.rm)) (a t) (b t))
  let plain : VX := { sat := false, rnd := { ro := false, rmo := .rne } }
  let logic (t : Ty) (f : Nat → Nat → Nat) : Option (Ty × VRes) := res t (map2 (fun x y => (f x y, 0)) (a t) (b t))
  let full (t : Ty) (x : Nat) : Nat := 2 ^ tyBits t - 1 - x
  match o.instr with
  | .vadd _ t _ _ _ x => ar .add t x
  | .vsub _ t _ _ _ x => ar .sub t x
  | .vmul _ t _ _ _ x => ar .mul t x
  | .vmin _ t .. => ar .min t plain
  | .vmax _ t .. => ar .max t plain
  | .vabs _ t _ _ sat => res t (map1 (absElem t sat) (a t))
  | .vneg _ t _ _ sat => res t (map1 (negElem t sat) (a t))
  | .vfma _ t _ _ _ _ x => res t (map3 (fmaElem t x.sat (rmOf x.rnd o.rm)) (a t) (b t) (c t))
  | .vand _ t .. => logic t fun x y => x &&& y
  | .vor _ t .. => logic t fun x y => x ||| y
  | .vxor _ t .. => logic t fun x y => x ^^^ y
  | .vandn _ t .. => logic t fun x y => x &&& full t y
  | .vshl _ t .. => res t (map2 (shiftElem .shl t) (a t) (b t))
  | .vshr _ t .. => res t (map2 (shiftElem .shr t) (a t) (b t))
  | .vsra _ t .. => res t (map2 (shiftElem .sra t) (a t) (b t))
  | .vsel _ t .. =>
    res t (((a t).zip (b t)).zip (List.range t.count) |>.map fun p => some (if active o.pa t p.2 then p.1.1 else p.1.2, 0))
  | .vbcast _ t .. => res t ((List.range t.count).map fun _ => some (bcastVal t o.sa, 0))
  | .vcvt _ t _ _ src part x => res t (cvtAll t src part.val (rmOf x.rnd o.rm) x.sat (a src))
  | .vwadd _ t _ _ _ part wb x =>
    (wideTy t).bind fun w => res w (wideAll false t w part.toNat wb x.sat (rmOf x.rnd o.rm) (a (if wb then w else t)) (b t))
  | .vwmul _ t _ _ _ part wb x =>
    (wideTy t).bind fun w => res w (wideAll true t w part.toNat wb x.sat (rmOf x.rnd o.rm) (a (if wb then w else t)) (b t))
  | .vdot _ t _ _ _ x =>
    let d := if t.isInt then .i32 else .f32
    res d (dotAll t x.sat (rmOf x.rnd o.rm) (a t) (b t) (viewElems s key n o.vd d))
  | .vscan _ op t _ _ x => some (t, scanAll op t x.sat (rmOf x.rnd o.rm) o.mask (a t))
  | .vperm _ t .. => res t (permAll (a t) (b t))
  | .vshuf _ t _ _ _ m => res t (shufAll m (a t) (b t))
  | .vslide _ t _ _ _ sh => res t (slideAll sh.toInt (a t) (b t))
  | .vunbs _ _ _ _ w16 => res .f32 (vunbsAll w16 (readStore s key n (rangeOffs (viewRows o.va (if w16 then 136 else 72)))).1)
  | .vrcp _ t _ _ r => res t (map1 (fpRcp (frOf t) (rmOf r o.rm)) (a t))
  | .vrsq _ t _ _ r => res t (map1 (fpRsq (frOf t) (rmOf r o.rm)) (a t))
  | .vexp2 _ t _ _ r => res t (map1 (fpExp2 (frOf t) (rmOf r o.rm)) (a t))
  | _ => none

/-- The bits of an inverted or combined predicate are written where the mask is 1 (R380). -/
def mergeMask (old new mask : Mask) : Mask := (new &&& mask) ||| (old &&& ~~~mask)

/-! ### Memory images (R361) -/

/-- Codes of T6 containers packed, four to 3 bytes (R257). -/
def packT6 (bs : List Byte) : List Byte :=
  (pieces 4 bs.length bs).flatMap fun g =>
    bytesOfNat 3 (((g.zip (List.range 4)).map fun p => p.1.toNat % 64 * 64 ^ p.2).sum)

/-- Packed T6 codes in containers with bits [7:6] zero. -/
def unpackT6 (bs : List Byte) : List Byte :=
  (pieces 3 bs.length bs).flatMap fun g => (List.range 4).map fun j => BitVec.ofNat 8 (natOfBytes g / 64 ^ j % 64)

/-- The image of covered bytes in memory. -/
def toImage (t : Ty) (bs : List Byte) : List Byte := if t = .t6 then packT6 bs else bs

/-- Look up the byte of a location among those that have arrived. -/
def gotByte (got : List (Nat × Byte)) (loc : Nat) : Byte := match got.find? fun p => p.1 == loc with | some p => p.2 | none => 0

/-- The image bytes that a load has received, by their places. -/
def loadedImage (o : VOp) (got : List (Nat × Byte)) : List (Nat × Byte) := o.mem.map fun p => (p.1, gotByte got p.2)

/-- The store bytes that a vector load writes, from its image (R361, R363, R365): covered byte of place i, or four containers for 3 bytes of T6. -/
def unimage (t : Ty) (covered : List Nat) (im : List (Nat × Byte)) : List (Nat × Byte) :=
  if t = .t6 then
    (pieces 3 im.length im).flatMap fun g =>
      let i := (g.headD (0, 0)).1 / 3 * 4
      ((unpackT6 (g.map (·.2))).zip (List.range 4)).map fun p => (covered.getD (i + p.2) 0, p.1)
  else im.map fun p => (covered.getD p.1 0, p.2)

/-- The element type of a memory form. -/
def memTy : Instr → Ty
  | .vld _ t .. | .vst _ t .. | .vldl _ t .. | .vstl _ t .. | .vgath _ t .. | .vscat _ t .. | .mbld _ t .. | .mtld _ t .. | .mtldRb _ t .. => t
  | .mmaRa _ t .. => mmaElem t
  | _ => .i8

/-- A container of T6 as every access reads or writes it: bits [7:6] do not count (R257). -/
def container (t : Ty) (b : Byte) : Byte := if t = .t6 then b &&& 0x3F else b

/-- The bytes that a vector store sends, as (location, byte), in order: a later one prevails (R365). -/
def storePairs (s : State) (key : Nat) (o : VOp) : List (Nat × Byte) :=
  let covered := rangeOffs (viewRows o.vd 256)
  let bs := (readStore s key o.ctx covered).1
  let im := match o.instr with | .vst _ t .. => toImage t bs | i => bs.map (container (memTy i))
  o.mem.map fun p => (p.2, im.getD p.1 0)

/-- Keep the last of several bytes for one location. -/
def lastWins (ps : List (Nat × Byte)) : List (Nat × Byte) :=
  ps.foldr (fun p l => if l.any fun q => q.1 == p.1 then l else p :: l) []

/-! ### Requests of a load -/

/-- Whether a vector or matrix load carries NA; an MMA.RA never allocates (R392). -/
def opNa : Instr → Bool
  | .vld _ _ _ m | .vgath _ _ _ m _ _ | .mbld _ _ _ m _ | .mtld _ _ _ m _ _ _ | .mtldRb _ _ _ m _ _ _ => m.na
  | _ => true

/-- Start the reads of a load beyond the core: hits of the reuse buffer arrive at once, other lines are requested (R201, R214). -/
def startLoads (s : State) (key : Nat) (o : VOp) (id : Nat) : State × Flight :=
  let locs := o.mem.map (·.2)
  let sel := opSpace o.instr
  let cached := !opNa o.instr && (sel == some .glb || sel == some .cls || sel == some .twr)
  (linesOf locs).foldl (fun (a : State × Flight) ln =>
    let ls := (locs.filter fun l => lineOf l = ln).dedup
    let loc := ls.headD 0
    let ms := o.ms.contains ln
    let may := cached && !ms && reusable loc
    match if may then (a.1.core key).heldLine loc else none with
    | some l =>
      let s := countPmc (a.1.modCore key fun c => lrbTouch c loc) key (some o.ctx) 11 1
      (poisIf s key o.ctx (ls.any l.poisAt), { a.2 with got := a.2.got ++ ls.map fun x => (x, l.bytes.getD (x % 64) 0) })
    | none =>
      let s := if may then countPmc a.1 key (some o.ctx) 12 1 else a.1
      let s := sendReq s { reqOf key o.ctx (.load ls) loc none with dst := .flight id, ms, alloc := may, glb := sel == some .glb }
      (s, { a.2 with left := a.2.left + 1 })) (s, { id, op := o, left := 0, got := [] })

/-- Whether a load carries LU (R196). -/
def opLu : Instr → Bool
  | .vld _ _ _ m | .vgath _ _ _ m _ _ => m.lu
  | _ => false

/-- Read a load of the own spm or lane in one step, killing its words under LU (R191, R211). -/
def ownLoad (s : State) (key : Nat) (o : VOp) : List (Nat × Byte) × State :=
  let locs := o.mem.map (·.2)
  let (bs, p, s) := readHome s (isFw key) locs
  let s := if opLu o.instr then killWords s locs else s
  (locs.zip bs, poisIf s key o.ctx p)

/-- A vector load's data have arrived: VLD unpacks T6, and VLDL loads its containers (R257, R361, R363). -/
def finishVload (s : State) (key : Nat) (o : VOp) (got : List (Nat × Byte)) : State :=
  let im := loadedImage o got
  let covered := rangeOffs (viewRows o.vd 256)
  writeStore s key o.ctx (match o.instr with
    | .vld _ t .. => unimage t covered im
    | i => unimage .i8 covered (im.map fun p => (p.1, container (memTy i) p.2)))

/-- A vector load at its grant. -/
def grantVload (s : State) (key : Nat) (o : VOp) : State :=
  let s := applyKills s key o
  if opOwn o then
    let (got, s) := ownLoad s key o
    finishVload s key o got
  else
    let id := s.nextId
    let (s, f) := startLoads { s with nextId := id + 1 } key o id
    if f.left = 0 then finishVload s key o f.got else s.modCore key fun c => { c with fly := c.fly ++ [f] }

/-- A vector store at its grant (R362, R365): VSCAT's overlapping bytes are merged first. -/
def grantVstore (s : State) (key : Nat) (o : VOp) : State :=
  let ps := storePairs s key o
  let ps := match o.instr with | .vscat .. => lastWins ps | _ => ps
  let s := applyKills s key o
  if opOwn o then writePieces s (isFw key) ps
  else (postFor (s.modCore key fun c => lrbStore c ps) key o.ctx o.ms .none ps).2

/-- A vector instruction at the grant of its last quarter. -/
def runVector (s : State) (key : Nat) (o : VOp) : State :=
  let n := o.ctx
  let s := poisIf s key n (readPoison s key o)
  match o.instr with
  | .vld .. | .vldl .. | .vgath .. => grantVload s key o
  | .vst .. | .vstl .. | .vscat .. => grantVstore s key o
  | .vcmp _ k t d _ _ =>
    let rs := ((viewElems s key n o.va t).zip (viewElems s key n o.vb t)).map fun p => cmpElem k t p.1 p.2
    let r := cmpPred ((s.ctx key n).readP d) o.mask t rs
    (finishWrite s key o [] r.2).modCtx key n fun c => c.writeP d r.1
  | .vpand _ _ d _ _ => s.modCtx key n fun c => c.writeP d (mergeMask (c.readP d) (o.pa &&& o.pb) o.mask)
  | .vpor _ _ d _ _ => s.modCtx key n fun c => c.writeP d (mergeMask (c.readP d) (o.pa ||| o.pb) o.mask)
  | .vpnot _ _ d _ => s.modCtx key n fun c => c.writeP d (mergeMask (c.readP d) (~~~o.pa) o.mask)
  | .vpcnt .. => pushQ4 s key n (BitVec.ofNat 64 (((List.range 256).filter fun i => (o.pa &&& o.mask).getLsbD i).length))
  | .vext _ t _ idx => pushQ4 (finishWrite s key o [] 0) key n (extWord t ((viewElems s key n o.va t).getD idx.toNat 0))
  | .vred _ op t _ r =>
    let x := redAll op t (rmOf r o.rm) o.mask (viewElems s key n o.va t)
    pushQ4 (finishWrite s key o [] x.2) key n x.1
  | .vbs _ _ _ _ w16 r =>
    let x := vbsAll w16 (rmOf r o.rm) (viewElems s key n o.va .f32)
    finishWrite s key o ((x.1.zip (List.range x.1.length)).map fun p => (viewBase o.vd * 64 + p.2, p.1)) x.2
  | _ =>
    match vecResult s key o with
    | some (t, r) => finishWrite s key o (placeRes o.vd t r.out) r.flags
    | none => s

/-- Cycles per quarter (R355). -/
def quarterCost : Instr → Nat
  | .vmul _ t .. | .vfma _ t .. => if t = .i64 then 2 else 1
  | .vrcp .. | .vrsq .. | .vexp2 .. => 4
  | .vext .. | .vred .. | .vscan .. | .vperm .. | .vshuf .. | .vslide .. | .vbs .. | .vunbs .. => 2
  | _ => 1

end Sys2Proof.Machine
end

