-- ==== Sys2Proof/Machine/MatrixExec.lean ====
section
/-! DEFINITION. What a matrix instruction does when the MXU takes it (R387 to R403): products, tile loads, the torus exchange of MMAR, the epilogue
buffer of MEPI, and the tile reads that an MMA.RA makes ahead. -/

namespace Sys2Proof.Machine

/-! ### Tiles -/

/-- Rows of an A or C view, as bytes. -/
def viewTile (s : State) (key : Nat) (n : Bool) (w : Word) : List (List Byte) :=
  (viewRows w 256).map fun r => (readStore s key n ((List.range r.2).map fun i => r.1 + i)).1

/-- Bytes of slice j of a quad's B-SRAM. -/
def sliceBytes (s : State) (quad j lo n : Nat) : List Byte := (List.range n).map fun i => s.byteAt (locBs quad j (lo + i))

/-- Write a piece of B-SRAM (R388). -/
def putPiece (s : State) (p : Nat × List Byte) : State :=
  cleanPoison (s.putRaw p.1 p.2) ((List.range p.2.length).map (p.1 + ·))

/-- Bytes of each slice that a product reads of its B tile: K, and the block exponents where it uses them or an MMAR sends them (R385, R393). -/
def bLen (o : VOp) : Nat :=
  match o.instr with
  | .mma _ _ _ _ _ _ bs => if bs.isSome then bvLen o.bv else viewK o.bv
  | .mmar .. => bvLen o.bv
  | .mmaRa .. => viewK o.bv
  | _ => 0

/-- The B tile is read in 8-byte pieces: each that a free value names, as it stands now (R388). -/
def readB (s : State) (key : Nat) (e : VEntry) : VEntry :=
  let n := bLen e.op / 8
  let at_ (p : Nat) : Nat := bvBase e.op.bv + p % n * 8
  let r := pick s.tick e.btodo
  { e with btodo := r.2
           bgot := e.bgot ++ r.1.map fun p => (p, if s.poisonAt (locBs (quadOf key) (p / n) (at_ p)) then List.replicate 8 0
                                                  else sliceBytes s (quadOf key) (p / n) (at_ p) 8)
           bpois := e.bpois || r.1.any fun p => s.poisonAt (locBs (quadOf key) (p / n) (at_ p)) }

/-- The 32 columns of a B tile that has been read. -/
def VEntry.bCols (e : VEntry) : List (List Byte) :=
  let n := bLen e.op / 8
  (List.range 32).map fun j => (List.range n).flatMap fun i => ((e.bgot.find? fun p => p.1 == j * n + i).map (·.2)).getD (List.replicate 8 0)

/-- Rows of a C view's elements as store bytes. -/
def placeAcc (w : Word) (rows : List (List Nat)) : List (Nat × Byte) :=
  ((viewRows w 256).zip rows).flatMap fun p => (p.2.flatMap (bytesOfNat 4)).zip (List.range 128) |>.map fun b => (p.1.1 + b.2, b.1)

/-- A sum of the MXU: RNE whatever RM holds, and every NaN result is the default NaN (R263, R396). -/
def mxuSum (x y : Nat) : ElemRes :=
  let (v, f) := fpAdd 23 .rne x y
  (match unpack 23 v with | .nan _ => defNan 23 | _ => v, f)

/-- Every pair of a row of A and a column of B with the accumulator's element between them. -/
def product (accs : List (List Nat)) (f : Nat → Nat → Nat → ElemRes) : List (List Nat) × Nat :=
  (accs.zip (List.range 32)).foldl (fun (r : List (List Nat) × Nat) row =>
    let xs := (row.1.zip (List.range 32)).map fun x => f row.2 x.2 x.1
    (r.1 ++ [xs.map (·.1)], xs.foldl (fun g x => g ||| x.2) r.2)) ([], 0)

/-- The multiply of MMA, MMA.RA and MMAR (R390, R391), given the rows of A and the columns of B with their exponents. -/
def multiply (s : State) (key : Nat) (o : VOp) (t : MmaTy) (ov bs : Bool) (aRows cols : List (List Byte)) : List (List Nat) × Nat :=
  let ty := mmaElem t
  let as := aRows.map (elems ty)
  let bsl := cols.map fun c => elems ty (c.take (viewK o.bv))
  let accs := if ov then List.replicate 32 (List.replicate 32 0) else (viewTile s key o.ctx o.vd).map (elems .i32)
  if bs then
    let xa := (readStore s key o.ctx (rangeOffs [(viewBase o.vc * 64, 128)])).1.map (·.toNat)
    let k := viewK o.bv
    let eb := cols.map fun c => ((c.drop k).take (k / 64)).map (·.toNat)
    product accs fun i j acc => mmaElemBs acc (as.getD i []) (bsl.getD j []) ((xa.drop (4 * i)).take (k / 64)) (eb.getD j [])
  else product accs fun i j acc => mmaElemAcc t acc (as.getD i []) (bsl.getD j [])

/-! ### MMAR (R393) -/

/-- The west neighbour of a quad on the cluster torus (R18, R393). -/
def westQuad (q : Nat) : Nat := q / 4 * 4 + (q % 4 + 3) % 4
/-- The north neighbour. -/
def northQuad (q : Nat) : Nat := q / 16 * 16 + (q % 16 / 4 + 3) % 4 * 4 + q % 4

/-- Send the tiles of an MMAR to its neighbours under its number (R389, R393). -/
def sendTiles (s : State) (key : Nat) (e : VEntry) (src : Nat) : State :=
  let q := quadOf key
  let t : TorusTile := { quad := westQuad q, pos := posOf key, isA := true, mrseq := e.seq, sender := key, src, k := viewK e.op.va, rows := e.rows }
  s.modCluster (clusterOf key) fun c =>
    { c with torus := c.torus ++ [t, { t with quad := northQuad q, isA := false, k := viewK e.op.bv, rows := e.bCols }] }

/-- Bytes of a row or column that a receiver writes (R393): all when the K agree, else the first min of the two. -/
def received (own sender : Nat) (bs : List Byte) : List Byte := if own = sender then bs else bs.take (min own sender)

/-- Write a partner's A tile over an MMAR's A view: a T6 container has its bits [7:6] zero (R257). -/
def writeTileA (s : State) (key : Nat) (o : VOp) (t : TorusTile) : State :=
  let ty := (viewTy o.va).getD .i8
  writeStore s key o.ctx (((viewRows o.va 256).zip t.rows).flatMap fun p =>
    let bs := ((received (viewK o.va) t.k p.2).take p.1.2).map (container ty)
    (bs.zip (List.range bs.length)).map fun b => (p.1.1 + b.2, b.1)) true

/-- Bytes of a slice of a quad as pieces of 8, from a byte on. -/
def slicePieces (quad j lo : Nat) (bs : List Byte) : List (Nat × List Byte) :=
  (List.range ((bs.length + 7) / 8)).map fun i => (locBs quad j (lo + 8 * i), (bs.drop (8 * i)).take 8)

/-- A partner's B tile over an MMAR's B region, as the pieces in which it is written (R388, R393). -/
def tileB (key : Nat) (o : VOp) (t : TorusTile) : List (Nat × List Byte) :=
  (t.rows.zip (List.range 32)).flatMap fun p =>
    slicePieces (quadOf key) p.2 (bvBase o.bv) ((received (viewK o.bv) t.k p.1).take (bvLen o.bv))

/-! ### Tile loads (R398 to R400) -/

/-- The image bytes of a tile load, by place. -/
def imageAt (im : List (Nat × Byte)) (lo n : Nat) : List Byte := (List.range n).map fun i => gotByte im (lo + i)

/-- Rows of A, or columns of B, as store bytes, with their exponents, and the flags (R398 to R400). hi is H. -/
def tileOf (t : Ty) (blk ke : Nat) (hi : Bool) (im : List (Nat × Byte)) : List (List Byte × List Byte) × Nat :=
  match blk with
  | 0 =>
    let rows := (List.range ke).map fun k => unpackRow t (imageAt im (k * rowBytes t) (rowBytes t))
    ((List.range 32).map fun i => (storeRow t (rows.map fun r => r.getD i 0), []), 0)
  | 1 =>
    ((List.range 32).map fun c =>
      let bl := (List.range (ke / 64)).map fun b => imageAt im ((b * 32 + c) * 72) 65
      (bl.flatMap fun x => x.take 64, bl.map fun x => x.getD 64 0), 0)
  | _ =>
    let rows := (List.range ke).map fun k =>
      let b := blockParts false (imageAt im (k * 72) 65)
      (((b.1.drop (if hi then 32 else 0)).take 32), b.2)
    let r := reblock rows
    (r.1.map fun x => (x.1.map fun m => BitVec.ofNat 8 (bitsOf 8 m), x.2.map fun e => BitVec.ofNat 8 e), r.2)

/-- Elements along K of a view of K bytes (R386). -/
def keOf (t : Ty) (k : Nat) : Nat := match t with | .i4 => 2 * k | .bf16 => k / 2 | _ => k

/-- The element type of a tile load, and whether it takes the upper half of a row-blocked copy. -/
def tileForm : Instr → Option (Ty × Bool)
  | .mbld _ t .. => some (t, false)
  | .mtld _ t _ _ _ _ hi | .mtldRb _ t _ _ _ _ hi => some (t, hi)
  | _ => none

/-- Whether it is a tile load. -/
def isTileLoad (o : VOp) : Bool := (tileForm o.instr).isSome

/-- The view that a tile load writes. -/
def tileView (o : VOp) : Word := if usesB o then o.bv else o.vd

/-- What a tile load makes of the image bytes that it has: each column with its exponents behind it, and the flags. Of a B view the exponents take 32
bytes, of an A view 4 (R399). -/
def tileCols (o : VOp) (got : List (Nat × Byte)) : List (List Byte) × Nat :=
  match tileForm o.instr with
  | none => ([], 0)
  | some (t, hi) =>
    let (cols, f) := tileOf t o.blk (keOf t (viewK (tileView o))) hi (loadedImage o got)
    let room := if o.blk = 0 then 0 else if usesB o then 32 else 4
    (cols.map fun p => p.1 ++ (p.2 ++ List.replicate (room - p.2.length) 0), f)

/-- The places of the image that have arrived, a bit each. -/
def arrivedPlaces (o : VOp) (got : List (Nat × Byte)) : Nat :=
  o.mem.foldl (fun m p => if got.any fun b => b.1 == p.2 then m ||| 2 ^ p.1 else m) 0

/-- The runs of the image (first place, length) that piece i of column c is made of: the stored rows of its elements, or the blocks that hold them; of
the exponents every block's (R398 to R400). -/
def pieceNeeds (t : Ty) (blk k c i : Nat) : List (Nat × Nat) :=
  let blocks := if 8 * i < k then [8 * i / 64] else List.range (k / 64)
  let rows (x : Nat) : List Nat := match t with | .i4 => [2 * x, 2 * x + 1] | .bf16 => [x / 2] | _ => [x]
  match blk with
  | 0 => (((List.range 8).flatMap fun j => rows (8 * i + j)).dedup).map fun r => (r * rowBytes t, rowBytes t)
  | 1 => blocks.map fun b => ((b * 32 + c) * 72, 65)
  | _ => blocks.flatMap fun b => (List.range 64).map fun r => ((64 * b + r) * 72, 65)

/-- Piece i of column c can be written. -/
def pieceReady (t : Ty) (blk k mask c i : Nat) : Bool := (pieceNeeds t blk k c i).all fun r => mask / 2 ^ r.1 % 2 ^ r.2 == 2 ^ r.2 - 1

/-- Replace a flight. -/
def putFlight (s : State) (key : Nat) (f : Flight) : State :=
  s.modCore key fun c => { c with fly := c.fly.map fun x => if x.id = f.id then f else x }

/-- Data of a tile load are written as they arrive (R398): the pieces of 8 bytes that have become complete go into the A view and its exponent view, not
if the task was killed, or stand to be written to B-SRAM, which a kill does not touch (R242, R384). -/
def placeTile (s : State) (key : Nat) (f : Flight) : State :=
  let o := f.op
  let t := ((tileForm o.instr).map (·.1)).getD .i8
  let k := viewK (tileView o)
  let cols := (tileCols o f.got).1
  let mask := arrivedPlaces o f.got
  let n := ((cols.headD []).length + 7) / 8
  let ready := (List.range (32 * n)).filter fun p => !f.placed.contains p && pieceReady t o.blk k mask (p / n) (p % n)
  let piece (p : Nat) : List Byte := ((cols.getD (p / n) []).drop (8 * (p % n))).take 8
  if usesB o then
    putFlight s key { f with placed := f.placed ++ ready
                             out := f.out ++ ready.map fun p => (locBs (quadOf key) (p / n) (bvBase o.bv + 8 * (p % n)), piece p) }
  else
    let rows := viewRows o.vd 256
    let off (p : Nat) : Nat := if 8 * (p % n) < k then (rows.getD (p / n) (0, 0)).1 + 8 * (p % n) else viewBase o.vb * 64 + 4 * (p / n)
    let s := putFlight s key { f with placed := f.placed ++ ready }
    if f.dead || ready.isEmpty then s
    else writeStore s key o.ctx (ready.flatMap fun p => (piece p).zip (List.range 8) |>.map fun b => (off p + b.2, b.1)) true

/-- A granted tile load or MMAR is complete: its data have arrived and are written; an MMAR's own tiles are delivered too (R393, R398). -/
def flightDone (s : State) (key : Nat) (f : Flight) : Bool :=
  match f.op.instr with
  | .mbld .. | .mtld .. | .mtldRb .. => f.left == 0 && f.out.isEmpty
  | .mmar .. => !f.needA && !f.needB && f.out.isEmpty && !((s.cluster (clusterOf key)).torus.any fun t => t.src == f.id)
  | _ => false

/-- Granted instructions that are complete leave, with the flags of a re-blocking. -/
def endFlights (s : State) (key : Nat) : State :=
  let done := (s.core key).fly.filter (flightDone s key)
  done.foldl (fun s f => if f.dead then s else flagCtx s key f.op.ctx (tileCols f.op f.got).2)
    (s.modCore key fun c => { c with fly := c.fly.filter fun f => !(done.any fun d => d.id == f.id) })

/-- B-SRAM pieces of one granted instruction are written, those that a free value names (R388). -/
def writeOut (s : State) (key id : Nat) : State :=
  match (s.core key).fly.find? fun f => f.id == id with
  | none => s
  | some f =>
    let r := pick s.tick f.out
    r.1.foldl putPiece (putFlight s key { f with out := r.2 })

/-- The B-SRAM pieces of a core's granted instructions are written, and what is complete leaves. -/
def landTiles (s : State) (key : Nat) : State :=
  endFlights (((s.core key).fly.filter fun f => !f.out.isEmpty).foldl (fun s f => writeOut s key f.id) s) key

/-- A tile load at its grant. -/
def grantTile (s : State) (key : Nat) (o : VOp) : State :=
  let id := s.nextId
  let s := { s with nextId := id + 1 }
  let (s, f) : State × Flight :=
    if opOwn o then (let r := ownLoad s key o; (r.2, { id, op := o, left := 0, got := r.1 })) else startLoads s key o id
  endFlights (placeTile (s.modCore key fun c => { c with fly := c.fly ++ [f] }) key f) key

/-! ### MEPI (R401 to R403) -/

/-- The output type, the scale, the column-scale view's presence and the rounding of a MEPI. -/
def mepiParts : Instr → Option (Ty × Nat × Bool × Rnd)
  | .mepi96 _ t _ _ _ _ cols r => some (t, 0x3F800000, cols.isSome, r)
  | .mepi128 _ t _ _ _ scale _ cols r => some (t, scale.toNat, cols.isSome, r)
  | _ => none

/-- The address to which a MEPI stores row i of its tile (R401). -/
def mepiRow (o : VOp) (i : Nat) : Nat := (o.sa.toNat + i * o.sc.toNat) % 2 ^ 64

/-- A MEPI at its grant: the accumulator is read and converted, its entry holds the rows, and LC leaves the granules KILLPEND (R403). -/
def grantMepi (s : State) (key : Nat) (o : VOp) : State :=
  match mepiParts o.instr with
  | none => s
  | some (t, scale, cols, r) =>
    let c := (viewTy o.vc).getD .i32
    let accs := (viewTile s key o.ctx o.vc).map (elems .i32)
    let ds := if cols then viewElems s key o.ctx o.vd .f32 else []
    let (rows, f) := product accs fun _ j acc => epiElem c t (rmOf r o.rm) acc scale (if cols then some (ds.getD j 0) else none)
    let er := (rows.zip (List.range 32)).map fun p => ({ addr := mepiRow o p.2, bytes := packRow t p.1 } : EpiRow)
    let kills := killsOf o
    let e : Epi := { id := s.nextId, pos := posOf key, op := o, rows := er, left := 0, kill := granMask kills,
                     asid := (s.ctx key o.ctx).asid }
    let s := flagCtx (applyKills { s with nextId := s.nextId + 1 } key o) key o.ctx f
    s.modQuad (quadOf key) fun q => { q with epi := q.epi ++ [e] }

/-- The core of a quad's position. -/
def quadCore (quad : Nat) (p : Fin 4) : Nat := quad * 4 + p.val

/-- The space of a MEPI's stores. -/
def epiSpace (o : VOp) : Space := (opSpace o.instr).getD .glb

/-- The ASID under which an entry's rows are translated: its context's, or of a task that has gone from its slot the one it had. -/
def epiAsid (s : State) (quad : Nat) (e : Epi) : BitVec 16 := if e.dead || e.area.isSome then e.asid else (s.ctx (quadCore quad e.pos) e.op.ctx).asid

/-- What a row meets when it is written (R230, R403). -/
def epiResolve (s : State) (quad : Nat) (e : Epi) (r : EpiRow) : Except FaultInfo (List Nat × List Nat) :=
  let key := quadCore quad e.pos
  resolveBytes s (isFw key) key (epiAsid s quad e) (epiSpace e.op) wrUse (addrRange r.addr r.bytes.length)

/-- What the translation of a row leaves behind: its pages in the TLB (R204). -/
def epiTranslated (s : State) (quad : Nat) (e : Epi) (r : EpiRow) : State :=
  let key := quadCore quad e.pos
  if epiSpace e.op == .glb then tlbFills s (isFw key) (clusterOf key) (epiAsid s quad e) (addrRange r.addr r.bytes.length) else s

/-- Rows of an earlier MEPI of the same task are still to be sent: the rows of one context are issued in program order (R210 to R212). -/
def rowsBefore (s : State) (quad : Nat) (e : Epi) : Bool :=
  ((s.quad quad).epi.takeWhile fun x => x.id != e.id).any fun x =>
    x.pos == e.pos && x.op.ctx == e.op.ctx && x.dead == e.dead && x.area == e.area && !x.parked && !x.rows.isEmpty

/-- Whether every row of an entry has been sent and acknowledged. -/
def Epi.done (e : Epi) : Bool := e.rows.isEmpty && e.left == 0

/-- Replace an entry of a quad's epilogue buffer; one that is done and holds no pending kill is freed at once. -/
def putEpi (s : State) (quad : Nat) (e : Epi) : State :=
  s.modQuad quad fun q => { q with epi := (q.epi.map fun x => if x.id = e.id then e else x).filter fun x => !(x.id = e.id && x.done && x.kill == 0) }

/-- Send the next row of an entry if its banks, lines and counts allow; a row that faults is left to EPI_STORE_FAULT. The flag says whether
a row was sent. -/
def sendRow (s : State) (quad : Nat) (e : Epi) : State × Bool :=
  match e.rows with
  | [] => (s, false)
  | r :: rest =>
    if e.parked || rowsBefore s quad e then (s, false)
    else
      let key := quadCore quad e.pos
      match epiResolve s quad e r with
      | .error _ => (s, false)
      | .ok (ls, ms) =>
        let ps := ls.zip r.bytes
        let s := epiTranslated s quad e r
        if epiSpace e.op == .spm then
          let banks := ((spmNeeds s true ls).map (·.2)).dedup
          let s := touchBanks s key .spm banks
          if banksFull (s.core key) .spm banks then (putEpi (writePieces s (isFw key) ps) quad { e with rows := rest }, true) else (s, false)
        else if s.linesBusy key e.op.ctx (linesOf ls) || !roomOf s key e.op.ctx ((linesOf ls).map (· * 64)) then (s, false)
        else
          let (ids, s) := postFor (s.modCore key fun c => lrbStore c ps) key e.op.ctx ms (.epi quad e.id) ps
          (putEpi s quad { e with rows := rest, left := e.left + ids.length }, true)

/-- Send the rows of a quad's epilogue buffer that can go: n bounds the rows. -/
def pumpEpi (s : State) (quad : Nat) : Nat → State
  | 0 => s
  | n + 1 =>
    let r := (s.quad quad).epi.foldl (fun (a : State × Bool) e => if a.2 then a else sendRow a.1 quad e) (s, false)
    if r.2 then pumpEpi r.1 quad n else r.1

/-- The rows of a quad's entries advance. -/
def advanceEpi (s : State) (quad : Nat) : State := pumpEpi s quad 128

/-! ### MMA.RA (R392) -/

/-- Whether an entry is an MMA.RA. -/
def isMmaRa (e : VEntry) : Bool := match e.op.instr with | .mmaRa .. => true | _ => false

/-- The first entry whose tile reads may begin, and its place in the queue: among the first of its context that the depth of its push allows, every
earlier memory instruction of the context issued, and room for its tile in the core's buffer of 8, which both contexts fill, with places kept for the
entries before it. -/
def tileDue (s : State) (key : Nat) : Option (VEntry × Nat) :=
  let c := s.core key
  (c.vq.zip (List.range c.vq.length)).find? fun p =>
    let e := p.1
    let before := (c.vq.take p.2).filter fun x => x.op.ctx == e.op.ctx
    let full := ((c.vq.take p.2).filter isMmaRa).length + ((c.vq.drop (p.2 + 1)).filter fun x => isMmaRa x && x.tile.isSome).length
    isMmaRa e && e.tile.isNone && !e.dead
      && decide ((before.filter isMmaRa).length < e.depth) && decide (full < 8)
      && (before.all fun x => !accessesMemory x.op.instr || x.tile.isSome)
      && !((s.episOf key e.op.ctx).any fun x => !x.parked && !x.rows.isEmpty)
      && !s.linesBusy key e.op.ctx (opLines e.op)

/-- Begin the tile reads that are due: n bounds them. -/
def startTiles (s : State) (key : Nat) : Nat → State
  | 0 => s
  | k + 1 =>
    match tileDue s key with
    | none => s
    | some (e, i) =>
      let id := s.nextId
      let (s, f) := startLoads { s with nextId := id + 1 } key e.op id
      startTiles (s.modCore key fun c => { c with fly := c.fly ++ [f], vq := lset c.vq i { e with tile := some id } }) key k

/-- The rows of A that an MMA.RA's tile holds. -/
def raRows (o : VOp) (t : MmaTy) (got : List (Nat × Byte)) : List (List Byte) :=
  let im := loadedImage o got
  let k := viewK o.vc
  let n := if t = .t6 then k * 3 / 4 else k
  (List.range 32).map fun r => let bs := imageAt im (r * n) n; if t = .t6 then unpackT6 bs else bs

/-! ### Grants -/

/-- The accumulator after a product, with the instruction's kills and flags. -/
def endProduct (s : State) (key : Nat) (e : VEntry) (t : MmaTy) (ov bs : Bool) (aRows : List (List Byte)) : State :=
  let r := multiply s key e.op t ov bs aRows e.bCols
  finishWrite s key e.op (placeAcc e.op.vd r.1) r.2

/-- A granted MMAR has read its operands: it sends them on, and waits for its partners' (R393). -/
def rotate (s : State) (key : Nat) (e : VEntry) : State :=
  let fl : Flight := { id := s.nextId, op := e.op, left := 0, got := [], dead := e.dead, mrseq := e.seq, needA := true, needB := true }
  (sendTiles { s with nextId := s.nextId + 1 } key e fl.id).modCore key fun c => { c with fly := c.fly ++ [fl] }

/-- The effect of a matrix instruction as the MXU has taken it, its B tile read (R387). Of one whose task was killed meanwhile nothing is written, but
an MMAR still sends its tiles (R242, R394). -/
def runMatrix (s : State) (key : Nat) (e : VEntry) : State :=
  let o := e.op
  let n := o.ctx
  if e.dead then (if isMmar o then rotate s key e else s)
  else
    let s := poisIf s key n (readPoison s key o || e.bpois)
    match o.instr with
    | .mbld .. | .mtld .. | .mtldRb .. => grantTile s key o
    | .mma _ t _ _ _ ov bs => endProduct s key e t ov bs.isSome e.rows
    | .mmaRa _ t _ _ _ ov _ _ =>
      match (s.core key).fly.find? fun f => e.tile == some f.id with
      | none => s
      | some fl => endProduct (s.modCore key fun c => { c with fly := c.fly.filter fun x => x.id ≠ fl.id }) key e t ov false (raRows o t fl.got)
    | .mmar _ t _ _ _ ov bs => rotate (endProduct s key e t ov bs.isSome e.rows) key e
    | .mzero .. => finishWrite s key o (placeAcc o.vd (List.replicate 32 (List.replicate 32 0))) 0
    | .macc _ t _ _ sat =>
      let c := (viewTile s key n o.vd).map (elems .i32)
      let a := (viewTile s key n o.va).map (elems .i32)
      let (rows, f) := product c fun i j x =>
        let y := (a.getD i []).getD j 0
        if t = .i32 then intResult .i32 sat (intOf .i32 x + intOf .i32 y) else mxuSum x y
      finishWrite s key o (placeAcc o.vd rows) f
    | .mepi96 .. | .mepi128 .. => grantMepi s key o
    | _ => s

/-- A matrix instruction is granted (R387): it begins to read its B tile, the rows of A standing ready, and an MMAR takes its number (R389). -/
def beginMatrix (s : State) (key : Nat) (e : VEntry) : State × VEntry :=
  let e := { e with quarters := 1, btodo := List.range (4 * bLen e.op), rows := viewTile s key e.op.ctx e.op.va }
  if isMmar e.op then
    let seq := e.seqSet.getD (s.core key).mrseq
    (s.modCore key fun c => { c with mrseq := seq + 1 }, { e with seq })
  else (s, e)

/-- Occupancy of the MXU in cycles (R387). -/
def mxuCost (o : VOp) : Nat :=
  match o.instr with
  | .mma _ t .. | .mmaRa _ t .. | .mmar _ t .. =>
    let k := viewK o.bv
    if t = .t6 then max 8 (k / 8) else max 8 (keOf (mmaElem t) k / 4)
  | .mzero .. => 4
  | .macc .. => 8
  | .mepi96 .. | .mepi128 .. => 16
  | _ => 2

/-! ### Completion of loads and exchanges -/

/-- A vector load whose data have all arrived writes its destination; a killed load or tile read goes (R242). -/
def finishFlight (s : State) (key : Nat) (f : Flight) : State :=
  match f.op.instr with
  | .mmaRa .. => if f.dead then s.modCore key fun c => { c with fly := c.fly.filter fun x => x.id ≠ f.id } else s
  | _ =>
    let s := s.modCore key fun c => { c with fly := c.fly.filter fun x => x.id ≠ f.id }
    if f.dead then s else finishVload s key f.op f.got

/-- Bytes of a request arrive for a flight. -/
def arriveFlight (s : State) (key : Nat) (id : Nat) (bs : List (Nat × Byte)) : State :=
  match (s.core key).fly.find? fun f => f.id == id with
  | none => s
  | some f =>
    let f := { f with left := f.left - 1, got := f.got ++ bs }
    let s := putFlight s key f
    if isTileLoad f.op then endFlights (placeTile s key f) key
    else if f.left = 0 then finishFlight s key f else s

/-- MMARs of a context that have been granted and are not complete, by id (R393). -/
def mmarsOf (s : State) (key : Nat) (n : Bool) : List Nat := ((s.core key).fly.filter fun f => f.op.ctx == n && isMmar f.op).map (·.id)

/-- The tile on the torus for the MMAR of a flight. -/
def tileFor (s : State) (key : Nat) (f : Flight) (isA : Bool) : Option TorusTile :=
  (s.cluster (clusterOf key)).torus.find? fun t => t.quad == quadOf key && t.pos == posOf key && t.isA == isA && t.mrseq == f.mrseq

/-- Take a partner's tile that has come for an MMAR, and with it complete its sender's delivery (R393); of a killed one the writes are discarded. -/
def receiveTile (s : State) (key id : Nat) (isA : Bool) : State :=
  match (s.core key).fly.find? fun f => f.id == id with
  | none => s
  | some f =>
    match if (if isA then f.needA else f.needB) then tileFor s key f isA else none with
    | none => s
    | some t =>
      let s := s.modCluster (clusterOf key) fun c => { c with torus := c.torus.erase t }
      let s := putFlight s key { f with needA := f.needA && !isA, needB := f.needB && isA
                                        out := if isA || f.dead then f.out else f.out ++ tileB key f.op t }
      endFlights (if isA && !f.dead then writeTileA s key f.op t else s) t.sender

/-- Take from the torus the partner tiles that have come for a context's MMARs; pieces of B tiles are written, and what is complete leaves. -/
def receiveTiles (s : State) (key : Nat) (n : Bool) : State :=
  landTiles ((mmarsOf s key n).foldl (fun s id => receiveTile (receiveTile s key id true) key id false) s) key

end Sys2Proof.Machine
end

