-- ==== Sys2Proof/Machine/Groups.lean ====
section
/-! DEFINITION. Membership groups at their synchronisation controllers (R139, R143, R170 to R174, R345, R346). -/

namespace Sys2Proof.Machine

/-- Whether a context is a member of a group: an entry of its table holds the group's present epoch (R171). -/
def isMember (s : State) (key : Nat) (n : Bool) (g : Nat) : Bool :=
  (s.ctx key n).members.toList.any fun e => e == some (g, (s.group g).epoch)

/-- An entry counts as empty when it is unused or stale (R171). -/
def entryFree (s : State) (e : Option (Nat × BitVec 16)) : Bool :=
  match e with
  | none => true
  | some (g, ep) => ep != (s.group g).epoch

/-- Tower whose controller holds a group (R170). -/
def groupTower (g : Nat) : Nat := g / 1024 % 4

/-- Mesh column of an agent, for stagger (R18, R139). The global scheduler core lies in no cluster: column 0 (DESIGN CHOICE, log entry 14). -/
def meshCol (key : Nat) : Nat := if isTile key then key / 64 % 8 else if clusterOf key < 80 then clusterOf key % 5 else 0

/-- `SSCFG.STAGGER` in force at a tower (R140). -/
def State.staggerOf (s : State) (t : Nat) : Nat := if s.feat 8 then (s.tower t).stagger.toNat else 0
/-- `SSCFG.RSTEP` in force at a tower (R140). -/
def State.rstepOf (s : State) (t : Nat) : BitVec 8 := if s.feat 9 then (s.tower t).rstep else 0

/-- Send a release to every waiter of a group. at_ is none for a release that is not timed (R139). -/
def releaseAll (s : State) (g : Nat) (code : Nat) (at_ : Option Nat) (pod : Bool := false) : State :=
  let t := groupTower g
  let batch := s.nextId
  let s := (s.group g).waiters.foldl (fun (s : State) w =>
    let col := meshCol w.key
    let r : Release :=
      { id := s.nextId, key := w.key, ctx := w.ctx, code, sstep := at_.isSome
        at_ := match at_ with | some t0 => t0 + col * s.staggerOf t | none => 0
        rstep := s.rstepOf t, batch, col, pod, area := w.area }
    { s with nextId := s.nextId + 1, releases := s.releases ++ [r] }) s
  s.setGroup g { s.group g with waiters := [] }

/-- complete() (R172): with a phase under way and every member arrived, the waiters are released; an SSTEP at T0 plus its stagger (R139);
a pod barrier's group waits for its census (R143). -/
def groupComplete (s : State) (g : Nat) : State :=
  let x := s.group g
  if x.kind != .none && x.a == x.m then
    if x.kind == .sstep && s.podEn && s.feat 6 && s.podg.toNat = g then s.setGroup g { x with podArrived := true }
    else
      let s := releaseAll s g 0 (if x.kind == .sstep then some (s.tb + 64) else none)
      s.setGroup g { s.group g with a := 0, kind := .none }
  else s

/-- LEAVE of a member (R172). -/
def groupLeave (s : State) (key : Nat) (n : Bool) (g : Nat) : State :=
  let e := some (g, (s.group g).epoch)
  let s := s.modCtx key n fun c => { c with members := c.members.map fun x => if x == e then none else x }
  groupComplete (s.setGroup g { s.group g with m := (s.group g).m - 1 }) g

/-- Every valid entry of a context leaves its group (R161). -/
def leaveAll (s : State) (key : Nat) (n : Bool) : State :=
  (s.ctx key n).members.toList.foldl (fun s e =>
    match e with
    | some (g, _) => if isMember s key n g then groupLeave s key n g else s
    | none => s) s

/-- A context that waits at a group. -/
def waiterOf (key : Nat) (n waitg : Bool) : Waiter := { key, ctx := n, waitg }

/-- An operation that a kill does not stop: a posted one that concerns the group itself, and its own LEAVE (R345). -/
def outlivesKill : GroupOpKind → Bool
  | .new | .init | .free | .leave => true
  | .join | .sync | .sstep | .waitg => false

/-- The pending wait of a task that ends is dropped, and an arrival of its own is taken back (R174): by a kill, or by the END of a task that was redirected
away from it (log entry 23). -/
def dropWait (s : State) (key : Nat) (n : Bool) : State :=
  let mine (k : Nat) (c : Bool) : Bool := k == key && c == n
  let s := { s with releases := s.releases.filter fun r => !mine r.key r.ctx || r.area.isSome
                    monitors := s.monitors.filter fun m => !mine m.2.1 m.2.2 }
  let s := match (s.ctx key n).wait with
    | .group g _ none =>
      let x := s.group g
      let w := waiterOf key n false
      if x.waiters.contains w then s.setGroup g { x with a := x.a - 1, waiters := x.waiters.erase w } else s
    | .waitg g none => s.setGroup g { s.group g with waiters := (s.group g).waiters.erase (waiterOf key n true) }
    | _ => s
  s.modCtx key n fun c => { c with wait := .none }

/-- A killed member leaves; its waits are dropped, and no answer or refusal reaches it (R174). -/
def groupKill (s : State) (key : Nat) (n : Bool) : State :=
  let mine (k : Nat) (c : Bool) : Bool := k == key && c == n
  let endOp (o : GroupOp) : GroupOp := if mine o.key o.ctx then { o with dead := true } else o
  let s := { s with groupOps := (s.groupOps.filter fun (o : GroupOp) => !mine o.key o.ctx || outlivesKill o.kind).map endOp
                    refusals := s.refusals.filter fun r => !mine r.key r.ctx || r.area.isSome }
  leaveAll ((dropWait s key n).modCtx key n fun c => { c with ask := .none, popped := none }) key n

/-- Post a group operation of the executing context, with what a refusal's packet needs (R233, R345). -/
def groupPost (s : State) (kind : GroupOpKind) (gid : Nat) (opa : Word) : State :=
  let o : GroupOp :=
    { id := s.nextId, key := s.focus, ctx := s.act, kind, gid, asid := s.cur.asid, pc := s.cur.pc
      insn := BitVec.ofNat 128 (s.insnAt s.focus s.cur.pc), opa, opb := 0 }
  { s with nextId := s.nextId + 1, groupOps := s.groupOps ++ [o] }

/-- The tower whose controller an operation goes to; GRPNEW begins at its own (R170, R172). -/
def GroupOp.tower (o : GroupOp) : Nat := if o.kind == .new then towerOfCluster (clusterOf o.key) % 4 else groupTower o.gid

/-- No earlier operation of the same context is on its way to the same controller (R173). -/
def opFirst (s : State) (o : GroupOp) : Bool :=
  !((s.groupOps.takeWhile fun x => x.id != o.id).any fun x => x.key == o.key && x.ctx == o.ctx && x.tower == o.tower)

/-- Fill the place that an id reserved in q_i of a core (R327). -/
def fillPlace (s : State) (key : Nat) (i : Fin 4) (id : Nat) (v : Word) : State :=
  let fill (w : QWord) : QWord := if w = .due id then .word v else w
  s.modCore key fun c => { c with q := c.q.set i ((c.q.get i).map fill) }

/-- The cores of whose queues a core reserves places: its quad's, or itself (R166). -/
def queueCores (key : Nat) : List Nat := if isTile key then (List.range 4).map fun i => quadOf key * 4 + i else [key]

/-- Reserved places whose replies will not come go (R327; log entry 16). -/
def stripPlaces (s : State) (key : Nat) (ids : List Nat) : State :=
  let strip (q : List QWord) : List QWord := q.filter fun w => match w with | .due i => !ids.contains i | .word _ => true
  (queueCores key).foldl (fun s k => s.modCore k fun c => { c with q := c.q.map strip }) s

/-- Write the D of the instruction whose wait or reply a context awaited (R327). -/
def fillWait (s : State) (key : Nat) (n : Bool) (v : Word) : State :=
  match (s.ctx key n).waitDst with
  | .g r => s.modCtx key n fun c => c.writeG r v
  | .q k => let (j, i) := queueTarget key k; fillPlace s j i (s.ctx key n).due v

/-- The context has been redirected away from the instruction whose wait it holds: its end no longer passes through that instruction (R241). -/
def Ctx.away (c : Ctx) : Bool := (c.wait != .none || c.ask != .none) && c.waitPc != c.pc

/-- A released group wait completes: it acquires, and D receives its code (R223, R346). -/
def endGroupWait (s : State) (key : Nat) (n : Bool) (g code : Nat) : State :=
  (fillWait (acquire s key n .grp (BitVec.ofNat 64 g)) key n (BitVec.ofNat 64 code)).modCtx key n fun c => { c with wait := .none }

/-- A wait or a reply of an instruction that the context has been redirected away from completes as soon as it is there: REDIR cancels none (R241,
R327; log entry 23). -/
def settleAway (s : State) (key : Nat) (n : Bool) : State :=
  let c := s.ctx key n
  if !c.away then s
  else
    match c.wait, c.ask with
    | .group g _ (some code), _ => endGroupWait s key n g code
    | .waitg g (some code), _ => endGroupWait s key n g code
    | .waitw _ _ _ (some v) _, _ => (fillWait s key n v).modCtx key n fun c => { c with wait := .none }
    | _, .cell _ v => (fillWait s key n v).modCtx key n fun c => { c with ask := .none }
    | _, .answered _ | _, .refused => s.modCtx key n fun c => { c with ask := .none }
    | _, _ => s

/-- Answer a GRPNEW or a JOIN: the reply writes D when it arrives, wherever its context is (R327). -/
def answer (s : State) (o : GroupOp) (v : Word) : State :=
  if o.dead || (s.ctx o.key o.ctx).ask != .sent then s
  else settleAway ((fillWait s o.key o.ctx v).modCtx o.key o.ctx fun c => { c with ask := .answered v, popped := none }) o.key o.ctx

/-- A refused JOIN has popped no queue word (R13, R230, R345): its operand stands in front again, where the task that was redirected away from it has not
read on in the next record of the inbox. -/
def unpop (s : State) (key : Nat) (n : Bool) : State :=
  let t := s.modCtx key n fun c => { c with popped := none }
  match (s.ctx key n).popped with
  | some (.q i, w, _) => t.modCore key fun k => { k with q := k.q.set i (.word w :: k.q.get i) }
  | some (.q4, w, _) => t.modCtx key n fun c => { c with q4 := w :: c.q4 }
  | some (.q5, w, _) => t.modCtx key n fun c => { c with q5 := w :: c.q5 }
  | some (.q7, w, _) => t.modCtx key n fun c => { c with q7 := w :: c.q7 }
  | some (.q6, _, some r) => t.modCtx key n fun c => if c.inboxRead = 0 then { c with inbox := r :: c.inbox, inboxRead := 7 } else c
  | some (.q6, _, none) => t.modCtx key n fun c => { c with inboxRead := c.inboxRead - 1 }
  | _ => t

/-- A JOIN's reply refuses it (R345): it gives up the queue place reserved for D and the word it popped, and raises GROUP when it next tries. -/
def refuseJoin (s : State) (key : Nat) (n : Bool) : State :=
  let c := s.ctx key n
  if c.ask != .sent then s else settleAway (unpop (stripPlaces (s.modCtx key n fun c => { c with ask := .refused }) key [c.due]) key n) key n

/-- Refuse an operation with GROUP (R172, R345): a JOIN's reply says so, a posted one's refusal returns by itself. -/
def refuseGroup (s : State) (o : GroupOp) : State :=
  let r : PostRefusal :=
    { id := s.nextId, key := o.key, ctx := o.ctx, posted := o.kind != .join, code := 10, detail := 0, pc := o.pc, insn := o.insn, opa := o.opa, opb := o.opb }
  if o.dead then s else { s with nextId := s.nextId + 1, refusals := s.refusals ++ [r] }

/-- The lowest UNUSED id of the operation's own tower, else of the others in ascending order (R172). -/
def newGroup (s : State) (key : Nat) : Option Nat :=
  let t := towerOfCluster (clusterOf key) % 4
  let free (t : Nat) : Option Nat := (List.range 1024).findSome? fun i => if (s.group (t * 1024 + i)).opened then none else some (t * 1024 + i)
  (t :: (List.range 4).filter (· ≠ t)).findSome? free

/-- One operation applied at its controller (R172). -/
def groupApply (s : State) (o : GroupOp) : State :=
  let s := { s with groupOps := s.groupOps.filter fun x => x.id ≠ o.id }
  let g := o.gid
  let x := s.group g
  let ok := x.opened && x.asid == o.asid
  let mem := isMember s o.key o.ctx g
  let reset (s : State) (code : Nat) (opened : Bool) : State :=
    let s := releaseAll s g code none
    s.setGroup g { s.group g with epoch := x.epoch + 1, m := 0, a := 0, kind := .none, opened, podArrived := false }
  let arrive (k : PhaseKind) : State :=
    if !mem || (x.kind != .none && x.kind != k) then refuseGroup s o
    else groupComplete (s.setGroup g { x with kind := k, a := x.a + 1, waiters := x.waiters ++ [waiterOf o.key o.ctx false] }) g
  match o.kind with
  | .new =>
    match newGroup s o.key with
    | none => answer s o (BitVec.allOnes 64)
    | some g =>
      let s := s.setGroup g { s.group g with opened := true, asid := o.asid, m := 0, a := 0, kind := .none }
      answer s o (BitVec.ofNat 64 g)
  | .join =>
    if !ok then refuseGroup s o
    else if mem then answer s o (BitVec.ofNat 64 x.m)
    else
      match (s.ctx o.key o.ctx).members.toList.findIdx? (entryFree s) with
      | none => refuseGroup s o
      | some i =>
        let s := s.modCtx o.key o.ctx fun c => { c with members := c.members.set (Fin.ofNat 4 i) (some (g, x.epoch)) }
        answer (s.setGroup g { x with m := x.m + 1 }) o (BitVec.ofNat 64 (x.m + 1))
  | .leave => if ok && mem then groupLeave s o.key o.ctx g else refuseGroup s o
  | .sync => if ok then arrive .sync else refuseGroup s o
  | .sstep => if ok then arrive .sstep else refuseGroup s o
  | .waitg => if ok then s.setGroup g { x with waiters := x.waiters ++ [waiterOf o.key o.ctx true] } else refuseGroup s o
  | .init => if ok then reset s 1 true else refuseGroup s o
  | .free => if ok then reset s 2 false else refuseGroup s o

/-- A release reaches a spilled context: it goes into the pending-wait word of its save area (R237, R244). -/
def releaseSaved (s : State) (area code : Nat) : State :=
  let at_ := area + 0x288
  let w := BitVec.ofNat 64 (s.readLE at_ 8) ||| BitVec.ofNat 64 (2 ^ 59 + code % 4 * 2 ^ 60)
  performWrite s true (pairsAt at_ (bytesOfNat 8 w.toNat))

/-- A release is recorded in its context, or in the save area that holds it (R174, R244). -/
def giveRelease (s : State) (r : Release) : State :=
  let s := { s with releases := s.releases.filter fun x => x.id ≠ r.id }
  match r.area with
  | some b => releaseSaved s b r.code
  | none =>
    settleAway (s.modCtx r.key r.ctx fun c =>
      match c.wait with
      | .group g st none => { c with wait := .group g st (some r.code) }
      | .waitg g none => { c with wait := .waitg g (some r.code) }
      | _ => c) r.key r.ctx

/-- The ramp that an SSTEP release starts in its quad (R141): level 1, phase 0. RSTEP 0 means no shaping. -/
def startRamp (s : State) (key : Nat) (rstep : BitVec 8) : State :=
  if isTile key && rstep != 0 then
    s.modQuad (quadOf key) fun q => { q with level := 1, rampStep := rstep.toNat, rampPhase := 0, rampLeft := 16 * rstep.toNat }
  else s

/-- A refusal returns (R230, R345): a JOIN raises GROUP when it next tries; a posted operation freezes its context at the boundary, and a
refused arrival waits no longer. -/
def giveRefusal (s : State) (r : PostRefusal) : State :=
  let s := { s with refusals := s.refusals.filter fun x => x.id ≠ r.id }
  if !r.posted then refuseJoin s r.key r.ctx
  else
    let c := s.ctx r.key r.ctx
    let arrival := c.waitPc == r.pc && (match c.wait with | .group _ _ none | .waitg _ none => true | _ => false)
    takePosted (if arrival then stripPlaces (s.modCtx r.key r.ctx fun c => { c with wait := .none }) r.key [c.due] else s) r

end Sys2Proof.Machine
end

