-- ==== Sys2Proof/Machine/Patterns.lean ====
section
/-! DEFINITION. The pattern unit of a cluster (R119 to R138): slots, the coverage map, tiles and their walk, TAKE, DONEG, YIELDT, seams,
revocation, kills and completion. -/

namespace Sys2Proof.Machine

/-- n bits of a word from bit lo. -/
def bitsAt (w : Word) (lo n : Nat) : Nat := w.toNat / 2 ^ lo % 2 ^ n

/-! ### Geometry (R120, R124, R126) -/

/-- Extent of dimension d in granules: an absent dimension acts as 1. -/
def patX (space : Word) (d : Nat) : Nat := max 1 (bitsAt space (16 * d) 16)
/-- Tile extent of dimension d. -/
def patT (tile : Word) (d : Nat) : Nat := bitsAt tile (8 * d) 8
/-- Dimension at place k of the walk order. -/
def patO (order : Word) (k : Nat) : Nat := bitsAt order (2 * k) 2
/-- Granule count N. -/
def patN (space : Word) : Nat := patX space 0 * patX space 1 * patX space 2 * patX space 3
/-- Map base as a cls address. -/
def patBase (map : Word) : Nat := bitsAt map 6 16 * 64
/-- Tiles along dimension d. -/
def patNT (space tile : Word) (d : Nat) : Nat := (patX space d + patT tile d - 1) / max 1 (patT tile d)
/-- Tiles in all. -/
def patNTT (space tile : Word) : Nat := patNT space tile 0 * patNT space tile 1 * patNT space tile 2 * patNT space tile 3

/-- Tile coordinate along dimension d of rank r: the digit at d's place in the order (R126). -/
def tileCoord (space order tile : Word) (r d : Nat) : Nat :=
  let rec go : Nat → Nat → Nat
    | 0, _ => 0
    | k + 1, q =>
      let dim := patO order (3 - k)
      let n := max 1 (patNT space tile dim)
      if dim = d then q % n else go k (q / n)
  go 4 r

/-- A tile: its origin and clipped extents along the four dimensions. -/
structure Tile where
  org : List Nat
  ext : List Nat

/-- The tile at a rank (R126). -/
def tileAt (space order tile : Word) (r : Nat) : Tile :=
  let org := (List.range 4).map fun d => tileCoord space order tile r d * patT tile d
  { org, ext := (List.range 4).map fun d => min (patX space d) (org.getD d 0 + patT tile d) - org.getD d 0 }

/-- Granules of a tile, in the order of the mask's bits (R127), as linear indexes (R124). -/
def tileGranules (space : Word) (org ext : List Nat) : List Nat :=
  let e (d : Nat) : Nat := ext.getD d 1
  let o (d : Nat) : Nat := org.getD d 0
  (List.range (e 0 * e 1 * e 2 * e 3)).map fun k =>
    let c0 := o 0 + k % e 0
    let c1 := o 1 + k / e 0 % e 1
    let c2 := o 2 + k / (e 0 * e 1) % e 2
    let c3 := o 3 + k / (e 0 * e 1 * e 2)
    c0 + patX space 0 * (c1 + patX space 1 * (c2 + patX space 2 * c3))

/-- t0 and t1 of a descriptor (R127). -/
def descWords (t : Tile) : Word × Word :=
  let pack (w : Nat) (l : List Nat) : Nat := (l.zip (List.range 4)).foldl (fun n p => n + p.1 * 2 ^ (w * p.2)) 0
  (BitVec.ofNat 64 (pack 16 t.org), BitVec.ofNat 64 (pack 8 t.ext))

/-- Granules of a claim, from its descriptor words. -/
def claimGranules (space : Word) (c : Claim) : List Nat :=
  tileGranules space ((List.range 4).map fun d => bitsAt c.t0 (16 * d) 16) ((List.range 4).map fun d => bitsAt c.t1 (8 * d) 8)

/-! ### The map (R124, R125) -/

/-- Entry codes. -/
def gFree : Nat := 0
/-- CLAIMED. -/
def gClaimed : Nat := 1
/-- LOST. -/
def gLost : Nat := 2
/-- DONE. -/
def gDone : Nat := 3

/-- A granule's entry. -/
def mapEntry (s : State) (cl : Nat) (map : Word) (g : Nat) : Nat := (s.byteAt (locCls cl (patBase map + g / 4))).toNat / 4 ^ (g % 4) % 4

/-- Write a granule's entry. -/
def setEntry (s : State) (cl : Nat) (map : Word) (g v : Nat) : State :=
  let loc := locCls cl (patBase map + g / 4)
  let b := (s.byteAt loc).toNat
  performWrite s true [(loc, BitVec.ofNat 8 (b - b / 4 ^ (g % 4) % 4 * 4 ^ (g % 4) + v * 4 ^ (g % 4)))]

/-- Write the entries of several granules. -/
def setEntries (s : State) (cl : Nat) (map : Word) (gs : List Nat) (v : Nat) : State := gs.foldl (fun s g => setEntry s cl map g v) s

/-- The granules that a mask names. -/
def maskPick (gs : List Nat) (mask : Word) : List Nat := (gs.zip (List.range 64)).filterMap fun p => if mask.getLsbD p.2 then some p.1 else none

/-! ### Slots -/

/-- A slot of a cluster's unit. -/
def State.slot (s : State) (cl : Nat) (k : Fin 4) : PatSlot := (s.cluster cl).slots.get k
/-- Replace a slot. -/
def State.setSlot (s : State) (cl : Nat) (k : Fin 4) (p : PatSlot) : State :=
  s.modCluster cl fun c => { c with slots := c.slots.set k p }

/-- The contexts of a cluster, in ascending core number, context 0 before 1. -/
def clusterCtxs (cl : Nat) : List (Nat × Bool) := (List.range 64).flatMap fun n => [(coreAt cl n, false), (coreAt cl n, true)]

/-- The slot of a task: ACTIVE or COMPLETE with the task's KID (R128). -/
def slotOf (s : State) (cl : Nat) (kid : BitVec 32) : Option (Fin 4) :=
  (List.finRange 4).find? fun k => (s.slot cl k).st != .idle && (s.slot cl k).kid == kid

/-- A pattern task whose KID is the slot's. -/
def belongs (s : State) (cl : Nat) (k : Fin 4) (key : Nat) (n : Bool) : Bool :=
  let c := s.ctx key n
  c.task.active && c.task.pat && slotOf s cl c.kid == some k

/-- Every TAKE parked on a slot, of cores in the mask, is answered none (R123, R129, R135, R137). -/
def answerNone (s : State) (cl : Nat) (k : Fin 4) (cores : Word) : State :=
  (clusterCtxs cl).foldl (fun s x =>
    if cores.getLsbD (coreNum x.1) && (s.ctx x.1 x.2).parked.isSome && belongs s cl k x.1 x.2 then
      s.modCtx x.1 x.2 fun c => { c with parked := some true }
    else s) s

/-- The slot enters COMPLETE when nothing is FREE or CLAIMED; the event that it then holds is to be signalled (R137). -/
def checkComplete (s : State) (cl : Nat) (k : Fin 4) : State :=
  let p := s.slot cl k
  if p.st == .active && p.nfree == 0 && p.nclaim == 0 then
    (answerNone s cl k (BitVec.allOnes 64)).setSlot cl k { p with st := .complete, evDue := if p.evt = 0 then p.evDue else p.evDue ++ [p.evt] }
  else s

/-- The validity conditions of R121 for a slot's fixed registers with these rewritable ones. -/
def patValid (s : State) (cl : Nat) (k : Fin 4) (order tile : Word) : Bool :=
  let p := s.slot cl k
  let ts := (List.range 4).map (patT tile)
  patN p.space ≤ 65536
    && ((List.range 4).all fun d => bitsAt p.gran (16 * d) 16 ≠ 0)
    && ((List.range 4).all fun d => (List.range 4).any fun j => patO order j == d)
    && (ts.all fun t => 1 ≤ t && t ≤ 64) && ts.foldl (· * ·) 1 ≤ 64
    && patBase p.map + (patN p.space + 3) / 4 ≤ 0x400000
    && ((List.finRange 4).all fun j => j == k || (s.slot cl j).st == .idle || (s.slot cl j).kid != p.kid)
    && ((List.range 4).all fun d => bitsAt p.space (16 * d) 16 ≠ 0 || patT tile d = 1)

/-- Activation of a valid pattern (R122). -/
def activate (s : State) (cl : Nat) (k : Fin 4) : State :=
  let p := s.slot cl k
  let n := patN p.space
  let s := performWrite s true (pairsAt (locCls cl (patBase p.map)) (List.replicate ((n + 3) / 4) 0))
  s.setSlot cl k { p with st := .active, gen := 1, rank := 0, nfree := n, nclaim := 0, nlost := 0, pend := false, seam := 0, rev := 0
                          shOrder := p.order, shTile := p.tile, shPlace := p.place }

/-- Deactivation with nothing claimed (R123). -/
def deactivate (s : State) (cl : Nat) (k : Fin 4) : State :=
  (answerNone s cl k (BitVec.allOnes 64)).setSlot cl k { s.slot cl k with st := .idle, pend := false, seam := 0 }

/-- A seam (R134). -/
def seamApply (s : State) (cl : Nat) (k : Fin 4) : State :=
  let p := s.slot cl k
  s.setSlot cl k { p with order := p.shOrder, tile := p.shTile, place := p.shPlace, gen := p.gen + 1, rank := 0, pend := false, seam := 3
                          rev := p.rev &&& ~~~p.shPlace }

/-- The seam in its cycle (R134): also of a slot that has completed since the commit (R138). -/
def seamDue (s : State) (cl : Nat) (k : Fin 4) : State := if (s.slot cl k).seam = 2 then seamApply s cl k else s

/-- A cycle of a slot begins (R134): the first after a commit is the seam's, and a seam not yet made in its cycle is made at that cycle's end. -/
def seamCycle (s : State) (cl : Nat) (k : Fin 4) : State :=
  let p := s.slot cl k
  match p.seam with
  | 0 => s
  | 1 => s.setSlot cl k { p with seam := 2 }
  | 2 => let t := seamApply s cl k; t.setSlot cl k { t.slot cl k with seam := 4 }
  | 3 => s.setSlot cl k { p with seam := 4 }
  | _ => s.setSlot cl k { p with seam := 0 }

/-! ### TAKE (R128, R129) -/

/-- What a TAKE meets. -/
inductive TakeRes where
  | fault
  | wait
  | park
  | none (rev : Bool)
  | tile (s : State) (t : Vector Word 4)

/-- The walk from the cursor: the first tile with a FREE granule is claimed. fuel is the number of tiles. -/
def walkTiles (s : State) (cl : Nat) (k : Fin 4) (key : Nat) (n : Bool) : Nat → TakeRes
  | 0 => .park
  | fuel + 1 =>
    let p := s.slot cl k
    let t := tileAt p.space p.order p.tile p.rank
    let gs := tileGranules p.space t.org t.ext
    let mask := BitVec.ofNat 64 ((gs.zip (List.range 64)).foldl (fun m x => if mapEntry s cl p.map x.1 = gFree then m + 2 ^ x.2 else m) 0)
    let s := s.setSlot cl k { p with rank := (p.rank + 1) % max 1 (patNTT p.space p.tile) }
    if mask = 0 then walkTiles s cl k key n fuel
    else
      let free := maskPick gs mask
      let (t0, t1) := descWords t
      let s := setEntries s cl p.map free gClaimed
      let q := s.slot cl k
      let s := s.setSlot cl k { q with nfree := q.nfree - free.length, nclaim := q.nclaim + free.length }
      let s := s.modCtx key n fun c => { c with claim := some { slot := k, t0, t1, mask, gen := p.gen } }
      let s := countPmc s key (some n) 9 1
      .tile s #v[t0, t1, mask, BitVec.ofNat 64 (p.gen.toNat * 2 ^ 16 + k.val * 4 + 1)]

/-- TAKE of a context (R128, R129). None is granted from a commit to the end of the cycle after its seam (R134; that one of the commit's own cycle waits
too is the model's choice, log entry 35). -/
def takeTile (s : State) (key : Nat) (n : Bool) : TakeRes :=
  let cl := clusterOf key
  let c := s.ctx key n
  let revOf (k : Fin 4) : Bool := (s.slot cl k).rev.getLsbD (coreNum key)
  match c.parked, slotOf s cl c.kid with
  | some true, k => .none (match k with | some k => revOf k | none => false)
  | _, none => .fault
  | _, some k =>
    let p := s.slot cl k
    if !c.task.pat || (match c.claim with | some x => x.mask != 0 | none => false) then .fault
    else if p.st == .complete then .none (revOf k)
    else if p.seam ≠ 0 then .wait
    else if !p.place.getLsbD (coreNum key) then .none (revOf k)
    else if p.nfree = 0 then (if p.nclaim = 0 then .none (revOf k) else .park)
    else walkTiles s cl k key n (patNTT p.space p.tile)

/-- Whether a parked TAKE of a context would now be granted a tile: the context runs it again at once (R129). -/
def parkedReady (s : State) (x : Nat × Bool) : Bool :=
  let c := s.ctx x.1 x.2
  c.parked == some false && c.st == .running && !c.vac && !(s.core x.1).swapping && (match takeTile s x.1 x.2 with | .tile .. => true | _ => false)

/-- Contexts of one slot in whose favour a TAKE waits: a parked TAKE is granted in ascending core number, context 0 before 1, and a new one after them
(R138). -/
def takeAhead (s : State) (key : Nat) (n : Bool) : Bool :=
  let cl := clusterOf key
  let k := slotOf s cl (s.ctx key n).kid
  let others := (clusterCtxs cl).filter fun x => x != (key, n) && ((s.ctx key n).parked.isNone || decide (2 * x.1 + x.2.toNat < 2 * key + n.toNat))
  others.any fun x => (s.ctx x.1 x.2).parked == some false && slotOf s cl (s.ctx x.1 x.2).kid == k && parkedReady s x

/-- A TAKE in its turn (R128, R138). -/
def takeNow (s : State) (key : Nat) (n : Bool) : TakeRes :=
  match takeTile s key n with
  | .tile t d => if takeAhead s key n then .wait else .tile t d
  | r => r

/-- The descriptor of none (R127). -/
def noneDesc (rev : Bool) : Vector Word 4 := #v[0, 0, 0, if rev then 2 else 0]

/-! ### DONEG, YIELDT, kills (R131, R132, R136) -/

/-- A mask that names only granules still CLAIMED in the context's claim. -/
def maskOk (c : Ctx) (m : Word) : Bool :=
  match c.claim with
  | some x => m &&& ~~~x.mask == 0
  | none => false

/-- Move granules of a context's claim out of CLAIMED, to DONE, FREE or LOST. -/
def leaveClaim (s : State) (key : Nat) (n : Bool) (m : Word) (code : Nat) : State :=
  match (s.ctx key n).claim with
  | none => s
  | some x =>
    let cl := clusterOf key
    let p := s.slot cl x.slot
    let gs := maskPick (claimGranules p.space x) (m &&& x.mask)
    let s := setEntries s cl p.map gs code
    let k := gs.length
    let s := s.setSlot cl x.slot
      { p with nclaim := p.nclaim - k, nfree := if code = gFree then p.nfree + k else p.nfree, nlost := if code = gLost then p.nlost + k else p.nlost }
    let left := x.mask &&& ~~~m
    let s := s.modCtx key n fun c => { c with claim := if left = 0 then none else some { x with mask := left } }
    checkComplete s cl x.slot

/-- The kill of a context that holds a claim (R136). -/
def killClaim (s : State) (key : Nat) (n : Bool) : State :=
  match (s.ctx key n).claim with
  | none => s
  | some x => leaveClaim s key n x.mask (if (s.slot (clusterOf key) x.slot).idem then gFree else gLost)

/-- PREVOKE (R135, R426): on an IDLE slot it touches no task. -/
def revoke (s : State) (cl : Nat) (k : Fin 4) (m : Word) : State :=
  let p := s.slot cl k
  let s := s.setSlot cl k { p with place := p.place &&& ~~~m, shPlace := p.shPlace &&& ~~~m, rev := if p.st == .idle then p.rev else p.rev ||| m }
  if p.st == .idle then s
  else
    let s := answerNone s cl k m
    (clusterCtxs cl).foldl (fun s x =>
      if m.getLsbD (coreNum x.1) && belongs s cl k x.1 x.2 then
        s.modCtx x.1 x.2 fun c => { c with t := c.t.set 3 (c.t.get 3 ||| 2) }
      else s) s

/-! ### Registers (R119, R120, R133, R425) -/

/-- A pattern register as PATR reads it; sh reads the shadow of 2, 3 or 4. -/
def patRead (p : PatSlot) (r : Fin 16) (sh : Bool) : Option Word :=
  match r.val, sh with
  | 0, false => some p.space
  | 1, false => some p.gran
  | 2, false => some p.order
  | 3, false => some p.tile
  | 4, false => some p.place
  | 5, false => some p.map
  | 6, false => some (BitVec.ofNat 64 (p.evt.toNat * 2 ^ 48 + p.kid.toNat * 2 ^ 16 + p.idem.toNat * 2 + (if p.st == .idle then 0 else 1)))
  | 7, false => some (p.gen.setWidth 64)
  | 8, false => some (BitVec.ofNat 64 p.rank)
  | 9, false =>
    let st := match p.st with | .idle => 0 | .active => 1 | .complete => 2
    some (BitVec.ofNat 64 (st * 2 ^ 62 + p.pend.toNat * 2 ^ 61 + p.nlost * 2 ^ 34 + p.nclaim * 2 ^ 17 + p.nfree))
  | 2, true => some p.shOrder
  | 3, true => some p.shTile
  | 4, true => some p.shPlace
  | _, _ => none

/-- A write of one of the rewritable registers, to the slot itself while it is IDLE, else to its shadow (R133). R133 speaks of ACTIVE and IDLE slots only:
that a COMPLETE one keeps the write in its shadow too is the model's choice (DESIGN CHOICE, log entry 47). -/
def patRewrite (p : PatSlot) (r : Nat) (v : Word) : PatSlot :=
  let v := if r = 2 then v &&& 0xFF else if r = 3 then v &&& 0xFFFFFFFF else v
  if p.st == .idle then (if r = 2 then { p with order := v } else if r = 3 then { p with tile := v } else { p with place := v })
  else (if r = 2 then { p with shOrder := v } else if r = 3 then { p with shTile := v } else { p with shPlace := v })

/-- How far the seam of a slot has come once a commit has been made: a seam not yet made applies the new commit too (R138). -/
def commitSeam (p : PatSlot) : Nat := if p.st != .active then p.seam else if p.seam = 2 then 2 else 1

/-- What a PATW does: a fault, or the state after it. The value that a failed commit wrote stays in the shadow (R133). -/
inductive PatwRes where
  | fault (s : State)
  | done (s : State)

/-- PATW of `PAT.FLAGS` (R120, R122, R123). -/
def patFlags (s : State) (cl : Nat) (k : Fin 4) (v : Word) : PatwRes :=
  let p := s.slot cl k
  let evt := BitVec.ofNat 16 (bitsAt v 48 16)
  let kid := BitVec.ofNat 32 (bitsAt v 16 32)
  let idem := v.getLsbD 1
  let act := v.getLsbD 0
  if p.st == .idle then
    let s' := s.setSlot cl k { p with evt, kid, idem }
    if act then (if patValid s' cl k p.order p.tile then .done (activate s' cl k) else .fault s) else .done s'
  else if evt != p.evt || kid != p.kid || idem != p.idem then .fault s
  else if act then .done s
  else if p.nclaim = 0 then .done (deactivate s cl k)
  else .fault s

/-- PATW (R119, R120, R133). A write, or a commit, in the cycle of a commit or of its seam comes before the one seam (R138). The commit option has an
effect for registers 2, 3 and 4 alone: with `PAT.FLAGS` it commits nothing; and a commit to a COMPLETE slot sets PEND until the slot is deactivated, with
no seam (DESIGN CHOICE, log entry 47). -/
def patWrite (s : State) (cl : Nat) (k : Fin 4) (r : Fin 16) (v : Word) (commit : Bool) : PatwRes :=
  let p := s.slot cl k
  let fixed (q : PatSlot) : PatwRes := if p.st == .idle then .done (s.setSlot cl k q) else .fault s
  match r.val with
  | 0 => fixed { p with space := v }
  | 1 => fixed { p with gran := v }
  | 5 => fixed { p with map := v &&& 0x3FFFC0 }
  | 6 => patFlags s cl k v
  | 2 | 3 | 4 =>
    let q := patRewrite p r.val v
    let s := s.setSlot cl k q
    if commit && p.st != .idle then
      (if patValid s cl k q.shOrder q.shTile then .done (s.setSlot cl k { q with pend := true, seam := commitSeam p }) else .fault s)
    else .done s
  | _ => .fault s

end Sys2Proof.Machine
end

