-- ==== Sys2Proof/Machine/Tasks.lean ====
section
/-! DEFINITION. The life of a task (R101, R102, R158 to R163, R223, R242): records, starts, END and retirement, the implied TAKE (R130), kills,
and the swap of a core's contexts. -/

namespace Sys2Proof.Machine

/-! ### Records (R77) -/

/-- n bytes of a record from byte lo. -/
def recField (r : Record) (lo n : Nat) : Nat := r.toNat / 2 ^ (8 * lo) % 2 ^ (8 * n)
/-- Target core of a record. -/
def recCore (r : Record) : Nat := recField r 20 2 % 2 ^ 13
/-- Target context of a record. -/
def recCtx (r : Record) : Bool := recField r 20 2 / 2 ^ 13 % 2 == 1
/-- Entry PC. -/
def recPc (r : Record) : Nat := recField r 16 4
/-- KIND. -/
def recKind (r : Record) : Nat := recField r 22 1
/-- FLAGS. -/
def recFlags (r : Record) : Nat := recField r 23 1
/-- ASID. -/
def recAsid (r : Record) : BitVec 16 := BitVec.ofNat 16 (recField r 32 2)
/-- CAP. -/
def recCap (r : Record) : BitVec 32 := BitVec.ofNat 32 (recField r 28 4)
/-- WEVT. -/
def recWevt (r : Record) : Nat := recField r 36 4

/-- Whether a cluster admits an ASID (R99). -/
def admits (s : State) (cl : Nat) (asid : BitVec 16) : Bool :=
  (s.cluster cl).cladm.toList.any fun w => w.getLsbD 16 && BitVec.ofNat 16 (bitsAt w 0 16) == asid

/-! ### Task start (R158, R223) -/

/-- The general registers of a new task. -/
def startRegs (arg0 arg1 : Word) : Vector Word 48 := ((Vector.replicate 48 (0 : Word)).set 1 arg0).set 2 arg1

/-- Every granule of a context's store dies; a staged granule that dies leaves the buffer (R186). -/
def killStore (s : State) (key : Nat) (n : Bool) : State :=
  let s := s.modCtx key n fun c => { c with live := 0, pend := 0 }
  s.modCore key fun c => { c with staged := c.staged.filter fun g => decide (g / 1024 = n.toNat) == false }

/-- A task starts in a context: RUNNING if it is the active one, READY if the shadow (R157). -/
def startTask (s : State) (key : Nat) (n : Bool) (pc : BitVec 15) (arg0 arg1 : Word) (t : Vector Word 4) (kid : BitVec 32)
    (asid : BitVec 16) (cap : BitVec 32) (task : Task) : State :=
  let s := killStore s key n
  s.modCtx key n fun c =>
    { c with st := if n == (s.core key).active then .running else .ready, fcode := 0, pc, g := startRegs arg0 arg1, p := Vector.replicate 8 0
             vw := Vector.replicate 16 0, t, status := 0, kid, asid, cap, place := placeOf key n, task := { task with kid, asid, cap }, loop := none, loopStart := 0, loopLast := 0, binds := [], members := Vector.replicate 4 none
             wait := .none, ask := .none, ending := .none, parked := none, feArr := none, blocked := 0, killing := false, popped := none }

/-- The task of a record (R158): a pattern task takes its first tile before any instruction (R130). -/
def startRecord (s : State) (key : Nat) (n : Bool) (r : Record) : State :=
  let a0 := BitVec.ofNat 64 (recField r 0 8)
  let a1 := BitVec.ofNat 64 (recField r 8 8)
  let pc := BitVec.ofNat 15 (recPc r)
  let pat := recFlags r % 2 == 1
  startTask (lrbClear s key) key n pc a0 a1 (Vector.replicate 4 0) (BitVec.ofNat 32 (recField r 24 4)) (recAsid r) (recCap r)
    { active := true, pat, evend := recFlags r / 2 % 2 == 1, cevt := recField r 40 4, pc, arg0 := a0, arg1 := a1, takeDue := pat }

/-- An idle active context with a record starts it (R101). -/
def serveInbox (s : State) (key : Nat) (n : Bool) : State :=
  let c := s.ctx key n
  if c.st == .idle && !c.vac && n == (s.core key).active && !(s.core key).swapping then
    match c.inbox with
    | r :: rs => startRecord (s.modCtx key n fun c => { c with inbox := rs, inboxRead := 0 }) key n r
    | [] => s
  else s

/-- The core swaps to its shadow context when the active one is idle with an empty inbox and the shadow has work (R101, R175). -/
def offerSwap (s : State) (key : Nat) : State :=
  let c := s.core key
  let a := c.ctx c.active
  let b := c.ctx (!c.active)
  if a.st == .idle && a.inbox.isEmpty && !b.vac && (b.st == .ready || (b.st == .idle && !b.inbox.isEmpty)) then
    s.setCore key { c with swapping := true }
  else s

/-- The requests of a context's task are dead: they stay counted, their answers are discarded, and one that would arm a monitor arms none (R158, R174, R327). -/
def deadReqs (s : State) (key : Nat) (n : Bool) : State :=
  let markDead (r : Req) : Req := if r.key == key && r.ctx == n && r.area.isNone then { r with dead := true } else r
  { s with fabric := s.fabric.map markDead }

/-- What a task that has ended leaves under way: its engine jobs, its pours, its messages and its requests. -/
def orphan (s : State) (key : Nat) (n : Bool) : State :=
  let unOwn (j : Job) : Job := if j.key == key && j.ctx == n && j.area.isNone then { j with owned := false } else j
  let unOwnP (p : Pour) : Pour := if p.key == key && p.ctx == n && p.area.isNone then { p with owned := false } else p
  let endOut (o : Outgoing) : Outgoing := if o.ctx == n && o.area.isNone then { o with dead := true } else o
  let s := { deadReqs s key n with ports := s.ports.map fun (p : Port) => { p with pours := p.pours.map unOwnP } }
  let s := s.modCore key fun c => { c with outbound := c.outbound.map endOut }
  s.modCluster (clusterOf key) fun c => { c with jobs := c.jobs.map unOwn }

/-- A context retires (R102, R161, R162): a partly read record goes, the store dies, q4, q5 and q7 empty, and the context enters IDLE. A pattern claim
stays with its context: only DONEG, END, YIELDT and a kill move its granules (R125, R128). -/
def retireCtx (s : State) (key : Nat) (n : Bool) : State :=
  let s := killStore (orphan s key n) key n
  let s := s.modCtx key n fun c =>
    { c with st := .idle, fcode := 0, inbox := if c.inboxRead = 0 then c.inbox else c.inbox.drop 1, inboxRead := 0, q4 := [], q5 := [], q7 := []
             loop := none, wait := .none, ask := .none, ending := .none, parked := none, feArr := none, blocked := 0, task := {}
             killing := false }
  offerSwap (serveInbox s key n) key

/-! ### The implied TAKE (R130) -/

/-- The next tile task of a pattern task (R130, R158): its first Ladle job has JSEQ 0 (R409). -/
def nextTile (s : State) (key : Nat) (n : Bool) (t : Vector Word 4) : State :=
  let c := s.ctx key n
  startTask s key n c.task.pc c.task.arg0 c.task.arg1 t c.task.kid c.task.asid c.task.cap { c.task with takeDue := false, takeFault := false, jseq := 0 }

/-- An implied TAKE, at a task's start or at END: a tile starts the task on it, none retires the context, a fault freezes it at the entry
PC, and a parked one leaves the context waiting. -/
def impliedTake (s : State) (key : Nat) (n : Bool) : Exec State :=
  match takeNow s key n with
  | .tile s t => .ok (nextTile s key n t)
  | .none _ => .ok (retireCtx s key n)
  | .fault => .ok (takeImpliedFault (s.modCtx key n fun c => { c with ending := .none, task := { c.task with takeDue := false } }) key n)
  | .park => .error (.block fun s => s.modCtx key n fun c => { c with parked := some false })
  | .wait => waiting

/-- The implied TAKE that is due before a task's first instruction. -/
def firstTake (s : State) : Host.Outcome State Fault Refusal := settle s (do return (← impliedTake s s.focus s.act, .placed))

/-! ### END and JOINC (R112, R161, R162) -/

/-- Ladle jobs of a context that are not complete. -/
def jobsOf (s : State) (key : Nat) (n : Bool) : List Job :=
  (s.cluster (clusterOf key)).jobs.filter fun j =>
    j.key == key && j.ctx == n && j.owned && j.area.isNone && (match j.kind with | .pour .. => false | _ => true)

/-- Vector, matrix and Ladle work of a context is done, MEPI stores acknowledged, and no group operation is under way. -/
def workDone (s : State) (key : Nat) (n : Bool) : Bool :=
  !s.vecBusy key n && (s.episOf key n).isEmpty && (jobsOf s key n).isEmpty
    && !(s.groupOps.any fun o => o.key == key && o.ctx == n && !o.dead) && !(s.refusals.any fun r => r.key == key && r.ctx == n && r.area.isNone)

/-- Posted counts all zero. -/
def countsZero (c : Ctx) : Bool := c.clu == 0 && c.mod == 0 && c.sys == 0

/-- The steps of END after its groups are left: CEVT, then the kills, then the implied TAKE or retirement. -/
def endTail (s : State) (pat : Bool) : Exec (State × Flow) :=
  let c := s.cur
  if c.task.evend && !countsZero c then .error (.wait fun _ => s)
  else
    let s := if c.task.evend then signalEvent s c.task.cevt else s
    if pat then
      let s := killStore (orphan s s.focus s.act) s.focus s.act
      let s := s.modCur fun c =>
        { c with inbox := if c.inboxRead = 0 then c.inbox else c.inbox.drop 1, inboxRead := 0, q4 := [], q5 := [], q7 := [], loop := none
                 members := Vector.replicate 4 none, t := Vector.replicate 4 0, ending := .take }
      match impliedTake s s.focus s.act with
      | .ok t => .ok (t, .placed)
      | .error (.block keep) => .error (.block fun _ => keep s)
      | .error _ => .error (.wait fun _ => s)
    else .ok (retireCtx s s.focus s.act, .placed)

/-- END, or the end that a JOINC makes, which has no implied DONEG and TAKE: each wait keeps the steps already made. END of a pattern task is a
release at system scope (R223). -/
def endSteps (s : State) (viaJoin : Bool) : Exec (State × Flow) := do
  let c := s.cur
  let pat := c.task.pat && !viaJoin
  if c.ending == .take then return (← impliedTake s s.focus s.act, .placed)
  else if c.ending == .left || c.ending == .joinLeft then endTail s pat
  else
    waitFor (workDone s s.focus s.act)
    waitFor (!pat || s.wtMet 3)
    let s := match (if pat then c.claim else none) with
      | some x => leaveClaim s s.focus s.act x.mask gDone
      | none => s
    let s := leaveAll (dropWait s s.focus s.act) s.focus s.act
    endTail (s.modCur fun k => { k with ending := if viaJoin then .joinLeft else .left }) pat

/-- END (R161, R309). -/
def execEnd (c : Com) (s : State) : Host.Outcome State Fault Refusal := issue .any c s fun s => endSteps s false

/-! ### Kills (R242) -/

/-- Queue places reserved for replies that a kill discards go with them (log entry 16). -/
def dropDue (s : State) (key : Nat) (n : Bool) : State :=
  let ids := (s.ctx key n).due :: ((s.fabric.filter fun r => r.key == key && r.ctx == n).map (·.id))
  stripPlaces s key ids

/-- A Ladle job of the task that a context runs. -/
def myLadle (key : Nat) (n : Bool) (j : Job) : Bool :=
  j.key == key && j.ctx == n && j.owned && j.area.isNone && (match j.kind with | .pour .. => false | _ => true)

/-- The last of a killed context's Ladle jobs has completed: the context enters IDLE (R242). -/
def killDone (s : State) (key : Nat) (n : Bool) : State :=
  if (s.ctx key n).killing && !((s.cluster (clusterOf key)).jobs.any (myLadle key n)) then
    retireCtx (s.modCtx key n fun c => { c with killing := false }) key n
  else s

/-- A KILL of a context, or HALT on a tile core (R136, R174, R242): a SPILL of it that has begun ends with nothing saved, and its Ladle jobs, the
stopped ones among them, complete before it enters IDLE. -/
def killCtx (s : State) (key : Nat) (n : Bool) : State :=
  let s := dropDue s key n
  let deadE (e : VEntry) : VEntry := if e.op.ctx == n then { e with dead := true } else e
  let deadF (f : Flight) : Flight := if f.op.ctx == n then { f with dead := true } else f
  let endEpi (e : Epi) : Epi := if epiIs key n e then { e with kill := 0, dead := true, asid := (s.ctx key n).asid } else e
  let killed (j : Job) : Job := if myLadle key n j then { j with killed := true, stopped := false } else j
  let s := s.modCore key fun c =>
    let kept := keepEntries (fun e => e.op.ctx != n || e.quarters != 0) none c.vq
    { c with vq := kept.1.map deadE, mrset := c.mrset <|> kept.2, fly := (c.fly.map deadF).filter fun f => !(f.dead && f.tileRead)
             late := c.late.filter fun l => l.ctx != n, spill := if c.spill == .spill n then .none else c.spill }
  let s := s.modQuad (quadOf key) fun q => { q with epi := (q.epi.filter fun (e : Epi) => !(epiIs key n e && e.parked)).map endEpi }
  let s := groupKill (killClaim (killStore (deadReqs s key n) key n) key n) key n
  let s := { s with fabric := s.fabric.filter fun r => match r.kind with | .forkStart k c .. => !(k == key && c == n) | _ => true }
  let s := s.modCluster (clusterOf key) fun c => { c with jobs := c.jobs.map killed }
  killDone (s.modCtx key n fun c => { c with epip := false, vac := false, st := .frozen, killing := true, wait := .none, ask := .none, ending := .none
                                             parked := none, feArr := none }) key n

/-! ### Swaps (R163, R243) -/

/-- The exchange that ends a swap: the outgoing context becomes READY, the incoming one runs, or starts its record; one that is FROZEN, or the context of a
vacant slot (R244), counts as blocked from now on (R232). A record that reached an idle outgoing context meanwhile is served by R101 as the shadow's. -/
def swapDone (s : State) (key : Nat) : State :=
  let c := s.core key
  let a := c.active
  let leave (x : Ctx) : Ctx := { x with st := if x.st == .running then .ready else x.st, blocked := 0, feArr := none, parked := none }
  let enter (x : Ctx) : Ctx := { x with st := if x.st == .ready then .running else x.st, blocked := if x.st == .frozen then 1 else 0 }
  let s := s.setCore key { (c.setCtx a (leave (c.ctx a))).setCtx (!a) (enter (c.ctx (!a))) with active := !a, swapping := false }
  let s := serveInbox (countPmc s key (some a) 14 1) key (!a)
  if (s.ctx key a).st == .idle then offerSwap s key else s

/-- A swap begins (R163). -/
def beginSwap (s : State) (key : Nat) : State := s.modCore key fun c => { c with swapping := true }

/-- Whether the shadow can take over under SWAP or AUTOSW: READY, or IDLE with a record (R163, R434). -/
def shadowReady (s : State) (key : Nat) : Bool :=
  let x := s.ctx key (!(s.core key).active)
  !x.vac && (x.st == .ready || (x.st == .idle && !x.inbox.isEmpty))

end Sys2Proof.Machine
end

