-- ==== Sys2Proof/Machine/BankIsa.lean ====
section
/-! DEFINITION. Banks and the killing of scratchpad words (R187 to R191, R427, R428): the instructions, and the steps of idle times and wakes. -/

namespace Sys2Proof.Machine

/-- The banks that a bank instruction names for the executing context. -/
def bankOfSel (s : State) : BankSel → BankOf
  | .rs => rsBank s.act
  | .spm => .spm

/-- Banks named by a mask's low 32 bits. -/
def bankBits (a : Word) : List Nat := (List.range 32).filter fun k => a.getLsbD k

/-- BKWAKE (R188, R427): RETAIN and OFF banks start their wake. -/
def execBkwake (c : Com) (a : Use Src) (k : BankSel) (s : State) : Host.Outcome State Fault Refusal :=
  issueFall .tile c s fun s => do
    let (m, s) ← readSrc s a.r
    let b := bankOfSel s k
    return touchBanks s s.focus b ((bankBits m).filter fun i => (s.me.bank b i).st == .retain || (s.me.bank b i).st == .off)

/-- BKHOLD of one bank: FULL goes to RETAIN, WAKING when its wake ends. -/
def holdBank (c : Core) (b : BankOf) (i : Nat) : Core :=
  let x := c.bank b i
  match x.st with
  | .full => c.setBank b i { x with st := .retain }
  | .waking => c.setBank b i { x with hold := true }
  | _ => c

/-- BKHOLD (R188, R427). -/
def execBkhold (c : Com) (a : Use Src) (k : BankSel) (s : State) : Host.Outcome State Fault Refusal :=
  issueFall .tile c s fun s => do
    let (m, s) ← readSrc s a.r
    return s.modMe fun c => (bankBits m).foldl (fun c i => holdBank c (bankOfSel s k) i) c

/-- The locations of a vector or matrix instruction's memory operand: those resolved at its push, or where a MEPI's rows go now (R230). -/
def opLocs (s : State) (key : Nat) (o : VOp) : List Nat :=
  match mepiParts o.instr with
  | none => o.mem.map (·.2)
  | some (t, _) =>
    (List.range 32).flatMap fun i =>
      match resolveBytes s (isFw key) key (s.ctx key o.ctx).asid (epiSpace o) wrUse (addrRange (mepiRow o i) (rowBytes t)) with
      | .ok (ls, _) => ls
      | .error _ => []

/-- A vector or matrix instruction accesses a bank: by its granules, or by its scratchpad words. -/
def usesBank (s : State) (o : VOp) (k : BankSel) (i : Nat) : Bool :=
  match k with
  | .rs => (readsOf o).any (fun g => g / 32 == i) || (writeGranules o).any (fun g => g / 32 == i)
  | .spm => (opLocs s s.focus o).any fun l => (match spmOfLoc l with | some (key, _) => key == s.focus && s.spmBank l == i | none => false)

/-- Work of the executing context that BKOFF of a bank waits for (R188): queued and granted instructions, and pending kills. -/
def bankBusy (s : State) (k : BankSel) (i : Nat) : Bool :=
  (s.entriesOf s.focus s.act).any (fun e => usesBank s e.op k i) || (s.flightsOf s.focus s.act).any (fun f => usesBank s f.op k i)
    || (s.episOf s.focus s.act).any (fun e => usesBank s e.op k i) || (k == .rs && s.me.late.any fun l => l.ctx == s.act && l.bank == i)

/-- Kill every word of a scratchpad bank (R190): by physical word. -/
def killSpmBank (s : State) (key i : Nat) : State :=
  let mine (w : Nat) : Bool := decide (locSpm key 0 ≤ w * 8) && decide (w * 8 < locSpm key 0 + 0x40000) && w % 32 == i
  let ws := s.spmLive.filter mine
  let marked (m : Nat) : Bool := (match spmOfLoc (m * 16) with | some (k, _) => k == key | none => false)
    && (mine (s.phys (m * 16) / 8) || mine (s.phys (m * 16 + 8) / 8))
  { s with mem := ws.foldl (fun m w => m.putN (w * 8) (List.replicate 8 0)) s.mem, full := s.full.filter fun w => !mine w
           spmLive := s.spmLive.filter fun w => !mine w, poison := s.poison.filter fun w => !mine w, marks := s.marks.filter fun m => !marked m }

/-- One bank goes OFF: its granules die, or its words are killed. -/
def offBank (s : State) (key : Nat) (b : BankOf) (i : Nat) : State :=
  let s := match b with
    | .spm => killSpmBank s key i
    | .rs0 => killGranules s key false ((List.range 32).map (32 * i + ·))
    | .rs1 => killGranules s key true ((List.range 32).map (32 * i + ·))
  s.modCore key fun c => c.setBank b i { c.bank b i with st := .off, hold := false }

/-- BKOFF (R188, R427): blocked until the work that uses the banks is done. -/
def execBkoff (c : Com) (a : Use Src) (k : BankSel) (s : State) : Host.Outcome State Fault Refusal :=
  issueFall .tile c s fun s => do
    let (m, t) ← readSrc s a.r
    blockFor (!((bankBits m).any fun i => bankBusy s k i))
    return (bankBits m).foldl (fun s i => offBank s s.focus (bankOfSel s k) i) t

/-- Code of a bank's state (R187). -/
def bankNum : BankSt → Nat
  | .off => 0 | .retain => 1 | .full => 2 | .waking => 3

/-- BKSTAT (R427). -/
def execBkstat (c : Com) (d : Dst) (k : BankSel) (s : State) : Host.Outcome State Fault Refusal :=
  issueFall .tile c s fun s =>
    writeDst s d (BitVec.ofNat 64 ((List.range 32).foldl (fun v i => v + bankNum (s.me.bank (bankOfSel s k) i).st * 4 ^ i) 0))

/-- SPKILL (R191, R428): the words of a range die in ascending order. -/
def execSpkill (c : Com) (d : Src) (a : Use Src) (off : Off) (s : State) : Host.Outcome State Fault Refusal :=
  issueFall .tile c s fun s => do
    let (x, s) ← readSrc s a.r
    let (n, s) ← readSrc s d
    memReady s
    let at_ := addrPlus x (offVal off)
    raiseIf (decide (spmSize s.focus < at_ + n.toNat)) (fBound at_ 1)
    raiseIf (at_ % 8 != 0 || n.toNat % 8 != 0) (fAlign at_ 1)
    return killWords s ((List.range (n.toNat / 8)).map fun i => locSpm s.focus (at_ + 8 * i))

/-! ### Steps of time (R188, R189) -/

/-- The idle time in force: below 16 acts as 16, above 4,096 as 4,096 (R189). -/
def idleTime (c : Core) : Nat := max 16 (min 4096 c.bkIdle.toNat)

/-- BANK_IDLE_OFF: nothing in the bank, and no access for the idle time. -/
def execBankIdleOff (key : Nat) (b : BankOf) (k : Fin 32) (s : State) : Host.Outcome State Fault Refusal :=
  let c := s.core key
  let x := c.bank b k.val
  .next (if (x.st == .full || x.st == .retain) && !s.bankLive key b k.val && decide (x.last + idleTime c ≤ c.cyc) then
    s.setCore key (c.setBank b k.val { x with st := .off }) else s)

/-- Whether a bank holds something LIVE, a KILLPEND granule not counting (R188). -/
def bankHolds (s : State) (key : Nat) (b : BankOf) (k : Nat) : Bool :=
  let has (n : Bool) : Bool := ((s.ctx key n).live &&& ~~~(s.ctx key n).pend).toNat / 2 ^ (32 * (k % 32)) % 2 ^ 32 != 0
  match b with
  | .rs0 => has false
  | .rs1 => has true
  | .spm => s.bankLive key .spm k

/-- BANK_RETAIN_ENTRY: something LIVE, and no access for RET × 16 cycles. -/
def execBankRetainEntry (key : Nat) (b : BankOf) (k : Fin 32) (s : State) : Host.Outcome State Fault Refusal :=
  let c := s.core key
  let x := c.bank b k.val
  .next (if x.st == .full && c.bkRet != 0 && bankHolds s key b k.val && decide (x.last + c.bkRet.toNat * 16 ≤ c.cyc) then
    s.setCore key (c.setBank b k.val { x with st := .retain }) else s)

/-- BANK_WAKE_DONE: FULL, and the writes that waited for the wake are performed; then RETAIN where BKHOLD has named the bank meanwhile. -/
def execBankWakeDone (key : Nat) (b : BankOf) (k : Fin 32) (s : State) : Host.Outcome State Fault Refusal :=
  let c := s.core key
  let x := c.bank b k.val
  .next (if x.st == .waking && decide (x.wakeAt ≤ c.cyc) then
    let s := s.setCore key (c.setBank b k.val { x with st := .full, last := c.cyc, hold := false })
    let s := match b with
      | .rs0 => lateWrites s key false k.val
      | .rs1 => lateWrites s key true k.val
      | .spm => s
    if x.hold then s.modCore key fun c => holdBank c b k.val else s
  else s)

/-- A write of `BKCFG` (R189). -/
def writeBkcfg (s : State) (key : Nat) (v : Word) : State :=
  s.modCore key fun c => { c with bkRet := BitVec.ofNat 12 (bitsAt v 16 12), bkIdle := BitVec.ofNat 13 (bitsAt v 0 13) }

/-- BKCFG_WRITE. -/
def execBkcfgWrite (key : Nat) (v : Word) (s : State) : Host.Outcome State Fault Refusal := .next (writeBkcfg s key v)

end Sys2Proof.Machine
end

