-- ==== Sys2Proof/Machine/Crypto.lean ====
section
/-! DEFINITION. The published functions that R2 and R89 name: SHA3-256 (FIPS 202) and ML-DSA-44 (FIPS 204) in its deterministic variant. The spec
names them and does not print them: log entry 4. Every loop that FIPS 204 leaves unbounded ends at a bound that is met but for a probability below
2^-256. -/

namespace Sys2Proof.Machine

/-! ### Keccak (FIPS 202) -/

/-- A lane of the Keccak state, by its x and y. -/
def kLane (a : List (BitVec 64)) (x y : Nat) : BitVec 64 := a.getD (x % 5 + 5 * (y % 5)) 0

/-- Rotation offsets by x + 5y. -/
def kRot : List Nat := [0, 1, 62, 28, 27, 36, 44, 6, 55, 20, 3, 10, 43, 25, 39, 41, 45, 15, 21, 8, 18, 2, 61, 56, 14]

/-- Round constants. -/
def kConst : List (BitVec 64) :=
  [0x0000000000000001, 0x0000000000008082, 0x800000000000808A, 0x8000000080008000, 0x000000000000808B, 0x0000000080000001, 0x8000000080008081,
   0x8000000000008009, 0x000000000000008A, 0x0000000000000088, 0x0000000080008009, 0x000000008000000A] ++
  [0x000000008000808B, 0x800000000000008B, 0x8000000000008089, 0x8000000000008003, 0x8000000000008002, 0x8000000000000080, 0x000000000000800A,
   0x800000008000000A, 0x8000000080008081, 0x8000000000008080, 0x0000000080000001, 0x8000000080008008]

/-- A function of x and y over the 25 lanes. -/
def kTab (f : Nat → Nat → BitVec 64) : List (BitVec 64) := (List.range 25).map fun i => f (i % 5) (i / 5)

/-- One round. -/
def kRound (a : List (BitVec 64)) (rc : BitVec 64) : List (BitVec 64) :=
  let c := (List.range 5).map fun x => (List.range 5).foldl (fun v y => v ^^^ kLane a x y) 0
  let d := (List.range 5).map fun x => c.getD ((x + 4) % 5) 0 ^^^ (c.getD ((x + 1) % 5) 0).rotateLeft 1
  let a := kTab fun x y => kLane a x y ^^^ d.getD x 0
  let b := kTab fun x y => let u := (x + 3 * y) % 5; (kLane a u x).rotateLeft (kRot.getD (u + 5 * x) 0)
  let a := kTab fun x y => kLane b x y ^^^ (~~~kLane b (x + 1) y &&& kLane b (x + 2) y)
  match a with
  | l :: ls => (l ^^^ rc) :: ls
  | [] => []

/-- The permutation Keccak-f[1600]. -/
def keccakF (a : List (BitVec 64)) : List (BitVec 64) := kConst.foldl kRound a

/-- XOR a block into the state, a lane for each 8 bytes. -/
def kXor (a : List (BitVec 64)) (bs : List Byte) : List (BitVec 64) :=
  (a.zip (List.range 25)).map fun p => p.1 ^^^ BitVec.ofNat 64 (natOfBytes ((bs.drop (8 * p.2)).take 8))

/-- Absorb padded bytes, a block of the rate at a time. -/
def kAbsorb (rate : Nat) : Nat → List Byte → List (BitVec 64) → List (BitVec 64)
  | 0, _, a => a
  | n + 1, bs, a => if bs.isEmpty then a else kAbsorb rate n (bs.drop rate) (keccakF (kXor a (bs.take rate)))

/-- Squeeze n blocks. -/
def kSqueeze (rate : Nat) : Nat → List (BitVec 64) → List Byte
  | 0, _ => []
  | n + 1, a => (a.flatMap fun l => bytesOfNat 8 l.toNat).take rate ++ kSqueeze rate n (keccakF a)

/-- A sponge: the first n blocks of its output, for a rate and a domain suffix. -/
def sponge (rate suffix n : Nat) (msg : List Byte) : List Byte :=
  let pad := rate - msg.length % rate
  let tail : List Byte :=
    if pad = 1 then [BitVec.ofNat 8 (suffix + 0x80)] else [BitVec.ofNat 8 suffix] ++ List.replicate (pad - 2) 0 ++ [0x80]
  kSqueeze rate n (kAbsorb rate (msg.length / rate + 1) (msg ++ tail) (List.replicate 25 0))

/-- SHA3-256. -/
def sha3 (msg : List Byte) : BitVec 256 := BitVec.ofNat 256 (natOfBytes ((sponge 136 0x06 1 msg).take 32))

/-- SHAKE256, its first n bytes. -/
def shake256 (msg : List Byte) (n : Nat) : List Byte := (sponge 136 0x1F ((n + 135) / 136) msg).take n

/-- SHAKE128, its first n bytes. -/
def shake128 (msg : List Byte) (n : Nat) : List Byte := (sponge 168 0x1F ((n + 167) / 168) msg).take n

/-! ### Polynomials of ML-DSA-44 (FIPS 204): 256 coefficients modulo q -/

/-- The modulus q. -/
def mlQ : Nat := 8380417
/-- γ1, γ2, β, ω and τ. -/
def mlG1 : Nat := 2 ^ 17
/-- γ2. -/
def mlG2 : Nat := 95232
/-- β. -/
def mlBeta : Nat := 78
/-- ω. -/
def mlOmega : Nat := 80
/-- τ. -/
def mlTau : Nat := 39

/-- A polynomial. -/
abbrev MlPoly := List Nat

/-- Sum. -/
def pAdd (a b : MlPoly) : MlPoly := List.zipWith (fun x y => (x + y) % mlQ) a b
/-- Difference. -/
def pSub (a b : MlPoly) : MlPoly := List.zipWith (fun x y => (x + mlQ - y) % mlQ) a b
/-- Product of transforms. -/
def pMul (a b : MlPoly) : MlPoly := List.zipWith (fun x y => x * y % mlQ) a b
/-- The residue of an integer. -/
def modQ (v : Int) : Nat := (v % (mlQ : Int)).toNat
/-- The representative of least magnitude. -/
def centred (x : Nat) : Int := if 2 * x ≤ mlQ then x else (x : Int) - mlQ

/-- 8 bits in reverse order. -/
def bitRev8 (m : Nat) : Nat := ((List.range 8).map fun i => m / 2 ^ i % 2 * 2 ^ (7 - i)).sum

/-- x^e modulo q for an e below 256. -/
def powQ (x e : Nat) : Nat := (List.range 8).foldl (fun r i => let r := r * r % mlQ; if e / 2 ^ (7 - i) % 2 = 1 then r * x % mlQ else r) 1

/-- ζ to the power of the reversed index, ζ being 1753. -/
def zeta (m : Nat) : Nat := powQ 1753 (bitRev8 m)

/-- The transform below node m of its tree, 2^n coefficients. -/
def nttAt : Nat → Nat → MlPoly → MlPoly
  | 0, _, w => w
  | n + 1, m, w =>
    let lo := w.take (2 ^ n)
    let t := (w.drop (2 ^ n)).map fun x => zeta m * x % mlQ
    nttAt n (2 * m) (pAdd lo t) ++ nttAt n (2 * m + 1) (pSub lo t)

/-- NTT. -/
def ntt (w : MlPoly) : MlPoly := nttAt 8 1 w

/-- The inverse below node m of the 2^d on its level, without the last factor. -/
def invAt : Nat → Nat → Nat → MlPoly → MlPoly
  | 0, _, _, w => w
  | n + 1, d, m, w =>
    let lo := invAt n (d + 1) (2 * m) (w.take (2 ^ n))
    let hi := invAt n (d + 1) (2 * m + 1) (w.drop (2 ^ n))
    let z := mlQ - zeta (3 * 2 ^ d - 1 - m)
    pAdd lo hi ++ (pSub lo hi).map fun x => z * x % mlQ

/-- The inverse NTT. -/
def invNtt (w : MlPoly) : MlPoly := (invAt 8 0 1 w).map fun x => x * 8347681 % mlQ

/-- A matrix of transforms times a vector of transforms. -/
def matVec (a : List (List MlPoly)) (v : List MlPoly) : List MlPoly :=
  a.map fun row => (List.zipWith pMul row v).foldl pAdd (List.replicate 256 0)

/-! ### Sampling -/

/-- RejNTTPoly: of three bytes each, the numbers below q. -/
def rejNtt : List Byte → List Nat
  | a :: b :: c :: rest =>
    let z := a.toNat + b.toNat * 2 ^ 8 + c.toNat % 128 * 2 ^ 16
    if z < mlQ then z :: rejNtt rest else rejNtt rest
  | _ => []

/-- ExpandA. -/
def expandA (rho : List Byte) : List (List MlPoly) :=
  (List.range 4).map fun r => (List.range 4).map fun s =>
    (rejNtt (shake128 (rho ++ [BitVec.ofNat 8 s, BitVec.ofNat 8 r]) 1008)).take 256

/-- RejBoundedPoly: of each half byte below 15, a coefficient from -2 to 2. -/
def rejBounded (bs : List Byte) : MlPoly :=
  ((bs.flatMap fun b => [b.toNat % 16, b.toNat / 16]).filter (· < 15)).map fun h => modQ (2 - (h % 5 : Nat))

/-- ExpandS, for the first n polynomials from number r on. -/
def expandS (rho : List Byte) (r n : Nat) : List MlPoly :=
  (List.range n).map fun i => (rejBounded (shake256 (rho ++ bytesOfNat 2 (r + i)) 544)).take 256

/-- Bit fields of n bits, least significant first. -/
def unpackBits (n : Nat) (bs : List Byte) : List Nat :=
  let v := natOfBytes bs
  (List.range (8 * bs.length / n)).map fun i => v / 2 ^ (n * i) % 2 ^ n

/-- Numbers packed as fields of n bits. -/
def packBits (n : Nat) (xs : List Nat) : List Byte :=
  bytesOfNat (n * xs.length / 8) (xs.foldr (fun x v => x + 2 ^ n * v) 0)

/-- ExpandMask. -/
def expandMask (rho : List Byte) (kappa : Nat) : List MlPoly :=
  (List.range 4).map fun r => (unpackBits 18 (shake256 (rho ++ bytesOfNat 2 (kappa + r)) 576)).map fun (z : Nat) => modQ ((mlG1 : Int) - z)

/-- The loop of SampleInBall: i the coefficient next set, bs the bytes to draw from. -/
def ballAt (signs : Nat) : Nat → Nat → List Byte → MlPoly → MlPoly
  | 0, _, _, c => c
  | _, _, [], c => c
  | fuel + 1, i, j :: bs, c =>
    if 256 ≤ i then c
    else if i < j.toNat then ballAt signs fuel i bs c
    else
      let s := if signs / 2 ^ (i + mlTau - 256) % 2 = 1 then mlQ - 1 else 1
      ballAt signs fuel (i + 1) bs ((c.set i (c.getD j.toNat 0)).set j.toNat s)

/-- SampleInBall. -/
def sampleInBall (rho : List Byte) : MlPoly :=
  let bs := shake256 rho 136
  ballAt (natOfBytes (bs.take 8)) 128 (256 - mlTau) (bs.drop 8) (List.replicate 256 0)

/-! ### Rounding and hints -/

/-- Power2Round: the high and the low part. -/
def power2Round (r : Nat) : Nat × Int :=
  let lo : Int := if 4096 < r % 8192 then (r % 8192 : Nat) - 8192 else (r % 8192 : Nat)
  ((((r : Int) - lo) / 8192).toNat, lo)

/-- Decompose. -/
def decompose (r : Nat) : Nat × Int :=
  let m := r % (2 * mlG2)
  let lo : Int := if mlG2 < m then (m : Int) - 2 * mlG2 else m
  if (r : Int) - lo = mlQ - 1 then (0, lo - 1) else (((r : Int) - lo).toNat / (2 * mlG2), lo)

/-- A bound on every coefficient's magnitude. -/
def normBelow (n : Nat) (v : List MlPoly) : Bool := v.all fun p => p.all fun x => decide ((centred x).natAbs < n)

/-- HintBitPack. -/
def packHint (h : List (List Bool)) : List Byte :=
  let ones := h.map fun p => (List.range 256).filter fun j => p.getD j false
  let ends := (List.range 4).map fun i => ((ones.take (i + 1)).map List.length).sum
  let ix := ones.flatten
  (ix ++ List.replicate (mlOmega - ix.length) 0 ++ ends).map (BitVec.ofNat 8)

/-! ### Keys and signatures -/

/-- A key pair as its seed gives it. -/
structure MlKeys where
  rho : List Byte
  k : List Byte
  a : List (List MlPoly)
  s1 : List MlPoly
  s2 : List MlPoly
  t0 : List MlPoly
  pk : List Byte

/-- KeyGen_internal. -/
def mldsaKeys (seed : BitVec 256) : MlKeys :=
  let h := shake256 (bytesOfNat 32 seed.toNat ++ [4, 4]) 128
  let rho := h.take 32
  let a := expandA rho
  let s1 := expandS ((h.drop 32).take 64) 0 4
  let s2 := expandS ((h.drop 32).take 64) 4 4
  let t := List.zipWith pAdd ((matVec a (s1.map ntt)).map invNtt) s2
  { rho, k := h.drop 96, a, s1, s2, t0 := t.map fun p => p.map fun x => modQ (power2Round x).2
    pk := rho ++ t.flatMap fun p => packBits 10 (p.map fun x => (power2Round x).1) }

/-- The public key of a seed: 1,312 bytes. -/
def mldsaPublic (seed : BitVec 256) : List Byte := (mldsaKeys seed).pk

/-- One attempt of Sign_internal, with the transforms of the secrets: the signature, or none where it is rejected. -/
def signOnce (key : MlKeys) (s1 s2 t0 : List MlPoly) (mu rho : List Byte) (kappa : Nat) : Option (List Byte) :=
  let y := expandMask rho kappa
  let w := (matVec key.a (y.map ntt)).map invNtt
  let w1 := w.map fun p => p.map fun x => (decompose x).1
  let ct := shake256 (mu ++ w1.flatMap (packBits 6)) 32
  let c := ntt (sampleInBall ct)
  let z := List.zipWith pAdd y (s1.map fun p => invNtt (pMul c p))
  let r := List.zipWith pSub w (s2.map fun p => invNtt (pMul c p))
  let low := r.all fun p => p.all fun x => decide ((decompose x).2.natAbs < mlG2 - mlBeta)
  let ct0 := t0.map fun p => invNtt (pMul c p)
  let hint := List.zipWith (fun p q => List.zipWith (fun x y => (decompose x).1 != (decompose ((x + y) % mlQ)).1) p q) r ct0
  let ones := (hint.map fun p => p.count true).sum
  if normBelow (mlG1 - mlBeta) z && low && normBelow mlG2 ct0 && decide (ones ≤ mlOmega) then
    some (ct ++ z.flatMap (fun p => packBits 18 (p.map fun x => ((mlG1 : Int) - centred x).toNat)) ++ packHint hint)
  else none

/-- The attempts of Sign_internal. -/
def signLoop (try_ : Nat → Option (List Byte)) : Nat → Nat → List Byte
  | 0, _ => List.replicate 2420 0
  | n + 1, kappa =>
    match try_ kappa with
    | some sig => sig
    | none => signLoop try_ n (kappa + 4)

/-- The deterministic signature of a message by a seed's private key, with an empty context: 2,420 bytes. -/
def mldsaSign (seed : BitVec 256) (msg : List Byte) : List Byte :=
  let key := mldsaKeys seed
  let mu := shake256 (shake256 key.pk 64 ++ [0, 0] ++ msg) 64
  let rho := shake256 (key.k ++ List.replicate 32 0 ++ mu) 64
  signLoop (signOnce key (key.s1.map ntt) (key.s2.map ntt) (key.t0.map ntt) mu rho) 814 0

end Sys2Proof.Machine
end

