-- ==== Sys2Proof/Machine/Boot.lean ====
section
/-! DEFINITION. Reset, boot, features, attestation, life cycle, alarms and errors (R8, R23, R85 to R95). -/

namespace Sys2Proof.Machine

/-! ### Reset and wipe (R87, R91) -/

/-- MODULE_RESET: every register at its reset value and every memory wiped; the fuses, the host's memory, the module's id and its
place in a pod stay. -/
def resetModule (s : State) : State :=
  { State.reset with modId := s.modId, inPod := s.inPod, fuses := s.fuses, hostMem := s.hostMem, hostRead := s.hostRead, hostPois := s.hostPois, msix := s.msix, tick := s.tick
                     agenda := s.agenda }

/-- MODULE_RESET. -/
def execModuleReset (s : State) : Host.Outcome State Fault Refusal := .next (resetModule s)

/-- WIPE_COMPLETE: step 2 of R87. -/
def execWipeComplete (s : State) : Host.Outcome State Fault Refusal := .next { s with wiped := true }

/-! ### The firmware lock and the boot ROM (R87 to R89) -/

/-- FWLOCK_WRITE: the register's single write (R88). -/
def writeFwlock (s : State) (v : Word) : State :=
  if s.fwWritten then s
  else { s with fwWritten := true, lock := v.getLsbD 63, lockLimit := BitVec.ofNat 24 (bitsAt v 32 24), lockBase := BitVec.ofNat 24 (bitsAt v 0 24) }

/-- FWLOCK_WRITE. -/
def execFwlockWrite (v : Word) (s : State) : Host.Outcome State Fault Refusal := .next (writeFwlock s v)

/-- The ASCII bytes of a label. -/
def labelBytes (l : List Nat) : List Byte := l.map (BitVec.ofNat 8)
/-- "JL16-". -/
def labelJl : List Nat := [0x4A, 0x4C, 0x31, 0x36, 0x2D]
/-- "JL16-L1". -/
def labelL1 : List Byte := labelBytes (labelJl ++ [0x4C, 0x31])
/-- "JL16-RMA" (R92). -/
def labelRma : List Byte := labelBytes (labelJl ++ [0x52, 0x4D, 0x41])
/-- "JL16-KEY". -/
def labelKey : List Byte := labelBytes (labelJl ++ [0x4B, 0x45, 0x59])
/-- The 32 bytes of a 256-bit value. -/
def bytes32 (v : BitVec 256) : List Byte := bytesOfNat 32 v.toNat
/-- The seed of a layer's key pair (R89). -/
def keySeed (secret : BitVec 256) : BitVec 256 := sha3 (labelKey ++ bytes32 secret)

/-- "JL16-L2". -/
def labelL2 : List Byte := labelBytes (labelJl ++ [0x4C, 0x32])

/-- A layer's certificate (R90): its public key, its measurement, the life-cycle state, and their signature with the secret of the layer before. -/
def layerCert (m secret before : BitVec 256) (lc : BitVec 2) : List Byte :=
  let body := mldsaPublic (keySeed secret) ++ bytes32 m ++ bytesOfNat 8 lc.toNat
  body ++ mldsaSign (keySeed before) body

/-- The layer that firmware derives for a runtime image (R89, R90). -/
def deriveLayer2 (s : State) (image : Option (List Byte)) : State :=
  match image with
  | none => s
  | some bs =>
    let m2 := sha3 bs
    let s2 := sha3 (labelL2 ++ bytes32 s.s1 ++ bytes32 m2)
    { s with m2, s2, cert2 := some (layerCert m2 s2 s.s1 s.fuses) }

/-- What firmware sets before READY (R8, R87). -/
def fwInit (s : State) (f : FwInit) : State :=
  let s := { s with xlbase := f.xlbase &&& 0xFFFFFF0001, alarmAct := f.alarmAct
                    ports := Vector.ofFn fun p : Fin 8 => { s.ports.get p with ldly := f.ldly.getD p.val (s.ports.get p).ldly }
                    regs := Vector.ofFn fun d : Fin 4 => { s.regs.get d with lim := f.slewlim.getD d.val (s.regs.get d).lim } }
  f.cladm.foldl (fun s x => if x.1 < 80 then s.modCluster x.1 fun c => { c with cladm := c.cladm.set (Fin.ofNat 8 x.2.1) (x.2.2 &&& 0x1FFFF) } else s) s

/-- Start the firmware of a controller at address 0 with every capability (log entry 19). -/
def startController (s : State) (key : Nat) : State :=
  startTask s key false 0 0 0 (Vector.replicate 4 0) 0 0 0x3F { active := true }

/-- BOOT_GO (R87 steps 4 to 6): ignored until the lock is set, refused on an empty range, and in SCRAP the ROM has stopped (R92). M1 is that of the bytes
as they are stored, of a poisoned word too (DESIGN CHOICE, log entry 47). -/
def bootGo (s : State) (f : FwInit) : State :=
  if s.go || !s.wiped || !s.lock || s.lockLimit.toNat < s.lockBase.toNat || s.fuses = 3 then s
  else
    let n := s.lockLimit.toNat + 1 - s.lockBase.toNat
    let m1 := sha3 (s.mem.getN (s.lockBase.toNat * 2 ^ 16) (n * 2 ^ 16))
    let s1 := sha3 ((if s.fuses = 2 then labelRma else labelL1) ++ bytes32 Config.deviceSecret ++ bytes32 m1)
    let s := { s with go := true, measured := true, bootReady := true, m1, s1, cert := layerCert m1 s1 Config.deviceSecret s.fuses
                      pk0 := mldsaPublic (keySeed Config.deviceSecret) }
    startController ((List.range 80).foldl (fun s i => startController s (leafKey i)) (deriveLayer2 (fwInit s f) f.layer2)) globalKey

/-- BOOT_GO. -/
def execBootGo (fw : FwInit) (s : State) : Host.Outcome State Fault Refusal := .next (bootGo s fw)

/-! ### Features (R85, R86) -/

/-- FEATACC_LOWER_WRITE: the single write of the lower half, once firmware runs (R86, R87). -/
def writeFeatLower (s : State) (v : Word) : State :=
  if s.featLowerSet || !s.bootReady then s else { s with featLower := v &&& (if v.getLsbD 0 then 0x7FF else 0x7FD), featLowerSet := true }

/-- FEATACC_UPPER_WRITE: acceptance takes effect, with the lower half as it stands; no feature is offered in the upper half. -/
def writeFeatUpper (s : State) (_v : Word) : State :=
  if s.featUpperSet || !s.bootReady then s else { s with featUpper := 0, featUpperSet := true, featAcc := s.featLower }

/-- FEATACC_LOWER_WRITE. -/
def execFeatAccLower (v : Word) (s : State) : Host.Outcome State Fault Refusal := .next (writeFeatLower s v)
/-- FEATACC_UPPER_WRITE. -/
def execFeatAccUpper (v : Word) (s : State) : Host.Outcome State Fault Refusal := .next (writeFeatUpper s v)

/-! ### Attestation (R90) -/

/-- ATTEST_REQUEST: a write of `ATREQ`. -/
def writeAtreq (s : State) (v : Word) : State :=
  let s := if v.getLsbD 1 then { s with atErr := false } else s
  if !v.getLsbD 0 then s
  else if !s.feat 10 || s.keysErased || s.atBusy then { s with atErr := true }
  else { s with atBusy := true }

/-- ATTEST_REQUEST. -/
def execAttestRequest (v : Word) (s : State) : Host.Outcome State Fault Refusal := .next (writeAtreq s v)

/-- Bytes 0 to 135 of a report. -/
def reportBody (s : State) : List Byte :=
  bytesOfNat 8 (1 + s.fuses.toNat * 2 ^ 16) ++ bytes32 s.nonce ++ bytes32 s.m1 ++ bytes32 s.m2 ++ bytesOfNat 8 s.featAcc.toNat
    ++ bytesOfNat 8 s.featUpper.toNat ++ bytesOfNat 8 s.tb ++ List.replicate 8 0

/-- The key of a report: that of layer 2, if there is one. -/
def reportKey (s : State) : BitVec 256 := keySeed (if s.cert2.isSome then s.s2 else s.s1)

/-- ATTEST_REPORT_DONE: the report, or an error where the keys have been erased meanwhile. Its nonce is the mailbox's as it stands now (DESIGN CHOICE, log
entry 47). -/
def execAttestReportDone (s : State) : Host.Outcome State Fault Refusal :=
  .next (if !s.atBusy then s
    else if s.keysErased then { s with atBusy := false, atErr := true }
    else { s with atBusy := false, report := reportBody s ++ mldsaSign (reportKey s) (reportBody s) })

/-! ### Life cycle (R92) -/

/-- The changes that are allowed: TEST to PROD, PROD to RMA, and any other state to SCRAP. -/
def lcAllowed (cur target : BitVec 2) : Bool := (cur == 0 && target == 1) || (cur == 1 && target == 2) || (cur != 3 && target == 3)

/-- LIFECYCLE_CHANGE: a write of `LCREQ`. -/
def writeLcreq (s : State) (v : Word) : State :=
  let t := BitVec.ofNat 2 (bitsAt v 0 2)
  let s := { s with lcErr := s.lcErr && !v.getLsbD 9, lcTarget := t }
  if !v.getLsbD 8 then s
  else if lcAllowed s.fuses t then resetModule { s with fuses := t }
  else { s with lcErr := true }

/-- LIFECYCLE_CHANGE. -/
def execLifecycleChange (v : Word) (s : State) : Host.Outcome State Fault Refusal := .next (writeLcreq s v)

/-! ### Alarms (R23, R93) -/

/-- ALARM_TAMPER. -/
def execAlarmTamper (s : State) : Host.Outcome State Fault Refusal := .next (raiseAlarm s 0 false)
/-- ALARM_GLITCH. -/
def execAlarmGlitch (s : State) : Host.Outcome State Fault Refusal := .next (raiseAlarm s 1 false)
/-- OVER_TEMPERATURE_HALT: at 110 °C the module halts, whatever ACT holds. -/
def execOverTemperatureHalt (s : State) : Host.Outcome State Fault Refusal := .next (raiseAlarm s 3 true)
/-- SUPPLY_FAULT. -/
def execSupplyFault (s : State) : Host.Outcome State Fault Refusal := .next (raiseAlarm s 3 false)

/-- A write of `ALARM` (R93): the causes are W1C. A reserved code of one cause in ACT leaves that cause's two bits, and the other causes' bits of the
same write take effect (R10 says "that field"; that each cause's bits are a field of their own is the model's choice: DESIGN CHOICE, log entry 44). -/
def writeAlarm (s : State) (v : Word) : State :=
  let act := (List.range 4).foldl (fun (a : Nat) c =>
    let f := bitsAt v (12 + 2 * c) 2
    a + (if f = 3 then s.alarmAct.toNat / 4 ^ c % 4 else f) * 4 ^ c) 0
  { s with alarm := s.alarm &&& ~~~BitVec.ofNat 4 (bitsAt v 0 4), alarmAct := BitVec.ofNat 8 act }

/-! ### Errors and poison (R94, R95) -/

/-- ERROR_CORRECTED. -/
def execErrorCorrected (u : ErrUnit) (s : State) : Host.Outcome State Fault Refusal :=
  .next { s with errCor := s.errCor.set (errIx u) (inc32 (s.errCor.get (errIx u)) 1) }

/-- Whether a place lies in the memories of a unit; Links and CXL hold none. R95 names no counter for an instruction store, whose words can be poisoned as
those of every memory (R94): they count with the core's scratchpad (DESIGN CHOICE, log entry 47). -/
def unitHas (u : ErrUnit) (a : Nat) : Bool :=
  match u with
  | .regStore => 2 ^ 59 ≤ a && a < 2 ^ 60
  | .scratch => (spmOfLoc a).isSome || (clsOfLoc a).isSome || (2 ^ 56 ≤ a && a < 2 ^ 58)
  | .bsram => 2 ^ 58 ≤ a && a < 2 ^ 59
  | .towerL2 => isTwrLoc a || isDram a
  | .dram => isDram a
  | .links | .cxl => false

/-- POISON_MARK: uncorrectable data is marked in its 8-byte word and counted; on a link it is only counted. -/
def execPoisonMark (u : ErrUnit) (addr : Nat) (s : State) : Host.Outcome State Fault Refusal :=
  .next (if unitHas u addr then { countUnc s u with poison := nsAdd s.poison (addr / 8) }
    else if u == .links || u == .cxl then countUnc s u else s)

end Sys2Proof.Machine
end

