-- ==== Sys2Proof/Machine/Control.lean ====
section
/-! DEFINITION. Control instructions (R304 to R311): branches, calls, the hardware loop, TRAP, BRK and NOP. END stands in Tasks. -/

namespace Sys2Proof.Machine

/-- A PC-relative target (R269): signed 4-byte units from the instruction's own address. -/
def target (pc : BitVec 15) (imm : BitVec 24) : BitVec 15 := pc + (imm.signExtend 32 <<< 2).setWidth 15

/-- A code address taken from a register (R269, R306): bits [14:2], bits [1:0] zero. -/
def codeAddr (w : Word) : BitVec 15 := w.setWidth 15 &&& 0x7FFC

/-- The successor of the executing context's instruction (R268). -/
def State.succPc (s : State) : BitVec 15 := nextPc s.cur.pc (s.lenAt s.focus s.cur.pc)

/-- Take the branch if its condition holds (R304). -/
def branchIf (s : State) (b : Bool) (imm : BitVec 24) : State × Flow := (s, if b then .jump (target s.cur.pc imm) else .fall)

/-- BR (R305). -/
def execBr (c : Com) (imm : BitVec 24) (s : State) : Host.Outcome State Fault Refusal :=
  issue .any c s fun s => return branchIf s true imm

/-- BRC (R305). -/
def execBrc (c : Com) (cond : Cond) (a b : Use Src) (imm : BitVec 24) (s : State) : Host.Outcome State Fault Refusal :=
  issue .any c s fun s => do
    let (x, y, s) ← read2 s a.r b.r
    return branchIf s (condHolds cond x y) imm

/-- BRZ (R305). -/
def execBrz (c : Com) (a : Use Src) (imm : BitVec 24) (s : State) : Host.Outcome State Fault Refusal :=
  issue .any c s fun s => do
    let (x, s) ← readSrc s a.r
    return branchIf s (x == 0) imm

/-- BRNZ (R305). -/
def execBrnz (c : Com) (a : Use Src) (imm : BitVec 24) (s : State) : Host.Outcome State Fault Refusal :=
  issue .any c s fun s => do
    let (x, s) ← readSrc s a.r
    return branchIf s (x != 0) imm

/-- BRP.any (R305): waits for the vector instructions that write the predicate (R154). -/
def execBrpAny (c : Com) (a : Use (Fin 8)) (imm : BitVec 24) (s : State) : Host.Outcome State Fault Refusal :=
  issue .any c s fun s => do
    waitFor (!s.predBusy a.r)
    return branchIf s (s.cur.readP a.r != 0) imm

/-- BRP.all (R305). -/
def execBrpAll (c : Com) (a : Use (Fin 8)) (imm : BitVec 24) (s : State) : Host.Outcome State Fault Refusal :=
  issue .any c s fun s => do
    waitFor (!s.predBusy a.r)
    return branchIf s (s.cur.readP a.r == BitVec.allOnes 256) imm

/-- Write the link register g47 with the successor (R306). -/
def linkTo (s : State) (pc : BitVec 15) : Exec (State × Flow) := do
  let t ← writeDst s (.g 47) (s.succPc.setWidth 64)
  return (t, .jump pc)

/-- CALL (R306). -/
def execCall (c : Com) (imm : BitVec 24) (s : State) : Host.Outcome State Fault Refusal :=
  issue .any c s fun s => linkTo s (target s.cur.pc imm)

/-- CALLR (R306): A is read before g47 is written. -/
def execCallr (c : Com) (a : Use Src) (s : State) : Host.Outcome State Fault Refusal :=
  issue .any c s fun s => do
    let (x, s) ← readSrc s a.r
    linkTo s (codeAddr x)

/-- RET (R306). -/
def execRet (c : Com) (s : State) : Host.Outcome State Fault Refusal :=
  issue .any c s fun s => do
    let (x, s) ← readSrc s (.g 47)
    return (s, .jump (codeAddr x))

/-- JMPR (R306). -/
def execJmpr (c : Com) (a : Use Src) (s : State) : Host.Outcome State Fault Refusal :=
  issue .any c s fun s => do
    let (x, s) ← readSrc s a.r
    return (s, .jump (codeAddr x))

/-- Where a LOOP of count 0 goes (R307): past the instruction at its end, or to that address when it has no successor. -/
def loopSkip (s : State) (l : BitVec 15) : BitVec 15 :=
  let len := (s.byteAt (locIst s.focus l.toNat)).toNat % 4
  if len = 0 || 32 < l.toNat % 32 + lenBytes len then l else nextPc l (lenBytes len)

/-- LOOP (R307): the count is taken once, and a LOOP replaces the state it finds. -/
def execLoop (c : Com) (a : Use Src) (imm : BitVec 24) (s : State) : Host.Outcome State Fault Refusal :=
  issue .any c s fun s => do
    let (x, s) ← readSrc s a.r
    let n := x.setWidth 32
    let l := target s.cur.pc imm
    if n = 0 then return (s, .jump (loopSkip s l))
    else
      let start := s.succPc
      return (s.modCur fun k => { k with loop := some { count := n, start, last := l }, loopStart := start, loopLast := l }, .jump start)

/-- TRAP (R310): its fault, with its code as DETAIL. -/
def execTrap (c : Com) (code : BitVec 8) (s : State) : Host.Outcome State Fault Refusal :=
  issue .any c s fun _ => raise { code := 13, detail := code.toNat }

/-- BRK (R310). -/
def execBrk (c : Com) (s : State) : Host.Outcome State Fault Refusal :=
  issue .any c s fun _ => raise { code := 14 }

/-- NOP (R311): its issue cycle and its WT wait. -/
def execNop (c : Com) (_l : NopLen) (s : State) : Host.Outcome State Fault Refusal :=
  issueFall .any c s fun s => return s

end Sys2Proof.Machine
end

