-- ==== Sys2Proof/Machine/MemSide.lean ====
section
/-! DEFINITION. Memory-side units (R206, R207): what an access meets at its stack's base die, parking, and the release of a parked access. -/

namespace Sys2Proof.Machine

/-- The request with this id. -/
def State.req (s : State) (k : Nat) : Option Req := s.fabric.find? fun r => r.id == k

/-- Replace a request. -/
def putReq (s : State) (r : Req) : State := { s with fabric := s.fabric.map fun (x : Req) => if x.id = r.id then r else x }

/-- The 64 KiB unit of a DRAM location. -/
def unitOf (loc : Nat) : BitVec 24 := BitVec.ofNat 24 (loc / 2 ^ 16)

/-- A job that some cluster's footprint scheduler holds. -/
def State.job (s : State) (id : Nat) : Option Job := s.clusters.findSome? fun c => c.2.jobs.find? fun j => j.id == id

/-- The parked piece of an engine's access with this id. -/
def State.park (s : State) (id : Nat) : Option Park :=
  s.clusters.findSome? fun c => c.2.jobs.findSome? fun j => j.parks.find? fun k => k.id == id

/-- The unit at which a request or a piece of an engine's access is parked or waits for its replay. -/
def parkedAt (s : State) (id : Nat) : Option (BitVec 24) :=
  match s.req id with
  | some r => some (unitOf r.loc)
  | none => (s.park id).map fun k => unitOf k.loc

/-- What is parked for a unit, in queue order. -/
def parkedFor (s : State) (st : Nat) (u : BitVec 24) : List Nat := (s.stack st).queue.filter fun i => parkedAt s i == some u

/-- What an access meets at its stack's base die. -/
inductive Gate where
  | go | stay
  | park (err : Bool)
  deriving DecidableEq, Repr

/-- Whether a memory-side access to a location is applied, waits, or parks: at a HELD unit, or on an error in its words. The queue holds 64. A
replayed access goes in the order of the queue. -/
def unitGate (s : State) (id loc : Nat) (locs : List Nat) (parked replayed : Bool) : Gate :=
  let x := s.stack (stackOf loc)
  let mine := parkedFor s (stackOf loc) (unitOf loc)
  if replayed then (if mine.head? == some id then .go else .stay)
  else if parked || decide (64 ≤ x.queue.length) then .stay
  else if x.held.contains (unitOf loc) then .park false
  else if !mine.isEmpty then .stay
  else if locs.any s.poisonAt then .park true
  else .go

/-- A unit becomes HELD on an error: it is kept among up to 64, and the error is counted (R95, R207). -/
def errorUnit (s : State) (st : Nat) (u : BitVec 24) : State :=
  let x := s.stack st
  countUnc (s.setStack st
    { x with held := if x.held.contains u then x.held else x.held ++ [u]
             errUnits := if x.errUnits.contains u || decide (64 ≤ x.errUnits.length) then x.errUnits else x.errUnits ++ [u] }) .dram

/-- An access enters its stack's queue. -/
def enqueueUnit (s : State) (id loc : Nat) (err : Bool) : State :=
  let st := stackOf loc
  let s := if err then errorUnit s st (unitOf loc) else s
  s.setStack st { s.stack st with queue := (s.stack st).queue ++ [id] }

/-- An access leaves its stack's queue; a RELEASE is complete when the last of its unit has gone. -/
def dequeueUnit (s : State) (id loc : Nat) : State :=
  let st := stackOf loc
  let s := s.setStack st { s.stack st with queue := nsDel (s.stack st).queue id }
  let x := s.stack st
  if x.cmd = 2 && x.cmdUnit = unitOf loc && (parkedFor s st (unitOf loc)).isEmpty && !x.held.contains (unitOf loc) then
    s.setStack st { x with cmd := 0 } else s

/-- Change a job. -/
def modJob (s : State) (cl id : Nat) (f : Job → Job) : State :=
  s.modCluster cl fun c => { c with jobs := c.jobs.map fun j => if j.id = id then f j else j }

/-- An engine's access to a piece of memory goes, is dropped, or waits and perhaps parks. -/
inductive EngineGate where
  | go (s : State) | drop (s : State) | stay (s : State)

/-- A job's parked pieces without one. -/
def unparkPiece (s : State) (cl : Nat) (j : Job) (id : Nat) : State := modJob s cl j.id fun j => { j with parks := j.parks.filter fun k => k.id ≠ id }

/-- A job that ends leaves no piece of its own in a stack's queue. -/
def unparkAll (s : State) (cl : Nat) (j : Job) : State :=
  j.parks.foldl (fun s k => unparkPiece (dequeueUnit s k.id k.loc) cl j k.id) s

/-- The base die's answer to a piece of a job (R207). A parked piece waits for the command that names its unit; another one goes, waits or parks as any
access does. -/
def dieGate (s : State) (cl : Nat) (j : Job) (write : Bool) (locs : List Nat) : EngineGate :=
  let loc := locs.headD 0
  if !(j.msl.contains (loc / 64)) || decide (foreignBase ≤ loc) then .go s
  else
    match j.parks.find? fun k => k.loc == loc && k.write == write with
    | some k =>
      if k.drop then .drop (unparkPiece s cl j k.id)
      else
        match unitGate s k.id loc locs true k.replay with
        | .go => .go (unparkPiece (dequeueUnit s k.id loc) cl j k.id)
        | _ => .stay s
    | none =>
      match unitGate s s.nextId loc locs false false with
      | .go => .go s
      | .stay => .stay s
      | .park err =>
        .stay (modJob (enqueueUnit { s with nextId := s.nextId + 1 } s.nextId loc err) cl j.id fun j =>
          { j with parks := j.parks ++ [{ id := s.nextId, loc, write }] })

/-! ### The tower's homes (R412, R413) -/

/-- The tower and the home of it, 0 its L2 and 1 its scratchpad, where an engine's request to a location is granted; none for a request that goes to a
base die or to a memory outside the towers. -/
def towerHome (j : Job) (loc : Nat) : Option (Nat × Fin 2) :=
  match if j.msl.contains (loc / 64) || decide (foreignBase ≤ loc) then none else homeOf loc with
  | some (.dram t ..) => some (t, 0)
  | some (.twr t _) => some (t, 1)
  | _ => none

/-- Whether a job is a Ladle job. -/
def isLadle (j : Job) : Bool := match j.kind with | .pour .. => false | _ => true

/-- The requests of a job that stand: the pieces that it may move now, but for those that are parked. -/
def Job.stands (j : Job) (h : Nat × Fin 2) : Bool :=
  let at_ (w : Bool) (l : Nat) : Bool := towerHome j l == some h && !(j.parks.any fun k => k.loc == l && k.write == w)
  (j.todo.any fun ps => match ps with | p :: _ => at_ false p.1 | [] => false)
    || ((!isLadle j || j.todo.isEmpty) && j.out.any fun ps => match ps with | p :: _ => at_ true p.1 | [] => false)

/-- Saturate a credit (R117). -/
def satCr (x : Int) : Int := max (-2047) (min 2047 x)

/-- The decision of R117 among n positions: the winner and the credits; last is the last zero-weight winner, and cost what a win costs. -/
def decideCr (n : Nat) (w : Nat → Nat) (cr : Nat → Int) (last : Nat) (cands : List Nat) (cost : Nat → Nat) : Option (Nat × (Nat → Int) × Nat) :=
  let pos := cands.filter fun i => 0 < w i
  if pos.isEmpty then
    ((List.range n).map fun i => (last + 1 + i) % n).find? (cands.contains ·) |>.map fun i => (i, cr, i)
  else
    let tot := (pos.map w).sum
    let c1 (i : Nat) : Int := if pos.contains i then satCr (cr i + w i) else cr i
    let win := pos.foldl (fun b i => if c1 b < c1 i then i else b) (pos.headD 0)
    some (win, fun i => if i = win then satCr (c1 win - tot * cost win) else c1 i, last)

/-- Requests of both kinds stand at a tower's home: the grant goes by the weights of `ENGSHR` and the procedure of R117 (DEDUCED, log entry 21). The
state after the grant; none if it is the other kind's turn. -/
def homeShare (s : State) (j : Job) (loc : Nat) : Option State :=
  match towerHome j loc with
  | none => some s
  | some (t, h) =>
    let me := (isLadle j).toNat
    let other := s.clusters.any fun c => c.2.jobs.any fun x => isLadle x != isLadle j && x.stands (t, h)
    if !other then some s
    else
      let x := s.tower t
      let ix (i : Nat) : Fin 4 := Fin.ofNat 4 (2 * h.val + i)
      match decideCr 2 (fun i => if i = 0 then x.portw.toNat else x.ladw.toNat) (fun i => x.engCr.get (ix i)) (x.engLast.get h).val [0, 1] fun _ => 1 with
      | some (win, cr, last) =>
        if win = me then
          some (s.setTower t { x with engCr := (x.engCr.set (ix 0) (cr 0)).set (ix 1) (cr 1), engLast := x.engLast.set h (Fin.ofNat 2 last) })
        else none
      | none => some s

/-- The gate of a piece for a job: not while its memory's clock stands still (R145), not out of its turn at a tower's home (R413), and as the base die
answers (R207). -/
def engineGate (s : State) (cl : Nat) (j : Job) (write : Bool) (locs : List Nat) : EngineGate :=
  if locs.any (stoppedAt s) then .stay s
  else
    match homeShare s j (locs.headD 0) with
    | none => .stay s
    | some t => dieGate t cl j write locs

end Sys2Proof.Machine
end

