-- ==== Sys2Proof/Machine/Engines.lean ====
section
/-! DEFINITION. Ladle jobs (R226 to R228, R408 to R414): the footprint of a job, the instructions that start and await one, the burst of an engine
and the job's completion. -/

namespace Sys2Proof.Machine

/-! ### Ranges -/

/-- The addresses at which a range of n bytes from a may change its page or its memory: the first, and every multiple of g above it. -/
def rangeHeads (a n g : Nat) : List Nat :=
  a :: (List.range ((a + n - 1) / g - a / g)).map fun i => (a / g + 1 + i) * g

/-- The pieces of a range between its heads, as lengths. -/
def rangeLens (a n g : Nat) : List Nat := (rangeHeads a n g).map fun h => min (h / g * g + g) (a + n) - h

/-- A range meets the coverage map of a slot that is not IDLE (R125). -/
def coverageMeets (s : State) (loc n : Nat) : Bool :=
  match clsOfLoc loc with
  | none => false
  | some (i, a) => (s.cluster i).slots.any fun p =>
      p.st != .idle && decide (patBase p.map < a + n) && decide (a < patBase p.map + (patN p.space + 3) / 4)

/-- The pieces (location, length) of a job's range of at least one byte, checked in the order of R231: BOUND, ALIGN, XLATE, PROT. -/
def jobRange (s : State) (key : Nat) (asid : BitVec 16) (sp : Space) (write : Bool) (a n : Nat) : Except FaultInfo (List (Nat × Nat)) :=
  let u : PageUse := { write, read := !write, pin := true }
  let align : Except FaultInfo Unit := if a % 8 = 0 then .ok () else .error (fAlign a (spaceNum sp))
  let covered (ps : List (Nat × Nat)) : Except FaultInfo (List (Nat × Nat)) :=
    if write && ps.any fun p => coverageMeets s p.1 p.2 then .error (fProt 3 a (spaceNum sp)) else .ok ps
  match sp with
  | .glb => do
    align
    let (ls, _) ← xlate s (isFw key) (clusterOf key) asid u ((rangeHeads a n 65536).map (· % 2 ^ 64))
    covered (ls.zip (rangeLens a n 65536))
  | _ =>
    match (rangeHeads a n 32768).mapM (directByte key sp) with
    | none => .error (fBound a (spaceNum sp))
    | some ls => do
      align
      covered (ls.zip (rangeLens a n 32768))

/-- The smallest interval of locations that covers a range's pieces (R226). -/
def footprint : List (Nat × Nat) → Option (Nat × Nat)
  | [] => none
  | p :: ps => some (ps.foldl (fun i q => (min i.1 q.1, max i.2 (q.1 + q.2))) (p.1, p.1 + p.2))

/-- Whether two intervals overlap. -/
def overlap (a b : Option (Nat × Nat)) : Bool :=
  match a, b with
  | some (x, y), some (u, v) => decide (x < v) && decide (u < y)
  | _, _ => false

/-- Edges of a new job: every held job with a RAW, WAR or WAW overlap (R226). -/
def edgesOf (js : List Job) (rd wr : Option (Nat × Nat)) : List Nat :=
  (js.filter fun e => overlap rd e.wr || overlap wr e.rd || overlap wr e.wr).map (·.id)

/-- Hand a job to the footprint scheduler of its cluster (R226). -/
def holdJob (s : State) (j : Job) : State :=
  let cl := clusterOf j.key
  let j := { j with id := s.nextId, edges := edgesOf (s.cluster cl).jobs j.rd j.wr }
  ({ s with nextId := s.nextId + 1 } : State).modCluster cl fun c => { c with jobs := c.jobs ++ [j] }

/-- Every job from which a job has an edge is complete. -/
def edgesDone (s : State) (cl : Nat) (j : Job) : Bool := j.edges.all fun i => !((s.cluster cl).jobs.any fun e => e.id == i)

/-- The memory space of a sync word (R407). -/
def syncSpace : SyncSp → Option Space
  | .none => none
  | .spm => some .spm
  | .cls => some .cls
  | .twr => some .twr

/-- The check of a job's sync word: BOUND and ALIGN, and the coverage map. The location, where there is one. -/
def jobSync (s : State) (ysp : SyncSp) (a : Nat) : Except FaultInfo (Option Nat) :=
  match syncSpace ysp with
  | none => .ok none
  | some sp => (syncWord s sp wrUse a).map fun acc => some (acc.locs.headD 0)

/-! ### Starting a Ladle job (R408, R409) -/

/-- The addresses and lengths of a Ladle job: what it reads and writes as ranges, and its bytes in all. -/
structure LadleShape where
  kind : JobKind
  rlen : Nat
  wlen : Nat
  len : Nat
  block : Word
  evt : BitVec 16

/-- A job id (R409). -/
def jobIdOf (key : Nat) (n : Bool) (jseq : BitVec 16) : Word := BitVec.ofNat 64 (coreNum key * 2 ^ 17 + n.toNat * 2 ^ 16 + jseq.toNat)

/-- Code of a sync-word space. -/
def syncNum : SyncSp → Nat
  | .none => 0 | .spm => 1 | .cls => 2 | .twr => 3

/-- Start a Ladle job: its waits, its checks, and its hand-over; D receives the job id. -/
def startLadle (s : State) (d : Dst) (src : Option Space) (dsp : Space) (ysp : SyncSp) (q5 : Bool) (a b x : Word) (h : LadleShape) : Exec State := do
  waitFor (!s.vecMemPending s.focus s.act)
  let key := s.focus
  let asid := s.cur.asid
  let rd := match src with | some sp => jobRange s key asid sp false a.toNat h.rlen | none => .ok []
  let wr := jobRange s key asid dsp true b.toNat h.wlen
  let sy := jobSync s ysp x.toNat
  let heads (a n : Nat) : List Nat := (rangeHeads a n 65536).map (· % 2 ^ 64)
  let vas := (if src == some .glb then heads a.toNat h.rlen else []) ++ (if dsp == .glb then heads b.toNat h.wlen else [])
  match firstFault [errOf rd, errOf wr, errOf sy] with
  | some f => checkedIn s .glb vas (.error f)
  | none => pure ()
  let rps ← checked rd
  let wps ← checked wr
  let at_ ← checked sy
  waitFor (decide ((jobsOf s key s.act).length < 16) && decide ((s.cluster s.myCluster).jobs.length < 64))
  let id := jobIdOf key s.act s.cur.task.jseq
  let ssp := src.getD .glb
  let opx : BitVec 9 := BitVec.ofNat 9 (spaceNum ssp + spaceNum dsp * 8 + syncNum ysp * 64 + q5.toNat * 256)
  let s ← writeDst s d id
  let s := holdJob s
    { id := 0, kind := h.kind, key, ctx := s.act, asid, rd := footprint rps, wr := footprint wps, edges := [], src := a, dst := b, ssp, dsp
      block := h.block, opx, evt := h.evt, sync := x, ysp, syncLoc := at_.getD 0, jobid := id, len := h.len }
  let s := translated s .glb vas
  return s.modCur fun c => { c with task := { c.task with jseq := c.task.jseq + 1 } }

/-- LDL (R408, R409). -/
def execLdl (c : Com) (o : LadleOp) (len : BitVec 32) (evt : BitVec 16) (s : State) : Host.Outcome State Fault Refusal :=
  issueFall .tile c s fun s => do
    let (a, b, s) ← read2 s o.a.r o.b.r
    let (x, s) ← readSrc s o.c
    let n := len.toNat
    startLadle s o.d (some o.ssp) o.dsp o.ysp o.q5 a b x { kind := .ldl, rlen := n, wlen := n, len := n, block := len.setWidth 64, evt }

/-- LDL2D (R408, R409). -/
def execLdl2d (c : Com) (o : LadleOp) (rowlen nrows spitch dpitch : BitVec 16) (s : State) : Host.Outcome State Fault Refusal :=
  issueFall .tile c s fun s => do
    let (a, b, s) ← read2 s o.a.r o.b.r
    let (x, s) ← readSrc s o.c
    let range (p : BitVec 16) : Nat := (nrows.toNat - 1) * p.toNat * 8 + rowlen.toNat
    let block : Word := BitVec.ofNat 64 (rowlen.toNat + nrows.toNat * 2 ^ 16 + spitch.toNat * 2 ^ 32 + dpitch.toNat * 2 ^ 48)
    startLadle s o.d (some o.ssp) o.dsp o.ysp o.q5 a b x
      { kind := .ldl2d, rlen := range spitch, wlen := range dpitch, len := rowlen.toNat * nrows.toNat, block, evt := 0 }

/-- LDLZ (R408, R409). -/
def execLdlz (c : Com) (d : Dst) (b : Use Src) (x : Src) (dsp : Space) (ysp : SyncSp) (q5 : Bool) (len : BitVec 32) (s : State) :
    Host.Outcome State Fault Refusal :=
  issueFall .tile c s fun s => do
    let (b, s) ← readSrc s b.r
    let (x, s) ← readSrc s x
    let n := len.toNat
    startLadle s d none dsp ysp q5 0 b x { kind := .ldlz, rlen := 0, wlen := n, len := n, block := len.setWidth 64, evt := 0 }

/-- EWAIT (R414): blocked until the job that A names has completed. -/
def execEwait (c : Com) (a : Use Src) (s : State) : Host.Outcome State Fault Refusal :=
  issueFall .tile c s fun s => do
    let (x, s) ← readSrc s a.r
    blockFor (!((jobsOf s s.focus s.act).any fun j => j.jobid.toNat % 2 ^ 23 == x.toNat % 2 ^ 23))
    return s

/-- EWAIT.N (R414): blocked until at most n jobs remain. -/
def execEwaitN (c : Com) (n : BitVec 5) (s : State) : Host.Outcome State Fault Refusal :=
  issueFall .tile c s fun s => do
    blockFor (decide ((jobsOf s s.focus s.act).length ≤ n.toNat))
    return s

/-! ### Words for q5 and q7 (R168, R244) -/

/-- Add a word to a queue image of a save area (R244, R245): img its offset, cnt that of its count, room its words. A full image drops it and sets
QOVF in the saved `STATUS`. -/
def pushImage (s : State) (area : Nat) (img cnt room : Nat) (w : Word) : State :=
  let k := s.readLE (area + cnt) 8 % 32
  if k < room then
    performWrite (performWrite s true (pairsAt (area + img + 8 * k) (bytesOfNat 8 w.toNat))) true (pairsAt (area + cnt) (bytesOfNat 8 (k + 1)))
  else performWrite s true (pairsAt (area + 0x188) (bytesOfNat 8 (s.readLE (area + 0x188) 8 ||| flQOVF)))

/-- Deliver a completion word to q5 of a context, or of the save area that holds it. -/
def pushQ5 (s : State) (key : Nat) (n : Bool) (area : Option Nat) (w : Word) : State :=
  match area with
  | some b => pushImage s b 3712 3880 16 w
  | none => s.modCtx key n fun c => if c.q5.length + c.heldOf .q5 < 16 then { c with q5 := c.q5 ++ [w] } else c.orFlags flQOVF

/-- Deliver a status word to q7. -/
def pushQ7 (s : State) (key : Nat) (n : Bool) (area : Option Nat) (w : Word) : State :=
  match area with
  | some b => pushImage s b 3840 3888 4 w
  | none => s.modCtx key n fun c => if c.q7.length + c.heldOf .q7 < 4 then { c with q7 := c.q7 ++ [w] } else c.orFlags flQOVF

/-! ### Bursts (R410, R412) -/

/-- JOB_START (R226). -/
def startJob (s : State) (cl id : Nat) : State :=
  match (s.cluster cl).jobs.find? fun j => j.id == id with
  | some j => if isLadle j && !j.started && edgesDone s cl j then modJob s cl id fun j => { j with started := true } else s
  | none => s

/-- Source and destination addresses of byte k of a job, in job order (R408). -/
def jobByte (j : Job) (k : Nat) : Nat × Nat :=
  match j.kind with
  | .ldl2d =>
    let f (i : Nat) : Nat := j.block.toNat / 2 ^ (16 * i) % 2 ^ 16
    let row := k / f 0
    ((j.src.toNat + row * f 2 * 8 + k % f 0) % 2 ^ 64, (j.dst.toNat + row * f 3 * 8 + k % f 0) % 2 ^ 64)
  | _ => ((j.src.toNat + k) % 2 ^ 64, (j.dst.toNat + k) % 2 ^ 64)

/-- A burst of the job is under way. -/
def midBurst (j : Job) : Bool := !j.todo.isEmpty || !j.out.isEmpty

/-- A job of which an engine may take up a burst: started, with bytes to move, not stopped, killed or ended, and in no burst. -/
def jobReady (j : Job) : Bool := isLadle j && j.started && !j.ended && !j.stopped && !j.killed && !midBurst j

/-- The quad of a job's core within its cluster, 0-15. -/
def jobQuad (j : Job) : Nat := coreNum j.key / 4

/-- Resolve a burst's bytes on one side: the locations, and the lines on memory-side pages. Engines are not firmware (R88). -/
def burstSide (s : State) (j : Job) (write : Bool) (as : List Nat) : Except FaultInfo (List Nat × List Nat) :=
  resolveBytes s false j.key j.asid (if write then j.dsp else j.ssp) { write, read := !write, pin := true } as

/-- No engine is on a job any more: at a burst's end the other may take it up (R412). -/
def leaveEngine (s : State) (cl id : Nat) : State :=
  let off (x : Option Nat) : Option Nat := if x == some id then none else x
  s.modCluster cl fun c => { c with ldl0 := off c.ldl0, ldl1 := off c.ldl1 }

/-- A Ladle job fails (R235, R411): it stops where it is, and its core sends an ASYNC packet. -/
def failJob (s : State) (cl : Nat) (j : Job) (f : FaultInfo) : State :=
  let s := modJob (unparkAll (leaveEngine s cl j.id) cl j) cl j.id fun j => { j with faulted := true, ended := true, todo := [], out := [] }
  sendAsync s j.key j.ctx f j.jobid

/-- The bytes of a burst from the cursor on. -/
def burstLen (j : Job) : Nat := min 256 (j.len - j.cursor)

/-- The addresses of a burst's bytes, source and destination. -/
def burstBytes (j : Job) : List (Nat × Nat) := (List.range (burstLen j)).map fun i => jobByte j (j.cursor + i)

/-- The bytes of a burst in the pieces in which they are written, kept in job order: aligned pieces of 8 bytes (R209), and whole blocks of 32 bytes of an
instruction store (R106). -/
def outPieces (out : List (List (Nat × Byte))) : List (List (Nat × Byte)) :=
  let bs := out.flatten
  let block (l : Nat) : Bool := (routeOf l).isSome && (bs.filter fun p => p.1 / 32 = l / 32).length = 32
  let piece (l : Nat) : Nat × Nat := if block l then (32, l / 32) else (8, l / 8)
  ((bs.map fun p => piece p.1).reverse.dedup.reverse).map fun w => bs.filter fun p => piece p.1 = w

/-- A burst begins (R410, R411): its bytes are translated, and stand as pieces to be read, or, for LDLZ, as zeros to be written. -/
def beginBurst (s : State) (cl : Nat) (j : Job) : State :=
  let bs := burstBytes j
  let zero := j.kind == .ldlz
  let vas := (if j.ssp == .glb && !zero then bs.map (·.1) else []) ++ (if j.dsp == .glb then bs.map (·.2) else [])
  match if zero then .ok ([], []) else burstSide s j false (bs.map (·.1)), burstSide s j true (bs.map (·.2)) with
  | .error f, _ => failJob (lockAlarm s false cl j.asid vas) cl j f
  | _, .error f => failJob (lockAlarm s false cl j.asid vas) cl j f
  | .ok (ls, m1), .ok (ld, m2) =>
    modJob (tlbFills s false cl j.asid vas) cl j.id fun j =>
      { j with msl := m1 ++ m2, todo := if zero then [] else splitPieces (ls.zip ld), out := if zero then outPieces [ld.map fun a => (a, 0)] else [] }

/-- Piece i of a burst is read (R209, R228, R410): a poisoned word reads zero and poisons the job; so does a DROP of a parked read (R207). It waits,
having started their wakes, for scratchpad banks that are not FULL. -/
def readPiece (s : State) (cl id i : Nat) : State :=
  match (s.cluster cl).jobs.find? fun j => j.id == id with
  | none => s
  | some j =>
    let ps := j.todo.getD i []
    let locs := ps.map (·.1)
    let put (s : State) (bs : List Byte) (p : Bool) : State :=
      modJob s cl id fun j => { j with todo := lset j.todo i [], out := lset j.out i ((ps.map (·.2)).zip bs), poisoned := j.poisoned || p }
    let (s, ok) := homeBanks s false locs
    if ps.isEmpty || !ok then s
    else
      match engineGate s cl j false locs with
      | .stay s => s
      | .drop s => put s (List.replicate locs.length 0) true
      | .go s => let (bs, p, s) := readHome s false locs; put s bs p

/-- A write of a burst has found an active coverage map (R125, R411): PROT at its first byte there, as addressed. -/
def coverFault (s : State) (j : Job) : FaultInfo :=
  match burstSide s j true ((burstBytes j).map (·.2)) with
  | .error f => f
  | .ok _ => fProt 3 j.dst.toNat (spaceNum j.dsp)

/-- A piece of a burst or of a pour's result is written. One that finds an active coverage map fails its Ladle job (R125, R411); of a pour it is not
written (log entry 18). -/
def writePiece (s : State) (cl id : Nat) (ps : List (Nat × Byte)) : State :=
  match (s.cluster cl).jobs.find? fun j => j.id == id with
  | none => s
  | some j =>
    let locs := ps.map (·.1)
    let gone (s : State) : State := modJob s cl id fun j => { j with out := j.out.erase ps }
    let (s, ok) := homeBanks s true locs
    if !ok || !j.out.contains ps then s
    else
      match engineGate s cl j true locs with
      | .stay s => s
      | .drop s => gone s
      | .go s =>
        if !locs.any s.inCoverage then gone (performWrite s false ps)
        else if isLadle j then failJob s cl j (coverFault s j)
        else gone s

/-- A burst's end: the cursor moves on (R247, R433 event 10). -/
def endBurst (s : State) (cl : Nat) (j : Job) : State :=
  let k := j.cursor + burstLen j
  let s := modJob (leaveEngine s cl j.id) cl j.id fun j => { j with cursor := k, ended := decide (j.len ≤ k), msl := [] }
  countPmc s j.key none 10 (k / 256 - j.cursor / 256)

/-- One step of a burst (R410): it begins; it reads pieces that a free value names, until all are read; it writes pieces so named, until all are
written. -/
def burst (s : State) (cl : Nat) (j : Job) : State :=
  let now (s : State) : Job := ((s.cluster cl).jobs.find? fun x => x.id == j.id).getD j
  if !midBurst j then beginBurst (modJob s cl j.id fun j => { j with out := [] }) cl j
  else if !j.todo.isEmpty then
    let left := (List.range j.todo.length).filter fun i => !(j.todo.getD i []).isEmpty
    let s := if j.out.isEmpty then modJob s cl j.id fun j => { j with out := List.replicate j.todo.length [] } else s
    let s := (pick (2 * s.tick) left).1.foldl (fun s i => readPiece s cl j.id i) s
    if (now s).todo.all (·.isEmpty) then modJob s cl j.id fun j => { j with todo := [], out := outPieces j.out } else s
  else
    let s := (pick (2 * s.tick + 1) j.out).1.foldl (fun s ps => writePiece s cl j.id ps) s
    if (now s).out.isEmpty && !(now s).ended then endBurst s cl (now s) else s

/-- LADLE_BURST (R412): an engine goes on with its burst; else it chooses a quad among those with a ready job that the other engine is not serving,
and takes up a burst of its oldest ready job. -/
def engineBurst (s : State) (cl : Nat) (eng : Bool) : State :=
  let c := s.cluster cl
  let mine := if eng then c.ldl1 else c.ldl0
  let other := if eng then c.ldl0 else c.ldl1
  match c.jobs.find? fun j => mine == some j.id && midBurst j with
  | some j => burst s cl j
  | none =>
    let ready := c.jobs.filter jobReady
    let served := (c.jobs.find? fun j => other == some j.id && midBurst j).map jobQuad
    let cands := (List.range 16).filter fun q => served != some q && ready.any fun j => jobQuad j == q
    let w (q : Nat) : Nat := (s.quad (quadOf (coreAt cl (4 * q)))).quadw.toNat / 2 ^ 16 % 16
    let ix (q : Nat) : Fin 32 := Fin.ofNat 32 (eng.toNat * 16 + q)
    match decideCr 16 w (fun q => c.ldlCr.get (ix q)) (c.ldlLast.get (Fin.ofNat 2 eng.toNat)).val cands (fun _ => 1) with
    | none => s
    | some (q, cr, last) =>
      match ready.find? fun j => jobQuad j == q with
      | none => s
      | some j =>
        let c := { c with ldlCr := (List.range 16).foldl (fun v i => v.set (ix i) (cr i)) c.ldlCr
                          ldlLast := c.ldlLast.set (Fin.ofNat 2 eng.toNat) (Fin.ofNat 16 last) }
        burst (s.setCluster cl (if eng then { c with ldl1 := some j.id } else { c with ldl0 := some j.id })) cl j

/-! ### Completion (R227, R411) -/

/-- STAT of a q5 word. -/
def jobStat (j : Job) : Nat := if j.killed then 3 else if j.faulted then 2 else if j.poisoned then 1 else 0

/-- LADLE_JOB_COMPLETE: the sync word, the q5 word, the event; the job leaves the scheduler. One that a spill has stopped keeps its place until the
restore, also when every byte has moved (R227, R247). -/
def finishJob (s : State) (cl id : Nat) : State :=
  match (s.cluster cl).jobs.find? fun j => j.id == id with
  | none => s
  | some j =>
    if !isLadle j || !((j.ended && !j.stopped) || j.killed) || midBurst j then s
    else
      let (ws, rs) := syncNeeds j.syncLoc (jobStat j ≠ 0)
      let (s', ok) := if j.ysp == .none then (s, true) else homeBanksRw s ws rs
      if !ok then s'
      else
        let s := if j.ysp == .none then s' else syncAdd s' j.syncLoc j.len (jobStat j ≠ 0)
        let s := if j.opx.getLsbD 8 && j.owned then pushQ5 s j.key j.ctx j.area (BitVec.ofNat 64 (jobStat j * 2 ^ 62 + j.jobid.toNat % 2 ^ 32)) else s
        let s := signalEvent s j.evt.toNat
        let s := leaveEngine (unparkAll s cl j) cl id
        killDone (s.modCluster cl fun c => { c with jobs := c.jobs.filter fun x => x.id ≠ id }) j.key j.ctx

/-- JOB_START. -/
def execJobStart (cl k : Nat) (s : State) : Host.Outcome State Fault Refusal := .next (startJob s cl k)
/-- LADLE_BURST. -/
def execLadleBurst (cl : Nat) (eng : Bool) (s : State) : Host.Outcome State Fault Refusal := .next (engineBurst s cl eng)
/-- LADLE_JOB_COMPLETE. -/
def execLadleJobComplete (cl k : Nat) (s : State) : Host.Outcome State Fault Refusal := .next (finishJob s cl k)

end Sys2Proof.Machine
end

