-- ==== Sys2Proof/Machine/Runner.lean ====
section
/-! DEFINITION. Runner ports (R25 to R48): lasers, enabling, calibration, writer limits, alignment, probes and the slot clock; and the queueing,
the announcement and the grant of pours (R49 to R56, R72). -/

namespace Sys2Proof.Machine

/-! ### Parts of a port -/

/-- Change a port. -/
def State.modPort (s : State) (p : Fin 8) (f : Port → Port) : State := s.setPort p (f (s.port p))
/-- A group entry (R49). -/
def Port.group (x : Port) (n : Fin 64) : RGroup := tget {} x.groups n.val
/-- Replace a group entry. -/
def Port.setGroup (x : Port) (n : Fin 64) (g : RGroup) : Port := { x with groups := tset x.groups n.val g }
/-- Set a sticky bit of `RPSTAT` (R47). -/
def Port.flag (x : Port) (bit : Nat) : Port := { x with stat := x.stat ||| BitVec.ofNat 8 (2 ^ bit) }
/-- Change the pour of a job. -/
def Port.modPour (x : Port) (job : Nat) (f : Pour → Pour) : Port := { x with pours := x.pours.map fun q => if q.job = job then f q else q }
/-- Pours of a group held at the port, oldest first (R53). -/
def Port.poursOf (x : Port) (n : Fin 64) : List Pour := x.pours.filter fun q => q.grp == n
/-- The pour in RUNNING that has not ended. -/
def Port.running (x : Port) : Option Pour := x.pours.find? fun q => q.st == .running && q.code.isNone
/-- A pour of a group by its sequence number. -/
def Port.findPour (x : Port) (n : Fin 64) (seq : BitVec 16) : Option Pour := x.pours.find? fun q => q.grp == n && q.seq == seq

/-- Whether the segment is idle for the port: no calibration runs, and no pour is past its census. -/
def Port.inCycle (x : Port) : Bool := x.en && x.running.isNone && !x.busy && x.cal != .running

/-- Set bits of a mask. -/
def maskBits (m : BitVec 32) : List Nat := (List.range 32).filter fun i => m.getLsbD i
/-- Member count G (R50). -/
def memberCount (m : BitVec 32) : Nat := (maskBits m).length
/-- Rank of a position (R50). -/
def rankOf (m : BitVec 32) (pos : Nat) : Nat := ((maskBits m).filter fun i => decide (i < pos)).length

/-- A port that may light anything: enabled, not stopped on an alignment error (R35), and not without its clock (R41). -/
def Port.writable (x : Port) : Bool := x.en && !x.alignStop && !x.ckLost
/-- One step of `LDLY` towards zero error, in an idle microsecond at which the port tracks drift (R36). The light arrives a step later or earlier, and
`AERR` follows until it is measured again; at its ends `LDLY` stays (DESIGN CHOICE, log entry 41). -/
def Port.track (tb : Nat) (x : Port) : Port :=
  if !(x.auto && x.writable && x.inCycle) || x.stepUs == some (tb / 1000) || x.aerr = 0 then x
  else if x.aerr.toInt < 0 then
    if x.ldly = BitVec.allOnes 18 then x else { x with stepUs := some (tb / 1000), ldly := x.ldly + 1, aerr := x.aerr + 1 }
  else if x.ldly = 0 then x
  else { x with stepUs := some (tb / 1000), ldly := x.ldly - 1, aerr := x.aerr - 1 }

/-- All nine laser groups LIT. -/
def Port.allLit (x : Port) : Bool := x.lasers.toList.all fun l => l.st == .lit
/-- The laser group of a wavelength (R27): λi in DG(i div 8), and g0, g1, ck and ct in SG. -/
def laserGroup (lam : Nat) : Fin 9 := Fin.ofNat 9 (if lam < 64 then lam / 8 else 8)
/-- A wavelength whose group is LIT (R38). -/
def Port.litAt (x : Port) (lam : Nat) : Bool := (x.lasers.get (laserGroup lam)).st == .lit
/-- No pour is past its census on the segment any more: a launch delay written meanwhile takes effect (R44). -/
def Port.settleIdle (x : Port) : Port := { x with busy := false, ldly := x.ldlyNext.getD x.ldly, ldlyNext := none }

/-! ### Detectors (R30, R31, R41). A sample is what a detector reads of the light, in 1/64 of a level. -/

/-- The thresholds that lie below a sample. -/
def countOf (v : Int) : Nat := ((List.range 15).filter fun (k : Nat) => decide (64 * (k : Int) + 32 < v)).length

/-- A sample inside the guard band of a threshold; the band's ends lie outside it (DESIGN CHOICE, log entry 40). -/
def inGuard (gbw : BitVec 4) (v : Int) : Bool := (List.range 15).any fun (k : Nat) => decide ((v - (64 * (k : Int) + 32)).natAbs < gbw.toNat)

/-- What a calibrated detector makes of a sample: its count, or an erasure. -/
def detect (gbw : BitVec 4) (v : Int) : Option Nat := if inGuard gbw v then none else some (countOf v)

/-- What a port's detector reports where the others' light gives v and its own n levels: without the slot clock, erasures only (R41). -/
def Port.sense (x : Port) (v : Int) (n : Nat) : Option Nat := if x.ckLost then none else detect x.gbw (v + 64 * (n : Int))

/-- Count erased samples and over-counts, and set their bits (R30, R31, R47). -/
def Port.countErrs (x : Port) (e : Nat × Nat) : Port :=
  let x := if e.1 = 0 then x else { x with eras := inc32 x.eras e.1 }.flag 1
  if e.2 = 0 then x else { x with overs := inc32 x.overs e.2 }.flag 2

/-- One slot on the 68 wavelengths: the others' light, the port's own, in levels. -/
def Port.readSlot (x : Port) (row : List Int) (own : Nat → Nat) : List (Option Nat) :=
  (List.range 68).map fun lam => x.sense (row.getD lam 0) (own lam)

/-- Erasures, and counts above what is expected, of a slot. -/
def slotErrs (cs : List (Option Nat)) (expect : Nat → Nat) : Nat × Nat :=
  ((cs.filter Option.isNone).length,
   ((cs.zip (List.range 68)).filter fun p => match p.1 with | some c => decide (expect p.2 < c) | none => false).length)

/-! ### Lasers (R37 to R39) -/

/-- A wake request for one group: from OFF it wakes; a hold under way is cancelled. -/
def wakeOne (now : Nat) (l : Laser) : Laser :=
  if l.st == .off then { st := .waking, since := now } else { l with holding := false }
/-- A wake request for every group. -/
def wakeAll (s : State) (p : Fin 8) : State := s.modPort p fun x => { x with lasers := x.lasers.map (wakeOne s.tb) }
/-- Whether `FORCE` keeps group g lit (R45). -/
def Port.forced (x : Port) (g : Fin 9) : Bool := x.force.getLsbD g.val
/-- After the last frame the groups begin their hold (R39). A group still waking begins it when it is LIT. -/
def holdAll (s : State) (p : Fin 8) : State :=
  s.modPort p fun x => { x with lasers := Vector.ofFn fun g : Fin 9 =>
    let l := x.lasers.get g
    if l.st == LaserSt.off || Port.forced x g then l else { l with since := if l.st == .lit then s.tb else l.since, holding := true } }
/-- A pour that waits for or uses the lasers, or whose completion will start their hold (R39, R53). -/
def Port.pendingUse (x : Port) : Bool := x.pours.any fun q => q.edgesOk

/-- A group that is waking fails (free value, log entry 5). -/
def laserFailing (p : Fin 8) (g : Fin 9) (l : Laser) : Bool := Config.laserFails ((l.since * 8 + p.val) * 9 + g.val)

/-- A group is LIT 1.5 µs after it began to wake (R37), unless it fails. -/
def laserLights (tb : Nat) (p : Fin 8) (g : Fin 9) (x : Port) : Port :=
  let l := x.lasers.get g
  if l.st == .waking && decide (l.since + 1500 ≤ tb) && !laserFailing p g l then
    { x with lasers := x.lasers.set g { l with st := .lit, since := tb } } else x

/-- A group that is not LIT within 3.0 µs is OFF (R37). One whose `FORCE` bit is set wakes again (R39). -/
def laserGivesUp (tb : Nat) (p : Fin 8) (g : Fin 9) (x : Port) : Port :=
  let l := x.lasers.get g
  if l.st == .waking && decide (l.since + 3000 < tb) && laserFailing p g l then
    { x with lasers := x.lasers.set g (if x.forced g then { st := .waking, since := tb } else {}) }.flag 0 else x

/-- The hold has passed with no pending use (R37, R39). A request in the nanosecond of expiry still counts. -/
def laserExpires (tb : Nat) (g : Fin 9) (x : Port) : Port :=
  let l := x.lasers.get g
  if l.st == .lit && l.holding && !x.forced g && !x.pendingUse && decide (l.since + x.hold.toNat * 64 < tb) then
    { x with lasers := x.lasers.set g {} } else x

/-- LASER_WAKE_DONE. -/
def execLaserWakeDone (p : Fin 8) (g : Fin 9) (s : State) : Host.Outcome State Fault Refusal := .next (s.modPort p (laserLights s.tb p g))
/-- LASER_WAKE_FAIL. -/
def execLaserWakeFail (p : Fin 8) (g : Fin 9) (s : State) : Host.Outcome State Fault Refusal := .next (s.modPort p (laserGivesUp s.tb p g))
/-- LASER_HOLD_EXPIRE. -/
def execLaserHoldExpire (p : Fin 8) (g : Fin 9) (s : State) : Host.Outcome State Fault Refusal := .next (s.modPort p (laserExpires s.tb g))

/-- A write of `RPLAS` (R39, R45): HOLD and FORCE. A group newly forced stays LIT or wakes; one no longer forced begins a hold. -/
def writeRplas (s : State) (p : Fin 8) (v : Word) : State :=
  s.modPort p fun x =>
    let force := BitVec.ofNat 9 (bitsAt v 18 9)
    { x with hold := BitVec.ofNat 16 (bitsAt v 32 16), force
             lasers := Vector.ofFn fun g : Fin 9 =>
               let l := x.lasers.get g
               if force.getLsbD g.val then wakeOne s.tb l
               else if x.force.getLsbD g.val && l.st != .off then { l with since := if l.st == .lit then s.tb else l.since, holding := true }
               else l }

/-- RPLAS_WRITE. -/
def execRplasWrite (p : Fin 8) (v : Word) (s : State) : Host.Outcome State Fault Refusal := .next (if s.feat 4 then writeRplas s p v else s)

/-! ### Pours that end before or during their frames (R63, R72) -/

/-- Pours that have not reached RUNNING end DISARMED (R72). -/
def disarm (x : Port) (which : Pour → Bool) : Port :=
  { x with pours := x.pours.map fun q => if which q && q.st != .running && q.code.isNone then { q with code := some 4 } else q }

/-- A pour in RUNNING ends WITHDRAWN (R63). -/
def withdraw (x : Port) : Port :=
  { x with pours := x.pours.map fun q => if q.st == .running && q.code.isNone then { q with code := some 5 } else q }

/-! ### Enabling (R40, R42) -/

/-- PORT_ENABLE: `RPCFG` written with EN. A port that is enabled keeps its other fields. Groups whose `FORCE` bit is set wake (R37). A clock that was lost
stays lost until lock returns (R41), but at a port that is now the master. -/
def enablePort (s : State) (p : Fin 8) (v : Word) : State :=
  let x := s.port p
  if s.feat 4 && v.getLsbD 0 && !x.en then
    s.setPort p { x with segid := BitVec.ofNat 8 (bitsAt v 32 8), spos := BitVec.ofNat 5 (bitsAt v 24 5), gbw := BitVec.ofNat 4 (bitsAt v 20 4)
                         ckmst := v.getLsbD 1, en := true, cal := .uncal, ckLost := x.ckLost && !v.getLsbD 1
                         lasers := Vector.ofFn fun g : Fin 9 => if Port.forced x g then wakeOne s.tb (x.lasers.get g) else x.lasers.get g }
  else s

/-- PORT_DISABLE: EN cleared. The port stops writing, its lasers go dark and its pours end. That `RPCAL.STATE` then reads UNCAL, that START is
cleared, that a `RWLIM` in distribution is dropped, and that forced groups stay dark until the port is enabled again, is the model's choice (DESIGN
CHOICE, log entry 41). -/
def disablePort (s : State) (p : Fin 8) : State :=
  let x := s.port p
  if x.en then
    let x := disarm (withdraw x) fun _ => true
    s.setPort p { x with en := false, cal := .uncal, start := false, lasers := Vector.replicate 9 {}, rwlimDist := none, ann := none, annExp := false,
                                seen := [] }.settleIdle
  else s

/-- A write of `RPCFG`: it enables, disables, or sets the fields of a disabled port. -/
def writeRpcfg (s : State) (p : Fin 8) (v : Word) : State :=
  let x := s.port p
  if v.getLsbD 0 then enablePort s p v
  else if x.en then disablePort s p
  else s.setPort p { x with segid := BitVec.ofNat 8 (bitsAt v 32 8), spos := BitVec.ofNat 5 (bitsAt v 24 5), gbw := BitVec.ofNat 4 (bitsAt v 20 4)
                            ckmst := v.getLsbD 1 }

/-- PORT_ENABLE. -/
def execPortEnable (p : Fin 8) (v : Word) (s : State) : Host.Outcome State Fault Refusal := .next (enablePort s p v)
/-- PORT_DISABLE. -/
def execPortDisable (p : Fin 8) (s : State) : Host.Outcome State Fault Refusal := .next (disablePort s p)

/-! ### Calibration (R32 to R34) -/

/-- CALIBRATION: the epoch of a master that has been asked for one reaches the port while no pour is past its census on the segment (R34). Idle slots are
counted from it on, and a `ROLLTO` that has expired had expired before every cycle to come (R55). -/
def execCalibration (p : Fin 8) (s : State) : Host.Outcome State Fault Refusal :=
  let x := s.port p
  .next (if x.en && !x.ckLost && x.running.isNone && !x.busy && x.cal != .running && (!x.ckmst || x.cal == .pending || x.start) then
    s.setPort p { x with cal := .running, start := false, k := 0, idle := 0, seen := [], lastGrant := 63, ann := none, annExp := false
                         pours := x.pours.map fun q => { q with expired := q.expired.map fun _ => 0 } } else s)

/-- A training level that a detector tells apart: every sample of it lies outside every guard band and in its count. -/
def levelGood (gbw : BitVec 4) (j : Nat) (vs : List Int) : Bool := vs.all fun v => detect gbw v == some j

/-- The limit of a wavelength (R32): the largest k up to 15 such that every level up to k is told apart. Where level 0 is not, there is no such k, and
the model takes 0 (DESIGN CHOICE, log entry 40). -/
def waveLimit (gbw : BitVec 4) (levels : List (List Int)) : Nat :=
  ((List.range 16).takeWhile fun j => levelGood gbw j (levels.getD j [])).length - 1

/-- The limits of the 68 wavelengths. -/
def waveLimits (gbw : BitVec 4) (m : CalMeas) : List Nat := (List.range 68).map fun lam => waveLimit gbw (m.train.getD lam [])

/-- CALIBRATION_COMPLETE: with the positions distinct, the delay, the limits and the generation are set; `RWLIM` is clamped. That AERR reads 0 then is
the model's choice (DESIGN CHOICE, log entry 41). -/
def execCalibrationComplete (p : Fin 8) (m : CalMeas) (s : State) : Host.Outcome State Fault Refusal :=
  let x := s.port p
  let ks := waveLimits x.gbw m
  let plim := ks.foldl min 15
  let lcal := m.others.foldl (fun n o => min n o.2.val) plim
  let poss := x.spos.toNat :: m.others.map (·.1.val)
  .next (if x.cal == .running then
    if poss.dedup.length < poss.length then s.setPort p ({ x with cal := .calfail }.flag 3)
    else
      let x := { x with ldly := m.ldly, ldlyNext := none, plim := BitVec.ofNat 4 plim, failw := BitVec.ofNat 8 (ks.findIdx (· == plim))
                        known := BitVec.ofNat 32 (poss.map fun i => 2 ^ i).sum, lcal := BitVec.ofNat 4 lcal, aerr := 0, alignStop := false, calgen := if x.ckmst then x.calgen + 1 else m.calgen }
      let x := if lcal < x.rwlim.toNat then { x with rwlim := BitVec.ofNat 4 lcal }.flag 7 else x
      s.setPort p (if lcal = 0 then { x with cal := .calfail }.flag 3 else { x with cal := .calok })
  else s)

/-- RWLIM_WRITE (R33): at the master a value from 1 to `LCAL` is distributed; any other is refused. -/
def writeRwlim (s : State) (p : Fin 8) (v : Word) : State :=
  let x := s.port p
  let n := bitsAt v 8 4
  if !x.ckmst then s
  else if 1 ≤ n && n ≤ x.lcal.toNat then s.setPort p { x with rwlimDist := some (BitVec.ofNat 4 n) }
  else s.setPort p (x.flag 6)

/-- RWLIM_WRITE. -/
def execRwlimWrite (p : Fin 8) (v : Word) (s : State) : Host.Outcome State Fault Refusal := .next (if s.feat 4 then writeRwlim s p v else s)

/-- RWLIM_ADOPT (R33): in the first slot of an idle cycle, before anything of it is read. v is what a follower read; none where it was erased. A value still in distribution outlives a
calibration, also one with a lower `LCAL` (DESIGN CHOICE, log entry 41). -/
def execRwlimAdopt (p : Fin 8) (v : Option (BitVec 4)) (s : State) : Host.Outcome State Fault Refusal :=
  let x := (s.port p).settleIdle
  .next (if x.inCycle && x.cal == .calok && x.idle % 32 = 0 && x.seen.isEmpty then
    if x.ckmst then
      match x.rwlimDist with
      | some r => s.setPort p { x with rwlim := r, rwlimDist := none }
      | none => s
    else
      match v with
      | some r => s.setPort p { x with rwlim := r }
      | none => s.setPort p { x with cal := .uncal }
  else s)

/-- A write of `RPCAL` (R46): START, at the master. A 1 requests a calibration, which a disabled or a calibrating port makes later. A 0 clears START: a
calibration that is PENDING still comes, and one that START alone kept does not (DESIGN CHOICE, log entry 41). -/
def writeRpcal (s : State) (p : Fin 8) (v : Word) : State :=
  s.modPort p fun x =>
    if !x.ckmst then x
    else { x with start := v.getLsbD 0, cal := if v.getLsbD 0 && x.en && x.cal != .running then .pending else x.cal }

/-! ### Alignment, probes and the slot clock (R35, R36, R41) -/

/-- ALIGN_ERROR: an offset beyond ±9 steps (R35): the port's own, or (none) that of a follower in another module. The port stops writing on its own,
and a master requests a calibration in both cases. -/
def execAlignError (p : Fin 8) (aerr : Option (BitVec 8)) (s : State) : Host.Outcome State Fault Refusal :=
  let x := s.port p
  let ask (x : Port) : Port := { x with cal := if x.ckmst && x.cal != .running then .pending else x.cal }
  .next (if !x.en then s
    else
      match aerr with
      | none => s.setPort p (ask x)
      | some e => if 9 < e.toInt.natAbs then s.setPort p ((withdraw (ask { x with aerr := e, alignStop := true })).flag 4) else s)

/-- DRIFT_STEP: an offset within tolerance is recorded; with AUTO, outside frames and calibration, `LDLY` moves one step towards zero error. -/
def execDriftStep (p : Fin 8) (aerr : BitVec 8) (s : State) : Host.Outcome State Fault Refusal :=
  let x := s.port p
  .next (if x.en && decide (aerr.toInt.natAbs ≤ 9) then s.setPort p (Port.track s.tb { x with aerr }) else s)

/-- CLOCK_LOSS (R41): a follower saw no ck for 64 slots. -/
def execClockLoss (p : Fin 8) (s : State) : Host.Outcome State Fault Refusal :=
  let x := s.port p
  .next (if x.en && !x.ckmst then s.setPort p ((withdraw { x with ckLost := true, cal := .uncal }).flag 5) else s)

/-- CLOCK_RELOCK (R41). -/
def execClockRelock (p : Fin 8) (s : State) : Host.Outcome State Fault Refusal := .next (s.modPort p fun x => { x with ckLost := false })

/-! ### Group entries (R49, R50, R72) -/

/-- GROUP_ENTRY_INVALIDATE: VALID cleared. -/
def invalidateGroup (x : Port) (n : Fin 64) : Port :=
  disarm (x.setGroup n { x.group n with valid := false, expseq := 0 }) fun q => q.grp == n

/-- GROUP_ENTRY_INVALIDATE. -/
def execGroupEntryInvalidate (p : Fin 8) (n : Fin 64) (s : State) : Host.Outcome State Fault Refusal :=
  .next (if s.feat 4 then s.modPort p fun x => invalidateGroup x n else s)

/-- A write of `RGCFG` (R49). -/
def writeRgcfg (s : State) (p : Fin 8) (n : Fin 64) (v : Word) : State :=
  s.modPort p fun x =>
    let g := x.group n
    let us := bitsAt v 32 14
    let g' := if (x.poursOf n).isEmpty then
        { g with rollto := if 1 ≤ us && us ≤ 10000 then BitVec.ofNat 14 us else g.rollto, replaymax := BitVec.ofNat 3 (bitsAt v 24 3) } else g
    if v.getLsbD 0 then x.setGroup n { g' with valid := true }
    else if g.valid then invalidateGroup (x.setGroup n g') n
    else x.setGroup n g'

/-- A write of `RGMEM` (R50): ignored while VALID. -/
def writeRgmem (s : State) (p : Fin 8) (n : Fin 64) (v : Word) : State :=
  s.modPort p fun x => if (x.group n).valid then x else x.setGroup n { x.group n with mask := v.setWidth 32 }

/-! ### Roll-call (R53 to R56) -/

/-- POUR_EDGES_SATISFIED (R53): the lasers wake and `ROLLTO` starts; a pour already ended may now make its completion writes (R72). -/
def execPourEdgesSatisfied (p : Fin 8) (n : Fin 64) (seq : BitVec 16) (s : State) : Host.Outcome State Fault Refusal :=
  let x := s.port p
  .next (match x.findPour n seq with
    | none => s
    | some q =>
      let held := (s.cluster q.cluster).jobs.find? fun j => j.id == q.job
      if q.edgesOk || !(match held with | some j => edgesDone s q.cluster j | none => true) then s
      else
        let t := if q.code.isNone then some ((x.group n).rollto.toNat * 1000) else none
        let s := s.setPort p (x.modPour q.job fun q => { q with edgesOk := true, timer := t })
        let s := modJob s q.cluster q.job fun j => { j with started := true }
        if q.code.isNone then wakeAll s p else s)

/-- POUR_ANNOUNCE_START (R53): every earlier pour of the group is DONE and all groups are LIT. -/
def execPourAnnounceStart (p : Fin 8) (n : Fin 64) (s : State) : Host.Outcome State Fault Refusal :=
  let x := s.port p
  .next (match (x.poursOf n).head? with
    | none => s
    | some q =>
      if q.st == .queued && q.edgesOk && q.code.isNone && x.allLit then s.setPort p (x.modPour q.job fun q => { q with st := .announcing }) else s)

/-- The announcement of a pour (R54, R419, R420). -/
def describe (x : Port) (q : Pour) : Announce :=
  let g := x.group q.grp
  let (ty, form) : BitVec 3 × BitVec 2 :=
    match q.kind with
    | .int ty => (ty, 0)
    | .bs false => (6, 1)
    | .bs true => (6, 2)
    | .skim => (6, 2)
    | .bcast _ => (4, 0)
  { seq := q.seq, grp := q.grp, ty, gm1 := BitVec.ofNat 5 (memberCount g.mask - 1), replay := g.replaymax, form, countM1 := BitVec.ofNat 28 (q.count - 1) }

/-- Pours ANNOUNCING. -/
def Port.announcing (x : Port) : List Pour := x.pours.filter fun q => q.st == .announcing && q.code.isNone

/-- The least element. -/
def leastOf : List Nat → Option Nat
  | [] => none
  | a :: l => some (l.foldl min a)

/-- Of groups, the least number that is at least k, or else the least. -/
def leastFrom (k : Nat) (ns : List Nat) : Option Nat := leastOf (ns.filter (k ≤ ·)) <|> leastOf ns

/-- The idle cycle under way is a barrier cycle (R54, R143): every sixteenth on the segment 0 of a pod. -/
def barrierCycle (s : State) (p : Fin 8) : Bool := p == 0 && s.inPod && (s.port p).idle / 32 % 16 == 0

/-- The pour that the port announces in the cycle under way, if it is still ANNOUNCING. -/
def Port.announced (x : Port) : Option Pour := x.ann.bind fun j => x.announcing.find? fun q => q.job == j

/-- The pour that the port announces in the cycle under way (R54), and whether its `ROLLTO` had expired when the cycle started (R55). -/
def Port.choose (x : Port) : Port :=
  match leastFrom (x.k % 64) (x.announcing.map (·.grp.val)) with
  | none => { x with ann := none, annExp := false }
  | some n =>
    match x.announcing.find? fun q => q.grp.val == n with
    | none => x
    | some q => { x with ann := some q.job, annExp := match q.expired with | some e => decide (e ≤ x.idle / 32 * 32) | none => false }

/-- ANNOUNCEMENT (R54): the pour that the port announces in its slot of the cycle under way. -/
def execAnnouncement (p : Fin 8) (s : State) : Host.Outcome State Fault Refusal :=
  let x := s.port p
  .next (if x.inCycle && x.announced.isNone && !barrierCycle s p && decide (x.idle % 32 ≤ x.spos.toNat) && decide (x.seen.length < 32) then
    s.setPort p x.choose else s)

/-- Whether the port's announcement is lit: it arms no pour outside CALOK but for a calibration that is still pending (R34), and lights only
LIT groups (R38). -/
def Port.announces (x : Port) : Bool := x.writable && x.allLit && (x.cal == .calok || x.cal == .pending)

/-- The bits of an announcement on λ0 to λ62 (R54). -/
def annBits (a : Announce) : Nat :=
  a.seq.toNat + a.grp.val * 2 ^ 16 + a.ty.toNat * 2 ^ 22 + a.gm1.toNat * 2 ^ 25 + a.replay.toNat * 2 ^ 30 + a.form.toNat * 2 ^ 33
    + a.countM1.toNat * 2 ^ 35

/-- The announcement with these bits. -/
def annOf (n : Nat) : Announce :=
  { seq := BitVec.ofNat 16 n, grp := Fin.ofNat 64 (n / 2 ^ 16), ty := BitVec.ofNat 3 (n / 2 ^ 22), gm1 := BitVec.ofNat 5 (n / 2 ^ 25)
    replay := BitVec.ofNat 3 (n / 2 ^ 30), form := BitVec.ofNat 2 (n / 2 ^ 33), countM1 := BitVec.ofNat 28 (n / 2 ^ 35) }

/-- The announcement that a slot carries (R54): none where ct is dark, or where ct or one of λ0 to λ62 is erased. -/
def slotAnnouncement (cs : List (Option Nat)) : Option Announce :=
  let bits := cs.take 63
  if bits.any Option.isNone then none
  else
    match cs.getD 67 none with
    | some (_ + 1) => some (annOf (((bits.zip (List.range 63)).map fun p => if (p.1.getD 0) = 0 then 0 else 2 ^ p.2).sum))
    | _ => none

/-- What the port lights in an idle slot of an announcement cycle (R36, R54): ck as the master; in its own slot its probe on g0 and its announcement. -/
def Port.idleLight (x : Port) (slot lam : Nat) : Nat :=
  if lam = 66 then (x.ckmst && x.en).toNat
  else if slot ≠ x.spos.toNat then 0
  else if lam = 64 then (x.auto && x.writable && x.litAt 64).toNat
  else
    match (if x.announces then x.announced else none) with
    | some q => if lam < 63 then ((annBits (describe x q)).testBit lam).toNat else if lam = 67 then 1 else 0
    | none => 0

/-- A probe slot (R36): its number is the position of a port of the segment, as far as the port knows them: its own, and those of the last calibration
(DEDUCED from R32, log entry 42). -/
def Port.probeSlot (x : Port) (slot : Nat) : Bool := slot == x.spos.toNat || x.known.getLsbD slot

/-- What a port expects in an idle slot (R31, R36, R54): the master on ck; in a probe slot at most one writer on the data wavelengths, g0 and ct; none
elsewhere, and none in a barrier cycle (R143). -/
def idleExpect (probe : Bool) (lam : Nat) : Nat := if lam = 66 then 1 else if !probe || lam = 65 then 0 else 1

/-- The 68 wavelengths of a slot: λ0 to λ63, and g0, g1, ck and ct. -/
def slotRow (data ctl : List Int) : List Int := (List.range 64).map (data.getD · 0) ++ ctl

/-- PROBE_SLOT: the next idle slot passes. data and ctl: the light of the other writers on λ0 to λ63, and on g0, g1, ck and ct. Erasures and excess
counts are counted, and have no other effect than that an erased announcement is none (R31, R54). -/
def execProbeSlot (p : Fin 8) (data ctl : List Int) (s : State) : Host.Outcome State Fault Refusal :=
  let x := (s.port p).settleIdle
  let slot := x.idle % 32
  let barrier := barrierCycle s p
  .next (if !x.inCycle || 32 ≤ x.seen.length || (barrier && slot == 0) then s
    else
      let x := if slot = x.spos.toNat && x.announced.isNone && !barrier then x.choose else x
      let cs := x.readSlot (slotRow data ctl) fun lam => if barrier then (if lam = 66 then (x.ckmst && x.en).toNat else 0) else x.idleLight slot lam
      let x := x.countErrs (slotErrs cs (idleExpect (!barrier && x.probeSlot slot)))
      s.setPort p { x with idle := x.idle + 1, seen := if barrier then [] else x.seen ++ [slotAnnouncement cs] })

/-- How the roll-call of an announced pour stands at the end of its cycle (R55). -/
inductive RollCall where
  | incomplete | mismatch | complete
  deriving DecidableEq, Repr

/-- The roll-call: every position of the mask carried an announcement of the group and sequence number, and all agree. -/
def rollCall (x : Port) (q : Pour) (seen : List (Option Announce)) : RollCall :=
  let d := describe x q
  let as := (maskBits (x.group q.grp).mask).map fun i => (seen.getD i none).filter fun a => a.grp == d.grp && a.seq == d.seq
  if as.any Option.isNone then .incomplete
  else if as.all fun a => a == some d then .complete
  else .mismatch

/-- The lowest of the ready groups above the last granted, wrapping (R56). -/
def grantOf (last : Nat) (ready : List Nat) : Option Nat := leastFrom (last + 1) ready

/-- A pour is granted: its limit, its writers and its rounds are fixed (R57). With `RWLIM` 0, which R57 does not divide by, it runs G − 1 rounds without
writers (DESIGN CHOICE, log entry 28). -/
def beginFrames (x : Port) (q : Pour) : Pour :=
  let l := x.rwlim.toNat
  let mask := (x.group q.grp).mask
  { q with st := .running, lim := l, mask, rounds := (memberCount mask + l - 1) / max 1 l, round := 0, sending := 0, kept := none, exps := []
           acc := List.replicate 256 0, emax := List.replicate 64 0
           phase := match q.kind with | .bs _ | .skim => .skim 0 | _ => .data 0 }

/-- The set of groups that four words of 16 bits name. -/
def groupSet (r0 r1 r2 r3 : BitVec 16) : List Nat := (List.range 64).filter fun n => ([r0, r1, r2, r3].getD (n / 16) 0).getLsbD (n % 16)

/-- ANNOUNCEMENT_CYCLE_END (R55, R56): the 32 slots of an announcement cycle have passed. r0 to r3: the groups of other ports that are ready, 16 to a
word. A grant gives the segment to its pour. -/
def execAnnouncementCycleEnd (p : Fin 8) (r0 r1 r2 r3 : BitVec 16) (s : State) : Host.Outcome State Fault Refusal :=
  let x := s.port p
  .next (if x.seen.length < 32 then s
    else
      let own := x.announced
      let call := own.map fun q => rollCall x q x.seen
      let x := match own, call with
        | some q, some .mismatch => x.modPour q.job fun q => { q with code := some 3 }
        | some q, some .incomplete => if x.annExp then x.modPour q.job fun q => { q with code := some 2 } else x
        | _, _ => x
      let mine := match own, call with | some q, some .complete => [q.grp.val] | _, _ => []
      let x := match grantOf x.lastGrant.val (mine ++ if x.ckLost then [] else groupSet r0 r1 r2 r3) with
        | none => x
        | some n =>
          let x := { x with lastGrant := Fin.ofNat 64 n, busy := true }
          match own with
          | some q => if mine == [n] then x.modPour q.job (beginFrames x) else x
          | none => x
      s.setPort p { x with k := x.k + 1, ann := none, annExp := false, seen := [] })

/-- The `ROLLTO` of these pours has run out (R53, R55). -/
def rollExpire (which : Pour → Bool) (x : Port) : Port :=
  { x with pours := x.pours.map fun q => if which q && q.timer == some 0 && q.st != .running then { q with timer := none, expired := some x.idle } else q }

/-- ROLLTO_EXPIRE. -/
def execRolltoExpire (p : Fin 8) (n : Fin 64) (s : State) : Host.Outcome State Fault Refusal := .next (s.modPort p (rollExpire fun q => q.grp == n))

/-- d ns of timebase time pass at a port, up to tb (R7): drift is tracked (R36), `ROLLTO` runs unless a calibration is due or under way (R53), and the
lasers' times come. -/
def passPort (tb d : Nat) (p : Fin 8) (x : Port) : Port :=
  let x := x.track tb
  let x := if x.cal == .pending || x.cal == .running then x
    else rollExpire (fun _ => true) { x with pours := x.pours.map fun q => { q with timer := q.timer.map (· - d) } }
  if x.lasers.toList.all fun l => l.st == .off then x
  else (List.finRange 9).foldl (fun x g => laserExpires tb g (laserGivesUp tb p g (laserLights tb p g x))) x

/-- The same at every port. -/
def passPorts (s : State) (d : Nat) : State :=
  { s with ports := Vector.ofFn fun p => passPort s.tb d p (s.port p) }

end Sys2Proof.Machine
end

