-- ==== Sys2Proof/Machine/RunnerFrames.lean ====
section
/-! DEFINITION. The frames of a running pour (R57 to R71, R417 to R420): what a port sends, what its detectors count, guards, the NAK window,
replay and poison, the skim, the result blocks, and completion. -/

namespace Sys2Proof.Machine

/-! ### Shape of a pour -/

/-- Bits n of an element (R58). -/
def elemBits : BitVec 3 → Nat
  | 0 => 4
  | 1 => 8
  | 2 => 16
  | 3 => 32
  | 4 => 8
  | 5 => 16
  | _ => 8

/-- Whether the last plane is the sign plane (R58). -/
def elemSigned (ty : BitVec 3) : Bool := ty != 4 && ty != 5

/-- The element type that the frames of a pour carry. -/
def frameTy : PourKind → BitVec 3
  | .int ty => ty
  | .bcast _ => 4
  | _ => 6

/-- Whether a pour runs skim frames. -/
def skims : PourKind → Bool
  | .bs _ => true
  | .skim => true
  | _ => false

/-- Result blocks in all (R65). -/
def Pour.blocks (q : Pour) : Nat := if skims q.kind then q.count else (q.count + 63) / 64

/-- Bytes of one source element or block, in bits (R417). -/
def srcBits : PourKind → Nat
  | .int ty => elemBits ty
  | .bs _ => 576
  | _ => 8

/-- Bytes of one result element or block (R417). -/
def resultBytes : PourKind → Nat
  | .int ty => if ty = 3 then 8 else 4
  | .bs bs8 => if bs8 then 72 else 136
  | _ => 1

/-- Bytes of the source and of the destination (R417). -/
def srcLen (k : PourKind) (count : Nat) : Nat := count * srcBits k / 8
/-- Bytes of the destination. -/
def dstLen (k : PourKind) (count : Nat) : Nat := count * resultBytes k

/-- Blocks already written: those of the frame positions and skim sets behind the one under way. -/
def Pour.written (q : Pour) : Nat :=
  match q.phase with
  | .data pos => 4 * pos
  | .skim set => 64 * set

/-- Own rank of a port among the members that its pour began with (R57). -/
def ownRank (x : Port) (q : Pour) : Nat := rankOf q.mask x.spos.toNat
/-- Writers of the round under way, and whether the port is one (R57). -/
def writersOf (q : Pour) : Nat := min (memberCount q.mask) ((q.round + 1) * q.lim) - q.round * q.lim
/-- Whether the port writes in the round under way. -/
def writesNow (x : Port) (q : Pour) : Bool := decide (q.round * q.lim ≤ ownRank x q) && decide (ownRank x q < (q.round + 1) * q.lim)

/-! ### The source (R58, R66, R68, R228) -/

/-- The offsets in the source of the bytes that the port sends in the frame under way: none in a round in which it does not write, and none at a rank
other than a broadcast's root. An offset beyond the source stands for a byte that reads zero (R58, R66). -/
def frameOffs (x : Port) (q : Pour) : List Nat :=
  if !writesNow x q then []
  else
    match q.phase, q.kind with
    | .data pos, .int ty => (List.range (32 * elemBits ty)).map (pos * 32 * elemBits ty + ·)
    | .data pos, .bcast root => if ownRank x q = root.val then (List.range 256).map (pos * 256 + ·) else []
    | .data pos, .bs _ => (List.range 256).map fun i => 72 * (4 * pos + i / 64) + i % 64
    | .skim set, .bs _ => (List.range 64).map fun b => 72 * (64 * set + b) + 64
    | .skim set, .skim => (List.range 64).map (64 * set + ·)
    | _, _ => []

/-- The reading of a frame's source begins: its bytes are translated and stand as pieces to be read (R209, R228). If they do not translate any more they
read as poisoned zeros (log entry 18). -/
def beginRead (s : State) (x : Port) (q : Pour) : State :=
  let ps := (frameOffs x q).zip (List.range (frameOffs x q).length) |>.filter fun p => p.1 < srcLen q.kind q.count
  let as := ps.map fun p => (q.src.toNat + p.1) % 2 ^ 64
  let s := if q.ssp == .glb then lockAlarm s false q.cluster q.asid as else s
  match resolveBytes s false q.key q.asid q.ssp { write := false, read := true, pin := true } as with
  | .error _ => modJob s q.cluster q.job fun j => { j with reading := true, got := [], poisoned := true }
  | .ok (ls, ms) =>
    modJob s q.cluster q.job fun j =>
      { j with reading := true, got := [], poisoned := false, todo := splitPieces (ls.zip (ps.map (·.2))), msl := (j.msl ++ ms).dedup }

/-- A piece of a frame's source is read. It waits for scratchpad banks that are not FULL (R188), and at a base die (R207); a DROP gives zeros and poison. -/
def readSource (s : State) (cl id : Nat) (ps : List (Nat × Nat)) : State :=
  match (s.cluster cl).jobs.find? fun j => j.id == id with
  | none => s
  | some j =>
    let locs := ps.map (·.1)
    let put (s : State) (bs : List Byte) (p : Bool) : State :=
      modJob s cl id fun j => { j with todo := j.todo.erase ps, got := j.got ++ (ps.map (·.2)).zip bs, poisoned := j.poisoned || p }
    let (s, ok) := homeBanks s false locs
    if !ok || !j.todo.contains ps then s
    else
      match engineGate s cl j false locs with
      | .stay s => s
      | .drop s => put s (List.replicate locs.length 0) true
      | .go s => let (bs, p, s) := readHome s false locs; put s bs p

/-- The pour of a job, with its port. -/
def State.pourOf (s : State) (j : Job) : Option (Fin 8 × Pour) :=
  match j.kind with
  | .pour p _ _ => ((s.port p).pours.find? fun q => q.job == j.id).map fun q => (p, q)
  | _ => none

/-- Whether the source of the frame under way may be read: the port will send it, for the first time. -/
def Pour.mayRead (q : Pour) : Bool := q.st == .running && q.code.isNone && q.kept.isNone

/-- Ahead of its frame, a port reads pieces of the source that a free value names (R209). -/
def readAhead (s : State) (id : Nat) : State :=
  match s.job id with
  | none => s
  | some j =>
    match s.pourOf j with
    | none => s
    | some (p, q) =>
      if !q.mayRead || (frameOffs (s.port p) q).isEmpty then s
      else if !j.reading then beginRead s (s.port p) q
      else (pick s.tick j.todo).1.foldl (fun s ps => readSource s q.cluster j.id ps) s

/-- The source bytes of the frame that begins, and whether one was poisoned: what has not been read is read now. The frame waits while a piece does. -/
def frameSource (s : State) (x : Port) (q : Pour) : Except State ((List Byte × Bool) × State) :=
  if (frameOffs x q).isEmpty then .ok (([], false), s)
  else
    let s := if (s.job q.job).any (·.reading) then s else beginRead s x q
    let s := match s.job q.job with | some j => j.todo.foldl (fun s ps => readSource s q.cluster q.job ps) s | none => s
    match s.job q.job with
    | none => .ok (([], true), s)
    | some j =>
      if !j.todo.isEmpty then .error s
      else
        let bs := (List.range (frameOffs x q).length).map fun i => ((j.got.find? fun p => p.1 == i).map (·.2)).getD 0
        .ok ((bs, j.poisoned), modJob s q.cluster q.job fun j => { j with reading := false, got := [], poisoned := false })

/-- Round to nearest even a quotient by 2^d (R68). -/
def rneShift (v : Int) (d : Nat) : Int :=
  let m := (roundShift .rne (decide (v < 0)) v.natAbs d).1
  if v < 0 then -(m : Int) else m

/-- A mantissa moved to the largest exponent (R68). -/
def rescale (m : Int) (e emax : Nat) : Int := if emax = 255 then 0 else if emax - e ≤ 8 then rneShift m (emax - e) else 0

/-- The 256 elements of a frame position that the port sends, from its source bytes. A poisoned mantissa counts as carried also in a block whose largest
exponent is 0xFF, for which zeros are sent (DESIGN CHOICE, log entry 43). -/
def positionElems (q : Pour) (bs : List Byte) : List Int :=
  match q.kind with
  | .int ty =>
    let n := elemBits ty
    let v := natOfBytes bs
    (List.range 256).map fun i => let e := v / 2 ^ (n * i) % 2 ^ n; if elemSigned ty then sextNat n e else (e : Int)
  | .bs _ =>
    let base := match q.phase with | .data pos => 4 * pos | .skim _ => 0
    (List.range 256).map fun i =>
      let k := (base + i / 64) % 64
      rescale (sextNat 8 (bs.getD i 0).toNat) (q.exps.getD k 0) (q.emax.getD k 0)
  | _ => (List.range 256).map fun i => ((bs.getD i 0).toNat : Int)

/-! ### Detectors (R30, R31, R59) -/

/-- The other writers' light on a wavelength in a slot, in 1/64 of a level. -/
def rawAt (f : FrameIn) (slot lam : Nat) : Int := (f.slots.getD slot []).getD lam 0

/-- The counts of one slot, the port's own light added. -/
def countsRow (x : Port) (f : FrameIn) (slot : Nat) (own : Nat → Nat) : List (Option Nat) := x.readSlot (f.slots.getD slot []) own

/-- One slot as the port's detectors report it: an erasure or an over-count is none (R31). -/
def senseRow (x : Port) (f : FrameIn) (slot : Nat) (own expect : Nat → Nat) : List (Option Nat) :=
  ((countsRow x f slot own).zip (List.range 68)).map fun p => p.1.bind fun c => if expect p.2 < c then none else some c

/-- What a port lights and expects in each slot of a frame with `body` slots between its census and its NAK window: `light` gives its own bits
in the body. -/
structure Plan where
  body : Nat
  writer : Bool
  master : Bool
  w : Nat
  g : Nat
  /-- the highest count expected on g0 and g1 in the body: W, or 0 where they are dark -/
  guards : Nat
  light : Nat → Nat → Bool
  /-- the wavelengths whose laser groups are LIT (R38) -/
  lit : Nat → Bool

/-- Own light: census, body, or NAK window. -/
def Plan.own (p : Plan) (nak : Bool) (slot lam : Nat) : Nat :=
  if slot = 0 then (p.writer && p.lit lam).toNat
  else if lam = 66 then p.master.toNat
  else if slot ≤ p.body then (p.writer && lam < 66 && p.light slot lam && p.lit lam).toNat
  else if lam = 67 then (nak && p.lit lam).toNat else 0

/-- Expected writers (R31, R62): all of the round's in a census, the master alone on ck, none where the wavelength is dark. -/
def Plan.expect (p : Plan) (slot lam : Nat) : Nat :=
  if slot = 0 then p.w
  else if lam = 66 then 1
  else if slot ≤ p.body then (if lam < 64 then p.w else if lam < 66 then p.guards else 0)
  else if lam = 67 then p.g else 0

/-- What a sending leaves at a receiver: its slots, and the causes of a NAK that they hold (R63): the census, an erasure or over-count on a data
or guard wavelength of the frame's body. The four slots of the NAK window come too late to cause a NAK of their own frame, so that "any slot of the
frame" means those before the window, is the model's choice (DESIGN CHOICE, log entry 43). -/
def Plan.rows (p : Plan) (x : Port) (f : FrameIn) : List (List (Option Nat)) := (List.range (p.body + 1)).map fun t => senseRow x f t (p.own false t) (p.expect t)

/-- A census mismatch, or a body sample that is not usable. -/
def Plan.spoiled (p : Plan) (rows : List (List (Option Nat))) : Bool :=
  (rows.headD []).any (· != some p.w) || (rows.drop 1).any fun r => (r.take 66).any Option.isNone

/-- The reading of a NAK window (R63). -/
inductive Reading where
  | nak | clear | uncertain
  deriving DecidableEq, Repr

/-- At least two samples lit and none erased is NAK; all dark is no NAK. -/
def readWindow (ws : List (Option Nat)) : Reading :=
  if ws.all (· == some 0) then .clear
  else if ws.any Option.isNone then .uncertain
  else if 2 ≤ (ws.filter (· != some 0)).length then .nak
  else .uncertain

/-- The reading of a frame's window by a port that has found nak or not. -/
def Plan.window (p : Plan) (x : Port) (f : FrameIn) (nak : Bool) : Reading :=
  readWindow ((List.range 4).map fun i => (senseRow x f (p.body + 1 + i) (p.own nak (p.body + 1 + i)) (p.expect (p.body + 1 + i))).getD 67 none)

/-- Erasures and over-counts of a whole frame. -/
def Plan.errs (p : Plan) (x : Port) (f : FrameIn) (nak : Bool) : Nat × Nat :=
  (List.range (p.body + 5)).foldl (fun a t => let e := slotErrs (countsRow x f t (p.own nak t)) (p.expect t); (a.1 + e.1, a.2 + e.2)) (0, 0)

/-- A count of the body, 0 where it is not usable. -/
def countAt (rows : List (List (Option Nat))) (slot lam : Nat) : Nat := ((rows.getD slot []).getD lam none).getD 0

/-! ### Data frames (R59 to R61) -/

/-- Guard words of a writer. -/
def guardWords (d : Nat) (xs : List Int) : Nat × Nat :=
  (bitsOf d xs.sum, bitsOf d ((xs.zip (List.range xs.length)).map fun p => ((p.2 : Int) + 1) * p.1).sum)

/-- The plan of a data frame of n-bit elements. -/
def dataPlan (x : Port) (q : Pour) (n : Nat) (xs : List Int) : Plan :=
  let (w0, w1) := guardWords (4 * n) xs
  { body := 4 * n, writer := writesNow x q, master := x.ckmst, w := writersOf q, g := memberCount q.mask, guards := writersOf q
    light := fun slot lam =>
      if lam < 64 then (bitsOf n (xs.getD ((slot - 1) / n * 64 + lam) 0)).testBit ((slot - 1) % n)
      else (if lam = 64 then w0 else w1).testBit (slot - 1)
    lit := x.litAt }

/-- The element sums of a round-frame (R60). -/
def frameSums (n : Nat) (signed : Bool) (rows : List (List (Option Nat))) : List Int :=
  (List.range 256).map fun i =>
    ((List.range n).map fun j =>
      let c : Int := countAt rows (1 + n * (i / 64) + j) (i % 64)
      if signed && j + 1 == n then -(c * 2 ^ j) else c * 2 ^ j).sum

/-- The guard check (R61). -/
def guardsOk (n : Nat) (rows : List (List (Option Nat))) (sums : List Int) : Bool :=
  let d := 4 * n
  let g (lam : Nat) : Nat := ((List.range d).map fun k => countAt rows (1 + k) lam * 2 ^ k).sum
  let (w0, w1) := guardWords d sums
  g 64 % 2 ^ d == w0 && g 65 % 2 ^ d == w1

/-! ### Skim frames (R67) -/

/-- Bit 8 − k of an exponent. -/
def expBit (e k : Nat) : Bool := e.testBit (8 - k)

/-- One lane of a skim: given what the port counts by slot where it lights a bit of its own or none, its own exponent where it writes and the highest
count expected, the slots in which it lights, and the round's maximum as it reads it. A sample that is not usable counts as dark. -/
def skimLane (own : Option Nat) (w : Nat) (counts : Nat → Bool → Option Nat) : Nat → Bool × List Bool × Nat
  | 0 => (own.isSome, [], 0)
  | k + 1 =>
    let (act, lit, m) := skimLane own w counts k
    let bit := act && expBit (own.getD 0) (k + 1)
    let c := match counts (k + 1) bit with
      | none => 0
      | some v => if w < v then 0 else v
    (act && (bit || c == 0), lit ++ [bit], 2 * m + (decide (1 ≤ c)).toNat)

/-- The plan of a skim frame. -/
def skimPlan (x : Port) (q : Pour) (lanes : List (Bool × List Bool × Nat)) : Plan :=
  { body := 8, writer := writesNow x q, master := x.ckmst, w := writersOf q, g := memberCount q.mask, guards := 0
    light := fun slot lam => lam < 64 && (lanes.getD lam (false, [], 0)).2.1.getD (slot - 1) false
    lit := x.litAt }

/-! ### Results (R65, R69, R419, R420) -/

/-- A BS16 or BS8 result block: mantissas, exponent, and whether one saturated (R69). -/
def blockResult (bs8 : Bool) (emax : Nat) (sums : List Int) : List Int × Nat × Bool :=
  let sat (lo hi : Int) (vs : List Int) : List Int × Bool := (vs.map fun v => (satInt v lo hi).1, vs.any fun v => (satInt v lo hi).2)
  if emax = 255 then (List.replicate 64 0, 255, false)
  else if sums.all (· == 0) then (List.replicate 64 0, 0, false)
  else if bs8 then
    let fits (e : Nat) : Bool := sums.all fun v => let r := rneShift v (e - emax); decide (-128 ≤ r) && decide (r ≤ 127)
    let e := (((List.range (255 - emax)).map (emax + ·)).find? fits).getD 254
    let (ms, f) := sat (-128) 127 (sums.map fun v => rneShift v (e - emax))
    (ms, e, f)
  else
    let wide := sums.any fun v => decide (16 * v < -32768) || decide (32767 < 16 * v)
    let e := if wide then emax + 5 else emax + 4
    if 254 < e then
      let (ms, f) := sat (-32768) 32767 (sums.map fun v => v * 2 ^ (emax - 246))
      (ms, 254, f)
    else (sums.map fun v => (if wide then 8 else 16) * v, e, false)

/-- The image of one result block, and whether it saturated; none is a poisoned block. -/
def blockOut (q : Pour) (r : Option (List Int × Nat)) : List Byte × Bool :=
  match q.kind, r with
  | .int ty, some (sums, _) => (sums.flatMap fun v => bytesOfNat (if ty = 3 then 8 else 4) (bitsOf (if ty = 3 then 64 else 32) v), false)
  | .int ty, none => ((List.replicate 64 (if ty = 3 then bytesOfNat 8 (2 ^ 63) else bytesOfNat 4 (2 ^ 31))).flatten, false)
  | .bs bs8, some (sums, e) => let (ms, e, f) := blockResult bs8 e sums; (blockImage (!bs8) ms e, f)
  | .bs bs8, none => (blockImage (!bs8) (List.replicate 64 0) 255, false)
  | .skim, some (_, e) => ([BitVec.ofNat 8 e], false)
  | .skim, none => ([255], false)
  | .bcast _, some (sums, _) => (sums.map fun v => BitVec.ofNat 8 (bitsOf 8 v), false)
  | .bcast _, none => (List.replicate 64 0, false)

/-- Write a block's image at its place, as far as the destination goes; bytes that do not translate any more are not written (log entry 18). Its pieces
stand as writes of the port: each is performed by itself, in no order, and all before the pour completes (R65, R70, R209). -/
def writeBlock (s : State) (q : Pour) (b : Nat) (img : List Byte) : State :=
  let per := if skims q.kind then resultBytes q.kind else 64 * resultBytes q.kind
  let off := b * per
  let as := addrRange (q.dst.toNat + off) (min img.length (dstLen q.kind q.count - off))
  let s := if q.dsp == .glb then lockAlarm s false q.cluster q.asid as else s
  let ps := (as.zip img).filterMap fun p =>
    match resolveBytes s false q.key q.asid q.dsp { write := true, read := false, pin := true } [p.1] with
    | .ok (l :: _, ms) => some ((l, p.2), ms)
    | _ => none
  modJob s q.cluster q.job fun j => { j with out := j.out ++ splitPieces (ps.map (·.1)), msl := (j.msl ++ ps.flatMap (·.2)).dedup }

/-- Write the blocks lo to hi − 1 poisoned. -/
def writePoison (s : State) (q : Pour) (lo hi : Nat) : State :=
  ((List.range (hi - lo)).map (lo + ·)).foldl (fun s b => writeBlock s q b (blockOut q none).1) s

/-- Write the four blocks of a frame position from their sums; the state and whether one saturated. -/
def writePosition (s : State) (q : Pour) (pos : Nat) : State × Bool :=
  let bad := q.badPos.contains pos
  (List.range 4).foldl (fun (a : State × Bool) b =>
    let k := 4 * pos + b
    if q.blocks ≤ k then a
    else
      let r := if bad && q.kind != .skim then none else some ((q.acc.drop (64 * b)).take 64, q.emax.getD (k % 64) 0)
      let (img, f) := blockOut q r
      (writeBlock a.1 q k img, a.2 || f)) (s, false)

/-! ### The end of a sending (R57, R63, R64, R66) -/

/-- Poison what the frame under way carries: the blocks newly poisoned, and the pour. -/
def poisonFrame (q : Pour) : Pour × Nat :=
  let within (lo hi : Nat) : Nat := min hi q.blocks - lo
  match q.phase with
  | .data pos =>
    if q.badPos.contains pos then (q, 0)
    else let n := within (4 * pos) (4 * pos + 4); ({ q with badPos := nsAdd q.badPos pos, npois := q.npois + n }, n)
  | .skim set =>
    if q.badSets.contains set then (q, 0)
    else let n := within (64 * set) (64 * set + 64); ({ q with badSets := nsAdd q.badSets set, npois := q.npois + n }, n)

/-- The pour's last NAK window has passed. -/
def endFrames (q : Pour) : Pour := { q with code := some (if q.npois = 0 then 0 else 1) }

/-- The next skim set, or the end. -/
def nextSet (q : Pour) (set : Nat) : Pour :=
  let q := { q with phase := .skim set, round := 0, sending := 0, kept := none, exps := [], acc := List.replicate 256 0, emax := List.replicate 64 0 }
  if 64 * set < q.count then q else endFrames q

/-- The last round of a frame position or of a skim has passed: its blocks are to be written, in no defined order (R65), and the next frame begins. -/
def frameDone (s : State) (q : Pour) : State × Pour :=
  let q := { q with round := 0, sending := 0, kept := none }
  match q.phase with
  | .skim set =>
    if q.badSets.contains set then (writePoison s q (64 * set) (min (64 * set + 64) q.blocks), nextSet q (set + 1))
    else (s, { q with phase := .data (16 * set), acc := List.replicate 256 0 })
  | .data pos =>
    let (s, f) := writePosition s q pos
    let q := { q with sat := q.sat || f, phase := .data (pos + 1), acc := List.replicate 256 0 }
    if skims q.kind then
      if (pos + 1) % 16 = 0 then (s, nextSet q ((pos + 1) / 16)) else (s, q)
    else if 256 * (pos + 1) < q.count then (s, q) else (s, endFrames q)

/-- The next round-frame. -/
def nextRound (s : State) (q : Pour) : State × Pour :=
  if q.round + 1 < q.rounds then (s, { q with round := q.round + 1, sending := 0, kept := none }) else frameDone s q

/-- A port's reading of a NAK window: the frame counts, is sent again, is poisoned, or the port withdraws. good adds what the frame brought. -/
def endSending (s : State) (p : Fin 8) (q : Pour) (r : Reading) (good : Pour → Pour) : State :=
  let put (s : State) (q : Pour) : State := s.modPort p fun x => x.modPour q.job fun _ => q
  let free (s : State) (q : Pour) : State := if q.code.isSome then s.modPort p Port.settleIdle else s
  match r with
  | .uncertain => put s { q with code := some 5 }
  | .clear => let (s, q) := nextRound s (good q); free (put s q) q
  | .nak =>
    if q.sending < ((s.port p).group q.grp).replaymax.toNat then
      put (s.modPort p fun x => { x with replCnt := inc32 x.replCnt 1 }) { q with sending := q.sending + 1, nrepl := q.nrepl + 1 }
    else
      let (q, n) := poisonFrame q
      let (s, q) := nextRound (s.modPort p fun x => { x with poisCnt := inc32 x.poisCnt n }) q
      free (put s q) q

/-- Count the samples of a frame that were erased or above what was expected (R30, R31). -/
def countErrs (s : State) (p : Fin 8) (e : Nat × Nat) : State := s.modPort p fun x => x.countErrs e

/-- The light of a port that is no writer in a slot of a frame: the master's ck, but for the census (R28). -/
def foreignLight (x : Port) (slot lam : Nat) : Nat := if lam = 66 && slot != 0 then x.ckmst.toNat else 0

/-- A frame of which the port is no member, or no longer one: a pour of others is past its census on the segment. The spec gives such a port no number of
writers to expect: that it counts erased samples and no over-counts is the model's choice (R30, R31, R41; DESIGN CHOICE, log entry 43). -/
def foreignFrame (s : State) (p : Fin 8) (f : FrameIn) : State :=
  let x := s.port p
  if x.en then
    let rows := (f.slots.zip (List.range f.slots.length)).map fun t => x.readSlot t.1 (foreignLight x t.2)
    s.setPort p { x.countErrs ((rows.map fun r => (r.filter Option.isNone).length).sum, 0) with busy := true }
  else s

/-- A data frame of a running pour: one sending, from its census to its NAK window. -/
def dataFrame (s : State) (p : Fin 8) (q : Pour) (f : FrameIn) : State :=
  let x := s.port p
  let n := elemBits (frameTy q.kind)
  let elems : Except State ((List Int × Bool) × State) :=
    match q.kept, writesNow x q with
    | some k, _ => .ok (k, s)
    | none, true => (frameSource s x q).map fun r => ((positionElems q r.1.1, r.1.2), r.2)
    | none, false => .ok (([], false), s)
  match elems with
  | .error s => s
  | .ok ((xs, pois), s) =>
    let q := if writesNow x q then { q with kept := some (xs, pois) } else q
    let plan := dataPlan x q n xs
    let rows := plan.rows x f
    let sums := frameSums n (elemSigned (frameTy q.kind)) rows
    let nak := plan.spoiled rows || !guardsOk n rows sums || (plan.writer && pois)
    endSending (countErrs s p (plan.errs x f nak)) p q (plan.window x f nak) fun q => { q with acc := List.zipWith (· + ·) q.acc sums }

/-- ROUND_FRAME: one sending of a data frame; a port in no pour only counts. -/
def execRoundFrame (p : Fin 8) (f : FrameIn) (s : State) : Host.Outcome State Fault Refusal :=
  .next (match (s.port p).running with
    | none => foreignFrame s p f
    | some q =>
      match q.phase with
      | .skim _ => s
      | .data _ => dataFrame s p q f)

/-- A skim frame of a running pour. -/
def skimFrameOf (s : State) (p : Fin 8) (q : Pour) (f : FrameIn) : State :=
  let x := s.port p
  let wr := writesNow x q
  let exps : Except State ((List Nat × Bool) × State) :=
    match q.kept, wr with
    | some k, _ => .ok ((q.exps, k.2), s)
    | none, true => (frameSource s x q).map fun r => ((r.1.1.map (·.toNat), r.1.2), r.2)
    | none, false => .ok ((q.exps, false), s)
  match exps with
  | .error s => s
  | .ok ((es, pois), s) =>
    let q := if wr then { q with kept := some ([], pois), exps := es } else q
    let lanes := (List.range 64).map fun b =>
      skimLane (if wr then some (es.getD b 0) else none) (writersOf q) (fun k bit => x.sense (rawAt f k b) (bit && x.litAt b).toNat) 8
    let plan := skimPlan x q lanes
    let rows := plan.rows x f
    let lost := wr && (List.range 64).any fun b => (List.range 8).any fun k => plan.light (k + 1) b && countAt rows (k + 1) b == 0
    let nak := plan.spoiled rows || lost || (wr && pois)
    endSending (countErrs s p (plan.errs x f nak)) p q (plan.window x f nak) fun q =>
      { q with emax := List.zipWith max q.emax (lanes.map fun l => l.2.2) }

/-- SKIM_FRAME: one sending of a skim frame; a port in no pour only counts. -/
def execSkimFrame (p : Fin 8) (f : FrameIn) (s : State) : Host.Outcome State Fault Refusal :=
  .next (match (s.port p).running with
    | none => foreignFrame s p f
    | some q =>
      match q.phase with
      | .data _ => s
      | .skim _ => skimFrameOf s p q f)

/-! ### Completion (R70, R71) -/

/-- The status word. -/
def statusWord (p : Fin 8) (q : Pour) : Word :=
  BitVec.ofNat 64 (q.seq.toNat * 2 ^ 48 + q.grp.val * 2 ^ 42 + p.val * 2 ^ 39 + min 255 q.npois * 2 ^ 24 + min 255 q.nrepl * 2 ^ 16
    + q.rounds * 2 ^ 10 + q.sat.toNat * 2 ^ 8 + q.lim * 2 ^ 4 + ((q.code.getD 0).toNat))

/-- Blocks of the frame under way that are poisoned already. -/
def countedHere (q : Pour) : Nat :=
  match q.phase with
  | .data pos => if q.badPos.contains pos then min (4 * pos + 4) q.blocks - 4 * pos else 0
  | .skim set => if q.badSets.contains set then min (64 * set + 64) q.blocks - 64 * set else 0

/-- The writes of a pour that still stand, as far as they can be performed now. -/
def drainPour (s : State) (q : Pour) : State :=
  match s.job q.job with
  | none => s
  | some j => j.out.foldl (fun s ps => writePiece s q.cluster q.job ps) s

/-- Writes of a pour that a free value names (R65, R209). -/
def writeSome (s : State) (id : Nat) : State :=
  match s.job id with
  | none => s
  | some j => if isLadle j then s else (pick s.tick j.out).1.foldl (fun s ps => writePiece s (clusterOf j.key) j.id ps) s

/-- Some write of a pour still stands. -/
def pourHeld (s : State) (q : Pour) : Bool := match s.job q.job with | some j => !j.out.isEmpty | none => false

/-- The blocks not yet written are written, poisoned (R65, R70): those of the frame under way that were counted as poisoned are not counted again. -/
def finishBlocks (s : State) (p : Fin 8) (q : Pour) : State :=
  let left := q.blocks - q.written - countedHere q
  let s := modJob (writePoison s q q.written q.blocks) q.cluster q.job fun j => { j with todo := [], reading := false }
  s.modPort p fun x =>
    { x with poisCnt := inc32 x.poisCnt left
             pours := x.pours.map fun y => if y.job = q.job then { y with npois := q.npois + left, blocksDone := true } else y }

/-- What follows a pour's last block, in the order of R70: the status word, the sync word, `EXPSEQ`, the counters, q7 and the event. -/
def finishPour (s : State) (p : Fin 8) (q : Pour) : State :=
  let w := statusWord p q
  let s := writePieces s false (pairsAt (q.syncLoc + 16) (bytesOfNat 8 w.toNat))
  let s := syncAdd s q.syncLoc (dstLen q.kind q.count) (q.code != some 0)
  let s := s.modPort p fun x =>
    let x := x.setGroup q.grp { x.group q.grp with expseq := q.seq + 1 }
    { x with pourCnt := inc32 x.pourCnt 1, absCnt := inc32 x.absCnt (if q.code = some 2 then 1 else 0)
             pours := x.pours.filter fun y => y.job ≠ q.job }
  let s := if q.q7 && q.owned then pushQ7 s q.key q.ctx q.area w else s
  let s := signalEvent s q.evt.toNat
  let s := match s.job q.job with | some j => unparkAll s q.cluster j | none => s
  holdAll (s.modCluster q.cluster fun c => { c with jobs := c.jobs.filter fun j => j.id ≠ q.job }) p

/-- POUR_COMPLETE (R70): it waits until the scratchpad banks of the sync word and the status word are FULL, and until every block is written. -/
def completePour (s : State) (p : Fin 8) (q : Pour) : State :=
  let (ws, rs) := syncNeeds q.syncLoc (q.code != some 0)
  let (s', ok) := homeBanksRw s ((q.syncLoc + 16) :: ws) rs
  if !ok then s'
  else
    let s := drainPour (if q.blocksDone then s' else finishBlocks s' p q) q
    if pourHeld s q then s
    else
      match (s.port p).pours.find? fun y => y.job == q.job with
      | some q => finishPour s p q
      | none => s

/-- POUR_COMPLETE. -/
def execPourComplete (p : Fin 8) (n : Fin 64) (seq : BitVec 16) (s : State) : Host.Outcome State Fault Refusal :=
  .next (match (s.port p).findPour n seq with
    | some q => if q.code.isSome && q.edgesOk then completePour s p q else s
    | none => s)

end Sys2Proof.Machine
end

