-- ==== Sys2Proof/Machine/RunnerIsa.lean ====
section
/-! DEFINITION. The Runner instructions (R415 to R422): RARM, the four that start a pour, RSTAT and RDISARM. -/

namespace Sys2Proof.Machine

/-- The bit of `CAP.RUN` (R78). -/
def capRun : Nat := 1

/-- The space of a pour's source or destination. -/
def pourSpace : PourSp → Space
  | .glb => .glb
  | .twr => .twr

/-- The sequence number that a group expects next (R52). A pour that has ended counts, here, among the four and for the writes of `RGCFG`, until its
completion step (DESIGN CHOICE, log entry 28). -/
def nextSeq (x : Port) (n : Fin 64) : BitVec 16 :=
  match (x.poursOf n).getLast? with
  | some q => q.seq + 1
  | none => (x.group n).expseq

/-- What makes a pour raise RUNNER at issue (R52, R416). -/
def pourRefused (x : Port) (kind : PourKind) (n : Fin 64) (seq : BitVec 16) : Bool :=
  let g := x.group n
  x.cal != .calok || x.rwlim == 0 || !g.valid || !g.mask.getLsbD x.spos.toNat || seq != nextSeq x n || decide (4 ≤ (x.poursOf n).length)
    || (match kind with
      | .int ty => ty == 7
      | .bcast root => decide (memberCount g.mask ≤ root.val)
      | _ => false)

/-- Bytes that a pour reads: none by an RBCAST whose rank is not the root (R417). -/
def pourReads (x : Port) (kind : PourKind) (n : Fin 64) (count : Nat) : Nat :=
  match kind with
  | .bcast root => if rankOf (x.group n).mask x.spos.toNat = root.val then count else 0
  | k => srcLen k count

/-- The checks of a pour's status word, 8 bytes at B + 16 (R416). -/
def statusPlace (s : State) (ysp : SyncSp) (a : Nat) : Except FaultInfo Unit :=
  match syncSpace ysp with
  | none => .ok ()
  | some sp =>
    let b := (a + 16) % 2 ^ 64
    (resolve s s.focus s.cur.asid sp wrUse b 8 (addrRange b 8)).map fun _ => ()

/-- Start a pour (R418): the waits, the checks in the order of R231, and the hand-over to the footprint scheduler and the port. -/
def startPour (c : Com) (o : PourOp) (kind : PourKind) (s : State) : Host.Outcome State Fault Refusal :=
  issueFall .tile c s fun s => do
    needCap s capRun
    let (dst, sync, s) ← read2 s o.dst.r o.sync.r
    let (se, s) ← readSrc s o.seqev.r
    let (src, s) ← readSrc s o.src
    waitFor (!s.vecMemPending s.focus s.act)
    let x := s.port o.port
    let seq := BitVec.ofNat 16 (bitsAt se 0 16)
    let key := s.focus
    let asid := s.cur.asid
    let count := o.count.toNat
    let rlen := pourReads x kind o.grp count
    let wlen := dstLen kind count
    let rd := if rlen = 0 then (if src.toNat % 8 = 0 then .ok [] else .error (fAlign src.toNat (spaceNum (pourSpace o.ssp)))) else jobRange s key asid (pourSpace o.ssp) false src.toNat rlen
    let wr := jobRange s key asid (pourSpace o.dsp) true dst.toNat wlen
    let sy := jobSync s o.ysp sync.toNat
    let heads (a n : Nat) : List Nat := (rangeHeads a n 65536).map (· % 2 ^ 64)
    let vas := (if o.ssp == .glb && rlen ≠ 0 then heads src.toNat rlen else []) ++ (if o.dsp == .glb then heads dst.toNat wlen else [])
    match firstFault [errOf rd, errOf wr, errOf sy, errOf (statusPlace s o.ysp sync.toNat)] with
    | some f => checkedIn s .glb vas (.error f)
    | none => pure ()
    let rps ← checked rd
    let wps ← checked wr
    let at_ ← checked sy
    raiseIf (pourRefused x kind o.grp seq) fRunner
    waitFor (decide ((s.cluster s.myCluster).jobs.length < 64))
    let ssp := pourSpace o.ssp
    let dsp := pourSpace o.dsp
    let job := s.nextId
    let evt := BitVec.ofNat 16 (bitsAt se 16 16)
    let s := holdJob s
      { id := 0, kind := .pour o.port o.grp seq, key, ctx := s.act, asid, rd := footprint rps, wr := footprint wps, edges := [], src, dst, ssp, dsp
        block := 0, opx := 0, evt, sync, ysp := o.ysp, syncLoc := at_.getD 0, jobid := 0, len := wlen }
    let q : Pour := { grp := o.grp, seq, kind, count, src, dst, ssp, dsp, asid, syncLoc := at_.getD 0, evt, q7 := o.q7, key, ctx := s.act, job
                      cluster := s.myCluster }
    return translated (s.modPort o.port fun x => { x with pours := x.pours ++ [q] }) .glb vas

/-- RARM (R415): a wake of all nine groups; RUNNER on a disabled port. -/
def execRarm (c : Com) (port : Fin 8) (s : State) : Host.Outcome State Fault Refusal :=
  issueFall .tile c s fun s => do
    needCap s capRun
    raiseIf (!(s.port port).en) fRunner
    return wakeAll s port

/-- RPOUR.int (R416 to R418). -/
def execRpourInt (c : Com) (o : PourOp) (ty : BitVec 3) (s : State) : Host.Outcome State Fault Refusal := startPour c o (.int ty) s
/-- RPOUR.bs (R416 to R418). -/
def execRpourBs (c : Com) (o : PourOp) (bs8 : Bool) (s : State) : Host.Outcome State Fault Refusal := startPour c o (.bs bs8) s
/-- RSKIM (R419). -/
def execRskim (c : Com) (o : PourOp) (s : State) : Host.Outcome State Fault Refusal := startPour c o .skim s
/-- RBCAST (R420). -/
def execRbcast (c : Com) (o : PourOp) (root : Fin 32) (s : State) : Host.Outcome State Fault Refusal := startPour c o (.bcast root) s

/-- Code of a calibration state (R46). -/
def calNum : CalSt → Nat
  | .uncal => 0 | .pending => 1 | .running => 2 | .calok => 3 | .calfail => 4

/-- Code of a pour state in RSTAT (R421). -/
def pourNum : PourSt → Nat
  | .queued => 1 | .announcing => 2 | .running => 3

/-- The snapshot of RSTAT (R421). -/
def rstatWord (x : Port) (n : Fin 64) : Word :=
  let g := x.group n
  let qs := x.poursOf n
  BitVec.ofNat 64 (g.expseq.toNat * 2 ^ 48 + qs.length * 2 ^ 45 + (match qs.head? with | some q => pourNum q.st | none => 0) * 2 ^ 43
    + calNum x.cal * 2 ^ 40 + x.allLit.toNat * 2 ^ 39 + g.valid.toNat * 2 ^ 38)

/-- RSTAT (R421). -/
def execRstat (c : Com) (d : Dst) (port : Fin 8) (grp : Fin 64) (s : State) : Host.Outcome State Fault Refusal :=
  issueFall .tile c s fun s => writeDst s d (rstatWord (s.port port) grp)

/-- RDISARM (R422): nothing on an entry that is not VALID. -/
def execRdisarm (c : Com) (port : Fin 8) (grp : Fin 64) (s : State) : Host.Outcome State Fault Refusal :=
  issueFall .tile c s fun s => do
    needCap s capRun
    return s.modPort port fun x => if (x.group grp).valid then disarm x fun q => q.grp == grp else x

end Sys2Proof.Machine
end

