-- ==== Sys2Proof/Machine/HostWindow.lean ====
section
/-! DEFINITION. The host's windows (R42 to R50, R73 to R95): BAR0 registers by offset, CXL.mem, command queues and event objects. -/

namespace Sys2Proof.Machine

/-! ### Runner window (R42 to R50, R73) -/

/-- A port register as it reads; it reads zero while RUNNER is not accepted (R86). -/
def portRead (x : Port) (o : Nat) : Word :=
  if o = 0x000 then BitVec.ofNat 64 (x.segid.toNat * 2 ^ 32 + x.spos.toNat * 2 ^ 24 + x.gbw.toNat * 2 ^ 20 + x.ckmst.toNat * 2 + x.en.toNat)
  else if o = 0x008 then BitVec.ofNat 64 (x.calgen.toNat * 2 ^ 32 + x.rwlim.toNat * 2 ^ 8 + x.lcal.toNat)
  else if o = 0x010 then BitVec.ofNat 64 (x.aerr.toNat * 2 ^ 24 + x.auto.toNat * 2 ^ 18 + (x.ldlyNext.getD x.ldly).toNat)
  else if o = 0x018 then
    let gst := (List.finRange 9).foldl (fun n g =>
      n + (match (x.lasers.get g).st with | .off => 0 | .waking => 1 | .lit => 2) * 4 ^ g.val) 0
    BitVec.ofNat 64 (x.hold.toNat * 2 ^ 32 + x.force.toNat * 2 ^ 18 + gst)
  else if o = 0x020 then BitVec.ofNat 64 (x.failw.toNat * 2 ^ 32 + x.plim.toNat * 2 ^ 24 + calNum x.cal * 4 + x.start.toNat)
  else if o = 0x028 then x.stat.setWidth 64
  else if o = 0x030 then x.eras.setWidth 64
  else if o = 0x038 then x.overs.setWidth 64
  else if o = 0x040 then x.pourCnt.setWidth 64
  else if o = 0x048 then x.absCnt.setWidth 64
  else if o = 0x050 then x.replCnt.setWidth 64
  else if o = 0x058 then x.poisCnt.setWidth 64
  else if 0x400 ≤ o && o < 0x800 then
    let g := x.group (Fin.ofNat 64 ((o - 0x400) / 16))
    if o % 16 = 0 then BitVec.ofNat 64 (g.expseq.toNat * 2 ^ 48 + g.rollto.toNat * 2 ^ 32 + g.replaymax.toNat * 2 ^ 24 + g.valid.toNat)
    else if o % 16 = 8 then g.mask.setWidth 64
    else 0
  else 0

/-- A write of `RPTRIM` (R44): AUTO, and LDLY, which takes effect at the next idle slot: at once where no pour is past its census. -/
def writeRptrim (s : State) (p : Fin 8) (v : Word) : State :=
  s.modPort p fun x =>
    let x := { x with auto := v.getLsbD 18 }
    let d := BitVec.ofNat 18 (bitsAt v 0 18)
    if x.busy then { x with ldlyNext := some d } else { x with ldly := d, ldlyNext := none }

/-- A write of a port register; the counters are RC. -/
def portWrite (s : State) (p : Fin 8) (o : Nat) (v : Word) : State :=
  if o = 0x000 then writeRpcfg s p v
  else if o = 0x008 then writeRwlim s p v
  else if o = 0x010 then writeRptrim s p v
  else if o = 0x018 then writeRplas s p v
  else if o = 0x020 then writeRpcal s p v
  else if o = 0x028 then s.modPort p fun x => { x with stat := x.stat &&& ~~~BitVec.ofNat 8 (bitsAt v 0 8) }
  else if 0x400 ≤ o && o < 0x800 then
    let n : Fin 64 := Fin.ofNat 64 ((o - 0x400) / 16)
    if o % 16 = 0 then writeRgcfg s p n v else if o % 16 = 8 then writeRgmem s p n v else s
  else s

/-- A read clears a counter of a port (R9, R48, R73). -/
def portClear (x : Port) (o : Nat) : Port :=
  if o = 0x030 then { x with eras := 0 } else if o = 0x038 then { x with overs := 0 }
  else if o = 0x040 then { x with pourCnt := 0 } else if o = 0x048 then { x with absCnt := 0 }
  else if o = 0x050 then { x with replCnt := 0 } else if o = 0x058 then { x with poisCnt := 0 } else x

/-! ### Events (R81, R109) -/

/-- EVENT_FREE: the event is FREE, and the records held on it are discarded and counted. -/
def freeEvent (s : State) (id : Nat) : State :=
  let on (h : Held) : Bool := recWevt h.body == id && h.released.isNone
  { s with events := s.events.filter fun e => e.1 ≠ id, held := s.held.filter fun h => !on h
           hldrop := inc32 s.hldrop (s.held.filter on).length }

/-- EVENT_ARM: a write of `EVARM`. -/
def armEvent (s : State) (v : Word) : State :=
  let id := bitsAt v 0 16
  let t := BitVec.ofNat 32 (bitsAt v 32 32)
  if id = 0 then s else if t = 0 then freeEvent s id else { s with events := tset s.events id { target := t, count := 0 } }

/-- EVENT_ARM: with TARGET 0 it frees the event. -/
def execEventArm (v : Word) (s : State) : Host.Outcome State Fault Refusal := .next (armEvent s v)
/-- EVENT_FREE. -/
def execEventFree (id : Nat) (s : State) : Host.Outcome State Fault Refusal := .next (if id = 0 || 65535 < id then s else freeEvent s id)
/-- EVENT_SIGNAL: one signal, as `EVSIG` gives it. -/
def execEventSignal (id : Nat) (s : State) : Host.Outcome State Fault Refusal := .next (if 65535 < id then s else signalEvent s id)

/-! ### Command queues (R79, R80) -/

/-- A queue. -/
def State.queue (s : State) (q : Nat) : HostQueue := tget {} s.queues q
/-- Change a queue. -/
def State.modQueue (s : State) (q : Nat) (f : HostQueue → HostQueue) : State := { s with queues := tset s.queues q (f (s.queue q)) }

/-- QUEUE_DISABLE: the queue stops at the record boundary it stands at. -/
def execQueueDisable (q : Fin 16) (s : State) : Host.Outcome State Fault Refusal := .next (s.modQueue q.val fun x => { x with en := false })

/-- A queue register as it reads. -/
def queueRead (x : HostQueue) (o : Nat) : Word :=
  if o = 0x00 then x.base
  else if o = 0x08 then BitVec.ofNat 64 (x.asid.toNat * 2 ^ 48 + x.capmax.toNat * 2 ^ 16 + x.logsz.toNat * 2 ^ 12 + x.en.toNat)
  else if o = 0x10 then x.tail.setWidth 64
  else if o = 0x18 then x.head.setWidth 64
  else if o = 0x20 then BitVec.ofNat 64 (x.errIndex.toNat * 2 ^ 32 + x.errCount.toNat * 2 ^ 16 + x.errCode.toNat)
  else 0

/-- A write of a queue register: most fields are fixed while EN = 1, and EN waits for `FEATACC` (R79). -/
def queueWrite (s : State) (q o : Nat) (v : Word) : State :=
  s.modQueue q fun x =>
    if o = 0x00 then (if x.en then x else { x with base := v &&& ~~~(0x3F : Word) })
    else if o = 0x08 then
      let y := if x.en then x else
        { x with asid := BitVec.ofNat 16 (bitsAt v 48 16), capmax := BitVec.ofNat 32 (bitsAt v 16 32)
                 logsz := if bitsAt v 12 4 ≤ 12 then BitVec.ofNat 4 (bitsAt v 12 4) else x.logsz }
      { y with en := v.getLsbD 0 && (x.en || s.featUpperSet) }
    else if o = 0x10 then { x with tail := v.setWidth 32 }
    else x

/-- The refusal code of a record at a queue's head (R80): the lowest that applies. -/
def recordCode (s : State) (x : HostQueue) (r : Record) : Option Nat :=
  let ist := recKind r == 1
  let codes : List (Nat × Bool) :=
    [(1, !isTile (recCore r)),
     (2, decide (1 < recKind r) || recField r 20 2 / 2 ^ 14 != 0 || recFlags r / 4 != 0 || recField r 34 2 != 0 || recField r 44 20 != 0
        || decide (64 ≤ (recCap r).toNat)),
     (3, recCap r &&& ~~~x.capmax != 0),
     (4, recAsid r != x.asid),
     (5, !ist && (decide (32768 ≤ recPc r) || recPc r % 4 != 0)),
     (6, decide (65535 < recWevt r) || decide (65535 < recField r 40 4)),
     (7, ist && (recField r 0 8 % 64 != 0 || recPc r % 64 != 0 || recField r 8 2 == 0 || recField r 8 2 % 64 != 0
        || decide (32768 < recPc r + recField r 8 2))),
     (8, recWevt r == 0 && !admits s (clusterOf (recCore r)) (recAsid r))]
  (codes.find? fun c => c.2).map (·.1)

/-- Save area of a slot (R245). -/
def saveBase (s : State) (key : Nat) (n : Bool) : Nat := (if n then (s.core key).save1 else (s.core key).save0).toNat

/-- Records of a slot's inbox, with those that a RESTORE under way will place in it (R100, R246). -/
def inboxHeld (s : State) (key : Nat) (n : Bool) : Nat :=
  (s.ctx key n).inbox.length + (s.ctx key n).heldOf .q6 + (if (s.core key).spill == .restore n then s.readLE (saveBase s key n + 3896) 8 % 16 else 0)

/-- Room for one more record in an inbox: with those on their way, at most 8 (R100, R103). -/
def inboxRoom (s : State) (key : Nat) (n : Bool) : Bool :=
  let flying := s.fabric.filter fun r =>
    match r.kind with
    | .record b .. => recCore b == key && recCtx b == n && recKind b == 0
    | _ => false
  decide (inboxHeld s key n + flying.length < 8)

/-- Room in the hold store (R107). -/
def holdRoom (s : State) : Bool :=
  decide (s.held.length + (s.fabric.filter fun r => match r.kind with | .hold _ => true | _ => false).length < 16384)

/-- The source key of a host queue (R105). -/
def queueKey (q : Nat) : Nat := 0x30000 + q

/-- Send a record on its target's ordered route, or to the hold store (R105, R107). -/
def sendRecord (s : State) (key : Nat) (r : Record) : State :=
  if recWevt r = 0 then sendReq s { reqOf key false (.record r false 0 0 0) noLoc none with route := some (recCore r) }
  else sendReq s (reqOf key false (.hold r) noLoc none)

/-- The record at the head of a queue, read from host memory. -/
def headRecord (s : State) (x : HostQueue) : Record :=
  BitVec.ofNat 512 (s.hostMem.getLE (x.base.toNat + 64 * (x.head.toNat % 2 ^ (x.logsz.toNat + 4))) 64)

/-- QUEUE_RECORD_CHECK (R80): refused and skipped, sent, or left at the head for want of room. No record is taken before firmware runs (R8, R87). An
ISTLOAD fills no inbox, and the model lets it go while its target's inbox holds 8 (DESIGN CHOICE, log entry 45). -/
def checkRecord (s : State) (q : Nat) : State :=
  let x := s.queue q
  if !x.en || !s.bootReady || x.head == x.tail then s
  else
    let r := headRecord s x
    match recordCode s x r with
    | some c =>
      s.modQueue q fun x =>
        { x with head := x.head + 1, errIndex := if x.errCount = 0 then x.head else x.errIndex
                 errCode := if x.errCount = 0 then BitVec.ofNat 4 c else x.errCode
                 errCount := BitVec.ofNat 16 (min 0xFFFF (x.errCount.toNat + 1)) }
    | none =>
      let room := if recWevt r ≠ 0 then holdRoom s else recKind r == 1 || inboxRoom s (recCore r) (recCtx r)
      if room then (sendRecord s (queueKey q) r).modQueue q fun x => { x with head := x.head + 1 } else s

/-- QUEUE_RECORD_CHECK. -/
def execQueueRecordCheck (q : Fin 16) (s : State) : Host.Outcome State Fault Refusal := .next (checkRecord s q.val)

/-! ### BAR0 (R76) -/

/-- Eight bytes of a byte list from an offset on. -/
def listWord (bs : List Byte) (o : Nat) : Word := BitVec.ofNat 64 (natOfBytes ((bs.drop o).take 8))

/-- A register of BAR0 as it reads. `HLCNT` counts the records that have been released and still wait at the global core for room (DESIGN CHOICE, log
entry 47). -/
def barRead (s : State) (off : Nat) : Word :=
  if off = 0x10 then 0x7FF
  else if off = 0x20 then s.featAcc
  else if off = 0x28 then s.featUpper
  else if 0x10000 ≤ off && off < 0x20000 then queueRead (s.queue ((off - 0x10000) / 0x1000)) (off % 0x1000)
  else if off = 0x20010 then s.evsel.setWidth 64
  else if off = 0x20018 then
    let e := tget ({} : Event) s.events s.evsel.toNat
    BitVec.ofNat 64 (e.count.toNat * 2 ^ 32 + e.target.toNat)
  else if off = 0x20020 then BitVec.ofNat 64 s.held.length
  else if off = 0x20028 then s.hldrop.setWidth 64
  else if 0x21000 ≤ off && off < 0x25000 then
    let n := tget ({} : NotSlot) s.slots ((off - 0x21000) / 16)
    if off % 16 = 0 then n.addr else if off % 16 = 8 then n.cfg else 0
  else if 0x100000 ≤ off && off < 0x108000 then
    (if s.feat 4 then portRead (s.port (Fin.ofNat 8 ((off - 0x100000) / 0x1000))) (off % 0x1000) else 0)
  else if 0x200000 ≤ off && off < 0x200038 && off % 8 = 0 then (s.errCor.get (Fin.ofNat 7 ((off - 0x200000) / 8))).setWidth 64
  else if 0x200040 ≤ off && off < 0x200078 && off % 8 = 0 then (s.errUnc.get (Fin.ofNat 7 ((off - 0x200040) / 8))).setWidth 64
  else if off = 0x300000 then BitVec.ofNat 64 (s.bootReady.toNat * 8 + s.measured.toNat * 4 + s.go.toNat * 2 + s.wiped.toNat)
  else if off = 0x300008 then BitVec.ofNat 64 (s.lock.toNat * 2 ^ 63 + s.lockLimit.toNat * 2 ^ 32 + s.lockBase.toNat)
  else if off = 0x300010 then BitVec.ofNat 64 (s.alarmAct.toNat * 2 ^ 12 + s.alarm.toNat)
  else if off = 0x300020 then BitVec.ofNat 64 (s.atErr.toNat * 2 + s.atBusy.toNat)
  else if 0x301000 ≤ off && off < 0x301020 then listWord (bytes32 s.nonce) (off - 0x301000)
  else if 0x302000 ≤ off && off < 0x303000 then listWord s.report (off - 0x302000)
  else if 0x303000 ≤ off && off < 0x304000 then listWord s.cert (off - 0x303000)
  else if 0x304000 ≤ off && off < 0x305000 then listWord s.pk0 (off - 0x304000)
  else if 0x305000 ≤ off && off < 0x306000 then listWord (s.cert2.getD []) (off - 0x305000)
  else 0

/-- What a read clears (R9): the RC fields of the register. -/
def barClear (s : State) (off : Nat) : State :=
  if 0x10000 ≤ off && off < 0x20000 && off % 0x1000 = 0x20 then
    s.modQueue ((off - 0x10000) / 0x1000) fun x => { x with errIndex := 0, errCount := 0, errCode := 0 }
  else if off = 0x20028 then { s with hldrop := 0 }
  else if 0x100000 ≤ off && off < 0x108000 && s.feat 4 then s.modPort (Fin.ofNat 8 ((off - 0x100000) / 0x1000)) fun x => portClear x (off % 0x1000)
  else if 0x200000 ≤ off && off < 0x200038 && off % 8 = 0 then { s with errCor := s.errCor.set (Fin.ofNat 7 ((off - 0x200000) / 8)) 0 }
  else if 0x200040 ≤ off && off < 0x200078 && off % 8 = 0 then { s with errUnc := s.errUnc.set (Fin.ofNat 7 ((off - 0x200040) / 8)) 0 }
  else s

/-- A host read of a BAR0 register. -/
def barReadClear (s : State) (off : Nat) : State := { barClear s off with hostRead := bytesOfNat 8 (barRead s off).toNat, hostPois := false }

/-- COUNTER_READ_CLEAR: a host read; the value returned and the RC fields cleared. -/
def execCounterReadClear (off : Nat) (s : State) : Host.Outcome State Fault Refusal := .next (barReadClear s off)

/-- A word of the nonce's mailbox. -/
def writeNonce (s : State) (k : Nat) (v : Word) : State :=
  { s with nonce := BitVec.ofNat 256 (natOfBytes ((bytes32 s.nonce).take (8 * k) ++ bytesOfNat 8 v.toNat ++ (bytes32 s.nonce).drop (8 * k + 8))) }

/-- A host write of a BAR0 register. `BOOTSTAT.GO` is the row BOOT_GO, which carries what firmware sets. -/
def barWrite (s : State) (off : Nat) (v : Word) : State :=
  if off = 0x20 then writeFeatLower s v
  else if off = 0x28 then writeFeatUpper s v
  else if 0x10000 ≤ off && off < 0x20000 then queueWrite s ((off - 0x10000) / 0x1000) (off % 0x1000) v
  else if off = 0x20000 then armEvent s v
  else if off = 0x20008 then signalEvent s (bitsAt v 0 16)
  else if off = 0x20010 then { s with evsel := v.setWidth 16 }
  else if 0x21000 ≤ off && off < 0x25000 then
    let k := (off - 0x21000) / 16
    let n := tget ({} : NotSlot) s.slots k
    if off % 16 = 0 then { s with slots := tset s.slots k { n with addr := v &&& 0xFFFFFFFFFFFFFFC1 } }
    else if off % 16 = 8 then { s with slots := tset s.slots k { n with cfg := v &&& 0x0000FFFF003F07FF } }
    else s
  else if 0x100000 ≤ off && off < 0x108000 then
    (if s.feat 4 then portWrite s (Fin.ofNat 8 ((off - 0x100000) / 0x1000)) (off % 0x1000) v else s)
  else if off = 0x300008 then writeFwlock s v
  else if off = 0x300010 then writeAlarm s v
  else if off = 0x300020 then writeAtreq s v
  else if 0x301000 ≤ off && off < 0x301020 && off % 8 = 0 && s.feat 10 then writeNonce s ((off - 0x301000) / 8) v
  else s

/-- REGISTER_WRITE (R9, R10). -/
def execRegisterWrite (off : Nat) (v : Word) (s : State) : Host.Outcome State Fault Refusal := .next (barWrite s off v)

/-! ### CXL.mem (R75, R85) -/

/-- HDM is in service from the end of the wipe until acceptance declines it. -/
def hdmUp (s : State) : Bool := s.wiped && (!s.featUpperSet || s.feat 2)

/-- HOST_MEM_ACCESS: bytes of DRAM at their home L2, as an agent that is not firmware (R88). What the host reads may be poisoned (R94), and is while HDM
is declined. -/
def execHostMemAccess (wr : Bool) (addr len : Nat) (data : List Byte) (s : State) : Host.Outcome State Fault Refusal :=
  let n := if wr then data.length else len
  .next (if !decide (addr + n ≤ 2 ^ 40) then s
    else if !hdmUp s then (if wr then s else { s with hostRead := List.replicate len 0, hostPois := true })
    else if wr then writePieces s false (pairsAt addr data)
    else
      let (bs, p, t) := readHome s false ((List.range len).map (addr + ·))
      { t with hostRead := bs, hostPois := p })

end Sys2Proof.Machine
end

