-- ==== Sys2Proof/Machine/SyncIsa.lean ====
section
/-! DEFINITION. Atomics, sync words, groups, fork and join, queues and messages (R339 to R350). -/

namespace Sys2Proof.Machine

/-! ### A destination whose value comes later (R327) -/

/-- Make D ready before the wait of an instruction that writes it afterwards: the context keeps whose wait it is. -/
def holdDst (s : State) (d : Dst) : Exec State := do
  let id := s.nextId
  let (_, s) ← reserveDst s d .d64 id
  return { s.modCur fun c => { c with due := id, waitPc := c.pc, waitDst := d } with nextId := id + 1 }

/-- Write D after that wait. -/
def fillDst (s : State) (d : Dst) (v : Word) : State :=
  match d with
  | .g n => s.modCur fun c => c.writeG n v
  | .q k => let (j, i) := queueTarget s.focus k; fillPlace s j i s.cur.due v

/-! ### Atomics (R339 to R341) -/

/-- The step of AMOF: rne(old + x), with the addition's flags. -/
def amofStep (s : State) (fw : Bool) (loc : Nat) (x : BitVec 32) : AtomRes :=
  let old := s.readLE loc 4
  if s.poisonAt loc || (s.lockedLoc loc && !fw) then { st := (readHome s fw [loc]).2.2, val := 0, pois := true }
  else
    let (v, f) := fpAdd 23 .rne old x.toNat
    { st := performWrite s fw (pairsAt loc (bytesOfNat 4 v)), val := BitVec.ofNat 64 old, flags := f }

/-- The step of an atomic request at its word; none for another kind of request. -/
def atomStep (s : State) (fw : Bool) : ReqKind → Option AtomRes
  | .amo op w64 loc x => some (amoStep s fw op w64 loc x)
  | .cas w64 loc x n => some (casStep s fw w64 loc x n)
  | .amof loc x => some (amofStep s fw loc x)
  | .swarm loc t => let (s, v, p) := swarmStep s loc t; some { st := s, val := v, pois := p }
  | _ => none

/-- An atomic on resolved bytes: at issue on the own spm, else a counted request whose reply writes D (R214, R224, R327). -/
def atomOp (s : State) (d : Dst) (acc : Acc) (kind : ReqKind) : Exec State := do
  let loc := acc.locs.headD 0
  if acc.own then
    let (ws, rs) := needsOf kind
    let s ← ownBanksRw s ws rs
    match atomStep s (isFw s.focus) kind with
    | some r =>
      let u := if r.flags = 0 then r.st else r.st.modCur fun c => c.orFlags r.flags
      writeDst (poisIf u s.focus s.act r.pois) d r.val
    | none => return s
  else
    sendReady s [loc]
    let (dst, s) ← reserveDst s d .d64 s.nextId
    return sendReq s { mkReq s kind loc (some (classOf s.focus loc)) with dst, ms := acc.ms.contains (lineOf loc) }

/-- AMO (R339, R340). -/
def execAmo (c : Com) (op : AmoOp) (w64 : Bool) (d : Dst) (m : MemOp32) (x : Src) (s : State) : Host.Outcome State Fault Refusal :=
  issueFall .any c s fun s => do
    let (a, s) ← memAddr32 s m
    let (v, s) ← readSrc s x
    memReady s
    let n := if w64 then 8 else 4
    let (acc, s) ← access s m.sel rwUse a n n
    atomOp s d acc (.amo op w64 (acc.locs.headD 0) v)

/-- AMO.cas (R339, R340). -/
def execAmoCas (c : Com) (w64 : Bool) (d : Dst) (m : MemOp32) (x n : Src) (s : State) : Host.Outcome State Fault Refusal :=
  issueFall .any c s fun s => do
    let (a, s) ← memAddr32 s m
    let (v, s) ← readSrc s x
    let (u, s) ← readSrc s n
    memReady s
    let k := if w64 then 8 else 4
    let (acc, s) ← access s m.sel rwUse a k k
    atomOp s d acc (.cas w64 (acc.locs.headD 0) v u)

/-- AMOF.add (R341). -/
def execAmofAdd (c : Com) (d : Dst) (m : MemOp32) (x : Use Src) (s : State) : Host.Outcome State Fault Refusal :=
  issueFall .any c s fun s => do
    let (a, s) ← memAddr32 s m
    let (v, s) ← readSrc s x.r
    memReady s
    let (acc, s) ← access s m.sel rwUse a 4 4
    atomOp s d acc (.amof (acc.locs.headD 0) (v.setWidth 32))

/-! ### Sync words (R342, R343) -/

/-- A sync-word operand of the executing context, its pages kept in the TLB. -/
def syncAccess (s : State) (sel : Space) (u : PageUse) (a : Nat) : Exec (Acc × State) := do
  let acc ← checkedIn s sel (addrRange a 16) (syncWord s sel u a)
  return (acc, translated s sel (addrRange a 16))

/-- SWARM (R342). -/
def execSwarm (c : Com) (d : Dst) (m : MemOp32) (x : Use Src) (s : State) : Host.Outcome State Fault Refusal :=
  issueFall .any c s fun s => do
    let (a, s) ← memAddr32 s m
    let (v, s) ← readSrc s x.r
    memReady s
    let (acc, s) ← syncAccess s m.sel rwUse a
    atomOp s d acc (.swarm (acc.locs.headD 0) (v.setWidth 48))

/-- The condition of WAITW on bytes 0-7 of the word (R343). -/
def genReached (v : Word) (g : BitVec 16) : Bool := decide (((BitVec.ofNat 16 (v.toNat / 2 ^ 48)) - g).toNat < 2 ^ 15)

/-- A monitor's notifications are evaluated in order: the first that satisfies the condition removes the monitor and is recorded. -/
def evalMonitor (s : State) (key : Nat) (n : Bool) : State :=
  match (s.ctx key n).wait with
  | .waitw l o g none notes =>
    match notes.find? fun v => genReached v g with
    | some v =>
      { s.modCtx key n fun c => { c with wait := .waitw l o g (some v) [] } with
        monitors := s.monitors.filter fun m => !(m.2.1 == key && m.2.2 == n) }
    | none => s.modCtx key n fun c => { c with wait := .waitw l o g none [] }
  | _ => s

/-- WAITW (R343, R344): it arms its monitor once, and completes with the value that satisfied the condition. -/
def execWaitw (c : Com) (d : Dst) (m : MemOp32) (x : Use Src) (s : State) : Host.Outcome State Fault Refusal :=
  issueFall .any c s fun s => do
    blockFor (!s.cur.away)
    match s.cur.wait with
    | .waitw _ _ _ (some v) _ => return (fillDst s d v).modCur fun c => { c with wait := .none }
    | .none =>
      let (a, s) ← memAddr32 s m
      let (v, s) ← readSrc s x.r
      memReady s
      let (acc, s) ← syncAccess s m.sel rdUse a
      let loc := acc.locs.headD 0
      let g : BitVec 16 := v.setWidth 16
      waitFor (acc.own || !s.linesBusy s.focus s.act [lineOf loc])
      let s ← if acc.own then ownBanks s false [loc] else pure s
      let s ← holdDst s d
      let s := s.modCur fun c => { c with wait := .waitw loc (BitVec.ofNat 64 a) g none [] }
      if acc.own then
        let s := evalMonitor (armStep s s.focus s.act loc) s.focus s.act
        match s.cur.wait with
        | .waitw _ _ _ (some v) _ => return (fillDst s d v).modCur fun c => { c with wait := .none }
        | _ => .error (.block fun _ => s)
      else
        let s := sendReq s { mkReq s (.arm loc g) loc none with ms := acc.ms.contains (lineOf loc) }
        .error (.block fun _ => s)
    | _ => blocking

/-! ### Groups (R345, R346) -/

/-- The group id of an instruction: zext(A, 64) + IMM24[11:0]; above 0xFFF it raises GROUP. -/
def groupId (s : State) (a : Use Src) (id : BitVec 12) : Exec (Nat × Word × State) := do
  let (v, s) ← readSrc s a.r
  let g := v.toNat + id.toNat
  raiseIf (decide (0xFFF < g)) fGroup
  return (g, v, s)

/-- The bit of `CAP.GRP` (R78). -/
def capGrp : Nat := 2

/-- GRPNEW and JOIN: the operation is sent once, and the context goes on when its reply has returned, which writes D as it arrives. -/
def groupAsk (c : Com) (d : Dst) (pre : State → Exec (GroupOpKind × Nat × Word × State)) (s : State) : Host.Outcome State Fault Refusal :=
  issueFall .any c s fun s => do
    blockFor (!s.cur.away)
    match s.cur.ask with
    | .answered _ => return s.modCur fun c => { c with ask := .none }
    | .refused => .error (.raise fGroup fun s => s.modCur fun c => { c with ask := .none })
    | .none =>
      let (kind, g, opa, s) ← pre s
      let s ← holdDst s d
      let s := groupPost (s.modCur fun c => { c with ask := .sent }) kind g opa
      .error (.wait fun _ => s)
    | _ => waiting

/-- A posted group operation. -/
def groupSend (c : Com) (kind : GroupOpKind) (cap : Bool) (a : Use Src) (id : BitVec 12) (s : State) : Host.Outcome State Fault Refusal :=
  issueFall .any c s fun s => do
    if cap then needCap s capGrp
    let (g, v, s) ← groupId s a id
    return groupPost s kind g v

/-- GRPNEW (R345, R172). -/
def execGrpnew (c : Com) (d : Dst) (s : State) : Host.Outcome State Fault Refusal :=
  groupAsk c d (fun s => do
    needCap s capGrp
    return (.new, 0, 0, s)) s

/-- GRPINIT (R345). -/
def execGrpinit (c : Com) (a : Use Src) (id : BitVec 12) (s : State) : Host.Outcome State Fault Refusal := groupSend c .init true a id s
/-- GRPFREE (R345). -/
def execGrpfree (c : Com) (a : Use Src) (id : BitVec 12) (s : State) : Host.Outcome State Fault Refusal := groupSend c .free true a id s
/-- LEAVE (R345). -/
def execLeave (c : Com) (a : Use Src) (id : BitVec 12) (s : State) : Host.Outcome State Fault Refusal := groupSend c .leave false a id s

/-- JOIN (R345). -/
def execJoin (c : Com) (d : Dst) (a : Use Src) (id : BitVec 12) (s : State) : Host.Outcome State Fault Refusal :=
  groupAsk c d (fun s => do
    let (g, v, t) ← groupId s a id
    return (.join, g, v, t.modCur fun c => { c with popped := s.cur.popOf a.r v })) s

/-- SYNC, SSTEP and WAITG: the operation is sent once, and the context waits for its release (R174); the release acquires (R223, R346). -/
def groupWait (c : Com) (kind : GroupOpKind) (d : Dst) (a : Use Src) (id : BitVec 12) (mk : Nat → PWait) (s : State) :
    Host.Outcome State Fault Refusal :=
  issueFall .any c s fun s => do
    blockFor (!s.cur.away)
    match s.cur.wait with
    | .group g _ (some code) => return endGroupWait s s.focus s.act g code
    | .waitg g (some code) => return endGroupWait s s.focus s.act g code
    | .none =>
      let (g, v, s) ← groupId s a id
      let s ← holdDst s d
      let s := groupPost (s.modCur fun c => { c with wait := mk g }) kind g v
      .error (.block fun _ => s)
    | _ => blocking

/-- SYNC (R345, R172). -/
def execSync (c : Com) (d : Dst) (a : Use Src) (id : BitVec 12) (s : State) : Host.Outcome State Fault Refusal :=
  groupWait c .sync d a id (fun g => .group g false none) s
/-- SSTEP (R345, R139). -/
def execSstep (c : Com) (d : Dst) (a : Use Src) (id : BitVec 12) (s : State) : Host.Outcome State Fault Refusal :=
  groupWait c .sstep d a id (fun g => .group g true none) s
/-- WAITG (R346). -/
def execWaitg (c : Com) (d : Dst) (a : Use Src) (id : BitVec 12) (s : State) : Host.Outcome State Fault Refusal :=
  groupWait c .waitg d a id (fun g => .waitg g none) s

/-! ### Fork and join (R110 to R112, R347, R348) -/

/-- The clusters that a fork searches, in order (R110). -/
def forkClusters (cl : Nat) (sc : Scope) : List Nat :=
  let tower := (List.range 20).map fun i => cl / 20 * 20 + i
  match sc with
  | .cluster => [cl]
  | .tower => cl :: tower.filter (· ≠ cl)
  | .module => cl :: tower.filter (· ≠ cl) ++ (List.range 80).filter fun i => i / 20 ≠ cl / 20

/-- The contexts available to a fork, in the order of reservation (R110): idle, inbox empty, in clusters that admit the ASID. -/
def available (s : State) (key : Nat) (n : Bool) (sc : Scope) : List (Nat × Bool) :=
  (forkClusters (clusterOf key) sc).flatMap fun cl =>
    if admits s cl (s.ctx key n).asid then
      (clusterCtxs cl).filter fun x =>
        let c := s.ctx x.1 x.2
        c.st == .idle && !c.vac && c.inbox.isEmpty && !(x.1 == key && x.2 == n)
    else []

/-- The first C div and mod shares: start and end of recruit k (R111). -/
def forkRange (t q c n k : Nat) : Nat × Nat :=
  let first := k * (c / n) + min k (c % n)
  let cnt := c / n + (if k < c % n then 1 else 0)
  (first * q, min t ((first + cnt) * q))

/-- Reserve the recruits and send the cell's write and the starts that follow its acknowledgement (R111, R112). The parent's value is N. -/
def fork (s : State) (rs : List (Nat × Bool)) (t q c : Nat) (arg : Word) (cell : Nat) (loc : Nat) (entry cont : BitVec 15) (drop : BitVec 6) : State :=
  let n := rs.length
  let p := s.cur
  let cellId := s.nextId
  let bytes := bytesOfNat 4 (n + 1) ++ bytesOfNat 4 cont.toNat ++ bytesOfNat 8 0
  let s := sendReq s { mkReq s (.write (pairsAt loc bytes)) loc (some .clu) with }
  let s := (rs.zip (List.range n)).foldl (fun (s : State) x =>
    let (key, ctx) := x.1
    let (a, b) := forkRange t q c n x.2
    let regs : Vector Word 4 := #v[BitVec.ofNat 64 a, BitVec.ofNat 64 b, BitVec.ofNat 64 cell, BitVec.ofNat 64 (x.2 * 2 ^ 16 + n)]
    let kind : ReqKind := .forkStart key ctx entry arg regs p.kid p.asid (p.cap &&& ~~~(drop.setWidth 32))
    sendReq (s.modCtx key ctx fun c => { c with st := .reserved }) { mkReq s kind noLoc none with after := [cellId] }) s
  s.modCur fun c => { c with ask := .cell cellId (BitVec.ofNat 64 n) }

/-- FORKR (R347): complete when the cell's write is acknowledged, with N in D. -/
def execForkr (c : Com) (sc : Scope) (d : Dst) (a b : Use Src) (x : Src) (drop : BitVec 6) (qm1 : BitVec 16) (lim : BitVec 14)
    (entry cont : BitVec 15) (s : State) : Host.Outcome State Fault Refusal :=
  issueFall .tile c s fun s => do
    blockFor (!s.cur.away)
    match s.cur.ask with
    | .cell id n =>
      waitFor (!(s.fabric.any fun r => r.id == id))
      return (fillDst s d n).modCur fun c => { c with ask := .none }
    | .none =>
      let (t, arg, s) ← read2 s a.r b.r
      let (cell, s) ← readSrc s x
      memReady s
      let (acc, s) ← access s .cls wrUse cell.toNat 16 16
      let loc := acc.locs.headD 0
      sendReady s [loc]
      let q := qm1.toNat + 1
      let t := t.toNat % 2 ^ 32
      let chunks := (t + q - 1) / q
      let most := if lim = 0 then chunks else min chunks lim.toNat
      let s ← holdDst s d
      let s := fork s ((available s s.focus s.act sc).take most) t q chunks arg cell.toNat loc entry cont drop
      .error (.wait fun _ => s)
    | _ => waiting

/-- The decrement of a join cell (R112): whether it continues, and the continuation PC. A poisoned cell reads zero. -/
def joinStep (s : State) (loc : Nat) : State × Bool × BitVec 15 :=
  let n := s.readLE loc 4
  if n = 0 then (s, false, 0)
  else
    let s := performWrite s true (pairsAt loc (bytesOfNat 4 (n - 1)))
    (s, n == 1, BitVec.ofNat 15 (s.readLE (loc + 4) 4))

/-- JOINC (R348, R112): a release at module scope, then the decrement; the last context goes on, another ends. -/
def execJoinc (c : Com) (a : Use Src) (off : BitVec 24) (s : State) : Host.Outcome State Fault Refusal :=
  issue .tile c s fun s => do
    blockFor (!s.cur.away)
    match s.cur.ending with
    | .none =>
      let (v, s) ← readSrc s a.r
      waitFor (s.wtMet 2)
      memReady s
      let addr := addrPlus v off.toInt
      let (acc, s) ← access s .cls rwUse addr 16 16
      let loc := acc.locs.headD 0
      sendReady s [loc]
      let id := s.nextId
      let s := sendReq s (mkReq s (.join loc) loc (some (classOf s.focus loc)))
      .error (.wait fun _ => s.modCur fun c => { c with ending := .joinSent id loc, ask := .sent, waitPc := c.pc })
    | .joinSent _ loc =>
      match s.cur.ask with
      | .answered v =>
        let addr := match clsOfLoc loc with | some (_, a) => a | none => 0
        let s := s.modCur fun c => { c with ask := .none }
        if v.getLsbD 63 then
          let s := lrbClear (s.modCur fun c => { c with t := c.t.set 2 (BitVec.ofNat 64 addr), ending := .none }) s.focus
          return (s, .jump (v.setWidth 15 &&& 0x7FFC))
        else
          match endSteps (s.modCur fun c => { c with ending := .join }) true with
          | .error (.wait keep) => .error (.wait fun _ => keep (s.modCur fun c => { c with ending := .join }))
          | r => r
      | _ => waiting
    | .join | .joinLeft => endSteps s true
    | _ => waiting

/-! ### Queues and messages (R349, R350) -/

/-- Words of q_i that a pop can take now. -/
def readyWords : List QWord → Nat
  | .word _ :: l => readyWords l + 1
  | _ => 0

/-- QPOLL (R349). -/
def execQpoll (c : Com) (d : Dst) (k : Fin 8) (s : State) : Host.Outcome State Fault Refusal :=
  issueFall .any c s fun s =>
    let x := s.cur
    let n := match k.val with
      | 4 => x.q4.length
      | 5 => x.q5.length
      | 6 => 8 * x.inbox.length - x.inboxRead
      | 7 => x.q7.length
      | i => readyWords (s.me.q.get (Fin.ofNat 4 i))
    writeDst s d (BitVec.ofNat 64 n)

/-- A record that MSG refuses with ILLOP (R350). -/
def msgBad (r : Record) : Bool :=
  recKind r ≠ 0 || recField r 20 2 / 2 ^ 14 ≠ 0 || recFlags r / 4 ≠ 0 || recField r 34 2 ≠ 0 || recField r 44 20 ≠ 0
    || 32768 ≤ recPc r || recPc r % 4 ≠ 0 || 65535 < recWevt r || 65535 < recField r 40 4
    || 64 ≤ (recCap r).toNat

/-- The PRIV of a record, if it has one, in the order of R350. A CORE that names no core is no target, and takes the BOUND that follows (DEDUCED, log
entry 26). -/
def msgPriv (s : State) (r : Record) : Option FaultInfo :=
  let extra := recCap r &&& ~~~s.cur.cap
  let outside := isTile (recCore r) && clusterOf (recCore r) != s.myCluster
  match (List.range 32).find? fun i => extra.getLsbD i with
  | some i => some (fPriv i)
  | none =>
    if recAsid r ≠ s.cur.asid then some (fPriv 34)
    else if outside && !s.cur.cap.getLsbD 5 then some (fPriv 5)
    else none

/-- MSG (R350): the record enters the outbound buffer, which holds 2 (R103). -/
def execMsg (c : Com) (a : Use Src) (off : BitVec 32) (s : State) : Host.Outcome State Fault Refusal :=
  issueFall .any c s fun s => do
    waitFor (decide (s.me.outbound.length < 2))
    let (x, s) ← readSrc s a.r
    memReady s
    let (acc, s) ← access s .spm rdUse (addrPlus x off.toInt) 64 64
    let s ← ownBanks s false acc.locs
    let (bs, p, s) := readHome s (isFw s.focus) acc.locs
    let r : Record := BitVec.ofNat 512 (natOfBytes bs)
    raiseIf (msgBad r) fIllop
    raiseOpt (msgPriv s r)
    raiseIf (!isTile (recCore r)) (fBound 0 0)
    let e : Outgoing := { id := s.nextId, body := r, pc := s.cur.pc, insn := BitVec.ofNat 128 (s.insnAt s.focus s.cur.pc), opa := x, ctx := s.act }
    let s := { s with nextId := s.nextId + 1 }
    return poisIf (s.modMe fun k => { k with outbound := k.outbound ++ [e] }) s.focus s.act p

end Sys2Proof.Machine
end

