-- ==== Sys2Proof/Machine/Fabric.lean ====
section
/-! DEFINITION. The fabric: requests performed at their homes and answered (R208, R214, R327, R331), monitors (R343), memory-side units (R207),
translation (R204, R430), records on the ordered routes and the hold store (R103 to R108). -/

namespace Sys2Proof.Machine

/-! ### Requests -/

/-- A request is answered: it leaves the fabric and the count of its class (R214). -/
def dropReq (s : State) (r : Req) : State :=
  let s := { s with fabric := s.fabric.filter fun x => x.id ≠ r.id }
  match r.cls with
  | some k => s.modCtx r.key r.ctx fun c => c.subCount k
  | none => s

/-- The requests that stand before one are performed. -/
def afterDone (s : State) (r : Req) : Bool := r.after.all fun i => !(s.fabric.any fun x => x.id == i && !x.performed)

/-- The requests that stand before one are answered (R112). -/
def afterGone (s : State) (r : Req) : Bool := r.after.all fun i => !(s.fabric.any fun x => x.id == i)

/-- Nothing that its source sent earlier on its ordered route is still under way (R105, R225). -/
def routeClear (s : State) (r : Req) : Bool :=
  r.route.isNone ||
    (!(s.fabric.any fun x => x.key == r.key && x.route == r.route && decide (x.id < r.id) && !x.performed)
      && !((s.core r.key).outbound.any fun o => decide (o.id < r.id) && recWevt o.body == 0 && r.route == some (recCore o.body)))

/-- The locations that a request accesses. -/
def locsOf : ReqKind → List Nat
  | .write bs => bs.map (·.1)
  | .load ls => ls
  | .swarm l _ | .syncAdd l _ | .arm l _ => (List.range 16).map (l + ·)
  | .amo _ _ l _ | .cas _ l _ _ | .amof l _ | .fe _ l _ | .join l => [l]
  | _ => []

/-! ### Memory-side units (R206, R207) -/

/-- What a request meets at its stack's base die, where it goes to one. -/
def msGate (s : State) (r : Req) : Gate :=
  if !r.ms || decide (foreignBase ≤ r.loc) then .go else unitGate s r.id r.loc (locsOf r.kind) r.parked r.replayed

/-- Park a request. -/
def parkReq (s : State) (r : Req) (err : Bool) : State := putReq (enqueueUnit s r.id r.loc err) { r with parked := true }

/-- A request that has been applied leaves its stack's queue. -/
def unpark (s : State) (r : Req) : State := if r.parked || r.replayed then dequeueUnit s r.id r.loc else s

/-! ### Steps at the home -/

/-- The part of a write that is applied in one step with the byte at a location (R106, R209), and the rest: its aligned 8-byte piece, or its
whole block of 32 bytes of `ist`. -/
def pieceAt (bs : List (Nat × Byte)) (a : Nat) : List (Nat × Byte) × List (Nat × Byte) :=
  let n := if (routeOf a).isSome && (bs.filter fun p => p.1 / 32 = a / 32).length = 32 then 32 else 8
  bs.partition fun p => p.1 / n = a / n

/-- The piece that is applied next: the pieces of one write have no order, so a free value names it (log entry 20). -/
def nextPiece (s : State) (bs : List (Nat × Byte)) : List (Nat × Byte) × List (Nat × Byte) :=
  let first := pieceAt bs (bs.headD (0, 0)).1
  if first.2.isEmpty then first else pieceAt bs (bs.getD (Config.piece s.tick % bs.length) (0, 0)).1

/-- An atomic request applied: its old value, poison and flags stay with it until its reply. Another module's word gives a free value and is
not changed here (log entry 3). -/
def applyAtom (s : State) (r : Req) : State :=
  match atomStep s (isFw r.key) r.kind with
  | none => s
  | some a =>
    putReq (if foreignBase ≤ r.loc then s else a.st)
      { r with performed := true, parked := false, val := a.val, pois := a.pois, flags := BitVec.ofNat 64 a.flags }

/-- A full/empty form at its own word: it arrives, behind a form of the word's own core that stands next there, and takes its step once its turn has
come (R202, R331). -/
def applyFe (s : State) (r : Req) (f : FeForm) (loc : Nat) (data : Word) : State :=
  let s := match spmOfLoc loc with
    | some (owner, _) => noteArrival s owner
    | none => s
  let n := r.arr.getD s.nextId
  let s := if r.arr.isNone then { s with nextId := s.nextId + 1 } else s
  let r := { r with arr := some n }
  let s := putReq s r
  if feReady s (s.phys loc / 8) n f then
    let (s, ok) := if f == .setE then (s, true) else homeBanks s true [loc]
    if ok then
      let (s, v, p) := feStep s f loc data false
      putReq s { r with performed := true, val := v, pois := p }
    else s
  else s

/-- A request whose turn has come is applied, if the scratchpad banks that it needs are FULL (R188). -/
def applyReq (s : State) (r : Req) : State :=
  match r.kind with
  | .write bs =>
    if foreignBase ≤ (bs.headD (0, 0)).1 then putReq s { r with performed := true }
    else
      let (now, rest) := nextPiece s bs
      let (s, ok) := homeBanks s true (now.map (·.1))
      if !ok then s
      else
        let s := performWrite s (isFw r.key) now
        if rest.isEmpty then putReq (unpark s r) { r with kind := .write [], performed := true, parked := false }
        else putReq s { r with kind := .write rest }
  | .syncAdd loc n =>
    if foreignBase ≤ r.loc then putReq s { r with performed := true }
    else
      let (s, ok) := homeBanksRw s (needsOf r.kind).1 (needsOf r.kind).2
      if ok then putReq (syncAdd s loc n false) { r with performed := true } else s
  | .fe f loc data => applyFe s r f loc data
  | .join loc =>
    let pois := s.poisonAt loc
    let (s, go, pc) := joinStep s loc
    putReq s { r with performed := true, pois, val := (if go then 0x8000000000000000 else 0) ||| pc.setWidth 64 }
  | k =>
    let (s, ok) := homeBanksRw s (needsOf k).1 (needsOf k).2
    if ok then applyAtom (unpark s r) r else s

/-- The step of a request at its home, in the order of its route and behind what it follows. -/
def homeStep (s : State) (r : Req) : State :=
  if r.performed || !routeClear s r || !afterDone s r then s
  else
    match msGate s r with
    | .stay => s
    | .park err => parkReq s r err
    | .go => applyReq s r

/-- Requests that WRITE_PERFORM applies. -/
def isWriting : ReqKind → Bool
  | .write _ | .syncAdd .. | .amo .. | .cas .. | .amof .. | .swarm .. | .fe .. | .join _ => true
  | _ => false

/-- WRITE_PERFORM (R208): of a request, or of a pour's writes, by its job. -/
def execWritePerform (k : Nat) (s : State) : Host.Outcome State Fault Refusal :=
  .next (match s.req k with
    | some r => if isWriting r.kind then homeStep s r else s
    | none => writeSome s k)

/-! ### Replies -/

/-- A line that a load allocates, with the bytes at its home, those that the load read as it read them (R201) unless such lines have been dropped
meanwhile (R221), and its poisoned words: those of the locked range are poisoned to an agent that is not firmware (R88, R94). -/
def keepLine (s : State) (r : Req) : State :=
  if r.alloc then
    let base := r.loc / 64 * 64
    let bad (l : Nat) : Bool := s.poisonAt l || (!isFw r.key && s.lockedLoc l)
    let byte (l : Nat) : Byte := if bad l then 0 else (if r.fresh then none else (r.got.find? fun p => p.1 == l).map (·.2)).getD (s.byteAt l)
    let pois := (List.range 8).foldl (fun (b : BitVec 8) w => if bad (base + 8 * w) then b ||| BitVec.ofNat 8 (2 ^ w) else b) 0
    s.modCore r.key fun c => lrbAlloc c { loc := base, bytes := (List.range 64).map fun i => byte (base + i), pois, glb := r.glb }
  else s

/-- A value arrives for a register, or for the place reserved in a queue (R327); a task that has ended receives nothing. -/
def deliver (s : State) (r : Req) (v : Word) : State :=
  match r.dst with
  | .reg (.g n) _ => if r.dead then s else s.modCtx r.key r.ctx fun c => c.writeG n v
  | .slot key i _ => fillPlace s key i r.id v
  | _ => s

/-- The extension of a load's destination. -/
def dstKind : ReqDst → LdKind
  | .reg _ k | .slot _ _ k => k
  | _ => .d64

/-- Bytes read at the home arrive: at a register, a queue place or a flight. -/
def deliverBytes (s : State) (r : Req) (ls : List Nat) (bs : List Byte) (pois : Bool) : State :=
  let s := poisIf s r.key r.ctx (pois && !r.dead)
  match r.dst with
  | .flight id => arriveFlight s r.key id (ls.zip bs)
  | d => deliver s r (loadVal (dstKind d) bs)

/-- A load has all its bytes: they arrive and the request is answered; those of GET are written at its local range, piece by piece (R209, R333). -/
def finishLoad (s : State) (r : Req) (ls : List Nat) (bs : List Byte) (pois : Bool) : State :=
  match r.dst with
  | .spm base =>
    let r' : Req := { r with kind := .write (pairsAt base bs), ms := false, parked := false, replayed := false, performed := false }
    let s := applyReq (poisIf (putReq s r') r.key r.ctx (pois && !r.dead)) r'
    match s.req r.id with
    | some x => if x.performed then dropReq s x else s
    | none => s
  | _ => dropReq (deliverBytes s r ls bs pois) r

/-- A load is performed, in pieces that a free value names (R209), and its reply arrives with the last; one that a DROP has completed returns zeros with
POIS (R207). -/
def replyLoad (s : State) (r : Req) (ls : List Nat) : State :=
  if r.performed then finishLoad s r ls (List.replicate ls.length 0) true
  else
    match msGate s r with
    | .stay => s
    | .park err => parkReq s r err
    | .go =>
      let (now, rest) := pick s.tick (splitPieces ((ls.filter fun l => !(r.got.any fun p => p.1 == l)).map fun l => (l, ())))
      let locs := now.flatten.map (·.1)
      let (s, ok) := homeBanks s false locs
      if !ok then s
      else
        let (bs, p, s) := readHome s (isFw r.key) locs
        let r := { r with got := r.got ++ locs.zip bs, pois := r.pois || p }
        if rest.isEmpty then
          finishLoad (keepLine (unpark s r) r) r ls (ls.map fun l => ((r.got.find? fun p => p.1 == l).map (·.2)).getD 0) r.pois
        else putReq s r

/-- The reply of a request whose answer is fixed. -/
def replyValue (s : State) (r : Req) : State :=
  let s := if r.dead then s else s.modCtx r.key r.ctx fun c => c.orFlags r.flags.toNat
  dropReq (deliver (poisIf s r.key r.ctx (r.pois && !r.dead)) r r.val) r

/-- LOAD_REPLY (R327): a load, an atomic, LDW or LDE, a decrement of a join cell, or the arming of a monitor. -/
def replyStep (s : State) (r : Req) : State :=
  match r.kind with
  | .load ls => replyLoad s r ls
  | .arm loc _ =>
    let (s, ok) := homeBanksRw s (needsOf r.kind).1 (needsOf r.kind).2
    if !ok then s else if r.dead then dropReq s r else dropReq (armStep s r.key r.ctx loc) r
  | .join _ =>
    let s := homeStep s r
    match s.req r.id with
    | some r =>
      let awaits : Bool := match (s.ctx r.key r.ctx).ending with | .joinSent id _ => id == r.id | _ => false
      if !r.performed then s
      else if r.dead || !awaits then dropReq s r
      else dropReq ((poisIf s r.key r.ctx r.pois).modCtx r.key r.ctx fun c => { c with ask := .answered r.val }) r
    | none => s
  | .amo .. | .cas .. | .amof .. | .swarm .. | .fe .ldw .. | .fe .lde .. =>
    let s := homeStep s r
    match s.req r.id with
    | some r => if r.performed then replyValue s r else s
    | none => s
  | _ => s

/-- LOAD_REPLY: of a request, or of a pour's reads ahead of its frame, by its job. -/
def execLoadReply (k : Nat) (s : State) : Host.Outcome State Fault Refusal :=
  .next (match s.req k with
    | some r => replyStep s r
    | none => readAhead s k)

/-- Requests whose reply is an acknowledgement. -/
def isAcked : ReqKind → Bool
  | .write _ | .syncAdd .. | .fe .stw .. | .fe .stf .. | .fe .setE .. | .fe .setF .. => true
  | _ => false

/-- WRITE_ACK (R214): the count of the class falls, and a MEPI's entry learns of its row. -/
def ackStep (s : State) (r : Req) : State :=
  if !isAcked r.kind || !r.performed then s
  else
    let s := dropReq s r
    match r.dst with
    | .epi quad id =>
      match (s.quad quad).epi.find? fun e => e.id == id with
      | some e => advanceEpi (putEpi s quad { e with left := e.left - 1 }) quad
      | none => s
    | _ => s

/-- WRITE_ACK. -/
def execWriteAck (k : Nat) (s : State) : Host.Outcome State Fault Refusal :=
  .next (match s.req k with
    | some r => ackStep s r
    | none => s)

/-- MONITOR_NOTIFY (R343): the notifications that have arrived are evaluated. A word in another module is monitored there: what it holds then is
a free value. -/
def execMonitorNotify (key : Nat) (ctx : Bool) (s : State) : Host.Outcome State Fault Refusal :=
  let s := match (s.ctx key ctx).wait with
    | .waitw l o g none ns =>
      if foreignBase ≤ l && s.monitors.contains (l, key, ctx) then
        s.modCtx key ctx fun c => { c with wait := .waitw l o g none (ns ++ [BitVec.ofNat 64 (s.readLE l 8)]) }
      else s
    | _ => s
  .next (settleAway (evalMonitor s key ctx) key ctx)

/-! ### `MSQCTL` (R207) -/

/-- An access is parked and no command has released it yet. -/
def isParked (s : State) (id : Nat) : Bool :=
  match s.req id with
  | some r => r.parked && !r.replayed
  | none => (s.park id).any fun k => !k.replay && !k.drop

/-- A stack's command register as it reads. -/
def readMsqctl (s : State) (st : Nat) : Word :=
  let x := s.stack st
  BitVec.ofNat 64 ((if x.errUnits.isEmpty then 0 else 2 ^ 63) + x.err.toNat * 2 ^ 62 + (x.queue.filter (isParked s)).length * 2 ^ 55
    + x.cmd.toNat * 2 ^ 52 + (if x.cmd = 0 then 0 else 2 ^ 51) + ((x.errUnits.head?).getD 0).toNat * 2 ^ 24 + x.unit.toNat)

/-- A write of a stack's command register: a command in progress keeps the unit with which it started. -/
def writeMsqctl (s : State) (st : Nat) (v : Word) : State :=
  let x := s.stack st
  let cmd : BitVec 3 := BitVec.ofNat 3 (bitsAt v 52 3)
  let unit : BitVec 24 := BitVec.ofNat 24 (bitsAt v 0 24)
  let x := { x with unit, err := x.err && !v.getLsbD 62 }
  s.setStack st
    (if cmd = 0 then x
     else if x.cmd ≠ 0 || 3 < cmd.toNat || stackOf (unit.toNat * 2 ^ 16) ≠ st then { x with err := true }
     else { x with cmd, cmdUnit := unit })

/-- A command completes if it is the one in progress. -/
def msqDone (s : State) (st : Fin 16) (u : BitVec 24) (cmd : BitVec 3) (f : Stack → Stack) : State :=
  let x := s.stack st.val
  if x.cmd = cmd && x.cmdUnit = u then s.setStack st.val { f x with cmd := 0 } else s

/-- Change what is parked, by id: requests, and pieces of engines' accesses. -/
def modParked (s : State) (ids : List Nat) (f : Req → Req) (g : Park → Park) : State :=
  let job (j : Job) : Job := { j with parks := j.parks.map fun k => if ids.contains k.id then g k else k }
  { s with fabric := s.fabric.map fun r => if ids.contains r.id then f r else r
           clusters := s.clusters.map fun c => (c.1, { c.2 with jobs := c.2.jobs.map job }) }

/-- The unit is no longer held, by firmware or on an error. -/
def unhold (u : BitVec 24) (x : Stack) : Stack := { x with held := x.held.filter (· ≠ u), errUnits := x.errUnits.filter (· ≠ u) }

/-- MSQ_HOLD. -/
def execMsqHold (stack : Fin 16) (unit : BitVec 24) (s : State) : Host.Outcome State Fault Refusal :=
  .next (msqDone s stack unit 1 fun x => { x with held := if x.held.contains unit then x.held else x.held ++ [unit] })

/-- MSQ_RELEASE: the unit's parked accesses are replayed once each, in queue order; the command is in progress until the last has been. -/
def execMsqRelease (stack : Fin 16) (unit : BitVec 24) (s : State) : Host.Outcome State Fault Refusal :=
  let ids := parkedFor s stack.val unit
  let x := s.stack stack.val
  .next (if x.cmd = 2 && x.cmdUnit = unit then
      (modParked s ids (fun r => { r with replayed := true }) fun k => { k with replay := true }).setStack stack.val
        { unhold unit x with cmd := if ids.isEmpty then 0 else 2 }
    else s)

/-- MSQ_DROP: the unit's parked accesses complete without effect, with POIS, and each is counted (R95). -/
def execMsqDrop (stack : Fin 16) (unit : BitVec 24) (s : State) : Host.Outcome State Fault Refusal :=
  let ids := parkedFor s stack.val unit
  let x := s.stack stack.val
  .next (if x.cmd = 3 && x.cmdUnit = unit then
      let s := modParked s ids (fun r => { r with performed := true, parked := false, val := 0, pois := true }) fun k => { k with drop := true }
      msqDone (ids.foldl (fun s _ => countUnc s .dram) s) stack unit 3 fun x => { unhold unit x with queue := x.queue.filter fun i => !ids.contains i }
    else s)

/-! ### Translation (R204, R205, R430) -/

/-- TLB_WALK: a walk for the running context of a core fills its cluster's TLB; one that stops is left to the access, which raises XLATE. -/
def execTlbWalk (key : Nat) (va : Word) (s : State) : Host.Outcome State Fault Refusal :=
  .next (if isTile key || isLeaf key then tlbFills s (isFw key) (clusterOf key) (s.ctx key (s.core key).active).asid [va.toNat] else s)

/-- `TLBINV` as it reads. -/
def readTlbinv (c : Cluster) : Word := BitVec.ofNat 64 (c.invAll.toNat * 2 ^ 17 + c.invAsid.toNat * 2 + c.invGo.toNat)

/-- A write of `TLBINV`: GO starts the command, and only its end clears GO. -/
def writeTlbinv (s : State) (cl : Nat) (v : Word) : State :=
  s.modCluster cl fun c => { c with invAll := v.getLsbD 17, invAsid := BitVec.ofNat 16 (bitsAt v 1 16), invGo := c.invGo || v.getLsbD 0 }

/-- TLB_INVALIDATE: the command of a written value ends: the entries that it names are gone, and GO reads 0. -/
def execTlbInvalidate (cl : Nat) (v : Word) (s : State) : Host.Outcome State Fault Refusal :=
  .next (if v.getLsbD 0 then
      (writeTlbinv s cl v).modCluster cl fun c =>
        { c with invGo := false, tlb := c.tlb.filter fun e => !(c.invAll || e.asid == c.invAsid) }
    else writeTlbinv s cl v)

/-! ### Records (R101, R103 to R108) -/

/-- RECORD_ARRIVAL of a TASK record (R101, R104). -/
def arriveRecord (s : State) (r : Record) : State :=
  let key := recCore r
  let n := recCtx r
  let s := s.modCtx key n fun c => { c with inbox := c.inbox ++ [r] }
  offerSwap (serveInbox s key n) key

/-- A recruit starts (R111, R158, R223). -/
def startRecruit (s : State) (key : Nat) (n : Bool) (pc : BitVec 15) (arg : Word) (t : Vector Word 4) (kid : BitVec 32) (asid : BitVec 16)
    (cap : BitVec 32) : State :=
  offerSwap (startTask (lrbClear s key) key n pc arg 0 t kid asid cap { active := true, pc, arg0 := arg }) key

/-- RECORD_ARRIVAL: a TASK record that the target's cluster admits and whose inbox holds fewer than 8 (R100), or the start of a recruit whose join
cell's write is acknowledged. -/
def execRecordArrival (k : Nat) (s : State) : Host.Outcome State Fault Refusal :=
  .next (match s.req k with
    | none => s
    | some r =>
      match r.kind with
      | .record b msg .. =>
        if recKind b = 0 && routeClear s r && (!msg || admits s (clusterOf (recCore b)) (recAsid b))
            && decide (inboxHeld s (recCore b) (recCtx b) < 8) then arriveRecord (dropReq s r) b
        else s
      | .forkStart key n pc arg t kid asid cap =>
        if afterGone s r && (s.ctx key n).st == .reserved && (s.core key).spill != .spill n then
          startRecruit (dropReq s r) key n pc arg t kid asid cap else s
      | _ => s)

/-- The bytes that an ISTLOAD copies (R77): a source that is no DRAM gives free values (log entry 3). A poisoned source word is copied as zeros that are
not poisoned, and nothing reports it (DESIGN CHOICE, log entry 45). -/
def istloadBytes (s : State) (b : Record) : List (Nat × Byte) :=
  (List.range (recField b 8 2)).map fun i =>
    let a := recField b 0 8 + i
    (locIst (recCore b) (recPc b + i), if isDram a then s.byteAt a else Config.openByte s.tick a)

/-- ISTLOAD_COPY (R77, R105). -/
def execIstloadCopy (k : Nat) (s : State) : Host.Outcome State Fault Refusal :=
  .next (match s.req k with
    | none => s
    | some r =>
      match r.kind with
      | .record b .. =>
        if recKind b = 1 && routeClear s r then
          let (_, _, t) := readHome s false ((List.range (recField b 8 2)).map (recField b 0 8 + ·))
          let bs := (istloadBytes s b).map fun p => if s.lockedLoc (recField b 0 8 + (p.1 - locIst (recCore b) (recPc b))) then (p.1, 0) else p
          dropReq (writePieces t true bs) r
        else s
      | _ => s)

/-- Whether an event is SIGNALLED (R81). -/
def eventSignalled (s : State) (id : Nat) : Bool :=
  let e := tget {} s.events id
  e.target ≠ 0 && decide (e.target.toNat ≤ e.count.toNat)

/-- HOLD_STORE_INTAKE (R107). -/
def execHoldStoreIntake (k : Nat) (s : State) : Host.Outcome State Fault Refusal :=
  .next (match s.req k with
    | none => s
    | some r =>
      match r.kind with
      | .hold b =>
        let s := dropReq s r
        let h : Held := { id := s.nextId, body := b, released := if eventSignalled s (recWevt b) then some s.nextId else none }
        { s with nextId := s.nextId + 1, held := s.held ++ [h] }
      | _ => s)

/-- One released record goes before another: by its event's signal, then by its intake (R108). -/
def heldBefore (a b : Held) : Bool :=
  match a.released, b.released with
  | some x, some y => decide (x < y) || (x == y && decide (a.id < b.id))
  | _, _ => false

/-- HELD_RELEASE (R103, R108, R109): the first released record of its target core goes, when its inbox has room, or is dropped. -/
def releaseHeld (s : State) (h : Held) : State :=
  let key := recCore h.body
  let gone (s : State) : State := { s with held := s.held.filter fun x => x.id ≠ h.id }
  if h.released.isNone || s.held.any (fun x => recCore x.body == key && heldBefore x h) then s
  else if !admits s (clusterOf key) (recAsid h.body) then { gone s with hldrop := inc32 s.hldrop 1 }
  else if recKind h.body = 0 && !inboxRoom s key (recCtx h.body) then s
  else sendReq (gone s) { reqOf globalKey false (.record h.body false 0 0 0) noLoc none with route := some key }

/-- HELD_RELEASE. -/
def execHeldRelease (id : Nat) (s : State) : Host.Outcome State Fault Refusal :=
  .next (match s.held.find? fun h => h.id == id with
    | some h => releaseHeld s h
    | none => s)

/-- OUTBOUND_RECORD_SEND (R103): the older record of a core's buffer goes, once its target's inbox or the hold store has room. -/
def execOutboundRecordSend (key : Nat) (s : State) : Host.Outcome State Fault Refusal :=
  .next (match (s.core key).outbound with
    | [] => s
    | o :: rest =>
      let gone := s.modCore key fun c => { c with outbound := rest }
      let r : Req := { reqOf key o.ctx (.hold o.body) noLoc none with id := o.id, dead := o.dead, area := o.area }
      if recWevt o.body ≠ 0 then (if holdRoom s then { gone with fabric := gone.fabric ++ [r] } else s)
      else if inboxRoom s (recCore o.body) (recCtx o.body) then
        { gone with fabric := gone.fabric ++ [{ r with kind := .record o.body true o.pc o.insn o.opa, route := some (recCore o.body) }] }
      else s)

/-- A refused record's way back to its sender (R99, R350): one that runs or may run freezes at its boundary; for a frozen or a spilled one the refusal
waits; a task that has ended receives none. -/
def refuseMsg (s : State) (r : Req) (pc : BitVec 15) (insn : BitVec 128) (opa : Word) : State :=
  let x : PostRefusal :=
    { id := s.nextId, key := r.key, ctx := r.ctx, posted := true, code := 4, detail := 33, pc, insn, opa, opb := 0, area := r.area }
  let s := { dropReq s r with nextId := s.nextId + 1 }
  if r.dead then s
  else if r.area.isNone && canFreeze s r.key r.ctx then takePosted s x
  else { s with refusals := s.refusals ++ [x] }

/-- MSG_ADMISSION_REFUSED (R99, R350): the record is discarded at the target's cluster, and its sender freezes with PRIV, DETAIL 33 and POSTED. -/
def execMsgAdmissionRefused (k : Nat) (s : State) : Host.Outcome State Fault Refusal :=
  .next (match s.req k with
    | none => s
    | some r =>
      match r.kind with
      | .record b true pc insn opa =>
        if admits s (clusterOf (recCore b)) (recAsid b) || !routeClear s r then s else refuseMsg s r pc insn opa
      | _ => s)

end Sys2Proof.Machine
end

