-- ==== Sys2Proof/Machine/Power.lean ====
section
/-! DEFINITION. Stagger and ramps, pod barriers, regulator domains, frequencies, throttles and the timebase (R139 to R151). -/

namespace Sys2Proof.Machine

/-! ### Regulator domains (R145) -/

/-- The regulator that supplies a cluster: that of its reset value until a switch (R145). -/
def domOf (s : State) (cl : Nat) : Fin 4 := ((s.cluster cl).dom).getD (Fin.ofNat 4 (cl / 20))
/-- A cluster's field of `DOMMAP` (R145). -/
def domField (s : State) (cl : Nat) : Fin 4 := Fin.ofNat 4 (bitsAt ((s.dommap.toList).getD (cl / 32) 0) (2 * (cl % 32)) 2)
/-- The clusters of a domain. -/
def clustersOf (s : State) (d : Fin 4) : List Nat := (List.range 80).filter fun c => domOf s c == d
/-- The quads of a cluster. -/
def quadsOf (cl : Nat) : List Nat := (List.range 16).map fun q => quadOf (coreAt cl (4 * q))
/-- Change a regulator. -/
def State.modReg (s : State) (d : Fin 4) (f : Regulator → Regulator) : State := { s with regs := s.regs.set d (f (s.regs.get d)) }
/-- Set a bit of `THRRSN` (R149). -/
def throttled (s : State) (cl bit : Nat) : State := s.modCluster cl fun c => { c with thrrsn := c.thrrsn ||| BitVec.ofNat 5 (2 ^ bit) }

/-- Every context of a cluster idle and its queues empty (R145). -/
def clusterIdle (s : State) (cl : Nat) : Bool :=
  (List.range 64).all fun i =>
    let c := s.core (coreAt cl i)
    c.c0.st == .idle && c.c1.st == .idle && c.c0.inbox.isEmpty && c.c1.inbox.isEmpty && c.vq.isEmpty && c.fly.isEmpty && c.outbound.isEmpty
      && c.q.toList.all (·.isEmpty)

/-- A new field of `DOMMAP` applies to a cluster now. -/
def switchDue (s : State) (cl : Nat) : Bool :=
  decide (cl < 80) && domField s cl != domOf s cl && (s.cluster cl).switchUntil.isNone && clusterIdle s cl

/-- The switch of a cluster ends when its time has come. -/
def switchEnds (s : State) (cl : Nat) : State :=
  match (s.cluster cl).switchUntil with
  | some t => if t ≤ s.tb then s.modCluster cl fun c => { c with switchUntil := none } else s
  | none => s

/-- DOMAIN_SWITCH: the cluster's clock stops for 10 µs. -/
def execDomainSwitch (cl : Nat) (s : State) : Host.Outcome State Fault Refusal :=
  .next (if switchDue s cl then s.modCluster cl fun c => { c with dom := some (domField s cl), switchUntil := some (s.tb + 10000) } else s)

/-- DOMAIN_SWITCH_END. -/
def execDomainSwitchEnd (cl : Nat) (s : State) : Host.Outcome State Fault Refusal := .next (switchEnds s cl)

/-! ### Frequency (R147, R148) -/

/-- V(f) in mV for a frequency code. -/
def voltageFor (code : Nat) : Nat := max 500 (100 + (100 * code + 2) / 3)

/-- Why firmware lowers a frequency: the power cap (CAP), its wear model (RELIAB), which holds at most 1,500 MHz, or neither: the hardware is not told,
and a free value says it (R149, log entry 29). -/
def lowerReasons (s : State) (code : Nat) : List Nat :=
  List.append (if (Config.lowered s.tick).testBit 0 then [3] else []) (if (Config.lowered s.tick).testBit 1 && decide (code ≤ 15) then [4] else [])

/-- A request of `DVREQ`; a reserved code changes nothing (R10). A lower one may be a throttle of firmware's (R149). -/
def requestFreq (s : State) (d : Fin 4) (v : Word) : State :=
  let c := bitsAt v 0 5
  if 5 ≤ c && c ≤ 18 then
    let s := if c < (s.regs.get d).fcode.toNat then
        (clustersOf s d).foldl (fun s cl => (lowerReasons s c).foldl (fun s b => throttled s cl b) s) s
      else s
    s.modReg d fun r =>
      let n := BitVec.ofNat 5 c
      let vt := voltageFor c
      { r with fcode := n, fnew := n, vt, f := if c < r.f.toNat || vt * 100 ≤ r.v then n else r.f }
  else s

/-- A frequency that waits for its voltage applies when the voltage supports it (R147). -/
def Regulator.settle (r : Regulator) : Regulator := if r.vt * 100 ≤ r.v then { r with f := r.fnew } else r

/-- A regulator while d ns of timebase time pass (R7): its voltage moves by 10 mV a µs, and a frequency that waits for it applies (R147); a slew hold lasts
until the next sample, every 16 ns (R146). -/
def passReg (d : Nat) (sample : Bool) (r : Regulator) : Regulator :=
  let t := r.vt * 100
  { r with v := if r.v < t then min t (r.v + d) else max t (r.v - d), slewHold := r.slewHold && !sample }.settle

/-- The regulators while the timebase moves on from tb to tb'. -/
def passRegs (tb tb' : Nat) (rs : Vector Regulator 4) : Vector Regulator 4 := rs.map (passReg (tb' - tb) (tb / 16 != tb' / 16))

/-- FREQUENCY_REQUEST. -/
def execFrequencyRequest (dom : Fin 4) (v : Word) (s : State) : Host.Outcome State Fault Refusal := .next (requestFreq s dom v)

/-- VOLTAGE_TARGET_REACHED: the higher frequency requested last applies. -/
def execVoltageTargetReached (dom : Fin 4) (s : State) : Host.Outcome State Fault Refusal :=
  .next (s.modReg dom Regulator.settle)

/-! ### Ramps and throttles (R141, R146, R149) -/

/-- The issue level in force in a quad: held at 12 while a current throttle acts (R141, R149). -/
def levelOf (s : State) (quad : Nat) : Nat :=
  if (s.regs.get (domOf s (clusterOf (quad * 4)))).current then min 12 (s.quad quad).level else (s.quad quad).level

/-- A cycle at this level is withheld (R141). -/
def withheld (s : State) (quad : Nat) : Bool := decide (levelOf s quad < 16) && decide (levelOf s quad ≤ (s.quad quad).rampPhase % 16)

/-- A level that may rise: no slew hold, and no current throttle at 12 (R146, R149). -/
def rampHeld (r : Regulator) (level : Nat) : Bool := r.slewHold || (r.current && decide (12 ≤ level))

/-- After its step length without a hold, the level rises by 1. -/
def Quad.rise (q : Quad) (r : Regulator) : Quad :=
  if decide (q.level < 16) && q.rampLeft == 0 && !rampHeld r q.level then { q with level := q.level + 1, rampLeft := 16 * q.rampStep } else q

/-- One cycle of a quad's ramp (R141): the phase counter runs on in a hold, the step does not. -/
def Quad.cycle (q : Quad) (r : Regulator) : Quad :=
  let q := q.rise r
  let q := { q with rampPhase := q.rampPhase + 1, rampLeft := if rampHeld r q.level then q.rampLeft else q.rampLeft - 1 }
  q.rise r

/-- RAMP_STEP. -/
def execRampStep (quad : Nat) (s : State) : Host.Outcome State Fault Refusal :=
  .next (s.modQuad quad fun q => q.rise (s.regs.get (domOf s (clusterOf (quad * 4)))))

/-- SLEW_EXCEED: a sample above `SLEWLIM`. No level of the domain rises until the next sample; with every quad at level 16 they drop to 8 first. -/
def execSlewExceed (dom : Fin 4) (s : State) : Host.Outcome State Fault Refusal :=
  let cls := clustersOf s dom
  .next (if (s.regs.get dom).lim = 0 || !s.feat 7 then s
    else
      let all16 := cls.all fun c => (quadsOf c).all fun q => (s.quad q).level == 16
      let s := cls.foldl (fun s c => throttled s c 2) (s.modReg dom fun r => { r with slewHold := true })
      if all16 then
        cls.foldl (fun s c => (quadsOf c).foldl (fun s q =>
          let step := max 1 (s.rstepOf (towerOfCluster c)).toNat
          s.modQuad q fun x => { x with level := 8, rampStep := step, rampPhase := 0, rampLeft := 16 * step }) s) s
      else s)

/-- THERMAL_THROTTLE: the cluster's clock runs at half rate (R23, R149). -/
def execThermalThrottle (cl : Nat) (s : State) : Host.Outcome State Fault Refusal :=
  .next (if cl < 80 then throttled (s.modCluster cl fun c => { c with thermal := true }) cl 0 else s)
/-- THERMAL_THROTTLE_END. -/
def execThermalThrottleEnd (cl : Nat) (s : State) : Host.Outcome State Fault Refusal :=
  .next (s.modCluster cl fun c => { c with thermal := false })
/-- CURRENT_THROTTLE: a current above its limit. -/
def execCurrentThrottle (dom : Fin 4) (s : State) : Host.Outcome State Fault Refusal :=
  .next ((clustersOf s dom).foldl (fun s c => throttled s c 1) (s.modReg dom fun r => { r with current := true, currentAt := s.tb }))
/-- CURRENT_THROTTLE_END: the currents have been below their limits for 1 µs. -/
def execCurrentThrottleEnd (dom : Fin 4) (s : State) : Host.Outcome State Fault Refusal :=
  .next (s.modReg dom fun r => if r.currentAt + 1000 ≤ s.tb then { r with current := false } else r)

/-! ### Group steps (R139, R143, R172 to R174) -/

/-- GROUP_OP_APPLY: the oldest of a context's operations at one controller (R173). -/
def execGroupOpApply (k : Nat) (s : State) : Host.Outcome State Fault Refusal :=
  .next (match s.groupOps.find? fun o => o.id == k with
    | some o => if opFirst s o then groupApply s o else s
    | none => s)

/-- GROUP_RELEASE: of a wait that is not timed. -/
def execGroupRelease (k : Nat) (s : State) : Host.Outcome State Fault Refusal :=
  .next (match s.releases.find? fun r => r.id == k && !r.sstep with
    | some r => giveRelease s r
    | none => s)

/-- A member released: the others of its column follow within 8 ns (R139), and a ramp starts in its quad (R141). -/
def releaseMember (s : State) (r : Release) : State :=
  let near (x : Release) : Release :=
    if x.batch = r.batch && x.sstep && x.col = r.col && x.by_.isNone then { x with by_ := some (s.tb + 8) } else x
  let s := giveRelease s r
  startRamp { s with releases := s.releases.map near } r.key r.rstep

/-- The clock of a member's cluster stands still while it changes its regulator: its release waits for the end (R145). -/
def memberHeld (s : State) (r : Release) : Bool := (s.cluster (clusterOf r.key)).switchUntil.isSome

/-- The last moment of a release: 8 ns after its time, or after the first release in its column (R139). -/
def Release.last (r : Release) : Nat := match r.by_ with | some b => min b (r.at_ + 8) | none => r.at_ + 8

/-- SSTEP_RELEASE: from 8 ns before its time (R139), once a switch of the cluster's regulator has ended (R145). -/
def execSstepRelease (k : Nat) (s : State) : Host.Outcome State Fault Refusal :=
  .next (match s.releases.find? fun r => r.id == k && r.sstep with
    | some r => if r.at_ ≤ s.tb + 8 && !memberHeld s r then releaseMember s r else s
    | none => s)

/-- The releases whose last moment has come are given (R139). -/
def releaseOverdue (s : State) : State :=
  (s.releases.filter fun r => r.sstep && decide (r.last ≤ s.tb)).foldl (fun s r => if memberHeld s r then s else releaseMember s r) s

/-- GROUP_REFUSAL_RETURN: a posted operation's refusal waits for a context that can freeze; one of a spilled context waits for its return. -/
def execGroupRefusalReturn (k : Nat) (s : State) : Host.Outcome State Fault Refusal :=
  .next (match s.refusals.find? fun r => r.id == k with
    | some r => if r.area.isSome || (r.posted && !canFreeze s r.key r.ctx) then s else giveRefusal s r
    | none => s)

/-- The module has arrived at the pod barrier: its group has completed, and the members of an earlier one have been released (R143). -/
def podHere (s : State) : Bool := (s.group s.podg.toNat).podArrived && !s.releases.any (·.pod)

/-- What port 0 lights in a census slot (R143): ct and its own λs, if the module has arrived. The slot belongs to no round: that the master lights ck in
it, as in any slot of its pattern, and that one writer is expected there, is the model's choice (R28; DESIGN CHOICE, log entry 42). -/
def censusLight (s : State) (x : Port) (lam : Nat) : Nat :=
  if lam = 66 then (x.ckmst && x.en).toNat
  else (podHere s && x.writable && x.litAt lam && (lam == 67 || lam == x.spos.toNat)).toNat

/-- What a census slot expects: a wired OR on ct, at most one writer on λ0 to λ31, the master on ck, and none elsewhere (R143). -/
def censusExpect (lam : Nat) : Nat := if lam = 67 then 32 else if lam = 66 || lam < 32 then 1 else 0

/-- The pod barrier completes at this module (R143). -/
def podComplete (s : State) : State :=
  let g := s.podg.toNat
  let s := releaseAll s g 0 (some (s.tb + 200 + s.podstag.toNat)) true
  s.setGroup g { s.group g with a := 0, kind := .none, podArrived := false }

/-- POD_BARRIER_CENSUS (R143): slot 0 of a barrier cycle on port 0. row: the light of the other modules on the 68 wavelengths. -/
def execPodBarrierCensus (row : List Int) (s : State) : Host.Outcome State Fault Refusal :=
  let x := (s.port 0).settleIdle
  .next (if !x.inCycle || !barrierCycle s 0 || x.idle % 32 ≠ 0 || 32 ≤ x.seen.length then s
    else
      let cs := x.readSlot row (censusLight s x)
      let e := slotErrs cs censusExpect
      let bars := cs.take 32
      let count := (bars.filter (· == some 1)).length
      let clean := bars.all fun r => match r with | some n => decide (n ≤ 1) | none => false
      let x := x.countErrs (e.1, e.2 + if s.podMemb.toNat < count then 1 else 0)
      let s := s.setPort 0 { x with idle := x.idle + 1, seen := [] }
      if clean && count = s.podMemb.toNat && podHere s then podComplete s else s)

/-! ### The timebase (R150, R151) -/

/-- A copy after a load of this value: one ahead of it replaces it, and one behind makes it hold, as it advances no further than the count. -/
def loadCopy (tb copy : Nat) : Nat := max copy tb

/-- TIMEBASE_LOAD. -/
def execTimebaseLoad (cl : Nat) (s : State) : Host.Outcome State Fault Refusal :=
  .next (if cl < 80 then
    let i := Fin.ofNat 80 cl
    { s with tbCopies := s.tbCopies.set i (loadCopy s.tb (s.tbCopies.get i)) }
  else s)

/-- TIMEBASE_STEER: offs is how far the module is ahead of the segment-0 clock master, which steers no one. A step forward is loaded into every copy
at once, and every time that stands in ns passes with it (R7, R150, R151). -/
def execTimebaseSteer (offs : Int) (s : State) : Host.Outcome State Fault Refusal :=
  let x := s.port 0
  .next (if !x.en || x.ckmst || x.ckLost then s
    else
      let s := { s with tbOffs := BitVec.ofInt 32 offs, tbLock := decide (offs.natAbs ≤ 5), tbSlow := if 0 < offs then 2 * offs.natAbs else 0 }
      if offs < 0 then
        let tb := s.tb + offs.natAbs
        passPorts { s with tb, tbCopies := s.tbCopies.map (loadCopy tb), regs := passRegs s.tb tb s.regs } offs.natAbs
      else s)

end Sys2Proof.Machine
end

