-- ==== Sys2Proof/Machine/Sched.lean ====
section
/-! DEFINITION. The quad arbiter (R115 to R118), the epilogue buffer's ends (R185, R235), the torus (R393), automatic swaps (R163), the engine shares
(R413), the command links (R97) and fault packets (R234). -/

namespace Sys2Proof.Machine

/-! ### Candidates -/

/-- The cores of a quad. -/
def quadCores (quad : Nat) : List Nat := (List.range 4).map (quad * 4 + ·)

/-- What goes on ahead of a decision: the reads of the first 8 entries, tile reads of MMA.RA, and the wakes of a head's scratchpad banks (R186, R188,
R392). -/
def prelude (s : State) (quad : Nat) : State :=
  (quadCores quad).foldl (fun s key =>
    let s := startTiles (lookahead s key) key 16
    match (s.core key).vq with
    | e :: _ => if accessesMemory e.op.instr && !e.dead then wakeSpm s key e.op else s
    | [] => s) s

/-- The head of a core's queue that is a candidate: a vector head for a lane group, a matrix head for the MXU (R115). An entry whose task was
killed completes whatever its operands (R242). -/
def candidate (s : State) (key : Nat) (matrix : Bool) : Option VEntry :=
  match (s.core key).vq with
  | e :: _ => if isMatrix e.op.instr == matrix && (e.dead || headReady s key e) then some e else none
  | [] => none

/-- Weight of a position. -/
def weightOf (q : Quad) (i : Nat) : Nat := bitsAt (q.quadw.setWidth 64) (4 * i) 4

/-- A cycle withheld by issue-rate shaping is counted at the quad's cores (R141, R433). -/
def countWithheld (s : State) (quad : Nat) : State := (quadCores quad).foldl (fun s key => countPmc s key none 13 1) s

/-- Credits of four positions as a vector. -/
def crVec (f : Nat → Int) : Vector Int 4 := #v[f 0, f 1, f 2, f 3]

/-- A vector instruction whose last quarter has been granted; of one whose task was killed, only a store's data go out (R242). -/
def endVector (s : State) (key : Nat) (e : VEntry) : State :=
  if e.dead then (match e.op.instr with | .vst .. | .vstl .. | .vscat .. => grantVstore s key e.op | _ => s) else runVector s key e.op

/-- LANE_GROUP_GRANT (R117): one quarter of the winner's head. -/
def grantLane (s : State) (quad : Nat) : State :=
  let s := prelude s quad
  if withheld s quad then s
  else
    let q := s.quad quad
    let cs := (List.range 4).filter fun i => (candidate s (quad * 4 + i) false).isSome
    let cost (i : Nat) : Nat := match candidate s (quad * 4 + i) false with | some e => quarterCost e.op.instr | none => 1
    match decideCr 4 (weightOf q) (fun i => q.laneCr.get (Fin.ofNat 4 i)) q.laneLast.val cs cost with
    | none => s
    | some (i, cr, last) =>
      let key := quad * 4 + i
      match candidate s key false with
      | none => s
      | some e =>
        let s := s.setQuad quad { q with laneCr := crVec cr, laneLast := Fin.ofNat 4 last }
        let s := countPmc s key none 3 (quarterCost e.op.instr)
        if e.quarters + 1 < 4 then
          s.modCore key fun c => { c with vq := { e with quarters := e.quarters + 1 } :: c.vq.drop 1 }
        else endVector (s.modCore key fun c => { c with vq := c.vq.drop 1 }) key e

/-- LANE_GROUP_GRANT. -/
def execLaneGroupGrant (quad : Nat) (s : State) : Host.Outcome State Fault Refusal := .next (grantLane s quad)

/-- A MEPI that finds the epilogue buffer full (R235). -/
def epiFull (s : State) (quad : Nat) (e : VEntry) : Bool := isMepi e.op && decide (4 ≤ (s.quad quad).epi.length)

/-- The head of a quad on which the MXU's decision has fallen and which it has not done with: it reads its B tile, or waits for an entry of the epilogue
buffer (R387, R403). -/
def mxuHead (s : State) (quad : Nat) : Option (Nat × VEntry) :=
  (quadCores quad).findSome? fun key =>
    match (s.core key).vq with
    | e :: _ => if isMatrix e.op.instr && (e.won || e.quarters != 0) then some (key, e) else none
    | [] => none

/-- Replace the head of a core's queue. -/
def setHead (s : State) (key : Nat) (e : VEntry) : State := s.modCore key fun c => { c with vq := e :: c.vq.drop 1 }

/-- A matrix instruction leaves the head with its effect. -/
def takeMatrix (s : State) (key : Nat) (e : VEntry) : State :=
  advanceEpi (runMatrix (s.modCore key fun c => { c with vq := c.vq.drop 1 }) key e) (quadOf key)

/-- The MXU goes on with its head: a MEPI waits for a free entry, and so does the quad's next MXU instruction (R403); a product reads pieces of its B
tile until it has all of them (R388); others have their effect. -/
def stepMatrix (s : State) (quad key : Nat) (e : VEntry) : State :=
  if epiFull s quad e then setHead s key { e with won := true }
  else if bLen e.op = 0 then takeMatrix s key e
  else
    let (s, e) := if e.quarters = 0 then beginMatrix s key e else (s, e)
    let e := readB s key e
    if e.btodo.isEmpty then takeMatrix s key e else setHead s key e

/-- MXU_GRANT (R117): the MXU goes on with the head that it has begun, or takes the winner's head, at the cost of its occupancy (R387). -/
def grantMxu (s : State) (quad : Nat) : State :=
  let s := advanceEpi (prelude s quad) quad
  match mxuHead s quad with
  | some (key, e) => stepMatrix s quad key e
  | none =>
    if withheld s quad then s
    else
      let q := s.quad quad
      let cs := (List.range 4).filter fun i => (candidate s (quad * 4 + i) true).isSome
      let cost (i : Nat) : Nat := match candidate s (quad * 4 + i) true with | some e => mxuCost e.op | none => 1
      match decideCr 4 (weightOf q) (fun i => q.mxuCr.get (Fin.ofNat 4 i)) q.mxuLast.val cs cost with
      | none => s
      | some (i, cr, last) =>
        let key := quad * 4 + i
        match candidate s key true with
        | none => s
        | some e => stepMatrix (countPmc (s.setQuad quad { q with mxuCr := crVec cr, mxuLast := Fin.ofNat 4 last }) key none 4 1) quad key e

/-- MXU_GRANT. -/
def execMxuGrant (quad : Nat) (s : State) : Host.Outcome State Fault Refusal := .next (grantMxu s quad)

/-- A write of `QUADW` (R116): the weights change and every credit is 0. -/
def writeQuadw (s : State) (quad : Nat) (v : Word) : State :=
  s.modQuad quad fun q => { q with quadw := v.setWidth 20, laneCr := Vector.replicate 4 0, mxuCr := Vector.replicate 4 0 }

/-- QUADW_WRITE. -/
def execQuadwWrite (quad : Nat) (v : Word) (s : State) : Host.Outcome State Fault Refusal := .next (writeQuadw s quad v)

/-- A write of `ENGSHR` (R413): the weights change and the credits at the tower's homes are 0. -/
def writeEngshr (s : State) (tower : Nat) (v : Word) : State :=
  s.setTower tower { s.tower tower with portw := BitVec.ofNat 4 (bitsAt v 4 4), ladw := BitVec.ofNat 4 (bitsAt v 0 4), engCr := Vector.replicate 4 0 }

/-- ENGSHR_WRITE. -/
def execEngshrWrite (tower : Fin 4) (v : Word) (s : State) : Host.Outcome State Fault Refusal := .next (writeEngshr s tower.val v)

/-! ### The epilogue buffer -/

/-- An entry of a quad's epilogue buffer. -/
def State.epiEntry (s : State) (quad k : Nat) : Option Epi := (s.quad quad).epi.find? fun e => e.id == k

/-- Granules of a mask. -/
def maskGranules (m : BitVec 1024) : List Nat := (List.range 1024).filter fun g => m.getLsbD g

/-- KILLPEND_APPLY (R185): every store of an entry is acknowledged: its granules die and it is freed. -/
def execKillpendApply (quad k : Nat) (s : State) : Host.Outcome State Fault Refusal :=
  .next (match s.epiEntry quad k with
    | none => s
    | some e =>
      if e.done then
        (killGranules s (quadCore quad e.pos) e.op.ctx (maskGranules e.kill)).modQuad quad fun q => { q with epi := q.epi.filter fun x => x.id ≠ k }
      else s)

/-- The value of a MEPI's base register; a queue operand's field reads zero (R233). -/
def mepiBase (o : VOp) : Word :=
  match o.instr with
  | .mepi96 _ _ _ b _ off _ _ => (match b.r with | .g _ | .t _ => o.sa - off.signExtend 64 | _ => 0)
  | .mepi128 _ _ _ b _ _ _ _ _ => (match b.r with | .g _ | .t _ => o.sa | _ => 0)
  | _ => o.sa

/-- The packet of an epilogue store that faults (R233, R235). -/
def epiPacket (s : State) (key : Nat) (e : Epi) (f : FaultInfo) : Packet :=
  let n := e.op.ctx
  packetOf f (2 + (if n != (s.core key).active then 4 else 0)) (packetCore key n) e.op.pc.toNat (s.insnAt key e.op.pc) (s.ctx key n).pc.toNat
    (mepiBase e.op) 0 (s.tbOf (clusterOf key))

/-- A store parks and its context freezes. One that is FROZEN already stays frozen for its first reason; the packet goes out all the same (DESIGN
CHOICE, log entry 46). -/
def parkEpi (s : State) (quad : Nat) (e : Epi) (f : FaultInfo) : State :=
  let key := quadCore quad e.pos
  let n := e.op.ctx
  let pkt := epiPacket s key e f
  let s := (putEpi s quad { e with parked := true }).modCtx key n fun c => { c with epip := true }
  if canFreeze s key n then freezeWith s key n f.code pkt
  else countPmc ((s.modCtx key n fun c => { c with packet := pkt }).modCore key fun c => { c with pktOut := c.pktOut ++ [pkt] }) key (some n) 8 1

/-- The alarm of a walk that a row's store makes in the locked range (R88). -/
def epiAlarm (s : State) (quad : Nat) (e : Epi) (r : EpiRow) : State :=
  let key := quadCore quad e.pos
  if epiSpace e.op == .glb then lockAlarm s (isFw key) (clusterOf key) (epiAsid s quad e) (addrRange r.addr r.bytes.length) else s

/-- EPI_STORE_FAULT (R235): the row that faults and those after it park, and the context freezes at its boundary with EPI. A row of a killed task is
dropped (R242). -/
def execEpiStoreFault (quad k : Nat) (s : State) : Host.Outcome State Fault Refusal :=
  .next (match s.epiEntry quad k with
    | none => s
    | some e =>
      match e.rows with
      | [] => s
      | r :: rest =>
        if e.parked || rowsBefore s quad e then s
        else
          match epiResolve s quad e r with
          | .ok _ => s
          | .error f =>
            let s := epiAlarm s quad e r
            if e.dead then advanceEpi (putEpi s quad { e with rows := rest }) quad else parkEpi s quad e f)

/-- MMAR_TILE_RECEIVE (R393). -/
def execMmarTileReceive (key : Nat) (ctx : Bool) (s : State) : Host.Outcome State Fault Refusal := .next (receiveTiles s key ctx)

/-! ### Swaps (R163) -/

/-- A pending wait that has not been released. -/
def waitOpen : PWait → Bool
  | .group _ _ none | .waitg _ none | .waitw _ _ _ none _ => true
  | _ => false

/-- The length of a block after which `AUTOSW` swaps (R164). -/
def blockLimit (c : Core) : Nat := max 32 c.swth.toNat

/-- Whether `AUTOSW` swaps now: blocked holds one more than the cycles of the block. -/
def autoDue (s : State) (key : Nat) : Bool :=
  let c := s.core key
  c.autosw && !c.swapping && decide (blockLimit c < (c.ctx c.active).blocked) && shadowReady s key && !waitOpen (c.ctx (!c.active)).wait

/-- AUTO_SWAP. -/
def execAutoSwap (key : Nat) (s : State) : Host.Outcome State Fault Refusal := .next (if autoDue s key then beginSwap s key else s)

/-- A context that a spill or a restore is working on (R239). -/
def spillOn (c : Core) (n : Bool) : Bool := c.spill == .spill n || c.spill == .restore n

/-- CONTEXT_SWAP (R163, R243): the swap under way ends, towards a vacant slot too; a slot on which a SPILL or a RESTORE works keeps it waiting (DEDUCED, log
entry 22). -/
def execContextSwap (key : Nat) (s : State) : Host.Outcome State Fault Refusal :=
  let c := s.core key
  .next (if c.swapping && !spillOn c (!c.active) then swapDone s key else s)

/-! ### Command links and fault packets -/

/-- A command link. -/
def State.link (s : State) (i : Nat) : CmdLink := tget {} s.links i
/-- Replace a command link. -/
def State.setLink (s : State) (i : Nat) (x : CmdLink) : State := { s with links := tset s.links i x }

/-- A count of 16 bits that stops at its top (R98). -/
def inc16 (c : BitVec 16) : BitVec 16 := BitVec.ofNat 16 (min (c.toNat + 1) 0xFFFF)

/-- The messages held for permits go, oldest first. -/
def CmdLink.sendHeld (x : CmdLink) : CmdLink :=
  let d := min x.downPermits x.downHeld.length
  let u := min x.upPermits x.upHeld.length
  { x with downPermits := x.downPermits - d, downBuf := x.downBuf ++ x.downHeld.take d, downHeld := x.downHeld.drop d
           upPermits := x.upPermits - u, upBuf := x.upBuf ++ x.upHeld.take u, upHeld := x.upHeld.drop u }

/-- COMMAND_LINK_MESSAGE (R97): a message spends a permit; one that finds none, or others waiting, is held by its sender, and counted once. -/
def execCommandLinkMessage (link : Nat) (toLeaf : Bool) (m : Packet) (s : State) : Host.Outcome State Fault Refusal :=
  let x := s.link link
  .next (s.setLink link
    (if toLeaf then
      (if x.downPermits = 0 || !x.downHeld.isEmpty then { x with downStalls := inc16 x.downStalls, downHeld := x.downHeld ++ [m] }
        else { x with downPermits := x.downPermits - 1, downBuf := x.downBuf ++ [m] })
    else if x.upPermits = 0 || !x.upHeld.isEmpty then { x with upStalls := inc16 x.upStalls, upHeld := x.upHeld ++ [m] }
    else { x with upPermits := x.upPermits - 1, upBuf := x.upBuf ++ [m] }))

/-- PERMIT_RETURN (R97): the receiver has taken n messages, and their permits return. -/
def execPermitReturn (link : Nat) (toLeaf : Bool) (n : Nat) (s : State) : Host.Outcome State Fault Refusal :=
  let x := s.link link
  .next (s.setLink link
    (if toLeaf then
      (let k := min n x.downBuf.length
       { x with downPermits := x.downPermits + k, downBuf := x.downBuf.drop k })
    else
      (let k := min n x.upBuf.length
       { x with upPermits := x.upPermits + k, upBuf := x.upBuf.drop k })).sendHeld)

/-- FAULT_PACKET_ARRIVE (R234): the oldest packet of a core reaches its leaf's queue of 64. -/
def execFaultPacketArrive (key : Nat) (s : State) : Host.Outcome State Fault Refusal :=
  let cl := clusterOf key
  .next (match (s.core key).pktOut with
    | [] => s
    | p :: rest =>
      if (s.cluster cl).faults.length < 64 then
        (s.modCore key fun c => { c with pktOut := rest }).modCluster cl fun c => { c with faults := c.faults ++ [p] }
      else s)

end Sys2Proof.Machine
end

