-- ==== Sys2Proof/Machine/SystemIsa.lean ====
section
/-! DEFINITION. System registers (R429, R430), the timebase and the performance counters (R431 to R433), SWAP and HALT (R434, R435). -/

namespace Sys2Proof.Machine

/-! ### The table of R429 -/

/-- Numbers that name a register. -/
def sysKnown (n : Nat) : Bool :=
  decide (n ≤ 2) || (decide (0x10 ≤ n) && decide (n ≤ 0x12)) || (decide (0x20 ≤ n) && decide (n ≤ 0x2F))
    || (decide (0x100 ≤ n) && decide (n ≤ 0x107)) || [0x210, 0x214, 0x218, 0x220, 0x224, 0x228, 0x22C, 0x310, 0x311, 0x320].contains n
    || (decide (0x230 ≤ n) && decide (n ≤ 0x233)) || (decide (0x238 ≤ n) && decide (n ≤ 0x23A)) || (decide (0x240 ≤ n) && decide (n ≤ 0x247))
    || (decide (0x300 ≤ n) && decide (n ≤ 0x309)) || (decide (0x330 ≤ n) && decide (n ≤ 0x33F))

/-- Numbers that only firmware reaches. -/
def sysFirmware (n : Nat) : Bool := sysKnown n && (n == 0x224 || (decide (0x230 ≤ n)))

/-- Numbers that only the global scheduler core reaches. -/
def sysGlobal (n : Nat) : Bool := n == 0x224 || n == 0x310 || n == 0x320

/-- Numbers whose SWR raises PRIV: every field is RO, or only the leaf writes it (R164, R429). -/
def sysReadOnly (n : Nat) : Bool :=
  n == 1 || n == 2 || n == 0x10 || n == 0x12 || n == 0x22C || (decide (0x244 ≤ n) && decide (n ≤ 0x247))

/-- The capability that an SWR needs. -/
def sysCap (n : Nat) : Option Nat :=
  if n = 0x11 || n = 0x220 || n = 0x228 then some 3
  else if 0x100 ≤ n && n ≤ 0x107 then some 4
  else if n = 0x218 then some 1
  else none

/-- The checks of an access. -/
def sysCheck (s : State) (n : Nat) (write : Bool) : Exec Unit := do
  raiseIf (!sysKnown n) fIllop
  raiseIf (sysFirmware n && isTile s.focus) (fPriv 32)
  raiseIf (sysGlobal n && s.focus != globalKey) (fPriv 32)
  if write then
    raiseIf (sysReadOnly n) (fPriv 0)
    match sysCap n with
    | some b => needCap s b
    | none => pure ()

/-- The cluster whose registers the executing agent reaches: at the global scheduler core, the one that `CLSEL` names. -/
def sysCluster (s : State) : Nat := if s.focus == globalKey then s.clsel.toNat else s.myCluster

/-! ### Region descriptors (R199) -/

/-- A write of `RDESCk.B`: reserved SPACE and BSAX values leave their fields (R10). -/
def rdescB (old v : Word) : Word :=
  let sp := if bitsAt v 60 3 ≤ 3 then bitsAt v 60 3 else bitsAt old 60 3
  let ax := if bitsAt v 58 2 ≤ 2 then bitsAt v 58 2 else bitsAt old 58 2
  BitVec.ofNat 64 (bitsAt v 63 1 * 2 ^ 63 + sp * 2 ^ 60 + ax * 2 ^ 58 + bitsAt v 57 1 * 2 ^ 57 + bitsAt v 0 40)

/-- Pairs that are not put in force. -/
def rdescBad (a b : Word) : Bool :=
  (b.getLsbD 57 && (bitsAt b 60 3 ≠ 1 || a.toNat % 8192 ≠ 0 || bitsAt b 0 40 % 8192 ≠ 0)) || (b.getLsbD 63 && bitsAt b 0 40 = 0)

/-- A write of either register of pair k. -/
def writeRdesc (c : Core) (k : Nat) (isB : Bool) (v : Word) : Core :=
  let ia : Fin 16 := Fin.ofNat 16 (2 * k)
  let ib : Fin 16 := Fin.ofNat 16 (2 * k + 1)
  let a := if isB then c.rdesc.get ia else v
  let b := if isB then rdescB (c.rdesc.get ib) v else c.rdesc.get ib
  { c with rdesc := (c.rdesc.set ia a).set ib (if rdescBad a b then b &&& 0x7FFFFFFFFFFFFFFF else b) }

/-! ### Reading -/

/-- `CORECFG` (R164). -/
def readCorecfg (c : Core) : Word := BitVec.ofNat 64 (c.autosw.toNat * 2 ^ 16 + c.swth.toNat)

/-- `CLPERM` of the executing controller (R98). -/
def readClperm (s : State) : Word :=
  let x := s.link (sysCluster s)
  let f (tx rx : Nat) (st : BitVec 16) : Word := BitVec.ofNat 64 (tx * 2 ^ 32 + rx * 2 ^ 16 + st.toNat)
  if s.focus == globalKey then f x.downPermits x.upBuf.length x.downStalls else f x.upPermits x.downBuf.length x.upStalls

/-- The read of `CLPERM` clears STALLS. -/
def clearStalls (s : State) : State :=
  let x := s.link (sysCluster s)
  s.setLink (sysCluster s) (if s.focus == globalKey then { x with downStalls := 0 } else { x with upStalls := 0 })

/-- `DVSTAT` (R148). -/
def readDvstat (r : Regulator) : Word := BitVec.ofNat 64 (r.vt * 2 ^ 32 + r.v / 100 * 2 ^ 12 + r.f.toNat)

/-- `PODCFG` (R144). -/
def readPodcfg (s : State) : Word :=
  if s.feat 6 then BitVec.ofNat 64 (s.podstag.toNat * 2 ^ 32 + s.podMemb.toNat * 2 ^ 24 + s.podg.toNat * 2 ^ 12 + s.podEn.toNat) else 0

/-- `LCREQ` (R92). -/
def readLcreq (s : State) : Word := BitVec.ofNat 64 (s.lcErr.toNat * 2 ^ 9 + s.fuses.toNat * 2 ^ 6 + s.lcTarget.toNat)

/-- The value of a register that the executing agent may read. A register of a quad, cluster or tower that the agent has not reads zero (log
entry 14). -/
def sysRead (s : State) (n : Nat) : Word :=
  let k := s.me
  let c := s.cur
  let cl := sysCluster s
  let tower := s.tower (towerOfCluster s.myCluster)
  let ofCluster (w : Word) : Word := if cl < 80 then w else 0
  let ofTower (w : Word) : Word := if s.myCluster < 80 then w else 0
  if n = 0 then c.status
  else if n = 1 then taskInf c
  else if n = 2 then c.cap.setWidth 64
  else if n = 0x10 then readCorecfg k
  else if n = 0x11 then BitVec.ofNat 64 (k.bkRet.toNat * 2 ^ 16 + k.bkIdle.toNat)
  else if n = 0x12 then c.pcnt
  else if n ≤ 0x2F then k.rdesc.get (Fin.ofNat 16 (n - 0x20))
  else if n ≤ 0x107 then k.pmcsel.get (Fin.ofNat 8 (n - 0x100))
  else if n = 0x210 then (if isTile s.focus then (s.quad (quadOf s.focus)).quadw.setWidth 64 else 0)
  else if n = 0x214 then BitVec.ofNat 64 (k.mrseqNow.toNat * 2 ^ 16 + k.mxpf.toNat)
  else if n = 0x218 then ofTower (BitVec.ofNat 64 (tower.portw.toNat * 16 + tower.ladw.toNat))
  else if n = 0x220 then
    ofTower (BitVec.ofNat 64 ((if s.feat 9 then tower.rstep.toNat else 0) * 2 ^ 16 + (if s.feat 8 then tower.stagger.toNat else 0)))
  else if n = 0x224 then readPodcfg s
  else if n = 0x228 then (if s.myCluster < 80 then (s.cluster s.myCluster).thrrsn.setWidth 64 else 0)
  else if n = 0x22C then BitVec.ofNat 64 (s.tbLock.toNat * 2 ^ 32 + s.tbOffs.toNat)
  else if n ≤ 0x233 then (if s.feat 7 then (s.regs.get (Fin.ofNat 4 (n - 0x230))).lim.setWidth 64 else 0)
  else if n ≤ 0x23A then s.dommap.get (Fin.ofNat 3 (n - 0x238))
  else if n ≤ 0x243 then (s.regs.get (Fin.ofNat 4 (n - 0x240))).fcode.setWidth 64
  else if n ≤ 0x247 then readDvstat (s.regs.get (Fin.ofNat 4 (n - 0x244)))
  else if n = 0x300 then s.xlbase
  else if n = 0x301 then ofCluster (readTlbinv (s.cluster cl))
  else if n ≤ 0x309 then ofCluster ((s.cluster cl).cladm.get (Fin.ofNat 8 (n - 0x302)))
  else if n = 0x310 then s.clsel.setWidth 64
  else if n = 0x311 then readClperm s
  else if n = 0x320 then readLcreq s
  else readMsqctl s (n - 0x330)

/-- Vector and matrix work and outstanding AMOF replies may still set flags of `STATUS` (R154, R303, R341). -/
def statusBusy (s : State) : Bool :=
  s.vecBusy s.focus s.act || s.myReqs.any fun r => match r.kind with | .amof .. => true | _ => false

/-- SRD (R429). -/
def execSrd (c : Com) (d : Dst) (n : BitVec 12) (s : State) : Host.Outcome State Fault Refusal :=
  issueFall .any c s fun s => do
    sysCheck s n.toNat false
    waitFor (n ≠ 0 || !statusBusy s)
    writeDst (if n = 0x311 then clearStalls s else s) d (sysRead s n.toNat)

/-! ### Writing -/

/-- A write of `PMCSELk` (R433). -/
def pmcselWrite (old v : Word) : Word :=
  let ev := if bitsAt v 0 8 < 15 then bitsAt v 0 8 else bitsAt old 0 8
  let cf := if bitsAt v 14 2 ≠ 3 then bitsAt v 14 2 else bitsAt old 14 2
  BitVec.ofNat 64 ((if v.getLsbD 16 then 0 else bitsAt old 16 1) * 2 ^ 16 + cf * 2 ^ 14 + ev)

/-- A write of `SSCFG` (R140): a declined feature's field ignores it. -/
def writeSscfg (s : State) (t : Nat) (v : Word) : State :=
  let x := s.tower t
  s.setTower t { x with rstep := if s.feat 9 then BitVec.ofNat 8 (bitsAt v 16 8) else x.rstep
                        stagger := if s.feat 8 then BitVec.ofNat 8 (bitsAt v 0 8) else x.stagger }

/-- A write of `PODCFG` (R144): reserved MEMB values leave the field. -/
def writePodcfg (s : State) (v : Word) : State :=
  if s.feat 6 then
    { s with podstag := BitVec.ofNat 10 (bitsAt v 32 10), podg := BitVec.ofNat 12 (bitsAt v 12 12), podEn := v.getLsbD 0
             podMemb := if 1 ≤ bitsAt v 24 6 && bitsAt v 24 6 ≤ 32 then BitVec.ofNat 6 (bitsAt v 24 6) else s.podMemb }
  else s

/-- The write of a register that the executing agent may write; one of a part that the agent has not is ignored (log entry 14). -/
def sysWrite (s : State) (n : Nat) (v : Word) : State :=
  let cl := sysCluster s
  let t := towerOfCluster s.myCluster
  let hasCl := decide (s.myCluster < 80)
  if n = 0 then s.modCur fun c => { c with status := writeStatus c.status v }
  else if n = 0x11 then writeBkcfg s s.focus v
  else if n ≤ 0x2F then s.modMe fun c => writeRdesc c ((n - 0x20) / 2) (n % 2 == 1) v
  else if n ≤ 0x107 then
    s.modMe fun c =>
      let i : Fin 8 := Fin.ofNat 8 (n - 0x100)
      { c with pmcsel := c.pmcsel.set i (pmcselWrite (c.pmcsel.get i) v) }
  else if n = 0x210 then (if isTile s.focus then writeQuadw s (quadOf s.focus) v else s)
  else if n = 0x214 then s.modMe fun c => c.writeMxcfg (BitVec.ofNat 16 (bitsAt v 16 16)) (BitVec.ofNat 4 (bitsAt v 0 4))
  else if n = 0x218 then (if hasCl then writeEngshr s t v else s)
  else if n = 0x220 then (if hasCl then writeSscfg s t v else s)
  else if n = 0x224 then writePodcfg s v
  else if n = 0x228 then (if hasCl then s.modCluster s.myCluster fun c => { c with thrrsn := c.thrrsn &&& ~~~(v.setWidth 5) } else s)
  else if n ≤ 0x233 then
    (if s.feat 7 then s.modReg (Fin.ofNat 4 (n - 0x230)) fun r => { r with lim := BitVec.ofNat 16 (bitsAt v 0 16) } else s)
  else if n ≤ 0x23A then
    { s with dommap := s.dommap.set (Fin.ofNat 3 (n - 0x238)) (if n = 0x23A then v &&& 0xFFFFFFFF else v) }
  else if n ≤ 0x243 then requestFreq s (Fin.ofNat 4 (n - 0x240)) v
  else if n = 0x300 then { s with xlbase := v &&& 0xFFFFFF0001 }
  else if n = 0x301 then (if cl < 80 then writeTlbinv s cl v else s)
  else if n ≤ 0x309 then
    (if cl < 80 then s.modCluster cl fun c => { c with cladm := c.cladm.set (Fin.ofNat 8 (n - 0x302)) (v &&& 0x1FFFF) } else s)
  else if n = 0x310 then (if bitsAt v 0 7 < 80 then { s with clsel := BitVec.ofNat 7 (bitsAt v 0 7) } else s)
  else if n = 0x311 then s
  else if n = 0x320 then writeLcreq s v
  else writeMsqctl s (n - 0x330) v

/-- SWR (R429). A life-cycle change resets the module (R92), and no instruction completes. -/
def execSwr (c : Com) (n : BitVec 12) (a : Use Src) (s : State) : Host.Outcome State Fault Refusal :=
  issue .any c s fun s => do
    sysCheck s n.toNat true
    waitFor (n ≠ 0 || !statusBusy s)
    let (v, s) ← readSrc s a.r
    let changes := n = 0x320 && v.getLsbD 8 && lcAllowed s.fuses (BitVec.ofNat 2 (bitsAt v 0 2))
    return (sysWrite s n.toNat v, if changes then .placed else .fall)

/-- TBR (R431). -/
def execTbr (c : Com) (d : Dst) (s : State) : Host.Outcome State Fault Refusal :=
  issueFall .any c s fun s => writeDst s d (BitVec.ofNat 64 (s.tbOf s.myCluster))

/-- PMCR (R432): a controller without a cluster reads zero (log entry 14). -/
def execPmcr (c : Com) (d : Dst) (a : Use Src) (k : Fin 8) (clr : Bool) (s : State) : Host.Outcome State Fault Refusal :=
  issueFall .any c s fun s => do
    needCap s 4
    let (x, s) ← readSrc s a.r
    let key := coreAt s.myCluster (x.toNat % 64)
    if 80 ≤ s.myCluster then writeDst s d 0
    else
      let v := (s.core key).pmc.get k
      let s := if clr then s.modCore key fun c => { c with pmc := c.pmc.set k 0 } else s
      writeDst s d (v.setWidth 64)

/-- SWAP (R434): the contexts swap if the shadow can take over; the issuing context goes on at the successor. -/
def execSwap (c : Com) (s : State) : Host.Outcome State Fault Refusal :=
  issueFall .any c s fun s => return if shadowReady s s.focus then beginSwap s s.focus else s

/-- HALT (R435): the end of R242 for a task; a controller stops. -/
def execHalt (c : Com) (s : State) : Host.Outcome State Fault Refusal :=
  issue .any c s fun s =>
    return if isTile s.focus then (killCtx s s.focus s.act, .placed) else (s.modMe fun c => { c with stopped := true }, .fall)

end Sys2Proof.Machine
end

