-- ==== Sys2Proof/Machine/Debug.lean ====
section
/-! DEFINITION. The debug window (R236 to R240): the state map of a context, its words as they read and as a DBGWR writes them. -/

namespace Sys2Proof.Machine

/-! ### Words of the state map (R237, R238) -/

/-- The operand space of a code. -/
def ospOf (n : Nat) : Osp :=
  match n with
  | 0 => .glb | 1 => .spm | 2 => .cls | 3 => .twr | 6 => .rmt | _ => .grp

/-- The space of a selector. -/
def spaceOf (n : Nat) : Space :=
  match n with
  | 0 => .glb | 1 => .spm | 2 => .cls | 3 => .twr | 4 => .lane | 5 => .ist | _ => .rmt

/-- STATE of `CTXST`. -/
def ctxStNum : CtxSt → Nat
  | .idle => 0 | .reserved => 1 | .running => 2 | .ready => 3 | .frozen => 4

/-- `CTXST`. -/
def readCtxst (c : Ctx) : Word := BitVec.ofNat 64 (c.fcode.toNat * 2 ^ 8 + c.vac.toNat * 16 + c.epip.toNat * 8 + ctxStNum c.st)

/-- The pending wait (R237). -/
def readWait (w : PWait) : Word :=
  let f (kind : Nat) (code : Option Nat) (obj : Nat) : Word :=
    BitVec.ofNat 64 (kind * 2 ^ 62 + (code.getD 0) % 4 * 2 ^ 60 + (if code.isSome then 2 ^ 59 else 0) + obj % 2 ^ 48)
  match w with
  | .none => 0
  | .group g _ code => f 1 code g
  | .waitw _ o _ v _ => f 2 (v.map fun _ => 0) o.toNat
  | .waitg g code => f 3 code g

/-- The pattern claim: the descriptor as granted, t2 holding the granules still CLAIMED. -/
def readClaim (c : Option Claim) (j : Nat) : Word :=
  match c with
  | none => 0
  | some x => match j with | 0 => x.t0 | 1 => x.t1 | 2 => x.mask | _ => BitVec.ofNat 64 (x.gen.toNat * 2 ^ 16 + x.slot.val * 4 + 1)

/-- LOOP state: count, start, end. -/
def readLoop (l : Option LoopSt) (j : Nat) : Word :=
  match l with
  | none => 0
  | some x => match j with | 0 => x.count.setWidth 64 | 1 => x.start.setWidth 64 | _ => x.last.setWidth 64

/-- A word of an entry of the binding table. -/
def readBind (b : Option Binding) (j : Nat) : Word :=
  match b with
  | none => 0
  | some x => if j = 0 then x.obj else BitVec.ofNat 64 (2 ^ 63 + encOsp x.osp * 2 ^ 60 + spaceNum x.rsp * 2 ^ 57 + bitsAt x.base 0 57)

/-- An entry of the membership table. -/
def readMember (m : Option (Nat × BitVec 16)) : Word :=
  match m with
  | none => 0
  | some (g, e) => BitVec.ofNat 64 (2 ^ 63 + e.toNat * 2 ^ 12 + g % 2 ^ 12)

/-- Word j of a wide value. -/
def wordOf {w : Nat} (v : BitVec w) (j : Nat) : Word := BitVec.ofNat 64 (v.toNat / 2 ^ (64 * j))

/-- A word of the state map below 0x700, at an offset that is a multiple of 8. -/
def mapWord (s : State) (key : Nat) (n : Bool) (o : Nat) : Word :=
  let c := s.ctx key n
  if o < 0x180 then c.readG (Fin.ofNat 48 (o / 8))
  else if o = 0x180 then c.pc.setWidth 64
  else if o = 0x188 then c.status
  else if o = 0x190 then taskInf c
  else if o = 0x198 then c.cap.setWidth 64
  else if o = 0x1A0 then c.pcnt
  else if o < 0x1C0 then readLoop c.loop ((o - 0x1A8) / 8)
  else if o < 0x1E0 then c.t.get (Fin.ofNat 4 ((o - 0x1C0) / 8))
  else if o < 0x200 then 0
  else if o < 0x280 then c.vw.get (Fin.ofNat 16 ((o - 0x200) / 8))
  else if o = 0x280 then readCtxst c
  else if o = 0x288 then readWait c.wait
  else if o < 0x2B0 then readClaim c.claim ((o - 0x290) / 8)
  else if o < 0x300 then 0
  else if o < 0x400 then wordOf (c.readP (Fin.ofNat 8 ((o - 0x300) / 32))) (o / 8 % 4)
  else if o < 0x480 then wordOf c.live ((o - 0x400) / 8)
  else if o < 0x500 then wordOf c.pend ((o - 0x480) / 8)
  else if o < 0x520 then readMember (c.members.get (Fin.ofNat 4 ((o - 0x500) / 8)))
  else if o < 0x580 then 0
  else if o < 0x600 then readBind (c.binds[(o - 0x580) / 16]?) (o / 8 % 2)
  else if o < 0x640 then wordOf c.packet ((o - 0x600) / 8)
  else if o < 0x680 then (match c.binds[(o - 0x640) / 8]? with | some b => b.sizeM1.setWidth 64 | none => 0)
  else 0

/-! ### Writes -/

/-- Make DEAD granules LIVE with zero bytes. -/
def liveZero (s : State) (key : Nat) (n : Bool) (gs : List Nat) : State :=
  writeStore s key n (gs.flatMap fun g => (List.range 64).map fun i => (g * 64 + i, (0 : Byte)))

/-- DEAD granules that a write of 64 bits of the live map makes LIVE (R240): their banks are written, and woken. -/
def bornGranules (s : State) (key : Nat) (n : Bool) (j : Nat) (v : Word) : List Nat :=
  let c := s.ctx key n
  ((List.range 64).filter fun i => !c.pend.getLsbD (64 * j + i) && !c.live.getLsbD (64 * j + i) && v.getLsbD i).map (64 * j + ·)

/-- A write of 64 bits of the live map (R240): KILLPEND granules stay as they are. -/
def writeLive (s : State) (key : Nat) (n : Bool) (j : Nat) (v : Word) : State :=
  let c := s.ctx key n
  let dead := ((List.range 64).filter fun i => !c.pend.getLsbD (64 * j + i) && c.live.getLsbD (64 * j + i) && !v.getLsbD i).map (64 * j + ·)
  let born := bornGranules s key n j v
  let s := if dead.isEmpty then s else killGranules s key n dead
  if born.isEmpty then s else liveZero s key n born

/-- A write of a word of LOOP state (R237). -/
def writeLoop (c : Ctx) (j : Nat) (v : Word) : Ctx :=
  let a := v.setWidth 15 &&& 0x7FFC
  match j with
  | 0 =>
    let k : BitVec 32 := v.setWidth 32
    { c with loop := if k = 0 then none else some { count := k, start := c.loopStart, last := c.loopLast } }
  | 1 => { c with loopStart := a, loop := c.loop.map fun l => { l with start := a } }
  | _ => { c with loopLast := a, loop := c.loop.map fun l => { l with last := a } }

/-- Word j of a predicate replaced. -/
def putMaskWord (m : Mask) (j : Nat) (v : Word) : Mask :=
  BitVec.ofNat 256 (m.toNat - m.toNat / 2 ^ (64 * j) % 2 ^ 64 * 2 ^ (64 * j) + v.toNat * 2 ^ (64 * j))

/-- A DBGWR to the state map below 0x700. Offsets that are RO, or that the map does not list, ignore it. A view register holds a reserved KIND or TYPE that
is written to it: such a view is malformed where it is used (R179; DESIGN CHOICE, log entry 47). -/
def mapWrite (s : State) (key : Nat) (n : Bool) (o : Nat) (v : Word) : State :=
  let c := s.ctx key n
  let put (c : Ctx) : State := s.setCtx key n c
  if o < 0x180 then put (c.writeG (Fin.ofNat 48 (o / 8)) v)
  else if o = 0x188 then put { c with status := v &&& 0xE0FB }
  else if o = 0x190 then put { c with kid := BitVec.ofNat 32 (bitsAt v 32 32), asid := BitVec.ofNat 16 (bitsAt v 16 16), place := BitVec.ofNat 14 (bitsAt v 0 14) }
  else if o = 0x198 then put { c with cap := v.setWidth 32 }
  else if 0x1A8 ≤ o && o < 0x1C0 then put (writeLoop c ((o - 0x1A8) / 8) v)
  else if 0x1C0 ≤ o && o < 0x1E0 then put { c with t := c.t.set (Fin.ofNat 4 ((o - 0x1C0) / 8)) v }
  else if 0x200 ≤ o && o < 0x280 then put { c with vw := c.vw.set (Fin.ofNat 16 ((o - 0x200) / 8)) (cleanView v) }
  else if 0x300 ≤ o && o < 0x400 then
    (let i : Fin 8 := Fin.ofNat 8 ((o - 0x300) / 32)
     put (c.writeP i (putMaskWord (c.readP i) (o / 8 % 4) v)))
  else if 0x400 ≤ o && o < 0x480 then writeLive s key n ((o - 0x400) / 8) v
  else s

/-! ### `CORECTL` and its commands (R239) -/

/-- `CORECTL` as it reads. -/
def readCorectl (c : Core) : Word := BitVec.ofNat 64 (c.ctlCtx.toNat * 16 + c.ctlErr.toNat * 2 + (if c.spill == .none then 0 else 1))

/-- A command is refused. -/
def refuseCtl (s : State) (key : Nat) : State := s.modCore key fun c => { c with ctlErr := true }

/-- FREEZE: FCODE 0 and no packet. -/
def ctlFreeze (s : State) (key : Nat) (n : Bool) : State :=
  if canFreeze s key n && !(s.ctx key n).vac then
    s.modCtx key n fun c => { c with st := .frozen, fcode := 0, blocked := max 1 c.blocked, feArr := none, parked := none }
  else refuseCtl s key

/-- Bytes of a save area (R245). -/
def saveLen : Nat := 69888

/-- A save area lies wholly in the module's DRAM or in one tower scratchpad, and outside the locked range (R244). -/
def areaOk (s : State) (b : Nat) : Bool :=
  let last := b + saveLen - 1
  let twr (a : Nat) : Nat := (a - 0x010000000000) / 0x04000000
  ((isDram b && isDram last) || (isTwrLoc b && isTwrLoc last && twr b = twr last))
    && !(s.lock && isDram b && decide (s.lockBase.toNat ≤ last / 2 ^ 16) && decide (b / 2 ^ 16 ≤ s.lockLimit.toNat))

/-- A Ladle job of a context that is unfinished. -/
def unfinished (key : Nat) (n : Bool) (j : Job) : Bool :=
  j.key == key && j.ctx == n && j.owned && j.area.isNone && isLadle j && !j.ended && !j.killed

/-- SPILL begins: the context's jobs stop at their burst boundary (R244). -/
def ctlSpill (s : State) (key : Nat) (n : Bool) : State :=
  let c := s.ctx key n
  if c.st == .running || c.st == .idle || c.vac || c.killing || (s.core key).spill != .none || !areaOk s (saveBase s key n) then refuseCtl s key
  else
    let stop (j : Job) : Job := if unfinished key n j then { j with stopped := true } else j
    (s.modCore key fun c => { c with spill := .spill n }).modCluster (clusterOf key) fun c => { c with jobs := c.jobs.map stop }

/-- The saved CTX of an area. -/
def savedCtx (s : State) (b : Nat) : Bool := s.readLE (b + 0x190) 8 / 2 ^ 13 % 2 == 1

/-- The save area into which the context that an area holds was spilled: that area, or the one of a context of the recorded slot, where software
has moved it (R246: a changed area is restored as it stands). -/
def areaFrom (s : State) (key b : Nat) : Nat :=
  let sh := (s.core key).shelf
  if sh.any fun e => e.1 == b then b
  else
    match sh.find? fun e => e.2.place.getLsbD 13 == savedCtx s b with
    | some e => e.1
    | none => b

/-- The job that a job record of a save area names, if its VALID is 1: none when it names no stopped job of the recorded context. -/
def recordJob (s : State) (key : Nat) (b i : Nat) : Option (Option Job) :=
  let r := b + 2048 + 64 * i
  if s.readLE (r + 56) 8 % 2 = 0 then none
  else
    some ((s.cluster (clusterOf key)).jobs.find? fun j =>
      isLadle j && j.stopped && j.key == key && j.area == some (areaFrom s key b) && decide (j.jobid.toNat % 2 ^ 32 = s.readLE (r + 36) 4))

/-- RESTORE is refused under R246, or begins: the slot counts as vacant until it is refilled. -/
def ctlRestore (s : State) (key : Nat) (n : Bool) : State :=
  let c := s.ctx key n
  let b := saveBase s key n
  let m := savedCtx s b
  let st := s.readLE (b + 0x280) 8
  let bad :=
    (s.core key).spill != .none || !(c.vac || (c.st == .idle && c.inbox.isEmpty))
      || s.readLE (b + 0x190) 8 % 2 ^ 13 ≠ key || (st % 8 ≠ 3 && st % 8 ≠ 4) || (st / 8 % 2 = 1 && m != n)
      || decide (8 < s.readLE (b + 3896) 8 % 16 + c.inbox.length) || (m != n && !(s.ctx key m).vac)
      || (List.range 16).any fun i => recordJob s key b i == some none
  if bad then refuseCtl s key
  else (s.modCore key fun c => { c with spill := .restore n }).modCtx key n fun c => { c with st := .frozen, vac := true }

/-- A write of `CORECTL`: ERR is W1C, and a command other than the four starts nothing. -/
def writeCorectl (s : State) (key : Nat) (v : Word) : State :=
  let n := v.getLsbD 4
  let s := s.modCore key fun c => { c with ctlCtx := n, ctlErr := c.ctlErr && !v.getLsbD 1 }
  match bitsAt v 5 3 with
  | 1 => beginSwap s key
  | 2 => ctlFreeze s key n
  | 3 => ctlSpill s key n
  | 4 => ctlRestore s key n
  | _ => s

/-- CORECTL_SWAP. -/
def execCorectlSwap (key : Nat) (s : State) : Host.Outcome State Fault Refusal := .next (beginSwap s key)
/-- CORECTL_FREEZE. -/
def execCorectlFreeze (key : Nat) (ctx : Bool) (s : State) : Host.Outcome State Fault Refusal := .next (ctlFreeze s key ctx)
/-- CORECTL_SPILL. -/
def execCorectlSpill (key : Nat) (ctx : Bool) (s : State) : Host.Outcome State Fault Refusal := .next (ctlSpill s key ctx)
/-- CORECTL_RESTORE. -/
def execCorectlRestore (key : Nat) (ctx : Bool) (s : State) : Host.Outcome State Fault Refusal := .next (ctlRestore s key ctx)

/-! ### Per-core registers at 0x700 -/

/-- A word of a core's own part of the map. -/
def coreWord (c : Core) (o : Nat) : Word :=
  match o with
  | 0x700 => readCorecfg c
  | 0x708 => readCorectl c
  | 0x710 => c.save0
  | 0x718 => c.save1
  | _ => 0

/-- A write to it. -/
def coreWrite (s : State) (key : Nat) (o : Nat) (v : Word) : State :=
  match o with
  | 0x700 => s.modCore key fun c => { c with autosw := v.getLsbD 16, swth := v.setWidth 16 }
  | 0x708 => writeCorectl s key v
  | 0x710 => s.modCore key fun c => { c with save0 := v &&& 0xFFFFFFFFFFFFFFC0 }
  | 0x718 => s.modCore key fun c => { c with save1 := v &&& 0xFFFFFFFFFFFFFFC0 }
  | _ => s

end Sys2Proof.Machine
end

