-- ==== Sys2Proof/Machine/Fetch.lean ====
section
/-! DEFINITION. Fetching (R266, R267): the instruction at a context's PC, the words that are none, and where a program's words are placed. -/

namespace Sys2Proof.Machine

/-- What a fetch gives: an instruction (or the row of a word that is none), or the fault of one that crosses its fetch block. -/
inductive Fetched where
  | run (i : Instr)
  | crossing
  deriving DecidableEq, Repr

/-- The fetch at an address of a core's store (R266, R267): crossing is decided from LEN alone, before any other field. -/
def fetchAt (s : State) (key : Nat) (pc : BitVec 15) : Fetched :=
  let len := (s.byteAt (locIst key pc.toNat)).toNat % 4
  let raw := s.insnAt key pc
  if len = 0 then .run (.zeroedWordFetch (BitVec.ofNat 128 raw))
  else if 32 < pc.toNat % 32 + lenBytes len then .crossing
  else
    match decode raw with
    | .ok i => .run i
    | .error _ => .run (.unassignedOpcode (BitVec.ofNat 128 raw))

/-- A context issues only while it runs, no swap is under way, and its controller has not halted (R153, R163, R435). -/
def canIssue (s : State) : Bool := s.cur.st == .running && !s.cur.vac && !s.me.swapping && !s.me.stopped

/-- A word that no opcode claims, or that a reserved value spoils, raises ILLOP (R289). -/
def execUnassignedOpcode (_raw : BitVec 128) (s : State) : Host.Outcome State Fault Refusal := .next (takeFault s s.focus s.act fIllop)

/-- A word whose LEN is 00 raises ILLFETCH with DETAIL 0 (R266). -/
def execZeroedWordFetch (_raw : BitVec 128) (s : State) : Host.Outcome State Fault Refusal :=
  .next (takeFault s s.focus s.act (fIllfetch 0))

/-- An instruction that crosses its fetch block raises ILLFETCH with DETAIL 1 (R267). -/
def crossingFault (s : State) : Host.Outcome State Fault Refusal := .next (takeFault s s.focus s.act (fIllfetch 1))

/-- Place an instruction's bytes where core 0's context 0 fetches next, and make that issue the next turn. -/
def placeWord (s : State) (nbits w : Nat) : State :=
  let c := s.core 0
  let s := s.setCore 0 { c with active := false, swapping := false, stopped := false, c0 := { c.c0 with st := .running, vac := false } }
  let s := s.putRaw (locIst 0 c.c0.pc.toNat) (bytesOfNat 16 (w % 2 ^ nbits))
  { s with agenda := [.issue 0], halted := false }

end Sys2Proof.Machine
end

