-- ==== Sys2Proof/Machine/VectorIsa.lean ====
section
/-! DEFINITION. Group 4 (R358 to R383): view set-up, and the push of every vector instruction. What a pushed one does is in VectorExec. -/

namespace Sys2Proof.Machine

/-! ### View set-up (R358, R359) -/

/-- The head fields of an instruction that ignores PRED. -/
def wtOnly (wt : Fin 4) : Com := { pred := { neg := false, p := 0 }, wt }

/-- VWSET from A (R358). -/
def execVwsetReg (wt : Fin 4) (d : Fin 16) (a : Src) (s : State) : Host.Outcome State Fault Refusal :=
  issueFall .tile (wtOnly wt) s fun s => do
    let (x, s) ← readSrc s a
    return s.modCur fun c => { c with vw := c.vw.set d (cleanView x) }

/-- VWSET from IMM64 (R358). -/
def execVwsetImm (wt : Fin 4) (d : Fin 16) (imm : Word) (s : State) : Host.Outcome State Fault Refusal :=
  issueFall .tile (wtOnly wt) s fun s => return s.modCur fun c => { c with vw := c.vw.set d (cleanView imm) }

/-- VWADV (R359). -/
def execVwadv (wt : Fin 4) (d : Fin 16) (a : Use Src) (s : State) : Host.Outcome State Fault Refusal :=
  issueFall .tile (wtOnly wt) s fun s => do
    let (x, s) ← readSrc s a.r
    let w := s.cur.vw.get d
    return s.modCur fun c => { c with vw := c.vw.set d (withBase w (viewBase w + x.toNat % 1024)) }

/-! ### Pushes -/

/-- A view register of the executing context. -/
def State.view (s : State) (n : Fin 16) : Word := s.cur.vw.get n

/-- Push an instruction whose operands are captured by fill. -/
def pushV (pred : Pred) (wt : Fin 4) (i : Instr) (s : State) (fill : VOp → State → Exec (VOp × State)) : Host.Outcome State Fault Refusal :=
  issueV pred wt s fun mask s => do
    let (o, s) ← fill (baseOp s i mask) s
    checkViews s o
    return pushEntry s o

/-- D, A and B are V views. -/
def pushVVV (c : Com) (i : Instr) (d : Fin 16) (a b : Use (Fin 16)) (s : State) : Host.Outcome State Fault Refusal :=
  pushV c.pred c.wt i s fun o s => return ({ o with vd := s.view d, va := s.view a.r, vb := s.view b.r }, s)

/-- D and A are V views. -/
def pushVV (c : Com) (i : Instr) (d : Fin 16) (a : Use (Fin 16)) (s : State) : Host.Outcome State Fault Refusal :=
  pushV c.pred c.wt i s fun o s => return ({ o with vd := s.view d, va := s.view a.r }, s)

/-! ### Memory forms (R360 to R365) -/

/-- Places of a memory image that the active elements access (R361). -/
def imagePlaces (o : VOp) (t : Ty) : List Nat :=
  match viewKind o.vd with
  | .v => if t = .t6 then (List.range 64).flatMap fun g =>
        if (List.range 4).any fun k => o.mask.getLsbD (4 * g + k) then [3 * g, 3 * g + 1, 3 * g + 2] else []
      else activeBytes o.mask t
  | .a => List.range (if t = .t6 then 32 * (viewK o.vd * 3 / 4) else 32 * viewK o.vd)
  | _ => List.range 4096

/-- Resolve a contiguous image's bytes: BOUND, then ALIGN, then XLATE and PROT (R231, R353). Where no byte is accessed, nothing is checked. -/
def imageMem (s : State) (o : VOp) (sp : Space) (u : PageUse) (align a : Nat) (places : List Nat) : Exec (VOp × State) :=
  if places.isEmpty then .ok (o, s)
  else do
    let as := places.map fun i => (a + i) % 2 ^ 64
    let r := resolveBytes s (isFw s.focus) s.focus s.cur.asid sp u as
    raiseOpt (firstFault [(errOf r).filter fun f => f.code = 8, if a % align = 0 then none else some (fAlign a (spaceNum sp))])
    let (ls, ms) ← checkedIn s sp as r
    return ({ o with mem := places.zip ls, ms }, translated s sp as)

/-- Alignment of a V, A or C view's address (R360). -/
def viewAlign (o : VOp) (t : Ty) : Nat := if viewKind o.vd == .c then 4 else max 1 (tyBytes t)

/-- VLD and VST. -/
def vldst (c : Com) (i : Instr) (t : Ty) (d : Fin 16) (m : MemOp32) (u : PageUse) (s : State) : Host.Outcome State Fault Refusal :=
  issueV c.pred c.wt s fun mask s => do
    let (a, s) ← memAddr32 s m
    let o := { baseOp s i mask with vd := s.view d }
    checkViews s o
    let (o, s) ← imageMem s o m.sel u (viewAlign o t) a (imagePlaces o t)
    return pushEntry s o

/-- VLD (R360 to R362). -/
def execVld (c : Com) (ty : Ty) (d : Fin 16) (m : MemOp32) (s : State) : Host.Outcome State Fault Refusal :=
  vldst c (.vld c ty d m) ty d m rdUse s
/-- VST (R360 to R362). -/
def execVst (c : Com) (ty : Ty) (d : Fin 16) (m : MemOp32) (s : State) : Host.Outcome State Fault Refusal :=
  vldst c (.vst c ty d m) ty d m wrUse s

/-- A granule that the push itself must read is still to be written by an earlier instruction of the context. -/
def storePending (s : State) (gs : List Nat) : Bool :=
  (s.entriesOf s.focus s.act).any (fun e => (writeGranules e.op).any gs.contains)
    || ((s.flightsOf s.focus s.act).any fun f => f.writes.any gs.contains) || (s.lateGranules s.focus s.act).any gs.contains

/-- The elements of an index view, read at push (R353): earlier writes of them come first, and their banks are FULL. -/
def indexElems (s : State) (w : Word) : Exec (List Int × State) := do
  let gs := rangeGranules (viewRows w 256)
  waitFor (!storePending s gs)
  let s ← needBanks s (rsBank s.act) (granBanks gs)
  let t := (viewTy w).getD .i32
  return ((viewElems s s.focus s.act w t).map (intOf t), s)

/-- Resolve several elements, each with an address and the places of its bytes: the lowest-indexed one that fails is named (R364). -/
def elementMem (s : State) (o : VOp) (sp : Space) (u : PageUse) (align : Nat) (es : List (Nat × List Nat)) : Exec (VOp × State) := do
  let rs := es.map fun e => (e, resolve s s.focus s.cur.asid sp u e.1 align (addrRange e.1 e.2.length))
  let vas := es.map (·.1)
  checkedIn s sp vas (match firstFault (rs.map fun r => errOf r.2) with | some f => .error f | none => .ok ())
  let pairs := rs.flatMap fun r => match r.2 with | .ok acc => r.1.2.zip acc.locs | .error _ => []
  let ms := rs.flatMap fun r => match r.2 with | .ok acc => acc.ms | .error _ => []
  return ({ o with mem := pairs, ms := ms.dedup }, translated s sp vas)

/-- VLDL and VSTL (R363): lane l uses its own slice at o_l. -/
def vlane (c : Com) (i : Instr) (t : Ty) (d : Fin 16) (a : Use Src) (off : BitVec 32) (idx : Option (Use (Fin 16))) (s : State) :
    Host.Outcome State Fault Refusal :=
  issueV c.pred c.wt s fun mask s => do
    let (x, s) ← readSrc s a.r
    let o := { baseOp s i mask with vd := s.view d, vc := match idx with | some u => s.view u.r | none => 0 }
    checkViews s o
    let (ix, s) ← match idx with | some _ => indexElems s o.vc | none => pure ([], s)
    let places := activeBytes mask t
    let lanes := (List.range 64).filterMap fun l =>
      let ps := places.filter fun j => j / 4 = l
      if ps.isEmpty then none else some (l, (addrPlus x off.toInt + (BitVec.ofInt 32 (ix.getD l 0)).toNat) % 2 ^ 64, ps)
    raiseOpt (firstFault (lanes.map fun e => if e.2.1 < 4096 then none else some (fBound e.2.1 4)))
    raiseOpt (firstFault (lanes.map fun e => if e.2.1 % 4 = 0 then none else some (fAlign e.2.1 4)))
    let pairs := lanes.flatMap fun e => e.2.2.map fun j => (j, locLane (quadOf s.focus) (e.1 * 4096 + e.2.1 + j % 4))
    return pushEntry s { o with mem := pairs }

/-- VLDL (R363). -/
def execVldl (c : Com) (ty : Ty) (d : Fin 16) (a : Use Src) (off : BitVec 32) (idx : Option (Use (Fin 16))) (s : State) :
    Host.Outcome State Fault Refusal := vlane c (.vldl c ty d a off idx) ty d a off idx s
/-- VSTL (R363). -/
def execVstl (c : Com) (ty : Ty) (d : Fin 16) (a : Use Src) (off : BitVec 32) (idx : Option (Use (Fin 16))) (s : State) :
    Host.Outcome State Fault Refusal := vlane c (.vstl c ty d a off idx) ty d a off idx s

/-- VGATH and VSCAT (R364, R365). -/
def vindexed (c : Com) (i : Instr) (t : Ty) (d : Fin 16) (m : MemOp32) (x : Use (Fin 16)) (sc : Fin 4) (u : PageUse) (s : State) :
    Host.Outcome State Fault Refusal :=
  issueV c.pred c.wt s fun mask s => do
    let (a, s) ← memAddr32 s m
    let o := { baseOp s i mask with vd := s.view d, vc := s.view x.r }
    checkViews s o
    let (ix, s) ← indexElems s o.vc
    let w := tyBytes t
    let es := (List.range t.count).filterMap fun j =>
      if active mask t j then
        some ((BitVec.ofInt 64 ((a : Int) + ix.getD j 0 * (2 ^ sc.val : Nat))).toNat, (List.range w).map fun k => j * w + k)
      else none
    let (o, s) ← elementMem s o m.sel u w es
    return pushEntry s o

/-- VGATH (R364, R365). -/
def execVgath (c : Com) (ty : Ty) (d : Fin 16) (m : MemOp32) (x : Use (Fin 16)) (sc : Fin 4) (s : State) : Host.Outcome State Fault Refusal :=
  vindexed c (.vgath c ty d m x sc) ty d m x sc rdUse s
/-- VSCAT (R364, R365). -/
def execVscat (c : Com) (ty : Ty) (d : Fin 16) (m : MemOp32) (x : Use (Fin 16)) (sc : Fin 4) (s : State) : Host.Outcome State Fault Refusal :=
  vindexed c (.vscat c ty d m x sc) ty d m x sc wrUse s

/-! ### Element-wise (R366 to R372) -/

/-- VADD (R366). -/
def execVadd (c : Com) (ty : Ty) (d : Fin 16) (a b : Use (Fin 16)) (x : VX) (s : State) : Host.Outcome State Fault Refusal :=
  pushVVV c (.vadd c ty d a b x) d a b s
/-- VSUB (R366). -/
def execVsub (c : Com) (ty : Ty) (d : Fin 16) (a b : Use (Fin 16)) (x : VX) (s : State) : Host.Outcome State Fault Refusal :=
  pushVVV c (.vsub c ty d a b x) d a b s
/-- VMUL (R366). -/
def execVmul (c : Com) (ty : Ty) (d : Fin 16) (a b : Use (Fin 16)) (x : VX) (s : State) : Host.Outcome State Fault Refusal :=
  pushVVV c (.vmul c ty d a b x) d a b s
/-- VMIN (R366). -/
def execVmin (c : Com) (ty : Ty) (d : Fin 16) (a b : Use (Fin 16)) (s : State) : Host.Outcome State Fault Refusal :=
  pushVVV c (.vmin c ty d a b) d a b s
/-- VMAX (R366). -/
def execVmax (c : Com) (ty : Ty) (d : Fin 16) (a b : Use (Fin 16)) (s : State) : Host.Outcome State Fault Refusal :=
  pushVVV c (.vmax c ty d a b) d a b s
/-- VABS (R366). -/
def execVabs (c : Com) (ty : Ty) (d : Fin 16) (a : Use (Fin 16)) (sat : Bool) (s : State) : Host.Outcome State Fault Refusal :=
  pushVV c (.vabs c ty d a sat) d a s
/-- VNEG (R366). -/
def execVneg (c : Com) (ty : Ty) (d : Fin 16) (a : Use (Fin 16)) (sat : Bool) (s : State) : Host.Outcome State Fault Refusal :=
  pushVV c (.vneg c ty d a sat) d a s
/-- VFMA (R367). -/
def execVfma (c : Com) (ty : Ty) (d : Fin 16) (a b z : Use (Fin 16)) (x : VX) (s : State) : Host.Outcome State Fault Refusal :=
  pushV c.pred c.wt (.vfma c ty d a b z x) s fun o s =>
    return ({ o with vd := s.view d, va := s.view a.r, vb := s.view b.r, vc := s.view z.r }, s)
/-- VAND (R368). -/
def execVand (c : Com) (ty : Ty) (d : Fin 16) (a b : Use (Fin 16)) (s : State) : Host.Outcome State Fault Refusal :=
  pushVVV c (.vand c ty d a b) d a b s
/-- VOR (R368). -/
def execVor (c : Com) (ty : Ty) (d : Fin 16) (a b : Use (Fin 16)) (s : State) : Host.Outcome State Fault Refusal :=
  pushVVV c (.vor c ty d a b) d a b s
/-- VXOR (R368). -/
def execVxor (c : Com) (ty : Ty) (d : Fin 16) (a b : Use (Fin 16)) (s : State) : Host.Outcome State Fault Refusal :=
  pushVVV c (.vxor c ty d a b) d a b s
/-- VANDN (R368). -/
def execVandn (c : Com) (ty : Ty) (d : Fin 16) (a b : Use (Fin 16)) (s : State) : Host.Outcome State Fault Refusal :=
  pushVVV c (.vandn c ty d a b) d a b s
/-- VSHL (R369). -/
def execVshl (c : Com) (ty : Ty) (d : Fin 16) (a b : Use (Fin 16)) (s : State) : Host.Outcome State Fault Refusal :=
  pushVVV c (.vshl c ty d a b) d a b s
/-- VSHR (R369). -/
def execVshr (c : Com) (ty : Ty) (d : Fin 16) (a b : Use (Fin 16)) (s : State) : Host.Outcome State Fault Refusal :=
  pushVVV c (.vshr c ty d a b) d a b s
/-- VSRA (R369). -/
def execVsra (c : Com) (ty : Ty) (d : Fin 16) (a b : Use (Fin 16)) (s : State) : Host.Outcome State Fault Refusal :=
  pushVVV c (.vsra c ty d a b) d a b s
/-- VCMP (R370). -/
def execVcmp (c : Com) (cond : Cond) (ty : Ty) (d : Fin 8) (a b : Use (Fin 16)) (s : State) : Host.Outcome State Fault Refusal :=
  pushV c.pred c.wt (.vcmp c cond ty d a b) s fun o s => return ({ o with va := s.view a.r, vb := s.view b.r }, s)
/-- VSEL (R371): it waits for the predicate that it reads (R154). -/
def execVsel (c : Com) (ty : Ty) (d : Fin 16) (a b : Use (Fin 16)) (x : Use (Fin 8)) (s : State) : Host.Outcome State Fault Refusal :=
  pushV c.pred c.wt (.vsel c ty d a b x) s fun o s => do
    waitFor (!s.predBusy x.r)
    return ({ o with vd := s.view d, va := s.view a.r, vb := s.view b.r, pa := s.cur.readP x.r }, s)
/-- VCVT (R373). -/
def execVcvt (c : Com) (ty : Ty) (d : Fin 16) (a : Use (Fin 16)) (src : Ty) (part : Fin 16) (x : VX) (s : State) : Host.Outcome State Fault Refusal :=
  pushVV c (.vcvt c ty d a src part x) d a s
/-- VBCAST (R372): a queue named in A is popped at push. -/
def execVbcast (c : Com) (ty : Ty) (d : Fin 16) (a : Use Src) (s : State) : Host.Outcome State Fault Refusal :=
  pushV c.pred c.wt (.vbcast c ty d a) s fun o s => do
    let (x, s) ← readSrc s a.r
    return ({ o with vd := s.view d, sa := x }, s)

/-- The predicates that A and B name, as they stand. -/
def predOperands (o : VOp) (s : State) (a b : Fin 8) : VOp := { o with pa := s.cur.readP a, pb := s.cur.readP b }

/-! ### Across elements, widening and predicates (R374 to R380) -/

/-- VEXT (R376): it ignores PRED. -/
def execVext (wt : Fin 4) (ty : Ty) (a : Use (Fin 16)) (idx : BitVec 9) (s : State) : Host.Outcome State Fault Refusal :=
  pushV { neg := false, p := 0 } wt (.vext wt ty a idx) s fun o s => return ({ o with va := s.view a.r }, s)
/-- VRED (R377). -/
def execVred (c : Com) (op : RedOp) (ty : Ty) (a : Use (Fin 16)) (r : Rnd) (s : State) : Host.Outcome State Fault Refusal :=
  pushV c.pred c.wt (.vred c op ty a r) s fun o s => return ({ o with va := s.view a.r }, s)
/-- VSCAN (R378). -/
def execVscan (c : Com) (op : ScanOp) (ty : Ty) (d : Fin 16) (a : Use (Fin 16)) (x : VX) (s : State) : Host.Outcome State Fault Refusal :=
  pushVV c (.vscan c op ty d a x) d a s
/-- VWADD (R374). -/
def execVwadd (c : Com) (ty : Ty) (d : Fin 16) (a b : Use (Fin 16)) (part wb : Bool) (x : VX) (s : State) : Host.Outcome State Fault Refusal :=
  pushVVV c (.vwadd c ty d a b part wb x) d a b s
/-- VWMUL (R374). -/
def execVwmul (c : Com) (ty : Ty) (d : Fin 16) (a b : Use (Fin 16)) (part wb : Bool) (x : VX) (s : State) : Host.Outcome State Fault Refusal :=
  pushVVV c (.vwmul c ty d a b part wb x) d a b s
/-- VDOT (R375). -/
def execVdot (c : Com) (ty : Ty) (d : Fin 16) (a b : Use (Fin 16)) (x : VX) (s : State) : Host.Outcome State Fault Refusal :=
  pushVVV c (.vdot c ty d a b x) d a b s
/-- VPERM (R379). -/
def execVperm (c : Com) (ty : Ty) (d : Fin 16) (a b : Use (Fin 16)) (s : State) : Host.Outcome State Fault Refusal :=
  pushVVV c (.vperm c ty d a b) d a b s
/-- VSHUF (R379). -/
def execVshuf (c : Com) (ty : Ty) (d : Fin 16) (a b : Use (Fin 16)) (mode : ShufMode) (s : State) : Host.Outcome State Fault Refusal :=
  pushVVV c (.vshuf c ty d a b mode) d a b s
/-- VSLIDE (R379). -/
def execVslide (c : Com) (ty : Ty) (d : Fin 16) (a b : Use (Fin 16)) (sh : BitVec 9) (s : State) : Host.Outcome State Fault Refusal :=
  pushVVV c (.vslide c ty d a b sh) d a b s
/-- VPAND (R380). -/
def execVpand (c : Com) (ty : Ty) (d : Fin 8) (a b : Use (Fin 8)) (s : State) : Host.Outcome State Fault Refusal :=
  pushV c.pred c.wt (.vpand c ty d a b) s fun o s => do
    waitFor (!s.predBusy a.r && !s.predBusy b.r)
    return (predOperands o s a.r b.r, s)
/-- VPOR (R380). -/
def execVpor (c : Com) (ty : Ty) (d : Fin 8) (a b : Use (Fin 8)) (s : State) : Host.Outcome State Fault Refusal :=
  pushV c.pred c.wt (.vpor c ty d a b) s fun o s => do
    waitFor (!s.predBusy a.r && !s.predBusy b.r)
    return (predOperands o s a.r b.r, s)
/-- VPNOT (R380). -/
def execVpnot (c : Com) (ty : Ty) (d : Fin 8) (a : Use (Fin 8)) (s : State) : Host.Outcome State Fault Refusal :=
  pushV c.pred c.wt (.vpnot c ty d a) s fun o s => do
    waitFor (!s.predBusy a.r)
    return (predOperands o s a.r a.r, s)
/-- VPCNT (R380). -/
def execVpcnt (c : Com) (ty : Ty) (a : Use (Fin 8)) (s : State) : Host.Outcome State Fault Refusal :=
  pushV c.pred c.wt (.vpcnt c ty a) s fun o s => do
    waitFor (!s.predBusy a.r)
    return (predOperands o s a.r a.r, s)

/-! ### Block scaling, reciprocals and exponent (R381 to R383) -/

/-- VBS (R381): it ignores PRED. -/
def execVbs (wt : Fin 4) (ty : Ty) (d : Fin 16) (a : Use (Fin 16)) (w16 : Bool) (r : Rnd) (s : State) : Host.Outcome State Fault Refusal :=
  pushV { neg := false, p := 0 } wt (.vbs wt ty d a w16 r) s fun o s => return ({ o with vd := s.view d, va := s.view a.r }, s)
/-- VUNBS (R382). -/
def execVunbs (c : Com) (ty : Ty) (d : Fin 16) (a : Use (Fin 16)) (w16 : Bool) (s : State) : Host.Outcome State Fault Refusal :=
  pushVV c (.vunbs c ty d a w16) d a s
/-- VRCP (R383). -/
def execVrcp (c : Com) (ty : Ty) (d : Fin 16) (a : Use (Fin 16)) (r : Rnd) (s : State) : Host.Outcome State Fault Refusal :=
  pushVV c (.vrcp c ty d a r) d a s
/-- VRSQ (R383). -/
def execVrsq (c : Com) (ty : Ty) (d : Fin 16) (a : Use (Fin 16)) (r : Rnd) (s : State) : Host.Outcome State Fault Refusal :=
  pushVV c (.vrsq c ty d a r) d a s
/-- VEXP2 (R383). -/
def execVexp2 (c : Com) (ty : Ty) (d : Fin 16) (a : Use (Fin 16)) (r : Rnd) (s : State) : Host.Outcome State Fault Refusal :=
  pushVV c (.vexp2 c ty d a r) d a s

end Sys2Proof.Machine
end

