-- ==== Sys2Proof/Machine/MatrixIsa.lean ====
section
/-! DEFINITION. Group 5 (R384 to R404): B view set-up, the push of every matrix instruction, and MWAIT. What a pushed one does is in MatrixExec. -/

namespace Sys2Proof.Machine

/-! ### B views (R397) -/

/-- Write a B view of the quad (R384, R397). -/
def setBview (s : State) (d : Fin 16) (w : Word) : State := s.modQuad (quadOf s.focus) fun q => { q with bv := q.bv.set d (cleanBview w) }

/-- A B view of the executing core's quad. -/
def State.bview (s : State) (n : Fin 16) : Word := (s.quad (quadOf s.focus)).bv.get n

/-- MBSET from A (R397). -/
def execMbsetReg (wt : Fin 4) (d : Fin 16) (a : Src) (s : State) : Host.Outcome State Fault Refusal :=
  issueFall .tile (wtOnly wt) s fun s => do
    let (x, s) ← readSrc s a
    return setBview s d x

/-- MBSET from IMM64 (R397). -/
def execMbsetImm (wt : Fin 4) (d : Fin 16) (imm : Word) (s : State) : Host.Outcome State Fault Refusal :=
  issueFall .tile (wtOnly wt) s fun s => return setBview s d imm

/-! ### Products and accumulators (R390 to R396) -/

/-- Push an instruction whose operands are captured by fill. -/
def pushM (c : Com) (i : Instr) (s : State) (fill : VOp → State → Exec (VOp × State)) : Host.Outcome State Fault Refusal :=
  issueM c s fun s => do
    let (o, s) ← fill (baseOp s i (s.predMask c.pred)) s
    checkViews s o
    return pushEntry s o

/-- The views of MMA and MMAR as the push captures them: C, A, B and the exponent view. -/
def mmaViews (o : VOp) (s : State) (d a b : Fin 16) (bs : Option (Use (Fin 16))) : VOp :=
  { o with vd := s.view d, va := s.view a, bv := s.bview b, vc := match bs with | some x => s.view x.r | none => 0 }

/-- MMA (R390, R391). -/
def execMma (c : Com) (ty : MmaTy) (d : Fin 16) (a : Use (Fin 16)) (b : Fin 16) (ov : Bool) (bs : Option (Use (Fin 16))) (s : State) :
    Host.Outcome State Fault Refusal :=
  pushM c (.mma c ty d a b ov bs) s fun o s => return (mmaViews o s d a.r b bs, s)

/-- MMAR (R393). -/
def execMmar (c : Com) (ty : MmaTy) (d : Fin 16) (a : Use (Fin 16)) (b : Fin 16) (ov : Bool) (bs : Option (Use (Fin 16))) (s : State) :
    Host.Outcome State Fault Refusal :=
  pushM c (.mmar c ty d a b ov bs) s fun o s => return (mmaViews o s d a.r b bs, s)

/-- MZERO (R395). -/
def execMzero (c : Com) (ty : Ty) (d : Fin 16) (s : State) : Host.Outcome State Fault Refusal :=
  pushM c (.mzero c ty d) s fun o s => return ({ o with vd := s.view d }, s)

/-- MACC (R396). -/
def execMacc (c : Com) (ty : Ty) (d : Fin 16) (a : Use (Fin 16)) (sat : Bool) (s : State) : Host.Outcome State Fault Refusal :=
  pushM c (.macc c ty d a sat) s fun o s => return ({ o with vd := s.view d, va := s.view a.r }, s)

/-- Resolve bytes given as (place, address): BOUND, then ALIGN of the address and the pitch, then XLATE and PROT (R231). -/
def tileMem (s : State) (o : VOp) (sp : Space) (align a pitch : Nat) (pas : List (Nat × Nat)) : Exec (VOp × State) := do
  let as := pas.map (·.2)
  let r := resolveBytes s (isFw s.focus) s.focus s.cur.asid sp rdUse as
  raiseOpt (firstFault [(errOf r).filter fun f => f.code = 8, if a % align = 0 && pitch % align = 0 then none else some (fAlign a (spaceNum sp))])
  let (ls, ms) ← checkedIn s sp as r
  return ({ o with mem := (pas.map (·.1)).zip ls, ms }, translated s sp as)

/-- MMA.RA (R392): its tile is 32 rows of K bytes at A, or 3K/4 for packed T6. -/
def execMmaRa (c : Com) (ty : MmaTy) (d : Fin 16) (a : Use Src) (b : Fin 16) (ov : Bool) (shape : Fin 16) (sp : Space) (s : State) :
    Host.Outcome State Fault Refusal :=
  issueM c s fun s => do
    let (x, s) ← readSrc s a.r
    let o := { baseOp s (.mmaRa c ty d a b ov shape sp) (s.predMask c.pred) with
      vd := s.view d, vc := s.view shape, bv := s.bview b, sa := x }
    checkViews s o
    let n := 32 * (if ty = .t6 then viewK o.vc * 3 / 4 else viewK o.vc)
    let (o, s) ← tileMem s o sp 32 x.toNat 0 ((List.range n).map fun i => (i, (x.toNat + i) % 2 ^ 64))
    let s := pushEntry s o
    return startTiles s s.focus 8

/-! ### Tile loads (R398 to R400) -/

/-- The region descriptor that is in force for a byte of a space (R199): the lowest k. -/
def descAt (c : Core) (sp : Space) (a : Nat) : Option Nat :=
  (List.range 8).find? fun k =>
    let base := (c.rdesc.get (Fin.ofNat 16 (2 * k))).toNat
    let b := c.rdesc.get (Fin.ofNat 16 (2 * k + 1))
    b.getLsbD 63 && spaceNum sp < 4 && b.toNat / 2 ^ 60 % 8 == spaceNum sp && base ≤ a && a < base + b.toNat % 2 ^ 40

/-- `BSAX` of a descriptor; a byte under none counts as `00`. -/
def bsaxOf (c : Core) : Option Nat → Nat
  | none => 0
  | some k => (c.rdesc.get (Fin.ofNat 16 (2 * k + 1))).toNat / 2 ^ 58 % 4

/-- The image that a tile load reads, as (place, address): its stored rows, its blocks, or one block of each row. -/
def tileImage (t : Ty) (blk ke a p : Nat) : List (Nat × Nat) :=
  let at_ (n : Nat) : Nat := (a + n) % 2 ^ 64
  match blk with
  | 0 => (List.range ke).flatMap fun k => (List.range (rowBytes t)).map fun j => (k * rowBytes t + j, at_ (k * p + j))
  | 1 => (List.range (ke / 64)).flatMap fun b => (List.range (32 * 72)).map fun j => (b * 32 * 72 + j, at_ (b * p + j))
  | _ => (List.range ke).flatMap fun k => (List.range 72).map fun j => (k * 72 + j, at_ (k * p + j))

/-- The least pitch of a tile load (R398 to R400). -/
def leastPitch (t : Ty) (blk : Nat) : Nat := match blk with | 0 => rowBytes t | 1 => 2304 | _ => 72

/-- MBLD, MTLD and MTLD.RB: w is the destination view's word; rb and hi are the suffixes. -/
def tileLoad (c : Com) (i : Instr) (t : Ty) (m : MemOp32) (x : Src) (rb hi : Bool) (s : State)
    (fill : VOp → State → VOp) (dest : VOp → Word) : Host.Outcome State Fault Refusal :=
  issueM c s fun s => do
    let (a, s) ← memAddr32 s m
    let (p, s) ← readSrc s x
    let desc := descAt s.me m.sel a
    let bsax := bsaxOf s.me desc
    let blk := if bsax = 2 then 1 else if bsax = 1 && rb then 2 else 0
    let o := { fill (baseOp s i (s.predMask c.pred)) s with sa := BitVec.ofNat 64 a, sc := p, blk }
    let w := dest o
    let spare : BitVec 5 := match i with | .mbld _ _ _ _ x => x.opx | _ => 0
    raiseIf (blk ≠ 0 && spare.extractLsb' 0 4 ≠ 0) fIllop
    raiseIf (!operandTy t) fFormat
    raiseIf (rb && bsax = 0) fFormat
    raiseIf (bsax = 1 && !rb) fFormat
    raiseIf (hi && blk ≠ 2) fFormat
    raiseIf (blk ≠ 0 && (t != .i8 || viewK w < 64)) fFormat
    raiseIf (blk = 1 && usesB o && !bvBse w) fFormat
    raiseIf (p.toNat < leastPitch t blk) fFormat
    raiseIf (spare.getLsbD 4) fFormat
    let pas := tileImage t blk (keOf t (viewK w)) a p.toNat
    raiseIf (pas.any fun q => descAt s.me m.sel q.2 != desc) fFormat
    checkViews s o
    let (o, s) ← tileMem s o m.sel 8 a p.toNat pas
    return pushEntry s o

/-- MBLD (R398, R399). -/
def execMbld (c : Com) (ty : Ty) (d : Fin 16) (m : MemOp32) (x : TilePitch) (s : State) : Host.Outcome State Fault Refusal :=
  tileLoad c (.mbld c ty d m x) ty m x.p.r false false s (fun o s => { o with bv := s.bview d }) (·.bv)

/-- MTLD (R398, R399). -/
def execMtld (c : Com) (ty : Ty) (d : Fin 16) (m : MemOp32) (x : Use Src) (ev : Fin 16) (hi : Bool) (s : State) :
    Host.Outcome State Fault Refusal :=
  tileLoad c (.mtld c ty d m x ev hi) ty m x.r false hi s (fun o s => { o with vd := s.view d, vb := s.view ev }) (·.vd)

/-- MTLD.RB (R400): of a column-blocked copy it acts as MTLD, of a row-blocked one it re-blocks. -/
def execMtldRb (c : Com) (ty : Ty) (d : Fin 16) (m : MemOp32) (x : Use Src) (ev : Fin 16) (hi : Bool) (s : State) :
    Host.Outcome State Fault Refusal :=
  tileLoad c (.mtldRb c ty d m x ev hi) ty m x.r true hi s (fun o s => { o with vd := s.view d, vb := s.view ev }) (·.vd)

/-! ### MEPI and MWAIT (R401 to R404) -/

/-- MEPI: the address and the pitch are fixed at push, and the stores are checked when the epilogue writes them (R230, R403). -/
def pushMepi (c : Com) (i : Instr) (t : Ty) (acc : Use (Fin 16)) (base : Src) (sel : Space) (off : Int) (pitch : Nat) (cols : Option (Fin 16))
    (s : State) : Host.Outcome State Fault Refusal :=
  issueM c s fun s => do
    let (x, s) ← readSrc s base
    let a := addrPlus x off
    let p := if pitch = 0 then rowBytes t else pitch
    let o := { baseOp s i (s.predMask c.pred) with
      vc := s.view acc.r, vd := match cols with | some d => s.view d | none => 0, sa := BitVec.ofNat 64 a, sc := BitVec.ofNat 64 p }
    checkViews s o
    raiseIf (a % 8 ≠ 0 || p % 8 ≠ 0) (fAlign a (spaceNum sel))
    return pushEntry s o

/-- MEPI with an offset (R401). -/
def execMepi96 (c : Com) (ty : Ty) (acc : Use (Fin 16)) (base : Use Src) (sel : Space) (off : BitVec 32) (cols : Option (Fin 16)) (r : Rnd)
    (s : State) : Host.Outcome State Fault Refusal :=
  pushMepi c (.mepi96 c ty acc base sel off cols r) ty acc base.r sel off.toInt 0 cols s

/-- MEPI with a scale and a pitch (R401). -/
def execMepi128 (c : Com) (ty : Ty) (acc : Use (Fin 16)) (base : Use Src) (sel : Space) (scale : BitVec 32) (pitch : BitVec 20)
    (cols : Option (Fin 16)) (r : Rnd) (s : State) : Host.Outcome State Fault Refusal :=
  pushMepi c (.mepi128 c ty acc base sel scale pitch cols r) ty acc base.r sel 0 pitch.toNat cols s

/-- Matrix work of a context that has not completed, its results that wait for a bank among it; a vector result is no part of it (R404). -/
def matrixBusy (s : State) (key : Nat) (n : Bool) : Bool :=
  ((s.entriesOf key n).any fun e => isMatrix e.op.instr) || ((s.flightsOf key n).any fun f => isMatrix f.op.instr) || !(s.episOf key n).isEmpty
    || (s.core key).late.any fun l => l.ctx == n && l.mx

/-- MWAIT (R404). -/
def execMwait (c : Com) (s : State) : Host.Outcome State Fault Refusal :=
  issueFall .tile c s fun s => do
    blockFor (!matrixBusy s s.focus s.act)
    return s

end Sys2Proof.Machine
end

