-- ==== Sys2Proof/Machine/PatternIsa.lean ====
section
/-! DEFINITION. The pattern instructions (R423 to R426) and the steps of the pattern unit (R122, R123, R129, R134, R137). -/

namespace Sys2Proof.Machine

/-- The bit of `CAP.PAT` (R78). -/
def capPat : Nat := 0

/-- A TAKE that returns writes t0-t3 (R423). -/
def giveTile (s : State) (key : Nat) (n : Bool) (t : Vector Word 4) : State := s.modCtx key n fun c => { c with t, parked := none }

/-- TAKE (R128, R423): the tile, none, PATTERN, or a park, which blocks the context (R129). -/
def takeStep (s : State) : Exec State :=
  match takeNow s s.focus s.act with
  | .fault => raise fPattern
  | .wait => blocking
  | .park => .error (.block fun s => s.modCur fun c => { c with parked := some false })
  | .none rev => .ok (giveTile s s.focus s.act (noneDesc rev))
  | .tile s t => .ok (giveTile s s.focus s.act t)

/-- TAKE. -/
def execTake (c : Com) (s : State) : Host.Outcome State Fault Refusal := issueFall .tile c s takeStep

/-- DONEG (R131): the check, the wait for every posted count, and one step that marks the granules DONE. -/
def execDoneg (c : Com) (a : Use Src) (s : State) : Host.Outcome State Fault Refusal :=
  issueFall .tile c s fun s => do
    let (m, s) ← readSrc s a.r
    raiseIf (!maskOk s.cur m) fPattern
    waitFor (s.wtMet 3)
    return leaveClaim s s.focus s.act m gDone

/-- YIELDT (R132): the same check, and the granules are FREE again. -/
def execYieldt (c : Com) (a : Use Src) (s : State) : Host.Outcome State Fault Refusal :=
  issueFall .tile c s fun s => do
    let (m, s) ← readSrc s a.r
    raiseIf (!maskOk s.cur m) fPattern
    return leaveClaim s s.focus s.act m gFree

/-- PATR (R119, R425). The global scheduler core lies in no cluster (R18); its pattern slots are the model's own (DESIGN CHOICE, log entry 14). -/
def execPatr (c : Com) (d : Dst) (slot : Fin 4) (reg : Fin 16) (sh : Bool) (s : State) : Host.Outcome State Fault Refusal :=
  issueFall .any c s fun s =>
    match patRead (s.slot s.myCluster slot) reg sh with
    | some v => writeDst s d v
    | none => raise fPattern

/-- PATW of a value (R425): a failed commit leaves the value in the shadow (R133). -/
def patwStep (s : State) (slot : Fin 4) (reg : Fin 16) (a : Use Src) (commit : Bool) : Exec State := do
  needCap s capPat
  let (v, s) ← readSrc s a.r
  match patWrite s s.myCluster slot reg v commit with
  | .done s => return s
  | .fault _ =>
    .error (.raise fPattern fun s => match patWrite s s.myCluster slot reg v commit with | .fault t => t | .done _ => s)

/-- PATW. -/
def execPatw (c : Com) (slot : Fin 4) (reg : Fin 16) (a : Use Src) (s : State) : Host.Outcome State Fault Refusal :=
  issueFall .any c s fun s => patwStep s slot reg a false

/-- PATW.c (R133). -/
def execPatwC (c : Com) (slot : Fin 4) (reg : Fin 16) (a : Use Src) (s : State) : Host.Outcome State Fault Refusal :=
  issueFall .any c s fun s => patwStep s slot reg a true

/-- PREVOKE (R135, R426). -/
def execPrevoke (c : Com) (slot : Fin 4) (a : Use Src) (s : State) : Host.Outcome State Fault Refusal :=
  issueFall .any c s fun s => do
    needCap s capPat
    let (m, s) ← readSrc s a.r
    return revoke s s.myCluster slot m

/-! ### Steps of the unit -/

/-- Whether a TAKE of a context, made now, would return. -/
def takeReady (s : State) (key : Nat) (n : Bool) : Bool :=
  match takeTile s key n with
  | .wait | .park => false
  | _ => true

/-- TAKE_RESUME (R129): a parked TAKE whose wait is over is executed again from its start; the instruction may be TAKE itself, an END, or the
start of a task. -/
def execTakeResume (key : Nat) (s : State) : Host.Outcome State Fault Refusal :=
  let t := { s with focus := key }
  if isTile key && t.cur.st == .running && !t.cur.vac && !t.me.swapping && t.cur.parked.isSome && takeReady t key t.act then
    if t.cur.task.takeDue then firstTake t
    else
      match t.instrAt key t.cur.pc with
      | some (.take c) => issueFall .tile c t takeStep
      | some (.end_ c) => issue .any c t fun s => endSteps s false
      | _ => .next s
  else .next s

/-- SEAM (R134): in the cycle after its commit. -/
def execSeam (cl : Nat) (slot : Fin 4) (s : State) : Host.Outcome State Fault Refusal :=
  .next (seamDue s cl slot)

/-- PATTERN_ACTIVATE (R122): a value of `PAT.FLAGS` with ACT reaches an IDLE slot; an invalid pattern leaves it IDLE. -/
def execPatternActivate (cl : Nat) (slot : Fin 4) (v : Word) (s : State) : Host.Outcome State Fault Refusal :=
  .next (if (s.slot cl slot).st == .idle && v.getLsbD 0 then
    match patFlags s cl slot v with
    | .done t => t
    | .fault _ => s
  else s)

/-- PATTERN_DEACTIVATE (R123): with nothing CLAIMED. -/
def execPatternDeactivate (cl : Nat) (slot : Fin 4) (s : State) : Host.Outcome State Fault Refusal :=
  .next (if (s.slot cl slot).st != .idle && (s.slot cl slot).nclaim == 0 then deactivate s cl slot else s)

/-- PATTERN_EVENT_SIGNAL (R137). -/
def execPatternEventSignal (cl : Nat) (slot : Fin 4) (s : State) : Host.Outcome State Fault Refusal :=
  let p := s.slot cl slot
  .next (match p.evDue with
    | e :: rest => signalEvent (s.setSlot cl slot { p with evDue := rest }) e.toNat
    | [] => s)

end Sys2Proof.Machine
end

