-- ==== Sys2Proof/Machine/ScalarFloat.lean ====
section
/-! DEFINITION. Scalar float instructions (R321 to R325) in FP32. Their flags go into `STATUS` as they complete (R303). -/

namespace Sys2Proof.Machine

/-- An FP32 source: bits [31:0] (R321). -/
def lo32 (w : Word) : Nat := w.toNat % 2 ^ 32

/-- The rounding mode of a form (R256, R321). -/
def formRm (f : FForm) (c : Ctx) : Rm :=
  match f with
  | .short => c.rm
  | .long r => rmOf r c.rm

/-- Write a result and OR its flags into `STATUS` (R303, R321). -/
def writeFlags (s : State) (d : Dst) (r : Nat × Nat) : Exec State :=
  writeDst (s.modCur fun c => c.orFlags r.2) d (BitVec.ofNat 64 r.1)

/-- D := f RM A B, with flags. -/
def fop2 (c : Com) (rm : Ctx → Rm) (d : Dst) (a b : Use Src) (f : Rm → Nat → Nat → Nat × Nat) (s : State) : Host.Outcome State Fault Refusal :=
  issueFall .any c s fun s => do
    let m := rm s.cur
    let (x, y, s) ← read2 s a.r b.r
    writeFlags s d (f m (lo32 x) (lo32 y))

/-- FADD (R322). -/
def execFadd (c : Com) (f : FForm) (d : Dst) (a b : Use Src) (s : State) : Host.Outcome State Fault Refusal := fop2 c (formRm f) d a b (fpAdd 23) s
/-- FSUB (R322). -/
def execFsub (c : Com) (f : FForm) (d : Dst) (a b : Use Src) (s : State) : Host.Outcome State Fault Refusal := fop2 c (formRm f) d a b (fpSub 23) s
/-- FMUL (R322). -/
def execFmul (c : Com) (f : FForm) (d : Dst) (a b : Use Src) (s : State) : Host.Outcome State Fault Refusal := fop2 c (formRm f) d a b (fpMul 23) s

/-- FFMA (R322): one rounding; A, B, C are read in that order. -/
def execFfma (c : Com) (r : Rnd) (d : Dst) (a b x : Use Src) (s : State) : Host.Outcome State Fault Refusal :=
  issueFall .any c s fun s => do
    let m := rmOf r s.cur.rm
    let (u, v, s) ← read2 s a.r b.r
    let (w, s) ← readSrc s x.r
    writeFlags s d (fpFma 23 m (lo32 u) (lo32 v) (lo32 w))

/-- FMIN (R323). -/
def execFmin (c : Com) (d : Dst) (a b : Use Src) (s : State) : Host.Outcome State Fault Refusal := fop2 c Ctx.rm d a b (fun _ => fpMinMax 23 false) s
/-- FMAX (R323). -/
def execFmax (c : Com) (d : Dst) (a b : Use Src) (s : State) : Host.Outcome State Fault Refusal := fop2 c Ctx.rm d a b (fun _ => fpMinMax 23 true) s

/-- FSQRT (R322). -/
def execFsqrt (c : Com) (f : FForm) (d : Dst) (a : Use Src) (s : State) : Host.Outcome State Fault Refusal :=
  issueFall .any c s fun s => do
    let m := formRm f s.cur
    let (x, s) ← readSrc s a.r
    writeFlags s d (fpSqrt 23 m (lo32 x))

/-- FCMP (R324). -/
def execFcmp (c : Com) (cond : Cond) (d : Dst) (a b : Use Src) (s : State) : Host.Outcome State Fault Refusal :=
  fop2 c Ctx.rm d a b (fun _ x y => let r := fpCmp 23 cond x y; (r.1.toNat, r.2)) s

/-- The result of a conversion as a 64-bit register value, and its flags (R325). -/
def fcvtVal (cv : FCvt) (rm : Rm) (a : Word) : Nat × Nat :=
  let ext (t : Ty) (r : Nat × Nat) : Nat × Nat := (bitsOf 64 (intOf t r.1), r.2)
  match cv with
  | .i32f => ext .i32 (convert .f32 .i32 rm false (lo32 a))
  | .z32f => convert .f32 .z32 rm false (lo32 a)
  | .i64f => convert .f32 .i64 rm false (lo32 a)
  | .fi32 => convert .i32 .f32 rm false (lo32 a)
  | .fz32 => convert .z32 .f32 rm false (lo32 a)
  | .fi64 => convert .i64 .f32 rm false a.toNat
  | .bff => convert .f32 .bf16 rm false (lo32 a)
  | .fbf => convert .bf16 .f32 rm false (a.toNat % 2 ^ 16)
  | .t8f => convert .f32 .t8 rm false (lo32 a)
  | .ft8 => convert .t8 .f32 rm false (a.toNat % 2 ^ 8)
  | .t6f => convert .f32 .t6 rm false (lo32 a)
  | .ft6 => convert .t6 .f32 rm false (a.toNat % 2 ^ 6)

/-- FCVT (R325). -/
def execFcvt (c : Com) (cv : FCvt) (f : FForm) (d : Dst) (a : Use Src) (s : State) : Host.Outcome State Fault Refusal :=
  issueFall .any c s fun s => do
    let m := formRm f s.cur
    let (x, s) ← readSrc s a.r
    writeFlags s d (fcvtVal cv m x)

end Sys2Proof.Machine
end

