-- ==== Sys2Proof/Machine/Supervise.lean ====
section
/-! DEFINITION. The ends of SPILL and RESTORE (R192 to R194, R244 to R247) and the leaf's instructions (R241, R242, R436, R437). -/

namespace Sys2Proof.Machine

/-! ### Saving (R192, R244, R245) -/

/-- Every posted count is zero, every reply has come, jobs stand at a burst boundary, queued work is done, and what epilogue stores remain are parked
(R193, R244). -/
def spillReady (s : State) (key : Nat) (n : Bool) : Bool :=
  let c := s.ctx key n
  let stopped := (s.cluster (clusterOf key)).jobs.filter fun j => j.stopped && j.key == key && j.ctx == n && j.area.isNone
  countsZero c && c.ask != .sent && !s.vecBusy key n && ((s.episOf key n).all fun e => e.parked)
    && (stopped.all fun j => j.todo.isEmpty && j.out.isEmpty) && !(s.groupOps.any fun o => o.key == key && o.ctx == n)
    && !(s.fabric.any fun r =>
      r.key == key && r.ctx == n && r.area.isNone && !r.dead && (match r.kind with | .record .. | .hold _ | .forkStart .. => false | _ => true))

/-- The state record: the map's words with VAC clear, and POIS when a saved granule met an error. -/
def recordBytes (s : State) (key : Nat) (n pois : Bool) : List Byte :=
  (List.range 256).flatMap fun i =>
    let o := 8 * i
    let w : Word :=
      if 0x700 ≤ o then 0
      else if o = 0x188 && pois then mapWord s key n o ||| BitVec.ofNat 64 flPOIS
      else mapWord s key n o
    bytesOfNat 8 w.toNat

/-- Granules saved, ascending: LIVE and KILLPEND ones (R193). -/
def savedGranules (c : Ctx) : List Nat := (List.range 1024).filter fun g => c.live.getLsbD g

/-- The register-store record (R192). -/
def storeRecord (s : State) (key : Nat) (n : Bool) : List Byte :=
  let c := s.ctx key n
  let data := readStore s key n ((savedGranules c).flatMap fun g => (List.range 64).map fun i => g * 64 + i)
  bytesOfNat 128 c.live.toNat ++ bytesOfNat 128 c.pend.toNat ++ data.1

/-- Uncorrectable errors met in the saved granules: their words that are poisoned (R94, R244). -/
def savedErrors (s : State) (key : Nat) (n : Bool) : Nat :=
  ((savedGranules (s.ctx key n)).flatMap fun g => (List.range 8).filter fun i => s.poisonAt (locRs key n (g * 64 + 8 * i))).length

/-- Words of an image, zero beyond them. -/
def imageBytes (ws : List Word) (room : Nat) : List Byte :=
  (List.range room).flatMap fun i => bytesOfNat 8 (ws.getD i 0).toNat

/-- The images of the inbox and the queues with their counts (R245): bytes 3,072 to 4,095. -/
def imagesOf (c : Ctx) : List Byte :=
  ((List.range 8).flatMap fun i => bytesOfNat 64 (c.inbox.getD i 0).toNat)
    ++ imageBytes c.q4 16 ++ imageBytes c.q5 16 ++ imageBytes c.q7 4
    ++ bytesOfNat 8 c.q4.length ++ bytesOfNat 8 c.q5.length ++ bytesOfNat 8 c.q7.length
    ++ bytesOfNat 8 (c.inbox.length + c.inboxRead * 2 ^ 8) ++ List.replicate 192 0

/-- Kind of a Ladle job in its descriptor (R409). -/
def jobKindNum : JobKind → Nat
  | .ldl => 0 | .ldl2d => 1 | _ => 2

/-- A job record (R247, R409). -/
def jobRecord (j : Job) : List Byte :=
  bytesOfNat 8 j.src.toNat ++ bytesOfNat 8 j.dst.toNat ++ bytesOfNat 8 j.sync.toNat ++ bytesOfNat 8 j.block.toNat
    ++ bytesOfNat 2 j.opx.toNat ++ bytesOfNat 2 j.evt.toNat ++ bytesOfNat 4 j.jobid.toNat ++ bytesOfNat 1 (jobKindNum j.kind)
    ++ List.replicate 7 0 ++ bytesOfNat 8 j.cursor ++ bytesOfNat 8 1

/-- Write bytes into a save area. -/
def putArea (s : State) (b : Nat) (bs : List Byte) : State := writePieces s true (pairsAt b bs)

/-- Change the context and the save area of everything under way elsewhere for contexts of a core. -/
def retag (s : State) (key : Nat) (f : Bool → Option Nat → Bool × Option Nat) : State :=
  let who (k : Nat) (c : Bool) (a : Option Nat) : Bool × Option Nat := if k == key then f c a else (c, a)
  let wtr (w : Waiter) : Waiter := { w with ctx := (who w.key w.ctx w.area).1, area := (who w.key w.ctx w.area).2 }
  let grp (g : Nat × Group) : Nat × Group := (g.1, { g.2 with waiters := g.2.waiters.map wtr })
  let rl (r : Release) : Release := { r with ctx := (who r.key r.ctx r.area).1, area := (who r.key r.ctx r.area).2 }
  let rf (r : PostRefusal) : PostRefusal := { r with ctx := (who r.key r.ctx r.area).1, area := (who r.key r.ctx r.area).2 }
  let jb (j : Job) : Job := { j with ctx := (who j.key j.ctx j.area).1, area := (who j.key j.ctx j.area).2 }
  let pr (q : Pour) : Pour := { q with ctx := (who q.key q.ctx q.area).1, area := (who q.key q.ctx q.area).2 }
  let fb (r : Req) : Req := { r with ctx := (who r.key r.ctx r.area).1, area := (who r.key r.ctx r.area).2 }
  let og (o : Outgoing) : Outgoing := { o with ctx := (f o.ctx o.area).1, area := (f o.ctx o.area).2 }
  let ep (e : Epi) : Epi :=
    if e.pos == posOf key && !e.dead then
      { e with op := { e.op with ctx := (f e.op.ctx e.area).1 }, area := (f e.op.ctx e.area).2
               asid := if e.area.isNone then (s.ctx key e.op.ctx).asid else e.asid }
    else e
  let s := { s with groups := s.groups.map grp, releases := s.releases.map rl, refusals := s.refusals.map rf
                    fabric := s.fabric.map fb, ports := s.ports.map fun (p : Port) => { p with pours := p.pours.map pr } }
  let s := (s.modCore key fun c => { c with outbound := c.outbound.map og }).modQuad (quadOf key) fun q => { q with epi := q.epi.map ep }
  s.modCluster (clusterOf key) fun c => { c with jobs := c.jobs.map jb }

/-- What is under way for a context belongs to its save area from now on (R244). -/
def tagArea (s : State) (key : Nat) (n : Bool) (b : Nat) : State := retag s key fun c a => if c == n && a.isNone then (c, some b) else (c, a)

/-- What is under way for the context of a save area belongs to slot n again (R246). -/
def untagArea (s : State) (key : Nat) (n : Bool) (b : Nat) : State := retag s key fun c a => if a == some b then (n, none) else (c, a)

/-- SPILL_COMPLETE (R244): the job records, the register store, the images, and the state record last; the slot is vacant. -/
def spillEnd (s : State) (key : Nat) (n : Bool) : State :=
  let c := s.ctx key n
  let b := saveBase s key n
  let js := (s.cluster (clusterOf key)).jobs.filter fun j => j.stopped && isLadle j && j.key == key && j.ctx == n && j.area.isNone
  let regs := storeRecord s key n
  let errs := savedErrors s key n
  let s := (js.zip (List.range 16)).foldl (fun s p => putArea s (b + 2048 + 64 * p.2) (jobRecord p.1)) s
  let s := putArea s (b + 4096) regs
  let s := putArea s (b + 3072) (imagesOf c)
  let s := putArea s b (recordBytes s key n (errs != 0))
  let s := (List.range errs).foldl (fun s _ => countUnc s .regStore) s
  let wait : PWait := match c.wait with | .waitw l o g v _ => .waitw l o g v [] | w => w
  let s := { s with monitors := s.monitors.filter fun m => !(m.2.1 == key && m.2.2 == n) }
  let s := tagArea (killStore s key n) key n b
  let s := s.modCtx key n fun c =>
    { c with st := .frozen, vac := true, inbox := [], inboxRead := 0, q4 := [], q5 := [], q7 := [], claim := none, wait := .none, ask := .none
             ending := .none, blocked := if n == (s.core key).active then max 1 c.blocked else 0, feArr := none, parked := none, popped := none }
  s.modCore key fun k => { k with spill := .none, shelf := tset k.shelf b { c with wait, place := placeOf key n } }

/-- The engine's accesses to granules of a store (R187, R188): their banks are FULL, or it waits for them. -/
def engineBanks (s : State) (key : Nat) (n : Bool) (gs : List Nat) : State × Bool :=
  let s := touchBanks s key (rsBank n) (granBanks gs)
  (s, banksFull (s.core key) (rsBank n) (granBanks gs))

/-- SPILL_COMPLETE. -/
def execSpillComplete (key : Nat) (s : State) : Host.Outcome State Fault Refusal :=
  .next (match (s.core key).spill with
    | .spill n =>
      if spillReady s key n then
        (let r := engineBanks s key n (savedGranules (s.ctx key n))
         if r.2 then spillEnd r.1 key n else r.1)
      else s
    | _ => s)

/-! ### Restoring (R194, R246) -/

/-- The location of a pending WAITW whose saved object has been changed: what the object names in the instruction's space (R343). -/
def waitLoc (s : State) (key : Nat) (x : Ctx) (obj old : Nat) : Nat :=
  match s.instrAt key x.waitPc with
  | some (.waitw _ _ m _) =>
    (match resolveBytes s (isFw key) key x.asid m.sel rdUse (addrRange obj 16) with | .ok (l :: _, _) => l | _ => old)
  | _ => old

/-- The pending wait that a saved word stands for in a context; what the word does not hold comes from the shelf. -/
def restoreWait (s : State) (key : Nat) (x : Ctx) (w : Word) (old : PWait) : PWait :=
  let code : Option Nat := if w.getLsbD 59 then some (bitsAt w 60 2) else none
  let obj := bitsAt w 0 48
  match bitsAt w 62 2 with
  | 1 => .group obj (match old with | .group _ st _ => st | _ => false) code
  | 2 =>
    (match old with
      | .waitw l o g v _ =>
        .waitw (if o.toNat % 2 ^ 48 = obj then l else waitLoc s key x obj l) (BitVec.ofNat 64 obj) g (if w.getLsbD 59 then v else none) []
      | _ => .none)
  | 3 => .waitg obj code
  | _ => .none

/-- n words of an area. -/
def areaWords (s : State) (a n : Nat) : List Word := (List.range n).map fun i => BitVec.ofNat 64 (s.readLE (a + 8 * i) 8)

/-- The binding table of a state record. -/
def savedBinds (s : State) (b : Nat) : List Binding :=
  (List.range 8).filterMap fun k =>
    let x := BitVec.ofNat 64 (s.readLE (b + 0x588 + 16 * k) 8)
    if x.getLsbD 63 then
      some { obj := BitVec.ofNat 64 (s.readLE (b + 0x580 + 16 * k) 8), osp := ospOf (bitsAt x 60 3), rsp := spaceOf (bitsAt x 57 3)
             base := BitVec.ofNat 64 (bitsAt x 0 57), sizeM1 := BitVec.ofNat 40 (s.readLE (b + 0x640 + 8 * k) 8) }
    else none

/-- The claim of a state record. -/
def savedClaim (s : State) (b : Nat) : Option Claim :=
  let w (j : Nat) : Word := BitVec.ofNat 64 (s.readLE (b + 0x290 + 8 * j) 8)
  if w 3 = 0 then none
  else some { slot := Fin.ofNat 4 (bitsAt (w 3) 2 2), t0 := w 0, t1 := w 1, mask := w 2, gen := BitVec.ofNat 16 (bitsAt (w 3) 16 16) }

/-- The context that an area gives a slot, before its store, its wait and its jobs. old: what the shelf holds of it. slot: the slot's own context, of
which the records that came while it was vacant stay, and the posted stores that are still counted (R158). -/
def savedContext (s : State) (key : Nat) (b : Nat) (n : Bool) (old slot : Ctx) (active : Bool) : Ctx :=
  let rd (o : Nat) : Word := BitVec.ofNat 64 (s.readLE (b + o) 8)
  let cst := rd 0x280
  let lp (o : Nat) : BitVec 15 := (rd o).setWidth 15
  let count : BitVec 32 := (rd 0x1A8).setWidth 32
  let mem (k : Nat) : Option (Nat × BitVec 16) :=
    let x := rd (0x500 + 8 * k)
    if x.getLsbD 63 then some (bitsAt x 0 12, BitVec.ofNat 16 (bitsAt x 12 16)) else none
  let cnt (o m : Nat) : Nat := min m (bitsAt (rd o) 0 5)
  let nin := min 8 (bitsAt (rd 3896) 0 4)
  { old with
    st := if bitsAt cst 0 3 = 3 then (if active then .running else .ready) else .frozen
    vac := false, fcode := BitVec.ofNat 8 (bitsAt cst 8 8), epip := cst.getLsbD 3
    pc := (rd 0x180).setWidth 15
    g := Vector.ofFn fun k => rd (8 * k.val)
    p := Vector.ofFn fun k => BitVec.ofNat 256 (s.readLE (b + 0x300 + 32 * k.val) 32)
    vw := Vector.ofFn fun k => cleanView (rd (0x200 + 8 * k.val))
    t := Vector.ofFn fun k => rd (0x1C0 + 8 * k.val)
    status := rd 0x188 &&& 0xE0FB, kid := BitVec.ofNat 32 (bitsAt (rd 0x190) 32 32), asid := BitVec.ofNat 16 (bitsAt (rd 0x190) 16 16)
    place := placeOf key n
    cap := (rd 0x198).setWidth 32
    loop := if count = 0 then none else some { count, start := lp 0x1B0, last := lp 0x1B8 }
    loopStart := if count = 0 then old.loopStart else lp 0x1B0
    loopLast := if count = 0 then old.loopLast else lp 0x1B8
    live := 0, pend := 0
    inbox := (List.range nin).map (fun i => BitVec.ofNat 512 (s.readLE (b + 3072 + 64 * i) 64)) ++ slot.inbox
    inboxRead := bitsAt (rd 3896) 8 3
    q4 := areaWords s (b + 3584) (cnt 3872 16), q5 := areaWords s (b + 3712) (cnt 3880 16), q7 := areaWords s (b + 3840) (cnt 3888 4)
    clu := slot.clu, mod := slot.mod, sys := slot.sys
    binds := savedBinds s b, members := Vector.ofFn fun k => mem k.val, claim := savedClaim s b
    packet := BitVec.ofNat 512 (s.readLE (b + 0x600) 64)
    feArr := none, parked := none, blocked := if active && bitsAt cst 0 3 ≠ 3 then 1 else 0, killing := false, popped := none }

/-- The granules of the register-store record in an area. -/
def recordGranules (s : State) (b : Nat) : List Nat :=
  let live : BitVec 1024 := BitVec.ofNat 1024 (s.readLE (b + 4096) 128)
  (List.range 1024).filter fun g => live.getLsbD g

/-- The register store of a record: the saved granules LIVE, those of the pending map KILLPEND (R194). Their banks are FULL. -/
def restoreStore (s : State) (key : Nat) (n : Bool) (b : Nat) : State :=
  let live : BitVec 1024 := BitVec.ofNat 1024 (s.readLE (b + 4096) 128)
  let pend : BitVec 1024 := BitVec.ofNat 1024 (s.readLE (b + 4224) 128)
  let gs := recordGranules s b
  let ps := (gs.zip (List.range gs.length)).flatMap fun p => (List.range 64).map fun i => (p.1 * 64 + i, s.byteAt (b + 4352 + 64 * p.2 + i))
  (writeStore (killStore s key n) key n ps).modCtx key n fun c => { c with pend := pend &&& live }

/-- A job that a restore resumes from its cursor (R247). -/
def resumeJob (s : State) (key : Nat) (b i : Nat) : State :=
  match recordJob s key b i with
  | some (some j) => modJob s (clusterOf key) j.id fun j => { j with stopped := false, cursor := s.readLE (b + 2048 + 64 * i + 48) 8 }
  | _ => s

/-- A pending WAITW is armed again (R246): its condition is evaluated anew. -/
def rearm (s : State) (key : Nat) (n : Bool) : State :=
  match (s.ctx key n).wait with
  | .waitw loc _ g none _ =>
    if (match spmOfLoc loc with | some (k, _) => k == key | none => false) then armStep s key n loc
    else sendReq s (reqOf key n (.arm loc g) loc none)
  | _ => s

/-- RESTORE_COMPLETE (R246): slot n is refilled from its area; what was under way for the spilled context is its own again. -/
def restoreEnd (s : State) (key : Nat) (n : Bool) : State :=
  let k := s.core key
  let b := saveBase s key n
  let m := savedCtx s b
  let src := areaFrom s key b
  let old : Ctx := tget { task := { active := true } } k.shelf src
  let x := savedContext s key b n old (s.ctx key n) (n == k.active)
  let x := { x with wait := restoreWait s key x (BitVec.ofNat 64 (s.readLE (b + 0x288) 8)) old.wait }
  let s := (List.range 16).foldl (fun s i => resumeJob s key b i) s
  let s := untagArea (restoreStore (s.setCtx key n x) key n b) key n src
  let s := if m == n then s else s.modCtx key m fun c => { inbox := c.inbox, clu := c.clu, mod := c.mod, sys := c.sys }
  let s := s.modCore key fun c => { c with spill := .none, shelf := c.shelf.filter fun e => e.1 ≠ src }
  offerSwap (serveInbox (settleAway (rearm s key n) key n) key m) key

/-- RESTORE_COMPLETE: the banks that the saved granules go to are FULL, or the engine waits for them (R188, R194). -/
def execRestoreComplete (key : Nat) (s : State) : Host.Outcome State Fault Refusal :=
  .next (match (s.core key).spill with
    | .restore n =>
      (let r := engineBanks s key n (recordGranules s (saveBase s key n))
       if r.2 then restoreEnd r.1 key n else r.1)
    | _ => s)

/-! ### RESUME, REDIR and KILL (R241, R242) -/

/-- A context that RESUME and REDIR may name. -/
def canResume (s : State) (key : Nat) (n : Bool) : Bool := (s.ctx key n).st == .frozen && !(s.ctx key n).vac

/-- A context goes on: its parked epilogue stores are sent again. -/
def resumeCtx (s : State) (key : Nat) (n : Bool) : State :=
  let mine (e : Epi) : Epi := if epiIs key n e then { e with parked := false } else e
  let s := s.modQuad (quadOf key) fun q => { q with epi := q.epi.map mine }
  let s := unfreeze (s.modCtx key n fun c => { c with epip := false }) key n
  offerSwap (advanceEpi s (quadOf key)) key

/-- The parked epilogue stores of a context are abandoned, and their pending kills applied at once (R185, R241). -/
def abandonEpi (s : State) (key : Nat) (n : Bool) : State :=
  let es := (s.episOf key n).filter (·.parked)
  let s := es.foldl (fun s e => killGranules s key n (maskGranules e.kill)) s
  s.modQuad (quadOf key) fun q => { q with epi := q.epi.filter fun e => !(e.parked && epiIs key n e) }

/-- A context goes on elsewhere: the instruction that had not completed does not, but its wait or its reply stays (R241, R327; log entry 23). The steps
that END or JOINC had still to make are not made. -/
def leaveInstr (s : State) (key : Nat) (n : Bool) : State :=
  s.modCtx key n fun c =>
    { c with ending := .none, ask := match c.ending with | .joinSent .. => .none | _ => c.ask }

/-- REDIR. -/
def redirCtx (s : State) (key : Nat) (n : Bool) (pc : BitVec 15) (drop : Bool) : State :=
  let s := if pc = (s.ctx key n).pc then s else leaveInstr s key n
  let s := if drop then abandonEpi s key n else s
  resumeCtx (settleAway (s.modCtx key n fun c => { c with pc }) key n) key n

/-- The leaf's last command was refused, or not. -/
def noteCmd (s : State) (err : Bool) : State := s.modCluster s.myCluster fun c => { c with cmdErr := err }

/-! ### The leaf's instructions (R436, R437) -/

/-- A supervision instruction: only a leaf controller has contexts to supervise. -/
def superv (c : Com) (s : State) (m : State → Exec State) : Host.Outcome State Fault Refusal :=
  issueFall .leaf c s fun s => do
    raiseIf (s.focus == globalKey) fIllop
    m s

/-- A debug address: core, context, register store or map, and offset (R236). -/
def debugAddr (s : State) (a : Use Src) : Exec (Nat × Nat × Bool × State) := do
  let (x, s) ← readSrc s a.r
  raiseIf (decide (2 ^ 24 ≤ x.toNat)) (fBound x.toNat 0)
  return (x.toNat, coreAt s.myCluster (bitsAt x 18 6), x.getLsbD 17, s)

/-- The banks of a register-store access of the leaf are FULL, or the leaf waits for them (R188, R240). -/
def debugBanks (s : State) (key : Nat) (n : Bool) (gs : List Nat) : Exec State :=
  let wake (s : State) : State := touchBanks s key (rsBank n) (granBanks gs)
  let t := wake s
  if banksFull (t.core key) (rsBank n) (granBanks gs) then .ok t else .error (.wait wake)

/-- DBGRD (R236, R237, R240): a DEAD granule reads zero. -/
def execDbgrd (c : Com) (d : Dst) (a : Use Src) (s : State) : Host.Outcome State Fault Refusal :=
  superv c s fun s => do
    let (x, key, n, s) ← debugAddr s a
    raiseIf (x % 8 ≠ 0) (fAlign x 0)
    let o := x % 2 ^ 16
    let away := (s.ctx key n).st == .frozen
    if x / 2 ^ 16 % 2 = 1 then
      if away && (s.ctx key n).live.getLsbD (o / 64) then
        let s ← debugBanks s key n [o / 64]
        writeDst s d (BitVec.ofNat 64 (s.readLE (locRs key n o) 8))
      else writeDst s d 0
    else if 0x800 ≤ o then writeDst s d 0
    else if 0x700 ≤ o then writeDst s d (coreWord (s.core key) o)
    else writeDst s d (if away then mapWord s key n o else 0)

/-- DBGWR (R236, R237, R240): a KILLPEND granule ignores it. -/
def execDbgwr (c : Com) (d : Src) (a : Use Src) (s : State) : Host.Outcome State Fault Refusal :=
  superv c s fun s => do
    let (x, key, n, s) ← debugAddr s a
    let (v, s) ← readSrc s d
    raiseIf (x % 8 ≠ 0) (fAlign x 0)
    let o := x % 2 ^ 16
    let away := (s.ctx key n).st == .frozen
    if x / 2 ^ 16 % 2 = 1 then
      if away && !(s.ctx key n).pend.getLsbD (o / 64) then
        let s ← debugBanks s key n [o / 64]
        return writeStore s key n ((List.range 8).zipWith (fun i b => (o + i, b)) (bytesOfNat 8 v.toNat))
      else return s
    else if 0x800 ≤ o then return s
    else if 0x700 ≤ o then
      waitFor (o ≠ 0x708 || !((s.ctx key false).killing || (s.ctx key true).killing))
      return coreWrite s key o v
    else if away then
      let s ← debugBanks s key n (if 0x400 ≤ o && o < 0x480 then bornGranules s key n ((o - 0x400) / 8) v else [])
      return mapWrite s key n o v
    else return s

/-- A command on a context: it waits for a KILL that has not ended, and while a SPILL or RESTORE works on the context (log entry 22; a KILL ends a
SPILL and waits for none), and D says whether it was refused. -/
def command (s : State) (d : Dst) (key : Nat) (n kill allowed : Bool) (f : State → State) : Exec State := do
  waitFor (!(s.ctx key n).killing && !(spillOn (s.core key) n && !(kill && (s.core key).spill == .spill n)))
  if allowed then writeDst (noteCmd (f s) false) d 0 else writeDst (noteCmd s true) d 1

/-- RESUME. -/
def execResume (c : Com) (d : Dst) (a : Use Src) (s : State) : Host.Outcome State Fault Refusal :=
  superv c s fun s => do
    let (_, key, n, s) ← debugAddr s a
    command s d key n false (canResume s key n) fun s => resumeCtx s key n

/-- REDIR. -/
def execRedir (c : Com) (d : Dst) (a b : Use Src) (drop : Bool) (s : State) : Host.Outcome State Fault Refusal :=
  superv c s fun s => do
    let (_, key, n, s) ← debugAddr s a
    let (y, s) ← readSrc s b.r
    command s d key n false (canResume s key n) fun s => redirCtx s key n (codeAddr y) drop

/-- KILL. -/
def execKill (c : Com) (d : Dst) (a : Use Src) (s : State) : Host.Outcome State Fault Refusal :=
  superv c s fun s => do
    let (_, key, n, s) ← debugAddr s a
    command s d key n true ((s.ctx key n).st != .idle && !(s.ctx key n).vac) fun s => killCtx s key n

/-- FWAIT (R437): blocked while the leaf's fault queue is empty. -/
def execFwait (c : Com) (d : Dst) (a : Use Src) (off : BitVec 24) (s : State) : Host.Outcome State Fault Refusal :=
  superv c s fun s => do
    let (x, s) ← readSrc s a.r
    memReady s
    let at_ := addrPlus x off.toInt
    raiseIf (decide (0x10000 < at_ + 64)) (fBound at_ 1)
    raiseIf (at_ % 64 ≠ 0) (fAlign at_ 1)
    match (s.cluster s.myCluster).faults with
    | [] => blocking
    | p :: rest =>
      let s := s.modCluster s.myCluster fun c => { c with faults := rest }
      let s := performWrite s true (pairsAt (locSpm s.focus at_) (bytesOfNat 64 p.toNat))
      writeDst s d (BitVec.ofNat 64 rest.length)

end Sys2Proof.Machine
end

