-- ==== Sys2Proof/Machine/Dispatch.lean ====
section
/-! DEFINITION. One arm per constructor: the meaning of each instruction and of each step of another agent. -/

namespace Sys2Proof.Machine

/-- What an instruction does for the agent in focus, or what a step of another agent does. -/
def exec (i : Instr) (s : State) : Host.Outcome State Fault Refusal :=
  match i with
  -- group 0, control
  | .nop c l => Sys2Proof.Machine.execNop c l s
  | .br c imm => Sys2Proof.Machine.execBr c imm s
  | .brc c cond a b imm => Sys2Proof.Machine.execBrc c cond a b imm s
  | .brz c a imm => Sys2Proof.Machine.execBrz c a imm s
  | .brnz c a imm => Sys2Proof.Machine.execBrnz c a imm s
  | .brpAny c a imm => Sys2Proof.Machine.execBrpAny c a imm s
  | .brpAll c a imm => Sys2Proof.Machine.execBrpAll c a imm s
  | .call c imm => Sys2Proof.Machine.execCall c imm s
  | .callr c a => Sys2Proof.Machine.execCallr c a s
  | .ret c => Sys2Proof.Machine.execRet c s
  | .jmpr c a => Sys2Proof.Machine.execJmpr c a s
  | .loop c a imm => Sys2Proof.Machine.execLoop c a imm s
  | .end_ c => Sys2Proof.Machine.execEnd c s
  | .trap c code => Sys2Proof.Machine.execTrap c code s
  | .brk c => Sys2Proof.Machine.execBrk c s
  -- group 1, integer and scalar float
  | .add c d a b => Sys2Proof.Machine.execAdd c d a b s
  | .sub c d a b => Sys2Proof.Machine.execSub c d a b s
  | .and c d a b => Sys2Proof.Machine.execAnd c d a b s
  | .or c d a b => Sys2Proof.Machine.execOr c d a b s
  | .xor c d a b => Sys2Proof.Machine.execXor c d a b s
  | .andn c d a b => Sys2Proof.Machine.execAndn c d a b s
  | .shl c d a b => Sys2Proof.Machine.execShl c d a b s
  | .shr c d a b => Sys2Proof.Machine.execShr c d a b s
  | .sra c d a b => Sys2Proof.Machine.execSra c d a b s
  | .rotl c d a b => Sys2Proof.Machine.execRotl c d a b s
  | .min c d a b => Sys2Proof.Machine.execMin c d a b s
  | .max c d a b => Sys2Proof.Machine.execMax c d a b s
  | .minz c d a b => Sys2Proof.Machine.execMinz c d a b s
  | .maxz c d a b => Sys2Proof.Machine.execMaxz c d a b s
  | .addi c d a imm => Sys2Proof.Machine.execAddi c d a imm s
  | .andi c d a imm => Sys2Proof.Machine.execAndi c d a imm s
  | .ori c d a imm => Sys2Proof.Machine.execOri c d a imm s
  | .xori c d a imm => Sys2Proof.Machine.execXori c d a imm s
  | .shli c d a n => Sys2Proof.Machine.execShli c d a n s
  | .shri c d a n => Sys2Proof.Machine.execShri c d a n s
  | .srai c d a n => Sys2Proof.Machine.execSrai c d a n s
  | .mul c d a b => Sys2Proof.Machine.execMul c d a b s
  | .mulh c d a b => Sys2Proof.Machine.execMulh c d a b s
  | .mulhz c d a b => Sys2Proof.Machine.execMulhz c d a b s
  | .div c d a b => Sys2Proof.Machine.execDiv c d a b s
  | .divz c d a b => Sys2Proof.Machine.execDivz c d a b s
  | .rem c d a b => Sys2Proof.Machine.execRem c d a b s
  | .remz c d a b => Sys2Proof.Machine.execRemz c d a b s
  | .clz c d a => Sys2Proof.Machine.execClz c d a s
  | .ctz c d a => Sys2Proof.Machine.execCtz c d a s
  | .popc c d a => Sys2Proof.Machine.execPopc c d a s
  | .sext c d a n => Sys2Proof.Machine.execSext c d a n s
  | .zext c d a n => Sys2Proof.Machine.execZext c d a n s
  | .sel c d a b x => Sys2Proof.Machine.execSel c d a b x s
  | .setc c cond d a b => Sys2Proof.Machine.execSetc c cond d a b s
  | .li24 c d imm => Sys2Proof.Machine.execLi24 c d imm s
  | .li32 c d sh32 imm => Sys2Proof.Machine.execLi32 c d sh32 imm s
  | .li64 c d imm => Sys2Proof.Machine.execLi64 c d imm s
  | .lea c sc d a b off => Sys2Proof.Machine.execLea c sc d a b off s
  | .bfx c d a pos len => Sys2Proof.Machine.execBfx c d a pos len s
  | .bfi c d a pos len => Sys2Proof.Machine.execBfi c d a pos len s
  | .fadd c f d a b => Sys2Proof.Machine.execFadd c f d a b s
  | .fsub c f d a b => Sys2Proof.Machine.execFsub c f d a b s
  | .fmul c f d a b => Sys2Proof.Machine.execFmul c f d a b s
  | .ffma c r d a b x => Sys2Proof.Machine.execFfma c r d a b x s
  | .fmin c d a b => Sys2Proof.Machine.execFmin c d a b s
  | .fmax c d a b => Sys2Proof.Machine.execFmax c d a b s
  | .fsqrt c f d a => Sys2Proof.Machine.execFsqrt c f d a s
  | .fcmp c cond d a b => Sys2Proof.Machine.execFcmp c cond d a b s
  | .fcvt c cv f d a => Sys2Proof.Machine.execFcvt c cv f d a s
  -- group 2, memory and remote
  | .ld c k d m => Sys2Proof.Machine.execLd c k d m s
  | .st c k d m => Sys2Proof.Machine.execSt c k d m s
  | .ldw c d m => Sys2Proof.Machine.execLdw c d m s
  | .lde c d m => Sys2Proof.Machine.execLde c d m s
  | .stw c d m => Sys2Proof.Machine.execStw c d m s
  | .stf c d m => Sys2Proof.Machine.execStf c d m s
  | .fesetE c m => Sys2Proof.Machine.execFesetE c m s
  | .fesetF c m => Sys2Proof.Machine.execFesetF c m s
  | .put c d a sel len => Sys2Proof.Machine.execPut c d a sel len s
  | .get c d a sel len => Sys2Proof.Machine.execGet c d a sel len s
  | .putsig c d a x sel ssp len => Sys2Proof.Machine.execPutsig c d a x sel ssp len s
  | .radd c d m => Sys2Proof.Machine.execRadd c d m s
  | .bind c d a sizeM1 rsp osp => Sys2Proof.Machine.execBind c d a sizeM1 rsp osp s
  | .unbind c a osp => Sys2Proof.Machine.execUnbind c a osp s
  | .acq c a osp => Sys2Proof.Machine.execAcq c a osp s
  | .rel c a osp => Sys2Proof.Machine.execRel c a osp s
  | .fence p sc => Sys2Proof.Machine.execFence p sc s
  | .cntw c k n => Sys2Proof.Machine.execCntw c k n s
  | .stage c a => Sys2Proof.Machine.execStage c a s
  -- group 3, atomic and synchronisation
  | .amo c op w64 d m x => Sys2Proof.Machine.execAmo c op w64 d m x s
  | .amoCas c w64 d m x n => Sys2Proof.Machine.execAmoCas c w64 d m x n s
  | .amofAdd c d m x => Sys2Proof.Machine.execAmofAdd c d m x s
  | .grpnew c d => Sys2Proof.Machine.execGrpnew c d s
  | .grpinit c a id => Sys2Proof.Machine.execGrpinit c a id s
  | .grpfree c a id => Sys2Proof.Machine.execGrpfree c a id s
  | .join c d a id => Sys2Proof.Machine.execJoin c d a id s
  | .leave c a id => Sys2Proof.Machine.execLeave c a id s
  | .sync c d a id => Sys2Proof.Machine.execSync c d a id s
  | .sstep c d a id => Sys2Proof.Machine.execSstep c d a id s
  | .swarm c d m x => Sys2Proof.Machine.execSwarm c d m x s
  | .waitw c d m x => Sys2Proof.Machine.execWaitw c d m x s
  | .waitg c d a id => Sys2Proof.Machine.execWaitg c d a id s
  | .forkr c sc d a b x drop qm1 lim entry cont => Sys2Proof.Machine.execForkr c sc d a b x drop qm1 lim entry cont s
  | .joinc c a off => Sys2Proof.Machine.execJoinc c a off s
  | .qpoll c d k => Sys2Proof.Machine.execQpoll c d k s
  | .msg c a off => Sys2Proof.Machine.execMsg c a off s
  -- group 4, vector
  | .vwsetReg wt d a => Sys2Proof.Machine.execVwsetReg wt d a s
  | .vwsetImm wt d imm => Sys2Proof.Machine.execVwsetImm wt d imm s
  | .vwadv wt d a => Sys2Proof.Machine.execVwadv wt d a s
  | .vld c ty d m => Sys2Proof.Machine.execVld c ty d m s
  | .vst c ty d m => Sys2Proof.Machine.execVst c ty d m s
  | .vldl c ty d a off idx => Sys2Proof.Machine.execVldl c ty d a off idx s
  | .vstl c ty d a off idx => Sys2Proof.Machine.execVstl c ty d a off idx s
  | .vgath c ty d m x sc => Sys2Proof.Machine.execVgath c ty d m x sc s
  | .vscat c ty d m x sc => Sys2Proof.Machine.execVscat c ty d m x sc s
  | .vadd c ty d a b x => Sys2Proof.Machine.execVadd c ty d a b x s
  | .vsub c ty d a b x => Sys2Proof.Machine.execVsub c ty d a b x s
  | .vmul c ty d a b x => Sys2Proof.Machine.execVmul c ty d a b x s
  | .vmin c ty d a b => Sys2Proof.Machine.execVmin c ty d a b s
  | .vmax c ty d a b => Sys2Proof.Machine.execVmax c ty d a b s
  | .vabs c ty d a sat => Sys2Proof.Machine.execVabs c ty d a sat s
  | .vneg c ty d a sat => Sys2Proof.Machine.execVneg c ty d a sat s
  | .vfma c ty d a b z x => Sys2Proof.Machine.execVfma c ty d a b z x s
  | .vand c ty d a b => Sys2Proof.Machine.execVand c ty d a b s
  | .vor c ty d a b => Sys2Proof.Machine.execVor c ty d a b s
  | .vxor c ty d a b => Sys2Proof.Machine.execVxor c ty d a b s
  | .vandn c ty d a b => Sys2Proof.Machine.execVandn c ty d a b s
  | .vshl c ty d a b => Sys2Proof.Machine.execVshl c ty d a b s
  | .vshr c ty d a b => Sys2Proof.Machine.execVshr c ty d a b s
  | .vsra c ty d a b => Sys2Proof.Machine.execVsra c ty d a b s
  | .vcmp c cond ty d a b => Sys2Proof.Machine.execVcmp c cond ty d a b s
  | .vsel c ty d a b x => Sys2Proof.Machine.execVsel c ty d a b x s
  | .vcvt c ty d a src part x => Sys2Proof.Machine.execVcvt c ty d a src part x s
  | .vbcast c ty d a => Sys2Proof.Machine.execVbcast c ty d a s
  | .vext wt ty a idx => Sys2Proof.Machine.execVext wt ty a idx s
  | .vred c op ty a r => Sys2Proof.Machine.execVred c op ty a r s
  | .vscan c op ty d a x => Sys2Proof.Machine.execVscan c op ty d a x s
  | .vwadd c ty d a b part wb x => Sys2Proof.Machine.execVwadd c ty d a b part wb x s
  | .vwmul c ty d a b part wb x => Sys2Proof.Machine.execVwmul c ty d a b part wb x s
  | .vdot c ty d a b x => Sys2Proof.Machine.execVdot c ty d a b x s
  | .vperm c ty d a b => Sys2Proof.Machine.execVperm c ty d a b s
  | .vshuf c ty d a b mode => Sys2Proof.Machine.execVshuf c ty d a b mode s
  | .vslide c ty d a b is => Sys2Proof.Machine.execVslide c ty d a b is s
  | .vpand c ty d a b => Sys2Proof.Machine.execVpand c ty d a b s
  | .vpor c ty d a b => Sys2Proof.Machine.execVpor c ty d a b s
  | .vpnot c ty d a => Sys2Proof.Machine.execVpnot c ty d a s
  | .vpcnt c ty a => Sys2Proof.Machine.execVpcnt c ty a s
  | .vbs wt ty d a w16 r => Sys2Proof.Machine.execVbs wt ty d a w16 r s
  | .vunbs c ty d a w16 => Sys2Proof.Machine.execVunbs c ty d a w16 s
  | .vrcp c ty d a r => Sys2Proof.Machine.execVrcp c ty d a r s
  | .vrsq c ty d a r => Sys2Proof.Machine.execVrsq c ty d a r s
  | .vexp2 c ty d a r => Sys2Proof.Machine.execVexp2 c ty d a r s
  -- group 5, matrix
  | .mbsetReg wt d a => Sys2Proof.Machine.execMbsetReg wt d a s
  | .mbsetImm wt d imm => Sys2Proof.Machine.execMbsetImm wt d imm s
  | .mbld c ty d m x => Sys2Proof.Machine.execMbld c ty d m x s
  | .mma c ty d a b ov bs => Sys2Proof.Machine.execMma c ty d a b ov bs s
  | .mmaRa c ty d a b ov shape sp => Sys2Proof.Machine.execMmaRa c ty d a b ov shape sp s
  | .mmar c ty d a b ov bs => Sys2Proof.Machine.execMmar c ty d a b ov bs s
  | .mzero c ty d => Sys2Proof.Machine.execMzero c ty d s
  | .mtld c ty d m x ev hi => Sys2Proof.Machine.execMtld c ty d m x ev hi s
  | .mtldRb c ty d m x ev hi => Sys2Proof.Machine.execMtldRb c ty d m x ev hi s
  | .mepi96 c ty acc base sel off cols r => Sys2Proof.Machine.execMepi96 c ty acc base sel off cols r s
  | .mepi128 c ty acc base sel scale pitch cols r => Sys2Proof.Machine.execMepi128 c ty acc base sel scale pitch cols r s
  | .macc c ty d a sat => Sys2Proof.Machine.execMacc c ty d a sat s
  | .mwait c => Sys2Proof.Machine.execMwait c s
  -- group 6, engines and Runner
  | .ldl c o len evt => Sys2Proof.Machine.execLdl c o len evt s
  | .ldl2d c o rowlen nrows spitch dpitch => Sys2Proof.Machine.execLdl2d c o rowlen nrows spitch dpitch s
  | .ldlz c d b x dsp ysp q5 len => Sys2Proof.Machine.execLdlz c d b x dsp ysp q5 len s
  | .ewait c a => Sys2Proof.Machine.execEwait c a s
  | .ewaitN c n => Sys2Proof.Machine.execEwaitN c n s
  | .rarm c port => Sys2Proof.Machine.execRarm c port s
  | .rpourInt c o ty => Sys2Proof.Machine.execRpourInt c o ty s
  | .rpourBs c o bs8 => Sys2Proof.Machine.execRpourBs c o bs8 s
  | .rskim c o => Sys2Proof.Machine.execRskim c o s
  | .rbcast c o root => Sys2Proof.Machine.execRbcast c o root s
  | .rstat c d port grp => Sys2Proof.Machine.execRstat c d port grp s
  | .rdisarm c port grp => Sys2Proof.Machine.execRdisarm c port grp s
  -- group 7, system, pattern and bank
  | .srd c d n => Sys2Proof.Machine.execSrd c d n s
  | .swr c n a => Sys2Proof.Machine.execSwr c n a s
  | .tbr c d => Sys2Proof.Machine.execTbr c d s
  | .pmcr c d a k clr => Sys2Proof.Machine.execPmcr c d a k clr s
  | .take c => Sys2Proof.Machine.execTake c s
  | .doneg c a => Sys2Proof.Machine.execDoneg c a s
  | .yieldt c a => Sys2Proof.Machine.execYieldt c a s
  | .patr c d slot reg sh => Sys2Proof.Machine.execPatr c d slot reg sh s
  | .patw c slot reg a => Sys2Proof.Machine.execPatw c slot reg a s
  | .patwC c slot reg a => Sys2Proof.Machine.execPatwC c slot reg a s
  | .prevoke c slot a => Sys2Proof.Machine.execPrevoke c slot a s
  | .bkwake c a k => Sys2Proof.Machine.execBkwake c a k s
  | .bkhold c a k => Sys2Proof.Machine.execBkhold c a k s
  | .bkoff c a k => Sys2Proof.Machine.execBkoff c a k s
  | .bkstat c d k => Sys2Proof.Machine.execBkstat c d k s
  | .spkill c d a off => Sys2Proof.Machine.execSpkill c d a off s
  | .swap c => Sys2Proof.Machine.execSwap c s
  | .halt c => Sys2Proof.Machine.execHalt c s
  | .dbgrd c d a => Sys2Proof.Machine.execDbgrd c d a s
  | .dbgwr c d a => Sys2Proof.Machine.execDbgwr c d a s
  | .resume c d a => Sys2Proof.Machine.execResume c d a s
  | .redir c d a b drop => Sys2Proof.Machine.execRedir c d a b drop s
  | .kill c d a => Sys2Proof.Machine.execKill c d a s
  | .fwait c d a off => Sys2Proof.Machine.execFwait c d a off s
  -- words that are no instruction
  | .unassignedOpcode raw => Sys2Proof.Machine.execUnassignedOpcode raw s
  | .zeroedWordFetch raw => Sys2Proof.Machine.execZeroedWordFetch raw s
  -- steps of the other agents
  | .moduleReset => Sys2Proof.Machine.execModuleReset s
  | .wipeComplete => Sys2Proof.Machine.execWipeComplete s
  | .fwlockWrite v => Sys2Proof.Machine.execFwlockWrite v s
  | .bootGo fw => Sys2Proof.Machine.execBootGo fw s
  | .featAccLower v => Sys2Proof.Machine.execFeatAccLower v s
  | .featAccUpper v => Sys2Proof.Machine.execFeatAccUpper v s
  | .attestRequest v => Sys2Proof.Machine.execAttestRequest v s
  | .attestReportDone => Sys2Proof.Machine.execAttestReportDone s
  | .lifecycleChange v => Sys2Proof.Machine.execLifecycleChange v s
  | .alarmTamper => Sys2Proof.Machine.execAlarmTamper s
  | .alarmGlitch => Sys2Proof.Machine.execAlarmGlitch s
  | .overTemperatureHalt => Sys2Proof.Machine.execOverTemperatureHalt s
  | .supplyFault => Sys2Proof.Machine.execSupplyFault s
  | .thermalThrottle cl => Sys2Proof.Machine.execThermalThrottle cl s
  | .thermalThrottleEnd cl => Sys2Proof.Machine.execThermalThrottleEnd cl s
  | .currentThrottle dom => Sys2Proof.Machine.execCurrentThrottle dom s
  | .currentThrottleEnd dom => Sys2Proof.Machine.execCurrentThrottleEnd dom s
  | .slewExceed dom => Sys2Proof.Machine.execSlewExceed dom s
  | .errorCorrected u => Sys2Proof.Machine.execErrorCorrected u s
  | .poisonMark u addr => Sys2Proof.Machine.execPoisonMark u addr s
  | .hostMemAccess wr addr len data => Sys2Proof.Machine.execHostMemAccess wr addr len data s
  | .queueRecordCheck q => Sys2Proof.Machine.execQueueRecordCheck q s
  | .queueDisable q => Sys2Proof.Machine.execQueueDisable q s
  | .counterReadClear off => Sys2Proof.Machine.execCounterReadClear off s
  | .registerWrite off v => Sys2Proof.Machine.execRegisterWrite off v s
  | .eventArm v => Sys2Proof.Machine.execEventArm v s
  | .eventFree id => Sys2Proof.Machine.execEventFree id s
  | .eventSignal id => Sys2Proof.Machine.execEventSignal id s
  | .holdStoreIntake k => Sys2Proof.Machine.execHoldStoreIntake k s
  | .heldRelease id => Sys2Proof.Machine.execHeldRelease id s
  | .commandLinkMessage link toLeaf m => Sys2Proof.Machine.execCommandLinkMessage link toLeaf m s
  | .permitReturn link toLeaf n => Sys2Proof.Machine.execPermitReturn link toLeaf n s
  | .recordArrival k => Sys2Proof.Machine.execRecordArrival k s
  | .istloadCopy k => Sys2Proof.Machine.execIstloadCopy k s
  | .outboundRecordSend key => Sys2Proof.Machine.execOutboundRecordSend key s
  | .msgAdmissionRefused k => Sys2Proof.Machine.execMsgAdmissionRefused k s
  | .laneGroupGrant quad => Sys2Proof.Machine.execLaneGroupGrant quad s
  | .mxuGrant quad => Sys2Proof.Machine.execMxuGrant quad s
  | .quadwWrite quad v => Sys2Proof.Machine.execQuadwWrite quad v s
  | .engshrWrite tower v => Sys2Proof.Machine.execEngshrWrite tower v s
  | .autoSwap key => Sys2Proof.Machine.execAutoSwap key s
  | .contextSwap key => Sys2Proof.Machine.execContextSwap key s
  | .groupOpApply k => Sys2Proof.Machine.execGroupOpApply k s
  | .groupRelease k => Sys2Proof.Machine.execGroupRelease k s
  | .groupRefusalReturn k => Sys2Proof.Machine.execGroupRefusalReturn k s
  | .sstepRelease k => Sys2Proof.Machine.execSstepRelease k s
  | .rampStep quad => Sys2Proof.Machine.execRampStep quad s
  | .podBarrierCensus row => Sys2Proof.Machine.execPodBarrierCensus row s
  | .domainSwitch cl => Sys2Proof.Machine.execDomainSwitch cl s
  | .domainSwitchEnd cl => Sys2Proof.Machine.execDomainSwitchEnd cl s
  | .frequencyRequest dom v => Sys2Proof.Machine.execFrequencyRequest dom v s
  | .voltageTargetReached dom => Sys2Proof.Machine.execVoltageTargetReached dom s
  | .timebaseLoad cl => Sys2Proof.Machine.execTimebaseLoad cl s
  | .timebaseSteer offs => Sys2Proof.Machine.execTimebaseSteer offs s
  | .portEnable p v => Sys2Proof.Machine.execPortEnable p v s
  | .portDisable p => Sys2Proof.Machine.execPortDisable p s
  | .calibration p => Sys2Proof.Machine.execCalibration p s
  | .calibrationComplete p m => Sys2Proof.Machine.execCalibrationComplete p m s
  | .rwlimWrite p v => Sys2Proof.Machine.execRwlimWrite p v s
  | .rwlimAdopt p v => Sys2Proof.Machine.execRwlimAdopt p v s
  | .alignError p aerr => Sys2Proof.Machine.execAlignError p aerr s
  | .driftStep p aerr => Sys2Proof.Machine.execDriftStep p aerr s
  | .probeSlot p data ctl => Sys2Proof.Machine.execProbeSlot p data ctl s
  | .clockLoss p => Sys2Proof.Machine.execClockLoss p s
  | .clockRelock p => Sys2Proof.Machine.execClockRelock p s
  | .laserWakeDone p g => Sys2Proof.Machine.execLaserWakeDone p g s
  | .laserWakeFail p g => Sys2Proof.Machine.execLaserWakeFail p g s
  | .laserHoldExpire p g => Sys2Proof.Machine.execLaserHoldExpire p g s
  | .rplasWrite p v => Sys2Proof.Machine.execRplasWrite p v s
  | .groupEntryInvalidate p n => Sys2Proof.Machine.execGroupEntryInvalidate p n s
  | .pourAnnounceStart p n => Sys2Proof.Machine.execPourAnnounceStart p n s
  | .pourEdgesSatisfied p n seq => Sys2Proof.Machine.execPourEdgesSatisfied p n seq s
  | .announcement p => Sys2Proof.Machine.execAnnouncement p s
  | .announcementCycleEnd p r0 r1 r2 r3 => Sys2Proof.Machine.execAnnouncementCycleEnd p r0 r1 r2 r3 s
  | .rolltoExpire p n => Sys2Proof.Machine.execRolltoExpire p n s
  | .roundFrame p f => Sys2Proof.Machine.execRoundFrame p f s
  | .skimFrame p f => Sys2Proof.Machine.execSkimFrame p f s
  | .pourComplete p n seq => Sys2Proof.Machine.execPourComplete p n seq s
  | .takeResume key => Sys2Proof.Machine.execTakeResume key s
  | .seam cl slot => Sys2Proof.Machine.execSeam cl slot s
  | .patternActivate cl slot v => Sys2Proof.Machine.execPatternActivate cl slot v s
  | .patternDeactivate cl slot => Sys2Proof.Machine.execPatternDeactivate cl slot s
  | .patternEventSignal cl slot => Sys2Proof.Machine.execPatternEventSignal cl slot s
  | .bankIdleOff key b k => Sys2Proof.Machine.execBankIdleOff key b k s
  | .bankRetainEntry key b k => Sys2Proof.Machine.execBankRetainEntry key b k s
  | .bankWakeDone key b k => Sys2Proof.Machine.execBankWakeDone key b k s
  | .bkcfgWrite key v => Sys2Proof.Machine.execBkcfgWrite key v s
  | .killpendApply quad k => Sys2Proof.Machine.execKillpendApply quad k s
  | .loadReply k => Sys2Proof.Machine.execLoadReply k s
  | .writePerform k => Sys2Proof.Machine.execWritePerform k s
  | .monitorNotify key ctx => Sys2Proof.Machine.execMonitorNotify key ctx s
  | .writeAck k => Sys2Proof.Machine.execWriteAck k s
  | .tlbWalk key va => Sys2Proof.Machine.execTlbWalk key va s
  | .tlbInvalidate cl v => Sys2Proof.Machine.execTlbInvalidate cl v s
  | .msqHold stack unit => Sys2Proof.Machine.execMsqHold stack unit s
  | .msqRelease stack unit => Sys2Proof.Machine.execMsqRelease stack unit s
  | .msqDrop stack unit => Sys2Proof.Machine.execMsqDrop stack unit s
  | .jobStart cl k => Sys2Proof.Machine.execJobStart cl k s
  | .ladleBurst cl eng => Sys2Proof.Machine.execLadleBurst cl eng s
  | .ladleJobComplete cl k => Sys2Proof.Machine.execLadleJobComplete cl k s
  | .faultPacketArrive key => Sys2Proof.Machine.execFaultPacketArrive key s
  | .epiStoreFault quad k => Sys2Proof.Machine.execEpiStoreFault quad k s
  | .corectlSwap key => Sys2Proof.Machine.execCorectlSwap key s
  | .corectlFreeze key ctx => Sys2Proof.Machine.execCorectlFreeze key ctx s
  | .corectlSpill key ctx => Sys2Proof.Machine.execCorectlSpill key ctx s
  | .spillComplete key => Sys2Proof.Machine.execSpillComplete key s
  | .corectlRestore key ctx => Sys2Proof.Machine.execCorectlRestore key ctx s
  | .restoreComplete key => Sys2Proof.Machine.execRestoreComplete key s
  | .mmarTileReceive key ctx => Sys2Proof.Machine.execMmarTileReceive key ctx s

end Sys2Proof.Machine
end

