-- ==== Sys2Proof/Machine/Turns.lean ====
section
/-! DEFINITION. Which turn comes next (log entry 2), what a turn may name, and the passage of time (R7, R147, R150, R151). -/

namespace Sys2Proof.Machine

/-! ### Pending turns -/

/-- The bank that a key of a core's table names. -/
def bankOfKey (k : Nat) : BankOf × Fin 32 := (if k < 32 then .rs0 else if k < 64 then .rs1 else .spm, Fin.ofNat 32 k)

/-- Turns of a bank. -/
def bankTurns (key k : Nat) : List Instr :=
  let (b, j) := bankOfKey k
  [Instr.bankIdleOff key b j, Instr.bankRetainEntry key b j, Instr.bankWakeDone key b j]

/-- Turns of any core: what it sends, its swaps and its monitors. -/
def agentTurns (key : Nat) : List Instr :=
  [Instr.outboundRecordSend key, Instr.autoSwap key, Instr.contextSwap key, Instr.monitorNotify key false, Instr.monitorNotify key true]

/-- Turns that only a tile core has: TAKE, fault packets, SPILL and RESTORE, banks. -/
def tileTurns (key : Nat) (c : Core) : List Instr :=
  List.append [Instr.takeResume key, Instr.faultPacketArrive key, Instr.spillComplete key, Instr.restoreComplete key]
    (c.banks.flatMap fun e => bankTurns key e.1)

/-- Turns of a core. -/
def coreTurns (key : Nat) (c : Core) : List Instr := List.append (agentTurns key) (if isTile key then tileTurns key c else [])

/-- Turns of a quad. -/
def quadTurns (s : State) (quad : Nat) : List Instr :=
  List.append [Instr.laneGroupGrant quad, Instr.mxuGrant quad, Instr.rampStep quad]
    ((s.quad quad).epi.flatMap fun e => [Instr.killpendApply quad e.id, Instr.epiStoreFault quad e.id])

/-- Turns of a pattern slot. -/
def slotTurns (cl : Nat) (k : Fin 4) : List Instr := [Instr.seam cl k, Instr.patternEventSignal cl k]

/-- Turns of a cluster. -/
def clusterTurns (cl : Nat) (c : Cluster) : List Instr :=
  List.flatten
    [[Instr.ladleBurst cl false, Instr.ladleBurst cl true, Instr.domainSwitchEnd cl],
     if c.invGo then [Instr.tlbInvalidate cl (readTlbinv c)] else [],
     (List.finRange 4).flatMap (slotTurns cl),
     c.jobs.flatMap fun j =>
       if isLadle j then [Instr.jobStart cl j.id, Instr.ladleJobComplete cl j.id] else [Instr.loadReply j.id, Instr.writePerform j.id]]

/-- Turns of a request. -/
def reqTurns (r : Req) : List Instr :=
  match r.kind with
  | .write _ | .syncAdd .. => [Instr.writePerform r.id, Instr.writeAck r.id]
  | .fe .. => [Instr.writePerform r.id, Instr.writeAck r.id, Instr.loadReply r.id]
  | .hold _ => [Instr.holdStoreIntake r.id]
  | .record .. => [Instr.recordArrival r.id, Instr.istloadCopy r.id, Instr.msgAdmissionRefused r.id]
  | .forkStart .. => [Instr.recordArrival r.id]
  | _ => [Instr.writePerform r.id, Instr.loadReply r.id]

/-- Turns of a laser group. -/
def laserTurns (p : Fin 8) (g : Fin 9) : List Instr := [Instr.laserWakeDone p g, Instr.laserWakeFail p g, Instr.laserHoldExpire p g]

/-- Turns of a pour. -/
def pourTurns (p : Fin 8) (q : Pour) : List Instr :=
  [Instr.pourEdgesSatisfied p q.grp q.seq, Instr.pourAnnounceStart p q.grp, Instr.rolltoExpire p q.grp, Instr.pourComplete p q.grp q.seq]

/-- Turns of a port that need nothing from other modules: a follower's calibration begins with its master's epoch, and what is read in a slot comes from
the others: those stand in the agenda. -/
def portTurns (p : Fin 8) (x : Port) : List Instr :=
  List.flatten
    [if x.ckmst && (x.cal == .pending || x.start) then [Instr.calibration p] else [], [Instr.announcement p],
     (List.finRange 9).flatMap (laserTurns p), x.pours.flatMap (pourTurns p)]

/-- Turns of groups and of the hold store. -/
def groupTurns (s : State) : List Instr :=
  List.flatten
    [(s.groupOps.filter (opFirst s)).map fun o => Instr.groupOpApply o.id,
     s.releases.flatMap fun r => [Instr.groupRelease r.id, Instr.sstepRelease r.id],
     s.refusals.map fun r => Instr.groupRefusalReturn r.id,
     s.held.map fun h => Instr.heldRelease h.id]

/-- Quads that have a tile core with something to do. -/
def quadsInUse (s : State) : List Nat := ((s.cores.filter fun e => isTile e.1).map fun e => quadOf e.1).dedup

/-- Steps of the module itself that may be due; a step whose condition does not hold changes nothing. What comes from outside (the host, other
modules, sensors, errors) stands in the agenda alone (log entry 9). -/
def pendingEvents (s : State) : List Instr :=
  List.flatten
    [if s.wiped then [] else [Instr.wipeComplete],
     if s.atBusy then [Instr.attestReportDone] else [],
     s.cores.flatMap fun e => coreTurns e.1 e.2,
     (quadsInUse s).flatMap (quadTurns s),
     s.clusters.flatMap fun e => clusterTurns e.1 e.2,
     ((List.range 80).filter (switchDue s)).map Instr.domainSwitch,
     s.fabric.flatMap reqTurns,
     groupTurns s,
     s.queues.map fun e => Instr.queueRecordCheck (Fin.ofNat 16 e.1),
     (List.finRange 8).flatMap fun p => portTurns p (s.port p)]

/-- The turns that are pending: time, the agents that may issue, the stacks' commands, and the module's own steps. -/
def pendingTurns (s : State) : List Turn :=
  Turn.half :: List.flatten
    [s.cores.map fun e => Turn.issue e.1,
     (s.dram.filter fun e => e.2.cmd ≠ 0).map fun e => Turn.stackEnd (Fin.ofNat 16 e.1),
     (pendingEvents s).map Turn.event]

/-- The next turn and the state without it: the head of the agenda, or one that a free value chooses among those pending. -/
def nextTurn (s : State) : Turn × State :=
  match s.agenda with
  | t :: ts => (t, { s with agenda := ts, tick := s.tick + 1 })
  | [] =>
    let ts := pendingTurns s
    ((ts[Config.choose s.tick % ts.length]?).getD .half, { s with tick := s.tick + 1 })

/-! ### What a turn may name -/

/-- A quad of the module. -/
def isQuad (quad : Nat) : Bool := isTile (quad * 4)

/-- The agents that a step names are there (R16, R18, R19). -/
def namesAgents : Instr → Bool
  | .thermalThrottle cl | .thermalThrottleEnd cl | .domainSwitch cl | .domainSwitchEnd cl | .timebaseLoad cl | .seam cl _
  | .patternActivate cl _ _ | .patternDeactivate cl _ | .patternEventSignal cl _ | .tlbInvalidate cl _ | .jobStart cl _ | .ladleBurst cl _
  | .ladleJobComplete cl _ | .commandLinkMessage cl _ _ | .permitReturn cl _ _ => decide (cl < 80)
  | .laneGroupGrant q | .mxuGrant q | .quadwWrite q _ | .rampStep q | .killpendApply q _ | .epiStoreFault q _ => isQuad q
  | .outboundRecordSend key | .autoSwap key | .contextSwap key | .bkcfgWrite key _ | .monitorNotify key _ | .tlbWalk key _ => isAgent key
  | .takeResume key | .bankIdleOff key _ _ | .bankRetainEntry key _ _ | .bankWakeDone key _ _ | .faultPacketArrive key | .corectlSwap key
  | .corectlFreeze key _ | .corectlSpill key _ | .spillComplete key | .corectlRestore key _ | .restoreComplete key
  | .mmarTileReceive key _ => isTile key
  | _ => true

/-- A stack completes the `MSQCTL` command in progress (R207). -/
def endStackCmd (s : State) (st : Fin 16) : Host.Outcome State Fault Refusal :=
  let x := s.stack st.val
  match x.cmd.toNat with
  | 1 => execMsqHold st x.cmdUnit s
  | 2 => execMsqRelease st x.cmdUnit s
  | 3 => execMsqDrop st x.cmdUnit s
  | _ => .next s

/-- A step of another agent, not an instruction of a program. -/
def isStep (i : Instr) : Bool :=
  match i with
  | .unassignedOpcode _ | .zeroedWordFetch _ => false
  | i => (encodeRaw i).isNone

/-- A request needs the clock of the cluster that sent it, of its home and of the core that it is for. -/
def reqStopped (s : State) (r : Req) : Bool :=
  let target : Option Nat :=
    match r.kind with
    | .record b .. => some (clusterOf (recCore b))
    | .forkStart key .. => some (clusterOf key)
    | _ => clusterOfLoc r.loc
  (isAgent r.key && clockStopped s (clusterOf r.key)) || target.any (clockStopped s)

/-- The step needs the clock of a cluster that stands still. -/
def awaitsClock (s : State) : Instr → Bool
  | .laneGroupGrant q | .mxuGrant q | .rampStep q | .quadwWrite q _ | .killpendApply q _ | .epiStoreFault q _ => clockStopped s (clusterOf (q * 4))
  | .ladleBurst cl _ | .jobStart cl _ | .ladleJobComplete cl _ | .seam cl _ | .patternActivate cl _ _ | .patternDeactivate cl _
  | .patternEventSignal cl _ | .tlbInvalidate cl _ => clockStopped s cl
  | .autoSwap key | .contextSwap key | .takeResume key | .outboundRecordSend key | .bankIdleOff key _ _ | .bankRetainEntry key _ _
  | .bankWakeDone key _ _ | .bkcfgWrite key _ | .monitorNotify key _ | .tlbWalk key _ | .faultPacketArrive key | .corectlSwap key
  | .corectlFreeze key _ | .corectlSpill key _ | .spillComplete key | .corectlRestore key _ | .restoreComplete key | .mmarTileReceive key _ =>
      clockStopped s (clusterOf key)
  | .loadReply k | .writePerform k | .writeAck k | .recordArrival k | .istloadCopy k | .msgAdmissionRefused k => (s.req k).any (reqStopped s)
  | .pourEdgesSatisfied p g n | .pourComplete p g n => ((s.port p).findPour g n).any fun q => clockStopped s q.cluster
  | _ => false

/-! ### Time -/

/-- Cycles of a clock in the half nanosecond that begins now, at most one: F codes are 100 MHz, halved under a thermal throttle, none while the cluster is
switched (R7, R147, R149). -/
def cyclesOf (s : State) (cl : Nat) : Nat :=
  if clockStopped s cl then 0
  else
    let f := (s.regs.get (domOf s cl)).f.toNat
    let d := if (s.cluster cl).thermal then 40 else 20
    let t := 2 * s.now + s.halfNs.toNat
    (t + 1) * f / d - t * f / d

/-- A core's clock moves on by n cycles: an active context that is blocked stays so (R163); one that is FROZEN counts as blocked for AUTOSW alone (R232,
R433). -/
def passCore (s : State) (key n : Nat) : State :=
  let c := s.core key
  let held := (c.ctx c.active).blocked ≠ 0
  let s := countPmc s key (some c.active) 1 n
  let s := if held && (c.ctx c.active).st != .frozen then countPmc s key (some c.active) 5 n else s
  s.modCore key fun c =>
    let c := { c with cyc := c.cyc + n }
    if held then c.setCtx c.active { c.ctx c.active with blocked := (c.ctx c.active).blocked + n } else c

/-- One cycle of a quad (R141): a withheld one is counted, and the ramp moves on. -/
def quadCycle (s : State) (quad : Nat) : State :=
  (if withheld s quad then countWithheld s quad else s).modQuad quad fun q => q.cycle (s.regs.get (domOf s (clusterOf (quad * 4))))

/-- n cycles of a quad: its ramp moves on, its epilogue rows advance, and tiles that have come over the torus are taken (R393). -/
def passQuad (s : State) (quad n : Nat) : State :=
  if n = 0 then s
  else
    let s := advanceEpi ((List.range n).foldl (fun s _ => quadCycle s quad) s) quad
    (quadCores quad).foldl (fun s key => receiveTiles (receiveTiles s key false) key true) s

/-- What must happen before more time passes: releases at their last moment (R139), and the ends of regulator switches (R145). -/
def dueNow (s : State) : State := releaseOverdue ((s.clusters.map (·.1)).foldl switchEnds s)

/-- A cluster's copy of the timebase after one nanosecond of its oscillator: it advances no further than the count, whose value is loaded every 256 ns
(R150). -/
def tickCopy (tb tb' copy : Nat) : Nat :=
  let c := if copy + 1 ≤ tb' then copy + 1 else max copy tb'
  if tb / 256 = tb' / 256 then c else loadCopy tb' c

/-- The core clocks in half a nanosecond. Each has at most one cycle then, so that between any two cycles of a quad there is a state in which it can
grant (R117, R141). -/
def passClocks (s : State) : State :=
  let cores := s.cores.map (·.1)
  let quads := (List.append (s.quads.map (·.1)) (quadsInUse s)).dedup
  let cyc (key : Nat) : Nat := cyclesOf s (clusterOf key)
  let t := cores.foldl (fun a key => passCore a key (cyc key)) s
  let t := ((s.clusters.map (·.1)).filter fun cl => cyclesOf s cl ≠ 0).foldl (fun a cl => (List.finRange 4).foldl (fun a k => seamCycle a cl k) a) t
  quads.foldl (fun a q => passQuad a q (cyc (q * 4))) t

/-- The end of a nanosecond. While the module is ahead of its pod, the timebase runs at half rate (R151). -/
def passTime (s : State) : State :=
  let slow := s.tbSlow - 1
  let d := if s.tbSlow = 0 then 1 else s.tbSlow / 2 - slow / 2
  let tb := s.tb + d
  passPorts { s with now := s.now + 1, tb, tbSlow := slow, tbCopies := s.tbCopies.map (tickCopy s.tb tb), regs := passRegs s.tb tb s.regs } d

/-- Half a nanosecond passes. -/
def passHalf (s : State) : State :=
  if s.halfNs then passTime { passClocks s with halfNs := false } else { passClocks (dueNow s) with halfNs := true }

/-- ns nanoseconds pass, one half after the other. -/
def elapse (s : State) (ns : Nat) : State := (List.range (2 * ns)).foldl (fun s _ => passHalf s) s

/-- The host writes its own memory (R74, R84). -/
def hostWrite (s : State) (addr : Nat) (bs : List Byte) : State := { s with hostMem := s.hostMem.putN addr bs }

/-- The start of an attempt to issue: the core is in focus. -/
def focusOn (s : State) (key : Nat) : State := { s with focus := key }

/-- An agent's turn to issue finds an implied TAKE due before any instruction (R130). -/
def dueTake (s : State) : Bool := s.cur.task.takeDue && s.cur.task.pat

end Sys2Proof.Machine
end

