-- ==== Sys2Proof/Machine/Step.lean ====
section
/-! DEFINITION. One step of the module: the next turn is taken. -/

namespace Sys2Proof.Machine

/-- The executing agent's next instruction, or the implied TAKE that comes before it (R130, R153). -/
def runNext (s : State) : Host.Outcome State Fault Refusal :=
  if dueTake s then firstTake s
  else
    match fetchAt s s.focus s.cur.pc with
    | .run i => exec i s
    | .crossing => crossingFault s

/-- An agent's turn to issue. -/
def stepIssue (s : State) (key : Nat) : Host.Outcome State Fault Refusal :=
  if isAgent key then
    let s := focusOn s key
    if canIssue s && !clockStopped s (clusterOf key) then runNext s else .next s
  else .fault .noSuchAgent

/-- A turn of another agent: an instruction of a program is none. -/
def stepEvent (s : State) (i : Instr) : Host.Outcome State Fault Refusal :=
  if !isStep i || awaitsClock s i then .next s
  else if namesAgents i then exec i s
  else .fault .noSuchAgent

/-- A module whose clocks have all stopped acts on reset alone (R23, R93); its mailbox still refuses requests when the keys are erased (R90, R93). -/
def stepHalted (s : State) (t : Turn) : Host.Outcome State Fault Refusal :=
  match t with
  | .event .moduleReset => exec .moduleReset s
  | .event (.attestRequest v) => if s.keysErased then exec (.attestRequest v) s else .next s
  | .event (.registerWrite off v) => if s.keysErased && off = 0x300020 then exec (.registerWrite off v) s else .next s
  | .hostStore a bs => .next (hostWrite s a bs)
  | _ => .next s

/-- One turn. -/
def stepTurn (s : State) (t : Turn) : Host.Outcome State Fault Refusal :=
  if s.halted then stepHalted s t
  else
    match t with
    | .issue key => stepIssue s key
    | .event i => stepEvent s i
    | .stackEnd st => endStackCmd s st
    | .elapse ns => .next (elapse s ns)
    | .half => .next (passHalf s)
    | .hostStore a bs => .next (hostWrite s a bs)

/-- One step. -/
def step (s : State) : Host.Outcome State Fault Refusal := stepTurn (nextTurn s).2 (nextTurn s).1

/-- The state in which the very next step fetches and runs this instruction, on context 0 of core 0. -/
def State.withFetchWord (s : State) (nbits w : Nat) : State := placeWord s nbits w

end Sys2Proof.Machine
end

