-- ==== Sys2Proof/Safety.lean ====
section
/-! DEFINITION. What counts as a safe run: every turn names agents that the module has, so that no step stops. -/

namespace Sys2Proof

open Sys2Proof.Machine

/-- A turn that names only agents of the module. -/
def turnOk : Turn → Bool
  | .issue key => isAgent key
  | .event i => namesAgents i
  | _ => true

/-- The state after a step that goes on. -/
def nextState (s : State) : Option State :=
  match step s with
  | .next t => some t
  | _ => none

/-- The state after n steps that all go on. -/
def runFor : Nat → State → Option State
  | 0, s => some s
  | n + 1, s => (nextState s).bind (runFor n)

/-- A run of n steps is safe when none of them stops. -/
def SafeFor (n : Nat) (s : State) : Prop := (runFor n s).isSome = true

end Sys2Proof
end

