-- ==== Sys2Proof/Certificates/Slice0/Terms.lean ====
section
/-! DEFINITION. Terms that the statements share: when an instruction executes, what its completion adds to its effect, the shapes in which
instructions read and write, and what a frame keeps. -/

namespace Sys2Proof

open Sys2Proof.Machine

/-! ### When an instruction executes -/

/-- An instruction executes normally (R153, R216, R274, R289, R331): its agent runs it, no remote full/empty form blocks its context, no queued
instruction still writes its predicate, PRED holds, and its WT wait is met. -/
structure Ready (w : Where) (c : Com) (s : State) : Prop where
  agent : w.ok s.focus = true
  unblocked : s.feDue = false
  settled : s.predBusy c.pred.p = false
  holds : s.predMask c.pred ≠ 0
  waited : s.wtMet c.wt = true

/-- The same for a pushed instruction of group 4 (R274, R352), whose PRED selects elements: a tile core runs it, and the queue has room (R114). -/
structure ReadyV (pred : Pred) (wt : Fin 4) (s : State) : Prop where
  agent : isTile s.focus = true
  unblocked : s.feDue = false
  settled : s.predBusy pred.p = false
  waited : s.wtMet wt = true
  room : s.me.vq.length < 16

/-- The same for a pushed instruction of group 5, which is predicated as a whole (R387). -/
structure ReadyM (c : Com) (s : State) : Prop extends ReadyV c.pred c.wt s where
  holds : s.predMask c.pred ≠ 0

/-- The end of an instruction whose effect has made t of s and which transfers nothing: it is counted (R433 event 2), and the PC moves on (R268, R308). -/
def completed (s t : State) : State := retire (countPmc t s.focus (some s.act) 2 1)

/-- The end of an instruction whose effect has made t of s and which transfers control (R304). -/
def wentTo (s t : State) (pc : BitVec 15) : State := jumpTo (countPmc t s.focus (some s.act) 2 1) pc

/-- The target of a PC-relative transfer (R269): IMM24 counts 4-byte units from the instruction's own address, modulo the store's length. -/
def branchTarget (s : State) (imm : BitVec 24) : BitVec 15 := BitVec.ofInt 15 (s.cur.pc.toNat + 4 * imm.toInt)

/-- The head fields by which an instruction is predicated as a whole (R274): every scalar instruction that looks at PRED, and the pushed ones of
group 5. -/
def wholePred : Instr → Option Com
  | .nop c _ | .br c _ | .brc c _ _ _ _ | .brz c _ _ | .brnz c _ _ | .brpAny c _ _ | .brpAll c _ _ | .call c _ | .callr c _ | .ret c
  | .jmpr c _ | .loop c _ _ | .end_ c | .trap c _ | .brk c | .add c _ _ _ | .sub c _ _ _ | .and c _ _ _ | .or c _ _ _ | .xor c _ _ _
  | .andn c _ _ _ | .shl c _ _ _ | .shr c _ _ _ | .sra c _ _ _ | .rotl c _ _ _ | .min c _ _ _ | .max c _ _ _ | .minz c _ _ _
  | .maxz c _ _ _ | .addi c _ _ _ | .andi c _ _ _ | .ori c _ _ _ | .xori c _ _ _ | .shli c _ _ _ | .shri c _ _ _ | .srai c _ _ _
  | .mul c _ _ _ | .mulh c _ _ _ | .mulhz c _ _ _ | .div c _ _ _ | .divz c _ _ _ | .rem c _ _ _ | .remz c _ _ _ | .clz c _ _ | .ctz c _ _
  | .popc c _ _ | .sext c _ _ _ | .zext c _ _ _ | .sel c _ _ _ _ | .setc c _ _ _ _ | .lea c _ _ _ _ _ | .bfx c _ _ _ _ | .bfi c _ _ _ _
  | .ffma c _ _ _ _ _ | .fsqrt c _ _ _ | .fcvt c _ _ _ _ | .ld c _ _ _ | .st c _ _ _ | .ldw c _ _ | .lde c _ _ | .stw c _ _ | .stf c _ _
  | .fesetE c _ | .fesetF c _ | .put c _ _ _ _ | .get c _ _ _ _ | .putsig c _ _ _ _ _ _ | .radd c _ _ | .bind c _ _ _ _ _ | .unbind c _ _
  | .acq c _ _ | .rel c _ _ | .cntw c _ _ | .amo c _ _ _ _ _ | .amoCas c _ _ _ _ _ | .amofAdd c _ _ _ | .grpnew c _ | .grpinit c _ _
  | .grpfree c _ _ | .join c _ _ _ | .leave c _ _ | .sync c _ _ _ | .sstep c _ _ _ | .swarm c _ _ _ | .waitw c _ _ _ | .waitg c _ _ _
  | .qpoll c _ _ | .msg c _ _ | .srd c _ _ | .swr c _ _ | .tbr c _ | .pmcr c _ _ _ _ | .patr c _ _ _ _ | .patw c _ _ _ | .patwC c _ _ _
  | .prevoke c _ _ | .spkill c _ _ _ | .swap c | .halt c | .li24 c _ _ | .li32 c _ _ _ | .li64 c _ _ | .fadd c _ _ _ _ | .fsub c _ _ _ _
  | .fmul c _ _ _ _ | .fmin c _ _ _ | .fmax c _ _ _ | .fcmp c _ _ _ _ | .stage c _ | .forkr c _ _ _ _ _ _ _ _ _ _ | .joinc c _ _ | .mwait c
  | .ldl c _ _ _ | .ldl2d c _ _ _ _ _ | .ldlz c _ _ _ _ _ _ _ | .ewait c _ | .ewaitN c _ | .rarm c _ | .rpourInt c _ _ | .rpourBs c _ _
  | .rskim c _ | .rbcast c _ _ | .rstat c _ _ _ | .rdisarm c _ _ | .take c | .doneg c _ | .yieldt c _ | .bkwake c _ _ | .bkhold c _ _
  | .bkoff c _ _ | .bkstat c _ _ | .mbld c _ _ _ _ | .mma c _ _ _ _ _ _ | .mmaRa c _ _ _ _ _ _ _ | .mmar c _ _ _ _ _ _ | .mzero c _ _
  | .mtld c _ _ _ _ _ _ | .mtldRb c _ _ _ _ _ _ | .mepi96 c _ _ _ _ _ _ _ | .mepi128 c _ _ _ _ _ _ _ _ | .macc c _ _ _ _ | .dbgrd c _ _
  | .dbgwr c _ _ | .resume c _ _ | .redir c _ _ _ _ | .kill c _ _ | .fwait c _ _ _ => some c
  | .fence p _ => some { pred := p, wt := 0 }
  | _ => none

/-- The agents that run an instruction of a program (R289). -/
def runsOn : Instr → Option Where
  | .nop .. | .br .. | .brc .. | .brz .. | .brnz .. | .brpAny .. | .brpAll .. | .call .. | .callr .. | .ret .. | .jmpr .. | .loop ..
  | .end_ .. | .trap .. | .brk .. | .add .. | .sub .. | .and .. | .or .. | .xor .. | .andn .. | .shl .. | .shr .. | .sra .. | .rotl ..
  | .min .. | .max .. | .minz .. | .maxz .. | .addi .. | .andi .. | .ori .. | .xori .. | .shli .. | .shri .. | .srai .. | .mul ..
  | .mulh .. | .mulhz .. | .div .. | .divz .. | .rem .. | .remz .. | .clz .. | .ctz .. | .popc .. | .sext .. | .zext .. | .sel ..
  | .setc .. | .lea .. | .bfx .. | .bfi .. | .ffma .. | .fsqrt .. | .fcvt .. | .ld .. | .st .. | .ldw .. | .lde .. | .stw .. | .stf ..
  | .fesetE .. | .fesetF .. | .put .. | .get .. | .putsig .. | .radd .. | .bind .. | .unbind .. | .acq .. | .rel .. | .cntw .. | .amo ..
  | .amoCas .. | .amofAdd .. | .grpnew .. | .grpinit .. | .grpfree .. | .join .. | .leave .. | .sync .. | .sstep .. | .swarm .. | .waitw ..
  | .waitg .. | .qpoll .. | .msg .. | .srd .. | .swr .. | .tbr .. | .pmcr .. | .patr .. | .patw .. | .patwC .. | .prevoke ..
  | .swap .. | .halt .. | .li24 .. | .li32 .. | .li64 .. | .fadd .. | .fsub .. | .fmul .. | .fmin .. | .fmax .. | .fcmp .. | .fence .. => some .any
  | .stage .. | .forkr .. | .joinc .. | .mwait .. | .ldl .. | .ldl2d .. | .ldlz .. | .ewait .. | .ewaitN .. | .rarm .. | .rpourInt ..
  | .rpourBs .. | .rskim .. | .rbcast .. | .rstat .. | .rdisarm .. | .take .. | .doneg .. | .yieldt .. | .bkwake .. | .bkhold ..
  | .bkoff .. | .bkstat .. | .spkill .. | .vwsetReg .. | .vwsetImm .. | .vwadv .. | .mbsetReg .. | .mbsetImm .. | .vld .. | .vst .. | .vldl ..
  | .vstl .. | .vgath .. | .vscat .. | .vadd .. | .vsub .. | .vmul .. | .vmin .. | .vmax .. | .vabs .. | .vneg .. | .vfma .. | .vand ..
  | .vor .. | .vxor .. | .vandn .. | .vshl .. | .vshr .. | .vsra .. | .vcmp .. | .vsel .. | .vcvt .. | .vbcast .. | .vext .. | .vred ..
  | .vscan .. | .vwadd .. | .vwmul .. | .vdot .. | .vperm .. | .vshuf .. | .vslide .. | .vpand .. | .vpor .. | .vpnot .. | .vpcnt ..
  | .vbs .. | .vunbs .. | .vrcp .. | .vrsq .. | .vexp2 .. | .mbld .. | .mma .. | .mmaRa .. | .mmar .. | .mzero .. | .mtld .. | .mtldRb ..
  | .mepi96 .. | .mepi128 .. | .macc .. => some .tile
  | .dbgrd .. | .dbgwr .. | .resume .. | .redir .. | .kill .. | .fwait .. => some .leaf
  | _ => none

/-! ### Shapes -/

/-- D := f A B, A read before B. -/
def Binary (i : Com → Dst → Use Src → Use Src → Instr) (f : Word → Word → Word) : Prop :=
  ∀ (s s1 s2 t : State) (c : Com) (d : Dst) (a b : Use Src) (x y : Word), Ready .any c s →
    readSrc s a.r = .ok (x, s1) → readSrc s1 b.r = .ok (y, s2) → writeDst s2 d (f x y) = .ok t →
    exec (i c d a b) s = .next (completed s t)

/-- D := f A. -/
def Unary (i : Com → Dst → Use Src → Instr) (f : Word → Word) : Prop :=
  ∀ (s s1 t : State) (c : Com) (d : Dst) (a : Use Src) (x : Word), Ready .any c s →
    readSrc s a.r = .ok (x, s1) → writeDst s1 d (f x) = .ok t →
    exec (i c d a) s = .next (completed s t)

/-- D := v. -/
def Constant (i : Com → Dst → Instr) (v : Word) : Prop :=
  ∀ (s t : State) (c : Com) (d : Dst), Ready .any c s → writeDst s d v = .ok t → exec (i c d) s = .next (completed s t)

/-- D := the low word of f RM A B in FP32, and the flags of f are OR-ed into `STATUS` (R303, R321). RM is the form's (R256). -/
def FloatBinary (i : Com → Dst → Use Src → Use Src → Instr) (rm : Ctx → Rm) (f : Rm → Nat → Nat → Nat × Nat) : Prop :=
  ∀ (s s1 s2 t : State) (c : Com) (d : Dst) (a b : Use Src) (x y : Word), Ready .any c s →
    readSrc s a.r = .ok (x, s1) → readSrc s1 b.r = .ok (y, s2) →
    (let r := f (rm s.cur) (x.toNat % 2 ^ 32) (y.toNat % 2 ^ 32)
     writeDst (s2.modCur fun k => { k with status := k.status ||| BitVec.ofNat 64 r.2 }) d (BitVec.ofNat 64 r.1) = .ok t) →
    exec (i c d a b) s = .next (completed s t)

/-- The same with one source. -/
def FloatUnary (i : Com → Dst → Use Src → Instr) (rm : Ctx → Rm) (f : Rm → Word → Nat × Nat) : Prop :=
  ∀ (s s1 t : State) (c : Com) (d : Dst) (a : Use Src) (x : Word), Ready .any c s →
    readSrc s a.r = .ok (x, s1) →
    (let r := f (rm s.cur) x
     writeDst (s1.modCur fun k => { k with status := k.status ||| BitVec.ofNat 64 r.2 }) d (BitVec.ofNat 64 r.1) = .ok t) →
    exec (i c d a) s = .next (completed s t)

/-! ### Memory operands -/

/-- The address of a memory form (R278): the base plus the sign-extended offset, modulo 2^64. -/
def addressOf (x : Word) (off : Off) : Nat :=
  match off with
  | .imm24 v => (x + v.signExtend 64).toNat
  | .imm32 v => (x + v.signExtend 64).toNat

/-- Width in bytes of a load (R328). -/
def loadWidth : LdKind → Nat
  | .z8 | .s8 => 1
  | .z16 | .s16 => 2
  | .z32 | .s32 => 4
  | .d64 => 8

/-- The value that a load writes (R328): the little-endian bytes, zero- or sign-extended. -/
def loadedValue (k : LdKind) (bs : List Byte) : Word :=
  match k with
  | .z8 => (BitVec.ofNat 8 (natOfBytes bs)).setWidth 64
  | .s8 => (BitVec.ofNat 8 (natOfBytes bs)).signExtend 64
  | .z16 => (BitVec.ofNat 16 (natOfBytes bs)).setWidth 64
  | .s16 => (BitVec.ofNat 16 (natOfBytes bs)).signExtend 64
  | .z32 => (BitVec.ofNat 32 (natOfBytes bs)).setWidth 64
  | .s32 => (BitVec.ofNat 32 (natOfBytes bs)).signExtend 64
  | .d64 => BitVec.ofNat 64 (natOfBytes bs)

/-- Width in bytes of a store (R328). -/
def storeWidth : StKind → Nat
  | .b8 => 1
  | .b16 => 2
  | .b32 => 4
  | .b64 => 8

/-- `STATUS.POIS` of the executing context set where b holds (R94, R159). -/
def withPois (s : State) (b : Bool) : State := if b then s.modCur fun k => { k with status := k.status ||| 0x4000 } else s

/-- The first location of a resolved access. -/
def firstLoc (acc : Acc) : Nat := acc.locs.headD 0

/-- A full/empty form of the executing context may take its step at its own word (R202): its place in the arrival order is its own, or the next. -/
def feTurn (s : State) (f : FeForm) (loc : Nat) : Bool :=
  feReady s (s.phys loc / 8) (match s.cur.feArr with | some (n, _, _) => n | none => s.nextId) f

/-- The new value of an AMO (R340). -/
def amoResult {w : Nat} (op : AmoOp) (o x : BitVec w) : BitVec w :=
  match op with
  | .add => o + x
  | .and => o &&& x
  | .or => o ||| x
  | .xor => o ^^^ x
  | .min => if x.toInt < o.toInt then x else o
  | .max => if x.toInt < o.toInt then o else x
  | .minz => if x.toNat < o.toNat then x else o
  | .maxz => if x.toNat < o.toNat then o else x
  | .swap => x

/-! ### Pushes -/

/-- A pushed instruction passes the checks of its views, its B view and the liveness of what it reads (R179, R184, R231, R385, R393). -/
structure ViewsOk (s : State) (o : VOp) : Prop where
  format : formatOk o = true
  views : viewFault (usesOf o) = none
  bview : usesB o = true → bvBeyond o.bv = none
  settled : mmarPending s s.focus s.act (readsOf o) = false
  live : ∀ g ∈ readsOf o, (progReadable s s.focus s.act).getLsbD g = true

/-- What every push captures (R153, R154, R159, R274): context, instruction, PC, rounding mode and element mask. -/
def captured (s : State) (i : Instr) (p : Pred) : VOp :=
  { ctx := s.act, instr := i, pc := s.cur.pc, sa := 0, sc := 0, vd := 0, va := 0, vb := 0, vc := 0, bv := 0, mask := s.predMask p
    pa := 0, pb := 0, rm := s.cur.rm, mem := [], ms := [], blk := 0 }

/-- A push with the view registers D, A and B. -/
def PushDAB (i : Com → Fin 16 → Use (Fin 16) → Use (Fin 16) → Instr) : Prop :=
  ∀ (s : State) (c : Com) (d : Fin 16) (a b : Use (Fin 16)), ReadyV c.pred c.wt s →
    ∀ o, o = { captured s (i c d a b) c.pred with vd := s.cur.vw.get d, va := s.cur.vw.get a.r, vb := s.cur.vw.get b.r } → ViewsOk s o →
    exec (i c d a b) s = .next (retire (pushEntry s o))

/-- A push with the view registers D and A. -/
def PushDA (i : Com → Fin 16 → Use (Fin 16) → Instr) : Prop :=
  ∀ (s : State) (c : Com) (d : Fin 16) (a : Use (Fin 16)), ReadyV c.pred c.wt s →
    ∀ o, o = { captured s (i c d a) c.pred with vd := s.cur.vw.get d, va := s.cur.vw.get a.r } → ViewsOk s o →
    exec (i c d a) s = .next (retire (pushEntry s o))

/-- What the 64 lanes of a VLDL or VSTL access (R363): lane, offset in its slice, and the active bytes of its element word. -/
def laneAccesses (mask : Mask) (ty : Ty) (x : Word) (off : BitVec 32) (ix : List Int) : List (Nat × Nat × List Nat) :=
  (List.range 64).filterMap fun l =>
    let ps := (activeBytes mask ty).filter fun j => j / 4 = l
    if ps.isEmpty then none else some (l, (addressOf x (.imm32 off) + (BitVec.ofInt 32 (ix.getD l 0)).toNat) % 2 ^ 64, ps)

/-- What the active elements of a VGATH or VSCAT access (R364): address, and the places of the element's bytes. -/
def elementAccesses (mask : Mask) (ty : Ty) (x : Word) (off : BitVec 32) (ix : List Int) (sc : Fin 4) : List (Nat × List Nat) :=
  (List.range ty.count).filterMap fun j =>
    if active mask ty j then
      some ((BitVec.ofInt 64 ((addressOf x (.imm32 off) : Int) + ix.getD j 0 * (2 ^ sc.val : Nat))).toNat, (List.range (tyBytes ty)).map fun k => j * tyBytes ty + k)
    else none

/-- What a push of group 5 captures (R387). -/
def capturedM (s : State) (i : Instr) (c : Com) (d a b : Fin 16) (bs : Option (Use (Fin 16))) : VOp :=
  { captured s i c.pred with
    vd := s.cur.vw.get d, va := s.cur.vw.get a, bv := (s.quad (quadOf s.focus)).bv.get b
    vc := match bs with | some x => s.cur.vw.get x.r | none => 0 }

/-- How a Ladle instruction starts its job (R408, R409): its ranges and its sync word are checked, D receives the job's id, the job is held by the
footprint scheduler, and the context's job number grows. s is the state after the operands are read. -/
structure LadleStarts (s : State) (d : Dst) (src : Option Space) (dsp : Space) (ysp : SyncSp) (q5 : Bool) (a b x : Word) (h : LadleShape) (t : State) :
    Prop where
  vectors : s.vecMemPending s.focus s.act = false
  mine : (jobsOf s s.focus s.act).length < 16
  held : (s.cluster s.myCluster).jobs.length < 64
  starts : ∃ rps wps at_ u id, (match src with | some sp => jobRange s s.focus s.cur.asid sp false a.toNat h.rlen | none => .ok []) = .ok rps
    ∧ jobRange s s.focus s.cur.asid dsp true b.toNat h.wlen = .ok wps ∧ jobSync s ysp x.toNat = .ok at_
    ∧ id = BitVec.ofNat 64 (s.focus % 64 * 2 ^ 17 + s.act.toNat * 2 ^ 16 + s.cur.task.jseq.toNat) ∧ writeDst s d id = .ok u
    ∧ (let u1 := holdJob u
         { id := 0, kind := h.kind, key := s.focus, ctx := s.act, asid := s.cur.asid, rd := footprint rps, wr := footprint wps, edges := []
           src := a, dst := b, ssp := src.getD .glb, dsp, block := h.block
           opx := BitVec.ofNat 9 (spaceNum (src.getD .glb) + spaceNum dsp * 8 + syncNum ysp * 64 + q5.toNat * 256), evt := h.evt, sync := x, ysp
           syncLoc := at_.getD 0, jobid := id, len := h.len }
       let heads (a n : Nat) : List Nat := (rangeHeads a n 65536).map (· % 2 ^ 64)
       let vas := (if src = some .glb then heads a.toNat h.rlen else []) ++ (if dsp = .glb then heads b.toNat h.wlen else [])
       t = (tlbFills u1 (isFw u1.focus) u1.myCluster s.cur.asid vas).modCur fun k => { k with task := { k.task with jseq := k.task.jseq + 1 } })

/-- A tile task has made the steps of END that stand before its implied TAKE (R130, R161): its work elsewhere is its own no longer, a partly read record
goes, its store dies, its queues and tables are empty. -/
def tileEnded (s : State) : State :=
  (killStore (orphan s s.focus s.act) s.focus s.act).modCur fun c =>
    { c with inbox := if c.inboxRead = 0 then c.inbox else c.inbox.drop 1, inboxRead := 0, q4 := [], q5 := [], q7 := [], loop := none
             members := Vector.replicate 4 none, t := Vector.replicate 4 0, ending := .take }

/-! ### Frames -/

/-- The registers that a scalar instruction without a memory operand may write as its destination: none is written where the form has none (R301
to R325). CALL and CALLR write the link register g47. -/
def scalarDst : Instr → Option (List Dst)
  | .add _ d _ _ | .sub _ d _ _ | .and _ d _ _ | .or _ d _ _ | .xor _ d _ _ | .andn _ d _ _ | .shl _ d _ _ | .shr _ d _ _ | .sra _ d _ _
  | .rotl _ d _ _ | .min _ d _ _ | .max _ d _ _ | .minz _ d _ _ | .maxz _ d _ _ | .mul _ d _ _ | .mulh _ d _ _ | .mulhz _ d _ _
  | .div _ d _ _ | .divz _ d _ _ | .rem _ d _ _ | .remz _ d _ _ | .addi _ d _ _ | .andi _ d _ _ | .ori _ d _ _ | .xori _ d _ _
  | .shli _ d _ _ | .shri _ d _ _ | .srai _ d _ _ | .clz _ d _ | .ctz _ d _ | .popc _ d _ | .sext _ d _ _ | .zext _ d _ _
  | .sel _ d _ _ _ | .setc _ _ d _ _ | .lea _ _ d _ _ _ | .bfx _ d _ _ _ | .li24 _ d _ | .li32 _ d _ _ | .li64 _ d _
  | .fadd _ _ d _ _ | .fsub _ _ d _ _ | .fmul _ _ d _ _ | .ffma _ _ d _ _ _ | .fmin _ d _ _ | .fmax _ d _ _ | .fsqrt _ _ d _
  | .fcmp _ _ d _ _ | .fcvt _ _ _ d _ => some [d]
  | .bfi _ d _ _ _ => some [.g d]
  | .call .. | .callr .. => some [.g 47]
  | .nop .. | .br .. | .brc .. | .brz .. | .brnz .. | .brpAny .. | .brpAll .. | .ret .. | .jmpr .. | .loop .. | .trap .. | .brk .. => some []
  | _ => none

/-- The `STATUS` bits that a scalar instruction without a memory operand may set (R159, R303): SATF, NV, DZ, OF, UF and NX of a float instruction. -/
def scalarFlags : Instr → Word
  | .fadd .. | .fsub .. | .fmul .. | .ffma .. | .fmin .. | .fmax .. | .fsqrt .. | .fcmp .. | .fcvt .. => 0x20F8
  | _ => 0

/-- t with the alarm of s, and with what raising one changes: a walk that meets the locked range raises one (R88, R93). -/
def keepAlarm (s t : State) : State :=
  { t with alarm := s.alarm, msix := s.msix, keysErased := s.keysErased, s1 := s.s1, s2 := s.s2, halted := s.halted }

/-- d is c but for what an instruction's issue, its queue operands, its wait and its fault change: the PC, the loop, the words it pops, and the state,
code and packet of a context that freezes. -/
def sameCtx (c d : Ctx) : Prop :=
  { d with
    pc := c.pc, loop := c.loop, loopStart := c.loopStart, loopLast := c.loopLast, q4 := c.q4, q5 := c.q5, q7 := c.q7, inbox := c.inbox
    inboxRead := c.inboxRead, st := c.st, fcode := c.fcode, packet := c.packet, blocked := c.blocked, feArr := c.feArr, parked := c.parked } = c

/-- d is c but for its contexts, its queues q0-q3, its counters, and packets on their way to the leaf. -/
def sameCore (c d : Core) : Prop :=
  { d with c0 := c.c0, c1 := c.c1, q := c.q, pmc := c.pmc, pmcsel := c.pmcsel, pktOut := c.pktOut } = c

/-- Where a store of n bytes goes: its data register is read after its base, and its address is checked then. -/
def storeTo (s : State) (d : Src) (m : MemOp) (n : Nat) : Option Acc :=
  match readSrc s m.base.r with
  | .ok (x, s1) =>
    match readSrc s1 d with
    | .ok (_, s2) =>
      match access s2 m.sel wrUse (addressOf x m.off) n n with
      | .ok (acc, _) => some acc
      | .error _ => none
    | .error _ => none
  | .error _ => none

/-- Where a load of n bytes reads. -/
def loadFrom (s : State) (m : MemOp) (n : Nat) : Option Acc :=
  match readSrc s m.base.r with
  | .ok (x, s1) =>
    match access s1 m.sel rdUse (addressOf x m.off) n n with
    | .ok (acc, _) => some acc
    | .error _ => none
  | .error _ => none

/-- The physical bytes that a write at these locations may change: the bytes themselves, and COUNT and GEN of the marked sync words they lie in (R203). -/
def mayChange (s : State) (locs : List Nat) (p : Nat) : Prop :=
  (∃ l ∈ locs, p = s.phys l) ∨ ∃ l ∈ locs, ∃ i < 8, l / 16 ∈ s.marks ∧ p = s.phys (l / 16 * 16 + i)

/-- d is c but for what the notices of a monitor bring: the words received, and with them at most POIS in `STATUS` (R94, R343). -/
def onlyNoted (c d : Ctx) : Prop :=
  { d with wait := c.wait, status := c.status } = c ∧ d.status &&& ~~~0x4000 = c.status &&& ~~~0x4000 ∧ c.status &&& ~~~d.status = 0
    ∧ (d.wait = c.wait → d = c)

/-- The instructions that update a word, or move bytes of the own scratchpad to or from another memory (R330 to R334, R339 to R342). -/
def isUpdate : Instr → Bool
  | .amo .. | .amoCas .. | .amofAdd .. | .swarm .. | .radd .. | .fesetE .. | .fesetF .. | .put .. | .get .. | .putsig .. => true
  | _ => false

/-- The destination of an update. -/
def updateDst : Instr → Option Dst
  | .amo _ _ _ d _ _ | .amoCas _ _ d _ _ _ | .amofAdd _ d _ _ | .swarm _ d _ _ => some d
  | _ => none

/-- The state after several sources have been read in order. -/
def readAll (s : State) : List Src → Option State
  | [] => some s
  | r :: rs =>
    match readSrc s r with
    | .ok (_, u) => readAll u rs
    | .error _ => none

/-- What an access resolves to after the base register and then other sources are read. -/
def accessAfter (s : State) (base : Src) (rs : List Src) (f : State → Word → Exec (Acc × State)) : Option Acc :=
  match readSrc s base with
  | .ok (b, u) =>
    match readAll u rs with
    | some v =>
      match f v b with
      | .ok (acc, _) => some acc
      | .error _ => none
    | none => none
  | .error _ => none

/-- The word that an update changes: an atomic's, a sync word's or a tag's. PUT, GET and PUTSIG change none at issue. -/
def updateTo (s : State) : Instr → Option Acc
  | .amo _ _ w64 _ m x =>
    accessAfter s m.base.r [x] fun u b => access u m.sel rwUse (addressOf b (.imm32 m.off)) (if w64 then 8 else 4) (if w64 then 8 else 4)
  | .amoCas _ w64 _ m x n =>
    accessAfter s m.base.r [x, n] fun u b => access u m.sel rwUse (addressOf b (.imm32 m.off)) (if w64 then 8 else 4) (if w64 then 8 else 4)
  | .amofAdd _ _ m x => accessAfter s m.base.r [x.r] fun u b => access u m.sel rwUse (addressOf b (.imm32 m.off)) 4 4
  | .swarm _ _ m x => accessAfter s m.base.r [x.r] fun u b => syncAccess u m.sel rwUse (addressOf b (.imm32 m.off))
  | .radd _ d m => accessAfter s m.base.r [d] fun u b => syncAccess u m.sel wrUse (addressOf b m.off)
  | .fesetE _ m | .fesetF _ m => accessAfter s m.base.r [] fun u b => access u m.sel wrUse (addressOf b m.off) 8 8
  | _ => none

/-- The physical bytes that an update may change: an atomic's word, with COUNT and GEN of the marked sync word it lies in; TARGET, COUNT and GEN under SWARM;
COUNT and GEN under RADD; none under FESET (R203, R330, R334, R340, R342). -/
def updateBytes (s : State) (acc : Acc) (p : Nat) : Instr → Prop
  | .amo .. | .amoCas .. | .amofAdd .. => mayChange s acc.locs p
  | .swarm .. => ∃ j < 14, p = s.phys (firstLoc acc + j)
  | .radd .. => ∃ j < 8, p = s.phys (firstLoc acc + j)
  | _ => False

/-- The instructions that enter the vector and matrix queue (R114). -/
def isPush : Instr → Bool
  | .vld .. | .vst .. | .vldl .. | .vstl .. | .vgath .. | .vscat .. | .vadd .. | .vsub .. | .vmul .. | .vmin .. | .vmax .. | .vabs .. | .vneg ..
  | .vfma .. | .vand .. | .vor .. | .vxor .. | .vandn .. | .vshl .. | .vshr .. | .vsra .. | .vcmp .. | .vsel .. | .vcvt .. | .vbcast ..
  | .vext .. | .vred .. | .vscan .. | .vwadd .. | .vwmul .. | .vdot .. | .vperm .. | .vshuf .. | .vslide .. | .vpand .. | .vpor .. | .vpnot ..
  | .vpcnt .. | .vbs .. | .vunbs .. | .vrcp .. | .vrsq .. | .vexp2 .. => true
  | i => isMatrix i

/-! ### Elements -/

/-- An exact integer result as an element (R251): saturated over the type's range, or wrapped. -/
def elementOf (t : Ty) (sat : Bool) (v : Int) : Nat :=
  ((if sat then max (tyMin t) (min (tyMax t) v) else v) % 2 ^ tyBits t).toNat

/-- Signed value of an element of width w. -/
def signedOf (w x : Nat) : Int := if x % 2 ^ w < 2 ^ (w - 1) then (x % 2 ^ w : Nat) else (x % 2 ^ w : Nat) - (2 ^ w : Nat)

/-- A grant of a vector instruction writes, of the view in D, the element f i where i is active under the push's mask, and no other byte (R352, R353):
its sources are read first, its last uses are killed, its elements are written, and its flags are OR-ed into `STATUS`. -/
def WritesElements (s : State) (key : Nat) (o : VOp) (t : Ty) (f : Nat → Nat) : Prop :=
  ∃ out fl, runVector s key o = finishWrite (poisIf s key o.ctx (readPoison s key o)) key o (placeRes o.vd t out) fl
    ∧ out.length = t.count ∧ ∀ i < t.count, out[i]? = some (if active o.mask t i then some (f i) else none)

/-- A grant of a vector instruction gives the elements f: of the view in D it writes element i where i is active and f names one, and no other byte (R352,
R353), and its flags are those of the active elements. -/
def GivesElements (s : State) (key : Nat) (o : VOp) (t : Ty) (f : Nat → Option (Nat × Nat)) : Prop :=
  runVector s key o = finishWrite (poisIf s key o.ctx (readPoison s key o)) key o
    (placeRes o.vd t ((List.range t.count).map fun i => if active o.mask t i then (f i).map (·.1) else none))
    ((List.range t.count).foldl (fun g i => if active o.mask t i then g ||| ((f i).map (·.2)).getD 0 else g) 0)

/-- The fraction bits of FP32 and BF16 (R253). -/
def fractionOf (t : Ty) : Nat := if t = .bf16 then 7 else 23

/-- The comparisons of VCMP on integers of width w (R370): codes 0 to 5 signed, codes 6 to 9 unsigned. -/
def integerCompare (k : Cond) (w a b : Nat) : Bool :=
  match k with
  | .eq => signedOf w a == signedOf w b
  | .ne => signedOf w a != signedOf w b
  | .lt => decide (signedOf w a < signedOf w b)
  | .ge => decide (signedOf w b ≤ signedOf w a)
  | .le => decide (signedOf w a ≤ signedOf w b)
  | .gt => decide (signedOf w b < signedOf w a)
  | .ltz => decide (a % 2 ^ w < b % 2 ^ w)
  | .gez => decide (b % 2 ^ w ≤ a % 2 ^ w)
  | .lez => decide (a % 2 ^ w ≤ b % 2 ^ w)
  | .gtz => decide (b % 2 ^ w < a % 2 ^ w)

/-- The fixed tree of R377 over the numbers x: node i of level 0 is number i, and of each level above it combines nodes 2i and 2i + 1 of the one below. -/
def treeNode (f : Nat → Nat → Nat × Nat) (x : Nat → Nat) : Nat → Nat → Nat × Nat
  | 0, i => (x i, 0)
  | l + 1, i =>
    let a := treeNode f x l (2 * i)
    let b := treeNode f x l (2 * i + 1)
    let r := f a.1 b.1
    (r.1, a.2 ||| b.2 ||| r.2)

/-- The flags of a 32 by 32 table of results, OR-ed. -/
def tableFlags (f : Nat → Nat → Nat × Nat) : Nat :=
  (List.range 32).foldl (fun g i => (List.range 32).foldl (fun g j => g ||| (f i j).2) g) 0

/-- The numbers of a 32 by 32 table of results, row by row. -/
def tableRows (f : Nat → Nat → Nat × Nat) : List (List Nat) := (List.range 32).map fun i => (List.range 32).map fun j => (f i j).1

/-! ### The control invariant -/

/-- What every step keeps of the module's control registers: the firmware lock has been written before it is set (R88); boot has gone only after the wipe, with
the lock set on a range that is not empty, and measures and is ready with it (R87, R89); a report is made only of a measured module (R90); accepted features
are offered ones, are in force only once the boot is ready, and feature 1 comes only with feature 0 (R85 to R87); CLSEL names a link (R98); MEMB is at most 32 (R144); and the reserved bits of XLBASE
read zero (R205). -/
structure ControlInv (s : State) : Prop where
  locked : s.lock = true → s.fwWritten = true
  order : s.go = true → s.wiped = true ∧ s.lock = true ∧ s.lockBase.toNat ≤ s.lockLimit.toNat
  ready : s.measured = s.go ∧ s.bootReady = s.go
  reports : s.atBusy = true → s.measured = true
  features : s.featUpper = 0 ∧ s.featLower &&& ~~~0x7FF = 0 ∧ (s.featLower.getLsbD 1 = true → s.featLower.getLsbD 0 = true)
  accepted : s.featAcc &&& ~~~0x7FF = 0 ∧ (s.featAcc.getLsbD 1 = true → s.featAcc.getLsbD 0 = true) ∧ (s.featUpperSet = true → s.bootReady = true)
  link : s.clsel.toNat < 80
  members : s.podMemb.toNat ≤ 32
  translation : s.xlbase &&& ~~~0xFFFFFF0001 = 0

end Sys2Proof
end

