-- ==== Sys2Proof/Certificates/Slice0/Obligations.lean ====
section
/-! DEFINITION. The statements for the provers. Each says which rules of spec/ it states; a statement about an instruction's completion takes its
operands through readSrc, its destination through writeDst and its memory through access, whose own statements stand beside it. -/

open Sys2Proof Sys2Proof.Machine

/-- A step runs the decoded instruction: when the next turn is an agent's, its active context may issue, and the bytes at its PC are a whole
instruction of one fetch block, step is exec of what they decode to; a step of another agent is run as its row says; and, by the model's choice (log
entry 2), the head of the agenda is the next turn. -/
def Obligations.StepRunsDecoded : Prop :=
  (∀ (s v u : State) (key : Nat) (i : Instr), nextTurn s = (.issue key, v) → v.halted = false → isAgent key = true → u = focusOn v key →
    canIssue u = true → clockStopped u (clusterOf key) = false → dueTake u = false →
    ∀ len, len = (u.byteAt (locIst u.focus u.cur.pc.toNat)).toNat % 4 → len ≠ 0 → u.cur.pc.toNat % 32 + lenBytes len ≤ 32 →
    decode (u.insnAt u.focus u.cur.pc) = .ok i → step s = exec i u)
  ∧ (∀ (s v : State) (i : Instr), nextTurn s = (.event i, v) → v.halted = false → isStep i = true → awaitsClock v i = false → namesAgents i = true →
    step s = exec i v)
  ∧ (∀ (s : State) (t : Turn) (ts : List Turn), s.agenda = t :: ts → nextTurn s = (t, { s with agenda := ts, tick := s.tick + 1 }))

/-- Every instruction and every step of another agent goes on in a next state, from every state; a step of the module refuses nothing, and stops only
when a turn names an agent that the module has not (the model's own bound: log entry 9). -/
def Obligations.StepNeverRefuses : Prop :=
  (∀ (i : Instr) (s : State), ∃ t, exec i s = .next t)
  ∧ (∀ (s : State) (r : Refusal), step s ≠ .refused r)
  ∧ (∀ (s : State) (f : Fault), step s = .fault f → f = .noSuchAgent ∧
      ((∃ key, (nextTurn s).1 = .issue key ∧ isAgent key = false) ∨ ∃ i, (nextTurn s).1 = .event i ∧ namesAgents i = false))

/-- A word whose LEN is 00 raises ILLFETCH with DETAIL 0 and one that crosses its fetch block raises it with DETAIL 1, before any other field is
looked at; a word that no opcode claims, or that a reserved value spoils, raises ILLOP, whatever its predicate (log entry 7). COMPLETION of the two
forms that stand for such words, from every state: exec of zeroedWordFetch, and exec of unassignedOpcode, answers a next state, the entry of the fault
that is the form's whole effect. A module whose clocks have stopped changes nothing but the turn it is at, until it is reset (as the model reads R23:
log entry 10); the host still writes its own memory, and the mailbox of a module whose keys are erased still takes a request, which it refuses.
Predication as a whole: an instruction whose predicate, after its inversion, has no bit set takes its issue and moves the PC, and does nothing else.
An instruction that its agent does not run raises ILLOP, whatever its predicate (as the model reads R274 and R289: log entry 7). -/
def Obligations.IssueChecksAndFetchFaults : Prop :=
  ((∀ (s v u : State) (key : Nat), nextTurn s = (.issue key, v) → v.halted = false → isAgent key = true → u = focusOn v key →
    canIssue u = true → clockStopped u (clusterOf key) = false → dueTake u = false →
    ∀ len, len = (u.byteAt (locIst u.focus u.cur.pc.toNat)).toNat % 4 →
    (len = 0 → step s = .next (takeFault u u.focus u.act { code := 2, detail := 0 }))
    ∧ (len ≠ 0 → 32 < u.cur.pc.toNat % 32 + lenBytes len → step s = .next (takeFault u u.focus u.act { code := 2, detail := 1 }))
    ∧ (len ≠ 0 → u.cur.pc.toNat % 32 + lenBytes len ≤ 32 → ∀ e, decode (u.insnAt u.focus u.cur.pc) = .error e →
      step s = .next (takeFault u u.focus u.act { code := 1 })))
  ∧ (∀ (s : State) (raw : BitVec 128), exec (.zeroedWordFetch raw) s = .next (takeFault s s.focus s.act { code := 2, detail := 0 })
    ∧ exec (.unassignedOpcode raw) s = .next (takeFault s s.focus s.act { code := 1 })))
  ∧ (∀ (s v : State) (t : Turn), nextTurn s = (t, v) → v.halted = true →
    (t = .event .moduleReset → step s = exec .moduleReset v)
    ∧ (∀ a bs, t = .hostStore a bs → step s = .next { v with hostMem := v.hostMem.putN a bs })
    ∧ (∀ x, t = .event (.attestRequest x) → v.keysErased = true → step s = exec (.attestRequest x) v)
    ∧ (∀ x, t = .event (.registerWrite 0x300020 x) → v.keysErased = true → step s = exec (.registerWrite 0x300020 x) v)
    ∧ (t ≠ .event .moduleReset → (∀ a bs, t ≠ .hostStore a bs) →
      (v.keysErased = false ∨ ((∀ x, t ≠ .event (.attestRequest x)) ∧ ∀ x, t ≠ .event (.registerWrite 0x300020 x))) → step s = .next v))
  ∧ (∀ (i : Instr) (s : State) (c : Com) (w : Where), wholePred i = some c → runsOn i = some w → w.ok s.focus = true → s.feDue = false →
    s.predBusy c.pred.p = false → s.predMask c.pred = 0 → exec i s = .next (retire s))
  ∧ (∀ (i : Instr) (s : State) (w : Where), runsOn i = some w → w.ok s.focus = false → s.feDue = false →
    exec i s = .next (takeFault s s.focus s.act { code := 1 }))

/-- Taking a fault: the context freezes with its code and keeps every register, its PC stays at the instruction (at the next one for TRAP and BRK),
the packet with the fields of R233 is in its debug window and, of a tile core, the last on its way to the leaf; the other context, every other core
and all of memory stay as they are. Returning from a fault: a context that RESUME lets go on is RUNNING if it is the active one and READY if the
shadow, at the PC at which it stood, with FCODE 0 and its registers; REDIR does the same at another PC, and the wait or the reply of the instruction
that it leaves goes on (as the model reads R241 and R327: log entry 23). -/
def Obligations.TakingAndLeavingAFault : Prop :=
  (∀ (s t : State) (key : Nat) (n : Bool) (f : FaultInfo), t = takeFault s key n f →
    (t.ctx key n).st = .frozen ∧ (t.ctx key n).fcode = BitVec.ofNat 8 f.code
    ∧ (t.ctx key n).pc = (if f.code = 13 ∨ f.code = 14 then nextPc (s.ctx key n).pc (s.lenAt key (s.ctx key n).pc) else (s.ctx key n).pc)
    ∧ (t.ctx key n).g = (s.ctx key n).g ∧ (t.ctx key n).p = (s.ctx key n).p ∧ (t.ctx key n).vw = (s.ctx key n).vw ∧ (t.ctx key n).t = (s.ctx key n).t
    ∧ (t.ctx key n).status = (s.ctx key n).status ∧ (t.ctx key n).loop = (s.ctx key n).loop ∧ (t.ctx key n).q4 = (s.ctx key n).q4
    ∧ t.ctx key (!n) = s.ctx key (!n) ∧ (∀ k, k ≠ key → t.core k = s.core k) ∧ t.mem = s.mem ∧ t.fabric = s.fabric
    ∧ (t.core key).q = (s.core key).q ∧ (t.core key).vq = (s.core key).vq ∧ (t.core key).active = (s.core key).active
    ∧ (t.core key).pktOut = (if isTile key then (s.core key).pktOut ++ [(t.ctx key n).packet] else (s.core key).pktOut)
    ∧ (f.code < 2 ^ 8 → f.space < 2 ^ 8 → f.detail < 2 ^ 24 → ∀ p, p = (t.ctx key n).packet →
      p.extractLsb' 0 8 = BitVec.ofNat 8 f.code ∧ p.extractLsb' 16 13 = BitVec.ofNat 13 key ∧ p.extractLsb' 29 3 = BitVec.ofNat 3 n.toNat
      ∧ p.extractLsb' 32 32 = (s.ctx key n).pc.setWidth 32 ∧ p.extractLsb' 64 128 = BitVec.ofNat 128 (s.insnAt key (s.ctx key n).pc)
      ∧ p.extractLsb' 192 64 = BitVec.ofNat 64 f.addr ∧ p.extractLsb' 256 8 = BitVec.ofNat 8 f.space ∧ p.extractLsb' 264 24 = BitVec.ofNat 24 f.detail
      ∧ p.extractLsb' 288 32 = (t.ctx key n).pc.setWidth 32 ∧ p.extractLsb' 448 64 = BitVec.ofNat 64 (s.tbOf (clusterOf key))))
  ∧ ((∀ (s : State) (key : Nat) (n : Bool) (t : State), t = unfreeze s key n →
    (t.ctx key n).st = (if n = (s.core key).active then .running else .ready) ∧ (t.ctx key n).fcode = 0 ∧ (t.ctx key n).pc = (s.ctx key n).pc
    ∧ (t.ctx key n).g = (s.ctx key n).g ∧ (t.ctx key n).p = (s.ctx key n).p ∧ (t.ctx key n).vw = (s.ctx key n).vw
    ∧ (t.ctx key n).status = (s.ctx key n).status ∧ t.ctx key (!n) = s.ctx key (!n) ∧ (∀ k, k ≠ key → t.core k = s.core k) ∧ t.mem = s.mem)
  ∧ (∀ (s : State) (key : Nat) (n : Bool), canResume s key n = true ↔ (s.ctx key n).st = .frozen ∧ (s.ctx key n).vac = false)
  ∧ (∀ (s : State) (key : Nat) (n : Bool) (pc : BitVec 15), pc ≠ (s.ctx key n).pc →
      redirCtx s key n pc false = resumeCtx (settleAway ((leaveInstr s key n).modCtx key n fun c => { c with pc }) key n) key n)
  ∧ (∀ (s : State) (key : Nat) (n : Bool),
      redirCtx s key n (s.ctx key n).pc false = resumeCtx (settleAway (s.modCtx key n fun c => { c with pc := (s.ctx key n).pc }) key n) key n))

/-- Reading a class S source: g0 is 0; a register to which a reply is due waits; t0-t3 read; a queue that has a word gives its first and drops it, and
an empty one blocks; q6 gives the record's next word, and drops the record with its last. Writing a class S destination: a write of g0 changes
nothing; a register that no reply is due to takes the value; q_k of a tile core pushes to q_i of the core at position k of its quad, i its own
position, and blocks while that queue holds 8, the place of a word that a waiting JOIN has popped among them (log entry 16). -/
def Obligations.OperandForms : Prop :=
  (∀ s : State,
    readSrc s (.g 0) = .ok (0, s)
    ∧ (∀ n : Fin 48, n ≠ 0 → s.regBusy n = false → readSrc s (.g n) = .ok (s.cur.g.get n, s))
    ∧ (∀ n : Fin 48, s.regBusy n = true → ∃ e, readSrc s (.g n) = .error e)
    ∧ (∀ n : Fin 4, readSrc s (.t n) = .ok (s.cur.t.get n, s))
    ∧ (∀ (i : Fin 4) (w : Word) (ws : List QWord), s.me.q.get i = .word w :: ws →
      readSrc s (.q i) = .ok (w, s.modMe fun k => { k with q := k.q.set i ws }))
    ∧ (∀ (i : Fin 4) (id : Nat) (ws : List QWord), s.me.q.get i = [] ∨ s.me.q.get i = .due id :: ws → ∃ e, readSrc s (.q i) = .error e)
    ∧ (∀ w ws, s.cur.q4 = w :: ws → readSrc s .q4 = .ok (w, s.modCur fun c => { c with q4 := ws }))
    ∧ (∀ w ws, s.cur.q5 = w :: ws → readSrc s .q5 = .ok (w, s.modCur fun c => { c with q5 := ws }))
    ∧ (∀ w ws, s.cur.q7 = w :: ws → readSrc s .q7 = .ok (w, s.modCur fun c => { c with q7 := ws }))
    ∧ (s.cur.q4 = [] → ∃ e, readSrc s .q4 = .error e) ∧ (s.cur.q5 = [] → ∃ e, readSrc s .q5 = .error e)
    ∧ (s.cur.q7 = [] → ∃ e, readSrc s .q7 = .error e) ∧ (s.cur.inbox = [] → ∃ e, readSrc s .q6 = .error e)
    ∧ (∀ r rs, s.cur.inbox = r :: rs → s.cur.inboxRead < 7 →
      readSrc s .q6 = .ok (r.extractLsb' (64 * s.cur.inboxRead) 64, s.modCur fun c => { c with inboxRead := c.inboxRead + 1 }))
    ∧ (∀ r rs, s.cur.inbox = r :: rs → s.cur.inboxRead = 7 →
      readSrc s .q6 = .ok (r.extractLsb' 448 64, s.modCur fun c => { c with inbox := rs, inboxRead := 0 })))
  ∧ (∀ (s : State) (v : Word),
    (writeDst s (.g 0) v = .ok (s.modCur fun c => c))
    ∧ (∀ n : Fin 48, n ≠ 0 → s.regBusy n = false → writeDst s (.g n) v = .ok (s.modCur fun c => { c with g := c.g.set n v }))
    ∧ (∀ n : Fin 48, s.regBusy n = true → ∃ e, writeDst s (.g n) v = .error e)
    ∧ (∀ k : Fin 4, isTile s.focus = true → ∀ key i, key = s.focus / 4 * 4 + k.val → i = Fin.ofNat 4 s.focus →
      (((s.core key).q.get i).length + (s.ctx key false).heldOf (.q i) + (s.ctx key true).heldOf (.q i) < 8 →
        writeDst s (.q k) v = .ok (s.modCore key fun c => { c with q := c.q.set i (c.q.get i ++ [.word v]) }))
      ∧ (8 ≤ ((s.core key).q.get i).length + (s.ctx key false).heldOf (.q i) + (s.ctx key true).heldOf (.q i) → ∃ e, writeDst s (.q k) v = .error e))
    ∧ (∀ n : Fin 48, (s.modCur fun c => { c with g := c.g.set n v }).cur.g.get n = v))

/-- R312, R314. The two-source integer instructions: A and B are read in that order, and D receives the sum, difference, bitwise function, shift or
rotation by B[5:0], lesser or greater, low or high product, quotient or remainder, with R252's results for a zero divisor. R313, R315 to R320. The
immediate forms, bit counts, extensions, SEL, SETC under each condition, LI in its three lengths, LEA with both offsets, and the bit-field forms. -/
def Obligations.IntegerResults : Prop :=
  (Binary .add (fun x y => x + y) ∧ Binary .sub (fun x y => x - y) ∧ Binary .and (fun x y => x &&& y) ∧ Binary .or (fun x y => x ||| y)
  ∧ Binary .xor (fun x y => x ^^^ y) ∧ Binary .andn (fun x y => x &&& ~~~y)
  ∧ Binary .shl (fun x y => x <<< (y.toNat % 64)) ∧ Binary .shr (fun x y => x >>> (y.toNat % 64))
  ∧ Binary .sra (fun x y => x.sshiftRight (y.toNat % 64)) ∧ Binary .rotl (fun x y => x.rotateLeft (y.toNat % 64))
  ∧ Binary .min (fun x y => if x.toInt < y.toInt then x else y) ∧ Binary .max (fun x y => if x.toInt < y.toInt then y else x)
  ∧ Binary .minz (fun x y => if x.toNat < y.toNat then x else y) ∧ Binary .maxz (fun x y => if x.toNat < y.toNat then y else x)
  ∧ Binary .mul (fun x y => x * y)
  ∧ Binary .mulh (fun x y => BitVec.ofInt 64 (x.toInt * y.toInt / 2 ^ 64))
  ∧ Binary .mulhz (fun x y => BitVec.ofNat 64 (x.toNat * y.toNat / 2 ^ 64))
  ∧ Binary .div (fun x y => if y = 0 then BitVec.allOnes 64 else BitVec.ofInt 64 (x.toInt.tdiv y.toInt))
  ∧ Binary .divz (fun x y => if y = 0 then BitVec.allOnes 64 else BitVec.ofNat 64 (x.toNat / y.toNat))
  ∧ Binary .rem (fun x y => if y = 0 then x else BitVec.ofInt 64 (x.toInt.tmod y.toInt))
  ∧ Binary .remz (fun x y => if y = 0 then x else BitVec.ofNat 64 (x.toNat % y.toNat)))
  ∧ ((∀ imm : BitVec 24,
    Unary (fun c d a => .addi c d a imm) (fun x => x + imm.signExtend 64) ∧ Unary (fun c d a => .andi c d a imm) (fun x => x &&& imm.signExtend 64)
    ∧ Unary (fun c d a => .ori c d a imm) (fun x => x ||| imm.signExtend 64) ∧ Unary (fun c d a => .xori c d a imm) (fun x => x ^^^ imm.signExtend 64)
    ∧ Constant (fun c d => .li24 c d imm) (imm.signExtend 64))
  ∧ (∀ n : Fin 64,
    Unary (fun c d a => .shli c d a n) (fun x => x <<< n.val) ∧ Unary (fun c d a => .shri c d a n) (fun x => x >>> n.val)
    ∧ Unary (fun c d a => .srai c d a n) (fun x => x.sshiftRight n.val))
  ∧ Unary .clz (fun x => BitVec.ofNat 64 (((List.range 64).find? fun i => x.getLsbD (63 - i)).getD 64))
  ∧ Unary .ctz (fun x => BitVec.ofNat 64 (((List.range 64).find? fun i => x.getLsbD i).getD 64))
  ∧ Unary .popc (fun x => BitVec.ofNat 64 ((List.range 64).filter fun i => x.getLsbD i).length)
  ∧ (∀ n : Fin 65,
    Unary (fun c d a => .sext c d a n) (fun x => (x.setWidth n.val).signExtend 64)
    ∧ Unary (fun c d a => .zext c d a n) (fun x => (x.setWidth n.val).setWidth 64))
  ∧ (∀ (s s1 s2 s3 t : State) (c : Com) (d : Dst) (a b x : Use Src) (u v z : Word), Ready .any c s →
    readSrc s x.r = .ok (z, s1) → readSrc s1 a.r = .ok (u, s2) → readSrc s2 b.r = .ok (v, s3) →
    writeDst s3 d (if z = 0 then v else u) = .ok t → exec (.sel c d a b x) s = .next (completed s t))
  ∧ Binary (fun c d a b => .setc c .eq d a b) (fun x y => if x = y then 1 else 0)
  ∧ Binary (fun c d a b => .setc c .ne d a b) (fun x y => if x = y then 0 else 1)
  ∧ Binary (fun c d a b => .setc c .lt d a b) (fun x y => if x.toInt < y.toInt then 1 else 0)
  ∧ Binary (fun c d a b => .setc c .ge d a b) (fun x y => if x.toInt < y.toInt then 0 else 1)
  ∧ Binary (fun c d a b => .setc c .le d a b) (fun x y => if y.toInt < x.toInt then 0 else 1)
  ∧ Binary (fun c d a b => .setc c .gt d a b) (fun x y => if y.toInt < x.toInt then 1 else 0)
  ∧ Binary (fun c d a b => .setc c .ltz d a b) (fun x y => if x.toNat < y.toNat then 1 else 0)
  ∧ Binary (fun c d a b => .setc c .gez d a b) (fun x y => if x.toNat < y.toNat then 0 else 1)
  ∧ Binary (fun c d a b => .setc c .lez d a b) (fun x y => if y.toNat < x.toNat then 0 else 1)
  ∧ Binary (fun c d a b => .setc c .gtz d a b) (fun x y => if y.toNat < x.toNat then 1 else 0)
  ∧ (∀ imm : BitVec 32, Constant (fun c d => .li32 c d false imm) (imm.signExtend 64)
    ∧ Constant (fun c d => .li32 c d true imm) (imm.signExtend 64 <<< 32))
  ∧ (∀ imm : BitVec 64, Constant (fun c d => .li64 c d imm) imm)
  ∧ (∀ (sc : Fin 4) (v : BitVec 24), Binary (fun c d a b => .lea c sc d a b (.imm24 v)) (fun x y => x + (y <<< sc.val) + v.signExtend 64))
  ∧ (∀ (sc : Fin 4) (v : BitVec 32), Binary (fun c d a b => .lea c sc d a b (.imm32 v)) (fun x y => x + (y <<< sc.val) + v.signExtend 64))
  ∧ (∀ (pos : Fin 64) (len : Fin 128), pos.val + len.val ≤ 64 →
    Unary (fun c d a => .bfx c d a pos len) (fun x => ((x >>> pos.val).setWidth len.val).setWidth 64))
  ∧ (∀ (s s1 s2 t : State) (c : Com) (d : Fin 48) (a : Use Src) (pos : Fin 64) (len : Fin 128) (x y v : Word), Ready .any c s →
    pos.val + len.val ≤ 64 → readSrc s a.r = .ok (x, s1) → readSrc s1 (.g d) = .ok (y, s2) →
    (∀ i < 64, v.getLsbD i = if pos.val ≤ i ∧ i < pos.val + len.val then x.getLsbD (i - pos.val) else y.getLsbD i) →
    writeDst s2 (.g d) v = .ok t → exec (.bfi c d a pos len) s = .next (completed s t)))

/-- R321 to R325. The FP32 instructions: the low words of the sources are read, the rounding mode is the form's override or STATUS.RM, D receives the
result and its flags are OR-ed into STATUS. -/
def Obligations.FloatResults : Prop :=
  (∀ f : FForm, FloatBinary (fun c d a b => .fadd c f d a b) (formRm f) (fpAdd 23)
    ∧ FloatBinary (fun c d a b => .fsub c f d a b) (formRm f) (fpSub 23)
    ∧ FloatBinary (fun c d a b => .fmul c f d a b) (formRm f) (fpMul 23)
    ∧ FloatUnary (fun c d a => .fsqrt c f d a) (formRm f) (fun m x => fpSqrt 23 m (x.toNat % 2 ^ 32)))
  ∧ FloatBinary .fmin Ctx.rm (fun _ => fpMinMax 23 false) ∧ FloatBinary .fmax Ctx.rm (fun _ => fpMinMax 23 true)
  ∧ (∀ cond : Cond, FloatBinary (fun c d a b => .fcmp c cond d a b) Ctx.rm
      (fun _ x y => ((fpCmp 23 cond x y).1.toNat, (fpCmp 23 cond x y).2)))
  ∧ (∀ (cv : FCvt) (f : FForm), FloatUnary (fun c d a => .fcvt c cv f d a) (formRm f) (fun m x => fcvtVal cv m x))
  ∧ (∀ (s s1 s2 s3 t : State) (c : Com) (r : Rnd) (d : Dst) (a b x : Use Src) (u v w : Word), Ready .any c s →
    readSrc s a.r = .ok (u, s1) → readSrc s1 b.r = .ok (v, s2) → readSrc s2 x.r = .ok (w, s3) →
    (let z := fpFma 23 (rmOf r s.cur.rm) (u.toNat % 2 ^ 32) (v.toNat % 2 ^ 32) (w.toNat % 2 ^ 32)
     writeDst (s3.modCur fun k => { k with status := k.status ||| BitVec.ofNat 64 z.2 }) d (BitVec.ofNat 64 z.1) = .ok t) →
    exec (.ffma c r d a b x) s = .next (completed s t))

/-- R304 to R311. Branches, calls, returns and the hardware loop: the PC moves to the target when the condition holds and else to the successor; CALL
and CALLR leave the successor in g47; LOOP takes its count once and, at 0, goes past its end; TRAP and BRK take their faults and NOP only ends. -/
def Obligations.ControlResults : Prop :=
  (∀ (s : State) (c : Com) (l : NopLen), Ready .any c s → exec (.nop c l) s = .next (completed s s))
  ∧ (∀ (s : State) (c : Com) (imm : BitVec 24), Ready .any c s → exec (.br c imm) s = .next (wentTo s s (branchTarget s imm)))
  ∧ (∀ (s s1 s2 : State) (c : Com) (cond : Cond) (a b : Use Src) (imm : BitVec 24) (x y : Word), Ready .any c s →
    readSrc s a.r = .ok (x, s1) → readSrc s1 b.r = .ok (y, s2) →
    exec (.brc c cond a b imm) s = .next (if condHolds cond x y then wentTo s s2 (branchTarget s imm) else completed s s2))
  ∧ (∀ (s s1 : State) (c : Com) (a : Use Src) (imm : BitVec 24) (x : Word), Ready .any c s → readSrc s a.r = .ok (x, s1) →
    exec (.brz c a imm) s = .next (if x = 0 then wentTo s s1 (branchTarget s imm) else completed s s1)
    ∧ exec (.brnz c a imm) s = .next (if x = 0 then completed s s1 else wentTo s s1 (branchTarget s imm)))
  ∧ (∀ (s : State) (c : Com) (a : Use (Fin 8)) (imm : BitVec 24), Ready .any c s → s.predBusy a.r = false →
    exec (.brpAny c a imm) s = .next (if s.cur.readP a.r = 0 then completed s s else wentTo s s (branchTarget s imm))
    ∧ exec (.brpAll c a imm) s = .next (if s.cur.readP a.r = BitVec.allOnes 256 then wentTo s s (branchTarget s imm) else completed s s))
  ∧ (∀ (s t : State) (c : Com) (imm : BitVec 24), Ready .any c s → writeDst s (.g 47) (s.succPc.setWidth 64) = .ok t →
    exec (.call c imm) s = .next (wentTo s t (branchTarget s imm)))
  ∧ (∀ (s s1 t : State) (c : Com) (a : Use Src) (x : Word), Ready .any c s → readSrc s a.r = .ok (x, s1) →
    writeDst s1 (.g 47) (s.succPc.setWidth 64) = .ok t →
    exec (.callr c a) s = .next (wentTo s t (BitVec.ofNat 15 (x.toNat / 4 * 4))))
  ∧ (∀ (s s1 : State) (c : Com) (x : Word), Ready .any c s → readSrc s (.g 47) = .ok (x, s1) →
    exec (.ret c) s = .next (wentTo s s (BitVec.ofNat 15 (x.toNat / 4 * 4))))
  ∧ (∀ (s s1 : State) (c : Com) (a : Use Src) (x : Word), Ready .any c s → readSrc s a.r = .ok (x, s1) →
    exec (.jmpr c a) s = .next (wentTo s s1 (BitVec.ofNat 15 (x.toNat / 4 * 4))))
  ∧ (∀ (s s1 : State) (c : Com) (a : Use Src) (imm : BitVec 24) (x : Word), Ready .any c s → readSrc s a.r = .ok (x, s1) →
    (x.toNat % 2 ^ 32 ≠ 0 → exec (.loop c a imm) s = .next (wentTo s (s1.modCur fun k =>
      { k with loop := some { count := x.setWidth 32, start := s.succPc, last := branchTarget s imm }
               loopStart := s.succPc, loopLast := branchTarget s imm }) s.succPc))
    ∧ (x.toNat % 2 ^ 32 = 0 → exec (.loop c a imm) s = .next (wentTo s s1 (loopSkip s (branchTarget s imm)))))
  ∧ (∀ (s : State) (c : Com) (code : BitVec 8), Ready .any c s →
    exec (.trap c code) s = .next (takeFault s s.focus s.act { code := 13, detail := code.toNat })
    ∧ exec (.brk c) s = .next (takeFault s s.focus s.act { code := 14 }))

/-- R94, R196, R201, R210, R212, R328. A load of the own spm or lane gives its bytes, extended, with POIS where a word is poisoned, and under LU kills
its words; one beyond the core hits a held line or becomes one request whose reply writes D. R211, R214, R328. A store to the own spm or lane is
performed at issue; one beyond the core is posted, one request a line, and updates a held line. -/
def Obligations.LoadAndStoreResults : Prop :=
  ((∀ (s s1 s2 s3 t : State) (c : Com) (k : LdKind) (d : Dst) (m : MemOp) (x : Word) (acc : Acc), Ready .any c s →
    (m.sel = .spm ∨ m.sel = .lane) → readSrc s m.base.r = .ok (x, s1) → memReady s1 = .ok () →
    access s1 m.sel rdUse (addressOf x m.off) (loadWidth k) (loadWidth k) = .ok (acc, s2) → ownBanks s2 false acc.locs = .ok s3 →
    writeDst (withPois (if m.lu then killWords s3 acc.locs else s3) (acc.locs.any s3.poisonAt)) d (loadedValue k (acc.locs.map s3.byteAt)) = .ok t →
    exec (.ld c k d m) s = .next (completed s t))
  ∧ (∀ (s s1 s2 : State) (c : Com) (k : LdKind) (d : Dst) (m : MemOp) (x : Word) (acc : Acc), Ready .any c s →
    readSrc s m.base.r = .ok (x, s1) → memReady s1 = .ok () →
    access s1 m.sel rdUse (addressOf x m.off) (loadWidth k) (loadWidth k) = .ok (acc, s2) → acc.own = false →
    s2.linesBusy s2.focus s2.act [firstLoc acc / 64] = false →
    ∀ may, may = (!m.na && !(acc.ms.contains (firstLoc acc / 64)) && reusable (firstLoc acc) && (m.sel == .glb || m.sel == .cls || m.sel == .twr)) →
    (∀ (l : LrbLine) (t : State), may = true → s2.me.heldLine (firstLoc acc) = some l →
      writeDst (withPois (countPmc (s2.modMe fun k => lrbTouch k (firstLoc acc)) s2.focus (some s2.act) 11 1) (l.poisAt (firstLoc acc))) d
        (loadedValue k ((l.bytes.drop (firstLoc acc % 64)).take acc.locs.length)) = .ok t →
      exec (.ld c k d m) s = .next (completed s t))
    ∧ (∀ (dst : ReqDst) (s3 s4 : State), (may = true → s2.me.heldLine (firstLoc acc) = none) →
      reserveDst s2 d k s2.nextId = .ok (dst, s3) → s4 = (if may then countPmc s3 s3.focus (some s3.act) 12 1 else s3) →
      exec (.ld c k d m) s = .next (completed s (sendReq s4
        { reqOf s4.focus s4.act (.load acc.locs) (firstLoc acc) none with dst, ms := acc.ms.contains (firstLoc acc / 64), alloc := may, glb := m.sel == .glb })))))
  ∧ (∀ (s s1 s2 s3 : State) (c : Com) (k : StKind) (d : Src) (m : MemOp) (x v : Word) (acc : Acc), Ready .any c s →
    readSrc s m.base.r = .ok (x, s1) → readSrc s1 d = .ok (v, s2) → memReady s2 = .ok () →
    access s2 m.sel wrUse (addressOf x m.off) (storeWidth k) (storeWidth k) = .ok (acc, s3) →
    (∀ s4, acc.own = true → ownBanks s3 true acc.locs = .ok s4 →
      exec (.st c k d m) s = .next (completed s (performWrite s4 (!isTile s4.focus) (acc.locs.zip (bytesOfNat (storeWidth k) v.toNat)))))
    ∧ (acc.own = false → sendReady s3 acc.locs = .ok () →
      exec (.st c k d m) s = .next (completed s
        (postWrites (s3.modMe fun k' => lrbStore k' (acc.locs.zip (bytesOfNat (storeWidth k) v.toNat))) acc.ms
          (acc.locs.zip (bytesOfNat (storeWidth k) v.toNat))).2)))

/-- R202, R330, R331. The full/empty forms: on the own spm each takes its step when its turn at its word has come; through rmt each is one request,
after which its context is blocked until the answer. -/
def Obligations.FullEmptyResults : Prop :=
  (∀ (s s1 s2 s3 t : State) (c : Com) (d : Dst) (m : MemOp) (x : Word) (acc : Acc), Ready .any c s →
    readSrc s m.base.r = .ok (x, s1) → memReady s1 = .ok () → access s1 m.sel rdUse (addressOf x m.off) 8 8 = .ok (acc, s2) →
    acc.own = true → ownBanks s2 true [firstLoc acc] = .ok s3 →
    (feTurn s2 .ldw (firstLoc acc) = true →
      writeDst (withPois (if m.lu then killSpmWord s3 (firstLoc acc) else s3) (s3.poisonAt (firstLoc acc))) d
        (BitVec.ofNat 64 (s3.readLE (firstLoc acc) 8)) = .ok t → exec (.ldw c d m) s = .next (completed s t))
    ∧ (feTurn s2 .lde (firstLoc acc) = true → ∀ s4 : State, s4 = { s3 with full := nsDel s3.full (s3.phys (firstLoc acc) / 8) } →
      writeDst (withPois (if m.lu then killSpmWord s4 (firstLoc acc) else s4) (s3.poisonAt (firstLoc acc))) d
        (BitVec.ofNat 64 (s3.readLE (firstLoc acc) 8)) = .ok t → exec (.lde c d m) s = .next (completed s t)))
  ∧ (∀ (s s1 s2 s3 s4 : State) (c : Com) (d : Src) (m : MemOp) (x v : Word) (acc : Acc), Ready .any c s →
    readSrc s m.base.r = .ok (x, s1) → readSrc s1 d = .ok (v, s2) → memReady s2 = .ok () →
    access s2 m.sel wrUse (addressOf x m.off) 8 8 = .ok (acc, s3) → acc.own = true → ownBanks s3 true [firstLoc acc] = .ok s4 →
    ∀ t : State, t = { performWrite s4 true (pairsAt (firstLoc acc) (bytesOfNat 8 v.toNat)) with full := nsAdd s4.full (s4.phys (firstLoc acc) / 8) } →
    (feTurn s3 .stw (firstLoc acc) = true → exec (.stw c d m) s = .next (completed s t))
    ∧ (feTurn s3 .stf (firstLoc acc) = true → exec (.stf c d m) s = .next (completed s t)))
  ∧ (∀ (s s1 s2 : State) (c : Com) (m : MemOp) (x : Word) (acc : Acc), Ready .any c s →
    readSrc s m.base.r = .ok (x, s1) → memReady s1 = .ok () → access s1 m.sel wrUse (addressOf x m.off) 8 8 = .ok (acc, s2) → acc.own = true →
    (feTurn s2 .setE (firstLoc acc) = true →
      exec (.fesetE c m) s = .next (completed s { s2 with full := nsDel s2.full (s2.phys (firstLoc acc) / 8) }))
    ∧ (∀ s3, feTurn s2 .setF (firstLoc acc) = true → ownBanks s2 true [firstLoc acc] = .ok s3 →
      exec (.fesetF c m) s = .next (completed s
        { s3.liven (s3.phys (firstLoc acc) / 8) with full := nsAdd s3.full (s3.phys (firstLoc acc) / 8) })))
  ∧ (∀ (s s1 s2 s3 : State) (c : Com) (d : Dst) (m : MemOp) (x : Word) (acc : Acc) (dst : ReqDst), Ready .any c s →
    readSrc s m.base.r = .ok (x, s1) → memReady s1 = .ok () → access s1 m.sel rdUse (addressOf x m.off) 8 8 = .ok (acc, s2) →
    acc.own = false → sendReady s2 [firstLoc acc] = .ok () → reserveDst s2 d .d64 s2.nextId = .ok (dst, s3) → sendReady s3 [firstLoc acc] = .ok () →
    let r (f : FeForm) : Req := { reqOf s3.focus s3.act (.fe f (firstLoc acc) 0) (firstLoc acc) (some (classOf s3.focus (firstLoc acc))) with dst }
    exec (.ldw c d m) s = .next (completed s (sendReq s3 (r .ldw))) ∧ exec (.lde c d m) s = .next (completed s (sendReq s3 (r .lde))))
  ∧ (∀ (s s1 s2 s3 : State) (c : Com) (d : Src) (m : MemOp) (x v : Word) (acc : Acc), Ready .any c s →
    readSrc s m.base.r = .ok (x, s1) → readSrc s1 d = .ok (v, s2) → memReady s2 = .ok () →
    access s2 m.sel wrUse (addressOf x m.off) 8 8 = .ok (acc, s3) → acc.own = false → sendReady s3 [firstLoc acc] = .ok () →
    let r (f : FeForm) : Req := reqOf s3.focus s3.act (.fe f (firstLoc acc) v) (firstLoc acc) (some (classOf s3.focus (firstLoc acc)))
    exec (.stw c d m) s = .next (completed s (sendReq s3 (r .stw))) ∧ exec (.stf c d m) s = .next (completed s (sendReq s3 (r .stf))))
  ∧ (∀ (s s1 s2 : State) (c : Com) (m : MemOp) (x : Word) (acc : Acc), Ready .any c s →
    readSrc s m.base.r = .ok (x, s1) → memReady s1 = .ok () →
    access s1 m.sel wrUse (addressOf x m.off) 8 8 = .ok (acc, s2) → acc.own = false → sendReady s2 [firstLoc acc] = .ok () →
    let r (f : FeForm) : Req := reqOf s2.focus s2.act (.fe f (firstLoc acc) 0) (firstLoc acc) (some (classOf s2.focus (firstLoc acc)))
    exec (.fesetE c m) s = .next (completed s (sendReq s2 (r .setE))) ∧ exec (.fesetF c m) s = .next (completed s (sendReq s2 (r .setF))))

/-- R332 to R334. PUT posts the bytes of its local range, GET sends one counted read for each line, PUTSIG adds the length to its sync word after
every data write, and RADD adds the low 48 bits of its data register. That a poisoned word in the source of PUT or PUTSIG sets POIS is the model's
reading (log entry 15). -/
def Obligations.BlockTransferResults : Prop :=
  (∀ (s s1 s2 s3 : State) (c : Com) (d a : Src) (sel : Space) (len : BitVec 32) (r l : Word) (src dst : Acc), Ready .any c s →
    readSrc s a = .ok (r, s1) → readSrc s1 d = .ok (l, s2) → memReady s2 = .ok () →
    resolve s2 s2.focus s2.cur.asid .spm rdUse l.toNat 8 (addrRange l.toNat len.toNat) = .ok src →
    resolve s2 s2.focus s2.cur.asid sel wrUse r.toNat 8 (addrRange r.toNat len.toNat) = .ok dst →
    ∀ u, u = translated s2 sel (addrRange r.toNat len.toNat) → sendReady u dst.locs = .ok () → ownBanks u false src.locs = .ok s3 →
    exec (.put c d a sel len) s = .next (completed s
      (postWrites (withPois s3 (src.locs.any s3.poisonAt)) dst.ms (dst.locs.zip (src.locs.map s3.byteAt))).2))
  ∧ (∀ (s s1 s2 : State) (c : Com) (d a : Src) (sel : Space) (len : BitVec 32) (r l : Word) (src dst : Acc), Ready .any c s →
    readSrc s a = .ok (r, s1) → readSrc s1 d = .ok (l, s2) → memReady s2 = .ok () →
    resolve s2 s2.focus s2.cur.asid .spm rdUse l.toNat 8 (addrRange l.toNat len.toNat) = .ok dst →
    resolve s2 s2.focus s2.cur.asid sel rdUse r.toNat 8 (addrRange r.toNat len.toNat) = .ok src →
    ∀ v, v = translated s2 sel (addrRange r.toNat len.toNat) → sendReady v src.locs = .ok () →
    exec (.get c d a sel len) s = .next (completed s ((splitRuns (src.locs.zip dst.locs)).foldl (fun (u : State) run =>
      sendReq u { reqOf u.focus u.act (.load (run.map (·.1))) (run.headD (0, 0)).1 (some (classOf u.focus (run.headD (0, 0)).1)) with
        dst := .spm (run.headD (0, 0)).2, ms := src.ms.contains ((run.headD (0, 0)).1 / 64) }) v)))
  ∧ (∀ (s s1 s2 s3 s4 : State) (c : Com) (d a x : Src) (sel ssp : Space) (len : BitVec 32) (r y l : Word) (src dst sync : Acc), Ready .any c s →
    readSrc s a = .ok (r, s1) → readSrc s1 x = .ok (y, s2) → readSrc s2 d = .ok (l, s3) → memReady s3 = .ok () →
    resolve s3 s3.focus s3.cur.asid .spm rdUse l.toNat 8 (addrRange l.toNat len.toNat) = .ok src →
    resolve s3 s3.focus s3.cur.asid sel wrUse r.toNat 8 (addrRange r.toNat len.toNat) = .ok dst →
    syncWord s3 ssp wrUse y.toNat = .ok sync →
    ∀ u, u = tlbFills s3 (isFw s3.focus) s3.myCluster s3.cur.asid
      ((if sel = .glb then addrRange r.toNat len.toNat else []) ++ (if ssp = .glb then addrRange y.toNat 16 else [])) →
    u.linesBusy u.focus u.act (firstLoc sync / 64 :: linesOf dst.locs) = false →
    roomFor u (firstLoc sync :: (linesOf dst.locs).map (· * 64)) = true → ownBanks u false src.locs = .ok s4 →
    ∀ p, p = postWrites (withPois s4 (src.locs.any s4.poisonAt)) dst.ms (dst.locs.zip (src.locs.map s4.byteAt)) →
    exec (.putsig c d a x sel ssp len) s = .next (completed s (sendReq p.2
      { reqOf p.2.focus p.2.act (.syncAdd (firstLoc sync) len.toNat) (firstLoc sync) (some (classOf p.2.focus (firstLoc sync))) with after := p.1 })))
  ∧ (∀ (s s1 s2 : State) (c : Com) (d : Src) (m : MemOp) (x v : Word) (acc : Acc), Ready .any c s →
    readSrc s m.base.r = .ok (x, s1) → readSrc s1 d = .ok (v, s2) → memReady s2 = .ok () → syncWord s2 m.sel wrUse (addressOf x m.off) = .ok acc →
    ∀ u, u = translated s2 m.sel (addrRange (addressOf x m.off) 16) →
    (∀ s3, acc.own = true → ownBanksRw u [firstLoc acc] [firstLoc acc + 8] = .ok s3 →
      exec (.radd c d m) s = .next (completed s (syncAdd s3 (firstLoc acc) (v.toNat % 2 ^ 48) false)))
    ∧ (acc.own = false → sendReady u [firstLoc acc] = .ok () →
      exec (.radd c d m) s = .next (completed s (sendReq u
        (reqOf u.focus u.act (.syncAdd (firstLoc acc) (v.toNat % 2 ^ 48)) (firstLoc acc) (some (classOf u.focus (firstLoc acc))))))))

/-- R219 to R221, R223, R335, R336, R338. BIND enters a binding once and at most 8, UNBIND drops an object's bindings, ACQ drops the reuse-buffer
lines they name, REL waits at the scope they need, and STAGE starts the reads of the granules of a sane view. That a binding keeps 57 bits of its base
is the model's reading of R237 (log entry 26). -/
def Obligations.BindingAndStageResults : Prop :=
  (∀ (s s1 s2 : State) (c : Com) (d : Src) (a : Use Src) (sizeM1 : BitVec 40) (rsp : Space) (osp : Osp) (o b : Word), Ready .any c s →
    readSrc s a.r = .ok (o, s1) → readSrc s1 d = .ok (b, s2) →
    ∀ e : Binding, e = { obj := o, osp, rsp, base := BitVec.ofNat 64 (b.toNat % 2 ^ 57), sizeM1 } →
    (e ∈ s.cur.binds → exec (.bind c d a sizeM1 rsp osp) s = .next (completed s s2))
    ∧ (e ∉ s.cur.binds → s.cur.binds.length < 8 →
      exec (.bind c d a sizeM1 rsp osp) s = .next (completed s (s2.modCur fun k => { k with binds := k.binds ++ [e] })))
    ∧ (e ∉ s.cur.binds → 8 ≤ s.cur.binds.length →
      exec (.bind c d a sizeM1 rsp osp) s = .next (takeFault s s.focus s.act (fBound 0 0))))
  ∧ (∀ (s s1 : State) (c : Com) (a : Use Src) (osp : Osp) (o : Word), Ready .any c s → readSrc s a.r = .ok (o, s1) →
    exec (.unbind c a osp) s = .next (completed s (s1.modCur fun k => { k with binds := k.binds.filter fun e => !(e.osp == osp && e.obj == o) }))
    ∧ (s1.vecMemPending s1.focus s1.act = false →
      exec (.acq c a osp) s = .next (completed s (acquire s1 s1.focus s1.act osp o)))
    ∧ (s1.vecMemPending s1.focus s1.act = false →
      s1.wtMet (relScope s1.focus (s1.cur.binds.filter fun e => e.osp == osp && e.obj == o)) = true →
      exec (.rel c a osp) s = .next (completed s s1)))
  ∧ (∀ (s : State) (c : Com) (a : Fin 16), Ready .tile c s →
    (viewSane (s.cur.vw.get a) = false → exec (.stage c a) s = .next (completed s s))
    ∧ (viewSane (s.cur.vw.get a) = true →
      ∀ gs, gs = ((rangeGranules (viewRows (s.cur.vw.get a) 256)).filter fun g => g < 1024 && s.cur.readable.getLsbD g) →
      exec (.stage c a) s = .next (completed s ((startReads s s.focus s.act gs).modMe fun k =>
        { k with staged := (gs.foldl (fun l g => stagedIx (startReads s s.focus s.act gs).act g :: l.filter (· ≠ stagedIx (startReads s s.focus s.act gs).act g)) k.staged).take 64 }))))

/-- Atomics. On the own spm an atomic takes its step at issue: of the word at the resolved location, D receives the old value (sign-extended for a
32-bit `min` or `max`, else zero-extended) and the word becomes the AMO's result; a poisoned word stays, D receives zero and `POIS` is set. AMO.cas
writes N where the word equals B. AMOF.add writes fadd rne of the word and B, with the addition's flags. Beyond the core each is one request of the
class of its home, whose reply writes D. -/
def Obligations.AtomicResults : Prop :=
  (∀ (s s1 s2 s3 s4 t : State) (c : Com) (op : AmoOp) (d : Dst) (m : MemOp32) (x : Src) (a v : Word) (acc : Acc) (o : BitVec 64), Ready .any c s →
    readSrc s m.base.r = .ok (a, s1) → readSrc s1 x = .ok (v, s2) → memReady s2 = .ok () →
    access s2 m.sel rwUse (addressOf a (.imm32 m.off)) 8 8 = .ok (acc, s3) → acc.own = true → ownBanks s3 true [firstLoc acc] = .ok s4 →
    s4.poisonAt (firstLoc acc) = false → o = BitVec.ofNat 64 (s4.readLE (firstLoc acc) 8) →
    writeDst (performWrite s4 (!isTile s4.focus) (pairsAt (firstLoc acc) (bytesOfNat 8 (amoResult op o v).toNat))) d o = .ok t →
    exec (.amo c op true d m x) s = .next (completed s t))
  ∧ (∀ (s s1 s2 s3 s4 t : State) (c : Com) (op : AmoOp) (d : Dst) (m : MemOp32) (x : Src) (a v : Word) (acc : Acc) (o : BitVec 32), Ready .any c s →
    readSrc s m.base.r = .ok (a, s1) → readSrc s1 x = .ok (v, s2) → memReady s2 = .ok () →
    access s2 m.sel rwUse (addressOf a (.imm32 m.off)) 4 4 = .ok (acc, s3) → acc.own = true → ownBanks s3 true [firstLoc acc] = .ok s4 →
    s4.poisonAt (firstLoc acc) = false → o = BitVec.ofNat 32 (s4.readLE (firstLoc acc) 4) →
    writeDst (performWrite s4 (!isTile s4.focus) (pairsAt (firstLoc acc) (bytesOfNat 4 (amoResult op o (v.setWidth 32)).toNat))) d
      (if op = .min ∨ op = .max then o.signExtend 64 else o.setWidth 64) = .ok t →
    exec (.amo c op false d m x) s = .next (completed s t))
  ∧ (∀ (s s1 s2 s3 s4 s5 t : State) (c : Com) (w64 : Bool) (d : Dst) (m : MemOp32) (x n : Src) (a v u : Word) (acc : Acc) (k o : Nat), Ready .any c s →
    readSrc s m.base.r = .ok (a, s1) → readSrc s1 x = .ok (v, s2) → readSrc s2 n = .ok (u, s3) → memReady s3 = .ok () →
    k = (if w64 then 8 else 4) → access s3 m.sel rwUse (addressOf a (.imm32 m.off)) k k = .ok (acc, s4) → acc.own = true →
    ownBanks s4 true [firstLoc acc] = .ok s5 → s5.poisonAt (firstLoc acc) = false → o = s5.readLE (firstLoc acc) k →
    writeDst (if o = v.toNat % 2 ^ (8 * k) then performWrite s5 (!isTile s5.focus) (pairsAt (firstLoc acc) (bytesOfNat k u.toNat)) else s5) d
      (BitVec.ofNat 64 o) = .ok t →
    exec (.amoCas c w64 d m x n) s = .next (completed s t))
  ∧ (∀ (s s1 s2 s3 s4 s5 t : State) (c : Com) (d : Dst) (m : MemOp32) (x : Use Src) (a v : Word) (acc : Acc) (o : Nat), Ready .any c s →
    readSrc s m.base.r = .ok (a, s1) → readSrc s1 x.r = .ok (v, s2) → memReady s2 = .ok () →
    access s2 m.sel rwUse (addressOf a (.imm32 m.off)) 4 4 = .ok (acc, s3) → acc.own = true → ownBanks s3 true [firstLoc acc] = .ok s4 →
    s4.poisonAt (firstLoc acc) = false → o = s4.readLE (firstLoc acc) 4 →
    s5 = performWrite s4 (!isTile s4.focus) (pairsAt (firstLoc acc) (bytesOfNat 4 (fpAdd 23 .rne o (v.toNat % 2 ^ 32)).1)) →
    writeDst (if (fpAdd 23 .rne o (v.toNat % 2 ^ 32)).2 = 0 then s5 else s5.modCur fun k =>
      { k with status := k.status ||| BitVec.ofNat 64 (fpAdd 23 .rne o (v.toNat % 2 ^ 32)).2 }) d (BitVec.ofNat 64 o) = .ok t →
    exec (.amofAdd c d m x) s = .next (completed s t))
  ∧ (∀ (s s1 s2 s3 s4 t : State) (c : Com) (op : AmoOp) (w64 : Bool) (d : Dst) (m : MemOp32) (x : Src) (a v : Word) (acc : Acc) (k : Nat), Ready .any c s →
    readSrc s m.base.r = .ok (a, s1) → readSrc s1 x = .ok (v, s2) → memReady s2 = .ok () → k = (if w64 then 8 else 4) →
    access s2 m.sel rwUse (addressOf a (.imm32 m.off)) k k = .ok (acc, s3) → acc.own = true → ownBanks s3 true [firstLoc acc] = .ok s4 →
    s4.poisonAt (firstLoc acc) = true → writeDst (withPois s4 true) d 0 = .ok t → exec (.amo c op w64 d m x) s = .next (completed s t))
  ∧ (∀ (s s1 s2 s3 s4 s5 t : State) (c : Com) (w64 : Bool) (d : Dst) (m : MemOp32) (x n : Src) (a v u : Word) (acc : Acc) (k : Nat), Ready .any c s →
    readSrc s m.base.r = .ok (a, s1) → readSrc s1 x = .ok (v, s2) → readSrc s2 n = .ok (u, s3) → memReady s3 = .ok () →
    k = (if w64 then 8 else 4) → access s3 m.sel rwUse (addressOf a (.imm32 m.off)) k k = .ok (acc, s4) → acc.own = true →
    ownBanks s4 true [firstLoc acc] = .ok s5 → s5.poisonAt (firstLoc acc) = true → writeDst (withPois s5 true) d 0 = .ok t →
    exec (.amoCas c w64 d m x n) s = .next (completed s t))
  ∧ (∀ (s s1 s2 s3 s4 t : State) (c : Com) (d : Dst) (m : MemOp32) (x : Use Src) (a v : Word) (acc : Acc), Ready .any c s →
    readSrc s m.base.r = .ok (a, s1) → readSrc s1 x.r = .ok (v, s2) → memReady s2 = .ok () →
    access s2 m.sel rwUse (addressOf a (.imm32 m.off)) 4 4 = .ok (acc, s3) → acc.own = true → ownBanks s3 true [firstLoc acc] = .ok s4 →
    s4.poisonAt (firstLoc acc) = true → writeDst (withPois s4 true) d 0 = .ok t → exec (.amofAdd c d m x) s = .next (completed s t))
  ∧ (∀ (s s1 s2 s3 s4 : State) (c : Com) (op : AmoOp) (w64 : Bool) (d : Dst) (m : MemOp32) (x : Src) (a v : Word) (acc : Acc) (k : Nat) (dst : ReqDst),
    Ready .any c s → readSrc s m.base.r = .ok (a, s1) → readSrc s1 x = .ok (v, s2) → memReady s2 = .ok () → k = (if w64 then 8 else 4) →
    access s2 m.sel rwUse (addressOf a (.imm32 m.off)) k k = .ok (acc, s3) → acc.own = false → sendReady s3 [firstLoc acc] = .ok () →
    reserveDst s3 d .d64 s3.nextId = .ok (dst, s4) →
    exec (.amo c op w64 d m x) s = .next (completed s (sendReq s4
      { reqOf s4.focus s4.act (.amo op w64 (firstLoc acc) v) (firstLoc acc) (some (classOf s4.focus (firstLoc acc))) with dst, ms := acc.ms.contains (firstLoc acc / 64) })))
  ∧ (∀ (s s1 s2 s3 s4 s5 : State) (c : Com) (w64 : Bool) (d : Dst) (m : MemOp32) (x n : Src) (a v u : Word) (acc : Acc) (k : Nat) (dst : ReqDst),
    Ready .any c s → readSrc s m.base.r = .ok (a, s1) → readSrc s1 x = .ok (v, s2) → readSrc s2 n = .ok (u, s3) → memReady s3 = .ok () →
    k = (if w64 then 8 else 4) → access s3 m.sel rwUse (addressOf a (.imm32 m.off)) k k = .ok (acc, s4) → acc.own = false →
    sendReady s4 [firstLoc acc] = .ok () → reserveDst s4 d .d64 s4.nextId = .ok (dst, s5) →
    exec (.amoCas c w64 d m x n) s = .next (completed s (sendReq s5
      { reqOf s5.focus s5.act (.cas w64 (firstLoc acc) v u) (firstLoc acc) (some (classOf s5.focus (firstLoc acc))) with dst, ms := acc.ms.contains (firstLoc acc / 64) })))
  ∧ (∀ (s s1 s2 s3 s4 : State) (c : Com) (d : Dst) (m : MemOp32) (x : Use Src) (a v : Word) (acc : Acc) (dst : ReqDst),
    Ready .any c s → readSrc s m.base.r = .ok (a, s1) → readSrc s1 x.r = .ok (v, s2) → memReady s2 = .ok () →
    access s2 m.sel rwUse (addressOf a (.imm32 m.off)) 4 4 = .ok (acc, s3) → acc.own = false → sendReady s3 [firstLoc acc] = .ok () →
    reserveDst s3 d .d64 s3.nextId = .ok (dst, s4) →
    exec (.amofAdd c d m x) s = .next (completed s (sendReq s4
      { reqOf s4.focus s4.act (.amof (firstLoc acc) (v.setWidth 32)) (firstLoc acc) (some (classOf s4.focus (firstLoc acc))) with dst, ms := acc.ms.contains (firstLoc acc / 64) })))

/-- SWARM writes TARGET and takes the step of R203 with no addition, D receiving the GEN that results; WAITW arms its monitor, takes its first read,
and completes with the value that satisfied its condition, at once or after a notification, and else stays blocked. -/
def Obligations.SyncWordResults : Prop :=
  (∀ (s s1 s2 s3 s4 t : State) (c : Com) (d : Dst) (m : MemOp32) (x : Use Src) (a v : Word) (acc : Acc), Ready .any c s →
    readSrc s m.base.r = .ok (a, s1) → readSrc s1 x.r = .ok (v, s2) → memReady s2 = .ok () →
    syncAccess s2 m.sel rwUse (addressOf a (.imm32 m.off)) = .ok (acc, s3) → acc.own = true →
    ownBanksRw s3 [firstLoc acc + 8] [firstLoc acc] = .ok s4 →
    ∀ r, r = swarmStep s4 (firstLoc acc) (v.setWidth 48) → writeDst (withPois r.1 r.2.2) d r.2.1 = .ok t →
    exec (.swarm c d m x) s = .next (completed s t))
  ∧ (∀ (s s1 s2 s3 s4 : State) (c : Com) (d : Dst) (m : MemOp32) (x : Use Src) (a v : Word) (acc : Acc) (dst : ReqDst), Ready .any c s →
    readSrc s m.base.r = .ok (a, s1) → readSrc s1 x.r = .ok (v, s2) → memReady s2 = .ok () →
    syncAccess s2 m.sel rwUse (addressOf a (.imm32 m.off)) = .ok (acc, s3) → acc.own = false → sendReady s3 [firstLoc acc] = .ok () →
    reserveDst s3 d .d64 s3.nextId = .ok (dst, s4) →
    exec (.swarm c d m x) s = .next (completed s (sendReq s4
      { reqOf s4.focus s4.act (.swarm (firstLoc acc) (v.setWidth 48)) (firstLoc acc) (some (classOf s4.focus (firstLoc acc))) with dst, ms := acc.ms.contains (firstLoc acc / 64) })))
  ∧ (∀ (s : State) (c : Com) (d : Dst) (m : MemOp32) (x : Use Src) (l : Nat) (o : Word) (g : BitVec 16) (v : Word) (ns : List Word), Ready .any c s →
    s.cur.away = false → s.cur.wait = .waitw l o g (some v) ns →
    exec (.waitw c d m x) s = .next (completed s ((fillDst s d v).modCur fun k => { k with wait := .none })))
  ∧ (∀ (s s1 s2 s3 s4 s5 t : State) (c : Com) (d : Dst) (m : MemOp32) (x : Use Src) (a v : Word) (acc : Acc), Ready .any c s → s.cur.away = false → s.cur.wait = .none →
    readSrc s m.base.r = .ok (a, s1) → readSrc s1 x.r = .ok (v, s2) → memReady s2 = .ok () →
    syncAccess s2 m.sel rdUse (addressOf a (.imm32 m.off)) = .ok (acc, s3) → acc.own = true → ownBanks s3 false [firstLoc acc] = .ok s4 →
    holdDst s4 d = .ok s5 →
    t = evalMonitor (armStep (s5.modCur fun k => { k with wait := .waitw (firstLoc acc) (a + m.off.signExtend 64) (v.setWidth 16) none [] })
      s5.focus s5.act (firstLoc acc)) s5.focus s5.act →
    (∀ l o g w ns, t.cur.wait = .waitw l o g (some w) ns →
      exec (.waitw c d m x) s = .next (completed s ((fillDst t d w).modCur fun k => { k with wait := .none })))
    ∧ (∀ l o g ns, t.cur.wait = .waitw l o g none ns → exec (.waitw c d m x) s = .next (stayBlocked t)))
  ∧ (∀ (s s1 s2 s3 s4 : State) (c : Com) (d : Dst) (m : MemOp32) (x : Use Src) (a v : Word) (acc : Acc), Ready .any c s → s.cur.away = false →
    s.cur.wait = .none → readSrc s m.base.r = .ok (a, s1) → readSrc s1 x.r = .ok (v, s2) → memReady s2 = .ok () →
    syncAccess s2 m.sel rdUse (addressOf a (.imm32 m.off)) = .ok (acc, s3) → acc.own = false → s3.linesBusy s3.focus s3.act [firstLoc acc / 64] = false →
    holdDst s3 d = .ok s4 →
    ∀ u, u = (s4.modCur fun k => { k with wait := .waitw (firstLoc acc) (a + m.off.signExtend 64) (v.setWidth 16) none [] }) →
    exec (.waitw c d m x) s = .next (stayBlocked (sendReq u
      { reqOf u.focus u.act (.arm (firstLoc acc) (v.setWidth 16)) (firstLoc acc) none with ms := acc.ms.contains (firstLoc acc / 64) })))

/-- Groups. GRPNEW and JOIN go on when the controller's reply has come, which wrote D as it arrived; a refused JOIN raises GROUP, and gives up the
queue place reserved for D and the word it popped (as the model reads R13, R230 and R327: log entry 16); GRPINIT, GRPFREE and LEAVE post their
operation and go on; SYNC, SSTEP and WAITG go on with their release, whose code is D and which acquires the group. Before that they have posted their
operation once. GRPNEW, GRPINIT and GRPFREE need `CAP.GRP`, and a group id above 0xFFF raises GROUP. -/
def Obligations.GroupResults : Prop :=
  (∀ (s : State) (c : Com) (d : Dst) (a : Use Src) (id : BitVec 12) (v : Word), Ready .any c s → s.cur.away = false → s.cur.ask = .answered v →
    exec (.grpnew c d) s = .next (completed s (s.modCur fun k => { k with ask := .none }))
    ∧ exec (.join c d a id) s = .next (completed s (s.modCur fun k => { k with ask := .none })))
  ∧ (∀ (s : State) (c : Com) (d : Dst) (a : Use Src) (id : BitVec 12), Ready .any c s → s.cur.away = false → s.cur.ask = .refused →
    exec (.join c d a id) s = .next (takeFault (s.modCur fun k => { k with ask := .none }) s.focus s.act { code := 10 }))
  ∧ (∀ (s : State) (key : Nat) (n : Bool), (s.ctx key n).ask = .sent → ∀ u, u = unpop (stripPlaces (s.modCtx key n fun k => { k with ask := .refused }) key
      [(s.ctx key n).due]) key n →
    refuseJoin s key n = settleAway u key n)
  ∧ (∀ (s : State) (key : Nat) (n : Bool), (unpop s key n).ctx key n = { (unpop s key n).ctx key n with popped := none }
    ∧ (∀ w r, (s.ctx key n).popped = some (.q4, w, r) → ((unpop s key n).ctx key n).q4 = w :: (s.ctx key n).q4)
    ∧ (∀ w r, (s.ctx key n).popped = some (.q5, w, r) → ((unpop s key n).ctx key n).q5 = w :: (s.ctx key n).q5)
    ∧ (∀ w r, (s.ctx key n).popped = some (.q7, w, r) → ((unpop s key n).ctx key n).q7 = w :: (s.ctx key n).q7)
    ∧ (∀ i w r, (s.ctx key n).popped = some (.q i, w, r) → ((unpop s key n).core key).q.get i = .word w :: (s.core key).q.get i)
    ∧ (∀ w, (s.ctx key n).popped = some (.q6, w, none) → ((unpop s key n).ctx key n).inboxRead = (s.ctx key n).inboxRead - 1)
    ∧ (∀ w r, (s.ctx key n).popped = some (.q6, w, some r) → (s.ctx key n).inboxRead = 0 →
      ((unpop s key n).ctx key n).inbox = r :: (s.ctx key n).inbox ∧ ((unpop s key n).ctx key n).inboxRead = 7))
  ∧ (∀ (s s1 : State) (c : Com) (d : Dst), Ready .any c s → s.cur.away = false → s.cur.ask = .none → s.cur.cap.getLsbD 2 = true → holdDst s d = .ok s1 →
    exec (.grpnew c d) s = .next (stay (groupPost (s1.modCur fun k => { k with ask := .sent }) .new 0 0)))
  ∧ (∀ (s : State) (c : Com) (d : Dst) (a : Use Src) (id : BitVec 12), Ready .any c s → s.cur.cap.getLsbD 2 = false →
    (s.cur.away = false → s.cur.ask = .none → exec (.grpnew c d) s = .next (takeFault s s.focus s.act { code := 4, detail := 2 }))
    ∧ exec (.grpinit c a id) s = .next (takeFault s s.focus s.act { code := 4, detail := 2 })
    ∧ exec (.grpfree c a id) s = .next (takeFault s s.focus s.act { code := 4, detail := 2 }))
  ∧ (∀ (s s1 : State) (c : Com) (d : Dst) (a : Use Src) (id : BitVec 12) (x : Word), Ready .any c s → readSrc s a.r = .ok (x, s1) →
    ∀ g : Nat, g = x.toNat + id.toNat →
    (g ≤ 0xFFF →
      (s.cur.cap.getLsbD 2 = true → exec (.grpinit c a id) s = .next (completed s (groupPost s1 .init g x)))
      ∧ (s.cur.cap.getLsbD 2 = true → exec (.grpfree c a id) s = .next (completed s (groupPost s1 .free g x)))
      ∧ exec (.leave c a id) s = .next (completed s (groupPost s1 .leave g x))
      ∧ (s.cur.away = false → s.cur.ask = .none → ∀ s2, holdDst (s1.modCur fun k => { k with popped := s.cur.popOf a.r x }) d = .ok s2 →
        exec (.join c d a id) s = .next (stay (groupPost (s2.modCur fun k => { k with ask := .sent }) .join g x)))
      ∧ (s.cur.away = false → s.cur.wait = .none → ∀ s2, holdDst s1 d = .ok s2 →
        exec (.sync c d a id) s = .next (stayBlocked (groupPost (s2.modCur fun k => { k with wait := .group g false none }) .sync g x))
        ∧ exec (.sstep c d a id) s = .next (stayBlocked (groupPost (s2.modCur fun k => { k with wait := .group g true none }) .sstep g x))
        ∧ exec (.waitg c d a id) s = .next (stayBlocked (groupPost (s2.modCur fun k => { k with wait := .waitg g none }) .waitg g x))))
    ∧ (0xFFF < g →
      exec (.leave c a id) s = .next (takeFault s s.focus s.act { code := 10 })
      ∧ (s.cur.cap.getLsbD 2 = true → exec (.grpinit c a id) s = .next (takeFault s s.focus s.act { code := 10 })
        ∧ exec (.grpfree c a id) s = .next (takeFault s s.focus s.act { code := 10 }))
      ∧ (s.cur.away = false → s.cur.ask = .none → exec (.join c d a id) s = .next (takeFault s s.focus s.act { code := 10 }))
      ∧ (s.cur.away = false → s.cur.wait = .none → exec (.sync c d a id) s = .next (takeFault s s.focus s.act { code := 10 })
        ∧ exec (.sstep c d a id) s = .next (takeFault s s.focus s.act { code := 10 })
        ∧ exec (.waitg c d a id) s = .next (takeFault s s.focus s.act { code := 10 }))))
  ∧ (∀ (s : State) (c : Com) (d : Dst) (a : Use Src) (id : BitVec 12) (g code : Nat) (b : Bool), Ready .any c s → s.cur.away = false →
    s.cur.wait = .group g b (some code) ∨ s.cur.wait = .waitg g (some code) →
    ∀ t, t = (fillWait (acquire s s.focus s.act .grp (BitVec.ofNat 64 g)) s.focus s.act (BitVec.ofNat 64 code)).modCtx s.focus s.act (fun k =>
      { k with wait := .none }) →
    exec (.sync c d a id) s = .next (completed s t) ∧ exec (.sstep c d a id) s = .next (completed s t) ∧ exec (.waitg c d a id) s = .next (completed s t))

/-- FORKR completes, with the number of recruits in D, when the write of its cell has been acknowledged; before that it has reserved its recruits and
sent the cell's write and their starts. JOINC of the last context goes on at the cell's continuation, with the cell's address in t2 and a reuse buffer
cleared of what it held; of another it retires its context, through the steps of END other than the implied DONEG and TAKE. QPOLL writes the number of
words that a pop of the queue can take now (of q0 to q3 the front words that have arrived: log entry 26); MSG appends the record at A + offset to the
outbound buffer. -/
def Obligations.ForkJoinQueueAndMessageResults : Prop :=
  ((∀ (s : State) (c : Com) (sc : Scope) (d : Dst) (a b : Use Src) (x : Src) (drop : BitVec 6) (qm1 : BitVec 16) (lim : BitVec 14) (entry cont : BitVec 15)
    (id : Nat) (n : Word), Ready .tile c s → s.cur.away = false → s.cur.ask = .cell id n → (∀ r ∈ s.fabric, r.id ≠ id) →
    exec (.forkr c sc d a b x drop qm1 lim entry cont) s = .next (completed s ((fillDst s d n).modCur fun k => { k with ask := .none })))
  ∧ (∀ (s s1 s2 s3 s4 s5 : State) (c : Com) (sc : Scope) (d : Dst) (a b : Use Src) (x : Src) (drop : BitVec 6) (qm1 : BitVec 16) (lim : BitVec 14)
    (entry cont : BitVec 15) (t arg cell : Word) (acc : Acc) (chunks : Nat), Ready .tile c s → s.cur.away = false → s.cur.ask = .none →
    readSrc s a.r = .ok (t, s1) → readSrc s1 b.r = .ok (arg, s2) → readSrc s2 x = .ok (cell, s3) → memReady s3 = .ok () →
    access s3 .cls wrUse cell.toNat 16 16 = .ok (acc, s4) → sendReady s4 [firstLoc acc] = .ok () → holdDst s4 d = .ok s5 →
    chunks = (t.toNat % 2 ^ 32 + qm1.toNat) / (qm1.toNat + 1) →
    exec (.forkr c sc d a b x drop qm1 lim entry cont) s = .next (stay (fork s5
      ((available s5 s5.focus s5.act sc).take (if lim = 0 then chunks else min chunks lim.toNat))
      (t.toNat % 2 ^ 32) (qm1.toNat + 1) chunks arg cell.toNat (firstLoc acc) entry cont drop)))
  ∧ (∀ (s s1 s2 : State) (c : Com) (a : Use Src) (off : BitVec 24) (v : Word) (acc : Acc), Ready .tile c s → s.cur.away = false →
    s.cur.ending = .none → readSrc s a.r = .ok (v, s1) → s1.wtMet 2 = true → memReady s1 = .ok () →
    access s1 .cls rwUse (addressOf v (.imm24 off)) 16 16 = .ok (acc, s2) → sendReady s2 [firstLoc acc] = .ok () →
    exec (.joinc c a off) s = .next (stay ((sendReq s2
      (reqOf s2.focus s2.act (.join (firstLoc acc)) (firstLoc acc) (some (classOf s2.focus (firstLoc acc))))).modCur fun k =>
        { k with ending := .joinSent s2.nextId (firstLoc acc), ask := .sent, waitPc := k.pc })))
  ∧ (∀ (s : State) (c : Com) (a : Use Src) (off : BitVec 24) (id loc cl cell : Nat) (v : Word), Ready .tile c s → s.cur.away = false →
    s.cur.ending = .joinSent id loc → clsOfLoc loc = some (cl, cell) → s.cur.ask = .answered v → v.getLsbD 63 = true →
    exec (.joinc c a off) s = .next (wentTo s (lrbClear ((s.modCur fun k => { k with ask := .none }).modCur fun k =>
      { k with t := k.t.set 2 (BitVec.ofNat 64 cell), ending := .none }) s.focus) (BitVec.ofNat 15 (v.toNat % 2 ^ 15 / 4 * 4))))
  ∧ (∀ (s u w : State) (c : Com) (a : Use Src) (off : BitVec 24) (id loc : Nat) (v : Word), Ready .tile c s → s.cur.away = false →
    s.cur.ending = .joinSent id loc → s.cur.ask = .answered v → v.getLsbD 63 = false →
    u = ((s.modCur fun k => { k with ask := .none }).modCur fun k => { k with ending := .join }) →
    w = ((leaveAll (dropWait u u.focus u.act) u.focus u.act).modCur fun k => { k with ending := .joinLeft }) →
    (workDone u u.focus u.act = false → exec (.joinc c a off) s = .next (stay u))
    ∧ (workDone u u.focus u.act = true →
      (w.cur.task.evend = true → countsZero w.cur = false → exec (.joinc c a off) s = .next (stay w))
      ∧ (w.cur.task.evend = true → countsZero w.cur = true →
        exec (.joinc c a off) s = .next (countPmc (retireCtx (signalEvent w w.cur.task.cevt) (signalEvent w w.cur.task.cevt).focus
          (signalEvent w w.cur.task.cevt).act) s.focus (some s.act) 2 1))
      ∧ (w.cur.task.evend = false → exec (.joinc c a off) s = .next (countPmc (retireCtx w w.focus w.act) s.focus (some s.act) 2 1)))))
  ∧ ((∀ (s : State) (c : Com) (d : Dst), Ready .any c s →
    (∀ (k : Fin 4) (t : State), writeDst s d (BitVec.ofNat 64 (readyWords (s.me.q.get k))) = .ok t →
      exec (.qpoll c d (Fin.ofNat 8 k.val)) s = .next (completed s t))
    ∧ (∀ t, writeDst s d (BitVec.ofNat 64 s.cur.q4.length) = .ok t → exec (.qpoll c d 4) s = .next (completed s t))
    ∧ (∀ t, writeDst s d (BitVec.ofNat 64 s.cur.q5.length) = .ok t → exec (.qpoll c d 5) s = .next (completed s t))
    ∧ (∀ t, writeDst s d (BitVec.ofNat 64 (8 * s.cur.inbox.length - s.cur.inboxRead)) = .ok t → exec (.qpoll c d 6) s = .next (completed s t))
    ∧ (∀ t, writeDst s d (BitVec.ofNat 64 s.cur.q7.length) = .ok t → exec (.qpoll c d 7) s = .next (completed s t)))
  ∧ (∀ (s s1 s2 s3 : State) (c : Com) (a : Use Src) (off : BitVec 32) (x : Word) (acc : Acc) (r : Record), Ready .any c s →
    s.me.outbound.length < 2 → readSrc s a.r = .ok (x, s1) → memReady s1 = .ok () →
    access s1 .spm rdUse (addressOf x (.imm32 off)) 64 64 = .ok (acc, s2) → ownBanks s2 false acc.locs = .ok s3 →
    acc.locs.any s3.poisonAt = false → r = BitVec.ofNat 512 (natOfBytes (acc.locs.map s3.byteAt)) →
    msgBad r = false → isTile (recCore r) = true → recCap r &&& ~~~s.cur.cap = 0 → recAsid r = s.cur.asid →
    (clusterOf (recCore r) = s.myCluster ∨ s.cur.cap.getLsbD 5 = true) →
    exec (.msg c a off) s = .next (completed s (({ s3 with nextId := s3.nextId + 1 } : State).modMe fun k =>
      { k with outbound := k.outbound ++ [{ id := s3.nextId, body := r, pc := s3.cur.pc, insn := BitVec.ofNat 128 (s3.insnAt s3.focus s3.cur.pc)
                                            opa := x, ctx := s3.act }] }))))

/-- View registers. VWSET writes A or IMM64 with the reserved bits clear; VWADV adds A's low ten bits to BASE modulo 1,024 and keeps the rest; MBSET
writes a B view of the quad, reserved bits clear. None of them looks at PRED. The vector instructions that access memory: their addresses are fixed
and checked at the push, element by element where an index view gives them. -/
def Obligations.ViewAndVectorMemoryResults : Prop :=
  ((∀ (s s1 : State) (wt : Fin 4) (d : Fin 16) (a : Src) (x : Word), Ready .tile { pred := { neg := false, p := 0 }, wt } s →
    readSrc s a = .ok (x, s1) →
    exec (.vwsetReg wt d a) s = .next (completed s (s1.modCur fun k => { k with vw := k.vw.set d (x &&& 0x000003FCFFE0FFC0) }))
    ∧ exec (.mbsetReg wt d a) s = .next (completed s (s1.modQuad (quadOf s.focus) fun q => { q with bv := q.bv.set d (x &&& 0x000002FC000001FF) })))
  ∧ (∀ (s : State) (wt : Fin 4) (d : Fin 16) (imm : Word), Ready .tile { pred := { neg := false, p := 0 }, wt } s →
    exec (.vwsetImm wt d imm) s = .next (completed s (s.modCur fun k => { k with vw := k.vw.set d (imm &&& 0x000003FCFFE0FFC0) }))
    ∧ exec (.mbsetImm wt d imm) s = .next (completed s (s.modQuad (quadOf s.focus) fun q => { q with bv := q.bv.set d (imm &&& 0x000002FC000001FF) })))
  ∧ (∀ (s s1 : State) (wt : Fin 4) (d : Fin 16) (a : Use Src) (x v : Word), Ready .tile { pred := { neg := false, p := 0 }, wt } s →
    readSrc s a.r = .ok (x, s1) →
    (∀ i < 64, v.getLsbD i = if 6 ≤ i ∧ i < 16 then (BitVec.ofNat 10 (viewBase (s.cur.vw.get d) + x.toNat)).getLsbD (i - 6) else (s.cur.vw.get d).getLsbD i) →
    exec (.vwadv wt d a) s = .next (completed s (s1.modCur fun k => { k with vw := k.vw.set d v }))))
  ∧ ((∀ (s s1 s2 : State) (c : Com) (ty : Ty) (d : Fin 16) (m : MemOp32) (x : Word) (o : VOp), ReadyV c.pred c.wt s → readSrc s m.base.r = .ok (x, s1) →
    (∀ v, v = { captured s (.vld c ty d m) c.pred with vd := s.cur.vw.get d } → ViewsOk s1 v →
      imageMem s1 v m.sel rdUse (viewAlign v ty) (addressOf x (.imm32 m.off)) (imagePlaces v ty) = .ok (o, s2) →
      exec (.vld c ty d m) s = .next (retire (pushEntry s2 o)))
    ∧ (∀ v, v = { captured s (.vst c ty d m) c.pred with vd := s.cur.vw.get d } → ViewsOk s1 v →
      imageMem s1 v m.sel wrUse (viewAlign v ty) (addressOf x (.imm32 m.off)) (imagePlaces v ty) = .ok (o, s2) →
      exec (.vst c ty d m) s = .next (retire (pushEntry s2 o))))
  ∧ (∀ (s s1 s2 : State) (c : Com) (ty : Ty) (d : Fin 16) (a : Use Src) (off : BitVec 32) (idx : Option (Use (Fin 16))) (x : Word) (ix : List Int)
    (ls : List (Nat × Nat × List Nat)), ReadyV c.pred c.wt s → readSrc s a.r = .ok (x, s1) →
    ∀ w, w = (match idx with | some u => s.cur.vw.get u.r | none => 0) →
    (match idx with | some _ => indexElems s1 w | none => .ok ([], s1)) = .ok (ix, s2) →
    ls = laneAccesses (s.predMask c.pred) ty x off ix → (∀ e ∈ ls, e.2.1 < 4096 ∧ e.2.1 % 4 = 0) →
    ∀ pairs, pairs = ls.flatMap (fun e => e.2.2.map fun j => (j, locLane (quadOf s.focus) (e.1 * 4096 + e.2.1 + j % 4))) →
    (∀ v, v = { captured s (.vldl c ty d a off idx) c.pred with vd := s.cur.vw.get d, vc := w } → ViewsOk s1 v →
      exec (.vldl c ty d a off idx) s = .next (retire (pushEntry s2 { v with mem := pairs })))
    ∧ (∀ v, v = { captured s (.vstl c ty d a off idx) c.pred with vd := s.cur.vw.get d, vc := w } → ViewsOk s1 v →
      exec (.vstl c ty d a off idx) s = .next (retire (pushEntry s2 { v with mem := pairs }))))
  ∧ (∀ (s s1 s2 s3 : State) (c : Com) (ty : Ty) (d : Fin 16) (m : MemOp32) (n : Use (Fin 16)) (sc : Fin 4) (x : Word) (ix : List Int) (o : VOp),
    ReadyV c.pred c.wt s → readSrc s m.base.r = .ok (x, s1) → indexElems s1 (s.cur.vw.get n.r) = .ok (ix, s2) →
    (∀ v, v = { captured s (.vgath c ty d m n sc) c.pred with vd := s.cur.vw.get d, vc := s.cur.vw.get n.r } → ViewsOk s1 v →
      elementMem s2 v m.sel rdUse (tyBytes ty) (elementAccesses (s.predMask c.pred) ty x m.off ix sc) = .ok (o, s3) →
      exec (.vgath c ty d m n sc) s = .next (retire (pushEntry s3 o)))
    ∧ (∀ v, v = { captured s (.vscat c ty d m n sc) c.pred with vd := s.cur.vw.get d, vc := s.cur.vw.get n.r } → ViewsOk s1 v →
      elementMem s2 v m.sel wrUse (tyBytes ty) (elementAccesses (s.predMask c.pred) ty x m.off ix sc) = .ok (o, s3) →
      exec (.vscat c ty d m n sc) s = .next (retire (pushEntry s3 o)))))

/-- The vector instructions whose operands are view registers alone: each captures its views and its element mask, is checked, and enters the queue. -/
def Obligations.VectorPushes : Prop :=
  (∀ (ty : Ty) (x : VX), PushDAB (fun c d a b => .vadd c ty d a b x) ∧ PushDAB (fun c d a b => .vsub c ty d a b x)
    ∧ PushDAB (fun c d a b => .vmul c ty d a b x) ∧ PushDAB (fun c d a b => .vdot c ty d a b x)
    ∧ (∀ part wb, PushDAB (fun c d a b => .vwadd c ty d a b part wb x) ∧ PushDAB (fun c d a b => .vwmul c ty d a b part wb x))
    ∧ (∀ src part, PushDA (fun c d a => .vcvt c ty d a src part x)) ∧ (∀ op, PushDA (fun c d a => .vscan c op ty d a x)))
  ∧ (∀ ty : Ty, PushDAB (fun c d a b => .vmin c ty d a b) ∧ PushDAB (fun c d a b => .vmax c ty d a b) ∧ PushDAB (fun c d a b => .vand c ty d a b)
    ∧ PushDAB (fun c d a b => .vor c ty d a b) ∧ PushDAB (fun c d a b => .vxor c ty d a b) ∧ PushDAB (fun c d a b => .vandn c ty d a b)
    ∧ PushDAB (fun c d a b => .vshl c ty d a b) ∧ PushDAB (fun c d a b => .vshr c ty d a b) ∧ PushDAB (fun c d a b => .vsra c ty d a b)
    ∧ PushDAB (fun c d a b => .vperm c ty d a b) ∧ (∀ mode, PushDAB (fun c d a b => .vshuf c ty d a b mode))
    ∧ (∀ n, PushDAB (fun c d a b => .vslide c ty d a b n)))
  ∧ (∀ (ty : Ty) (b : Bool), PushDA (fun c d a => .vabs c ty d a b) ∧ PushDA (fun c d a => .vneg c ty d a b) ∧ PushDA (fun c d a => .vunbs c ty d a b))
  ∧ (∀ (ty : Ty) (r : Rnd), PushDA (fun c d a => .vrcp c ty d a r) ∧ PushDA (fun c d a => .vrsq c ty d a r) ∧ PushDA (fun c d a => .vexp2 c ty d a r))
  ∧ (∀ (s : State) (c : Com) (ty : Ty) (d : Fin 16) (a b z : Use (Fin 16)) (x : VX), ReadyV c.pred c.wt s →
    ∀ o, o = { captured s (.vfma c ty d a b z x) c.pred with vd := s.cur.vw.get d, va := s.cur.vw.get a.r, vb := s.cur.vw.get b.r, vc := s.cur.vw.get z.r } →
    ViewsOk s o → exec (.vfma c ty d a b z x) s = .next (retire (pushEntry s o)))
  ∧ (∀ (s : State) (c : Com) (cond : Cond) (ty : Ty) (d : Fin 8) (a b : Use (Fin 16)), ReadyV c.pred c.wt s →
    ∀ o, o = { captured s (.vcmp c cond ty d a b) c.pred with va := s.cur.vw.get a.r, vb := s.cur.vw.get b.r } → ViewsOk s o →
    exec (.vcmp c cond ty d a b) s = .next (retire (pushEntry s o)))
  ∧ (∀ (s : State) (c : Com) (ty : Ty) (d : Fin 16) (a b : Use (Fin 16)) (x : Use (Fin 8)), ReadyV c.pred c.wt s → s.predBusy x.r = false →
    ∀ o, o = { captured s (.vsel c ty d a b x) c.pred with vd := s.cur.vw.get d, va := s.cur.vw.get a.r, vb := s.cur.vw.get b.r, pa := s.cur.readP x.r } →
    ViewsOk s o → exec (.vsel c ty d a b x) s = .next (retire (pushEntry s o)))
  ∧ (∀ (s s1 : State) (c : Com) (ty : Ty) (d : Fin 16) (a : Use Src) (x : Word), ReadyV c.pred c.wt s → readSrc s a.r = .ok (x, s1) →
    ∀ o, o = { captured s (.vbcast c ty d a) c.pred with vd := s.cur.vw.get d, sa := x } → ViewsOk s1 o →
    exec (.vbcast c ty d a) s = .next (retire (pushEntry s1 o)))
  ∧ (∀ (s : State) (wt : Fin 4) (ty : Ty) (a : Use (Fin 16)) (idx : BitVec 9), ReadyV { neg := false, p := 0 } wt s →
    ∀ o, o = { captured s (.vext wt ty a idx) { neg := false, p := 0 } with va := s.cur.vw.get a.r } → ViewsOk s o →
    exec (.vext wt ty a idx) s = .next (retire (pushEntry s o)))
  ∧ (∀ (s : State) (c : Com) (op : RedOp) (ty : Ty) (a : Use (Fin 16)) (r : Rnd), ReadyV c.pred c.wt s →
    ∀ o, o = { captured s (.vred c op ty a r) c.pred with va := s.cur.vw.get a.r } → ViewsOk s o →
    exec (.vred c op ty a r) s = .next (retire (pushEntry s o)))
  ∧ (∀ (s : State) (wt : Fin 4) (ty : Ty) (d : Fin 16) (a : Use (Fin 16)) (w16 : Bool) (r : Rnd), ReadyV { neg := false, p := 0 } wt s →
    ∀ o, o = { captured s (.vbs wt ty d a w16 r) { neg := false, p := 0 } with vd := s.cur.vw.get d, va := s.cur.vw.get a.r } → ViewsOk s o →
    exec (.vbs wt ty d a w16 r) s = .next (retire (pushEntry s o)))
  ∧ (∀ (s : State) (c : Com) (ty : Ty) (d : Fin 8) (a b : Use (Fin 8)), ReadyV c.pred c.wt s → s.predBusy a.r = false → s.predBusy b.r = false → ty = .i8 →
    exec (.vpand c ty d a b) s = .next (retire (pushEntry s
      { captured s (.vpand c ty d a b) c.pred with pa := s.cur.readP a.r, pb := s.cur.readP b.r }))
    ∧ exec (.vpor c ty d a b) s = .next (retire (pushEntry s
      { captured s (.vpor c ty d a b) c.pred with pa := s.cur.readP a.r, pb := s.cur.readP b.r })))
  ∧ (∀ (s : State) (c : Com) (ty : Ty) (d : Fin 8) (a : Use (Fin 8)), ReadyV c.pred c.wt s → s.predBusy a.r = false → ty = .i8 →
    exec (.vpnot c ty d a) s = .next (retire (pushEntry s { captured s (.vpnot c ty d a) c.pred with pa := s.cur.readP a.r, pb := s.cur.readP a.r }))
    ∧ exec (.vpcnt c ty a) s = .next (retire (pushEntry s { captured s (.vpcnt c ty a) c.pred with pa := s.cur.readP a.r, pb := s.cur.readP a.r })))

/-- The matrix instructions: their push captures the views, the B view and, for a load or a store, the address; an MBLD raises FORMAT for OPX[4] and,
of a block-scaled copy, ILLOP for another bit of OPX (its code is the model's reading of R399: log entry 48); MWAIT completes when the context has no
matrix work left. -/
def Obligations.MatrixPushes : Prop :=
  (∀ (s : State) (c : Com) (ty : MmaTy) (d : Fin 16) (a : Use (Fin 16)) (b : Fin 16) (ov : Bool) (bs : Option (Use (Fin 16))), ReadyM c s →
    (∀ o, o = capturedM s (.mma c ty d a b ov bs) c d a.r b bs → ViewsOk s o → exec (.mma c ty d a b ov bs) s = .next (retire (pushEntry s o)))
    ∧ (∀ o, o = capturedM s (.mmar c ty d a b ov bs) c d a.r b bs → ViewsOk s o →
      exec (.mmar c ty d a b ov bs) s = .next (retire (pushEntry s o))))
  ∧ (∀ (s : State) (c : Com) (ty : Ty) (d : Fin 16), ReadyM c s →
    (∀ o, o = { captured s (.mzero c ty d) c.pred with vd := s.cur.vw.get d } → ViewsOk s o → exec (.mzero c ty d) s = .next (retire (pushEntry s o)))
    ∧ (∀ (a : Use (Fin 16)) (sat : Bool), ∀ o, o = { captured s (.macc c ty d a sat) c.pred with vd := s.cur.vw.get d, va := s.cur.vw.get a.r } →
      ViewsOk s o → exec (.macc c ty d a sat) s = .next (retire (pushEntry s o))))
  ∧ (∀ (s s1 s2 : State) (c : Com) (ty : MmaTy) (d : Fin 16) (a : Use Src) (b : Fin 16) (ov : Bool) (shape : Fin 16) (sp : Space) (x : Word) (o : VOp) (n : Nat),
    ReadyM c s → readSrc s a.r = .ok (x, s1) →
    ∀ v, v = { captured s (.mmaRa c ty d a b ov shape sp) c.pred with
      vd := s.cur.vw.get d, vc := s.cur.vw.get shape, bv := (s.quad (quadOf s.focus)).bv.get b, sa := x } → ViewsOk s1 v →
    n = 32 * (if ty = .t6 then viewK v.vc * 3 / 4 else viewK v.vc) →
    tileMem s1 v sp 32 x.toNat 0 ((List.range n).map fun i => (i, (x.toNat + i) % 2 ^ 64)) = .ok (o, s2) →
    exec (.mmaRa c ty d a b ov shape sp) s = .next (retire (startTiles (pushEntry s2 o) s2.focus 8)))
  ∧ (∀ (s s1 s2 s3 : State) (c : Com) (ty : Ty) (d : Fin 16) (m : MemOp32) (x : Use Src) (a p : Word) (o : VOp) (w : Word), ReadyM c s →
    readSrc s m.base.r = .ok (a, s1) → readSrc s1 x.r = .ok (p, s2) →
    ∀ at_, at_ = addressOf a (.imm32 m.off) → ∀ bsax, bsax = bsaxOf s.me (descAt s.me m.sel at_) → operandTy ty = true →
    (∀ v (y : TilePitch), y.p = x → y.opx.getLsbD 4 = false → w = (s.quad (quadOf s.focus)).bv.get d → bsax ≠ 1 →
      (bsax = 2 → ty = .i8 ∧ 64 ≤ viewK w ∧ bvBse w = true ∧ y.opx.extractLsb' 0 4 = 0) →
      v = { captured s (.mbld c ty d m y) c.pred with bv := w, sa := BitVec.ofNat 64 at_, sc := p, blk := if bsax = 2 then 1 else 0 } →
      leastPitch ty v.blk ≤ p.toNat →
      (∀ q ∈ tileImage ty v.blk (keOf ty (viewK w)) at_ p.toNat, descAt s.me m.sel q.2 = descAt s.me m.sel at_) → ViewsOk s2 v →
      tileMem s2 v m.sel 8 at_ p.toNat (tileImage ty v.blk (keOf ty (viewK w)) at_ p.toNat) = .ok (o, s3) →
      exec (.mbld c ty d m y) s = .next (retire (pushEntry s3 o)))
    ∧ (∀ y : TilePitch, y.p = x → y.opx.getLsbD 4 = true → bsax ≠ 2 → exec (.mbld c ty d m y) s = .next (takeFault s s.focus s.act { code := 9 }))
    ∧ (∀ y : TilePitch, y.p = x → y.opx.extractLsb' 0 4 ≠ 0 → bsax = 2 → exec (.mbld c ty d m y) s = .next (takeFault s s.focus s.act { code := 1 }))
    ∧ (∀ v ev hi, w = s.cur.vw.get d → bsax ≠ 1 → hi = false → (bsax = 2 → ty = .i8 ∧ 64 ≤ viewK w) →
      v = { captured s (.mtld c ty d m x ev hi) c.pred with
        vd := w, vb := s.cur.vw.get ev, sa := BitVec.ofNat 64 at_, sc := p, blk := if bsax = 2 then 1 else 0 } →
      leastPitch ty v.blk ≤ p.toNat →
      (∀ q ∈ tileImage ty v.blk (keOf ty (viewK w)) at_ p.toNat, descAt s.me m.sel q.2 = descAt s.me m.sel at_) → ViewsOk s2 v →
      tileMem s2 v m.sel 8 at_ p.toNat (tileImage ty v.blk (keOf ty (viewK w)) at_ p.toNat) = .ok (o, s3) →
      exec (.mtld c ty d m x ev hi) s = .next (retire (pushEntry s3 o)))
    ∧ (∀ v ev hi, w = s.cur.vw.get d → bsax = 1 ∨ bsax = 2 → (hi = true → bsax = 1) → ty = .i8 → 64 ≤ viewK w →
      v = { captured s (.mtldRb c ty d m x ev hi) c.pred with
        vd := w, vb := s.cur.vw.get ev, sa := BitVec.ofNat 64 at_, sc := p, blk := if bsax = 2 then 1 else 2 } →
      leastPitch ty v.blk ≤ p.toNat →
      (∀ q ∈ tileImage ty v.blk (keOf ty (viewK w)) at_ p.toNat, descAt s.me m.sel q.2 = descAt s.me m.sel at_) → ViewsOk s2 v →
      tileMem s2 v m.sel 8 at_ p.toNat (tileImage ty v.blk (keOf ty (viewK w)) at_ p.toNat) = .ok (o, s3) →
      exec (.mtldRb c ty d m x ev hi) s = .next (retire (pushEntry s3 o))))
  ∧ (∀ (s s1 : State) (c : Com) (ty : Ty) (acc : Use (Fin 16)) (base : Use Src) (sel : Space) (cols : Option (Fin 16)) (r : Rnd) (x : Word), ReadyM c s →
    readSrc s base.r = .ok (x, s1) → ∀ wd, wd = (match cols with | some d => s.cur.vw.get d | none => 0) →
    (∀ (off : BitVec 32) o, addressOf x (.imm32 off) % 8 = 0 → rowBytes ty % 8 = 0 →
      o = { captured s (.mepi96 c ty acc base sel off cols r) c.pred with
        vc := s.cur.vw.get acc.r, vd := wd, sa := BitVec.ofNat 64 (addressOf x (.imm32 off)), sc := BitVec.ofNat 64 (rowBytes ty) } → ViewsOk s1 o →
      exec (.mepi96 c ty acc base sel off cols r) s = .next (retire (pushEntry s1 o)))
    ∧ (∀ (scale : BitVec 32) (pitch : BitVec 20) p o, p = (if pitch = 0 then rowBytes ty else pitch.toNat) → x.toNat % 8 = 0 → p % 8 = 0 →
      o = { captured s (.mepi128 c ty acc base sel scale pitch cols r) c.pred with
        vc := s.cur.vw.get acc.r, vd := wd, sa := x, sc := BitVec.ofNat 64 p } → ViewsOk s1 o →
      exec (.mepi128 c ty acc base sel scale pitch cols r) s = .next (retire (pushEntry s1 o))))
  ∧ (∀ (s : State) (c : Com), Ready .tile c s → matrixBusy s s.focus s.act = false → exec (.mwait c) s = .next (completed s s))

/-- Ladle instructions start their job as LadleStarts says; EWAIT completes when the job that A names is complete, EWAIT.N when at most N of the
context's jobs are left. The Runner instructions. A pour whose checks pass is handed to the footprint scheduler and becomes the last pour of its port;
RARM wakes the port's lasers; RSTAT reads a snapshot; RDISARM ends the pours of a VALID entry DISARMED. All but RSTAT need `CAP.RUN`, else PRIV 1. -/
def Obligations.LadleAndRunnerResults : Prop :=
  ((∀ (s s1 s2 s3 t : State) (c : Com) (o : LadleOp) (a b x : Word), Ready .tile c s → readSrc s o.a.r = .ok (a, s1) → readSrc s1 o.b.r = .ok (b, s2) →
    readSrc s2 o.c = .ok (x, s3) →
    (∀ (len : BitVec 32) (evt : BitVec 16), LadleStarts s3 o.d (some o.ssp) o.dsp o.ysp o.q5 a b x
        { kind := .ldl, rlen := len.toNat, wlen := len.toNat, len := len.toNat, block := len.setWidth 64, evt } t →
      exec (.ldl c o len evt) s = .next (completed s t))
    ∧ (∀ (rowlen nrows spitch dpitch : BitVec 16), LadleStarts s3 o.d (some o.ssp) o.dsp o.ysp o.q5 a b x
        { kind := .ldl2d, rlen := (nrows.toNat - 1) * spitch.toNat * 8 + rowlen.toNat, wlen := (nrows.toNat - 1) * dpitch.toNat * 8 + rowlen.toNat
          len := rowlen.toNat * nrows.toNat
          block := BitVec.ofNat 64 (rowlen.toNat + nrows.toNat * 2 ^ 16 + spitch.toNat * 2 ^ 32 + dpitch.toNat * 2 ^ 48), evt := 0 } t →
      exec (.ldl2d c o rowlen nrows spitch dpitch) s = .next (completed s t)))
  ∧ (∀ (s s1 s2 t : State) (c : Com) (d : Dst) (b : Use Src) (x : Src) (dsp : Space) (ysp : SyncSp) (q5 : Bool) (len : BitVec 32) (bv xv : Word),
    Ready .tile c s → readSrc s b.r = .ok (bv, s1) → readSrc s1 x = .ok (xv, s2) →
    LadleStarts s2 d none dsp ysp q5 0 bv xv { kind := .ldlz, rlen := 0, wlen := len.toNat, len := len.toNat, block := len.setWidth 64, evt := 0 } t →
    exec (.ldlz c d b x dsp ysp q5 len) s = .next (completed s t))
  ∧ (∀ (s s1 : State) (c : Com) (a : Use Src) (x : Word), Ready .tile c s → readSrc s a.r = .ok (x, s1) →
    (∀ j ∈ jobsOf s s.focus s.act, j.jobid.toNat % 2 ^ 23 ≠ x.toNat % 2 ^ 23) → exec (.ewait c a) s = .next (completed s s1))
  ∧ (∀ (s : State) (c : Com) (n : BitVec 5), Ready .tile c s → (jobsOf s s.focus s.act).length ≤ n.toNat →
    exec (.ewaitN c n) s = .next (completed s s)))
  ∧ ((∀ (s s1 s2 s3 s4 : State) (c : Com) (o : PourOp) (dst sync se src : Word) (rps wps : List (Nat × Nat)) (at_ : Option Nat) (kind : PourKind) (i : Instr),
    (∃ ty, kind = .int ty ∧ i = .rpourInt c o ty) ∨ (∃ b, kind = .bs b ∧ i = .rpourBs c o b) ∨ (kind = .skim ∧ i = .rskim c o)
      ∨ (∃ r, kind = .bcast r ∧ i = .rbcast c o r) →
    Ready .tile c s → s.cur.cap.getLsbD 1 = true →
    readSrc s o.dst.r = .ok (dst, s1) → readSrc s1 o.sync.r = .ok (sync, s2) → readSrc s2 o.seqev.r = .ok (se, s3) → readSrc s3 o.src = .ok (src, s4) →
    s4.vecMemPending s4.focus s4.act = false →
    ∀ rlen, rlen = pourReads (s.port o.port) kind o.grp o.count.toNat →
    (if rlen = 0 then (if src.toNat % 8 = 0 then .ok [] else .error (fAlign src.toNat (spaceNum (pourSpace o.ssp))))
      else jobRange s4 s4.focus s4.cur.asid (pourSpace o.ssp) false src.toNat rlen) = .ok rps →
    jobRange s4 s4.focus s4.cur.asid (pourSpace o.dsp) true dst.toNat (dstLen kind o.count.toNat) = .ok wps →
    jobSync s4 o.ysp sync.toNat = .ok at_ → statusPlace s4 o.ysp sync.toNat = .ok () →
    pourRefused (s.port o.port) kind o.grp (BitVec.ofNat 16 (se.toNat % 2 ^ 16)) = false → (s4.cluster s4.myCluster).jobs.length < 64 →
    ∀ u, u = (holdJob s4
      { id := 0, kind := .pour o.port o.grp (BitVec.ofNat 16 (se.toNat % 2 ^ 16)), key := s.focus, ctx := s.act, asid := s.cur.asid
        rd := footprint rps, wr := footprint wps, edges := [], src, dst, ssp := pourSpace o.ssp, dsp := pourSpace o.dsp, block := 0, opx := 0
        evt := BitVec.ofNat 16 (se.toNat / 2 ^ 16), sync, ysp := o.ysp, syncLoc := at_.getD 0, jobid := 0, len := dstLen kind o.count.toNat }).modPort o.port
      (fun x => { x with pours := x.pours ++ [{ grp := o.grp, seq := BitVec.ofNat 16 (se.toNat % 2 ^ 16), kind, count := o.count.toNat, src, dst
                                                ssp := pourSpace o.ssp, dsp := pourSpace o.dsp, asid := s.cur.asid, syncLoc := at_.getD 0
                                                evt := BitVec.ofNat 16 (se.toNat / 2 ^ 16), q7 := o.q7, key := s.focus, ctx := s.act, job := s4.nextId
                                                cluster := s.myCluster }] }) →
    exec i s = .next (completed s (tlbFills u (isFw u.focus) u.myCluster s.cur.asid
      ((if o.ssp = .glb ∧ rlen ≠ 0 then (rangeHeads src.toNat rlen 65536).map (· % 2 ^ 64) else [])
        ++ (if o.dsp = .glb then (rangeHeads dst.toNat (dstLen kind o.count.toNat) 65536).map (· % 2 ^ 64) else [])))))
  ∧ (∀ (s : State) (c : Com) (port : Fin 8), Ready .tile c s → s.cur.cap.getLsbD 1 = true →
    ((s.port port).en = true → exec (.rarm c port) s = .next (completed s (wakeAll s port)))
    ∧ ((s.port port).en = false → exec (.rarm c port) s = .next (takeFault s s.focus s.act fRunner))
    ∧ (∀ grp, exec (.rdisarm c port grp) s = .next (completed s (s.modPort port fun x =>
        if (x.group grp).valid then disarm x fun q => q.grp == grp else x))))
  ∧ (∀ (s t : State) (c : Com) (d : Dst) (port : Fin 8) (grp : Fin 64), Ready .tile c s →
    writeDst s d (BitVec.ofNat 64 (((s.port port).group grp).expseq.toNat * 2 ^ 48 + ((s.port port).poursOf grp).length * 2 ^ 45
      + (match ((s.port port).poursOf grp).head? with | some q => pourNum q.st | none => 0) * 2 ^ 43 + calNum (s.port port).cal * 2 ^ 40
      + (s.port port).allLit.toNat * 2 ^ 39 + ((s.port port).group grp).valid.toNat * 2 ^ 38)) = .ok t →
    exec (.rstat c d port grp) s = .next (completed s t))
  ∧ (∀ (s : State) (c : Com) (o : PourOp) (port : Fin 8) (grp : Fin 64), Ready .tile c s → s.cur.cap.getLsbD 1 = false →
    ∀ u, u = takeFault s s.focus s.act { code := 4, detail := 1 } →
    exec (.rarm c port) s = .next u ∧ exec (.rdisarm c port grp) s = .next u ∧ exec (.rskim c o) s = .next u
    ∧ (∀ ty, exec (.rpourInt c o ty) s = .next u) ∧ (∀ b, exec (.rpourBs c o b) s = .next u) ∧ (∀ r, exec (.rbcast c o r) s = .next u)))

/-- System registers: SRD reads and SWR writes every register that the table gives to the executing agent; TBR reads the timebase; PMCR reads a
counter of a core of its cluster and, with its suffix, clears it. Which system-register accesses fault: an unknown number raises ILLOP; a firmware
register on a tile core, or one of the global scheduler core on another agent, raises PRIV 32; a write of a read-only register raises PRIV 0; and the
capability bits of the table are checked with their own numbers. -/
def Obligations.SystemRegisterAccesses : Prop :=
  ((∀ (s t : State) (c : Com) (d : Dst) (n : BitVec 12), Ready .any c s → sysCheck s n.toNat false = .ok () → (n = 0 → statusBusy s = false) →
    writeDst (if n = 0x311 then clearStalls s else s) d (sysRead s n.toNat) = .ok t → exec (.srd c d n) s = .next (completed s t))
  ∧ (∀ (s s1 : State) (c : Com) (n : BitVec 12) (a : Use Src) (v : Word), Ready .any c s → sysCheck s n.toNat true = .ok () →
    (n = 0 → statusBusy s = false) → readSrc s a.r = .ok (v, s1) →
    (n ≠ 0x320 ∨ v.getLsbD 8 = false ∨ lcAllowed s.fuses (BitVec.ofNat 2 (v.toNat % 4)) = false) →
    exec (.swr c n a) s = .next (completed s (sysWrite s1 n.toNat v)))
  ∧ (∀ s : State, sysRead s 0 = s.cur.status ∧ sysRead s 2 = s.cur.cap.setWidth 64 ∧ sysRead s 0x12 = s.cur.pcnt ∧ sysRead s 0x300 = s.xlbase
    ∧ (∀ k : Fin 16, sysRead s (0x20 + k.val) = s.me.rdesc.get k) ∧ (∀ k : Fin 8, sysRead s (0x100 + k.val) = s.me.pmcsel.get k)
    ∧ (∀ k : Fin 3, sysRead s (0x238 + k.val) = s.dommap.get k) ∧ sysRead s 0x310 = s.clsel.setWidth 64)
  ∧ (∀ (s : State) (v : Word), sysWrite s 0 v = s.modCur (fun k => { k with status := (k.status &&& 0xE0F8 &&& ~~~v) ||| (v &&& 3) })
    ∧ sysWrite s 0x300 v = { s with xlbase := v &&& 0xFFFFFF0001 }
    ∧ sysWrite s 0x214 v = s.modMe fun k => k.writeMxcfg (BitVec.ofNat 16 (v.toNat / 2 ^ 16)) (BitVec.ofNat 4 v.toNat))
  ∧ (∀ (s t : State) (c : Com) (d : Dst), Ready .any c s → writeDst s d (BitVec.ofNat 64 (s.tbOf s.myCluster)) = .ok t →
    exec (.tbr c d) s = .next (completed s t))
  ∧ (∀ (s s1 t : State) (c : Com) (d : Dst) (a : Use Src) (k : Fin 8) (clr : Bool) (x : Word), Ready .any c s → s.cur.cap.getLsbD 4 = true →
    readSrc s a.r = .ok (x, s1) → s.myCluster < 80 →
    writeDst (if clr then s1.modCore (coreAt s.myCluster (x.toNat % 64)) (fun q => { q with pmc := q.pmc.set k 0 }) else s1) d
      (((s1.core (coreAt s.myCluster (x.toNat % 64))).pmc.get k).setWidth 64) = .ok t →
    exec (.pmcr c d a k clr) s = .next (completed s t)))
  ∧ (∀ (s : State) (c : Com) (d : Dst) (a : Use Src) (n : BitVec 12), Ready .any c s →
    (sysKnown n.toNat = false →
      exec (.srd c d n) s = .next (takeFault s s.focus s.act { code := 1 }) ∧ exec (.swr c n a) s = .next (takeFault s s.focus s.act { code := 1 }))
    ∧ (sysKnown n.toNat = true → isTile s.focus = true → n = 0x224 ∨ 0x230 ≤ n.toNat →
      exec (.srd c d n) s = .next (takeFault s s.focus s.act { code := 4, detail := 32 })
      ∧ exec (.swr c n a) s = .next (takeFault s s.focus s.act { code := 4, detail := 32 }))
    ∧ (isTile s.focus = false → s.focus ≠ 0x20000 → n = 0x224 ∨ n = 0x310 ∨ n = 0x320 →
      exec (.srd c d n) s = .next (takeFault s s.focus s.act { code := 4, detail := 32 })
      ∧ exec (.swr c n a) s = .next (takeFault s s.focus s.act { code := 4, detail := 32 }))
    ∧ (n = 1 ∨ n = 2 ∨ n = 0x10 ∨ n = 0x12 ∨ n = 0x22C → exec (.swr c n a) s = .next (takeFault s s.focus s.act { code := 4, detail := 0 }))
    ∧ (n = 0x11 ∨ n = 0x220 ∨ n = 0x228 → s.cur.cap.getLsbD 3 = false →
      exec (.swr c n a) s = .next (takeFault s s.focus s.act { code := 4, detail := 3 }))
    ∧ (0x100 ≤ n.toNat → n.toNat ≤ 0x107 → s.cur.cap.getLsbD 4 = false →
      exec (.swr c n a) s = .next (takeFault s s.focus s.act { code := 4, detail := 4 }))
    ∧ (n = 0x218 → s.cur.cap.getLsbD 1 = false → exec (.swr c n a) s = .next (takeFault s s.focus s.act { code := 4, detail := 1 })))

/-- COMPLETION and result of TAKE (constructor take), DONEG (doneg), YIELDT (yieldt), PATR (patr), PATW (patw), PATW.c (patwC) and PREVOKE (prevoke):
under conditions on the state and the operands alone, exec of each answers the next state that completes it. TAKE returns a tile or none in t0-t3;
DONEG and YIELDT give up granules of the context's claim, DONE or FREE again, and raise PATTERN for a mask that is not within it; PATR reads a
register of a slot; PATW writes one, a commit that fails raising PATTERN with the value kept in the shadow; PREVOKE revokes. -/
def Obligations.PatternResults : Prop :=
  (∀ (s : State) (c : Com), Ready .tile c s →
    (∀ u t, takeTile s s.focus s.act = .tile u t → takeAhead s s.focus s.act = false →
      exec (.take c) s = .next (completed s (u.modCtx u.focus u.act fun k => { k with t, parked := none })))
    ∧ (∀ rev, takeTile s s.focus s.act = .none rev →
      exec (.take c) s = .next (completed s (s.modCur fun k => { k with t := noneDesc rev, parked := none })))
    ∧ (∀ u t, takeTile s s.focus s.act = .tile u t → takeAhead s s.focus s.act = true → exec (.take c) s = .next (stayBlocked s))
    ∧ (takeTile s s.focus s.act = .fault → exec (.take c) s = .next (takeFault s s.focus s.act fPattern))
    ∧ (takeTile s s.focus s.act = .park → exec (.take c) s = .next (stayBlocked (s.modCur fun k => { k with parked := some false })))
    ∧ (takeTile s s.focus s.act = .wait → exec (.take c) s = .next (stayBlocked s)))
  ∧ (∀ (s s1 : State) (c : Com) (a : Use Src) (m : Word), Ready .tile c s → readSrc s a.r = .ok (m, s1) →
    (maskOk s.cur m = true →
      (s1.wtMet 3 = true → exec (.doneg c a) s = .next (completed s (leaveClaim s1 s.focus s.act m gDone)))
      ∧ exec (.yieldt c a) s = .next (completed s (leaveClaim s1 s.focus s.act m gFree)))
    ∧ (maskOk s.cur m = false →
      exec (.doneg c a) s = .next (takeFault s s.focus s.act fPattern) ∧ exec (.yieldt c a) s = .next (takeFault s s.focus s.act fPattern)))
  ∧ (∀ (s : State) (c : Com) (d : Dst) (slot : Fin 4) (reg : Fin 16) (sh : Bool), Ready .any c s →
    (∀ v t, patRead (s.slot s.myCluster slot) reg sh = some v → writeDst s d v = .ok t → exec (.patr c d slot reg sh) s = .next (completed s t))
    ∧ (patRead (s.slot s.myCluster slot) reg sh = none → exec (.patr c d slot reg sh) s = .next (takeFault s s.focus s.act fPattern)))
  ∧ (∀ (s s1 : State) (c : Com) (slot : Fin 4) (reg : Fin 16) (a : Use Src) (v : Word), Ready .any c s → readSrc s a.r = .ok (v, s1) →
    (s.cur.cap.getLsbD 0 = true →
      (∀ t, patWrite s1 s.myCluster slot reg v false = .done t → exec (.patw c slot reg a) s = .next (completed s t))
      ∧ (∀ t, patWrite s1 s.myCluster slot reg v true = .done t → exec (.patwC c slot reg a) s = .next (completed s t))
      ∧ exec (.prevoke c slot a) s = .next (completed s (revoke s1 s.myCluster slot v)))
    ∧ (s.cur.cap.getLsbD 0 = false → ∀ u, u = takeFault s s.focus s.act { code := 4, detail := 0 } →
      exec (.patw c slot reg a) s = .next u ∧ exec (.patwC c slot reg a) s = .next u ∧ exec (.prevoke c slot a) s = .next u))

/-- COMPLETION and result of END (constructor end_), SWAP (swap) and HALT (halt): under conditions on the state alone, exec of each answers the next
state that completes it. END of a task that is no pattern task, once its work is done and, where it signals an event, its posted counts are zero: its
groups are left, the event is signalled, and the context retires. A pattern task's END marks its granules DONE and takes the next tile. SWAP begins a
swap if the shadow context can take over, and else only goes on. HALT ends the task of a tile core as a KILL does, and stops a controller. COMPLETION
and result of BKWAKE (bkwake), BKHOLD (bkhold), BKOFF (bkoff), BKSTAT (bkstat) and SPKILL (spkill), under conditions on the state and the operands
alone: BKWAKE starts the wakes of the RETAIN and OFF banks it names, BKHOLD sends FULL ones to RETAIN, BKOFF turns its banks off once no work uses
them, BKSTAT reads two bits a bank, and SPKILL kills the words of a range of the own scratchpad. -/
def Obligations.TaskAndBankResults : Prop :=
  ((∀ (s u : State) (c : Com), Ready .any c s → s.cur.ending = .none → s.cur.task.pat = false → workDone s s.focus s.act = true →
    u = (leaveAll (dropWait s s.focus s.act) s.focus s.act).modCur (fun k => { k with ending := .left }) →
    (u.cur.task.evend = false →
      exec (.end_ c) s = .next (countPmc (retireCtx u u.focus u.act) s.focus (some s.act) 2 1))
    ∧ (u.cur.task.evend = true → u.cur.clu = 0 → u.cur.mod = 0 → u.cur.sys = 0 → ∀ v, v = signalEvent u u.cur.task.cevt →
      exec (.end_ c) s = .next (countPmc (retireCtx v v.focus v.act) s.focus (some s.act) 2 1)))
  ∧ (∀ (s u : State) (c : Com), Ready .any c s → s.cur.ending = .take →
    (∀ t, takeTile s s.focus s.act = .tile u t → takeAhead s s.focus s.act = false →
      exec (.end_ c) s = .next (countPmc (nextTile u s.focus s.act t) s.focus (some s.act) 2 1))
    ∧ (∀ rev, takeTile s s.focus s.act = .none rev → exec (.end_ c) s = .next (countPmc (retireCtx s s.focus s.act) s.focus (some s.act) 2 1)))
  ∧ (∀ (s u v z : State) (c : Com), Ready .any c s → s.cur.ending = .none → s.cur.task.pat = true → workDone s s.focus s.act = true → s.wtMet 3 = true →
    u = (match s.cur.claim with | some x => leaveClaim s s.focus s.act x.mask gDone | none => s) →
    v = (leaveAll (dropWait u u.focus u.act) u.focus u.act).modCur (fun k => { k with ending := .left }) → v.cur.task.evend = false → z = tileEnded v →
    (∀ w t, takeTile z z.focus z.act = .tile w t → takeAhead z z.focus z.act = false →
      exec (.end_ c) s = .next (countPmc (nextTile w z.focus z.act t) s.focus (some s.act) 2 1))
    ∧ (∀ rev, takeTile z z.focus z.act = .none rev →
      exec (.end_ c) s = .next (countPmc (retireCtx z z.focus z.act) s.focus (some s.act) 2 1)))
  ∧ (∀ (s : State) (c : Com), Ready .any c s →
    (shadowReady s s.focus = true → exec (.swap c) s = .next (completed s (s.modMe fun k => { k with swapping := true })))
    ∧ (shadowReady s s.focus = false → exec (.swap c) s = .next (completed s s))
    ∧ (isTile s.focus = true → exec (.halt c) s = .next (countPmc (killCtx s s.focus s.act) s.focus (some s.act) 2 1))
    ∧ (isTile s.focus = false → exec (.halt c) s = .next (completed s (s.modMe fun k => { k with stopped := true })))))
  ∧ ((∀ (s s1 : State) (c : Com) (a : Use Src) (k : BankSel) (m : Word), Ready .tile c s → readSrc s a.r = .ok (m, s1) →
    ∀ b ks, b = bankOfSel s k → ks = (List.range 32).filter (fun i => m.getLsbD i) →
    exec (.bkwake c a k) s = .next (completed s (touchBanks s1 s.focus b (ks.filter fun i => (s1.me.bank b i).st == .retain || (s1.me.bank b i).st == .off)))
    ∧ exec (.bkhold c a k) s = .next (completed s (s1.modMe fun x => ks.foldl (fun x i => holdBank x b i) x))
    ∧ ((∀ i ∈ ks, bankBusy s k i = false) → exec (.bkoff c a k) s = .next (completed s (ks.foldl (fun u i => offBank u u.focus (bankOfSel u k) i) s1))))
  ∧ (∀ (s t : State) (c : Com) (d : Dst) (k : BankSel), Ready .tile c s →
    writeDst s d (BitVec.ofNat 64 ((List.range 32).foldl (fun v i => v + bankNum (s.me.bank (bankOfSel s k) i).st * 4 ^ i) 0)) = .ok t →
    exec (.bkstat c d k) s = .next (completed s t))
  ∧ (∀ (s s1 s2 : State) (c : Com) (d : Src) (a : Use Src) (off : Off) (x n : Word), Ready .tile c s →
    readSrc s a.r = .ok (x, s1) → readSrc s1 d = .ok (n, s2) → memReady s2 = .ok () →
    (addressOf x off + n.toNat ≤ spmSize s.focus → addressOf x off % 8 = 0 → n.toNat % 8 = 0 →
      exec (.spkill c d a off) s = .next (completed s
        (killWords s2 ((List.range (n.toNat / 8)).map fun i => locSpm s.focus (addressOf x off + 8 * i)))))
    ∧ (spmSize s.focus < addressOf x off + n.toNat → exec (.spkill c d a off) s = .next (takeFault s s.focus s.act (fBound (addressOf x off) 1)))))

/-- COMPLETION and result of DBGRD (dbgrd), DBGWR (dbgwr), RESUME (resume), REDIR (redir), KILL (kill) and FWAIT (fwait) at a leaf controller: under
conditions on the state and the operands alone, exec of each answers the next state that completes it. DBGRD and DBGWR reach the debug map and, of a
frozen context, its registers and its register store; RESUME, REDIR and KILL act on a context when they are allowed, with 0 in D, and else leave it,
with 1 in D; FWAIT takes the oldest fault packet into the leaf's data memory. -/
def Obligations.SupervisionResults : Prop :=
  (∀ (s s1 : State) (c : Com) (a : Use Src) (x : Word), Ready .leaf c s → s.focus ≠ 0x20000 → readSrc s a.r = .ok (x, s1) → x.toNat < 2 ^ 24 →
    ∀ key n o, key = coreAt s.myCluster (x.toNat / 2 ^ 18) → n = x.getLsbD 17 → o = x.toNat % 2 ^ 16 →
    (∀ (d : Dst) (t : State), x.toNat % 8 = 0 →
      (x.getLsbD 16 = false → o < 0x700 → writeDst s1 d (if (s1.ctx key n).st = .frozen then mapWord s1 key n o else 0) = .ok t →
        exec (.dbgrd c d a) s = .next (completed s t))
      ∧ (x.getLsbD 16 = false → 0x700 ≤ o → o < 0x800 → writeDst s1 d (coreWord (s1.core key) o) = .ok t → exec (.dbgrd c d a) s = .next (completed s t))
      ∧ (x.getLsbD 16 = false → 0x800 ≤ o → writeDst s1 d 0 = .ok t → exec (.dbgrd c d a) s = .next (completed s t))
      ∧ (x.getLsbD 16 = true → ((s1.ctx key n).st ≠ .frozen ∨ (s1.ctx key n).live.getLsbD (o / 64) = false) → writeDst s1 d 0 = .ok t →
        exec (.dbgrd c d a) s = .next (completed s t))
      ∧ (x.getLsbD 16 = true → (s1.ctx key n).st = .frozen → (s1.ctx key n).live.getLsbD (o / 64) = true → ∀ u, debugBanks s1 key n [o / 64] = .ok u →
        writeDst u d (BitVec.ofNat 64 (u.readLE (locRs key n o) 8)) = .ok t → exec (.dbgrd c d a) s = .next (completed s t)))
    ∧ (∀ (d : Src) (v : Word) (s2 : State), x.toNat % 8 = 0 → readSrc s1 d = .ok (v, s2) →
      (x.getLsbD 16 = false → o < 0x700 →
        ((s2.ctx key n).st ≠ .frozen → exec (.dbgwr c d a) s = .next (completed s s2))
        ∧ ((s2.ctx key n).st = .frozen → (o < 0x400 ∨ 0x480 ≤ o) → exec (.dbgwr c d a) s = .next (completed s (mapWrite s2 key n o v)))
        ∧ ((s2.ctx key n).st = .frozen → 0x400 ≤ o → o < 0x480 → ∀ u, debugBanks s2 key n (bornGranules s2 key n ((o - 0x400) / 8) v) = .ok u →
          exec (.dbgwr c d a) s = .next (completed s (mapWrite u key n o v))))
      ∧ (x.getLsbD 16 = false → 0x700 ≤ o → o < 0x800 → (o = 0x708 → (s2.ctx key false).killing = false ∧ (s2.ctx key true).killing = false) →
        exec (.dbgwr c d a) s = .next (completed s (coreWrite s2 key o v)))
      ∧ (x.getLsbD 16 = false → 0x800 ≤ o → exec (.dbgwr c d a) s = .next (completed s s2))
      ∧ (x.getLsbD 16 = true → ((s2.ctx key n).st ≠ .frozen ∨ (s2.ctx key n).pend.getLsbD (o / 64) = true) →
        exec (.dbgwr c d a) s = .next (completed s s2))
      ∧ (x.getLsbD 16 = true → (s2.ctx key n).st = .frozen → (s2.ctx key n).pend.getLsbD (o / 64) = false → ∀ u, debugBanks s2 key n [o / 64] = .ok u →
        exec (.dbgwr c d a) s = .next (completed s
          (writeStore u key n ((List.range 8).zipWith (fun i b => (o + i, b)) (bytesOfNat 8 v.toNat))))))
    ∧ (∀ (d : Dst) (t : State), (s1.ctx key n).killing = false → spillOn (s1.core key) n = false →
      (canResume s1 key n = true → writeDst (noteCmd (resumeCtx s1 key n) false) d 0 = .ok t → exec (.resume c d a) s = .next (completed s t))
      ∧ (canResume s1 key n = false → writeDst (noteCmd s1 true) d 1 = .ok t → exec (.resume c d a) s = .next (completed s t)))
    ∧ (∀ (d : Dst) (t : State), (s1.ctx key n).killing = false → spillOn (s1.core key) n = false ∨ (s1.core key).spill = .spill n →
      ((s1.ctx key n).st ≠ .idle → (s1.ctx key n).vac = false → writeDst (noteCmd (killCtx s1 key n) false) d 0 = .ok t →
        exec (.kill c d a) s = .next (completed s t))
      ∧ ((s1.ctx key n).st = .idle ∨ (s1.ctx key n).vac = true → writeDst (noteCmd s1 true) d 1 = .ok t → exec (.kill c d a) s = .next (completed s t)))
    ∧ (∀ (d : Dst) (b : Use Src) (y : Word) (drop : Bool) (s2 t : State), readSrc s1 b.r = .ok (y, s2) → (s2.ctx key n).killing = false →
      spillOn (s2.core key) n = false →
      (canResume s2 key n = true → writeDst (noteCmd (redirCtx s2 key n (BitVec.ofNat 15 (y.toNat / 4 * 4)) drop) false) d 0 = .ok t →
        exec (.redir c d a b drop) s = .next (completed s t))
      ∧ (canResume s2 key n = false → writeDst (noteCmd s2 true) d 1 = .ok t → exec (.redir c d a b drop) s = .next (completed s t))))
  ∧ (∀ (s s1 t : State) (c : Com) (d : Dst) (a : Use Src) (off : BitVec 24) (x : Word) (p : Packet) (rest : List Packet), Ready .leaf c s →
    s.focus ≠ 0x20000 → readSrc s a.r = .ok (x, s1) → memReady s1 = .ok () →
    ∀ at_, at_ = addressOf x (.imm24 off) → at_ + 64 ≤ 0x10000 → at_ % 64 = 0 → (s1.cluster s.myCluster).faults = p :: rest →
    writeDst (performWrite (s1.modCluster s.myCluster fun k => { k with faults := rest }) true (pairsAt (locSpm s.focus at_) (bytesOfNat 64 p.toNat))) d
      (BitVec.ofNat 64 rest.length) = .ok t →
    exec (.fwait c d a off) s = .next (completed s t))

/-- R8, R87, R88 and R91. A module reset zeroes every memory, clears every poison mark, full/empty tag and sync mark, makes every context IDLE with
zero registers and puts back the boot, lock, feature and alarm registers, and only the fuses, the host's memory the module's id and place in a pod and
what the host has seen stay. The end of the wipe sets WIPED. FWLOCK takes its first write and no other. That a reset gives every context zero
registers and every core its defaults and keeps the module's id is the model's choice (log entry 1), and so is that it keeps the host's memory (log
entry 30). R87, R89, R90 and R92. BOOT_GO with a wiped module, a set lock and a range that is not empty, before SCRAP, measures the locked range into
M1, derives the layer's secret from it (with the other label in RMA), holds the layer's certificate and the device's public key, sets MEASURED and
READY, and starts the 80 leaf controllers and the global scheduler core at PC 0 with every capability; where firmware derives a runtime layer, its
measurement, secret and certificate stand too; memory stays. Where one of these conditions fails, or GO has been set, it changes nothing. That
firmware starts at PC 0 with every capability is the model's choice (log entry 19), and the functions of FIPS 202 and 204 stand as Crypto gives them
(log entry 4). R23, R93 to R95. An alarm sets its cause and sends MSI-X vector 0; with ACT 1 the module's clocks stop, with ACT 2 they stop and S1 and
the keys are erased, and at 110 degrees they stop whatever ACT holds; nothing else changes. (A place's unit is the one that `unitHas` gives it.) A
corrected error is counted, saturating; an uncorrectable one marks its 8-byte word as poison and is counted. -/
def Obligations.BootLockAndAlarms : Prop :=
  ((∀ s : State, ∃ t, exec .moduleReset s = .next t ∧ (∀ a, t.mem.get a = 0) ∧ t.poison = [] ∧ t.full = [] ∧ t.marks = [] ∧ t.fabric = []
    ∧ (∀ key n, t.ctx key n = {}) ∧ (∀ key, t.core key = {}) ∧ (∀ i, tget ({} : Event) t.events i = {}) ∧ (∀ i, t.cluster i = {}) ∧ (∀ q, t.queue q = {})
    ∧ t.wiped = false ∧ t.go = false ∧ t.measured = false ∧ t.bootReady = false ∧ t.lock = false ∧ t.fwWritten = false
    ∧ t.featLowerSet = false ∧ t.featUpperSet = false ∧ t.alarm = 0 ∧ t.halted = false ∧ t.tb = 0 ∧ t.keysErased = false
    ∧ t.fuses = s.fuses ∧ t.hostMem = s.hostMem ∧ t.modId = s.modId ∧ t.inPod = s.inPod ∧ t.agenda = s.agenda)
  ∧ (∀ s : State, exec .wipeComplete s = .next { s with wiped := true })
  ∧ (∀ (s : State) (v : Word), s.fwWritten = false → exec (.fwlockWrite v) s = .next
      { s with fwWritten := true, lock := v.getLsbD 63, lockLimit := v.extractLsb' 32 24, lockBase := v.extractLsb' 0 24 })
  ∧ (∀ (s : State) (v : Word), s.fwWritten = true → exec (.fwlockWrite v) s = .next s))
  ∧ ((∀ (s : State) (f : FwInit), s.go = false → s.wiped = true → s.lock = true → s.lockBase.toNat ≤ s.lockLimit.toNat → s.fuses ≠ 3 →
    ∃ t, exec (.bootGo f) s = .next t ∧ t.go = true ∧ t.measured = true ∧ t.bootReady = true ∧ t.mem = s.mem ∧ t.fabric = s.fabric
      ∧ t.m1 = sha3 (s.mem.getN (s.lockBase.toNat * 2 ^ 16) ((s.lockLimit.toNat + 1 - s.lockBase.toNat) * 2 ^ 16))
      ∧ t.s1 = sha3 ((if s.fuses = 2 then labelRma else labelL1) ++ bytes32 Config.deviceSecret ++ bytes32 t.m1)
      ∧ t.cert = layerCert t.m1 t.s1 Config.deviceSecret s.fuses ∧ t.pk0 = mldsaPublic (keySeed Config.deviceSecret)
      ∧ (f.layer2 = none → t.m2 = s.m2 ∧ t.s2 = s.s2 ∧ t.cert2 = s.cert2)
      ∧ (∀ bs, f.layer2 = some bs → t.m2 = sha3 bs ∧ t.s2 = sha3 (labelL2 ++ bytes32 t.s1 ++ bytes32 t.m2)
        ∧ t.cert2 = some (layerCert t.m2 t.s2 t.s1 s.fuses))
      ∧ t.xlbase = f.xlbase &&& 0xFFFFFF0001 ∧ t.alarmAct = f.alarmAct
      ∧ (∀ key, ((∃ i < 80, key = leafKey i) ∨ key = globalKey) →
        (t.ctx key false).pc = 0 ∧ (t.ctx key false).cap = 0x3F ∧ (t.ctx key false).st ≠ .idle
        ∧ ((s.core key).active = false → (t.ctx key false).st = .running))
      ∧ (∀ key, isTile key = true → t.core key = s.core key))
  ∧ (∀ (s : State) (f : FwInit),
      (s.go = true ∨ s.wiped = false ∨ s.lock = false ∨ s.lockLimit.toNat < s.lockBase.toNat ∨ s.fuses = 3) → exec (.bootGo f) s = .next s))
  ∧ ((∀ (s : State) (c : Fin 4) (must : Bool), ∀ act, act = s.alarmAct.toNat / 4 ^ c.val % 4 → raiseAlarm s c.val must =
    { s with alarm := s.alarm ||| BitVec.ofNat 4 (2 ^ c.val), msix := 0 :: s.msix, halted := s.halted || act == 1 || act == 2 || must
             keysErased := s.keysErased || act == 2, s1 := if act = 2 then 0 else s.s1, s2 := if act = 2 then 0 else s.s2 })
  ∧ (∀ s : State, exec .alarmTamper s = .next (raiseAlarm s 0 false) ∧ exec .alarmGlitch s = .next (raiseAlarm s 1 false)
    ∧ exec .overTemperatureHalt s = .next (raiseAlarm s 3 true) ∧ exec .supplyFault s = .next (raiseAlarm s 3 false))
  ∧ (∀ (s : State) (u : ErrUnit), ∃ t, exec (.errorCorrected u) s = .next t
    ∧ (t.errCor.get (errIx u)).toNat = min ((s.errCor.get (errIx u)).toNat + 1) 0xFFFFFFFF
    ∧ (∀ v, v ≠ u → t.errCor.get (errIx v) = s.errCor.get (errIx v)) ∧ { t with errCor := s.errCor } = s)
  ∧ (∀ (s : State) (u : ErrUnit) (a : Nat), unitHas u a = true → ∃ t, exec (.poisonMark u a) s = .next t
    ∧ (∀ w, w ∈ t.poison ↔ w = a / 8 ∨ w ∈ s.poison) ∧ { t with poison := s.poison, errUnc := s.errUnc } = s
    ∧ (∀ v, v ≠ u → t.errUnc.get (errIx v) = s.errUnc.get (errIx v))
    ∧ (t.errUnc.get (errIx u)).toNat = min ((s.errUnc.get (errIx u)).toNat + 1) 0xFFFFFFFF)
  ∧ (∀ (s : State) (u : ErrUnit) (a : Nat), u = .links ∨ u = .cxl → exec (.poisonMark u a) s = .next (countUnc s u)))

/-- R86. Once firmware runs, the first write of FEATACC's lower half is kept as far as the features are offered, notification descriptors only with
their feature 0; the first write of its upper half brings into effect what the lower half then holds; every later write of either is ignored. R90. A
request for a report is refused with ERR while attestation is not accepted, the keys are erased or a request is busy, and else makes the module busy;
its end puts nonce, measurement, life-cycle state, features and timebase, with their signature, into the report. The signature's functions are those
of log entry 4, and the nonce is that of the mailbox at the end (log entry 47). R92. The fuses move only from TEST to PROD, from PROD to RMA, and from
any other state to SCRAP; such a change resets the module (every core has its defaults then: log entry 1), and any other request sets ERR and leaves
the fuses. -/
def Obligations.FeaturesAttestationAndLifeCycle : Prop :=
  ((∀ (s : State) (v : Word), s.featLowerSet = false → s.bootReady = true → ∃ t, exec (.featAccLower v) s = .next t
    ∧ t.featLowerSet = true ∧ t.featUpperSet = s.featUpperSet ∧ t.featAcc = s.featAcc
    ∧ (∀ i, t.featLower.getLsbD i = (decide (i < 11) && v.getLsbD i && (i ≠ 1 || v.getLsbD 0)))
    ∧ t.featUpper = s.featUpper ∧ t.mem = s.mem ∧ t.cores = s.cores)
  ∧ (∀ (s : State) (v : Word), (s.featLowerSet = true ∨ s.bootReady = false) → exec (.featAccLower v) s = .next s)
  ∧ (∀ (s : State) (v : Word), s.featUpperSet = false → s.bootReady = true →
      exec (.featAccUpper v) s = .next { s with featUpper := 0, featUpperSet := true, featAcc := s.featLower })
  ∧ (∀ (s : State) (v : Word), (s.featUpperSet = true ∨ s.bootReady = false) → exec (.featAccUpper v) s = .next s)
  ∧ (∀ (s t : State) (v : Word) (n : Nat), s.featUpperSet = false → s.bootReady = true → exec (.featAccUpper v) s = .next t →
      t.feat n = s.featLower.getLsbD n))
  ∧ ((∀ (s : State) (v : Word), v.getLsbD 1 = false → v.getLsbD 0 = true → s.feat 10 = true → s.keysErased = false → s.atBusy = false →
    exec (.attestRequest v) s = .next { s with atBusy := true })
  ∧ (∀ (s : State) (v : Word), v.getLsbD 0 = true → (s.feat 10 = false ∨ s.keysErased = true ∨ s.atBusy = true) →
    exec (.attestRequest v) s = .next { s with atErr := true })
  ∧ (∀ (s : State) (v : Word), v.getLsbD 0 = false → exec (.attestRequest v) s = .next { s with atErr := s.atErr && !v.getLsbD 1 })
  ∧ (∀ s : State, s.atBusy = true → s.keysErased = false →
    exec .attestReportDone s = .next
      { s with atBusy := false, report := reportBody s ++ mldsaSign (keySeed (if s.cert2.isSome then s.s2 else s.s1)) (reportBody s) })
  ∧ (∀ s : State, s.atBusy = true → s.keysErased = true → exec .attestReportDone s = .next { s with atBusy := false, atErr := true })
  ∧ (∀ s : State, reportBody s = bytesOfNat 8 (1 + s.fuses.toNat * 2 ^ 16) ++ bytesOfNat 32 s.nonce.toNat ++ bytesOfNat 32 s.m1.toNat
      ++ bytesOfNat 32 s.m2.toNat ++ bytesOfNat 8 s.featAcc.toNat ++ bytesOfNat 8 s.featUpper.toNat ++ bytesOfNat 8 s.tb ++ List.replicate 8 0)
  ∧ (∀ s : State, (reportBody s).length = 136))
  ∧ ((∀ (s : State) (v : Word), v.getLsbD 8 = true → lcAllowed s.fuses (v.extractLsb' 0 2) = true →
    ∃ t, exec (.lifecycleChange v) s = .next t ∧ t.fuses = v.extractLsb' 0 2 ∧ (∀ a, t.mem.get a = 0) ∧ t.wiped = false ∧ t.go = false
      ∧ (∀ key, t.core key = {}))
  ∧ (∀ (s : State) (v : Word), v.getLsbD 8 = true → lcAllowed s.fuses (v.extractLsb' 0 2) = false →
    exec (.lifecycleChange v) s = .next { s with lcErr := true, lcTarget := v.extractLsb' 0 2 })
  ∧ (∀ (s : State) (v : Word), v.getLsbD 8 = false →
    exec (.lifecycleChange v) s = .next { s with lcErr := s.lcErr && !v.getLsbD 9, lcTarget := v.extractLsb' 0 2 })
  ∧ (∀ a b : BitVec 2, lcAllowed a b = true ↔ (a = 0 ∧ b = 1) ∨ (a = 1 ∧ b = 2) ∨ (a ≠ 3 ∧ b = 3)))

/-- R23 and R145 to R149. A throttle acts on its cluster, or on every cluster of its regulator, and sets its bit in each THRRSN; a frequency request
that needs no more than the present voltage, or is lower than the present frequency, applies at once, and a higher one when the voltage has reached
its target; a lower one sets the reasons that a free value gives (log entry 29); a current throttle ends 1 µs after the last sample above the limit; a
cluster whose DOMMAP field differs, and which is idle with empty queues, stops its clock for 10 µs of the timebase and draws from the new regulator.
R141, R146, R150 and R151. A ramp's level rises by one after its step length unless a hold or a current throttle keeps it; current that rises faster
than SLEWLIM holds the levels of its domain until the next sample, drops them to 8 first where every quad stands at 16, and sets SLEW in every THRRSN
concerned; a timebase load only moves a copy forward; a module behind its pod's clock master steps forward with every copy, and none goes back, and
its regulators move on by 10 mV for each µs of that step. -/
def Obligations.PowerAndTimebaseSteps : Prop :=
  ((∀ (s : State) (cl : Nat), cl < 80 → ∃ t, exec (.thermalThrottle cl) s = .next t ∧ (t.cluster cl).thermal = true
    ∧ (t.cluster cl).thrrsn = (s.cluster cl).thrrsn ||| 1 ∧ (∀ i, i ≠ cl → t.cluster i = s.cluster i) ∧ t.cores = s.cores ∧ t.mem = s.mem ∧ t.regs = s.regs)
  ∧ (∀ (s : State) (cl : Nat), exec (.thermalThrottleEnd cl) s = .next (s.modCluster cl fun c => { c with thermal := false }))
  ∧ (∀ (s : State) (d : Fin 4), ∃ t, exec (.currentThrottle d) s = .next t ∧ (t.regs.get d).current = true ∧ (t.regs.get d).currentAt = s.tb
    ∧ (∀ e, e ≠ d → t.regs.get e = s.regs.get e)
    ∧ (∀ cl, (t.cluster cl).thrrsn = if cl < 80 ∧ domOf s cl = d then (s.cluster cl).thrrsn ||| 2 else (s.cluster cl).thrrsn)
    ∧ t.cores = s.cores ∧ t.mem = s.mem)
  ∧ (∀ (s : State) (d : Fin 4), (s.regs.get d).currentAt + 1000 ≤ s.tb →
    exec (.currentThrottleEnd d) s = .next { s with regs := s.regs.set d { s.regs.get d with current := false } })
  ∧ (∀ (s : State) (d : Fin 4), s.tb < (s.regs.get d).currentAt + 1000 → exec (.currentThrottleEnd d) s = .next s)
  ∧ (∀ (s : State) (d : Fin 4) (v : Word) (c : Nat) (n : BitVec 5) (r x : Regulator), c = v.toNat % 32 → 5 ≤ c → c ≤ 18 → n = BitVec.ofNat 5 c → r = s.regs.get d →
    x = { r with fcode := n, fnew := n, vt := voltageFor c } →
    ∃ t, exec (.frequencyRequest d v) s = .next t ∧ t.cores = s.cores ∧ t.mem = s.mem
      ∧ ((c < r.f.toNat ∨ voltageFor c * 100 ≤ r.v) → t.regs = s.regs.set d { x with f := n })
      ∧ (r.f.toNat ≤ c → r.v < voltageFor c * 100 → t.regs = s.regs.set d x)
      ∧ (r.fcode.toNat ≤ c → t.clusters = s.clusters)
      ∧ (∀ cl, (t.cluster cl).thrrsn = if c < r.fcode.toNat ∧ cl < 80 ∧ domOf s cl = d then
          (lowerReasons s c).foldl (fun w b => w ||| BitVec.ofNat 5 (2 ^ b)) (s.cluster cl).thrrsn else (s.cluster cl).thrrsn))
  ∧ (∀ (s : State) (c b : Nat), b ∈ lowerReasons s c → b = 3 ∨ (b = 4 ∧ c ≤ 15))
  ∧ (∀ (s : State) (d : Fin 4) (v : Word), (v.toNat % 32 < 5 ∨ 18 < v.toNat % 32) → exec (.frequencyRequest d v) s = .next s)
  ∧ (∀ c : Nat, voltageFor c = max 500 (100 + (100 * c + 2) / 3))
  ∧ (∀ (s : State) (d : Fin 4) (r : Regulator), r = s.regs.get d → r.vt * 100 ≤ r.v →
    exec (.voltageTargetReached d) s = .next { s with regs := s.regs.set d { r with f := r.fnew } })
  ∧ (∀ (s : State) (d : Fin 4), (s.regs.get d).v < (s.regs.get d).vt * 100 → exec (.voltageTargetReached d) s = .next s)
  ∧ (∀ (s : State) (cl : Nat), cl < 80 → domField s cl ≠ domOf s cl → (s.cluster cl).switchUntil = none → clusterIdle s cl = true →
    ∃ t, exec (.domainSwitch cl) s = .next t ∧ domOf t cl = domField s cl ∧ clockStopped t cl = true
      ∧ (t.cluster cl).switchUntil = some (s.tb + 10000) ∧ (∀ i, i ≠ cl → t.cluster i = s.cluster i) ∧ t.cores = s.cores ∧ t.mem = s.mem)
  ∧ (∀ (s : State) (cl : Nat), (domField s cl = domOf s cl ∨ clusterIdle s cl = false) → exec (.domainSwitch cl) s = .next s)
  ∧ (∀ (s : State) (cl at_ : Nat), (s.cluster cl).switchUntil = some at_ →
    (at_ ≤ s.tb → ∃ t, exec (.domainSwitchEnd cl) s = .next t ∧ clockStopped t cl = false ∧ domOf t cl = domOf s cl ∧ t.cores = s.cores)
    ∧ (s.tb < at_ → exec (.domainSwitchEnd cl) s = .next s)))
  ∧ ((∀ (s : State) (quad : Nat) (q : Quad) (r : Regulator), q = s.quad quad → r = s.regs.get (domOf s (clusterOf (quad * 4))) → q.level < 16 →
    (q.rampLeft = 0 → r.slewHold = false → (r.current = false ∨ q.level < 12) →
      exec (.rampStep quad) s = .next (s.setQuad quad { q with level := q.level + 1, rampLeft := 16 * q.rampStep }))
    ∧ ((q.rampLeft ≠ 0 ∨ r.slewHold = true ∨ (r.current = true ∧ 12 ≤ q.level)) → exec (.rampStep quad) s = .next (s.setQuad quad q)))
  ∧ (∀ (s : State) (d : Fin 4), s.feat 7 = true → (s.regs.get d).lim ≠ 0 → ∃ t, exec (.slewExceed d) s = .next t
    ∧ (∀ cl, (t.cluster cl).thrrsn = if cl < 80 ∧ domOf s cl = d then (s.cluster cl).thrrsn ||| 4 else (s.cluster cl).thrrsn)
    ∧ t.cores = s.cores ∧ t.mem = s.mem
    ∧ ((∀ cl ∈ clustersOf s d, ∀ q ∈ quadsOf cl, (s.quad q).level = 16) →
      (∀ cl ∈ clustersOf s d, ∀ q ∈ quadsOf cl, (t.quad q).level = 8 ∧ (t.quad q).rampPhase = 0
        ∧ (t.quad q).rampStep = max 1 (s.rstepOf (towerOfCluster cl)).toNat ∧ (t.quad q).rampLeft = 16 * (t.quad q).rampStep))
    ∧ t.regs = s.regs.set d { s.regs.get d with slewHold := true }
    ∧ ((∃ cl ∈ clustersOf s d, ∃ q ∈ quadsOf cl, (s.quad q).level ≠ 16) → t.quads = s.quads))
  ∧ (∀ (s : State) (d : Fin 4), (s.feat 7 = false ∨ (s.regs.get d).lim = 0) → exec (.slewExceed d) s = .next s)
  ∧ (∀ (s : State) (cl : Fin 80),
    (s.tbCopies.get cl < s.tb → exec (.timebaseLoad cl.val) s = .next { s with tbCopies := s.tbCopies.set cl s.tb })
    ∧ (s.tb ≤ s.tbCopies.get cl → exec (.timebaseLoad cl.val) s = .next s))
  ∧ (∀ (s : State) (o : Int), (s.port 0).en = true → (s.port 0).ckmst = false → (s.port 0).ckLost = false →
    ∃ t, exec (.timebaseSteer o) s = .next t ∧ t.tbOffs = BitVec.ofInt 32 o ∧ (t.tbLock = true ↔ -5 ≤ o ∧ o ≤ 5)
      ∧ (o < 0 → t.tb = s.tb + (-o).toNat ∧ t.tbSlow = 0) ∧ (0 ≤ o → t.tb = s.tb ∧ t.tbSlow = 2 * o.toNat)
      ∧ t.cores = s.cores ∧ t.mem = s.mem ∧ (0 ≤ o → t.tbCopies = s.tbCopies)
      ∧ (o < 0 → ∀ cl, t.tbCopies.get cl = max (s.tbCopies.get cl) t.tb)
      ∧ t.regs = if o < 0 then s.regs.map (passReg (-o).toNat (s.tb / 16 != t.tb / 16)) else s.regs)
  ∧ (∀ (d : Nat) (b : Bool) (r : Regulator), (passReg d b r).vt = r.vt ∧ ((passReg d b r).slewHold = true ↔ r.slewHold = true ∧ b = false)
    ∧ (r.v ≤ r.vt * 100 → (passReg d b r).v = min (r.vt * 100) (r.v + d)) ∧ (r.vt * 100 ≤ r.v → (passReg d b r).v = max (r.vt * 100) (r.v - d))
    ∧ ((passReg d b r).f = if r.vt * 100 ≤ (passReg d b r).v then r.fnew else r.f))
  ∧ (∀ (s : State) (o : Int), ((s.port 0).en = false ∨ (s.port 0).ckmst = true ∨ (s.port 0).ckLost = true) → exec (.timebaseSteer o) s = .next s))

/-- R139 and R141 to R143, R172 to R174 and R345. An operation that reaches its controller, the oldest there of its context, is applied and leaves the
fabric; an arrival that completes its phase sends a release to every waiter, an SSTEP's at 64 ns plus the column's stagger; a release that has come is
recorded in the wait of its context, an SSTEP's from 8 ns before its time on, with the start of a ramp, the others of its column due within 8 ns; a
spilled context's is in its save area; a refusal that has come freezes the context of a posted operation with GROUP; a pod barrier completes in a
census that reads exactly the members, once the releases of an earlier one have been given. A posted refusal's freeze with the PC of the wait is the
model's reading (log entry 32), and the global scheduler core's column 0 its choice (log entry 14). -/
def Obligations.GroupSteps : Prop :=
  (∀ (s : State) (o : GroupOp), (s.groupOps.find? fun x => x.id == o.id) = some o →
    (opFirst s o = true → exec (.groupOpApply o.id) s = .next (groupApply s o))
    ∧ (opFirst s o = false → exec (.groupOpApply o.id) s = .next s))
  ∧ (∀ (s : State) (o : GroupOp), ∀ x, x = s.group o.gid → ∀ u, u = { s with groupOps := s.groupOps.filter fun y => y.id ≠ o.id } →
    x.opened = true → x.asid = o.asid →
    (∀ k i, o.kind = .join → isMember s o.key o.ctx o.gid = false → (s.ctx o.key o.ctx).members.toList.findIdx? (entryFree s) = some i → k = Fin.ofNat 4 i →
      ∃ t, groupApply s o = t ∧ (t.ctx o.key o.ctx).members = (s.ctx o.key o.ctx).members.set k (some (o.gid, x.epoch))
        ∧ (t.group o.gid).m = x.m + 1 ∧ (t.group o.gid).a = x.a ∧ t.mem = s.mem
        ∧ (o.dead = false → (s.ctx o.key o.ctx).away = false → (s.ctx o.key o.ctx).ask = .sent → (t.ctx o.key o.ctx).ask = .answered (BitVec.ofNat 64 (x.m + 1))))
    ∧ (∀ ph, (o.kind = .sync ∧ ph = .sync) ∨ (o.kind = .sstep ∧ ph = .sstep) → isMember s o.key o.ctx o.gid = true → (x.kind = .none ∨ x.kind = ph) →
      groupApply s o = groupComplete (u.setGroup o.gid { x with kind := ph, a := x.a + 1, waiters := x.waiters ++ [{ key := o.key, ctx := o.ctx, waitg := false }] }) o.gid)
    ∧ (o.kind = .leave → isMember s o.key o.ctx o.gid = true → groupApply s o = groupLeave u o.key o.ctx o.gid)
    ∧ (o.kind = .waitg → groupApply s o = u.setGroup o.gid { x with waiters := x.waiters ++ [{ key := o.key, ctx := o.ctx, waitg := true }] })
    ∧ (o.kind = .init ∨ o.kind = .free → ∃ t, groupApply s o = t ∧ (t.group o.gid).epoch = x.epoch + 1 ∧ (t.group o.gid).m = 0 ∧ (t.group o.gid).a = 0
      ∧ (t.group o.gid).waiters = [] ∧ (t.group o.gid).kind = .none ∧ ((t.group o.gid).opened = true ↔ o.kind = .init) ∧ t.cores = s.cores ∧ t.mem = s.mem
      ∧ t.releases.map (fun r => (r.key, r.ctx, r.code, r.sstep)) =
        s.releases.map (fun r => (r.key, r.ctx, r.code, r.sstep)) ++ x.waiters.map (fun w => (w.key, w.ctx, (if o.kind = .init then 1 else 2), false))))
  ∧ (∀ (s : State) (o : GroupOp), o.kind ≠ .new → ((s.group o.gid).opened = false ∨ (s.group o.gid).asid ≠ o.asid) →
    groupApply s o = refuseGroup { s with groupOps := s.groupOps.filter fun y => y.id ≠ o.id } o)
  ∧ (∀ (s : State) (g : Nat) (x : Group), x = s.group g → x.kind ≠ .none → x.a = x.m →
    (x.kind = .sync → ∃ t, groupComplete s g = t ∧ (t.group g).a = 0 ∧ (t.group g).kind = .none ∧ (t.group g).waiters = [] ∧ (t.group g).m = x.m
      ∧ t.releases.map (fun r => (r.key, r.ctx, r.code, r.sstep)) =
        s.releases.map (fun r => (r.key, r.ctx, r.code, r.sstep)) ++ x.waiters.map (fun w => (w.key, w.ctx, 0, false)) ∧ t.cores = s.cores)
    ∧ (x.kind = .sstep → ¬(s.podEn = true ∧ s.feat 6 = true ∧ s.podg.toNat = g) → ∃ t, groupComplete s g = t ∧ (t.group g).a = 0
      ∧ (t.group g).kind = .none ∧ t.cores = s.cores
      ∧ t.releases.map (fun r => (r.key, r.ctx, r.sstep, r.at_)) = s.releases.map (fun r => (r.key, r.ctx, r.sstep, r.at_))
        ++ x.waiters.map (fun w => (w.key, w.ctx, true, s.tb + 64 + meshCol w.key * s.staggerOf (groupTower g))))
    ∧ (x.kind = .sstep → s.podEn = true → s.feat 6 = true → s.podg.toNat = g → groupComplete s g = s.setGroup g { x with podArrived := true }))
  ∧ (∀ (s : State) (r : Release), (s.releases.find? fun x => x.id == r.id && !x.sstep) = some r →
    exec (.groupRelease r.id) s = .next (giveRelease s r))
  ∧ (∀ (s : State) (r : Release), (s.releases.find? fun x => x.id == r.id && x.sstep) = some r →
    (r.at_ ≤ s.tb + 8 → (s.cluster (clusterOf r.key)).switchUntil = none →
      exec (.sstepRelease r.id) s = .next (startRamp { giveRelease s r with
        releases := (s.releases.filter fun x => x.id ≠ r.id).map fun x =>
          if x.batch = r.batch ∧ x.sstep = true ∧ x.col = r.col ∧ x.by_ = none then { x with by_ := some (s.tb + 8) } else x } r.key r.rstep))
    ∧ ((s.tb + 8 < r.at_ ∨ (s.cluster (clusterOf r.key)).switchUntil ≠ none) → exec (.sstepRelease r.id) s = .next s))
  ∧ (∀ (s : State) (r : Release) (g : Nat) (st : Bool), r.area = none → (s.ctx r.key r.ctx).away = false →
    ((s.ctx r.key r.ctx).wait = .group g st none → ((giveRelease s r).ctx r.key r.ctx).wait = .group g st (some r.code))
    ∧ ((s.ctx r.key r.ctx).wait = .waitg g none → ((giveRelease s r).ctx r.key r.ctx).wait = .waitg g (some r.code))
    ∧ (giveRelease s r).releases = s.releases.filter (fun x => x.id ≠ r.id) ∧ (giveRelease s r).mem = s.mem)
  ∧ (∀ (s : State) (r : Release) (b : Nat), r.area = some b →
    giveRelease s r = releaseSaved { s with releases := s.releases.filter fun x => x.id ≠ r.id } b r.code)
  ∧ (∀ (s : State) (key : Nat) (v : BitVec 8), isTile key = true → v ≠ 0 → ∃ q, (startRamp s key v).quad (quadOf key) = q
    ∧ q.level = 1 ∧ q.rampPhase = 0 ∧ q.rampLeft = 16 * v.toNat ∧ q.epi = (s.quad (quadOf key)).epi ∧ q.bv = (s.quad (quadOf key)).bv)
  ∧ (∀ s : State, podHere s = true ↔ (s.group s.podg.toNat).podArrived = true ∧ ∀ r ∈ s.releases, r.pod = false)
  ∧ (∀ (s : State) (r : PostRefusal), (s.refusals.find? fun x => x.id == r.id) = some r →
    (r.posted = true → r.area = none → canFreeze s r.key r.ctx = true → ∃ t, exec (.groupRefusalReturn r.id) s = .next t ∧ (t.ctx r.key r.ctx).st = .frozen
      ∧ (t.ctx r.key r.ctx).fcode = r.code ∧ (t.ctx r.key r.ctx).pc = (s.ctx r.key r.ctx).pc ∧ (t.ctx r.key r.ctx).g = (s.ctx r.key r.ctx).g
      ∧ t.refusals = s.refusals.filter (fun x => x.id ≠ r.id) ∧ t.mem = s.mem)
    ∧ (r.posted = true → canFreeze s r.key r.ctx = false → exec (.groupRefusalReturn r.id) s = .next s)
    ∧ (r.area ≠ none → exec (.groupRefusalReturn r.id) s = .next s)
    ∧ (r.posted = false → r.area = none → (s.ctx r.key r.ctx).away = false → (s.ctx r.key r.ctx).ask = .sent → ∃ t, exec (.groupRefusalReturn r.id) s = .next t ∧ (t.ctx r.key r.ctx).ask = .refused
      ∧ (t.ctx r.key r.ctx).st = (s.ctx r.key r.ctx).st))
  ∧ (∀ (s : State) (row : List Int) (x : Port) (g : Nat) (reads : List (Option Nat)), x = (s.port 0).settleIdle → g = s.podg.toNat →
    x.inCycle = true → barrierCycle s 0 = true → x.idle % 32 = 0 → x.seen.length < 32 →
    reads = (List.range 32).map (fun i => x.sense (row.getD i 0)
      (if podHere s = true ∧ x.writable = true ∧ x.litAt i = true ∧ x.spos.toNat = i then 1 else 0)) →
    ((∀ r ∈ reads, r = some 0 ∨ r = some 1) → reads.count (some 1) = s.podMemb.toNat → podHere s = true →
      ∃ t, exec (.podBarrierCensus row) s = .next t ∧ (t.port 0).idle = x.idle + 1
        ∧ (t.group g).podArrived = false ∧ (t.group g).a = 0 ∧ (t.group g).kind = .none ∧ t.cores = s.cores
        ∧ t.releases.map (fun r => (r.key, r.ctx, r.sstep, r.at_)) = s.releases.map (fun r => (r.key, r.ctx, r.sstep, r.at_))
          ++ (s.group g).waiters.map (fun w => (w.key, w.ctx, true, s.tb + 200 + s.podstag.toNat + meshCol w.key * s.staggerOf (groupTower g))))
    ∧ ((∃ r ∈ reads, r ≠ some 0 ∧ r ≠ some 1) ∨ reads.count (some 1) ≠ s.podMemb.toNat ∨ podHere s = false →
      ∃ t, exec (.podBarrierCensus row) s = .next t ∧ (t.port 0).idle = x.idle + 1 ∧ t.groups = s.groups ∧ t.cores = s.cores ∧ t.releases = s.releases))

/-- R79, R80, R103, R105 and R107. The record at the head of an enabled queue that holds one is refused with the lowest code that applies, counted in
CQERR and skipped; an accepted one with no WEVT goes on its target's ordered route when the inbox has room, one with a WEVT to the hold store when
that has room, and the head moves on; without room it stays; an ISTLOAD needs no room in an inbox (by the model's choice: log entry 45). A disabled or
empty queue sends nothing, and none does before firmware runs; disabling a queue clears EN alone. -/
def Obligations.QueueSteps : Prop :=
  (∀ (s : State) (q : Fin 16) (x : HostQueue) (r : Record), x = s.queue q.val → s.bootReady = true → x.en = true → x.head ≠ x.tail →
    r = headRecord s x →
    (∀ c, recordCode s x r = some c → ∃ t, exec (.queueRecordCheck q) s = .next t ∧ (t.queue q.val).head = x.head + 1
      ∧ (t.queue q.val).errCount.toNat = min 0xFFFF (x.errCount.toNat + 1)
      ∧ (x.errCount = 0 → (t.queue q.val).errIndex = x.head ∧ (t.queue q.val).errCode = BitVec.ofNat 4 c)
      ∧ (x.errCount ≠ 0 → (t.queue q.val).errIndex = x.errIndex ∧ (t.queue q.val).errCode = x.errCode)
      ∧ t.fabric = s.fabric ∧ t.cores = s.cores ∧ t.mem = s.mem ∧ (∀ p, p ≠ q.val → t.queue p = s.queue p))
    ∧ (recordCode s x r = none → recWevt r = 0 → (recKind r = 1 ∨ inboxRoom s (recCore r) (recCtx r) = true) →
      ∃ t, exec (.queueRecordCheck q) s = .next t ∧ (t.queue q.val).head = x.head + 1 ∧ t.cores = s.cores ∧ t.mem = s.mem
        ∧ ∃ y, t.fabric = s.fabric ++ [y] ∧ y.kind = .record r false 0 0 0 ∧ y.route = some (recCore r) ∧ y.key = queueKey q.val ∧ y.cls = none)
    ∧ (recordCode s x r = none → recWevt r ≠ 0 → holdRoom s = true →
      ∃ t, exec (.queueRecordCheck q) s = .next t ∧ (t.queue q.val).head = x.head + 1 ∧ t.cores = s.cores ∧ t.mem = s.mem
        ∧ ∃ y, t.fabric = s.fabric ++ [y] ∧ y.kind = .hold r ∧ y.cls = none)
    ∧ (recordCode s x r = none → recWevt r = 0 → recKind r ≠ 1 → inboxRoom s (recCore r) (recCtx r) = false →
      exec (.queueRecordCheck q) s = .next s)
    ∧ (recordCode s x r = none → recWevt r ≠ 0 → holdRoom s = false → exec (.queueRecordCheck q) s = .next s))
  ∧ (∀ (s : State) (q : Fin 16), ((s.queue q.val).en = false ∨ s.bootReady = false ∨ (s.queue q.val).head = (s.queue q.val).tail) → exec (.queueRecordCheck q) s = .next s)
  ∧ (∀ (s : State) (q : Fin 16), ∃ t, exec (.queueDisable q) s = .next t ∧ t.queue q.val = { s.queue q.val with en := false }
    ∧ (∀ p, p ≠ q.val → t.queue p = s.queue p) ∧ t.fabric = s.fabric ∧ t.cores = s.cores ∧ t.mem = s.mem)
  ∧ (∀ (s : State) (x : HostQueue) (r : Record),
      (recordCode s x r = some 1 ↔ isTile (recCore r) = false)
      ∧ (isTile (recCore r) = true → (recordCode s x r = some 2 ↔ 1 < recKind r ∨ 2 ^ 14 ≤ recField r 20 2 ∨ 4 ≤ recFlags r ∨ recField r 34 2 ≠ 0
        ∨ recField r 44 20 ≠ 0 ∨ 64 ≤ (recCap r).toNat))
      ∧ (isTile (recCore r) = true → recKind r ≤ 1 → (recCap r).toNat < 64 → recField r 20 2 < 2 ^ 14 → recFlags r < 4 → recField r 34 2 = 0 → recField r 44 20 = 0 →
        (recordCode s x r = some 3 ↔ recCap r &&& ~~~x.capmax ≠ 0)
        ∧ (recCap r &&& ~~~x.capmax = 0 → (recordCode s x r = some 4 ↔ recAsid r ≠ x.asid)
          ∧ (recAsid r = x.asid → (recordCode s x r = some 5 ↔ recKind r = 0 ∧ (32768 ≤ recPc r ∨ recPc r % 4 ≠ 0))
            ∧ (recKind r = 1 ∨ (recPc r < 32768 ∧ recPc r % 4 = 0) → (recordCode s x r = some 6 ↔ 65535 < recWevt r ∨ 65535 < recField r 40 4)
              ∧ (recWevt r ≤ 65535 → recField r 40 4 ≤ 65535 → ∀ len, len = recField r 8 2 →
                (recordCode s x r = some 7 ↔ recKind r = 1 ∧ (recField r 0 8 % 64 ≠ 0 ∨ recPc r % 64 ≠ 0 ∨ len = 0 ∨ len % 64 ≠ 0 ∨ 32768 < recPc r + len))
                ∧ (recKind r = 0 ∨ (recField r 0 8 % 64 = 0 ∧ recPc r % 64 = 0 ∧ len ≠ 0 ∧ len % 64 = 0 ∧ recPc r + len ≤ 32768) →
                  (recordCode s x r = some 8 ↔ recWevt r = 0 ∧ admits s (clusterOf (recCore r)) (recAsid r) = false)
                  ∧ (recordCode s x r = none ↔ recWevt r ≠ 0 ∨ admits s (clusterOf (recCore r)) (recAsid r) = true))))))))

/-- R81, R83, R84, R108 and R109. Arming an event sets its target and a count of 0, and with target 0 frees it; a signal adds one to the count of an
event that is not FREE, and the signal that reaches the target releases the records held on the event and posts its notifications; later ones change
the count alone, and id 0 names none. R75, R85, R88, R94 and R208. While the host's device memory is up, a host write applies its bytes at their homes
piece by piece as an agent that is no firmware, and a host read of any length returns its bytes, with poison where a word is poisoned or locked; a
range outside DRAM changes nothing, and while it is down a read returns zeros with poison and a write changes nothing. That the memory is up from the
end of the wipe until acceptance declines it, and what it gives while it is down, are the model's choices (log entries 29 and 30). -/
def Obligations.EventAndHostMemorySteps : Prop :=
  ((∀ (s : State) (v : Word) (id : Nat), id = v.toNat % 2 ^ 16 → id ≠ 0 → v.toNat / 2 ^ 32 ≠ 0 → ∃ t, exec (.eventArm v) s = .next t
    ∧ tget ({} : Event) t.events id = { target := BitVec.ofNat 32 (v.toNat / 2 ^ 32), count := 0 }
    ∧ (∀ j, j ≠ id → tget ({} : Event) t.events j = tget {} s.events j) ∧ t.held = s.held ∧ t.cores = s.cores ∧ t.mem = s.mem)
  ∧ (∀ (s : State) (v : Word), v.toNat % 2 ^ 16 = 0 → exec (.eventArm v) s = .next s)
  ∧ (∀ (s : State) (v : Word) (id : Nat), id = v.toNat % 2 ^ 16 → id ≠ 0 → v.toNat / 2 ^ 32 = 0 →
    ∃ t, exec (.eventArm v) s = .next t ∧ exec (.eventFree id) s = .next t)
  ∧ (∀ (s : State) (id : Nat), 65535 < id → exec (.eventFree id) s = .next s ∧ exec (.eventSignal id) s = .next s)
  ∧ (∀ (s : State) (id : Nat), 0 < id → id < 65536 → ∃ t, exec (.eventFree id) s = .next t
    ∧ (∀ j, tget ({} : Event) t.events j = if j = id then {} else tget {} s.events j)
    ∧ t.held = s.held.filter (fun h => !(recWevt h.body == id && h.released.isNone))
    ∧ t.hldrop.toNat = min (s.hldrop.toNat + (s.held.filter fun h => recWevt h.body == id && h.released.isNone).length) 0xFFFFFFFF
    ∧ t.cores = s.cores ∧ t.mem = s.mem)
  ∧ (∀ s : State, exec (.eventFree 0) s = .next s ∧ exec (.eventSignal 0) s = .next s)
  ∧ (∀ (s : State) (id : Nat) (e : Event), 0 < id → id < 65536 → e = tget {} s.events id →
    (e.target = 0 → exec (.eventSignal id) s = .next s)
    ∧ (e.target ≠ 0 → (e.count.toNat + 1 < e.target.toNat ∨ e.target.toNat ≤ e.count.toNat) →
      exec (.eventSignal id) s = .next { s with events := tset s.events id { e with count := inc32 e.count 1 } })
    ∧ (e.target ≠ 0 → e.count.toNat + 1 = e.target.toNat → ∃ t, exec (.eventSignal id) s = .next t
      ∧ tget ({} : Event) t.events id = { e with count := e.target }
      ∧ t.held = s.held.map (fun h => if recWevt h.body = id ∧ h.released = none then { h with released := some s.nextId } else h)
      ∧ t.cores = s.cores ∧ t.mem = s.mem ∧ t.fabric = s.fabric))
  ∧ (∀ (s : State) (n : NotSlot), s.feat 1 = false → postNotification s n = { s with msix := n.cfg.toNat % 2 ^ 11 :: s.msix })
  ∧ (∀ (s : State) (n : NotSlot) (d : Nat), d = n.addr.toNat / 64 * 64 → s.feat 1 = true → ∃ t, postNotification s n = t ∧
    ((s.hostMem.get (d + 8)).getLsbD 1 = false → t.msix = n.cfg.toNat % 2 ^ 11 :: s.msix ∧ (t.hostMem.get (d + 8)).getLsbD 0 = true
      ∧ t.hostMem.getLE d 8 = s.hostMem.getLE d 8 ||| 2 ^ (n.cfg.toNat / 2 ^ 16 % 64))
    ∧ ((s.hostMem.get (d + 8)).getLsbD 1 = true → t.msix = s.msix)))
  ∧ ((∀ (s : State) (a n : Nat) (bs : List Byte), a + bs.length ≤ 2 ^ 40 → hdmUp s = true →
    exec (.hostMemAccess true a n bs) s = .next (writePieces s false (pairsAt a bs)))
  ∧ (∀ (s : State) (a n : Nat) (bs : List Byte), a + n ≤ 2 ^ 40 → hdmUp s = true → (∀ i < n, s.lockedLoc (a + i) = false) →
    exec (.hostMemAccess false a n bs) s = .next
      { s with hostRead := (List.range n).map fun i => s.byteAt (a + i), hostPois := (List.range n).any fun i => s.poisonAt (a + i) })
  ∧ (∀ (s : State) (a n : Nat) (bs : List Byte), a + n ≤ 2 ^ 40 → hdmUp s = true → (∃ i < n, s.lockedLoc (a + i) = true) →
    ∃ t, exec (.hostMemAccess false a n bs) s = .next t ∧ t.alarm = s.alarm ||| 4 ∧ t.mem = s.mem ∧ t.hostPois = true
      ∧ t.hostRead = (List.range n).map fun i => if s.lockedLoc (a + i) = true then 0 else s.byteAt (a + i))
  ∧ (∀ (s : State) (a n : Nat) (bs : List Byte), a + n ≤ 2 ^ 40 → hdmUp s = false →
    exec (.hostMemAccess false a n bs) s = .next { s with hostRead := List.replicate n 0, hostPois := true })
  ∧ (∀ (s : State) (a n : Nat) (bs : List Byte), hdmUp s = false → exec (.hostMemAccess true a n bs) s = .next s)
  ∧ (∀ (s : State) (a n : Nat) (bs : List Byte), 2 ^ 40 < a + n → exec (.hostMemAccess false a n bs) s = .next s)
  ∧ (∀ (s : State) (a n : Nat) (bs : List Byte), 2 ^ 40 < a + bs.length → exec (.hostMemAccess true a n bs) s = .next s)
  ∧ (∀ s : State, hdmUp s = true ↔ s.wiped = true ∧ (s.featUpperSet = false ∨ s.feat 2 = true))
  ∧ (∀ (s : State) (a : Nat), isDram a = true → s.lock = true → s.lockBase.toNat ≤ a / 2 ^ 16 → a / 2 ^ 16 ≤ s.lockLimit.toNat →
    ∀ (b : Byte), ∃ t, performWrite s false [(a, b)] = t ∧ t.byteAt a = s.byteAt a ∧ t.alarm = s.alarm ||| 4))

/-- R9, R10, R48, R73, R76, R87 and R95. COMPLETION and result of the host's reads and writes of BAR0 (constructors counterReadClear, registerWrite):
a read returns the register's value and clears its RC fields and nothing else; a write reaches the one register at its offset, and a write of an
offset that R76 does not list, or of BOOTSTAT without GO, changes nothing. That each cause's bits of ALARM.ACT are a field of their own is the model's
choice (log entry 44). -/
def Obligations.RegisterWindow : Prop :=
  (∀ (s : State) (off : Nat), (∀ q : Fin 16, off ≠ 0x10020 + 0x1000 * q.val) → off ≠ 0x20028 → (∀ k : Fin 7, off ≠ 0x200000 + 8 * k.val ∧ off ≠ 0x200040 + 8 * k.val) →
    (∀ (p : Fin 8) (i : Fin 6), s.feat 4 = true → off ≠ 0x100030 + 0x1000 * p.val + 8 * i.val) →
    exec (.counterReadClear off) s = .next { s with hostRead := bytesOfNat 8 (barRead s off).toNat, hostPois := false })
  ∧ (∀ (s : State) (k : Fin 7),
    exec (.counterReadClear (0x200000 + 8 * k.val)) s = .next
      { s with hostRead := bytesOfNat 8 (s.errCor.get k).toNat, hostPois := false, errCor := s.errCor.set k 0 }
    ∧ exec (.counterReadClear (0x200040 + 8 * k.val)) s = .next
      { s with hostRead := bytesOfNat 8 (s.errUnc.get k).toNat, hostPois := false, errUnc := s.errUnc.set k 0 })
  ∧ (∀ s : State, exec (.counterReadClear 0x20028) s = .next { s with hostRead := bytesOfNat 8 s.hldrop.toNat, hostPois := false, hldrop := 0 })
  ∧ (∀ (s : State) (q : Fin 16), exec (.counterReadClear (0x10020 + 0x1000 * q.val)) s = .next
    { s.modQueue q.val (fun x => { x with errIndex := 0, errCount := 0, errCode := 0 }) with
        hostRead := bytesOfNat 8 ((s.queue q.val).errIndex.toNat * 2 ^ 32 + (s.queue q.val).errCount.toNat * 2 ^ 16 + (s.queue q.val).errCode.toNat), hostPois := false })
  ∧ (∀ (s : State) (p : Fin 8) (i : Fin 6), s.feat 4 = true → ∀ x, x = s.port p → exec (.counterReadClear (0x100030 + 0x1000 * p.val + 8 * i.val)) s = .next
    { s.setPort p (match i with
        | 0 => { x with eras := 0 } | 1 => { x with overs := 0 } | 2 => { x with pourCnt := 0 } | 3 => { x with absCnt := 0 } | 4 => { x with replCnt := 0 }
        | 5 => { x with poisCnt := 0 }) with
        hostRead := bytesOfNat 8 ([x.eras, x.overs, x.pourCnt, x.absCnt, x.replCnt, x.poisCnt].getD i.val 0).toNat, hostPois := false })
  ∧ (∀ (s : State) (v : Word),
    exec (.registerWrite 0x20 v) s = .next (writeFeatLower s v) ∧ exec (.registerWrite 0x28 v) s = .next (writeFeatUpper s v)
    ∧ exec (.registerWrite 0x20000 v) s = .next (armEvent s v) ∧ exec (.registerWrite 0x20008 v) s = .next (signalEvent s (v.toNat % 2 ^ 16))
    ∧ exec (.registerWrite 0x20010 v) s = .next { s with evsel := v.setWidth 16 }
    ∧ exec (.registerWrite 0x300008 v) s = .next (writeFwlock s v) ∧ exec (.registerWrite 0x300010 v) s = .next (writeAlarm s v)
    ∧ exec (.registerWrite 0x300020 v) s = .next (writeAtreq s v)
    ∧ (s.feat 10 = false → ∀ k : Fin 4, exec (.registerWrite (0x301000 + 8 * k.val) v) s = .next s)
    ∧ (s.feat 10 = true → ∀ k : Fin 4, ∃ t, exec (.registerWrite (0x301000 + 8 * k.val) v) s = .next t ∧ { t with nonce := s.nonce } = s
      ∧ ∀ j : Fin 4, t.nonce.extractLsb' (64 * j.val) 64 = if j = k then v else s.nonce.extractLsb' (64 * j.val) 64))
  ∧ (∀ (s : State) (q : Fin 16) (v : Word) (x : HostQueue), x = s.queue q.val →
    (x.en = false → exec (.registerWrite (0x10000 + 0x1000 * q.val) v) s = .next (s.modQueue q.val fun x => { x with base := v &&& ~~~(0x3F : Word) }))
    ∧ (x.en = true → exec (.registerWrite (0x10000 + 0x1000 * q.val) v) s = .next (s.modQueue q.val fun x => x))
    ∧ exec (.registerWrite (0x10010 + 0x1000 * q.val) v) s = .next (s.modQueue q.val fun x => { x with tail := v.setWidth 32 })
    ∧ (∀ o, o < 0x1000 → o ≠ 0 → o ≠ 8 → o ≠ 0x10 → exec (.registerWrite (0x10000 + 0x1000 * q.val + o) v) s = .next (s.modQueue q.val fun x => x))
    ∧ (∃ t, exec (.registerWrite (0x10008 + 0x1000 * q.val) v) s = .next t ∧ { t with queues := s.queues } = s ∧ (∀ p, p ≠ q.val → t.queue p = s.queue p)
      ∧ (t.queue q.val).base = x.base ∧ (t.queue q.val).head = x.head ∧ (t.queue q.val).tail = x.tail
      ∧ ((t.queue q.val).en = true ↔ v.getLsbD 0 = true ∧ (x.en = true ∨ s.featUpperSet = true))
      ∧ (x.en = false → (t.queue q.val).asid = v.extractLsb' 48 16 ∧ (t.queue q.val).capmax = v.extractLsb' 16 32
        ∧ (t.queue q.val).logsz = if v.toNat / 2 ^ 12 % 16 ≤ 12 then v.extractLsb' 12 4 else x.logsz)
      ∧ (x.en = true → (t.queue q.val).asid = x.asid ∧ (t.queue q.val).capmax = x.capmax ∧ (t.queue q.val).logsz = x.logsz)))
  ∧ (∀ (s : State) (k : Fin 1024) (v : Word),
    exec (.registerWrite (0x21000 + 16 * k.val) v) s = .next
      { s with slots := tset s.slots k.val { tget ({} : NotSlot) s.slots k.val with addr := v &&& 0xFFFFFFFFFFFFFFC1 } }
    ∧ exec (.registerWrite (0x21008 + 16 * k.val) v) s = .next
      { s with slots := tset s.slots k.val { tget ({} : NotSlot) s.slots k.val with cfg := v &&& 0x0000FFFF003F07FF } }
    ∧ (∀ o, o < 16 → o ≠ 0 → o ≠ 8 → exec (.registerWrite (0x21000 + 16 * k.val + o) v) s = .next s))
  ∧ (∀ (s : State) (p : Fin 8) (o : Nat) (v : Word), o < 0x1000 →
    (s.feat 4 = true → exec (.registerWrite (0x100000 + 0x1000 * p.val + o) v) s = .next (portWrite s p o v))
    ∧ (s.feat 4 = false → exec (.registerWrite (0x100000 + 0x1000 * p.val + o) v) s = .next s))
  ∧ (∀ (s : State) (v : Word), ∀ t, t = writeAlarm s v → t.alarm = s.alarm &&& ~~~v.extractLsb' 0 4
    ∧ (∀ c : Fin 4, t.alarmAct.toNat / 4 ^ c.val % 4 =
      if v.toNat / 2 ^ (12 + 2 * c.val) % 4 = 3 then s.alarmAct.toNat / 4 ^ c.val % 4 else v.toNat / 2 ^ (12 + 2 * c.val) % 4))
  ∧ (∀ (s : State) (v : Word) (off : Nat), off ∉ [0x20, 0x28, 0x20000, 0x20008, 0x20010, 0x300008, 0x300010, 0x300020] → (off < 0x10000 ∨ 0x20000 ≤ off) →
    (off < 0x21000 ∨ 0x25000 ≤ off) → (off < 0x100000 ∨ 0x108000 ≤ off) → (off < 0x301000 ∨ 0x301020 ≤ off ∨ off % 8 ≠ 0) →
    (off = 0x300000 → v.getLsbD 1 = false) → exec (.registerWrite off v) s = .next s)

/-- R105, R106, R188, R203, R207 to R209, R333, R340 to R342 and R348. A request performed at its home, in the order of its route and after the
requests it follows: a write one aligned 8-byte piece (or one whole block of an instruction store) at a time, a sync-word addition, an atomic or a
join decrement as one step, and a full/empty form once its turn has come. One that must wait changes nothing, one whose banks still wake starts their
wakes, and one at a held unit parks. Which piece comes first is a free value (log entry 20), and a write to another module is performed here without
effect (log entry 3). -/
def Obligations.PerformingWrites : Prop :=
  (∀ (s : State) (bs : List (Nat × Byte)), bs ≠ [] → ∃ n a, (n = 8 ∨ n = 32) ∧ (nextPiece s bs).1 ≠ []
    ∧ (nextPiece s bs).1 = bs.filter (fun p => decide (p.1 / n = a)) ∧ (nextPiece s bs).2 = bs.filter (fun p => !decide (p.1 / n = a)))
  ∧ (∀ (s : State) (r : Req), s.req r.id = some r → isWriting r.kind = true → (r.performed = true ∨ routeClear s r = false ∨ afterDone s r = false ∨ msGate s r = .stay) →
    exec (.writePerform r.id) s = .next s)
  ∧ (∀ (s : State) (r : Req), s.req r.id = some r → isWriting r.kind = true → r.performed = false → routeClear s r = true → afterDone s r = true →
    (∀ err, msGate s r = .park err → exec (.writePerform r.id) s = .next (parkReq s r err))
    ∧ (msGate s r = .go → r.loc < foreignBase →
      (∀ bs now rest u, r.kind = .write bs → (bs.headD (0, 0)).1 < foreignBase → nextPiece s bs = (now, rest) → homeBanks s true (now.map (·.1)) = (u, true) →
        exec (.writePerform r.id) s = .next (if rest.isEmpty = true
          then putReq (unpark (performWrite u (isFw r.key) now) r) { r with kind := .write [], performed := true, parked := false }
          else putReq (performWrite u (isFw r.key) now) { r with kind := .write rest }))
      ∧ (∀ bs u, r.kind = .write bs → (bs.headD (0, 0)).1 < foreignBase → homeBanks s true ((nextPiece s bs).1.map (·.1)) = (u, false) →
        exec (.writePerform r.id) s = .next u)
      ∧ (∀ bs, r.kind = .write bs → foreignBase ≤ (bs.headD (0, 0)).1 → exec (.writePerform r.id) s = .next (putReq s { r with performed := true }))
      ∧ (∀ n u, r.kind = .syncAdd r.loc n → homeBanksRw s [r.loc] [r.loc + 8] = (u, false) → exec (.writePerform r.id) s = .next u)
      ∧ (∀ n u, r.kind = .syncAdd r.loc n → homeBanksRw s [r.loc] [r.loc + 8] = (u, true) →
        exec (.writePerform r.id) s = .next (putReq (syncAdd u r.loc n false) { r with performed := true }))
      ∧ (∀ a u, atomStep u (isFw r.key) r.kind = some a → (∃ op w x, r.kind = .amo op w r.loc x) ∨ (∃ w x n, r.kind = .cas w r.loc x n)
          ∨ (∃ x, r.kind = .amof r.loc x) ∨ (∃ x, r.kind = .swarm r.loc x) →
        ∀ v, ((∃ x, r.kind = .swarm r.loc x) → homeBanksRw s [r.loc + 8] [r.loc] = (v, true)) → ((∀ x, r.kind ≠ .swarm r.loc x) → homeBanks s true [r.loc] = (v, true)) →
        u = unpark v r →
        exec (.writePerform r.id) s = .next (putReq a.st { r with performed := true, parked := false, val := a.val, pois := a.pois, flags := BitVec.ofNat 64 a.flags }))
      ∧ (∀ v, ((∃ x, r.kind = .swarm r.loc x) ∧ homeBanksRw s [r.loc + 8] [r.loc] = (v, false))
          ∨ (((∃ op w x, r.kind = .amo op w r.loc x) ∨ (∃ w x n, r.kind = .cas w r.loc x n) ∨ ∃ x, r.kind = .amof r.loc x) ∧ homeBanks s true [r.loc] = (v, false)) →
        exec (.writePerform r.id) s = .next v))
    ∧ (msGate s r = .go → ∀ loc u go pc, r.kind = .join loc → joinStep s loc = (u, go, pc) → exec (.writePerform r.id) s = .next
        (putReq u { r with performed := true, pois := s.poisonAt loc, val := (if go = true then 0x8000000000000000 else 0) ||| pc.setWidth 64 }))
    ∧ (msGate s r = .go → ∀ f loc data n x y q, r.kind = .fe f loc data →
      (∀ o d, spmOfLoc loc = some (o, d) → y = noteArrival s o) → (spmOfLoc loc = none → y = s) →
      ((r.arr = some n ∧ q = r ∧ x = putReq s r) ∨ (r.arr = none ∧ n = y.nextId ∧ q = { r with arr := some n } ∧ x = putReq { y with nextId := n + 1 } q)) →
      (feReady x (x.phys loc / 8) n f = false → exec (.writePerform r.id) s = .next x)
      ∧ (feReady x (x.phys loc / 8) n f = true → f = .setE →
        exec (.writePerform r.id) s = .next (putReq { x with full := nsDel x.full (x.phys loc / 8) } { q with performed := true, val := 0, pois := false }))
      ∧ (∀ u v p w, feReady x (x.phys loc / 8) n f = true → f ≠ .setE → homeBanks x true [loc] = (u, true) → feStep u f loc data false = (v, w, p) →
        exec (.writePerform r.id) s = .next (putReq v { q with performed := true, val := w, pois := p }))))
  ∧ (∀ (s : State) (k : Nat), s.req k = none → exec (.writeAck k) s = .next s
    ∧ (s.job k = none → exec (.writePerform k) s = .next s ∧ exec (.loadReply k) s = .next s))

/-- R201, R214, R327, R331, R340, R341, R343 and R348. The reply of a request gives its value to the register, queue place, scratchpad range or flight
that waits for it, and its request leaves the count of its class; an acknowledgement does the same for a performed write; a task that has ended
receives nothing. That a load is performed in its reply turns is the model's reading (log entry 8), and which of its pieces comes first a free value
(log entry 20). -/
def Obligations.Replies : Prop :=
  (∀ (s : State) (r : Req) (ls : List Nat), s.req r.id = some r → r.kind = .load ls → r.performed = false →
    (msGate s r = .stay → exec (.loadReply r.id) s = .next s)
    ∧ (∀ err, msGate s r = .park err → exec (.loadReply r.id) s = .next (parkReq s r err))
    ∧ (∀ now rest locs, msGate s r = .go →
      pick s.tick (splitPieces ((ls.filter fun l => !(r.got.any fun p => p.1 == l)).map fun l => (l, ()))) = (now, rest) → locs = now.flatten.map (·.1) →
      (∀ u, homeBanks s false locs = (u, false) → exec (.loadReply r.id) s = .next u)
      ∧ (∀ u bs p v q, homeBanks s false locs = (u, true) → readHome u (isFw r.key) locs = (bs, p, v) →
        q = { r with got := r.got ++ locs.zip bs, pois := r.pois || p } →
        (rest ≠ [] → exec (.loadReply r.id) s = .next (putReq v q))
        ∧ (∀ all, all = ls.map (fun l => ((q.got.find? fun p => p.1 == l).map (·.2)).getD 0) → rest = [] →
          ((∀ base, r.dst ≠ .spm base) → exec (.loadReply r.id) s = .next (dropReq (deliverBytes (keepLine (unpark v q) q) q ls all q.pois) q))
          ∧ (∀ base, r.dst = .spm base → exec (.loadReply r.id) s = .next (finishLoad (keepLine (unpark v q) q) q ls all q.pois))))))
  ∧ (∀ (s : State) (r : Req) (ls : List Nat), s.req r.id = some r → r.kind = .load ls → (∀ base, r.dst ≠ .spm base) → r.performed = true →
    exec (.loadReply r.id) s = .next (dropReq (deliverBytes s r ls (List.replicate ls.length 0) true) r))
  ∧ (∀ (s : State) (r : Req), s.req r.id = some r → r.performed = true → ((∃ op w l x, r.kind = .amo op w l x) ∨ (∃ w l x n, r.kind = .cas w l x n)
      ∨ (∃ l x, r.kind = .amof l x) ∨ (∃ l x, r.kind = .swarm l x) ∨ ∃ f l x, r.kind = .fe f l x ∧ (f = .ldw ∨ f = .lde)) →
    exec (.loadReply r.id) s = .next (replyValue s r))
  ∧ (∀ (s : State) (r : Req) (l : Nat), s.req r.id = some r → r.kind = .join l → r.performed = true →
    (∀ m, r.dead = false → (s.ctx r.key r.ctx).ending = .joinSent r.id m →
      exec (.loadReply r.id) s = .next (dropReq ((poisIf s r.key r.ctx r.pois).modCtx r.key r.ctx fun c => { c with ask := .answered r.val }) r))
    ∧ ((r.dead = true ∨ ∀ m, (s.ctx r.key r.ctx).ending ≠ .joinSent r.id m) → exec (.loadReply r.id) s = .next (dropReq s r)))
  ∧ (∀ (s : State) (r : Req) (l : Nat) (g : BitVec 16), s.req r.id = some r → r.kind = .arm l g →
    (∀ u, homeBanks s false [l] = (u, true) →
      exec (.loadReply r.id) s = .next (if r.dead = true then dropReq u r else dropReq (armStep u r.key r.ctx l) r))
    ∧ ∀ u, homeBanks s false [l] = (u, false) → exec (.loadReply r.id) s = .next u)
  ∧ (∀ (s : State) (r : Req) (n : Fin 48) (k : LdKind) (ls : List Nat) (bs : List Byte), r.dst = .reg (.g n) k → r.dead = false → n ≠ 0 →
    ((deliverBytes s r ls bs false).ctx r.key r.ctx).g = (s.ctx r.key r.ctx).g.set n (loadVal k bs)
    ∧ (deliverBytes s r ls bs false).mem = s.mem
    ∧ ((deliverBytes s r ls bs true).ctx r.key r.ctx).g = (s.ctx r.key r.ctx).g.set n (loadVal k bs)
    ∧ ((deliverBytes s r ls bs true).ctx r.key r.ctx).status = (s.ctx r.key r.ctx).status ||| BitVec.ofNat 64 flPOIS)
  ∧ (∀ (s t : State) (r q : Req) (base : Nat) (ls : List Nat) (bs : List Byte) (p : Bool), r.dst = .spm base →
    q = { r with kind := .write (pairsAt base bs), ms := false, parked := false, replayed := false, performed := false } →
    t = applyReq (poisIf (putReq s q) r.key r.ctx (p && !r.dead)) q →
    (∀ x, t.req r.id = some x → finishLoad s r ls bs p = if x.performed = true then dropReq t x else t)
    ∧ (t.req r.id = none → finishLoad s r ls bs p = t))
  ∧ (∀ (s : State) (r : Req) (n : Fin 48) (k : LdKind) (ls : List Nat) (bs : List Byte) (p : Bool), r.dst = .reg (.g n) k → r.dead = true →
    deliverBytes s r ls bs p = s)
  ∧ (∀ (s : State) (r : Req), s.req r.id = some r → isAcked r.kind = true → r.performed = true → (∀ q id, r.dst ≠ .epi q id) →
    exec (.writeAck r.id) s = .next (dropReq s r))
  ∧ (∀ (s : State) (r : Req), s.req r.id = some r → (isAcked r.kind = false ∨ r.performed = false) → exec (.writeAck r.id) s = .next s)
  ∧ (∀ (s : State) (r : Req), (dropReq s r).fabric = s.fabric.filter (fun x => x.id ≠ r.id) ∧ (dropReq s r).mem = s.mem
    ∧ (r.cls = some .clu → ((dropReq s r).ctx r.key r.ctx).clu = (s.ctx r.key r.ctx).clu - 1 ∧ ((dropReq s r).ctx r.key r.ctx).mod = (s.ctx r.key r.ctx).mod)
    ∧ (r.cls = some .mod → ((dropReq s r).ctx r.key r.ctx).mod = (s.ctx r.key r.ctx).mod - 1)
    ∧ (r.cls = some .sys → ((dropReq s r).ctx r.key r.ctx).sys = (s.ctx r.key r.ctx).sys - 1) ∧ (r.cls = none → (dropReq s r).cores = s.cores))
  ∧ (∀ (s : State) (key : Nat) (n : Bool) (l : Nat) (o : Word) (g : BitVec 16) (ns : List Word), l < foreignBase → (s.ctx key n).away = false →
    (s.ctx key n).wait = .waitw l o g none ns → ∃ t, exec (.monitorNotify key n) s = .next t ∧ t.mem = s.mem
    ∧ (∀ v, ns.find? (fun v => genReached v g) = some v → (t.ctx key n).wait = .waitw l o g (some v) []
      ∧ ∀ m, m ∈ t.monitors ↔ m ∈ s.monitors ∧ ¬(m.2.1 = key ∧ m.2.2 = n))
    ∧ ((∀ v ∈ ns, genReached v g = false) → (t.ctx key n).wait = .waitw l o g none [] ∧ t.monitors = s.monitors))
  ∧ (∀ (v : Word) (g : BitVec 16), genReached v g = true ↔ (v.extractLsb' 48 16 - g).toNat < 2 ^ 15)

/-- R77, R99 to R108, R111 and R350. A task record that arrives enters the inbox of its context, which starts it when idle and active; a recruit
starts when its join cell is written; an ISTLOAD copies bytes of DRAM into its target's instruction store; a record of MSG that the target's cluster
does not admit freezes its sender with PRIV, DETAIL 33; records held for an event are kept, released in the order of signal and intake, and dropped
when no longer admitted; a core's outbound buffer sends its older record when there is room. An ISTLOAD from what is no DRAM copies free values (log
entry 3), and from a poisoned word zeros (log entry 45). -/
def Obligations.RecordSteps : Prop :=
  (∀ (s : State) (r : Req) (b : Record) (m : Bool) (pc : BitVec 15) (i : BitVec 128) (a : Word), s.req r.id = some r → r.kind = .record b m pc i a →
    recKind b = 0 → routeClear s r = true → (m = false ∨ admits s (clusterOf (recCore b)) (recAsid b) = true) →
    (inboxHeld s (recCore b) (recCtx b) < 8 → exec (.recordArrival r.id) s = .next (arriveRecord (dropReq s r) b))
    ∧ (8 ≤ inboxHeld s (recCore b) (recCtx b) → exec (.recordArrival r.id) s = .next s))
  ∧ (∀ (s : State) (b : Record) (key : Nat) (n : Bool), key = recCore b → n = recCtx b → (s.ctx key n).st ≠ .idle → ∃ t, arriveRecord s b = t
    ∧ (t.ctx key n).inbox = (s.ctx key n).inbox ++ [b] ∧ (t.ctx key n).g = (s.ctx key n).g ∧ (t.ctx key n).st = (s.ctx key n).st ∧ t.mem = s.mem)
  ∧ (∀ (s : State) (b : Record) (key : Nat) (n : Bool), key = recCore b → n = recCtx b → (s.ctx key n).st = .idle → (s.ctx key n).vac = false →
    n = (s.core key).active → (s.core key).swapping = false → (s.ctx key n).inbox = [] → ∃ t, arriveRecord s b = t
    ∧ (t.ctx key n).st = .running ∧ (t.ctx key n).pc = BitVec.ofNat 15 (recPc b) ∧ (t.ctx key n).inbox = [] ∧ (t.ctx key n).status = 0
    ∧ (t.ctx key n).g.get 1 = BitVec.ofNat 64 (recField b 0 8) ∧ (t.ctx key n).g.get 2 = BitVec.ofNat 64 (recField b 8 8)
    ∧ (∀ i : Fin 48, i ≠ 1 → i ≠ 2 → (t.ctx key n).g.get i = 0) ∧ (t.ctx key n).asid = recAsid b ∧ (t.ctx key n).cap = recCap b
    ∧ (t.ctx key n).kid = BitVec.ofNat 32 (recField b 24 4) ∧ (t.ctx key n).live = 0 ∧ (t.ctx key n).binds = [] ∧ (t.core key).lrb = []
    ∧ (t.ctx key n).task.pat = (recFlags b % 2 == 1) ∧ (t.ctx key n).task.evend = (recFlags b / 2 % 2 == 1) ∧ (t.ctx key n).task.cevt = recField b 40 4
    ∧ t.mem = s.mem)
  ∧ (∀ (s : State) (r : Req) (key : Nat) (n : Bool) (pc : BitVec 15) (x : Word) (tt : Vector Word 4) (kid : BitVec 32) (asid : BitVec 16) (cap : BitVec 32),
    s.req r.id = some r → r.kind = .forkStart key n pc x tt kid asid cap → afterGone s r = true → (s.ctx key n).st = .reserved → (s.core key).spill ≠ .spill n →
    exec (.recordArrival r.id) s = .next (startRecruit (dropReq s r) key n pc x tt kid asid cap))
  ∧ (∀ (s : State) (r : Req) (b : Record) (m : Bool) (pc : BitVec 15) (i : BitVec 128) (a : Word), s.req r.id = some r → r.kind = .record b m pc i a →
    recKind b = 1 → routeClear s r = true → ∀ xs u, xs = (List.range (recField b 8 2)).map (recField b 0 8 + ·) →
    ((∀ l ∈ xs, s.lockedLoc l = false) → u = s) → ((∃ l ∈ xs, s.lockedLoc l = true) → u = raiseAlarm s 2 false) →
    exec (.istloadCopy r.id) s = .next (dropReq (writePieces u true ((List.range (recField b 8 2)).map fun j =>
      (locIst (recCore b) (recPc b + j), if s.lockedLoc (recField b 0 8 + j) = true then 0
        else if isDram (recField b 0 8 + j) = true then s.byteAt (recField b 0 8 + j) else Config.openByte s.tick (recField b 0 8 + j)))) r))
  ∧ (∀ (s : State) (r : Req) (b : Record) (pc : BitVec 15) (i : BitVec 128) (a : Word), s.req r.id = some r → r.kind = .record b true pc i a →
    (admits s (clusterOf (recCore b)) (recAsid b) = true → exec (.msgAdmissionRefused r.id) s = .next s)
    ∧ (routeClear s r = false → exec (.msgAdmissionRefused r.id) s = .next s)
    ∧ (admits s (clusterOf (recCore b)) (recAsid b) = false → routeClear s r = true → r.dead = true →
      exec (.msgAdmissionRefused r.id) s = .next { dropReq s r with nextId := s.nextId + 1 })
    ∧ (admits s (clusterOf (recCore b)) (recAsid b) = false → routeClear s r = true → r.dead = false →
      (r.area ≠ none ∨ canFreeze s r.key r.ctx = false) → ∃ t x, exec (.msgAdmissionRefused r.id) s = .next t ∧ t.refusals = s.refusals ++ [x]
      ∧ x.key = r.key ∧ x.ctx = r.ctx ∧ x.area = r.area ∧ x.code = 4 ∧ x.detail = 33 ∧ x.posted = true ∧ x.pc = pc ∧ x.insn = i ∧ x.opa = a
      ∧ t.fabric = s.fabric.filter (fun x => x.id ≠ r.id) ∧ t.mem = s.mem)
    ∧ (admits s (clusterOf (recCore b)) (recAsid b) = false → routeClear s r = true → r.dead = false → r.area = none → canFreeze s r.key r.ctx = true → ∃ t,
      exec (.msgAdmissionRefused r.id) s = .next t ∧ (t.ctx r.key r.ctx).st = .frozen ∧ (t.ctx r.key r.ctx).fcode = 4
      ∧ ((t.ctx r.key r.ctx).packet).extractLsb' 0 8 = 4 ∧ ((t.ctx r.key r.ctx).packet).extractLsb' 264 24 = 33
      ∧ ((t.ctx r.key r.ctx).packet).extractLsb' 32 32 = pc.setWidth 32 ∧ (t.ctx r.key r.ctx).pc = (s.ctx r.key r.ctx).pc
      ∧ t.fabric = s.fabric.filter (fun x => x.id ≠ r.id) ∧ t.mem = s.mem))
  ∧ (∀ (s : State) (r : Req) (b : Record), s.req r.id = some r → r.kind = .hold b → ∃ t, exec (.holdStoreIntake r.id) s = .next t
    ∧ t.fabric = s.fabric.filter (fun x => x.id ≠ r.id) ∧ t.mem = s.mem
    ∧ ∃ h, t.held = s.held ++ [h] ∧ h.body = b ∧ (h.released.isSome = eventSignalled s (recWevt b)))
  ∧ (∀ (s : State) (h : Held), (s.held.find? fun x => x.id == h.id) = some h → ∀ key, key = recCore h.body →
    ((h.released = none ∨ ∃ x ∈ s.held, recCore x.body = key ∧ heldBefore x h = true) → exec (.heldRelease h.id) s = .next s)
    ∧ (h.released ≠ none → (∀ x ∈ s.held, recCore x.body = key → heldBefore x h = false) →
      (admits s (clusterOf key) (recAsid h.body) = false → exec (.heldRelease h.id) s = .next
        { s with held := s.held.filter fun x => x.id ≠ h.id, hldrop := inc32 s.hldrop 1 })
      ∧ (admits s (clusterOf key) (recAsid h.body) = true → (recKind h.body ≠ 0 ∨ inboxRoom s key (recCtx h.body) = true) → ∃ t,
        exec (.heldRelease h.id) s = .next t ∧ t.held = s.held.filter (fun x => x.id ≠ h.id) ∧ t.cores = s.cores
        ∧ ∃ y, t.fabric = s.fabric ++ [y] ∧ y.kind = .record h.body false 0 0 0 ∧ y.route = some key)
      ∧ (admits s (clusterOf key) (recAsid h.body) = true → recKind h.body = 0 → inboxRoom s key (recCtx h.body) = false →
        exec (.heldRelease h.id) s = .next s)))
  ∧ (∀ (s : State) (key : Nat) (o : Outgoing) (rest : List Outgoing), (s.core key).outbound = o :: rest →
    (recWevt o.body = 0 → inboxRoom s (recCore o.body) (recCtx o.body) = true → ∃ t y, exec (.outboundRecordSend key) s = .next t
      ∧ (t.core key).outbound = rest ∧ t.fabric = s.fabric ++ [y] ∧ y.kind = .record o.body true o.pc o.insn o.opa ∧ y.route = some (recCore o.body)
      ∧ y.id = o.id ∧ y.key = key ∧ y.ctx = o.ctx ∧ y.dead = o.dead ∧ y.area = o.area)
    ∧ (recWevt o.body ≠ 0 → holdRoom s = true → ∃ t y, exec (.outboundRecordSend key) s = .next t ∧ (t.core key).outbound = rest
      ∧ t.fabric = s.fabric ++ [y] ∧ y.kind = .hold o.body ∧ y.id = o.id ∧ y.key = key ∧ y.ctx = o.ctx)
    ∧ (recWevt o.body = 0 → inboxRoom s (recCore o.body) (recCtx o.body) = false → exec (.outboundRecordSend key) s = .next s)
    ∧ (recWevt o.body ≠ 0 → holdRoom s = false → exec (.outboundRecordSend key) s = .next s))
  ∧ (∀ (s : State) (key : Nat), (s.core key).outbound = [] → exec (.outboundRecordSend key) s = .next s)

/-- R95, R204, R205, R207 and R430. A HOLD command of MSQCTL makes its unit held, RELEASE lets its parked accesses be applied in order, and ends when
none is left, DROP completes them without effect and with POIS, and HOLD and DROP end their command; a walk keeps the page it finds in its cluster's
TLB; an invalidate removes the entries of its ASID, or all, and GO reads 0. A command that is not the one in progress changes nothing. That DROP
counts one uncorrectable error for each access is the model's choice (log entry 29), and that a walk which meets the locked range raises the alarm its
reading (log entry 37). -/
def Obligations.UnitAndTranslationSteps : Prop :=
  (∀ (s : State) (st : Fin 16) (u : BitVec 24) (x : Stack) (ids : List Nat), x = s.stack st.val → x.cmdUnit = u → ids = parkedFor s st.val u →
    (x.cmd = 1 → ∃ t, exec (.msqHold st u) s = .next t ∧ (t.stack st.val).cmd = 0 ∧ (t.stack st.val).queue = x.queue
      ∧ (∀ v, v ∈ (t.stack st.val).held ↔ v = u ∨ v ∈ x.held) ∧ t.fabric = s.fabric ∧ t.clusters = s.clusters ∧ t.mem = s.mem)
    ∧ (x.cmd = 2 → ∃ t, exec (.msqRelease st u) s = .next t ∧ ((t.stack st.val).cmd = 0 ↔ ids = []) ∧ (t.stack st.val).queue = x.queue
      ∧ (∀ v, v ∈ (t.stack st.val).held ↔ v ≠ u ∧ v ∈ x.held) ∧ (∀ v, v ∈ (t.stack st.val).errUnits ↔ v ≠ u ∧ v ∈ x.errUnits) ∧ t.mem = s.mem
      ∧ t.fabric = s.fabric.map (fun r => if r.id ∈ ids then { r with replayed := true } else r)
      ∧ t.clusters = s.clusters.map (fun c => (c.1, { c.2 with jobs := c.2.jobs.map fun j =>
          { j with parks := j.parks.map fun k => if k.id ∈ ids then { k with replay := true } else k } })))
    ∧ (x.cmd = 3 → ∃ t, exec (.msqDrop st u) s = .next t ∧ (t.stack st.val).cmd = 0
      ∧ (∀ v, v ∈ (t.stack st.val).held ↔ v ≠ u ∧ v ∈ x.held) ∧ (∀ v, v ∈ (t.stack st.val).errUnits ↔ v ≠ u ∧ v ∈ x.errUnits)
      ∧ (t.stack st.val).queue = x.queue.filter (fun i => !ids.contains i)
      ∧ t.fabric = s.fabric.map (fun r => if r.id ∈ ids then { r with performed := true, parked := false, val := 0, pois := true } else r)
      ∧ t.clusters = s.clusters.map (fun c => (c.1, { c.2 with jobs := c.2.jobs.map fun j =>
          { j with parks := j.parks.map fun k => if k.id ∈ ids then { k with drop := true } else k } }))
      ∧ (t.errUnc.get (errIx .dram)).toNat = min (2 ^ 32 - 1) ((s.errUnc.get (errIx .dram)).toNat + ids.length)
      ∧ t.mem = s.mem))
  ∧ (∀ (s : State) (st : Fin 16) (u : BitVec 24), ((s.stack st.val).cmd ≠ 1 ∨ (s.stack st.val).cmdUnit ≠ u) → exec (.msqHold st u) s = .next s)
  ∧ (∀ (s : State) (st : Fin 16) (u : BitVec 24), ((s.stack st.val).cmd ≠ 2 ∨ (s.stack st.val).cmdUnit ≠ u) → exec (.msqRelease st u) s = .next s)
  ∧ (∀ (s : State) (st : Fin 16) (u : BitVec 24), ((s.stack st.val).cmd ≠ 3 ∨ (s.stack st.val).cmdUnit ≠ u) → exec (.msqDrop st u) s = .next s)
  ∧ (∀ (s : State) (r : Req) (x : Stack), x = s.stack (stackOf r.loc) → r.parked = true → (unpark s r).fabric = s.fabric
    ∧ ((unpark s r).stack (stackOf r.loc)).queue = nsDel x.queue r.id
    ∧ (x.cmd = 2 → x.cmdUnit = unitOf r.loc → parkedFor s (stackOf r.loc) (unitOf r.loc) = [r.id] → unitOf r.loc ∉ x.held →
      ((unpark s r).stack (stackOf r.loc)).cmd = 0))
  ∧ (∀ (s : State) (key : Nat) (va : Word) (asid : BitVec 16) (u : State), isTile key = true ∨ isLeaf key = true → asid = (s.ctx key (s.core key).active).asid →
    u = lockAlarm s (isFw key) (clusterOf key) asid [va.toNat] →
    (∀ d, pageOf u (isFw key) (clusterOf key) asid va.toNat = .error d → exec (.tlbWalk key va) s = .next u)
    ∧ (∀ e, pageOf u (isFw key) (clusterOf key) asid va.toNat = .ok e → ((u.cluster (clusterOf key)).hit e.asid e.vbase).isSome = false → ∃ t,
      exec (.tlbWalk key va) s = .next t ∧ (t.cluster (clusterOf key)).tlb = e :: tlbRoom s.tick (s.cluster (clusterOf key)).tlb
      ∧ t.cores = s.cores ∧ t.mem = s.mem))
  ∧ (∀ (s : State) (fw : Bool) (cl : Nat) (asid : BitVec 16) (vas : List Nat),
    lockAlarm s fw cl asid vas = (if !fw && vas.any (fun va => ((s.cluster cl).hit asid va).isNone && canonical va && walkLocked s asid va)
      then raiseAlarm s 2 false else s))
  ∧ (∀ (s : State) (cl : Nat) (v : Word), v.getLsbD 0 = true → ∃ t, exec (.tlbInvalidate cl v) s = .next t ∧ (t.cluster cl).invGo = false
    ∧ (t.cluster cl).invAll = v.getLsbD 17 ∧ (t.cluster cl).invAsid = v.extractLsb' 1 16
    ∧ (t.cluster cl).tlb = (s.cluster cl).tlb.filter (fun e => !(v.getLsbD 17 || e.asid == v.extractLsb' 1 16))
    ∧ (∀ i, i ≠ cl → t.cluster i = s.cluster i) ∧ t.cores = s.cores ∧ t.mem = s.mem)

/-- R117. The arbiter's decision: with a candidate of positive weight, every such candidate first gains its weight, the winner is one of them with the
greatest credit, the lowest position among equals, and pays the sum of their weights for each cycle it takes; with none, the winner is the next
candidate after the last zero-weight winner and no credit changes. R114 to R118, R141, R153, R355 and R387. A grant of a lane group takes one quarter
of the winning core's head and pays its cycles, and with the fourth the instruction leaves the queue and has its effect; a grant of the MXU falls on
the winner's head, which it goes on with until it has its effect: a MEPI waits for a free entry of the epilogue buffer, and the quad's next MXU
instruction behind it, and a product first reads its B tile, piece by piece; a cycle that the ramp withholds grants nothing; writing QUADW or ENGSHR
sets the weights and clears the credits. Which pieces come first is a free value (log entry 20); the arbitration by ENGSHR at a tower's home is the
model's reading (log entry 21). -/
def Obligations.ArbiterAndGrants : Prop :=
  ((∀ (n : Nat) (w : Nat → Nat) (cr cr2 : Nat → Int) (last i last2 : Nat) (cs : List Nat) (cost : Nat → Nat), (∀ c ∈ cs, c < n) → last < n →
    cs.Pairwise (· < ·) → decideCr n w cr last cs cost = some (i, cr2, last2) → i ∈ cs
    ∧ ((∃ c ∈ cs, 0 < w c) → 0 < w i ∧ last2 = last
      ∧ (∀ c ∈ cs, 0 < w c → satCr (cr c + w c) ≤ satCr (cr i + w i) ∧ (satCr (cr c + w c) = satCr (cr i + w i) → i ≤ c))
      ∧ cr2 i = satCr (satCr (cr i + w i) - ((cs.filter fun c => 0 < w c).map w).sum * cost i)
      ∧ (∀ c, c ≠ i → cr2 c = if c ∈ cs ∧ 0 < w c then satCr (cr c + w c) else cr c))
    ∧ ((∀ c ∈ cs, w c = 0) → cr2 = cr ∧ last2 = i ∧ ∀ c ∈ cs, (i + n - last - 1) % n ≤ (c + n - last - 1) % n))
  ∧ (∀ (n : Nat) (w : Nat → Nat) (cr : Nat → Int) (last : Nat) (cs : List Nat) (cost : Nat → Nat), (∀ c ∈ cs, c < n) → last < n →
    (decideCr n w cr last cs cost = none ↔ cs = []))
  ∧ (∀ x : Int, -2047 ≤ satCr x ∧ satCr x ≤ 2047 ∧ (-2047 ≤ x → x ≤ 2047 → satCr x = x)))
  ∧ ((∀ (s u : State) (quad : Nat) (q : Quad), u = prelude s quad → withheld u quad = false → q = u.quad quad →
    ∀ cs cost, cs = ((List.range 4).filter fun i => (candidate u (quad * 4 + i) false).isSome) →
    cost = (fun i => match candidate u (quad * 4 + i) false with | some e => quarterCost e.op.instr | none => 1) →
    (cs = [] → exec (.laneGroupGrant quad) s = .next u)
    ∧ (∀ i cr last key e, decideCr 4 (weightOf q) (fun j => q.laneCr.get (Fin.ofNat 4 j)) q.laneLast.val cs cost = some (i, cr, last) → key = quad * 4 + i →
      candidate u key false = some e →
      ∀ v, v = countPmc (u.setQuad quad { q with laneCr := crVec cr, laneLast := Fin.ofNat 4 last }) key none 3 (quarterCost e.op.instr) →
      (e.quarters < 3 → exec (.laneGroupGrant quad) s = .next (v.modCore key fun c => { c with vq := { e with quarters := e.quarters + 1 } :: c.vq.drop 1 }))
      ∧ (3 ≤ e.quarters → exec (.laneGroupGrant quad) s = .next (endVector (v.modCore key fun c => { c with vq := c.vq.drop 1 }) key e))))
  ∧ (∀ (s u : State) (quad : Nat) (q : Quad), u = advanceEpi (prelude s quad) quad → q = u.quad quad →
    (∀ key e, mxuHead u quad = some (key, e) → exec (.mxuGrant quad) s = .next (stepMatrix u quad key e))
    ∧ (mxuHead u quad = none → withheld u quad = true → exec (.mxuGrant quad) s = .next u)
    ∧ (mxuHead u quad = none → withheld u quad = false →
      ∀ cs cost, cs = ((List.range 4).filter fun i => (candidate u (quad * 4 + i) true).isSome) →
      cost = (fun i => match candidate u (quad * 4 + i) true with | some e => mxuCost e.op | none => 1) →
      (cs = [] → exec (.mxuGrant quad) s = .next u)
      ∧ (∀ i cr last key e, decideCr 4 (weightOf q) (fun j => q.mxuCr.get (Fin.ofNat 4 j)) q.mxuLast.val cs cost = some (i, cr, last) → key = quad * 4 + i →
        candidate u key true = some e → exec (.mxuGrant quad) s = .next
          (stepMatrix (countPmc (u.setQuad quad { q with mxuCr := crVec cr, mxuLast := Fin.ofNat 4 last }) key none 4 1) quad key e))))
  ∧ (∀ (s : State) (quad key : Nat) (e : VEntry), mxuHead s quad = some (key, e) → key / 4 = quad ∧ (s.core key).vq.head? = some e
    ∧ isMatrix e.op.instr = true ∧ (e.won = true ∨ e.quarters ≠ 0))
  ∧ (∀ (s : State) (quad key : Nat) (e : VEntry),
    (epiFull s quad e = true → stepMatrix s quad key e = s.modCore key fun c => { c with vq := { e with won := true } :: c.vq.drop 1 })
    ∧ (epiFull s quad e = false → bLen e.op = 0 → stepMatrix s quad key e = takeMatrix s key e)
    ∧ (∀ u x y, epiFull s quad e = false → bLen e.op ≠ 0 → (e.quarters = 0 → (u, x) = beginMatrix s key e) → (e.quarters ≠ 0 → u = s ∧ x = e) → y = readB u key x →
      (y.btodo = [] → stepMatrix s quad key e = takeMatrix u key y)
      ∧ (y.btodo ≠ [] → stepMatrix s quad key e = u.modCore key fun c => { c with vq := y :: c.vq.drop 1 }))
    ∧ takeMatrix s key e = advanceEpi (runMatrix (s.modCore key fun c => { c with vq := c.vq.drop 1 }) key e) (quadOf key))
  ∧ (∀ (s : State) (quad : Nat), (withheld (prelude s quad) quad = true → exec (.laneGroupGrant quad) s = .next (prelude s quad))
    ∧ (withheld s quad = true ↔ levelOf s quad < 16 ∧ levelOf s quad ≤ (s.quad quad).rampPhase % 16))
  ∧ (∀ (s : State) (key : Nat) (m : Bool) (e : VEntry), candidate s key m = some e →
    (s.core key).vq.head? = some e ∧ isMatrix e.op.instr = m ∧ (e.dead = true ∨ headReady s key e = true))
  ∧ (∀ (s : State) (quad : Nat) (v : Word), ∃ q, exec (.quadwWrite quad v) s = .next (s.setQuad quad q) ∧ q.quadw = v.setWidth 20
    ∧ (∀ i, q.laneCr.get i = 0 ∧ q.mxuCr.get i = 0) ∧ q.epi = (s.quad quad).epi ∧ q.bv = (s.quad quad).bv ∧ q.level = (s.quad quad).level)
  ∧ (∀ (s : State) (tw : Fin 4) (v : Word), exec (.engshrWrite tw v) s = .next
    (s.setTower tw.val { s.tower tw.val with portw := v.extractLsb' 4 4, ladw := v.extractLsb' 0 4, engCr := Vector.replicate 4 0 })))

/-- R97, R98, R163, R164, R234, R238 and R243. A long block starts a swap where AUTOSW allows it; the swap ends with the shadow active, RUNNING if it
was READY, and the old context READY if it was RUNNING, towards a vacant slot too, and a slot on which a SPILL or a RESTORE works keeps it waiting
(the model's reading: log entry 22); a message on a command link spends one of its 16 permits and waits in the receiver's buffer, one that finds no
permit is counted once and held by its sender in order, and a permit comes back as a message is taken and lets the next held one go; the oldest packet
of a core reaches its leaf's queue while that holds fewer than 64. -/
def Obligations.SwapsAndLinks : Prop :=
  (∀ (s : State) (key : Nat) (c : Core), c = s.core key → c.autosw = true → c.swapping = false → max 32 c.swth.toNat < (c.ctx c.active).blocked →
    shadowReady s key = true → waitOpen (c.ctx (!c.active)).wait = false → exec (.autoSwap key) s = .next (s.setCore key { c with swapping := true }))
  ∧ (∀ (s : State) (key : Nat), ((s.core key).autosw = false ∨ (s.core key).swapping = true ∨ shadowReady s key = false
      ∨ ((s.core key).ctx (s.core key).active).blocked ≤ max 32 (s.core key).swth.toNat) → exec (.autoSwap key) s = .next s)
  ∧ (∀ (s : State) (key : Nat), (s.core key).swapping = false → exec (.contextSwap key) s = .next s)
  ∧ (∀ (s : State) (key : Nat) (c : Core), c = s.core key → c.swapping = true → spillOn c (!c.active) = false →
    ((c.ctx (!c.active)).st ≠ .idle ∨ (c.ctx (!c.active)).inbox = []) → ∃ t, exec (.contextSwap key) s = .next t ∧ (t.core key).active = !c.active
      ∧ t.mem = s.mem ∧ (t.core key).swapping = ((c.ctx c.active).st == .idle && (c.ctx (!c.active)).st == .idle && !(c.ctx c.active).vac
        && !(c.ctx c.active).inbox.isEmpty)
      ∧ (t.ctx key (!c.active)).st = (if (c.ctx (!c.active)).st = .ready then .running else (c.ctx (!c.active)).st)
      ∧ (t.ctx key (!c.active)).blocked = (if (c.ctx (!c.active)).st = .frozen then 1 else 0) ∧ (t.ctx key c.active).blocked = 0
      ∧ (t.ctx key c.active).st = (if (c.ctx c.active).st = .running then .ready else (c.ctx c.active).st)
      ∧ (∀ n, (t.ctx key n).g = (c.ctx n).g ∧ (t.ctx key n).pc = (c.ctx n).pc ∧ (t.ctx key n).status = (c.ctx n).status ∧ (t.ctx key n).p = (c.ctx n).p
        ∧ (t.ctx key n).vw = (c.ctx n).vw ∧ (t.ctx key n).live = (c.ctx n).live ∧ (t.ctx key n).q4 = (c.ctx n).q4)
      ∧ (∀ k, k ≠ key → t.core k = s.core k))
  ∧ (∀ (s : State) (key : Nat) (c : Core), c = s.core key → c.swapping = true → spillOn c (!c.active) = true →
    exec (.contextSwap key) s = .next s)
  ∧ (∀ (s : State) (l : Nat) (m : Packet) (x : CmdLink), x = s.link l →
    (0 < x.downPermits → x.downHeld = [] → ∃ t, exec (.commandLinkMessage l true m) s = .next t
      ∧ t.link l = { x with downPermits := x.downPermits - 1, downBuf := x.downBuf ++ [m] } ∧ t.cores = s.cores ∧ t.mem = s.mem)
    ∧ (0 < x.upPermits → x.upHeld = [] → ∃ t, exec (.commandLinkMessage l false m) s = .next t
      ∧ t.link l = { x with upPermits := x.upPermits - 1, upBuf := x.upBuf ++ [m] } ∧ t.cores = s.cores ∧ t.mem = s.mem)
    ∧ ((x.downPermits = 0 ∨ x.downHeld ≠ []) → ∃ t, exec (.commandLinkMessage l true m) s = .next t ∧ (t.link l).downBuf = x.downBuf
      ∧ (t.link l).downHeld = x.downHeld ++ [m] ∧ (t.link l).downStalls.toNat = min (x.downStalls.toNat + 1) 0xFFFF
      ∧ (t.link l).downPermits = x.downPermits ∧ t.cores = s.cores ∧ t.mem = s.mem)
    ∧ ((x.upPermits = 0 ∨ x.upHeld ≠ []) → ∃ t, exec (.commandLinkMessage l false m) s = .next t ∧ (t.link l).upBuf = x.upBuf
      ∧ (t.link l).upHeld = x.upHeld ++ [m] ∧ (t.link l).upStalls.toNat = min (x.upStalls.toNat + 1) 0xFFFF
      ∧ (t.link l).upPermits = x.upPermits ∧ t.cores = s.cores ∧ t.mem = s.mem))
  ∧ (∀ (s : State) (l n d : Nat) (x : CmdLink), x = s.link l → (x.downPermits = 0 ∨ x.downHeld = []) → (x.upPermits = 0 ∨ x.upHeld = []) →
    (d = min (x.downPermits + min n x.downBuf.length) x.downHeld.length → ∃ t, exec (.permitReturn l true n) s = .next t
      ∧ (t.link l).downBuf = x.downBuf.drop n ++ x.downHeld.take d ∧ (t.link l).downHeld = x.downHeld.drop d
      ∧ (t.link l).downPermits + (t.link l).downBuf.length = x.downPermits + x.downBuf.length ∧ (t.link l).upBuf = x.upBuf
      ∧ (t.link l).downStalls = x.downStalls ∧ t.cores = s.cores)
    ∧ (d = min (x.upPermits + min n x.upBuf.length) x.upHeld.length → ∃ t, exec (.permitReturn l false n) s = .next t
      ∧ (t.link l).upBuf = x.upBuf.drop n ++ x.upHeld.take d ∧ (t.link l).upHeld = x.upHeld.drop d
      ∧ (t.link l).upPermits + (t.link l).upBuf.length = x.upPermits + x.upBuf.length ∧ (t.link l).downBuf = x.downBuf
      ∧ (t.link l).upStalls = x.upStalls ∧ t.cores = s.cores))
  ∧ (∀ (s : State) (key : Nat) (p : Packet) (ps : List Packet), (s.core key).pktOut = p :: ps →
    ((s.cluster (clusterOf key)).faults.length < 64 → ∃ t, exec (.faultPacketArrive key) s = .next t ∧ (t.core key).pktOut = ps
      ∧ (t.cluster (clusterOf key)).faults = (s.cluster (clusterOf key)).faults ++ [p] ∧ (∀ k, k ≠ key → t.core k = s.core k) ∧ t.mem = s.mem)
    ∧ (64 ≤ (s.cluster (clusterOf key)).faults.length → exec (.faultPacketArrive key) s = .next s))

/-- R185, R233, R235, R403 and R393. An entry of the epilogue buffer all of whose stores are acknowledged kills the granules it holds and is freed; a
row that faults parks with those after it, and its context freezes at the boundary it stands at with a packet whose EPI bit is set (one that is frozen
already stays as it is, with that packet: the model's choice, log entry 46), and a killed task's row is dropped; an MMAR takes the tiles of both
neighbours as they come, and completes when it has written them and its own have been taken. -/
def Obligations.EpilogueAndTorus : Prop :=
  (∀ (s : State) (quad k : Nat) (e : Epi), s.epiEntry quad k = some e →
    (e.done = true → exec (.killpendApply quad k) s = .next ((killGranules s (quadCore quad e.pos) e.op.ctx (maskGranules e.kill)).modQuad quad
      fun q => { q with epi := q.epi.filter fun x => x.id ≠ k }))
    ∧ (e.done = false → exec (.killpendApply quad k) s = .next s)
    ∧ (∀ g, g ∈ maskGranules e.kill ↔ g < 1024 ∧ e.kill.getLsbD g = true))
  ∧ (∀ (s : State) (quad k : Nat) (e : Epi) (r : EpiRow) (rs : List EpiRow) (f : FaultInfo) (key : Nat) (n : Bool), s.epiEntry quad k = some e → e.rows = r :: rs →
    e.parked = false → e.dead = false → rowsBefore s quad e = false → epiResolve s quad e r = .error f → key = quadCore quad e.pos → n = e.op.ctx → f.code < 2 ^ 8 →
    ∃ t, exec (.epiStoreFault quad k) s = .next t
      ∧ (canFreeze s key n = true → (t.ctx key n).st = .frozen ∧ (t.ctx key n).fcode = BitVec.ofNat 8 f.code)
      ∧ (canFreeze s key n = false → (t.ctx key n).st = (s.ctx key n).st ∧ (t.ctx key n).fcode = (s.ctx key n).fcode
        ∧ (t.core key).pktOut = (s.core key).pktOut ++ [(t.ctx key n).packet])
      ∧ (t.ctx key n).epip = true ∧ (t.ctx key n).pc = (s.ctx key n).pc ∧ (t.ctx key n).g = (s.ctx key n).g ∧ (t.ctx key n).live = (s.ctx key n).live
      ∧ ((t.ctx key n).packet).getLsbD 9 = true ∧ ((t.ctx key n).packet).extractLsb' 0 8 = BitVec.ofNat 8 f.code
      ∧ (t.quad quad).epi = (s.quad quad).epi.map (fun x => if x.id = e.id then { e with parked := true } else x) ∧ t.mem = s.mem)
  ∧ (∀ (s : State) (quad k : Nat) (e : Epi), s.epiEntry quad k = some e →
    (e.rows = [] ∨ e.parked = true ∨ rowsBefore s quad e = true) → exec (.epiStoreFault quad k) s = .next s)
  ∧ (∀ (s : State) (quad k : Nat) (e : Epi) (r : EpiRow) (rs : List EpiRow) (f : FaultInfo), s.epiEntry quad k = some e → e.rows = r :: rs →
    e.parked = false → rowsBefore s quad e = false →
    (∀ x, epiResolve s quad e r = .ok x → exec (.epiStoreFault quad k) s = .next s)
    ∧ (e.dead = true → epiResolve s quad e r = .error f →
      exec (.epiStoreFault quad k) s = .next (advanceEpi (putEpi (epiAlarm s quad e r) quad { e with rows := rs }) quad)))
  ∧ (∀ (s : State) (key : Nat) (n : Bool), exec (.mmarTileReceive key n) s = .next
    (landTiles ((mmarsOf s key n).foldl (fun u id => receiveTile (receiveTile u key id true) key id false) s) key))
  ∧ (∀ (s : State) (key id : Nat) (a : Bool) (f : Flight), (s.core key).fly.find? (fun x => x.id == id) = some f →
    (((if a then f.needA else f.needB) = false ∨ tileFor s key f a = none) → receiveTile s key id a = s)
    ∧ (∀ (t : TorusTile) (u : State), (if a then f.needA else f.needB) = true → tileFor s key f a = some t →
      u = (s.modCluster (clusterOf key) fun c => { c with torus := c.torus.erase t }).modCore key (fun c => { c with fly := c.fly.map fun x => if x.id = f.id then
          { f with needA := f.needA && !a, needB := f.needB && a, out := if a = false ∧ f.dead = false then f.out ++ tileB key f.op t else f.out } else x }) →
      receiveTile s key id a = endFlights (if a = true ∧ f.dead = false then writeTileA u key f.op t else u) t.sender))
  ∧ (∀ (s : State) (key : Nat) (f : Flight) (a : Bool) (t : TorusTile), tileFor s key f a = some t →
    t ∈ (s.cluster (clusterOf key)).torus ∧ t.quad = quadOf key ∧ t.pos = posOf key ∧ t.isA = a ∧ t.mrseq = f.mrseq)
  ∧ (∀ (s : State) (key : Nat) (f : Flight), isMmar f.op = true → (flightDone s key f = true ↔ f.needA = false ∧ f.needB = false ∧ f.out = []
    ∧ ∀ t ∈ (s.cluster (clusterOf key)).torus, t.src ≠ f.id))
  ∧ (∀ (s : State) (key : Nat) (f : Flight), ((endFlights s key).core key).fly =
    (s.core key).fly.filter fun f => !((s.core key).fly.any fun d => flightDone s key d && d.id == f.id))

/-- R207, R209, R226 to R228 and R410 to R412. A Ladle job starts when every job that it follows is complete; an engine goes on with its burst, or
takes up one of at most 256 bytes of the oldest ready job of the quad that the arbiter chooses; a burst is translated, read and written piece by
piece, each piece as an agent that is no firmware, and the cursor moves on at its end; a burst that faults, or a write that finds an active coverage
map, ends its job with an ASYNC packet; a job that has ended adds its length to its sync word, with POIS where it failed or met poison, gives its q5
word to its context or to the save area that holds it, signals its event and leaves the scheduler. That a piece waits for its scratchpad banks, and
which piece is next, is the model's reading (log entry 17), and so is what the tower's homes grant (log entry 21). A job that a SPILL has stopped
stays in the scheduler. -/
def Obligations.EngineSteps : Prop :=
  (∀ (s : State) (cl : Nat) (j : Job), ((s.cluster cl).jobs.find? fun x => x.id == j.id) = some j →
    (isLadle j = true → j.started = false → edgesDone s cl j = true →
      exec (.jobStart cl j.id) s = .next (modJob s cl j.id fun x => { x with started := true }))
    ∧ ((isLadle j = false ∨ j.started = true ∨ edgesDone s cl j = false) → exec (.jobStart cl j.id) s = .next s)
    ∧ ((isLadle j = false ∨ (j.ended = false ∧ j.killed = false) ∨ (j.stopped = true ∧ j.killed = false) ∨ midBurst j = true) → exec (.ladleJobComplete cl j.id) s = .next s)
    ∧ (isLadle j = true → ((j.ended = true ∧ j.stopped = false) ∨ j.killed = true) → midBurst j = false →
      ∀ ws, ws = (if jobStat j = 0 then [j.syncLoc] else [j.syncLoc, j.syncLoc + 8]) →
      (∀ u, j.ysp ≠ .none → homeBanksRw s ws [j.syncLoc + 8] = (u, false) → exec (.ladleJobComplete cl j.id) s = .next u)
      ∧ ∀ u, (j.ysp = .none → u = s) →
        (j.ysp ≠ .none → ∃ v, homeBanksRw s ws [j.syncLoc + 8] = (v, true) ∧ u = syncAdd v j.syncLoc j.len (jobStat j ≠ 0)) →
      ∀ w, w = (if j.opx.getLsbD 8 = true ∧ j.owned = true
        then pushQ5 u j.key j.ctx j.area (BitVec.ofNat 64 (jobStat j * 2 ^ 62 + j.jobid.toNat % 2 ^ 32)) else u) →
      exec (.ladleJobComplete cl j.id) s = .next (killDone ((leaveEngine (unparkAll (signalEvent w j.evt.toNat) cl j) cl j.id).modCluster cl fun c =>
        { c with jobs := c.jobs.filter fun x => x.id ≠ j.id }) j.key j.ctx)))
  ∧ (∀ (s : State) (cl id : Nat), leaveEngine s cl id = s.modCluster cl fun c =>
      { c with ldl0 := if c.ldl0 = some id then none else c.ldl0, ldl1 := if c.ldl1 = some id then none else c.ldl1 })
  ∧ (∀ (s : State) (cl : Nat) (j : Job), (unparkAll s cl j).fabric = s.fabric ∧ (unparkAll s cl j).mem = s.mem ∧ (unparkAll s cl j).cores = s.cores
    ∧ ∀ k ∈ j.parks, k.id ∉ ((unparkAll s cl j).stack (stackOf k.loc)).queue)
  ∧ (∀ (s : State) (key : Nat) (n : Bool), ((s.ctx key n).killing = false → killDone s key n = s)
    ∧ (∀ j, j ∈ (s.cluster (clusterOf key)).jobs → myLadle key n j = true → killDone s key n = s)
    ∧ ((s.ctx key n).killing = true → (∀ j ∈ (s.cluster (clusterOf key)).jobs, myLadle key n j = false) →
      killDone s key n = retireCtx (s.modCtx key n fun c => { c with killing := false }) key n))
  ∧ (∀ j : Job, jobStat j = if j.killed = true then 3 else if j.faulted = true then 2 else if j.poisoned = true then 1 else 0)
  ∧ (∀ (s : State) (key : Nat) (n : Bool) (w : Word),
    ((s.ctx key n).q5.length + (s.ctx key n).heldOf .q5 < 16 → ((pushQ5 s key n none w).ctx key n).q5 = (s.ctx key n).q5 ++ [w]
      ∧ ((pushQ5 s key n none w).ctx key n).status = (s.ctx key n).status)
    ∧ (16 ≤ (s.ctx key n).q5.length + (s.ctx key n).heldOf .q5 → ((pushQ5 s key n none w).ctx key n).q5 = (s.ctx key n).q5
      ∧ ((pushQ5 s key n none w).ctx key n).status = (s.ctx key n).status ||| BitVec.ofNat 64 flQOVF))
  ∧ (∀ (s : State) (key : Nat) (n : Bool) (w : Word) (b k : Nat), k = s.readLE (b + 3880) 8 % 32 → 
    pushQ5 s key n (some b) w = if k < 16
      then performWrite (performWrite s true (pairsAt (b + 3712 + 8 * k) (bytesOfNat 8 w.toNat))) true (pairsAt (b + 3880) (bytesOfNat 8 (k + 1)))
      else performWrite s true (pairsAt (b + 0x188) (bytesOfNat 8 (s.readLE (b + 0x188) 8 ||| flQOVF))))
  ∧ (∀ (s : State) (cl : Nat) (eng : Bool) (c : Cluster) (mine other : Option Nat), c = s.cluster cl →
    mine = (if eng then c.ldl1 else c.ldl0) → other = (if eng then c.ldl0 else c.ldl1) →
    (∀ j, (c.jobs.find? fun j => mine == some j.id && midBurst j) = some j → exec (.ladleBurst cl eng) s = .next (burst s cl j))
    ∧ ((c.jobs.find? fun j => mine == some j.id && midBurst j) = none →
      ((∀ j ∈ c.jobs, jobReady j = false) → exec (.ladleBurst cl eng) s = .next s)
      ∧ (∀ (c2 : Cluster) (cands : List Nat) (q last : Nat) (cr : Nat → Int) (j : Job),
        cands = ((List.range 16).filter fun q => (c.jobs.find? fun j => other == some j.id && midBurst j).map jobQuad != some q
          && (c.jobs.filter jobReady).any fun j => jobQuad j == q) →
        decideCr 16 (fun q => (s.quad (quadOf (coreAt cl (4 * q)))).quadw.toNat / 2 ^ 16 % 16) (fun q => c.ldlCr.get (Fin.ofNat 32 (eng.toNat * 16 + q)))
          (c.ldlLast.get (Fin.ofNat 2 eng.toNat)).val cands (fun _ => 1) = some (q, cr, last) →
        (c.jobs.filter jobReady).find? (fun j => jobQuad j == q) = some j →
        c2 = { c with ldlCr := (List.range 16).foldl (fun v i => v.set (Fin.ofNat 32 (eng.toNat * 16 + i)) (cr i)) c.ldlCr
                      ldlLast := c.ldlLast.set (Fin.ofNat 2 eng.toNat) (Fin.ofNat 16 last) } →
        exec (.ladleBurst cl eng) s = .next (burst (s.setCluster cl (if eng then { c2 with ldl1 := some j.id } else { c2 with ldl0 := some j.id })) cl j))))
  ∧ (∀ j : Job, jobReady j = true ↔ isLadle j = true ∧ j.started = true ∧ j.ended = false ∧ j.stopped = false ∧ j.killed = false ∧ midBurst j = false)
  ∧ (∀ (s u : State) (cl : Nat) (j : Job) (n : Nat) (bs : List (Nat × Nat)) (vas : List Nat), n = min 256 (j.len - j.cursor) → midBurst j = false →
    vas = (if j.ssp = .glb ∧ j.kind ≠ .ldlz then bs.map (·.1) else []) ++ (if j.dsp = .glb then bs.map (·.2) else []) →
    u = modJob s cl j.id (fun x => { x with out := [] }) → bs = (List.range n).map (fun i => jobByte j (j.cursor + i)) →
    (∀ ls ld m1 m2, j.kind ≠ .ldlz → burstSide u j false (bs.map (·.1)) = .ok (ls, m1) → burstSide u j true (bs.map (·.2)) = .ok (ld, m2) →
      burst s cl j = modJob (tlbFills u false cl j.asid vas) cl j.id fun x => { x with msl := m1 ++ m2, todo := splitPieces (ls.zip ld), out := [] })
    ∧ (∀ ld m2, j.kind = .ldlz → burstSide u j true (bs.map (·.2)) = .ok (ld, m2) →
      burst s cl j = modJob (tlbFills u false cl j.asid vas) cl j.id fun x => { x with msl := m2, todo := [], out := outPieces [ld.map fun a => (a, 0)] })
    ∧ (∀ f, (j.kind ≠ .ldlz ∧ burstSide u j false (bs.map (·.1)) = .error f)
        ∨ ((j.kind = .ldlz ∨ ∃ r, burstSide u j false (bs.map (·.1)) = .ok r) ∧ burstSide u j true (bs.map (·.2)) = .error f) →
      burst s cl j = failJob (lockAlarm u false cl j.asid vas) cl j f))
  ∧ (∀ (s : State) (cl : Nat) (asid : BitVec 16), tlbFills s false cl asid [] = s ∧ lockAlarm s false cl asid [] = s)
  ∧ (∀ (s : State) (cl : Nat) (j : Job) (f : FaultInfo), f.code < 2 ^ 8 → (failJob s cl j f).mem = s.mem ∧ ((failJob s cl j f).ctx j.key j.ctx).st = (s.ctx j.key j.ctx).st
    ∧ ((failJob s cl j f).ctx j.key j.ctx).packet.getLsbD 8 = true ∧ ((failJob s cl j f).ctx j.key j.ctx).packet.extractLsb' 0 8 = BitVec.ofNat 8 f.code
    ∧ (failJob s cl j f).clusters =
      (modJob (unparkAll (leaveEngine s cl j.id) cl j) cl j.id fun x => { x with faulted := true, ended := true, todo := [], out := [] }).clusters)
  ∧ (∀ (s u w : State) (cl id i : Nat) (j : Job) (ps : List (Nat × Nat)), ((s.cluster cl).jobs.find? fun x => x.id == id) = some j → ps = j.todo.getD i [] → ps ≠ [] →
    (homeBanks s false (ps.map (·.1)) = (u, false) → readPiece s cl id i = u)
    ∧ (homeBanks s false (ps.map (·.1)) = (u, true) →
      (engineGate u cl j false (ps.map (·.1)) = .stay w → readPiece s cl id i = w)
      ∧ (engineGate u cl j false (ps.map (·.1)) = .drop w → readPiece s cl id i = modJob w cl id fun x =>
        { x with todo := lset x.todo i [], out := lset x.out i ((ps.map (·.2)).zip (List.replicate ps.length 0)), poisoned := true })
      ∧ (∀ bs p v, engineGate u cl j false (ps.map (·.1)) = .go w → readHome w false (ps.map (·.1)) = (bs, p, v) → readPiece s cl id i = modJob v cl id fun x =>
        { x with todo := lset x.todo i [], out := lset x.out i ((ps.map (·.2)).zip bs), poisoned := x.poisoned || p })))
  ∧ (∀ (s u w : State) (cl id : Nat) (j : Job) (ps : List (Nat × Byte)), ((s.cluster cl).jobs.find? fun x => x.id == id) = some j →
    (homeBanks s true (ps.map (·.1)) = (u, false) → writePiece s cl id ps = u)
    ∧ (homeBanks s true (ps.map (·.1)) = (u, true) → (ps ∉ j.out → writePiece s cl id ps = u)
      ∧ (ps ∈ j.out → engineGate u cl j true (ps.map (·.1)) = .stay w → writePiece s cl id ps = w)
      ∧ (ps ∈ j.out → engineGate u cl j true (ps.map (·.1)) = .drop w → writePiece s cl id ps = modJob w cl id fun x => { x with out := x.out.erase ps })
      ∧ (ps ∈ j.out → engineGate u cl j true (ps.map (·.1)) = .go w →
        ((∀ p ∈ ps, w.inCoverage p.1 = false) → writePiece s cl id ps = modJob (performWrite w false ps) cl id fun x => { x with out := x.out.erase ps })
        ∧ ((∃ p ∈ ps, w.inCoverage p.1 = true) → (isLadle j = true → writePiece s cl id ps = failJob w cl j (coverFault w j))
          ∧ (isLadle j = false → writePiece s cl id ps = modJob w cl id fun x => { x with out := x.out.erase ps })))))
  ∧ (∀ (s u v : State) (cl : Nat) (j x : Job), midBurst j = true → j.todo ≠ [] →
    u = (if j.out.isEmpty then modJob s cl j.id fun y => { y with out := List.replicate j.todo.length [] } else s) →
    v = (pick (2 * s.tick) ((List.range j.todo.length).filter fun i => !(j.todo.getD i []).isEmpty)).1.foldl (fun t i => readPiece t cl j.id i) u →
    ((v.cluster cl).jobs.find? fun y => y.id == j.id) = some x →
    (x.todo.all (·.isEmpty) = false → burst s cl j = v)
    ∧ (x.todo.all (·.isEmpty) = true → burst s cl j = modJob v cl j.id fun y => { y with todo := [], out := outPieces y.out }))
  ∧ (∀ (s v : State) (cl : Nat) (j x : Job), midBurst j = true → j.todo = [] →
    v = (pick (2 * s.tick + 1) j.out).1.foldl (fun t ps => writePiece t cl j.id ps) s → ((v.cluster cl).jobs.find? fun y => y.id == j.id) = some x →
    ((x.out ≠ [] ∨ x.ended = true) → burst s cl j = v)
    ∧ (x.out = [] → x.ended = false → ∀ k, k = x.cursor + min 256 (x.len - x.cursor) →
      burst s cl j = countPmc (modJob (leaveEngine v cl x.id) cl x.id fun y => { y with cursor := k, ended := decide (y.len ≤ k), msl := [] }) x.key none 10 (k / 256 - x.cursor / 256)))

/-- R122, R123, R129, R130, R134 and R137. A committed shadow takes effect at its seam, in the cycle after its commit, with the generation raised and
the walk at its start; activation of a valid pattern frees every granule of its map and starts generation 1; deactivation with nothing claimed answers
parked TAKEs none and leaves the slot IDLE; each event that a completion owes is signalled once, in order; a parked TAKE whose wait is over is made
again. R187 to R190. A bank with nothing in it goes OFF after its idle time, one that holds something LIVE goes to RETAIN after its retention time,
and a wake ends in FULL and lets the writes that wait for the bank be made, and the bank goes to RETAIN then where BKHOLD has named it meanwhile;
before that nothing changes; BKCFG sets the two times. -/
def Obligations.PatternAndBankSteps : Prop :=
  ((∀ (s : State) (cl : Nat) (k : Fin 4) (p : PatSlot), p = s.slot cl k →
    (∀ q, q = { p with order := p.shOrder, tile := p.shTile, place := p.shPlace, gen := p.gen + 1, rank := 0, pend := false, rev := p.rev &&& ~~~p.shPlace } →
      (p.seam = 2 → exec (.seam cl k) s = .next (s.setSlot cl k { q with seam := 3 })
        ∧ ∃ t, seamCycle s cl k = t ∧ t.slot cl k = { q with seam := 4 } ∧ t.mem = s.mem ∧ t.cores = s.cores)
      ∧ (p.seam ≠ 2 → exec (.seam cl k) s = .next s)
      ∧ (p.seam = 0 → seamCycle s cl k = s) ∧ (p.seam = 1 → seamCycle s cl k = s.setSlot cl k { p with seam := 2 })
      ∧ (p.seam = 3 → seamCycle s cl k = s.setSlot cl k { p with seam := 4 }) ∧ (4 ≤ p.seam → seamCycle s cl k = s.setSlot cl k { p with seam := 0 }))
    ∧ (∀ e es, p.evDue = e :: es → exec (.patternEventSignal cl k) s = .next (signalEvent (s.setSlot cl k { p with evDue := es }) e.toNat))
    ∧ (p.evDue = [] → exec (.patternEventSignal cl k) s = .next s)
    ∧ (p.st ≠ .idle → p.nclaim = 0 → ∃ t, exec (.patternDeactivate cl k) s = .next t ∧ (t.slot cl k).st = .idle ∧ (t.slot cl k).pend = false ∧ (t.slot cl k).seam = 0 ∧ t.mem = s.mem
      ∧ (∀ key n, (key, n) ∈ clusterCtxs cl → (s.ctx key n).parked ≠ none → belongs s cl k key n = true → (t.ctx key n).parked = some true))
    ∧ ((p.st = .idle ∨ p.nclaim ≠ 0) → exec (.patternDeactivate cl k) s = .next s))
  ∧ (∀ (s : State) (cl : Nat) (k : Fin 4) (v : Word) (p : PatSlot), p = s.slot cl k → p.st = .idle → v.getLsbD 0 = true →
    ∀ u, u = s.setSlot cl k { p with evt := v.extractLsb' 48 16, kid := v.extractLsb' 16 32, idem := v.getLsbD 1 } →
    (patValid u cl k p.order p.tile = true → ∃ t, exec (.patternActivate cl k v) s = .next t ∧ (t.slot cl k).st = .active ∧ (t.slot cl k).gen = 1
      ∧ (t.slot cl k).rank = 0 ∧ (t.slot cl k).nfree = patN p.space ∧ (t.slot cl k).nclaim = 0 ∧ (t.slot cl k).nlost = 0
      ∧ (t.slot cl k).kid = v.extractLsb' 16 32 ∧ (t.slot cl k).shOrder = p.order ∧ (t.slot cl k).shTile = p.tile)
    ∧ (patValid u cl k p.order p.tile = false → exec (.patternActivate cl k v) s = .next s))
  ∧ (∀ (s : State) (cl : Nat) (k : Fin 4) (v : Word), ((s.slot cl k).st ≠ .idle ∨ v.getLsbD 0 = false) → exec (.patternActivate cl k v) s = .next s)
  ∧ (∀ (s t : State) (key : Nat), t = { s with focus := key } → isTile key = true → t.cur.st = .running → t.cur.vac = false → t.me.swapping = false →
    t.cur.parked ≠ none →
    (takeReady t key t.act = false → exec (.takeResume key) s = .next s)
    ∧ (takeReady t key t.act = true →
      (t.cur.task.takeDue = true → exec (.takeResume key) s = firstTake t)
      ∧ (∀ c, t.cur.task.takeDue = false → t.instrAt key t.cur.pc = some (.take c) → exec (.takeResume key) s = exec (.take c) t)
      ∧ (∀ c, t.cur.task.takeDue = false → t.instrAt key t.cur.pc = some (.end_ c) → exec (.takeResume key) s = exec (.end_ c) t)))
  ∧ (∀ (s : State), (∀ u t, takeTile s s.focus s.act = .tile u t → takeAhead s s.focus s.act = false → firstTake s = .next (nextTile u s.focus s.act t))
    ∧ (∀ u t, takeTile s s.focus s.act = .tile u t → takeAhead s s.focus s.act = true → firstTake s = .next (stay s))
    ∧ (∀ rev, takeTile s s.focus s.act = .none rev → firstTake s = .next (retireCtx s s.focus s.act))
    ∧ (takeTile s s.focus s.act = .wait → firstTake s = .next (stay s))
    ∧ (takeTile s s.focus s.act = .park → firstTake s = .next (stayBlocked (s.modCtx s.focus s.act fun k => { k with parked := some false })))
    ∧ (takeTile s s.focus s.act = .fault → ∃ w, firstTake s = .next w ∧ (w.ctx s.focus s.act).st = .frozen ∧ (w.ctx s.focus s.act).fcode = 11
      ∧ (w.ctx s.focus s.act).pc = s.cur.task.pc)))
  ∧ ((∀ (s : State) (key : Nat) (b : BankOf) (k : Fin 32) (c : Core) (x : Bank), c = s.core key → x = c.bank b k.val →
    ((x.st = .full ∨ x.st = .retain) → s.bankLive key b k.val = false → x.last + max 16 (min 4096 c.bkIdle.toNat) ≤ c.cyc →
      exec (.bankIdleOff key b k) s = .next (s.setCore key (c.setBank b k.val { x with st := .off })))
    ∧ ((x.st = .off ∨ x.st = .waking ∨ s.bankLive key b k.val = true ∨ c.cyc < x.last + max 16 (min 4096 c.bkIdle.toNat)) →
      exec (.bankIdleOff key b k) s = .next s)
    ∧ (x.st = .full → c.bkRet ≠ 0 → bankHolds s key b k.val = true → x.last + c.bkRet.toNat * 16 ≤ c.cyc →
      exec (.bankRetainEntry key b k) s = .next (s.setCore key (c.setBank b k.val { x with st := .retain })))
    ∧ ((x.st ≠ .full ∨ c.bkRet = 0 ∨ bankHolds s key b k.val = false ∨ c.cyc < x.last + c.bkRet.toNat * 16) → exec (.bankRetainEntry key b k) s = .next s)
    ∧ (x.st = .waking → x.wakeAt ≤ c.cyc → ∀ u v, u = s.setCore key (c.setBank b k.val { x with st := .full, last := c.cyc, hold := false }) →
      (b = .spm → v = u) → (b = .rs0 → v = lateWrites u key false k.val) → (b = .rs1 → v = lateWrites u key true k.val) →
      (x.hold = false → exec (.bankWakeDone key b k) s = .next v)
      ∧ (x.hold = true → exec (.bankWakeDone key b k) s = .next (v.modCore key fun y => holdBank y b k.val)))
    ∧ ((x.st ≠ .waking ∨ c.cyc < x.wakeAt) → exec (.bankWakeDone key b k) s = .next s))
  ∧ (∀ (c : Core) (b : BankOf) (k : Nat), ∀ x, x = c.bank b k → (x.st = .full → holdBank c b k = c.setBank b k { x with st := .retain })
    ∧ (x.st = .waking → holdBank c b k = c.setBank b k { x with hold := true }) ∧ (x.st = .off ∨ x.st = .retain → holdBank c b k = c))
  ∧ (∀ (s : State) (key : Nat) (v : Word), exec (.bkcfgWrite key v) s = .next
    (s.modCore key fun c => { c with bkRet := v.extractLsb' 16 12, bkIdle := v.extractLsb' 0 13 }))
  ∧ (∀ (s : State) (key : Nat) (n : Bool) (k : Nat), ((∀ l ∈ (s.core key).late, l.ctx ≠ n ∨ l.bank ≠ k) → ∀ m b, ((lateWrites s key n k).ctx key m).g = (s.ctx key m).g
      ∧ (lateWrites s key n k).mem = s.mem ∧ ((lateWrites s key n k).ctx key m).live = (s.ctx key m).live ∧ (lateWrites s key n k).byteAt b = s.byteAt b)
    ∧ (∀ l, (s.core key).late = [l] → l.ctx = n → l.bank = k → lateWrites s key n k = storeNow (s.modCore key fun c => { c with late := [] }) key n l.bytes))
  ∧ (∀ (c : Core) (b : BankOf) (k : Nat), ∀ x, x = c.bank b k →
    (x.st = .off → (touchBank c b k).bank b k = { x with st := .waking, wakeAt := c.cyc + 12, last := c.cyc })
    ∧ (x.st = .retain → (touchBank c b k).bank b k = { x with st := .waking, wakeAt := c.cyc + 6, last := c.cyc })
    ∧ (x.st = .full → (touchBank c b k).bank b k = { x with last := c.cyc }) ∧ (x.st = .waking → touchBank c b k = c)))

/-- R193, R194, R239 and R243 to R246. A SWAP of CORECTL starts a swap; a FREEZE stops a context that runs or is ready at its boundary, with FCODE 0
and no packet; a SPILL of a context that is neither RUNNING nor IDLE, to an area that may hold it, begins, and ends once its work is done with the
context's state in its area and its slot vacant; a RESTORE begins in a free slot and ends with the context that the area holds; a command that is not
allowed sets ERR and changes nothing else. -/
def Obligations.SpillSteps : Prop :=
  (∀ (s : State) (key : Nat), exec (.corectlSwap key) s = .next (s.modCore key fun c => { c with swapping := true }))
  ∧ (∀ (s : State) (key : Nat) (n : Bool) (c : Ctx), c = s.ctx key n →
    ((c.st = .running ∨ c.st = .ready) → c.vac = false → exec (.corectlFreeze key n) s = .next
      (s.setCtx key n { c with st := .frozen, fcode := 0, blocked := max 1 c.blocked, feArr := none, parked := none }))
    ∧ ((c.st ≠ .running ∧ c.st ≠ .ready ∨ c.vac = true) → exec (.corectlFreeze key n) s = .next (s.modCore key fun k => { k with ctlErr := true })))
  ∧ (∀ (s : State) (key : Nat) (n : Bool) (c : Ctx), c = s.ctx key n →
    (c.st ≠ .running → c.st ≠ .idle → c.vac = false → c.killing = false → (s.core key).spill = .none → areaOk s (saveBase s key n) = true → ∃ t,
      exec (.corectlSpill key n) s = .next t ∧ (t.core key).spill = .spill n ∧ t.ctx key n = c ∧ t.mem = s.mem ∧ t.fabric = s.fabric
      ∧ (t.cluster (clusterOf key)).jobs = (s.cluster (clusterOf key)).jobs.map (fun j => if unfinished key n j = true then { j with stopped := true } else j))
    ∧ ((c.st = .running ∨ c.st = .idle ∨ c.vac = true ∨ c.killing = true ∨ (s.core key).spill ≠ .none ∨ areaOk s (saveBase s key n) = false) →
      exec (.corectlSpill key n) s = .next (s.modCore key fun k => { k with ctlErr := true })))
  ∧ (∀ (s : State) (key : Nat) (n : Bool) (c : Ctx), c = s.ctx key n → (s.core key).spill = .spill n →
    (∀ u, spillReady s key n = true → engineBanks s key n (savedGranules c) = (u, false) → exec (.spillComplete key) s = .next u)
    ∧ (∀ u, spillReady s key n = true → engineBanks s key n (savedGranules c) = (u, true) → ∃ t, exec (.spillComplete key) s = .next t ∧ (t.core key).spill = .none ∧ (t.ctx key n).vac = true ∧ (t.ctx key n).st = .frozen
      ∧ (t.ctx key n).inbox = [] ∧ (t.ctx key n).q4 = [] ∧ (t.ctx key n).q5 = [] ∧ (t.ctx key n).q7 = [] ∧ (t.ctx key n).live = 0
      ∧ (t.ctx key n).claim = none ∧ (t.ctx key n).wait = .none
      ∧ t.fabric = s.fabric.map (fun r => if r.key = key ∧ r.ctx = n ∧ r.area = none then { r with area := some (saveBase s key n) } else r)
      ∧ t.releases = s.releases.map (fun r => if r.key = key ∧ r.ctx = n ∧ r.area = none then { r with area := some (saveBase s key n) } else r) ∧ ∀ m, m ∈ t.monitors ↔ m ∈ s.monitors ∧ ¬(m.2.1 = key ∧ m.2.2 = n))
    ∧ (spillReady s key n = false → exec (.spillComplete key) s = .next s))
  ∧ (∀ (s : State) (key : Nat), (s.core key).spill = .none → exec (.spillComplete key) s = .next s ∧ exec (.restoreComplete key) s = .next s)
  ∧ (∀ (s : State) (key : Nat) (n : Bool) (c : Ctx) (b : Nat), c = s.ctx key n → b = saveBase s key n → (s.core key).spill = .none →
    (c.vac = true ∨ (c.st = .idle ∧ c.inbox = [])) → s.readLE (b + 0x190) 8 % 2 ^ 13 = key →
    (savedCtx s b = n ∨ ((s.ctx key (savedCtx s b)).vac = true ∧ s.readLE (b + 0x280) 8 / 8 % 2 = 0)) →
    (s.readLE (b + 0x280) 8 % 8 = 3 ∨ s.readLE (b + 0x280) 8 % 8 = 4) → s.readLE (b + 3896) 8 % 16 + c.inbox.length ≤ 8 →
    (∀ i < 16, recordJob s key b i ≠ some none) → ∃ t, exec (.corectlRestore key n) s = .next t ∧ (t.core key).spill = .restore n
      ∧ (t.ctx key n).vac = true ∧ (t.ctx key n).st = .frozen ∧ (t.core key).ctlErr = (s.core key).ctlErr ∧ t.mem = s.mem)
  ∧ (∀ (s : State) (key : Nat) (n : Bool) (b : Nat), b = saveBase s key n →
    ((s.core key).spill ≠ .none ∨ ((s.ctx key n).vac = false ∧ ((s.ctx key n).st ≠ .idle ∨ (s.ctx key n).inbox ≠ []))
      ∨ s.readLE (b + 0x190) 8 % 2 ^ 13 ≠ key ∨ (savedCtx s b ≠ n ∧ ((s.ctx key (savedCtx s b)).vac = false ∨ s.readLE (b + 0x280) 8 / 8 % 2 = 1))
      ∨ 8 < s.readLE (b + 3896) 8 % 16 + (s.ctx key n).inbox.length
      ∨ (s.readLE (b + 0x280) 8 % 8 ≠ 3 ∧ s.readLE (b + 0x280) 8 % 8 ≠ 4) ∨ (∃ i < 16, recordJob s key b i = some none)) →
    exec (.corectlRestore key n) s = .next (s.modCore key fun k => { k with ctlErr := true }))
  ∧ (∀ (s : State) (key : Nat) (n : Bool), (s.core key).spill = .restore n → ∀ u,
    (engineBanks s key n (recordGranules s (saveBase s key n)) = (u, true) → exec (.restoreComplete key) s = .next (restoreEnd u key n))
    ∧ (engineBanks s key n (recordGranules s (saveBase s key n)) = (u, false) → exec (.restoreComplete key) s = .next u))
  ∧ (∀ (s : State) (key : Nat) (n : Bool) (gs : List Nat), engineBanks s key n gs = (touchBanks s key (rsBank n) (granBanks gs),
    banksFull ((touchBanks s key (rsBank n) (granBanks gs)).core key) (rsBank n) (granBanks gs)))
  ∧ (∀ (s : State) (key b : Nat) (n act : Bool) (old slot c : Ctx), c = savedContext s key b n old slot act →
    (∀ k : Fin 48, c.g.get k = BitVec.ofNat 64 (s.readLE (b + 8 * k.val) 8)) ∧ (∀ k : Fin 8, c.p.get k = BitVec.ofNat 256 (s.readLE (b + 0x300 + 32 * k.val) 32))
    ∧ c.pc = BitVec.ofNat 15 (s.readLE (b + 0x180) 8) ∧ c.status = BitVec.ofNat 64 (s.readLE (b + 0x188) 8) &&& 0xE0FB
    ∧ c.cap = BitVec.ofNat 32 (s.readLE (b + 0x198) 8) ∧ (∀ k : Fin 4, c.t.get k = BitVec.ofNat 64 (s.readLE (b + 0x1C0 + 8 * k.val) 8)) ∧ c.vac = false
    ∧ c.clu = slot.clu ∧ c.mod = slot.mod ∧ c.sys = slot.sys ∧ c.place = placeOf key n
    ∧ c.packet = BitVec.ofNat 512 (s.readLE (b + 0x600) 64)
    ∧ c.st = (if s.readLE (b + 0x280) 8 % 8 = 3 then (if act then .running else .ready) else .frozen)
    ∧ (c.blocked ≠ 0 ↔ act = true ∧ s.readLE (b + 0x280) 8 % 8 ≠ 3))

/-- R32 to R36 and R40 to R42. Enabling a disabled port takes its fields and leaves it UNCAL; disabling darkens its lasers and ends its pours; an
epoch begins a calibration that ends in CALOK, or in CALFAIL on a duplicate position or a limit of 0, with the writer limit clamped; a writer limit is
distributed from the master when it is 1 to LCAL, and is adopted in an idle cycle; an alignment error beyond 9 steps stops the port and withdraws its
pour; drift moves the delay by one step towards zero error, in each idle microsecond; a probe counts an erasure or an excess; the loss of the clock
withdraws a follower's pour and leaves it UNCAL until it relocks. The open guard band is the model's choice (log entry 40), and so are the port that
reads UNCAL when disabled, the START that is kept, the AERR of 0 after a calibration and its following of each step (log entry 41); the barrier
cycles, and the positions that a port knows, are its reading (log entry 42). -/
def Obligations.PortSteps : Prop :=
  (∀ (s : State) (p : Fin 8) (v : Word) (x : Port), x = s.port p → s.feat 4 = true → v.getLsbD 0 = true →
    (x.en = false → exec (.portEnable p v) s = .next (s.setPort p
      { x with
        segid := v.extractLsb' 32 8, spos := v.extractLsb' 24 5, gbw := v.extractLsb' 20 4, ckmst := v.getLsbD 1, en := true, cal := .uncal, ckLost := x.ckLost && !v.getLsbD 1
        lasers := Vector.ofFn fun g : Fin 9 => if x.force.getLsbD g.val then wakeOne s.tb (x.lasers.get g) else x.lasers.get g }))
    ∧ (x.en = true → exec (.portEnable p v) s = .next s))
  ∧ (∀ (s : State) (p : Fin 8), ((s.port p).en = false → exec (.portDisable p) s = .next s)
    ∧ ((s.port p).en = true → ∃ t, exec (.portDisable p) s = .next t ∧ (t.port p).en = false ∧ (t.port p).cal = .uncal ∧ (t.port p).busy = false
      ∧ (∀ g, (t.port p).lasers.get g = {}) ∧ (t.port p).pours.map (fun q => q.job) = (s.port p).pours.map (fun q => q.job)
      ∧ (∀ q ∈ (t.port p).pours, q.code ≠ none) ∧ (∀ o, o ≠ p → t.port o = s.port o) ∧ t.cores = s.cores ∧ t.mem = s.mem))
  ∧ (∀ (s : State) (p : Fin 8) (x : Port), x = s.port p → x.en = true → x.ckLost = false → x.running = none → x.busy = false → x.cal ≠ .running →
    ((x.ckmst = false ∨ x.cal = .pending ∨ x.start = true) → exec (.calibration p) s = .next (s.setPort p
      { x with cal := .running, start := false, k := 0, idle := 0, seen := [], lastGrant := 63, ann := none, annExp := false
               pours := x.pours.map fun q => { q with expired := q.expired.map fun _ => 0 } }))
    ∧ (x.ckmst = true → x.cal ≠ .pending → x.start = false → exec (.calibration p) s = .next s))
  ∧ (∀ (s : State) (p : Fin 8), ((s.port p).en = false ∨ (s.port p).ckLost = true ∨ (s.port p).running ≠ none ∨ (s.port p).busy = true
      ∨ (s.port p).cal = .running) → exec (.calibration p) s = .next s)
  ∧ (∀ (s : State) (p : Fin 8) (v : Word) (x : Port), x = s.port p → (x.ckmst = false → writeRpcal s p v = s)
    ∧ (x.ckmst = true → v.getLsbD 0 = true → x.en = true → x.cal ≠ .running → writeRpcal s p v = s.setPort p { x with start := true, cal := .pending })
    ∧ (x.ckmst = true → v.getLsbD 0 = true → (x.en = false ∨ x.cal = .running) → writeRpcal s p v = s.setPort p { x with start := true })
    ∧ (x.ckmst = true → v.getLsbD 0 = false → writeRpcal s p v = s.setPort p { x with start := false }))
  ∧ (∀ (s : State) (p : Fin 8) (m : CalMeas) (x : Port) (ks : List Nat) (plim lcal : Nat), x = s.port p → x.cal = .running →
    ks = waveLimits x.gbw m → plim = ks.foldl min 15 → lcal = m.others.foldl (fun n o => min n o.2.val) plim →
    (¬ (x.spos.toNat :: m.others.map (·.1.val)).Nodup → exec (.calibrationComplete p m) s = .next (s.setPort p { x with cal := .calfail, stat := x.stat ||| 8 }))
    ∧ ((x.spos.toNat :: m.others.map (·.1.val)).Nodup → ∃ t y, exec (.calibrationComplete p m) s = .next t ∧ y = t.port p ∧ y.ldly = m.ldly
      ∧ y.plim.toNat = plim ∧ ks[y.failw.toNat]? = some plim ∧ (∀ i, i < y.failw.toNat → ks[i]? ≠ some plim)
      ∧ y.lcal.toNat = lcal ∧ y.aerr = 0 ∧ y.alignStop = false ∧ y.calgen = (if x.ckmst then x.calgen + 1 else m.calgen)
      ∧ y.rwlim.toNat = min x.rwlim.toNat lcal ∧ y.cal = (if lcal = 0 then .calfail else .calok)
      ∧ y.pours = x.pours ∧ (∀ o, o ≠ p → t.port o = s.port o) ∧ t.cores = s.cores ∧ t.mem = s.mem)
    ∧ (∀ k ∈ ks, plim ≤ k) ∧ plim ∈ ks ∧ lcal ≤ plim ∧ (∀ o ∈ m.others, lcal ≤ o.2.val) ∧ (lcal = plim ∨ ∃ o ∈ m.others, lcal = o.2.val))
  ∧ (∀ (gbw : BitVec 4) (m : CalMeas), (waveLimits gbw m).length = 68
    ∧ ∀ i < 68, (waveLimits gbw m)[i]? = some (waveLimit gbw (m.train.getD i [])))
  ∧ (∀ (gbw : BitVec 4) (ls : List (List Int)), waveLimit gbw ls ≤ 15
    ∧ (levelGood gbw 0 (ls.getD 0 []) = true → ∀ k, k ≤ 15 → (k ≤ waveLimit gbw ls ↔ ∀ j ≤ k, levelGood gbw j (ls.getD j []) = true)))
  ∧ (∀ (gbw : BitVec 4) (j : Nat) (vs : List Int), levelGood gbw j vs = true ↔ ∀ v ∈ vs, detect gbw v = some j)
  ∧ (∀ (gbw : BitVec 4) (v : Int), (detect gbw v = none ↔ ∃ k : Nat, k < 15 ∧ (v - (64 * (k : Int) + 32)).natAbs < gbw.toNat)
    ∧ (∀ c, detect gbw v = some c → (∀ k : Nat, k < 15 → (k < c ↔ 64 * (k : Int) + 32 < v)) ∧ c ≤ 15))
  ∧ (∀ (s : State) (p : Fin 8) (v : Word) (x : Port) (n : Nat), x = s.port p → n = v.toNat / 2 ^ 8 % 16 → s.feat 4 = true →
    (x.ckmst = true → 1 ≤ n → n ≤ x.lcal.toNat → exec (.rwlimWrite p v) s = .next (s.setPort p { x with rwlimDist := some (BitVec.ofNat 4 n) }))
    ∧ (x.ckmst = true → (n = 0 ∨ x.lcal.toNat < n) → exec (.rwlimWrite p v) s = .next (s.setPort p { x with stat := x.stat ||| 64 }))
    ∧ (x.ckmst = false → exec (.rwlimWrite p v) s = .next s))
  ∧ (∀ (s : State) (p : Fin 8) (v : Option (BitVec 4)) (x : Port), x = (s.port p).settleIdle → x.inCycle = true → x.cal = .calok → x.idle % 32 = 0 → x.seen = [] →
    (∀ r, x.ckmst = true → x.rwlimDist = some r → exec (.rwlimAdopt p v) s = .next (s.setPort p { x with rwlim := r, rwlimDist := none }))
    ∧ (∀ r, x.ckmst = false → v = some r → exec (.rwlimAdopt p v) s = .next (s.setPort p { x with rwlim := r }))
    ∧ (x.ckmst = true → x.rwlimDist = none → exec (.rwlimAdopt p v) s = .next s)
    ∧ (x.ckmst = false → v = none → exec (.rwlimAdopt p v) s = .next (s.setPort p { x with cal := .uncal })))
  ∧ (∀ (s : State) (p : Fin 8) (v : Option (BitVec 4)) (x : Port), x = (s.port p).settleIdle →
    (x.inCycle = false ∨ x.cal ≠ .calok ∨ x.idle % 32 ≠ 0 ∨ x.seen ≠ []) → exec (.rwlimAdopt p v) s = .next s)
  ∧ (∀ (s : State) (p : Fin 8) (e : BitVec 8) (x : Port), x = s.port p → x.en = true →
    exec (.alignError p none) s = .next (s.setPort p
      { x with cal := if x.ckmst = true ∧ x.cal ≠ .running then .pending else x.cal })
    ∧ ((9 < e.toInt ∨ e.toInt < -9) → ∃ t, exec (.alignError p (some e)) s = .next t ∧ (t.port p).cal = (if x.ckmst = true ∧ x.cal ≠ .running then .pending else x.cal) ∧ (t.port p).alignStop = true ∧ (t.port p).aerr = e
      ∧ (t.port p).stat = x.stat ||| 16 ∧ (t.port p).writable = false ∧ (t.port p).running = none ∧ t.cores = s.cores ∧ t.mem = s.mem)
    ∧ (-9 ≤ e.toInt → e.toInt ≤ 9 → exec (.alignError p (some e)) s = .next s
      ∧ exec (.driftStep p e) s = .next (s.setPort p (Port.track s.tb { x with aerr := e })))
    ∧ ((9 < e.toInt ∨ e.toInt < -9) → exec (.driftStep p e) s = .next s))
  ∧ (∀ (tb : Nat) (x : Port),
    ((x.auto = false ∨ x.writable = false ∨ x.inCycle = false ∨ x.stepUs = some (tb / 1000) ∨ x.aerr = 0) → x.track tb = x)
    ∧ (x.auto = true → x.writable = true → x.inCycle = true → x.stepUs ≠ some (tb / 1000) →
      (x.aerr.toInt < 0 → x.ldly ≠ 0x3FFFF → x.track tb = { x with stepUs := some (tb / 1000), ldly := x.ldly + 1, aerr := x.aerr + 1 })
      ∧ (0 < x.aerr.toInt → x.ldly ≠ 0 → x.track tb = { x with stepUs := some (tb / 1000), ldly := x.ldly - 1, aerr := x.aerr - 1 })
      ∧ ((x.aerr.toInt < 0 ∧ x.ldly = 0x3FFFF ∨ 0 < x.aerr.toInt ∧ x.ldly = 0) → x.track tb = x)))
  ∧ (∀ (tb d : Nat) (p : Fin 8) (x : Port), (∀ g, (x.lasers.get g).st = .off) →
    (x.cal = .pending ∨ x.cal = .running → passPort tb d p x = x.track tb)
    ∧ (x.cal ≠ .pending → x.cal ≠ .running →
      passPort tb d p x = rollExpire (fun _ => true) { x.track tb with pours := (x.track tb).pours.map fun q => { q with timer := q.timer.map (· - d) } }))
  ∧ (∀ (s : State) (p : Fin 8) (data ctl row : List Int) (x : Port) (bar : Bool), x = (s.port p).settleIdle → bar = barrierCycle s p →
    row = (List.range 64).map (fun i => data.getD i 0) ++ ctl →
    ((x.inCycle = false ∨ 32 ≤ x.seen.length ∨ (bar = true ∧ x.idle % 32 = 0)) → exec (.probeSlot p data ctl) s = .next s)
    ∧ (x.inCycle = true → x.seen.length < 32 → bar = false → ∀ y cs, y = (if x.idle % 32 = x.spos.toNat ∧ x.announced = none then x.choose else x) →
      cs = y.readSlot row (y.idleLight (x.idle % 32)) → exec (.probeSlot p data ctl) s = .next (s.setPort p
        { y.countErrs (slotErrs cs (idleExpect (x.probeSlot (x.idle % 32)))) with idle := x.idle + 1, seen := x.seen ++ [slotAnnouncement cs] }))
    ∧ (x.inCycle = true → x.seen.length < 32 → bar = true → x.idle % 32 ≠ 0 →
      ∀ cs, cs = x.readSlot row (fun lam => if lam = 66 then (x.ckmst && x.en).toNat else 0) → exec (.probeSlot p data ctl) s = .next (s.setPort p
        { x.countErrs (slotErrs cs (idleExpect false)) with idle := x.idle + 1, seen := [] })))
  ∧ (∀ lam, idleExpect false lam = (if lam = 66 then 1 else 0) ∧ idleExpect true lam = (if lam = 65 then 0 else 1))
  ∧ (∀ (x : Port) (i : Nat), x.probeSlot i = true ↔ i = x.spos.toNat ∨ x.known.getLsbD i = true)
  ∧ (∀ (x : Port) (e o : Nat), (x.countErrs (e, o)).eras.toNat = min (x.eras.toNat + e) 0xFFFFFFFF ∧ (x.countErrs (e, o)).overs.toNat = min (x.overs.toNat + o) 0xFFFFFFFF
    ∧ (x.countErrs (e, o)).stat = x.stat ||| (if e = 0 then 0 else 2) ||| (if o = 0 then 0 else 4) ∧ (x.countErrs (e, o)).pours = x.pours)
  ∧ (∀ (x : Port) (v : Int) (n : Nat), (x.ckLost = true → x.sense v n = none) ∧ (x.ckLost = false → x.sense v n = detect x.gbw (v + 64 * (n : Int))))
  ∧ (∀ (x : Port) (slot : Nat), x.idleLight slot 65 = 0 ∧ x.idleLight slot 66 = (if x.ckmst = true ∧ x.en = true then 1 else 0)
    ∧ (slot ≠ x.spos.toNat → ∀ lam, lam ≠ 66 → x.idleLight slot lam = 0)
    ∧ x.idleLight x.spos.toNat 64 = (if x.auto = true ∧ x.writable = true ∧ (x.lasers.get 8).st = .lit then 1 else 0))
  ∧ (∀ (a : Announce) (cs : List (Option Nat)), cs.length = 68 → (∀ i < 63, cs.getD i none = some ((annBits a).testBit i).toNat) → cs.getD 67 none = some 1 →
    slotAnnouncement cs = some a)
  ∧ (∀ (cs : List (Option Nat)), cs.length = 68 → ((∃ i < 63, cs.getD i none = none) ∨ cs.getD 67 none = none ∨ cs.getD 67 none = some 0) → slotAnnouncement cs = none)
  ∧ (∀ (s : State) (p : Fin 8) (x : Port), x = s.port p →
    (x.en = true → x.ckmst = false → ∃ t, exec (.clockLoss p) s = .next t ∧ (t.port p).ckLost = true ∧ (t.port p).cal = .uncal
      ∧ (t.port p).stat = x.stat ||| 32 ∧ (t.port p).running = none ∧ t.cores = s.cores ∧ t.mem = s.mem)
    ∧ ((x.en = false ∨ x.ckmst = true) → exec (.clockLoss p) s = .next s)
    ∧ exec (.clockRelock p) s = .next (s.setPort p { x with ckLost := false }))

/-- R37 to R39, R45, R49, R50 and R72. A laser group is LIT 1.5 µs after it began to wake, or after 3 µs fails, as the device has it (a free value:
log entry 5); a hold that passes with no pending use darkens it; RPLAS sets the hold and the forced groups, wakes those and begins the hold of one no
longer forced; a forced group that fails wakes again; invalidating an entry clears VALID and EXPSEQ and disarms its pours. -/
def Obligations.LaserSteps : Prop :=
  (∀ (s : State) (p : Fin 8) (g : Fin 9) (x : Port) (l : Laser), x = s.port p → l = x.lasers.get g →
    (l.st = .waking → l.since + 1500 ≤ s.tb → Config.laserFails ((l.since * 8 + p.val) * 9 + g.val) = false →
      exec (.laserWakeDone p g) s = .next (s.setPort p { x with lasers := x.lasers.set g { l with st := .lit, since := s.tb } }))
    ∧ ((l.st ≠ .waking ∨ s.tb < l.since + 1500) → exec (.laserWakeDone p g) s = .next s)
    ∧ (l.st = .waking → l.since + 3000 < s.tb → Config.laserFails ((l.since * 8 + p.val) * 9 + g.val) = true →
      exec (.laserWakeFail p g) s = .next (s.setPort p
        { x with lasers := x.lasers.set g (if x.force.getLsbD g.val then { st := .waking, since := s.tb } else {}), stat := x.stat ||| 1 }))
    ∧ ((l.st ≠ .waking ∨ s.tb ≤ l.since + 3000) → exec (.laserWakeFail p g) s = .next s)
    ∧ (l.st = .lit → l.holding = true → x.forced g = false → x.pendingUse = false → l.since + x.hold.toNat * 64 < s.tb →
      exec (.laserHoldExpire p g) s = .next (s.setPort p { x with lasers := x.lasers.set g {} }))
    ∧ ((l.st ≠ .lit ∨ l.holding = false ∨ x.forced g = true ∨ x.pendingUse = true ∨ s.tb ≤ l.since + x.hold.toNat * 64) →
      exec (.laserHoldExpire p g) s = .next s))
  ∧ (∀ (s : State) (p : Fin 8) (v : Word), s.feat 4 = true → ∃ t, exec (.rplasWrite p v) s = .next t ∧ (t.port p).hold = v.extractLsb' 32 16
    ∧ (t.port p).force = v.extractLsb' 18 9 ∧ (t.port p).pours = (s.port p).pours
    ∧ (∀ g : Fin 9, v.getLsbD (18 + g.val) = true → (t.port p).lasers.get g = wakeOne s.tb ((s.port p).lasers.get g))
    ∧ (∀ g : Fin 9, v.getLsbD (18 + g.val) = false → (s.port p).force.getLsbD g.val = false → (t.port p).lasers.get g = (s.port p).lasers.get g)
    ∧ (∀ g : Fin 9, v.getLsbD (18 + g.val) = false → (s.port p).force.getLsbD g.val = true → ((s.port p).lasers.get g).st = .lit →
      (t.port p).lasers.get g = { st := .lit, since := s.tb, holding := true }))
  ∧ (∀ (s : State) (p : Fin 8) (v : Word), s.feat 4 = false → exec (.rplasWrite p v) s = .next s ∧ exec (.rwlimWrite p v) s = .next s
    ∧ (∀ n, exec (.groupEntryInvalidate p n) s = .next s))
  ∧ (∀ (now : Nat) (l : Laser), (l.st = .off → wakeOne now l = { st := .waking, since := now, holding := false })
    ∧ (l.st ≠ .off → wakeOne now l = { l with holding := false }))
  ∧ (∀ (s : State) (p : Fin 8) (n : Fin 64), s.feat 4 = true → ∃ t, exec (.groupEntryInvalidate p n) s = .next t
    ∧ (t.port p).group n = { (s.port p).group n with valid := false, expseq := 0 } ∧ (∀ m, m ≠ n → (t.port p).group m = (s.port p).group m)
    ∧ (t.port p).pours = (s.port p).pours.map (fun q => if q.grp = n ∧ q.st ≠ .running ∧ q.code = none then { q with code := some 4 } else q)
    ∧ t.cores = s.cores ∧ t.mem = s.mem)

/-- R53 to R57, R70 to R72, R416 and R420. A pour whose footprint edges are satisfied wakes the lasers and starts ROLLTO; the first of its group is
announced once every laser group is LIT; a port announces one pour of each cycle; after the cycle's 32 slots a complete and matching roll-call makes a
pour ready, the arbiter's next group runs, a mismatch ends the pour with CODE 3 and an incomplete roll-call after ROLLTO with CODE 2; a pour that has
ended and whose edges are satisfied is completed: the blocks not written are poisoned, its status word and sync word are written, EXPSEQ advances, q7
and its event learn of it, and the lasers' hold begins. -/
def Obligations.PourSteps : Prop :=
  (∀ (s : State) (p : Fin 8) (n : Fin 64) (seq : BitVec 16) (x : Port) (q : Pour), x = s.port p → x.findPour n seq = some q →
    (q.edgesOk = false → (∀ j, ((s.cluster q.cluster).jobs.find? fun j => j.id == q.job) = some j → edgesDone s q.cluster j = true) →
      (q.code = none → exec (.pourEdgesSatisfied p n seq) s = .next (wakeAll (modJob (s.setPort p (x.modPour q.job fun y =>
          { y with edgesOk := true, timer := some ((x.group n).rollto.toNat * 1000) })) q.cluster q.job fun j => { j with started := true }) p))
      ∧ (q.code ≠ none → exec (.pourEdgesSatisfied p n seq) s = .next (modJob (s.setPort p (x.modPour q.job fun y =>
          { y with edgesOk := true, timer := none })) q.cluster q.job fun j => { j with started := true })))
    ∧ ((q.edgesOk = true ∨ ∃ j, ((s.cluster q.cluster).jobs.find? fun j => j.id == q.job) = some j ∧ edgesDone s q.cluster j = false) →
      exec (.pourEdgesSatisfied p n seq) s = .next s)
    ∧ (q.code ≠ none → q.edgesOk = true → exec (.pourComplete p n seq) s = .next (completePour s p q))
    ∧ ((q.code = none ∨ q.edgesOk = false) → exec (.pourComplete p n seq) s = .next s))
  ∧ (∀ (s : State) (p : Fin 8) (n : Fin 64) (x : Port) (q : Pour), x = s.port p → (x.poursOf n).head? = some q →
    (q.st = .queued → q.edgesOk = true → q.code = none → x.allLit = true →
      exec (.pourAnnounceStart p n) s = .next (s.setPort p (x.modPour q.job fun y => { y with st := .announcing })))
    ∧ ((q.st ≠ .queued ∨ q.edgesOk = false ∨ q.code ≠ none ∨ x.allLit = false) → exec (.pourAnnounceStart p n) s = .next s))
  ∧ (∀ (s : State) (p : Fin 8) (x : Port), x = s.port p →
    ((x.inCycle = false ∨ x.announced ≠ none ∨ barrierCycle s p = true ∨ x.spos.toNat < x.idle % 32 ∨ 32 ≤ x.seen.length) →
      exec (.announcement p) s = .next s)
    ∧ (x.inCycle = true → x.announced = none → barrierCycle s p = false → x.idle % 32 ≤ x.spos.toNat → x.seen.length < 32 →
      exec (.announcement p) s = .next (s.setPort p x.choose)))
  ∧ (∀ (x : Port), x.announcing = [] → x.choose = { x with ann := none, annExp := false })
  ∧ (∀ (x : Port), x.announcing ≠ [] → ∃ q ∈ x.announcing, x.choose = { x with
      ann := some q.job
      annExp := match q.expired with | some e => decide (e ≤ x.idle / 32 * 32) | none => false }
    ∧ ∀ y ∈ x.announcing, (q.grp.val + 64 - x.k % 64) % 64 ≤ (y.grp.val + 64 - x.k % 64) % 64)
  ∧ (∀ (s : State) (p : Fin 8) (r0 r1 r2 r3 : BitVec 16) (x : Port) (own : Option Pour) (fs : List Nat), x = s.port p → 32 ≤ x.seen.length →
    own = x.announced → fs = (if x.ckLost then [] else (List.range 64).filter fun n => ([r0, r1, r2, r3].getD (n / 16) 0).getLsbD (n % 16)) →
    ∃ t, exec (.announcementCycleEnd p r0 r1 r2 r3) s = .next t
    ∧ (t.port p).k = x.k + 1 ∧ (t.port p).ann = none ∧ (t.port p).annExp = false ∧ (t.port p).seen = [] ∧ (t.port p).idle = x.idle
    ∧ t.cores = s.cores ∧ t.mem = s.mem ∧ (∀ o, o ≠ p → t.port o = s.port o)
    ∧ (own = none → (t.port p).pours = x.pours)
    ∧ (∀ q, own = some q → rollCall x q x.seen = .mismatch → (t.port p).pours = (x.modPour q.job fun y => { y with code := some 3 }).pours)
    ∧ (∀ q, own = some q → rollCall x q x.seen = .incomplete → (t.port p).pours = (if x.annExp then (x.modPour q.job fun y => { y with code := some 2 }).pours else x.pours))
    ∧ ((∀ q, own = some q → rollCall x q x.seen ≠ .complete) → (∀ n, grantOf x.lastGrant.val fs = some n → (t.port p).lastGrant = Fin.ofNat 64 n ∧ (t.port p).busy = true)
      ∧ (grantOf x.lastGrant.val fs = none → (t.port p).lastGrant = x.lastGrant ∧ (t.port p).busy = x.busy))
    ∧ (∀ q, own = some q → rollCall x q x.seen = .complete → (t.port p).busy = true
      ∧ (grantOf x.lastGrant.val (q.grp.val :: fs) = some q.grp.val → (t.port p).pours = (x.modPour q.job (beginFrames x)).pours ∧ (t.port p).lastGrant = q.grp)
      ∧ (grantOf x.lastGrant.val (q.grp.val :: fs) ≠ some q.grp.val → (t.port p).pours = x.pours)))
  ∧ (∀ (x : Port), (x.ann = none → x.announced = none) ∧ (∀ j, x.ann = some j → x.announced = x.announcing.find? fun q => q.job == j)
    ∧ ∀ q ∈ x.announcing, q.st = .announcing ∧ q.code = none ∧ q ∈ x.pours)
  ∧ (∀ (s : State) (p : Fin 8) (r0 r1 r2 r3 : BitVec 16), (s.port p).seen.length < 32 → exec (.announcementCycleEnd p r0 r1 r2 r3) s = .next s)
  ∧ (∀ (x : Port) (q : Pour) (seen : List (Option Announce)),
    (rollCall x q seen = .complete ↔ ∀ i ∈ maskBits (x.group q.grp).mask, seen.getD i none = some (describe x q))
    ∧ (rollCall x q seen = .incomplete ↔ ∃ i ∈ maskBits (x.group q.grp).mask, ∀ a, seen.getD i none = some a → a.grp ≠ q.grp ∨ a.seq ≠ q.seq))
  ∧ (∀ (last : Nat) (rs : List Nat), last < 64 → (∀ r ∈ rs, r < 64) → ∀ r, grantOf last rs = some r →
    r ∈ rs ∧ ∀ o ∈ rs, (r + 64 - last - 1) % 64 ≤ (o + 64 - last - 1) % 64)
  ∧ (∀ (s : State) (p : Fin 8) (n : Fin 64), ∃ t, exec (.rolltoExpire p n) s = .next t ∧ t.cores = s.cores ∧ t.mem = s.mem ∧ (∀ o, o ≠ p → t.port o = s.port o)
    ∧ (t.port p).pours = (s.port p).pours.map (fun q => if q.grp = n ∧ q.timer = some 0 ∧ q.st ≠ .running then { q with timer := none, expired := some (s.port p).idle } else q))
  ∧ (∀ (s u : State) (p : Fin 8) (q : Pour) (ws : List Nat),
    ws = (q.syncLoc + 16) :: (if q.code = some 0 then [q.syncLoc] else [q.syncLoc, q.syncLoc + 8]) →
    (homeBanksRw s ws [q.syncLoc + 8] = (u, false) → completePour s p q = u)
    ∧ (homeBanksRw s ws [q.syncLoc + 8] = (u, true) → ∀ v, v = drainPour (if q.blocksDone then u else finishBlocks u p q) q →
      (pourHeld v q = true → completePour s p q = v)
      ∧ (∀ z, pourHeld v q = false → ((v.port p).pours.find? fun y => y.job == q.job) = some z → completePour s p q = finishPour v p z)))
  ∧ (∀ (s : State) (p : Fin 8) (q : Pour), ∃ left, left = q.blocks - q.written - countedHere q
    ∧ ((finishBlocks s p q).port p).pours = (s.port p).pours.map (fun y => if y.job = q.job then { y with npois := q.npois + left, blocksDone := true } else y)
    ∧ ((finishBlocks s p q).port p).poisCnt.toNat = min ((s.port p).poisCnt.toNat + left) 0xFFFFFFFF)
  ∧ (∀ (s : State) (p : Fin 8) (q : Pour), ∀ t, t = finishPour s p q →
    (t.port p).pours = (s.port p).pours.filter (fun y => y.job ≠ q.job) ∧ (t.port p).pourCnt.toNat = min ((s.port p).pourCnt.toNat + 1) 0xFFFFFFFF
    ∧ (t.port p).group q.grp = { (s.port p).group q.grp with expseq := q.seq + 1 }
    ∧ (t.port p).absCnt.toNat = min ((s.port p).absCnt.toNat + (if q.code = some 2 then 1 else 0)) 0xFFFFFFFF
    ∧ (∀ g, (t.port p).lasers.get g = (if ((s.port p).lasers.get g).st = .off ∨ (s.port p).force.getLsbD g.val = true then (s.port p).lasers.get g
      else { (s.port p).lasers.get g with since := if ((s.port p).lasers.get g).st = .lit then s.tb else ((s.port p).lasers.get g).since, holding := true }))
    ∧ (∀ g, g ≠ q.grp → (t.port p).group g = (s.port p).group g)
    ∧ (t.cluster q.cluster).jobs = (s.cluster q.cluster).jobs.filter (fun j => j.id ≠ q.job))
  ∧ (∀ (p : Fin 8) (q : Pour), q.rounds < 64 → q.lim < 16 → ∀ w, w = statusWord p q → w.extractLsb' 48 16 = q.seq ∧ w.extractLsb' 42 6 = BitVec.ofNat 6 q.grp.val
    ∧ w.extractLsb' 39 3 = BitVec.ofNat 3 p.val ∧ w.extractLsb' 24 8 = BitVec.ofNat 8 (min 255 q.npois) ∧ w.extractLsb' 16 8 = BitVec.ofNat 8 (min 255 q.nrepl)
    ∧ w.extractLsb' 10 6 = BitVec.ofNat 6 q.rounds ∧ w.getLsbD 8 = q.sat ∧ w.extractLsb' 4 4 = BitVec.ofNat 4 q.lim ∧ w.extractLsb' 0 4 = q.code.getD 0)

/-- R57 to R71 and R417 to R420. The port sends a frame of the pour that runs and reads the NAK window: a frame that counts adds its element sums, or
its exponents, and the pour goes to the next round or frame; a NAK sends it again, up to REPLAYMAX times, and then poisons its blocks; an uncertain
window withdraws the port. A window reads NAK with two lit samples and none erased, and no NAK when all four are dark; with no pour running a port
counts erased samples only, and in the other phase nothing happens; a frame whose source is not all read waits: its bytes are read piece by piece,
ahead of it or as it begins, and the blocks of a result are written piece by piece (log entries 17 and 20). That NAK causes are looked for in the
slots before the window only, and that a port which is no member counts no over-counts, is the model's choice (log entry 43). -/
def Obligations.FrameSteps : Prop :=
  (∀ (s : State) (p : Fin 8) (f : FrameIn), (s.port p).running = none →
    exec (.roundFrame p f) s = .next (foreignFrame s p f) ∧ exec (.skimFrame p f) s = .next (foreignFrame s p f))
  ∧ (∀ (s : State) (p : Fin 8) (f : FrameIn) (x : Port), x = s.port p → (x.en = false → foreignFrame s p f = s)
    ∧ (x.en = true → ∀ n, n = ((f.slots.zip (List.range f.slots.length)).map fun r =>
        ((x.readSlot r.1 fun lam => if lam = 66 ∧ r.2 ≠ 0 then x.ckmst.toNat else 0).filter Option.isNone).length).sum →
      foreignFrame s p f = s.setPort p { x.countErrs (n, 0) with busy := true }))
  ∧ (∀ (s : State) (p : Fin 8) (f : FrameIn) (q : Pour), (s.port p).running = some q →
    (∀ set, q.phase = .skim set → exec (.roundFrame p f) s = .next s) ∧ (∀ pos, q.phase = .data pos → exec (.skimFrame p f) s = .next s))
  ∧ (∀ (s u : State) (p : Fin 8) (f : FrameIn) (q q2 : Pour) (x : Port) (pos n : Nat) (xs sums : List Int) (bs : List Byte) (pois nak : Bool) (plan : Plan)
      (rows : List (List (Option Nat))), x = s.port p → x.running = some q → q.phase = .data pos → n = elemBits (frameTy q.kind) →
    ((q.kept = some (xs, pois) ∧ u = s) ∨ (q.kept = none ∧ writesNow x q = true ∧ frameSource s x q = .ok ((bs, pois), u) ∧ xs = positionElems q bs)
      ∨ (q.kept = none ∧ writesNow x q = false ∧ xs = [] ∧ pois = false ∧ u = s)) →
    q2 = (if writesNow x q = true then { q with kept := some (xs, pois) } else q) → plan = dataPlan x q2 n xs → rows = plan.rows x f →
    sums = frameSums n (elemSigned (frameTy q.kind)) rows → nak = (plan.spoiled rows || !guardsOk n rows sums || (plan.writer && pois)) →
    exec (.roundFrame p f) s = .next (endSending (countErrs u p (plan.errs x f nak)) p q2 (plan.window x f nak) fun y => { y with acc := List.zipWith (· + ·) y.acc sums }))
  ∧ (∀ (s u : State) (p : Fin 8) (f : FrameIn) (q : Pour) (x : Port), x = s.port p → x.running = some q → q.kept = none → writesNow x q = true →
    frameSource s x q = .error u →
    (∀ pos, q.phase = .data pos → exec (.roundFrame p f) s = .next u) ∧ (∀ set, q.phase = .skim set → exec (.skimFrame p f) s = .next u))
  ∧ (∀ (s u v : State) (x : Port) (q : Pour), (frameOffs x q = [] → frameSource s x q = .ok (([], false), s))
    ∧ (frameOffs x q ≠ [] → u = (if (s.job q.job).any (·.reading) then s else beginRead s x q) →
      (∀ j, u.job q.job = some j → v = j.todo.foldl (fun s ps => readSource s q.cluster q.job ps) u) →
      ∀ i j, u.job q.job = some i → v.job q.job = some j →
      (j.todo ≠ [] → frameSource s x q = .error v)
      ∧ (j.todo = [] → frameSource s x q = .ok (((List.range (frameOffs x q).length).map fun i => ((j.got.find? fun p => p.1 == i).map (·.2)).getD 0, j.poisoned),
        modJob v q.cluster q.job fun j => { j with reading := false, got := [], poisoned := false }))))
  ∧ (∀ (s : State) (id : Nat) (j : Job), s.req id = none → s.job id = some j →
    (isLadle j = true → exec (.loadReply id) s = .next s ∧ exec (.writePerform id) s = .next s)
    ∧ (isLadle j = false → exec (.writePerform id) s = .next ((pick s.tick j.out).1.foldl (fun s ps => writePiece s (clusterOf j.key) j.id ps) s)
      ∧ ∀ p q, s.pourOf j = some (p, q) →
        ((q.mayRead = false ∨ frameOffs (s.port p) q = []) → exec (.loadReply id) s = .next s)
        ∧ (q.mayRead = true → frameOffs (s.port p) q ≠ [] →
          (j.reading = false → exec (.loadReply id) s = .next (beginRead s (s.port p) q))
          ∧ (j.reading = true → exec (.loadReply id) s = .next ((pick s.tick j.todo).1.foldl (fun s ps => readSource s q.cluster j.id ps) s)))))
  ∧ (∀ (s u w : State) (cl id : Nat) (j : Job) (ps : List (Nat × Nat)), ((s.cluster cl).jobs.find? fun x => x.id == id) = some j →
    (homeBanks s false (ps.map (·.1)) = (u, false) → readSource s cl id ps = u)
    ∧ (homeBanks s false (ps.map (·.1)) = (u, true) → (ps ∉ j.todo → readSource s cl id ps = u)
      ∧ (ps ∈ j.todo → engineGate u cl j false (ps.map (·.1)) = .stay w → readSource s cl id ps = w)
      ∧ (ps ∈ j.todo → engineGate u cl j false (ps.map (·.1)) = .drop w → readSource s cl id ps = modJob w cl id fun x =>
        { x with todo := x.todo.erase ps, got := x.got ++ (ps.map (·.2)).zip (List.replicate ps.length 0), poisoned := true })
      ∧ (∀ bs p v, ps ∈ j.todo → engineGate u cl j false (ps.map (·.1)) = .go w → readHome w false (ps.map (·.1)) = (bs, p, v) →
        readSource s cl id ps = modJob v cl id fun x =>
          { x with todo := x.todo.erase ps, got := x.got ++ (ps.map (·.2)).zip bs, poisoned := x.poisoned || p })))
  ∧ (∀ (s u : State) (p : Fin 8) (f : FrameIn) (q q2 : Pour) (x : Port) (set : Nat) (es : List Nat) (bs : List Byte) (pois nak wr lost : Bool) (plan : Plan)
      (lanes : List (Bool × List Bool × Nat)) (rows : List (List (Option Nat))), x = s.port p → x.running = some q → q.phase = .skim set →
    wr = writesNow x q →
    ((∃ k, q.kept = some (k, pois) ∧ es = q.exps ∧ u = s) ∨ (q.kept = none ∧ wr = true ∧ frameSource s x q = .ok ((bs, pois), u) ∧ es = bs.map (·.toNat))
      ∨ (q.kept = none ∧ wr = false ∧ es = q.exps ∧ pois = false ∧ u = s)) →
    q2 = (if wr = true then { q with kept := some ([], pois), exps := es } else q) →
    lanes = (List.range 64).map (fun b => skimLane (if wr = true then some (es.getD b 0) else none) (writersOf q2)
      (fun k bit => x.sense (rawAt f k b) (bit && x.litAt b).toNat) 8) →
    plan = skimPlan x q2 lanes → rows = plan.rows x f →
    lost = (wr && (List.range 64).any fun b => (List.range 8).any fun k => plan.light (k + 1) b && countAt rows (k + 1) b == 0) →
    nak = (plan.spoiled rows || lost || (wr && pois)) →
    exec (.skimFrame p f) s = .next (endSending (countErrs u p (plan.errs x f nak)) p q2 (plan.window x f nak) fun y =>
      { y with emax := List.zipWith max y.emax (lanes.map fun l => l.2.2) }))
  ∧ (∀ (x : Port) (q : Pour), writersOf q = min (memberCount q.mask) ((q.round + 1) * q.lim) - q.round * q.lim
    ∧ (writesNow x q = true ↔ q.round * q.lim ≤ rankOf q.mask x.spos.toNat ∧ rankOf q.mask x.spos.toNat < (q.round + 1) * q.lim))
  ∧ (∀ (s : State) (p : Fin 8) (q : Pour) (good : Pour → Pour),
    endSending s p q .uncertain good = s.modPort p (fun x => x.modPour q.job fun _ => { q with code := some 5 })
    ∧ (∀ v y, nextRound s (good q) = (v, y) → y.job = q.job →
      (y.code = none → endSending s p q .clear good = v.modPort p (fun x => x.modPour q.job fun _ => y))
      ∧ (y.code ≠ none → endSending s p q .clear good = v.modPort p (fun x => (x.modPour q.job fun _ => y).settleIdle)))
    ∧ (((s.port p).group q.grp).replaymax.toNat ≤ q.sending → ∀ y n v z, poisonFrame q = (y, n) →
      nextRound (s.modPort p fun x => { x with poisCnt := inc32 x.poisCnt n }) y = (v, z) → z.job = q.job →
      (z.code = none → endSending s p q .nak good = v.modPort p (fun x => x.modPour q.job fun _ => z))
      ∧ (z.code ≠ none → endSending s p q .nak good = v.modPort p (fun x => (x.modPour q.job fun _ => z).settleIdle)))
    ∧ (q.sending < ((s.port p).group q.grp).replaymax.toNat → ∃ t, endSending s p q .nak good = t ∧ t.mem = s.mem
      ∧ (t.port p).pours = (s.port p).pours.map (fun y => if y.job = q.job then { q with sending := q.sending + 1, nrepl := q.nrepl + 1 } else y)
      ∧ (t.port p).replCnt.toNat = min ((s.port p).replCnt.toNat + 1) 0xFFFFFFFF))
  ∧ (∀ ws : List (Option Nat), ws.length = 4 →
    (readWindow ws = .clear ↔ ∀ w ∈ ws, w = some 0)
    ∧ (readWindow ws = .nak ↔ (∀ w ∈ ws, w ≠ none) ∧ 2 ≤ (ws.filter (· ≠ some 0)).length))
  ∧ (∀ (s : State) (q : Pour), q.round + 1 < q.rounds → nextRound s q = (s, { q with round := q.round + 1, sending := 0, kept := none }))
  ∧ (∀ q : Pour, endFrames q = { q with code := some (if q.npois = 0 then 0 else 1) })
  ∧ (∀ (sgn : Bool) (n : Nat) (rows : List (List (Option Nat))) (i : Nat), i < 256 → (frameSums n sgn rows)[i]? = some ((List.range n).map fun j =>
    if sgn = true ∧ j + 1 = n then -((countAt rows (1 + n * (i / 64) + j) (i % 64) : Int) * 2 ^ j)
    else (countAt rows (1 + n * (i / 64) + j) (i % 64) : Int) * 2 ^ j).sum)

/-- Decode and encode agree, for every instruction and every word: what encode gives decodes to the instruction it was made of, and a word that
decodes is, in the bytes of its length, what encode gives of its meaning. No two instructions share a word, and no bit of an encoding is dropped. -/
def Obligations.DecodeEncode : Prop :=
  (∀ (i : Instr) (w : Nat), encode i = some w → decode w = .ok i)
  ∧ (∀ (w : Nat) (i : Instr), decode w = .ok i → encode i = some (w % 2 ^ (8 * i.size)))

/-- Words written out from the encodings of R270, R279, R312, R313, R318, R328, R366 and R390 decode to their instructions; a zero LEN, an unassigned
OP, a reserved FN, PRED `1000` and a nonzero unused field do not decode. -/
def Obligations.DecodeWords : Prop :=
  (∀ com : Com, com = { pred := { neg := false, p := 0 }, wt := 0 } →
    decode (1 + 0x20 * 2 ^ 2 + 3 * 2 ^ 16 + 4 * 2 ^ 22 + 5 * 2 ^ 28) = .ok (.add com (.g 3) ⟨.g 4, false⟩ ⟨.g 5, false⟩)
    ∧ decode (1 + 0x20 * 2 ^ 2 + 3 * 2 ^ 16 + 4 * 2 ^ 22 + 5 * 2 ^ 28 + 1 * 2 ^ 36) = .ok (.sub com (.g 3) ⟨.g 4, false⟩ ⟨.g 5, false⟩)
    ∧ decode (1 + 0x26 * 2 ^ 2 + 7 * 2 ^ 16 + 0xFFFFFF * 2 ^ 40) = .ok (.li24 com (.g 7) (-1))
    ∧ decode (1 + 0x02 * 2 ^ 2 + 4 * 2 ^ 22 + 5 * 2 ^ 28 + 2 * 2 ^ 36 + 0xFFFFFE * 2 ^ 40) = .ok (.brc com .lt ⟨.g 4, false⟩ ⟨.g 5, false⟩ (-2))
    ∧ decode (1 + 0x40 * 2 ^ 2 + 3 * 2 ^ 16 + 4 * 2 ^ 22 + 1 * 2 ^ 28 + 6 * 2 ^ 36 + 8 * 2 ^ 40)
      = .ok (.ld com .d64 (.g 3) { base := ⟨.g 4, false⟩, sel := .spm, lu := false, na := false, off := .imm24 8 })
    ∧ decode (2 + 0x41 * 2 ^ 2 + 3 * 2 ^ 16 + 4 * 2 ^ 22 + 2 * 2 ^ 28 + 2 * 2 ^ 36 + 16 * 2 ^ 64)
      = .ok (.st com .b32 (.g 3) { base := ⟨.g 4, false⟩, sel := .cls, lu := false, na := false, off := .imm32 16 })
    ∧ decode (2 + 0x2A * 2 ^ 2 + 3 * 2 ^ 16 + 4 * 2 ^ 22 + 5 * 2 ^ 28 + 1 * 2 ^ 47 + 3 * 2 ^ 48)
      = .ok (.fadd com (.long { ro := true, rmo := .rup }) (.g 3) ⟨.g 4, false⟩ ⟨.g 5, false⟩)
    ∧ decode (1 + 0x88 * 2 ^ 2 + 1 * 2 ^ 16 + 2 * 2 ^ 22 + 3 * 2 ^ 28 + 4 * 2 ^ 50)
      = .ok (.vadd com .i32 1 ⟨2, false⟩ ⟨3, false⟩ { sat := false, rnd := { ro := false, rmo := .rne } })
    ∧ decode (1 + 0xA2 * 2 ^ 2 + 1 * 2 ^ 16 + 2 * 2 ^ 22 + 3 * 2 ^ 28 + 1 * 2 ^ 34 + 4 * 2 ^ 36 + 1 * 2 ^ 55)
      = .ok (.mma com .bf16 1 ⟨2, true⟩ 3 true none))
  ∧ (∀ com : Com, com = { pred := { neg := true, p := 2 }, wt := 3 } →
    decode (1 + 0x20 * 2 ^ 2 + (8 + 2) * 2 ^ 10 + 3 * 2 ^ 14 + 3 * 2 ^ 16 + 4 * 2 ^ 22 + 5 * 2 ^ 28 + 2 ^ 34)
      = .ok (.add com (.g 3) ⟨.g 4, true⟩ ⟨.g 5, false⟩))
  ∧ decode 0 = .error .lenZero ∧ (∃ e, decode (1 + 0x1F * 2 ^ 2) = .error e)
  ∧ (∃ e, decode (1 + 0x20 * 2 ^ 2 + 15 * 2 ^ 36) = .error e)
  ∧ (∃ e, decode (1 + 0x20 * 2 ^ 2 + 8 * 2 ^ 10) = .error e)
  ∧ (∃ e, decode (1 + 0x20 * 2 ^ 2 + 2 ^ 40) = .error e)

/-- R91. A wipe, at every reset and at every life-cycle change, leaves every byte of every memory of the module 0, every full/empty tag EMPTY, every
granule dead, every bank OFF, every event FREE and every group unused; a life-cycle change is followed by a reset, and is the same as a reset but for
the fuses. -/
def Obligations.WipeAtReset : Prop :=
  (∀ (s t : State), exec .moduleReset s = .next t → ∀ u, (u = State.reset ∨ u = t ∨ ∃ v : Word, v.getLsbD 8 = true ∧ lcAllowed s.fuses (v.setWidth 2) = true
      ∧ exec (.lifecycleChange v) s = .next u) →
    (∀ a < foreignBase, u.byteAt a = 0) ∧ u.mem = Mem.empty ∧ u.full = [] ∧ (∀ key n, (u.ctx key n).live = 0 ∧ (u.ctx key n).pend = 0)
    ∧ (∀ key b k, ((u.core key).bank b k).st = .off) ∧ (∀ id, (tget {} u.events id).target = 0) ∧ (∀ g, u.group g = {}))
  ∧ (∀ s, ∃ t, exec .moduleReset s = .next t)
  ∧ (∀ (s : State) (v : Word), v.getLsbD 8 = true → lcAllowed s.fuses (v.setWidth 2) = true →
    exec (.lifecycleChange v) s = exec .moduleReset { s with fuses := v.setWidth 2 })

/-- The values that the spec gives at reset, and the control invariant there: R8, R86 to R88, R92, R95, R97, R99, R116, R118, R145, R150, R159, R164,
R189 and R389. Two of them are the model's: that a context has no binding and an empty inbox, which R158 gives at a task's start (log entry 1). -/
def Obligations.ResetState : Prop :=
  (∀ s, s = State.reset →
    ControlInv s ∧ s.go = false ∧ s.wiped = false ∧ s.measured = false ∧ s.bootReady = false ∧ s.lock = false ∧ s.fwWritten = false
    ∧ s.featLower = 0 ∧ s.featUpper = 0 ∧ (∀ n, s.feat n = false) ∧ s.alarm = 0 ∧ s.atBusy = false ∧ s.lcErr = false
    ∧ (∀ u, s.errCor.get u = 0 ∧ s.errUnc.get u = 0) ∧ s.tb = 0 ∧ (∀ cl, s.tbOf cl = 0) ∧ s.evsel = 0 ∧ s.halted = false
    ∧ (∀ key, (s.core key).autosw = false ∧ (s.core key).swth = 256 ∧ (s.core key).bkIdle = 256 ∧ (s.core key).bkRet = 0 ∧ (s.core key).mxpf = 2)
    ∧ (∀ key n, (s.ctx key n).st = .idle ∧ (s.ctx key n).status = 0 ∧ (s.ctx key n).binds = [] ∧ (s.ctx key n).inbox = [] ∧ (s.ctx key n).live = 0)
    ∧ (∀ q, (s.quad q).quadw = 0x44444) ∧ (∀ t, (s.tower t).portw = 4 ∧ (s.tower t).ladw = 4) ∧ (∀ l, (s.link l).downPermits = 16 ∧ (s.link l).upPermits = 16)
    ∧ (∀ d : Fin 4, (s.regs.get d).fcode = 15 ∧ (s.regs.get d).vt = 600) ∧ (∀ cl < 80, domField s cl = Fin.ofNat 4 (cl / 20)))

/-- Every step keeps the control invariant, from every state that has it: boot goes in its order and the firmware range is closed before anything runs
from it; the report, the accepted features, the link chosen, the pod register and the translation register hold only what their fields admit. -/
def Obligations.StepKeepsControl : Prop :=
  ∀ s t : State, ControlInv s → step s = .next t → ControlInv t

/-- What a scalar instruction without a memory operand leaves as it is, from every state, whether it completes, waits or faults: every memory, every
tag, mark and request, and everything else outside the cores; the other context and every other core but the queues it pushes; of its own core, its
configuration, banks, buffers and vector queue; of its own context, every register but its destination, and every STATUS bit but the flags that a
float instruction sets. -/
def Obligations.ScalarFrames : Prop :=
  ∀ (i : Instr) (ds : List Dst) (s t : State), scalarDst i = some ds → exec i s = .next t →
    { t with cores := s.cores } = s ∧ (∀ a, t.byteAt a = s.byteAt a)
    ∧ (∀ key, key ≠ s.focus → (t.core key) = { s.core key with q := (t.core key).q } ∧ ((∀ k, Dst.q k ∉ ds) → t.core key = s.core key))
    ∧ sameCore s.me (t.core s.focus) ∧ t.ctx s.focus (!s.act) = s.ctx s.focus (!s.act)
    ∧ ∀ d, d = t.ctx s.focus s.act → sameCtx s.cur { d with g := s.cur.g, status := s.cur.status }
      ∧ (∀ n : Fin 48, Dst.g n ∉ ds ∨ n = 0 → d.g.get n = s.cur.g.get n)
      ∧ d.status &&& ~~~scalarFlags i = s.cur.status &&& ~~~scalarFlags i ∧ s.cur.status &&& ~~~d.status = 0

/-- What a load leaves as it is: LD, LDW and LDE change no byte of memory unless they carry LU on the own scratchpad, and then none outside the 8-byte
words that hold the bytes at the address that loadFrom computes; of the registers only their destination; of STATUS only POIS; no tag or mark but
under LU, or the tag that LDE empties; of the other contexts nothing; and the alarm only where its walk meets the locked range. What a store leaves as
it is: ST, STW and STF to the own scratchpad or lanes change no byte outside the bytes at the address that storeTo computes and COUNT and GEN of a
marked sync word that they lie in; beyond the core, and where the address is refused, they change no byte of memory at all; no register and no mark is
changed; ST changes no tag; of the other contexts only what a notified wait has received, with POIS where the word is poisoned; and the alarm changes
only where a walk meets the locked range. -/
def Obligations.LoadAndStoreFrames : Prop :=
  (∀ (c : Com) (m : MemOp) (i : Instr) (n : Nat) (d : Dst) (s t : State),
    ((∃ k, i = .ld c k d m ∧ n = loadWidth k) ∨ ((i = .ldw c d m ∨ i = .lde c d m) ∧ n = 8)) → exec i s = .next t →
    (∀ acc p, loadFrom s m n = some acc → (m.lu = false ∨ acc.own = false ∨ ∀ l ∈ acc.locs, s.phys l / 8 ≠ p / 8) → t.mem.get p = s.mem.get p)
    ∧ (loadFrom s m n = none → t.mem = s.mem)
    ∧ (m.lu = false → t.mem = s.mem ∧ t.poison = s.poison ∧ t.spmLive = s.spmLive ∧ t.marks = s.marks ∧ (i ≠ .lde c d m → t.full = s.full))
    ∧ { keepAlarm s t with
        mem := s.mem, poison := s.poison, spmLive := s.spmLive, marks := s.marks, full := s.full, cores := s.cores, clusters := s.clusters
        fabric := s.fabric, nextId := s.nextId } = s
    ∧ (isFw s.focus = true ∨ (∀ asid va, walkLocked s asid va = false) → keepAlarm s t = t)
    ∧ (∀ k, { t.cluster k with tlb := (s.cluster k).tlb } = s.cluster k)
    ∧ (∀ key, key ≠ s.focus → t.core key = { s.core key with q := (t.core key).q }) ∧ t.ctx s.focus (!s.act) = s.ctx s.focus (!s.act)
    ∧ ∀ e, e = t.ctx s.focus s.act →
      sameCtx s.cur { e with g := s.cur.g, status := s.cur.status, clu := s.cur.clu, mod := s.cur.mod, sys := s.cur.sys }
      ∧ (∀ r : Fin 48, d ≠ .g r ∨ r = 0 → e.g.get r = s.cur.g.get r)
      ∧ e.status &&& ~~~0x4000 = s.cur.status &&& ~~~0x4000 ∧ s.cur.status &&& ~~~e.status = 0)
  ∧ (∀ (c : Com) (m : MemOp) (i : Instr) (n : Nat) (d : Src) (s t : State),
    ((∃ k, i = .st c k d m ∧ n = storeWidth k) ∨ ((i = .stw c d m ∨ i = .stf c d m) ∧ n = 8)) → exec i s = .next t →
    (∀ acc p, storeTo s d m n = some acc → acc.own = true → ¬ mayChange s acc.locs p → t.mem.get p = s.mem.get p)
    ∧ (∀ acc, storeTo s d m n = some acc → acc.own = false → t.mem = s.mem) ∧ (storeTo s d m n = none → t.mem = s.mem)
    ∧ ((∃ k, i = .st c k d m) → t.full = s.full)
    ∧ { keepAlarm s t with
        mem := s.mem, poison := s.poison, spmLive := s.spmLive, full := s.full, cores := s.cores, clusters := s.clusters
        fabric := s.fabric, nextId := s.nextId } = s
    ∧ (isFw s.focus = true ∨ (∀ asid va, walkLocked s asid va = false) → keepAlarm s t = t)
    ∧ (∀ k, { t.cluster k with tlb := (s.cluster k).tlb } = s.cluster k)
    ∧ (∀ key b, (key, b) ≠ (s.focus, s.act) → onlyNoted (s.ctx key b) (t.ctx key b))
    ∧ (∀ key, key ≠ s.focus → { t.core key with c0 := (s.core key).c0, c1 := (s.core key).c1 } = s.core key)
    ∧ ∀ e, e = t.ctx s.focus s.act →
      sameCtx s.cur { e with clu := s.cur.clu, mod := s.cur.mod, sys := s.cur.sys, wait := s.cur.wait, status := s.cur.status }
      ∧ e.status &&& ~~~0x4000 = s.cur.status &&& ~~~0x4000 ∧ s.cur.status &&& ~~~e.status = 0 ∧ (e.wait = s.cur.wait → e.status = s.cur.status))

/-- What the updates and block transfers leave as they are: AMO, AMO.cas, AMOF.add, SWARM, RADD and FESET change, of the own scratchpad or lanes, no
byte but those of the word that updateTo computes, with COUNT and GEN of the sync word concerned, and where the word lies beyond the core, or is
refused, no byte at all, like PUT, GET and PUTSIG, whose bytes move later; only SWARM and RADD change a mark, their own word's, and only FESET a tag,
its own word's; of the registers only the destination changes, and of `STATUS` only POIS, and the flags of AMOF.add; of the other contexts only what a
notified wait has received; and the alarm only where a walk meets the locked range. -/
def Obligations.UpdateFrames : Prop :=
  ∀ (i : Instr) (s t : State), isUpdate i = true → exec i s = .next t →
    ∀ own : Acc → Prop, own = (fun acc => updateTo s i = some acc ∧ acc.own = true) →
    (∀ p, (∀ acc, own acc → ¬ updateBytes s acc p i) → t.mem.get p = s.mem.get p)
    ∧ (∀ w, (∀ acc, own acc → (∃ c d m x, i = .swarm c d m x) ∨ (∃ c d m, i = .radd c d m) → w ≠ firstLoc acc / 16) → (w ∈ t.marks ↔ w ∈ s.marks))
    ∧ (∀ w, (∀ acc, own acc → (∃ c m, i = .fesetE c m ∨ i = .fesetF c m) → w ≠ s.phys (firstLoc acc) / 8) → (w ∈ t.full ↔ w ∈ s.full))
    ∧ { keepAlarm s t with
        mem := s.mem, poison := s.poison, spmLive := s.spmLive, full := s.full, marks := s.marks, cores := s.cores, clusters := s.clusters
        fabric := s.fabric, nextId := s.nextId } = s
    ∧ (isFw s.focus = true ∨ (∀ asid va, walkLocked s asid va = false) → keepAlarm s t = t)
    ∧ (∀ k, { t.cluster k with tlb := (s.cluster k).tlb } = s.cluster k)
    ∧ (∀ key b, (key, b) ≠ (s.focus, s.act) → onlyNoted (s.ctx key b) (t.ctx key b))
    ∧ (∀ key, key ≠ s.focus → { t.core key with c0 := (s.core key).c0, c1 := (s.core key).c1, q := (s.core key).q } = s.core key)
    ∧ ∀ e, e = t.ctx s.focus s.act →
      sameCtx s.cur { e with g := s.cur.g, status := s.cur.status, clu := s.cur.clu, mod := s.cur.mod, sys := s.cur.sys, wait := s.cur.wait }
      ∧ (∀ r : Fin 48, updateDst i ≠ some (.g r) ∨ r = 0 → e.g.get r = s.cur.g.get r)
      ∧ (∀ k : Word, k = (match i with | .amofAdd .. => 0x60F8 | _ => 0x4000) → e.status &&& ~~~k = s.cur.status &&& ~~~k) ∧ s.cur.status &&& ~~~e.status = 0

/-- What a push leaves as it is: an instruction that enters the vector and matrix queue changes no byte of memory, no tag, mark or live word, nothing
of another core, no alarm but where a walk meets the locked range, no scalar register, predicate, view, STATUS bit or liveness of its own context and
nothing of the other; the queue keeps its entries, in their order, with at most one behind them: the instruction itself, for its context. -/
def Obligations.PushFrames : Prop :=
  ∀ (i : Instr) (s t : State), isPush i = true → exec i s = .next t →
    { keepAlarm s t with cores := s.cores, clusters := s.clusters, fabric := s.fabric, nextId := s.nextId } = s ∧ (∀ a, t.byteAt a = s.byteAt a)
    ∧ (isFw s.focus = true ∨ (∀ asid va, walkLocked s asid va = false) → keepAlarm s t = t)
    ∧ (∀ k, { t.cluster k with tlb := (s.cluster k).tlb } = s.cluster k) ∧ (∀ key, key ≠ s.focus → t.core key = s.core key)
    ∧ sameCtx s.cur (t.ctx s.focus s.act) ∧ t.ctx s.focus (!s.act) = s.ctx s.focus (!s.act)
    ∧ ((t.core s.focus).vq.map (·.op) = s.me.vq.map (·.op)
      ∨ ∃ o : VOp, o.instr = i ∧ o.ctx = s.act ∧ (t.core s.focus).vq.map (·.op) = s.me.vq.map (·.op) ++ [o] ∧ s.me.vq.length < 16)

/-- Memory: a byte reads as the last write left it and no other byte changes; two memories that read alike are equal; the keys of a table behave so
too; a write of bytes at one home leaves each of them and no tag; and a write to a marked sync word leaves COUNT below TARGET, with GEN advanced once
for each TARGET taken (R203, R208). -/
def Obligations.MemoryAndSyncWords : Prop :=
  (∀ (m : Mem) (a a2 : Nat) (b : Byte), (m.put a b).get a2 = if a2 = a then b else m.get a2)
  ∧ (∀ m m2 : Mem, (∀ a, m.get a = m2.get a) → m = m2)
  ∧ (∀ (α : Type) (d x : α) (l : Tbl α) (k k2 : Nat), tget d (tset l k x) k2 = if k2 = k then x else tget d l k2)
  ∧ (∀ (s t : State) (ps : List (Nat × Byte)), t = performWrite s true ps → ps.Pairwise (fun p q => s.phys p.1 ≠ s.phys q.1) → (∀ p ∈ ps, p.1 < foreignBase) →
    (∀ p ∈ ps, p.1 / 16 ∉ s.marks) → (∀ p ∈ ps, t.mem.get (s.phys p.1) = p.2) ∧ (∀ a, (∀ p ∈ ps, a ≠ s.phys p.1) → t.mem.get a = s.mem.get a)
      ∧ t.full = s.full ∧ t.marks = s.marks ∧ t.fabric = s.fabric)
  ∧ (∀ (s t : State) (w : Nat), t = syncStep s w → w ∈ s.marks → w * 16 + 16 ≤ foreignBase → (∀ j < 16, s.phys (w * 16 + j) = w * 16 + j) →
    (∀ j < 2, w * 2 + j ∉ s.poison) → s.syncTarget (w * 16) ≠ 0 →
    t.syncCount (w * 16) = s.syncCount (w * 16) % s.syncTarget (w * 16)
    ∧ t.syncGen (w * 16) = (s.syncGen (w * 16) + s.syncCount (w * 16) / s.syncTarget (w * 16)) % 2 ^ 16
    ∧ t.syncTarget (w * 16) = s.syncTarget (w * 16) ∧ (∀ a, (a < w * 16 ∨ w * 16 + 8 ≤ a) → t.mem.get a = s.mem.get a))
  ∧ (∀ (s : State) (w : Nat), w ∉ s.marks ∨ s.syncTarget (w * 16) = 0 → syncStep s w = s)

/-- The elements that the integer vector instructions write, at the grant of their last quarter (R250, R251, R353, R366 to R369): sums, differences,
products and fused products wrapped or saturated over the type's range, the lesser and the greater, the bitwise operations, and shifts by the low bits
of B. An inactive element is not written. -/
def Obligations.IntegerElements : Prop :=
  ∀ (s : State) (key : Nat) (o : VOp) (c : Com) (t : Ty) (d : Fin 16) (a b z : Use (Fin 16)) (x : VX) (u : State) (el : Word → Nat → Nat) (v : Word → Nat → Int),
    t.isInt = true → u = poisIf s key o.ctx (readPoison s key o) → el = (fun w j => (viewElems u key o.ctx w t).getD j 0) →
    v = (fun w j => if tySigned t then signedOf (tyBits t) (el w j) else (el w j : Int)) →
    (o.instr = .vadd c t d a b x → WritesElements s key o t fun j => elementOf t x.sat (v o.va j + v o.vb j))
    ∧ (o.instr = .vsub c t d a b x → WritesElements s key o t fun j => elementOf t x.sat (v o.va j - v o.vb j))
    ∧ (o.instr = .vmul c t d a b x → WritesElements s key o t fun j => elementOf t x.sat (v o.va j * v o.vb j))
    ∧ (o.instr = .vfma c t d a b z x → WritesElements s key o t fun j => elementOf t x.sat (v o.va j * v o.vb j + v o.vc j))
    ∧ (o.instr = .vmin c t d a b → WritesElements s key o t fun j => if v o.vb j < v o.va j then el o.vb j else el o.va j)
    ∧ (o.instr = .vmax c t d a b → WritesElements s key o t fun j => if v o.va j < v o.vb j then el o.vb j else el o.va j)
    ∧ (o.instr = .vabs c t d a x.sat → WritesElements s key o t fun j => if v o.va j < 0 then elementOf t x.sat (-(v o.va j)) else el o.va j)
    ∧ (o.instr = .vneg c t d a x.sat → WritesElements s key o t fun j => elementOf t x.sat (-(v o.va j)))
    ∧ (o.instr = .vand c t d a b → WritesElements s key o t fun j => el o.va j &&& el o.vb j)
    ∧ (o.instr = .vor c t d a b → WritesElements s key o t fun j => el o.va j ||| el o.vb j)
    ∧ (o.instr = .vxor c t d a b → WritesElements s key o t fun j => el o.va j ^^^ el o.vb j)
    ∧ (o.instr = .vandn c t d a b → WritesElements s key o t fun j => el o.va j &&& (2 ^ tyBits t - 1 - el o.vb j))
    ∧ (o.instr = .vshl c t d a b → WritesElements s key o t fun j => el o.va j * 2 ^ (el o.vb j % tyBits t) % 2 ^ tyBits t)
    ∧ (o.instr = .vshr c t d a b → WritesElements s key o t fun j => el o.va j / 2 ^ (el o.vb j % tyBits t))
    ∧ (o.instr = .vsra c t d a b → WritesElements s key o t fun j => elementOf t false (signedOf (tyBits t) (el o.va j) / (2 ^ (el o.vb j % tyBits t) : Nat)))

/-- The elements that the other vector instructions give at the grant of their last quarter (R352, R353, R366, R367, R370 to R383): floating-point
arithmetic, each result rounded once in the mode of the push or the override; reciprocal, root and exponent; selection and broadcast; conversion and
its PART; widened sums and products; dot products; prefix results; permutes; block images and what they decode to; the predicates that VCMP and the
predicate group leave; and the words that VEXT, VRED and VPCNT give q4. -/
def Obligations.VectorElements : Prop :=
  ∀ (s : State) (key : Nat) (o : VOp) (c : Com) (t : Ty) (d : Fin 16) (a b z : Use (Fin 16)) (x : VX) (r : Rnd) (wt : Fin 4) (u : State)
    (el : Ty → Word → Nat → Nat) (fr : Nat) (rm rmr : Rm),
    u = poisIf s key o.ctx (readPoison s key o) → el = (fun t w j => (viewElems u key o.ctx w t).getD j 0) → fr = fractionOf t →
    rm = (if x.rnd.ro then x.rnd.rmo else o.rm) → rmr = (if r.ro then r.rmo else o.rm) →
    ((t = .f32 ∨ t = .bf16) →
      (o.instr = .vadd c t d a b x → GivesElements s key o t fun j => some (fpAdd fr rm (el t o.va j) (el t o.vb j)))
      ∧ (o.instr = .vsub c t d a b x → GivesElements s key o t fun j => some (fpSub fr rm (el t o.va j) (el t o.vb j)))
      ∧ (o.instr = .vmul c t d a b x → GivesElements s key o t fun j => some (fpMul fr rm (el t o.va j) (el t o.vb j)))
      ∧ (o.instr = .vfma c t d a b z x → GivesElements s key o t fun j => some (fpFma fr rm (el t o.va j) (el t o.vb j) (el t o.vc j)))
      ∧ (o.instr = .vmin c t d a b → GivesElements s key o t fun j => some (fpMinMax fr false (el t o.va j) (el t o.vb j)))
      ∧ (o.instr = .vmax c t d a b → GivesElements s key o t fun j => some (fpMinMax fr true (el t o.va j) (el t o.vb j)))
      ∧ (o.instr = .vabs c t d a x.sat → GivesElements s key o t fun j => some (fpAbs fr (el t o.va j), 0))
      ∧ (o.instr = .vneg c t d a x.sat → GivesElements s key o t fun j => some (fpNeg fr (el t o.va j), 0))
      ∧ (o.instr = .vrcp c t d a r → GivesElements s key o t fun j => some (fpRcp fr rmr (el t o.va j)))
      ∧ (o.instr = .vrsq c t d a r → GivesElements s key o t fun j => some (fpRsq fr rmr (el t o.va j)))
      ∧ (o.instr = .vexp2 c t d a r → GivesElements s key o t fun j => some (fpExp2 fr rmr (el t o.va j))))
    ∧ (∀ p, o.instr = .vsel c t d a b p → GivesElements s key o t fun j => some (if active o.pa t j then el t o.va j else el t o.vb j, 0))
    ∧ (∀ g, o.instr = .vbcast c t d g → GivesElements s key o t fun _ => some (o.sa.toNat % 2 ^ (if t = .t6 then 6 else tyBits t), 0))
    ∧ (∀ (src : Ty) (part : Fin 16), o.instr = .vcvt c t d a src part x → GivesElements s key o t fun j =>
      if src.count < t.count then
        (if part.val * src.count ≤ j ∧ j < (part.val + 1) * src.count then some (convert src t rm x.sat (el src o.va (j - part.val * src.count))) else none)
      else some (convert src t rm x.sat (el src o.va (if t.count < src.count then part.val * t.count + j else j))))
    ∧ (∀ (w : Ty) (part wb : Bool) (i : Nat → Nat), wideTy t = some w → i = (fun j => part.toNat * w.count + j) →
      ((t.isInt = true → ∀ v : Nat → Int, v = (fun j => if wb then intOf w (el w o.va j) else intOf t (el t o.va (i j))) →
        (o.instr = .vwadd c t d a b part wb x → GivesElements s key o w fun j => some (intResult w x.sat (v j + intOf t (el t o.vb (i j)))))
        ∧ (o.instr = .vwmul c t d a b part wb x → GivesElements s key o w fun j => some (intResult w x.sat (v j * intOf t (el t o.vb (i j))))))
      ∧ (t = .bf16 → ∀ v : Nat → Nat, v = (fun j => if wb then el w o.va j else el t o.va (i j) * 2 ^ 16) →
        (o.instr = .vwadd c t d a b part wb x → GivesElements s key o w fun j => some (fpAdd 23 rm (v j) (el t o.vb (i j) * 2 ^ 16)))
        ∧ (o.instr = .vwmul c t d a b part wb x → GivesElements s key o w fun j => some (fpMul 23 rm (v j) (el t o.vb (i j) * 2 ^ 16))))))
    ∧ (∀ g : Nat, g = (if tyBits t = 8 then 4 else 2) → o.instr = .vdot c t d a b x →
      (t.isInt = true → GivesElements s key o .i32 fun j => some (intResult .i32 x.sat (intOf .i32 (el .i32 o.vd j)
        + ((List.range g).map fun k => intOf t (el t o.va (g * j + k)) * intOf t (el t o.vb (g * j + k))).sum)))
      ∧ (t = .bf16 → GivesElements s key o .f32 fun j =>
        some (dotFp rm (el .f32 o.vd j) ((List.range g).map fun k => (el t o.va (g * j + k), el t o.vb (g * j + k))))))
    ∧ (∀ (op : ScanOp) (f : Nat → Nat → Nat × Nat) (z : Nat) (run : Nat → Nat), o.instr = .vscan c op t d a x →
      f = (match op with | .add => arith2 .add t x.sat rm | .max => arith2 .max t x.sat rm) →
      z = (match op, t.isInt with | .add, true => 0 | .max, true => (tyMin t % 2 ^ tyBits t).toNat | .add, false => zeroBits fr true | .max, false => infBits fr true) →
      run = (fun j => (List.range j).foldl (fun q i => if active o.mask t i then (f q (el t o.va i)).1 else q) z) →
      (t.isInt = true ∨ t = .f32 ∨ t = .bf16) → GivesElements s key o t fun j => some (f (run j) (el t o.va j)))
    ∧ (o.instr = .vperm c t d a b → GivesElements s key o t fun j => some (el t o.va (el t o.vb j % t.count), 0))
    ∧ (∀ m, o.instr = .vshuf c t d a b m → GivesElements s key o t fun j =>
      let pick (k : Nat) : Nat := if j % 2 = 0 then el t o.va k else el t o.vb k
      let both (k : Nat) : Nat := if k < t.count then el t o.va k else el t o.vb (k - t.count)
      some (match m with | .lo => pick (j / 2) | .hi => pick (j / 2 + t.count / 2) | .ev => both (2 * j) | .od => both (2 * j + 1), 0))
    ∧ (∀ sh : BitVec 9, o.instr = .vslide c t d a b sh → GivesElements s key o t fun j =>
      some (if (j : Int) + sh.toInt < 0 then el t o.vb (j + sh.toInt + t.count).toNat
        else if (j : Int) + sh.toInt < t.count then el t o.va (j + sh.toInt).toNat else el t o.vb (j + sh.toInt - t.count).toNat, 0))
    ∧ (∀ (w16 : Bool) (k : Nat), k = (if w16 then 2 else 1) →
      (o.instr = .vbs wt t d a w16 r → ∀ (ms : List Int) (e f : Nat), bsEncode (8 * k) rmr ((List.range 64).map fun j => unpack 23 (el .f32 o.va j)) = (ms, e, f) →
        runVector s key o = finishWrite u key o
          (((ms.flatMap fun m => bytesOfNat k (m % 2 ^ (8 * k)).toNat) ++ bytesOfNat 8 e).zip (List.range (64 * k + 8)) |>.map fun p => (viewBase o.vd * 64 + p.2, p.1)) f)
      ∧ (∀ bs : List Byte, o.instr = .vunbs c t d a w16 → bs = (readStore u key o.ctx (rangeOffs (viewRows o.va (64 * k + 8)))).1 →
        GivesElements s key o .f32 fun j => some (bsDecode (8 * k) (bs.getD (64 * k) 0).toNat (signedOf (8 * k) (natOfBytes ((bs.drop (k * j)).take k))))))
    ∧ (∀ (k : Cond) (p : Fin 8) (res : Nat → Bool × Nat), o.instr = .vcmp c k t p a b → t ≠ .i4 →
      res = (fun j => if t.isInt then (integerCompare k (tyBits t) (el t o.va j) (el t o.vb j), 0) else fpCmp fr k (el t o.va j) (el t o.vb j)) →
      (t.isInt = true ∨ t = .f32 ∨ t = .bf16) → ∃ m, runVector s key o
        = (finishWrite u key o [] ((List.range t.count).foldl (fun g i => if active o.mask t i then g ||| (res i).2 else g) 0)).modCtx key o.ctx (fun k => k.writeP p m)
        ∧ ∀ j < 256, m.getLsbD j = if active o.mask t (j / tyBytes t) then (res (j / tyBytes t)).1 else ((s.ctx key o.ctx).readP p).getLsbD j)
    ∧ (∀ (p : Fin 8) (q w : Use (Fin 8)),
      (o.instr = .vpand c t p q w → ∃ m, runVector s key o = u.modCtx key o.ctx (fun k => k.writeP p m)
        ∧ ∀ j < 256, m.getLsbD j = if o.mask.getLsbD j then o.pa.getLsbD j && o.pb.getLsbD j else ((s.ctx key o.ctx).readP p).getLsbD j)
      ∧ (o.instr = .vpor c t p q w → ∃ m, runVector s key o = u.modCtx key o.ctx (fun k => k.writeP p m)
        ∧ ∀ j < 256, m.getLsbD j = if o.mask.getLsbD j then o.pa.getLsbD j || o.pb.getLsbD j else ((s.ctx key o.ctx).readP p).getLsbD j)
      ∧ (o.instr = .vpnot c t p q → ∃ m, runVector s key o = u.modCtx key o.ctx (fun k => k.writeP p m)
        ∧ ∀ j < 256, m.getLsbD j = if o.mask.getLsbD j then !o.pa.getLsbD j else ((s.ctx key o.ctx).readP p).getLsbD j)
      ∧ (o.instr = .vpcnt c t q → runVector s key o
        = pushQ4 u key o.ctx (BitVec.ofNat 64 ((List.range 256).countP fun j => o.pa.getLsbD j && o.mask.getLsbD j))))
    ∧ (∀ idx : BitVec 9, o.instr = .vext wt t a idx → runVector s key o = pushQ4 (finishWrite u key o [] 0) key o.ctx
      (if t.isInt then BitVec.ofInt 64 (intOf t (el t o.va idx.toNat)) else BitVec.ofNat 64 (if t = .t6 then el t o.va idx.toNat % 64 else el t o.va idx.toNat)))
    ∧ (∀ (op : RedOp) (on : List Nat), o.instr = .vred c op t a r → on = (List.range t.count).filter (active o.mask t) →
      (t.isInt = true → runVector s key o = pushQ4 (finishWrite u key o [] 0) key o.ctx (match op with
        | .add => BitVec.ofInt 64 (on.map fun j => intOf t (el t o.va j)).sum
        | .max => BitVec.ofInt 64 (on.foldl (fun m j => max m (intOf t (el t o.va j))) (tyMin t))
        | .min => BitVec.ofInt 64 (on.foldl (fun m j => min m (intOf t (el t o.va j))) (tyMax t))
        | .and => BitVec.ofInt 64 (intOf t (on.foldl (fun m j => m &&& el t o.va j) (2 ^ tyBits t - 1)))
        | .or => BitVec.ofInt 64 (intOf t (on.foldl (fun m j => m ||| el t o.va j) 0))))
      ∧ ((t = .f32 ∨ t = .bf16) → op = .add ∨ op = .max ∨ op = .min →
        ∀ n, n = treeNode (match op with | .max => fpMinMax 23 true | .min => fpMinMax 23 false | _ => fpAdd 23 rmr)
          (fun j => if active o.mask t j then (if t = .bf16 then el t o.va j * 2 ^ 16 else el t o.va j)
            else match op with | .max => infBits 23 true | .min => infBits 23 false | _ => zeroBits 23 true) (if t = .bf16 then 7 else 6) 0 →
        runVector s key o = pushQ4 (finishWrite u key o [] n.2) key o.ctx (BitVec.ofNat 64 n.1)))

/-- What a matrix instruction leaves when the MXU has taken it (R263, R387, R390 to R393, R395, R396, R401 to R403): MMA, MMA.RA and MMAR write the
accumulator from the rows of A and the columns of B that they have read, integers exactly modulo 2^32, the others one K-group after another;
block-scaled ones one block after another; MZERO and MACC write theirs; and MEPI leaves an entry in the epilogue buffer with 32 rows, each with its
address and its 32 converted codes packed in their order, which the buffer then stores. An instruction whose task was killed writes nothing. -/
def Obligations.MatrixElements : Prop :=
  (∀ (s u : State) (key : Nat) (e : VEntry) (o : VOp) (c : Com) (t : MmaTy) (d : Fin 16) (a : Use (Fin 16)) (b : Fin 16) (ov : Bool) (bs : Option (Use (Fin 16)))
      (acc : Nat → Nat → Nat) (f : List (List Byte) → Nat → Nat → Nat × Nat), e.dead = false → o = e.op → viewKind o.vd = .c →
    u = poisIf s key o.ctx (readPoison s key o || e.bpois) →
    acc = (fun i j => if ov then 0 else (elems .i32 ((viewTile u key o.ctx o.vd).getD i [])).getD j 0) →
    ∀ (col : Nat → List Nat), col = (fun j => elems (mmaElem t) ((e.bCols.getD j []).take (viewK o.bv))) →
    f = (fun rows i j =>
      if bs.isSome then mmaElemBs (acc i j) (elems (mmaElem t) (rows.getD i [])) (col j)
        (((readStore u key o.ctx (rangeOffs [(viewBase o.vc * 64, 128)])).1.drop (4 * i)).take (viewK o.bv / 64) |>.map (·.toNat))
        (((e.bCols.getD j []).drop (viewK o.bv)).take (viewK o.bv / 64) |>.map (·.toNat))
      else mmaElemAcc t (acc i j) (elems (mmaElem t) (rows.getD i [])) (col j)) →
    (o.instr = .mma c t d a b ov bs → runMatrix s key e = finishWrite u key o (placeAcc o.vd (tableRows (f e.rows))) (tableFlags (f e.rows)))
    ∧ (o.instr = .mmar c t d a b ov bs → runMatrix s key e = rotate (finishWrite u key o (placeAcc o.vd (tableRows (f e.rows))) (tableFlags (f e.rows))) key e)
    ∧ (∀ (g : Use Src) (k : Fin 16) (sp : Space) (fl : Flight), o.instr = .mmaRa c t d g b ov k sp → bs = none →
      ((u.core key).fly.find? fun x => e.tile == some x.id) = some fl →
      runMatrix s key e = finishWrite (u.modCore key fun c => { c with fly := c.fly.filter fun x => x.id ≠ fl.id }) key o
        (placeAcc o.vd (tableRows (f (raRows o t fl.got)))) (tableFlags (f (raRows o t fl.got)))))
  ∧ (∀ (t : MmaTy) (acc : Nat) (x y : List Nat), t = .i8 ∨ t = .i4 → mmaElemAcc t acc x y
    = (((intOf .i32 acc + ((x.zip y).map fun p : Nat × Nat => signedOf (if t = MmaTy.i8 then 8 else 4) p.1 * signedOf (if t = MmaTy.i8 then 8 else 4) p.2).sum)
      % 2 ^ 32 : Int).toNat, 0))
  ∧ (∀ (t : MmaTy) (acc : Nat), t ≠ .i8 → t ≠ .i4 → mmaElemAcc t acc [] [] = (acc, 0)
    ∧ ∀ x1 x2 y1 y2 : List Nat, x1.length = mxuGroup t → y1.length = mxuGroup t →
      ∀ r q, r = accAdd acc (groupSum ((x1.zip y1).map fun p => (mxuVal t p.1, mxuVal t p.2))) → q = mmaElemAcc t r.1 x2 y2 →
      mmaElemAcc t acc (x1 ++ x2) (y1 ++ y2) = (q.1, r.2 ||| q.2))
  ∧ (∀ (acc : Nat), mmaElemBs acc [] [] [] [] = (acc, 0)
    ∧ ∀ (x1 x2 y1 y2 xs ys : List Nat) (ex ey : Nat), x1.length = 64 → y1.length = 64 →
      ∀ r q, r = (if ex = 255 ∨ ey = 255 then (defNan 23, flNV) else
        accAdd acc (.fin ((x1.zip y1).map fun p => signedOf 8 p.1 * signedOf 8 p.2).sum ((ex : Int) + ey - 266)
          ((x1.zip y1).all fun p => negZero (signedOf 8 p.1, signedOf 8 p.2)))) → q = mmaElemBs r.1 x2 y2 xs ys →
      mmaElemBs acc (x1 ++ x2) (y1 ++ y2) (ex :: xs) (ey :: ys) = (q.1, r.2 ||| q.2))
  ∧ (∀ (s : State) (key : Nat) (e : VEntry), e.dead = true → isMmar e.op = false → runMatrix s key e = s)
  ∧ (∀ (s u : State) (key : Nat) (e : VEntry) (o : VOp) (c : Com) (t : Ty) (d : Fin 16), e.dead = false → o = e.op →
    u = poisIf s key o.ctx (readPoison s key o || e.bpois) →
    (o.instr = .mzero c t d → runMatrix s key e = finishWrite u key o (placeAcc o.vd (tableRows fun _ _ => (0, 0))) 0)
    ∧ (∀ (a : Use (Fin 16)) (sat : Bool) (v : Word → Nat → Nat → Nat) (f : Nat → Nat → Nat × Nat), o.instr = .macc c t d a sat → viewKind o.vd = .c →
      v = (fun w i j => (elems .i32 ((viewTile u key o.ctx w).getD i [])).getD j 0) →
      f = (fun i j => if t = .i32 then intResult .i32 sat (intOf .i32 (v o.vd i j) + intOf .i32 (v o.va i j)) else mxuSum (v o.vd i j) (v o.va i j)) →
      runMatrix s key e = finishWrite u key o (placeAcc o.vd (tableRows f)) (tableFlags f)))
  ∧ (∀ (w : Word) (f : Nat → Nat → Nat × Nat), viewKind w = .c → (placeAcc w (tableRows f)).length = 4096
    ∧ ∀ i < 32, ∀ j < 32, ∀ k < 4, (viewBase w * 64 + i * viewPitch w + 4 * j + k, BitVec.ofNat 8 ((f i j).1 / 2 ^ (8 * k))) ∈ placeAcc w (tableRows f))
  ∧ (∀ (s u v : State) (key : Nat) (e : VEntry) (o : VOp) (t : Ty) (scale : Nat) (cols : Bool) (r : Rnd) (f : Nat → Nat → Nat × Nat), e.dead = false → o = e.op →
    ((∃ c x g sp off k, o.instr = .mepi96 c t x g sp off k r ∧ scale = 0x3F800000 ∧ cols = k.isSome)
      ∨ (∃ c x g sp sc pitch k, o.instr = .mepi128 c t x g sp sc pitch k r ∧ scale = sc.toNat ∧ cols = k.isSome)) →
    viewKind o.vc = .c → u = poisIf s key o.ctx (readPoison s key o || e.bpois) →
    f = (fun i j => epiElem ((viewTy o.vc).getD .i32) t (if r.ro then r.rmo else o.rm) ((elems .i32 ((viewTile u key o.ctx o.vc).getD i [])).getD j 0) scale
      (if cols then some ((viewElems u key o.ctx o.vd .f32).getD j 0) else none)) →
    v = flagCtx (applyKills { u with nextId := u.nextId + 1 } key o) key o.ctx (tableFlags f) →
    runMatrix s key e = v.modQuad (quadOf key) fun q => { q with epi := q.epi ++ [
      { id := u.nextId, pos := posOf key, op := o, left := 0, kill := granMask (killsOf o), asid := (u.ctx key o.ctx).asid
        rows := (List.range 32).map fun i => { addr := (o.sa.toNat + i * o.sc.toNat) % 2 ^ 64, bytes := packRow t ((tableRows f).getD i []) } }] })
  ∧ (∀ (t : Ty) (w : Nat) (xs : List Nat), w = (if t = .t6 then 6 else tyBits t) → xs.length = 32 →
    (packRow t xs).length = 4 * w ∧ natOfBytes (packRow t xs) = ((List.range 32).map fun j => xs.getD j 0 % 2 ^ w * 2 ^ (w * j)).sum)

/-- R217. FENCE.cl, FENCE.mo and FENCE.sy make the wait of WT 01, 10 and 11: where it is not met the context stays before its instruction, and where
it is met they do nothing but end. CNTW waits until its one count has fallen to its level, and for nothing else. -/
def Obligations.FencesAndCountWaits : Prop :=
  (∀ (s : State) (p : Pred) (sc : Cls) (wt : Fin 4), (sc = .clu ∧ wt = 1) ∨ (sc = .mod ∧ wt = 2) ∨ (sc = .sys ∧ wt = 3) →
    Ready .any { pred := p, wt := 0 } s →
    exec (.fence p sc) s = (if s.wtMet wt then .next (completed s s) else .next (stay s))
    ∧ exec (.fence p sc) s = exec (.nop { pred := p, wt } .x64) s)
  ∧ (∀ (s : State) (c : Com) (k : Cls) (n : Fin 513), Ready .any c s →
    exec (.cntw c k n) s = (if s.cur.count k ≤ n.val then .next (completed s s) else .next (stay s)))

/-- R310. TRAP and BRK are 64 bits long, TRAP with its code in IMM24[7:0] and zero above it, BRK with IMM24 zero; each raises its fault, TRAP with its
code as DETAIL and BRK with 0, and freezes the context with the successor as its PC, which is the packet's NPC and where RESUME lets it go on; nothing
else is changed. -/
def Obligations.TrapAndBreak : Prop :=
  (∀ (c : Com) (code : BitVec 8) (w : Nat), (encode (.trap c code) = some w → w < 2 ^ 64 ∧ w / 2 ^ 40 = code.toNat ∧ w % 4 = 1 ∧ w / 4 % 256 = 0x0C)
    ∧ (encode (.brk c) = some w → w < 2 ^ 64 ∧ w / 2 ^ 40 = 0 ∧ w % 4 = 1 ∧ w / 4 % 256 = 0x0D))
  ∧ (∀ w : Nat, (w / 4 % 256 = 0x0C → (w % 4 ≠ 1 ∨ w / 2 ^ 48 % 2 ^ 16 ≠ 0) → ∃ e, decode w = .error e)
    ∧ (w / 4 % 256 = 0x0D → (w % 4 ≠ 1 ∨ w / 2 ^ 40 % 2 ^ 24 ≠ 0) → ∃ e, decode w = .error e))
  ∧ (∀ (s : State) (c : Com) (i : Instr) (code detail : Nat), Ready .any c s →
    ((∃ imm : BitVec 8, i = .trap c imm ∧ code = 13 ∧ detail = imm.toNat) ∨ (i = .brk c ∧ code = 14 ∧ detail = 0)) →
    ∃ t, exec i s = .next t ∧ (t.ctx s.focus s.act).st = .frozen ∧ (t.ctx s.focus s.act).fcode = BitVec.ofNat 8 code
      ∧ (t.ctx s.focus s.act).pc = s.succPc ∧ ((t.ctx s.focus s.act).packet).extractLsb' 0 8 = BitVec.ofNat 8 code
      ∧ ((t.ctx s.focus s.act).packet).extractLsb' 264 24 = BitVec.ofNat 24 detail
      ∧ ((t.ctx s.focus s.act).packet).extractLsb' 288 32 = s.succPc.setWidth 32
      ∧ ((unfreeze t s.focus s.act).ctx s.focus s.act).pc = s.succPc ∧ ((unfreeze t s.focus s.act).ctx s.focus s.act).st = .running
      ∧ { t with cores := s.cores } = s ∧ (∀ key, key ≠ s.focus → t.core key = s.core key)
      ∧ sameCore s.me (t.core s.focus) ∧ t.ctx s.focus (!s.act) = s.ctx s.focus (!s.act) ∧ sameCtx s.cur (t.ctx s.focus s.act))
end

