-- ==== Sys2Proof/Laws/Issue.lean ====
section
/-! SUPPORT. What the wrappers of issue do, once each: an instruction that is ready has its meaning; one that is not waits, falls through or
raises. Cite these instead of unfolding a wrapper. -/

namespace Sys2Proof.Laws

open Sys2Proof Sys2Proof.Machine

theorem issue_ready {w : Where} {c : Com} {s : State} {m : State → Exec (State × Flow)} (h : Ready w c s) :
    issue w c s m = settle s (match m s with
      | .ok r => .ok (countPmc r.1 s.focus (some s.act) 2 1, r.2)
      | .error e => .error e) := by
  obtain ⟨h1, h2, h3, h4, h5⟩ := h
  unfold issue
  simp only [blockFor, raiseIf, waitFor, h1, h2, h3, h4, h5, Bool.not_true, Bool.not_false, if_true, if_false, bind, Except.bind, pure, Except.pure]
  cases m s <;> simp

theorem issueFall_completes {w : Where} {c : Com} {s t : State} {m : State → Exec State} (h : Ready w c s) (hm : m s = .ok t) :
    issueFall w c s m = .next (completed s t) := by
  unfold issueFall
  rw [issue_ready h]
  simp [falls, hm, settle, completed, bind, Except.bind, pure, Except.pure]

theorem issue_completes {w : Where} {c : Com} {s t : State} {m : State → Exec (State × Flow)} (h : Ready w c s) (hm : m s = .ok (t, .fall)) :
    issue w c s m = .next (completed s t) := by
  rw [issue_ready h, hm]; rfl

theorem issue_jumps {w : Where} {c : Com} {s t : State} {pc : BitVec 15} {m : State → Exec (State × Flow)} (h : Ready w c s)
    (hm : m s = .ok (t, .jump pc)) : issue w c s m = .next (wentTo s t pc) := by
  rw [issue_ready h, hm]; rfl

theorem issue_placed {w : Where} {c : Com} {s t : State} {m : State → Exec (State × Flow)} (h : Ready w c s)
    (hm : m s = .ok (t, .placed)) : issue w c s m = .next (countPmc t s.focus (some s.act) 2 1) := by
  rw [issue_ready h, hm]; rfl

theorem issue_raises {w : Where} {c : Com} {s : State} {f : FaultInfo} {k : State → State} {m : State → Exec (State × Flow)} (h : Ready w c s)
    (hm : m s = .error (.raise f k)) : issue w c s m = .next (takeFault (k s) s.focus s.act f) := by
  rw [issue_ready h, hm]; rfl

theorem issueFall_raises {w : Where} {c : Com} {s : State} {f : FaultInfo} {k : State → State} {m : State → Exec State} (h : Ready w c s)
    (hm : m s = .error (.raise f k)) : issueFall w c s m = .next (takeFault (k s) s.focus s.act f) := by
  unfold issueFall
  refine issue_raises h ?_
  simp [falls, hm, bind, Except.bind]

theorem issueV_completes {p : Pred} {wt : Fin 4} {s t : State} {m : Mask → State → Exec State} (h : ReadyV p wt s)
    (hm : m (s.predMask p) s = .ok t) : issueV p wt s m = .next (retire t) := by
  obtain ⟨h1, h2, h3, h4, h5⟩ := h
  unfold issueV
  simp [blockFor, raiseIf, waitFor, vqRoom, h1, h2, h3, h4, h5, hm, settle, bind, Except.bind, pure, Except.pure]

theorem issueM_completes {c : Com} {s t : State} {m : State → Exec State} (h : ReadyM c s) (hm : m s = .ok t) :
    issueM c s m = .next (retire t) := by
  obtain ⟨⟨h1, h2, h3, h4, h5⟩, h6⟩ := h
  replace h6 : ¬ s.predMask c.pred = 0#256 := h6
  unfold issueM
  simp [blockFor, raiseIf, waitFor, vqRoom, h1, h2, h3, h4, h5, h6, hm, settle, bind, Except.bind, pure, Except.pure]

/-- Whatever an attempt gives, it settles in a next state. -/
theorem settle_next (s : State) (r : Exec (State × Flow)) : ∃ t, settle s r = .next t := by
  unfold settle
  split <;> exact ⟨_, rfl⟩

theorem issue_next (w : Where) (c : Com) (s : State) (m : State → Exec (State × Flow)) : ∃ t, issue w c s m = .next t := settle_next _ _

theorem issueFall_next (w : Where) (c : Com) (s : State) (m : State → Exec State) : ∃ t, issueFall w c s m = .next t := settle_next _ _

theorem issueV_next (p : Pred) (wt : Fin 4) (s : State) (m : Mask → State → Exec State) : ∃ t, issueV p wt s m = .next t := settle_next _ _

theorem issueM_next (c : Com) (s : State) (m : State → Exec State) : ∃ t, issueM c s m = .next t := settle_next _ _

end Sys2Proof.Laws
end

