-- ==== Sys2Proof/Laws/State.lean ====
section
/-! SUPPORT. What each update of the state leaves, field by field, and what it sets. Every lemma holds by unfolding the update. -/

namespace Sys2Proof.Machine

variable (s : State)

/-! ### setCore -/

@[simp] theorem State.setCore_modId (k : Nat) (x : Core) : (s.setCore k x).modId = s.modId := rfl
@[simp] theorem State.setCore_inPod (k : Nat) (x : Core) : (s.setCore k x).inPod = s.inPod := rfl
@[simp] theorem State.setCore_mem (k : Nat) (x : Core) : (s.setCore k x).mem = s.mem := rfl
@[simp] theorem State.setCore_poison (k : Nat) (x : Core) : (s.setCore k x).poison = s.poison := rfl
@[simp] theorem State.setCore_full (k : Nat) (x : Core) : (s.setCore k x).full = s.full := rfl
@[simp] theorem State.setCore_spmLive (k : Nat) (x : Core) : (s.setCore k x).spmLive = s.spmLive := rfl
@[simp] theorem State.setCore_marks (k : Nat) (x : Core) : (s.setCore k x).marks = s.marks := rfl
@[simp] theorem State.setCore_monitors (k : Nat) (x : Core) : (s.setCore k x).monitors = s.monitors := rfl
@[simp] theorem State.setCore_quads (k : Nat) (x : Core) : (s.setCore k x).quads = s.quads := rfl
@[simp] theorem State.setCore_clusters (k : Nat) (x : Core) : (s.setCore k x).clusters = s.clusters := rfl
@[simp] theorem State.setCore_towers (k : Nat) (x : Core) : (s.setCore k x).towers = s.towers := rfl
@[simp] theorem State.setCore_groups (k : Nat) (x : Core) : (s.setCore k x).groups = s.groups := rfl
@[simp] theorem State.setCore_dram (k : Nat) (x : Core) : (s.setCore k x).dram = s.dram := rfl
@[simp] theorem State.setCore_ports (k : Nat) (x : Core) : (s.setCore k x).ports = s.ports := rfl
@[simp] theorem State.setCore_regs (k : Nat) (x : Core) : (s.setCore k x).regs = s.regs := rfl
@[simp] theorem State.setCore_dommap (k : Nat) (x : Core) : (s.setCore k x).dommap = s.dommap := rfl
@[simp] theorem State.setCore_fabric (k : Nat) (x : Core) : (s.setCore k x).fabric = s.fabric := rfl
@[simp] theorem State.setCore_groupOps (k : Nat) (x : Core) : (s.setCore k x).groupOps = s.groupOps := rfl
@[simp] theorem State.setCore_releases (k : Nat) (x : Core) : (s.setCore k x).releases = s.releases := rfl
@[simp] theorem State.setCore_refusals (k : Nat) (x : Core) : (s.setCore k x).refusals = s.refusals := rfl
@[simp] theorem State.setCore_nextId (k : Nat) (x : Core) : (s.setCore k x).nextId = s.nextId := rfl
@[simp] theorem State.setCore_queues (k : Nat) (x : Core) : (s.setCore k x).queues = s.queues := rfl
@[simp] theorem State.setCore_events (k : Nat) (x : Core) : (s.setCore k x).events = s.events := rfl
@[simp] theorem State.setCore_slots (k : Nat) (x : Core) : (s.setCore k x).slots = s.slots := rfl
@[simp] theorem State.setCore_evsel (k : Nat) (x : Core) : (s.setCore k x).evsel = s.evsel := rfl
@[simp] theorem State.setCore_held (k : Nat) (x : Core) : (s.setCore k x).held = s.held := rfl
@[simp] theorem State.setCore_hldrop (k : Nat) (x : Core) : (s.setCore k x).hldrop = s.hldrop := rfl
@[simp] theorem State.setCore_links (k : Nat) (x : Core) : (s.setCore k x).links = s.links := rfl
@[simp] theorem State.setCore_clsel (k : Nat) (x : Core) : (s.setCore k x).clsel = s.clsel := rfl
@[simp] theorem State.setCore_featLower (k : Nat) (x : Core) : (s.setCore k x).featLower = s.featLower := rfl
@[simp] theorem State.setCore_featUpper (k : Nat) (x : Core) : (s.setCore k x).featUpper = s.featUpper := rfl
@[simp] theorem State.setCore_featLowerSet (k : Nat) (x : Core) : (s.setCore k x).featLowerSet = s.featLowerSet := rfl
@[simp] theorem State.setCore_featUpperSet (k : Nat) (x : Core) : (s.setCore k x).featUpperSet = s.featUpperSet := rfl
@[simp] theorem State.setCore_featAcc (k : Nat) (x : Core) : (s.setCore k x).featAcc = s.featAcc := rfl
@[simp] theorem State.setCore_wiped (k : Nat) (x : Core) : (s.setCore k x).wiped = s.wiped := rfl
@[simp] theorem State.setCore_go (k : Nat) (x : Core) : (s.setCore k x).go = s.go := rfl
@[simp] theorem State.setCore_measured (k : Nat) (x : Core) : (s.setCore k x).measured = s.measured := rfl
@[simp] theorem State.setCore_bootReady (k : Nat) (x : Core) : (s.setCore k x).bootReady = s.bootReady := rfl
@[simp] theorem State.setCore_fwWritten (k : Nat) (x : Core) : (s.setCore k x).fwWritten = s.fwWritten := rfl
@[simp] theorem State.setCore_lock (k : Nat) (x : Core) : (s.setCore k x).lock = s.lock := rfl
@[simp] theorem State.setCore_lockLimit (k : Nat) (x : Core) : (s.setCore k x).lockLimit = s.lockLimit := rfl
@[simp] theorem State.setCore_lockBase (k : Nat) (x : Core) : (s.setCore k x).lockBase = s.lockBase := rfl
@[simp] theorem State.setCore_alarm (k : Nat) (x : Core) : (s.setCore k x).alarm = s.alarm := rfl
@[simp] theorem State.setCore_alarmAct (k : Nat) (x : Core) : (s.setCore k x).alarmAct = s.alarmAct := rfl
@[simp] theorem State.setCore_atBusy (k : Nat) (x : Core) : (s.setCore k x).atBusy = s.atBusy := rfl
@[simp] theorem State.setCore_atErr (k : Nat) (x : Core) : (s.setCore k x).atErr = s.atErr := rfl
@[simp] theorem State.setCore_nonce (k : Nat) (x : Core) : (s.setCore k x).nonce = s.nonce := rfl
@[simp] theorem State.setCore_report (k : Nat) (x : Core) : (s.setCore k x).report = s.report := rfl
@[simp] theorem State.setCore_m1 (k : Nat) (x : Core) : (s.setCore k x).m1 = s.m1 := rfl
@[simp] theorem State.setCore_s1 (k : Nat) (x : Core) : (s.setCore k x).s1 = s.s1 := rfl
@[simp] theorem State.setCore_cert (k : Nat) (x : Core) : (s.setCore k x).cert = s.cert := rfl
@[simp] theorem State.setCore_pk0 (k : Nat) (x : Core) : (s.setCore k x).pk0 = s.pk0 := rfl
@[simp] theorem State.setCore_m2 (k : Nat) (x : Core) : (s.setCore k x).m2 = s.m2 := rfl
@[simp] theorem State.setCore_s2 (k : Nat) (x : Core) : (s.setCore k x).s2 = s.s2 := rfl
@[simp] theorem State.setCore_cert2 (k : Nat) (x : Core) : (s.setCore k x).cert2 = s.cert2 := rfl
@[simp] theorem State.setCore_keysErased (k : Nat) (x : Core) : (s.setCore k x).keysErased = s.keysErased := rfl
@[simp] theorem State.setCore_fuses (k : Nat) (x : Core) : (s.setCore k x).fuses = s.fuses := rfl
@[simp] theorem State.setCore_lcErr (k : Nat) (x : Core) : (s.setCore k x).lcErr = s.lcErr := rfl
@[simp] theorem State.setCore_lcTarget (k : Nat) (x : Core) : (s.setCore k x).lcTarget = s.lcTarget := rfl
@[simp] theorem State.setCore_errCor (k : Nat) (x : Core) : (s.setCore k x).errCor = s.errCor := rfl
@[simp] theorem State.setCore_errUnc (k : Nat) (x : Core) : (s.setCore k x).errUnc = s.errUnc := rfl
@[simp] theorem State.setCore_xlbase (k : Nat) (x : Core) : (s.setCore k x).xlbase = s.xlbase := rfl
@[simp] theorem State.setCore_podstag (k : Nat) (x : Core) : (s.setCore k x).podstag = s.podstag := rfl
@[simp] theorem State.setCore_podMemb (k : Nat) (x : Core) : (s.setCore k x).podMemb = s.podMemb := rfl
@[simp] theorem State.setCore_podg (k : Nat) (x : Core) : (s.setCore k x).podg = s.podg := rfl
@[simp] theorem State.setCore_podEn (k : Nat) (x : Core) : (s.setCore k x).podEn = s.podEn := rfl
@[simp] theorem State.setCore_halted (k : Nat) (x : Core) : (s.setCore k x).halted = s.halted := rfl
@[simp] theorem State.setCore_tb (k : Nat) (x : Core) : (s.setCore k x).tb = s.tb := rfl
@[simp] theorem State.setCore_tbCopies (k : Nat) (x : Core) : (s.setCore k x).tbCopies = s.tbCopies := rfl
@[simp] theorem State.setCore_tbLock (k : Nat) (x : Core) : (s.setCore k x).tbLock = s.tbLock := rfl
@[simp] theorem State.setCore_tbOffs (k : Nat) (x : Core) : (s.setCore k x).tbOffs = s.tbOffs := rfl
@[simp] theorem State.setCore_tbSlow (k : Nat) (x : Core) : (s.setCore k x).tbSlow = s.tbSlow := rfl
@[simp] theorem State.setCore_msix (k : Nat) (x : Core) : (s.setCore k x).msix = s.msix := rfl
@[simp] theorem State.setCore_hostMem (k : Nat) (x : Core) : (s.setCore k x).hostMem = s.hostMem := rfl
@[simp] theorem State.setCore_hostRead (k : Nat) (x : Core) : (s.setCore k x).hostRead = s.hostRead := rfl
@[simp] theorem State.setCore_hostPois (k : Nat) (x : Core) : (s.setCore k x).hostPois = s.hostPois := rfl
@[simp] theorem State.setCore_now (k : Nat) (x : Core) : (s.setCore k x).now = s.now := rfl
@[simp] theorem State.setCore_halfNs (k : Nat) (x : Core) : (s.setCore k x).halfNs = s.halfNs := rfl
@[simp] theorem State.setCore_focus (k : Nat) (x : Core) : (s.setCore k x).focus = s.focus := rfl
@[simp] theorem State.setCore_agenda (k : Nat) (x : Core) : (s.setCore k x).agenda = s.agenda := rfl
@[simp] theorem State.setCore_tick (k : Nat) (x : Core) : (s.setCore k x).tick = s.tick := rfl

/-! ### setQuad -/

@[simp] theorem State.setQuad_modId (k : Nat) (x : Quad) : (s.setQuad k x).modId = s.modId := rfl
@[simp] theorem State.setQuad_inPod (k : Nat) (x : Quad) : (s.setQuad k x).inPod = s.inPod := rfl
@[simp] theorem State.setQuad_mem (k : Nat) (x : Quad) : (s.setQuad k x).mem = s.mem := rfl
@[simp] theorem State.setQuad_poison (k : Nat) (x : Quad) : (s.setQuad k x).poison = s.poison := rfl
@[simp] theorem State.setQuad_full (k : Nat) (x : Quad) : (s.setQuad k x).full = s.full := rfl
@[simp] theorem State.setQuad_spmLive (k : Nat) (x : Quad) : (s.setQuad k x).spmLive = s.spmLive := rfl
@[simp] theorem State.setQuad_marks (k : Nat) (x : Quad) : (s.setQuad k x).marks = s.marks := rfl
@[simp] theorem State.setQuad_monitors (k : Nat) (x : Quad) : (s.setQuad k x).monitors = s.monitors := rfl
@[simp] theorem State.setQuad_cores (k : Nat) (x : Quad) : (s.setQuad k x).cores = s.cores := rfl
@[simp] theorem State.setQuad_clusters (k : Nat) (x : Quad) : (s.setQuad k x).clusters = s.clusters := rfl
@[simp] theorem State.setQuad_towers (k : Nat) (x : Quad) : (s.setQuad k x).towers = s.towers := rfl
@[simp] theorem State.setQuad_groups (k : Nat) (x : Quad) : (s.setQuad k x).groups = s.groups := rfl
@[simp] theorem State.setQuad_dram (k : Nat) (x : Quad) : (s.setQuad k x).dram = s.dram := rfl
@[simp] theorem State.setQuad_ports (k : Nat) (x : Quad) : (s.setQuad k x).ports = s.ports := rfl
@[simp] theorem State.setQuad_regs (k : Nat) (x : Quad) : (s.setQuad k x).regs = s.regs := rfl
@[simp] theorem State.setQuad_dommap (k : Nat) (x : Quad) : (s.setQuad k x).dommap = s.dommap := rfl
@[simp] theorem State.setQuad_fabric (k : Nat) (x : Quad) : (s.setQuad k x).fabric = s.fabric := rfl
@[simp] theorem State.setQuad_groupOps (k : Nat) (x : Quad) : (s.setQuad k x).groupOps = s.groupOps := rfl
@[simp] theorem State.setQuad_releases (k : Nat) (x : Quad) : (s.setQuad k x).releases = s.releases := rfl
@[simp] theorem State.setQuad_refusals (k : Nat) (x : Quad) : (s.setQuad k x).refusals = s.refusals := rfl
@[simp] theorem State.setQuad_nextId (k : Nat) (x : Quad) : (s.setQuad k x).nextId = s.nextId := rfl
@[simp] theorem State.setQuad_queues (k : Nat) (x : Quad) : (s.setQuad k x).queues = s.queues := rfl
@[simp] theorem State.setQuad_events (k : Nat) (x : Quad) : (s.setQuad k x).events = s.events := rfl
@[simp] theorem State.setQuad_slots (k : Nat) (x : Quad) : (s.setQuad k x).slots = s.slots := rfl
@[simp] theorem State.setQuad_evsel (k : Nat) (x : Quad) : (s.setQuad k x).evsel = s.evsel := rfl
@[simp] theorem State.setQuad_held (k : Nat) (x : Quad) : (s.setQuad k x).held = s.held := rfl
@[simp] theorem State.setQuad_hldrop (k : Nat) (x : Quad) : (s.setQuad k x).hldrop = s.hldrop := rfl
@[simp] theorem State.setQuad_links (k : Nat) (x : Quad) : (s.setQuad k x).links = s.links := rfl
@[simp] theorem State.setQuad_clsel (k : Nat) (x : Quad) : (s.setQuad k x).clsel = s.clsel := rfl
@[simp] theorem State.setQuad_featLower (k : Nat) (x : Quad) : (s.setQuad k x).featLower = s.featLower := rfl
@[simp] theorem State.setQuad_featUpper (k : Nat) (x : Quad) : (s.setQuad k x).featUpper = s.featUpper := rfl
@[simp] theorem State.setQuad_featLowerSet (k : Nat) (x : Quad) : (s.setQuad k x).featLowerSet = s.featLowerSet := rfl
@[simp] theorem State.setQuad_featUpperSet (k : Nat) (x : Quad) : (s.setQuad k x).featUpperSet = s.featUpperSet := rfl
@[simp] theorem State.setQuad_featAcc (k : Nat) (x : Quad) : (s.setQuad k x).featAcc = s.featAcc := rfl
@[simp] theorem State.setQuad_wiped (k : Nat) (x : Quad) : (s.setQuad k x).wiped = s.wiped := rfl
@[simp] theorem State.setQuad_go (k : Nat) (x : Quad) : (s.setQuad k x).go = s.go := rfl
@[simp] theorem State.setQuad_measured (k : Nat) (x : Quad) : (s.setQuad k x).measured = s.measured := rfl
@[simp] theorem State.setQuad_bootReady (k : Nat) (x : Quad) : (s.setQuad k x).bootReady = s.bootReady := rfl
@[simp] theorem State.setQuad_fwWritten (k : Nat) (x : Quad) : (s.setQuad k x).fwWritten = s.fwWritten := rfl
@[simp] theorem State.setQuad_lock (k : Nat) (x : Quad) : (s.setQuad k x).lock = s.lock := rfl
@[simp] theorem State.setQuad_lockLimit (k : Nat) (x : Quad) : (s.setQuad k x).lockLimit = s.lockLimit := rfl
@[simp] theorem State.setQuad_lockBase (k : Nat) (x : Quad) : (s.setQuad k x).lockBase = s.lockBase := rfl
@[simp] theorem State.setQuad_alarm (k : Nat) (x : Quad) : (s.setQuad k x).alarm = s.alarm := rfl
@[simp] theorem State.setQuad_alarmAct (k : Nat) (x : Quad) : (s.setQuad k x).alarmAct = s.alarmAct := rfl
@[simp] theorem State.setQuad_atBusy (k : Nat) (x : Quad) : (s.setQuad k x).atBusy = s.atBusy := rfl
@[simp] theorem State.setQuad_atErr (k : Nat) (x : Quad) : (s.setQuad k x).atErr = s.atErr := rfl
@[simp] theorem State.setQuad_nonce (k : Nat) (x : Quad) : (s.setQuad k x).nonce = s.nonce := rfl
@[simp] theorem State.setQuad_report (k : Nat) (x : Quad) : (s.setQuad k x).report = s.report := rfl
@[simp] theorem State.setQuad_m1 (k : Nat) (x : Quad) : (s.setQuad k x).m1 = s.m1 := rfl
@[simp] theorem State.setQuad_s1 (k : Nat) (x : Quad) : (s.setQuad k x).s1 = s.s1 := rfl
@[simp] theorem State.setQuad_cert (k : Nat) (x : Quad) : (s.setQuad k x).cert = s.cert := rfl
@[simp] theorem State.setQuad_pk0 (k : Nat) (x : Quad) : (s.setQuad k x).pk0 = s.pk0 := rfl
@[simp] theorem State.setQuad_m2 (k : Nat) (x : Quad) : (s.setQuad k x).m2 = s.m2 := rfl
@[simp] theorem State.setQuad_s2 (k : Nat) (x : Quad) : (s.setQuad k x).s2 = s.s2 := rfl
@[simp] theorem State.setQuad_cert2 (k : Nat) (x : Quad) : (s.setQuad k x).cert2 = s.cert2 := rfl
@[simp] theorem State.setQuad_keysErased (k : Nat) (x : Quad) : (s.setQuad k x).keysErased = s.keysErased := rfl
@[simp] theorem State.setQuad_fuses (k : Nat) (x : Quad) : (s.setQuad k x).fuses = s.fuses := rfl
@[simp] theorem State.setQuad_lcErr (k : Nat) (x : Quad) : (s.setQuad k x).lcErr = s.lcErr := rfl
@[simp] theorem State.setQuad_lcTarget (k : Nat) (x : Quad) : (s.setQuad k x).lcTarget = s.lcTarget := rfl
@[simp] theorem State.setQuad_errCor (k : Nat) (x : Quad) : (s.setQuad k x).errCor = s.errCor := rfl
@[simp] theorem State.setQuad_errUnc (k : Nat) (x : Quad) : (s.setQuad k x).errUnc = s.errUnc := rfl
@[simp] theorem State.setQuad_xlbase (k : Nat) (x : Quad) : (s.setQuad k x).xlbase = s.xlbase := rfl
@[simp] theorem State.setQuad_podstag (k : Nat) (x : Quad) : (s.setQuad k x).podstag = s.podstag := rfl
@[simp] theorem State.setQuad_podMemb (k : Nat) (x : Quad) : (s.setQuad k x).podMemb = s.podMemb := rfl
@[simp] theorem State.setQuad_podg (k : Nat) (x : Quad) : (s.setQuad k x).podg = s.podg := rfl
@[simp] theorem State.setQuad_podEn (k : Nat) (x : Quad) : (s.setQuad k x).podEn = s.podEn := rfl
@[simp] theorem State.setQuad_halted (k : Nat) (x : Quad) : (s.setQuad k x).halted = s.halted := rfl
@[simp] theorem State.setQuad_tb (k : Nat) (x : Quad) : (s.setQuad k x).tb = s.tb := rfl
@[simp] theorem State.setQuad_tbCopies (k : Nat) (x : Quad) : (s.setQuad k x).tbCopies = s.tbCopies := rfl
@[simp] theorem State.setQuad_tbLock (k : Nat) (x : Quad) : (s.setQuad k x).tbLock = s.tbLock := rfl
@[simp] theorem State.setQuad_tbOffs (k : Nat) (x : Quad) : (s.setQuad k x).tbOffs = s.tbOffs := rfl
@[simp] theorem State.setQuad_tbSlow (k : Nat) (x : Quad) : (s.setQuad k x).tbSlow = s.tbSlow := rfl
@[simp] theorem State.setQuad_msix (k : Nat) (x : Quad) : (s.setQuad k x).msix = s.msix := rfl
@[simp] theorem State.setQuad_hostMem (k : Nat) (x : Quad) : (s.setQuad k x).hostMem = s.hostMem := rfl
@[simp] theorem State.setQuad_hostRead (k : Nat) (x : Quad) : (s.setQuad k x).hostRead = s.hostRead := rfl
@[simp] theorem State.setQuad_hostPois (k : Nat) (x : Quad) : (s.setQuad k x).hostPois = s.hostPois := rfl
@[simp] theorem State.setQuad_now (k : Nat) (x : Quad) : (s.setQuad k x).now = s.now := rfl
@[simp] theorem State.setQuad_halfNs (k : Nat) (x : Quad) : (s.setQuad k x).halfNs = s.halfNs := rfl
@[simp] theorem State.setQuad_focus (k : Nat) (x : Quad) : (s.setQuad k x).focus = s.focus := rfl
@[simp] theorem State.setQuad_agenda (k : Nat) (x : Quad) : (s.setQuad k x).agenda = s.agenda := rfl
@[simp] theorem State.setQuad_tick (k : Nat) (x : Quad) : (s.setQuad k x).tick = s.tick := rfl

/-! ### setCluster -/

@[simp] theorem State.setCluster_modId (k : Nat) (x : Cluster) : (s.setCluster k x).modId = s.modId := rfl
@[simp] theorem State.setCluster_inPod (k : Nat) (x : Cluster) : (s.setCluster k x).inPod = s.inPod := rfl
@[simp] theorem State.setCluster_mem (k : Nat) (x : Cluster) : (s.setCluster k x).mem = s.mem := rfl
@[simp] theorem State.setCluster_poison (k : Nat) (x : Cluster) : (s.setCluster k x).poison = s.poison := rfl
@[simp] theorem State.setCluster_full (k : Nat) (x : Cluster) : (s.setCluster k x).full = s.full := rfl
@[simp] theorem State.setCluster_spmLive (k : Nat) (x : Cluster) : (s.setCluster k x).spmLive = s.spmLive := rfl
@[simp] theorem State.setCluster_marks (k : Nat) (x : Cluster) : (s.setCluster k x).marks = s.marks := rfl
@[simp] theorem State.setCluster_monitors (k : Nat) (x : Cluster) : (s.setCluster k x).monitors = s.monitors := rfl
@[simp] theorem State.setCluster_cores (k : Nat) (x : Cluster) : (s.setCluster k x).cores = s.cores := rfl
@[simp] theorem State.setCluster_quads (k : Nat) (x : Cluster) : (s.setCluster k x).quads = s.quads := rfl
@[simp] theorem State.setCluster_towers (k : Nat) (x : Cluster) : (s.setCluster k x).towers = s.towers := rfl
@[simp] theorem State.setCluster_groups (k : Nat) (x : Cluster) : (s.setCluster k x).groups = s.groups := rfl
@[simp] theorem State.setCluster_dram (k : Nat) (x : Cluster) : (s.setCluster k x).dram = s.dram := rfl
@[simp] theorem State.setCluster_ports (k : Nat) (x : Cluster) : (s.setCluster k x).ports = s.ports := rfl
@[simp] theorem State.setCluster_regs (k : Nat) (x : Cluster) : (s.setCluster k x).regs = s.regs := rfl
@[simp] theorem State.setCluster_dommap (k : Nat) (x : Cluster) : (s.setCluster k x).dommap = s.dommap := rfl
@[simp] theorem State.setCluster_fabric (k : Nat) (x : Cluster) : (s.setCluster k x).fabric = s.fabric := rfl
@[simp] theorem State.setCluster_groupOps (k : Nat) (x : Cluster) : (s.setCluster k x).groupOps = s.groupOps := rfl
@[simp] theorem State.setCluster_releases (k : Nat) (x : Cluster) : (s.setCluster k x).releases = s.releases := rfl
@[simp] theorem State.setCluster_refusals (k : Nat) (x : Cluster) : (s.setCluster k x).refusals = s.refusals := rfl
@[simp] theorem State.setCluster_nextId (k : Nat) (x : Cluster) : (s.setCluster k x).nextId = s.nextId := rfl
@[simp] theorem State.setCluster_queues (k : Nat) (x : Cluster) : (s.setCluster k x).queues = s.queues := rfl
@[simp] theorem State.setCluster_events (k : Nat) (x : Cluster) : (s.setCluster k x).events = s.events := rfl
@[simp] theorem State.setCluster_slots (k : Nat) (x : Cluster) : (s.setCluster k x).slots = s.slots := rfl
@[simp] theorem State.setCluster_evsel (k : Nat) (x : Cluster) : (s.setCluster k x).evsel = s.evsel := rfl
@[simp] theorem State.setCluster_held (k : Nat) (x : Cluster) : (s.setCluster k x).held = s.held := rfl
@[simp] theorem State.setCluster_hldrop (k : Nat) (x : Cluster) : (s.setCluster k x).hldrop = s.hldrop := rfl
@[simp] theorem State.setCluster_links (k : Nat) (x : Cluster) : (s.setCluster k x).links = s.links := rfl
@[simp] theorem State.setCluster_clsel (k : Nat) (x : Cluster) : (s.setCluster k x).clsel = s.clsel := rfl
@[simp] theorem State.setCluster_featLower (k : Nat) (x : Cluster) : (s.setCluster k x).featLower = s.featLower := rfl
@[simp] theorem State.setCluster_featUpper (k : Nat) (x : Cluster) : (s.setCluster k x).featUpper = s.featUpper := rfl
@[simp] theorem State.setCluster_featLowerSet (k : Nat) (x : Cluster) : (s.setCluster k x).featLowerSet = s.featLowerSet := rfl
@[simp] theorem State.setCluster_featUpperSet (k : Nat) (x : Cluster) : (s.setCluster k x).featUpperSet = s.featUpperSet := rfl
@[simp] theorem State.setCluster_featAcc (k : Nat) (x : Cluster) : (s.setCluster k x).featAcc = s.featAcc := rfl
@[simp] theorem State.setCluster_wiped (k : Nat) (x : Cluster) : (s.setCluster k x).wiped = s.wiped := rfl
@[simp] theorem State.setCluster_go (k : Nat) (x : Cluster) : (s.setCluster k x).go = s.go := rfl
@[simp] theorem State.setCluster_measured (k : Nat) (x : Cluster) : (s.setCluster k x).measured = s.measured := rfl
@[simp] theorem State.setCluster_bootReady (k : Nat) (x : Cluster) : (s.setCluster k x).bootReady = s.bootReady := rfl
@[simp] theorem State.setCluster_fwWritten (k : Nat) (x : Cluster) : (s.setCluster k x).fwWritten = s.fwWritten := rfl
@[simp] theorem State.setCluster_lock (k : Nat) (x : Cluster) : (s.setCluster k x).lock = s.lock := rfl
@[simp] theorem State.setCluster_lockLimit (k : Nat) (x : Cluster) : (s.setCluster k x).lockLimit = s.lockLimit := rfl
@[simp] theorem State.setCluster_lockBase (k : Nat) (x : Cluster) : (s.setCluster k x).lockBase = s.lockBase := rfl
@[simp] theorem State.setCluster_alarm (k : Nat) (x : Cluster) : (s.setCluster k x).alarm = s.alarm := rfl
@[simp] theorem State.setCluster_alarmAct (k : Nat) (x : Cluster) : (s.setCluster k x).alarmAct = s.alarmAct := rfl
@[simp] theorem State.setCluster_atBusy (k : Nat) (x : Cluster) : (s.setCluster k x).atBusy = s.atBusy := rfl
@[simp] theorem State.setCluster_atErr (k : Nat) (x : Cluster) : (s.setCluster k x).atErr = s.atErr := rfl
@[simp] theorem State.setCluster_nonce (k : Nat) (x : Cluster) : (s.setCluster k x).nonce = s.nonce := rfl
@[simp] theorem State.setCluster_report (k : Nat) (x : Cluster) : (s.setCluster k x).report = s.report := rfl
@[simp] theorem State.setCluster_m1 (k : Nat) (x : Cluster) : (s.setCluster k x).m1 = s.m1 := rfl
@[simp] theorem State.setCluster_s1 (k : Nat) (x : Cluster) : (s.setCluster k x).s1 = s.s1 := rfl
@[simp] theorem State.setCluster_cert (k : Nat) (x : Cluster) : (s.setCluster k x).cert = s.cert := rfl
@[simp] theorem State.setCluster_pk0 (k : Nat) (x : Cluster) : (s.setCluster k x).pk0 = s.pk0 := rfl
@[simp] theorem State.setCluster_m2 (k : Nat) (x : Cluster) : (s.setCluster k x).m2 = s.m2 := rfl
@[simp] theorem State.setCluster_s2 (k : Nat) (x : Cluster) : (s.setCluster k x).s2 = s.s2 := rfl
@[simp] theorem State.setCluster_cert2 (k : Nat) (x : Cluster) : (s.setCluster k x).cert2 = s.cert2 := rfl
@[simp] theorem State.setCluster_keysErased (k : Nat) (x : Cluster) : (s.setCluster k x).keysErased = s.keysErased := rfl
@[simp] theorem State.setCluster_fuses (k : Nat) (x : Cluster) : (s.setCluster k x).fuses = s.fuses := rfl
@[simp] theorem State.setCluster_lcErr (k : Nat) (x : Cluster) : (s.setCluster k x).lcErr = s.lcErr := rfl
@[simp] theorem State.setCluster_lcTarget (k : Nat) (x : Cluster) : (s.setCluster k x).lcTarget = s.lcTarget := rfl
@[simp] theorem State.setCluster_errCor (k : Nat) (x : Cluster) : (s.setCluster k x).errCor = s.errCor := rfl
@[simp] theorem State.setCluster_errUnc (k : Nat) (x : Cluster) : (s.setCluster k x).errUnc = s.errUnc := rfl
@[simp] theorem State.setCluster_xlbase (k : Nat) (x : Cluster) : (s.setCluster k x).xlbase = s.xlbase := rfl
@[simp] theorem State.setCluster_podstag (k : Nat) (x : Cluster) : (s.setCluster k x).podstag = s.podstag := rfl
@[simp] theorem State.setCluster_podMemb (k : Nat) (x : Cluster) : (s.setCluster k x).podMemb = s.podMemb := rfl
@[simp] theorem State.setCluster_podg (k : Nat) (x : Cluster) : (s.setCluster k x).podg = s.podg := rfl
@[simp] theorem State.setCluster_podEn (k : Nat) (x : Cluster) : (s.setCluster k x).podEn = s.podEn := rfl
@[simp] theorem State.setCluster_halted (k : Nat) (x : Cluster) : (s.setCluster k x).halted = s.halted := rfl
@[simp] theorem State.setCluster_tb (k : Nat) (x : Cluster) : (s.setCluster k x).tb = s.tb := rfl
@[simp] theorem State.setCluster_tbCopies (k : Nat) (x : Cluster) : (s.setCluster k x).tbCopies = s.tbCopies := rfl
@[simp] theorem State.setCluster_tbLock (k : Nat) (x : Cluster) : (s.setCluster k x).tbLock = s.tbLock := rfl
@[simp] theorem State.setCluster_tbOffs (k : Nat) (x : Cluster) : (s.setCluster k x).tbOffs = s.tbOffs := rfl
@[simp] theorem State.setCluster_tbSlow (k : Nat) (x : Cluster) : (s.setCluster k x).tbSlow = s.tbSlow := rfl
@[simp] theorem State.setCluster_msix (k : Nat) (x : Cluster) : (s.setCluster k x).msix = s.msix := rfl
@[simp] theorem State.setCluster_hostMem (k : Nat) (x : Cluster) : (s.setCluster k x).hostMem = s.hostMem := rfl
@[simp] theorem State.setCluster_hostRead (k : Nat) (x : Cluster) : (s.setCluster k x).hostRead = s.hostRead := rfl
@[simp] theorem State.setCluster_hostPois (k : Nat) (x : Cluster) : (s.setCluster k x).hostPois = s.hostPois := rfl
@[simp] theorem State.setCluster_now (k : Nat) (x : Cluster) : (s.setCluster k x).now = s.now := rfl
@[simp] theorem State.setCluster_halfNs (k : Nat) (x : Cluster) : (s.setCluster k x).halfNs = s.halfNs := rfl
@[simp] theorem State.setCluster_focus (k : Nat) (x : Cluster) : (s.setCluster k x).focus = s.focus := rfl
@[simp] theorem State.setCluster_agenda (k : Nat) (x : Cluster) : (s.setCluster k x).agenda = s.agenda := rfl
@[simp] theorem State.setCluster_tick (k : Nat) (x : Cluster) : (s.setCluster k x).tick = s.tick := rfl

/-! ### setTower -/

@[simp] theorem State.setTower_modId (k : Nat) (x : Tower) : (s.setTower k x).modId = s.modId := rfl
@[simp] theorem State.setTower_inPod (k : Nat) (x : Tower) : (s.setTower k x).inPod = s.inPod := rfl
@[simp] theorem State.setTower_mem (k : Nat) (x : Tower) : (s.setTower k x).mem = s.mem := rfl
@[simp] theorem State.setTower_poison (k : Nat) (x : Tower) : (s.setTower k x).poison = s.poison := rfl
@[simp] theorem State.setTower_full (k : Nat) (x : Tower) : (s.setTower k x).full = s.full := rfl
@[simp] theorem State.setTower_spmLive (k : Nat) (x : Tower) : (s.setTower k x).spmLive = s.spmLive := rfl
@[simp] theorem State.setTower_marks (k : Nat) (x : Tower) : (s.setTower k x).marks = s.marks := rfl
@[simp] theorem State.setTower_monitors (k : Nat) (x : Tower) : (s.setTower k x).monitors = s.monitors := rfl
@[simp] theorem State.setTower_cores (k : Nat) (x : Tower) : (s.setTower k x).cores = s.cores := rfl
@[simp] theorem State.setTower_quads (k : Nat) (x : Tower) : (s.setTower k x).quads = s.quads := rfl
@[simp] theorem State.setTower_clusters (k : Nat) (x : Tower) : (s.setTower k x).clusters = s.clusters := rfl
@[simp] theorem State.setTower_groups (k : Nat) (x : Tower) : (s.setTower k x).groups = s.groups := rfl
@[simp] theorem State.setTower_dram (k : Nat) (x : Tower) : (s.setTower k x).dram = s.dram := rfl
@[simp] theorem State.setTower_ports (k : Nat) (x : Tower) : (s.setTower k x).ports = s.ports := rfl
@[simp] theorem State.setTower_regs (k : Nat) (x : Tower) : (s.setTower k x).regs = s.regs := rfl
@[simp] theorem State.setTower_dommap (k : Nat) (x : Tower) : (s.setTower k x).dommap = s.dommap := rfl
@[simp] theorem State.setTower_fabric (k : Nat) (x : Tower) : (s.setTower k x).fabric = s.fabric := rfl
@[simp] theorem State.setTower_groupOps (k : Nat) (x : Tower) : (s.setTower k x).groupOps = s.groupOps := rfl
@[simp] theorem State.setTower_releases (k : Nat) (x : Tower) : (s.setTower k x).releases = s.releases := rfl
@[simp] theorem State.setTower_refusals (k : Nat) (x : Tower) : (s.setTower k x).refusals = s.refusals := rfl
@[simp] theorem State.setTower_nextId (k : Nat) (x : Tower) : (s.setTower k x).nextId = s.nextId := rfl
@[simp] theorem State.setTower_queues (k : Nat) (x : Tower) : (s.setTower k x).queues = s.queues := rfl
@[simp] theorem State.setTower_events (k : Nat) (x : Tower) : (s.setTower k x).events = s.events := rfl
@[simp] theorem State.setTower_slots (k : Nat) (x : Tower) : (s.setTower k x).slots = s.slots := rfl
@[simp] theorem State.setTower_evsel (k : Nat) (x : Tower) : (s.setTower k x).evsel = s.evsel := rfl
@[simp] theorem State.setTower_held (k : Nat) (x : Tower) : (s.setTower k x).held = s.held := rfl
@[simp] theorem State.setTower_hldrop (k : Nat) (x : Tower) : (s.setTower k x).hldrop = s.hldrop := rfl
@[simp] theorem State.setTower_links (k : Nat) (x : Tower) : (s.setTower k x).links = s.links := rfl
@[simp] theorem State.setTower_clsel (k : Nat) (x : Tower) : (s.setTower k x).clsel = s.clsel := rfl
@[simp] theorem State.setTower_featLower (k : Nat) (x : Tower) : (s.setTower k x).featLower = s.featLower := rfl
@[simp] theorem State.setTower_featUpper (k : Nat) (x : Tower) : (s.setTower k x).featUpper = s.featUpper := rfl
@[simp] theorem State.setTower_featLowerSet (k : Nat) (x : Tower) : (s.setTower k x).featLowerSet = s.featLowerSet := rfl
@[simp] theorem State.setTower_featUpperSet (k : Nat) (x : Tower) : (s.setTower k x).featUpperSet = s.featUpperSet := rfl
@[simp] theorem State.setTower_featAcc (k : Nat) (x : Tower) : (s.setTower k x).featAcc = s.featAcc := rfl
@[simp] theorem State.setTower_wiped (k : Nat) (x : Tower) : (s.setTower k x).wiped = s.wiped := rfl
@[simp] theorem State.setTower_go (k : Nat) (x : Tower) : (s.setTower k x).go = s.go := rfl
@[simp] theorem State.setTower_measured (k : Nat) (x : Tower) : (s.setTower k x).measured = s.measured := rfl
@[simp] theorem State.setTower_bootReady (k : Nat) (x : Tower) : (s.setTower k x).bootReady = s.bootReady := rfl
@[simp] theorem State.setTower_fwWritten (k : Nat) (x : Tower) : (s.setTower k x).fwWritten = s.fwWritten := rfl
@[simp] theorem State.setTower_lock (k : Nat) (x : Tower) : (s.setTower k x).lock = s.lock := rfl
@[simp] theorem State.setTower_lockLimit (k : Nat) (x : Tower) : (s.setTower k x).lockLimit = s.lockLimit := rfl
@[simp] theorem State.setTower_lockBase (k : Nat) (x : Tower) : (s.setTower k x).lockBase = s.lockBase := rfl
@[simp] theorem State.setTower_alarm (k : Nat) (x : Tower) : (s.setTower k x).alarm = s.alarm := rfl
@[simp] theorem State.setTower_alarmAct (k : Nat) (x : Tower) : (s.setTower k x).alarmAct = s.alarmAct := rfl
@[simp] theorem State.setTower_atBusy (k : Nat) (x : Tower) : (s.setTower k x).atBusy = s.atBusy := rfl
@[simp] theorem State.setTower_atErr (k : Nat) (x : Tower) : (s.setTower k x).atErr = s.atErr := rfl
@[simp] theorem State.setTower_nonce (k : Nat) (x : Tower) : (s.setTower k x).nonce = s.nonce := rfl
@[simp] theorem State.setTower_report (k : Nat) (x : Tower) : (s.setTower k x).report = s.report := rfl
@[simp] theorem State.setTower_m1 (k : Nat) (x : Tower) : (s.setTower k x).m1 = s.m1 := rfl
@[simp] theorem State.setTower_s1 (k : Nat) (x : Tower) : (s.setTower k x).s1 = s.s1 := rfl
@[simp] theorem State.setTower_cert (k : Nat) (x : Tower) : (s.setTower k x).cert = s.cert := rfl
@[simp] theorem State.setTower_pk0 (k : Nat) (x : Tower) : (s.setTower k x).pk0 = s.pk0 := rfl
@[simp] theorem State.setTower_m2 (k : Nat) (x : Tower) : (s.setTower k x).m2 = s.m2 := rfl
@[simp] theorem State.setTower_s2 (k : Nat) (x : Tower) : (s.setTower k x).s2 = s.s2 := rfl
@[simp] theorem State.setTower_cert2 (k : Nat) (x : Tower) : (s.setTower k x).cert2 = s.cert2 := rfl
@[simp] theorem State.setTower_keysErased (k : Nat) (x : Tower) : (s.setTower k x).keysErased = s.keysErased := rfl
@[simp] theorem State.setTower_fuses (k : Nat) (x : Tower) : (s.setTower k x).fuses = s.fuses := rfl
@[simp] theorem State.setTower_lcErr (k : Nat) (x : Tower) : (s.setTower k x).lcErr = s.lcErr := rfl
@[simp] theorem State.setTower_lcTarget (k : Nat) (x : Tower) : (s.setTower k x).lcTarget = s.lcTarget := rfl
@[simp] theorem State.setTower_errCor (k : Nat) (x : Tower) : (s.setTower k x).errCor = s.errCor := rfl
@[simp] theorem State.setTower_errUnc (k : Nat) (x : Tower) : (s.setTower k x).errUnc = s.errUnc := rfl
@[simp] theorem State.setTower_xlbase (k : Nat) (x : Tower) : (s.setTower k x).xlbase = s.xlbase := rfl
@[simp] theorem State.setTower_podstag (k : Nat) (x : Tower) : (s.setTower k x).podstag = s.podstag := rfl
@[simp] theorem State.setTower_podMemb (k : Nat) (x : Tower) : (s.setTower k x).podMemb = s.podMemb := rfl
@[simp] theorem State.setTower_podg (k : Nat) (x : Tower) : (s.setTower k x).podg = s.podg := rfl
@[simp] theorem State.setTower_podEn (k : Nat) (x : Tower) : (s.setTower k x).podEn = s.podEn := rfl
@[simp] theorem State.setTower_halted (k : Nat) (x : Tower) : (s.setTower k x).halted = s.halted := rfl
@[simp] theorem State.setTower_tb (k : Nat) (x : Tower) : (s.setTower k x).tb = s.tb := rfl
@[simp] theorem State.setTower_tbCopies (k : Nat) (x : Tower) : (s.setTower k x).tbCopies = s.tbCopies := rfl
@[simp] theorem State.setTower_tbLock (k : Nat) (x : Tower) : (s.setTower k x).tbLock = s.tbLock := rfl
@[simp] theorem State.setTower_tbOffs (k : Nat) (x : Tower) : (s.setTower k x).tbOffs = s.tbOffs := rfl
@[simp] theorem State.setTower_tbSlow (k : Nat) (x : Tower) : (s.setTower k x).tbSlow = s.tbSlow := rfl
@[simp] theorem State.setTower_msix (k : Nat) (x : Tower) : (s.setTower k x).msix = s.msix := rfl
@[simp] theorem State.setTower_hostMem (k : Nat) (x : Tower) : (s.setTower k x).hostMem = s.hostMem := rfl
@[simp] theorem State.setTower_hostRead (k : Nat) (x : Tower) : (s.setTower k x).hostRead = s.hostRead := rfl
@[simp] theorem State.setTower_hostPois (k : Nat) (x : Tower) : (s.setTower k x).hostPois = s.hostPois := rfl
@[simp] theorem State.setTower_now (k : Nat) (x : Tower) : (s.setTower k x).now = s.now := rfl
@[simp] theorem State.setTower_halfNs (k : Nat) (x : Tower) : (s.setTower k x).halfNs = s.halfNs := rfl
@[simp] theorem State.setTower_focus (k : Nat) (x : Tower) : (s.setTower k x).focus = s.focus := rfl
@[simp] theorem State.setTower_agenda (k : Nat) (x : Tower) : (s.setTower k x).agenda = s.agenda := rfl
@[simp] theorem State.setTower_tick (k : Nat) (x : Tower) : (s.setTower k x).tick = s.tick := rfl

/-! ### setGroup -/

@[simp] theorem State.setGroup_modId (k : Nat) (x : Group) : (s.setGroup k x).modId = s.modId := rfl
@[simp] theorem State.setGroup_inPod (k : Nat) (x : Group) : (s.setGroup k x).inPod = s.inPod := rfl
@[simp] theorem State.setGroup_mem (k : Nat) (x : Group) : (s.setGroup k x).mem = s.mem := rfl
@[simp] theorem State.setGroup_poison (k : Nat) (x : Group) : (s.setGroup k x).poison = s.poison := rfl
@[simp] theorem State.setGroup_full (k : Nat) (x : Group) : (s.setGroup k x).full = s.full := rfl
@[simp] theorem State.setGroup_spmLive (k : Nat) (x : Group) : (s.setGroup k x).spmLive = s.spmLive := rfl
@[simp] theorem State.setGroup_marks (k : Nat) (x : Group) : (s.setGroup k x).marks = s.marks := rfl
@[simp] theorem State.setGroup_monitors (k : Nat) (x : Group) : (s.setGroup k x).monitors = s.monitors := rfl
@[simp] theorem State.setGroup_cores (k : Nat) (x : Group) : (s.setGroup k x).cores = s.cores := rfl
@[simp] theorem State.setGroup_quads (k : Nat) (x : Group) : (s.setGroup k x).quads = s.quads := rfl
@[simp] theorem State.setGroup_clusters (k : Nat) (x : Group) : (s.setGroup k x).clusters = s.clusters := rfl
@[simp] theorem State.setGroup_towers (k : Nat) (x : Group) : (s.setGroup k x).towers = s.towers := rfl
@[simp] theorem State.setGroup_dram (k : Nat) (x : Group) : (s.setGroup k x).dram = s.dram := rfl
@[simp] theorem State.setGroup_ports (k : Nat) (x : Group) : (s.setGroup k x).ports = s.ports := rfl
@[simp] theorem State.setGroup_regs (k : Nat) (x : Group) : (s.setGroup k x).regs = s.regs := rfl
@[simp] theorem State.setGroup_dommap (k : Nat) (x : Group) : (s.setGroup k x).dommap = s.dommap := rfl
@[simp] theorem State.setGroup_fabric (k : Nat) (x : Group) : (s.setGroup k x).fabric = s.fabric := rfl
@[simp] theorem State.setGroup_groupOps (k : Nat) (x : Group) : (s.setGroup k x).groupOps = s.groupOps := rfl
@[simp] theorem State.setGroup_releases (k : Nat) (x : Group) : (s.setGroup k x).releases = s.releases := rfl
@[simp] theorem State.setGroup_refusals (k : Nat) (x : Group) : (s.setGroup k x).refusals = s.refusals := rfl
@[simp] theorem State.setGroup_nextId (k : Nat) (x : Group) : (s.setGroup k x).nextId = s.nextId := rfl
@[simp] theorem State.setGroup_queues (k : Nat) (x : Group) : (s.setGroup k x).queues = s.queues := rfl
@[simp] theorem State.setGroup_events (k : Nat) (x : Group) : (s.setGroup k x).events = s.events := rfl
@[simp] theorem State.setGroup_slots (k : Nat) (x : Group) : (s.setGroup k x).slots = s.slots := rfl
@[simp] theorem State.setGroup_evsel (k : Nat) (x : Group) : (s.setGroup k x).evsel = s.evsel := rfl
@[simp] theorem State.setGroup_held (k : Nat) (x : Group) : (s.setGroup k x).held = s.held := rfl
@[simp] theorem State.setGroup_hldrop (k : Nat) (x : Group) : (s.setGroup k x).hldrop = s.hldrop := rfl
@[simp] theorem State.setGroup_links (k : Nat) (x : Group) : (s.setGroup k x).links = s.links := rfl
@[simp] theorem State.setGroup_clsel (k : Nat) (x : Group) : (s.setGroup k x).clsel = s.clsel := rfl
@[simp] theorem State.setGroup_featLower (k : Nat) (x : Group) : (s.setGroup k x).featLower = s.featLower := rfl
@[simp] theorem State.setGroup_featUpper (k : Nat) (x : Group) : (s.setGroup k x).featUpper = s.featUpper := rfl
@[simp] theorem State.setGroup_featLowerSet (k : Nat) (x : Group) : (s.setGroup k x).featLowerSet = s.featLowerSet := rfl
@[simp] theorem State.setGroup_featUpperSet (k : Nat) (x : Group) : (s.setGroup k x).featUpperSet = s.featUpperSet := rfl
@[simp] theorem State.setGroup_featAcc (k : Nat) (x : Group) : (s.setGroup k x).featAcc = s.featAcc := rfl
@[simp] theorem State.setGroup_wiped (k : Nat) (x : Group) : (s.setGroup k x).wiped = s.wiped := rfl
@[simp] theorem State.setGroup_go (k : Nat) (x : Group) : (s.setGroup k x).go = s.go := rfl
@[simp] theorem State.setGroup_measured (k : Nat) (x : Group) : (s.setGroup k x).measured = s.measured := rfl
@[simp] theorem State.setGroup_bootReady (k : Nat) (x : Group) : (s.setGroup k x).bootReady = s.bootReady := rfl
@[simp] theorem State.setGroup_fwWritten (k : Nat) (x : Group) : (s.setGroup k x).fwWritten = s.fwWritten := rfl
@[simp] theorem State.setGroup_lock (k : Nat) (x : Group) : (s.setGroup k x).lock = s.lock := rfl
@[simp] theorem State.setGroup_lockLimit (k : Nat) (x : Group) : (s.setGroup k x).lockLimit = s.lockLimit := rfl
@[simp] theorem State.setGroup_lockBase (k : Nat) (x : Group) : (s.setGroup k x).lockBase = s.lockBase := rfl
@[simp] theorem State.setGroup_alarm (k : Nat) (x : Group) : (s.setGroup k x).alarm = s.alarm := rfl
@[simp] theorem State.setGroup_alarmAct (k : Nat) (x : Group) : (s.setGroup k x).alarmAct = s.alarmAct := rfl
@[simp] theorem State.setGroup_atBusy (k : Nat) (x : Group) : (s.setGroup k x).atBusy = s.atBusy := rfl
@[simp] theorem State.setGroup_atErr (k : Nat) (x : Group) : (s.setGroup k x).atErr = s.atErr := rfl
@[simp] theorem State.setGroup_nonce (k : Nat) (x : Group) : (s.setGroup k x).nonce = s.nonce := rfl
@[simp] theorem State.setGroup_report (k : Nat) (x : Group) : (s.setGroup k x).report = s.report := rfl
@[simp] theorem State.setGroup_m1 (k : Nat) (x : Group) : (s.setGroup k x).m1 = s.m1 := rfl
@[simp] theorem State.setGroup_s1 (k : Nat) (x : Group) : (s.setGroup k x).s1 = s.s1 := rfl
@[simp] theorem State.setGroup_cert (k : Nat) (x : Group) : (s.setGroup k x).cert = s.cert := rfl
@[simp] theorem State.setGroup_pk0 (k : Nat) (x : Group) : (s.setGroup k x).pk0 = s.pk0 := rfl
@[simp] theorem State.setGroup_m2 (k : Nat) (x : Group) : (s.setGroup k x).m2 = s.m2 := rfl
@[simp] theorem State.setGroup_s2 (k : Nat) (x : Group) : (s.setGroup k x).s2 = s.s2 := rfl
@[simp] theorem State.setGroup_cert2 (k : Nat) (x : Group) : (s.setGroup k x).cert2 = s.cert2 := rfl
@[simp] theorem State.setGroup_keysErased (k : Nat) (x : Group) : (s.setGroup k x).keysErased = s.keysErased := rfl
@[simp] theorem State.setGroup_fuses (k : Nat) (x : Group) : (s.setGroup k x).fuses = s.fuses := rfl
@[simp] theorem State.setGroup_lcErr (k : Nat) (x : Group) : (s.setGroup k x).lcErr = s.lcErr := rfl
@[simp] theorem State.setGroup_lcTarget (k : Nat) (x : Group) : (s.setGroup k x).lcTarget = s.lcTarget := rfl
@[simp] theorem State.setGroup_errCor (k : Nat) (x : Group) : (s.setGroup k x).errCor = s.errCor := rfl
@[simp] theorem State.setGroup_errUnc (k : Nat) (x : Group) : (s.setGroup k x).errUnc = s.errUnc := rfl
@[simp] theorem State.setGroup_xlbase (k : Nat) (x : Group) : (s.setGroup k x).xlbase = s.xlbase := rfl
@[simp] theorem State.setGroup_podstag (k : Nat) (x : Group) : (s.setGroup k x).podstag = s.podstag := rfl
@[simp] theorem State.setGroup_podMemb (k : Nat) (x : Group) : (s.setGroup k x).podMemb = s.podMemb := rfl
@[simp] theorem State.setGroup_podg (k : Nat) (x : Group) : (s.setGroup k x).podg = s.podg := rfl
@[simp] theorem State.setGroup_podEn (k : Nat) (x : Group) : (s.setGroup k x).podEn = s.podEn := rfl
@[simp] theorem State.setGroup_halted (k : Nat) (x : Group) : (s.setGroup k x).halted = s.halted := rfl
@[simp] theorem State.setGroup_tb (k : Nat) (x : Group) : (s.setGroup k x).tb = s.tb := rfl
@[simp] theorem State.setGroup_tbCopies (k : Nat) (x : Group) : (s.setGroup k x).tbCopies = s.tbCopies := rfl
@[simp] theorem State.setGroup_tbLock (k : Nat) (x : Group) : (s.setGroup k x).tbLock = s.tbLock := rfl
@[simp] theorem State.setGroup_tbOffs (k : Nat) (x : Group) : (s.setGroup k x).tbOffs = s.tbOffs := rfl
@[simp] theorem State.setGroup_tbSlow (k : Nat) (x : Group) : (s.setGroup k x).tbSlow = s.tbSlow := rfl
@[simp] theorem State.setGroup_msix (k : Nat) (x : Group) : (s.setGroup k x).msix = s.msix := rfl
@[simp] theorem State.setGroup_hostMem (k : Nat) (x : Group) : (s.setGroup k x).hostMem = s.hostMem := rfl
@[simp] theorem State.setGroup_hostRead (k : Nat) (x : Group) : (s.setGroup k x).hostRead = s.hostRead := rfl
@[simp] theorem State.setGroup_hostPois (k : Nat) (x : Group) : (s.setGroup k x).hostPois = s.hostPois := rfl
@[simp] theorem State.setGroup_now (k : Nat) (x : Group) : (s.setGroup k x).now = s.now := rfl
@[simp] theorem State.setGroup_halfNs (k : Nat) (x : Group) : (s.setGroup k x).halfNs = s.halfNs := rfl
@[simp] theorem State.setGroup_focus (k : Nat) (x : Group) : (s.setGroup k x).focus = s.focus := rfl
@[simp] theorem State.setGroup_agenda (k : Nat) (x : Group) : (s.setGroup k x).agenda = s.agenda := rfl
@[simp] theorem State.setGroup_tick (k : Nat) (x : Group) : (s.setGroup k x).tick = s.tick := rfl

/-! ### setStack -/

@[simp] theorem State.setStack_modId (k : Nat) (x : Stack) : (s.setStack k x).modId = s.modId := rfl
@[simp] theorem State.setStack_inPod (k : Nat) (x : Stack) : (s.setStack k x).inPod = s.inPod := rfl
@[simp] theorem State.setStack_mem (k : Nat) (x : Stack) : (s.setStack k x).mem = s.mem := rfl
@[simp] theorem State.setStack_poison (k : Nat) (x : Stack) : (s.setStack k x).poison = s.poison := rfl
@[simp] theorem State.setStack_full (k : Nat) (x : Stack) : (s.setStack k x).full = s.full := rfl
@[simp] theorem State.setStack_spmLive (k : Nat) (x : Stack) : (s.setStack k x).spmLive = s.spmLive := rfl
@[simp] theorem State.setStack_marks (k : Nat) (x : Stack) : (s.setStack k x).marks = s.marks := rfl
@[simp] theorem State.setStack_monitors (k : Nat) (x : Stack) : (s.setStack k x).monitors = s.monitors := rfl
@[simp] theorem State.setStack_cores (k : Nat) (x : Stack) : (s.setStack k x).cores = s.cores := rfl
@[simp] theorem State.setStack_quads (k : Nat) (x : Stack) : (s.setStack k x).quads = s.quads := rfl
@[simp] theorem State.setStack_clusters (k : Nat) (x : Stack) : (s.setStack k x).clusters = s.clusters := rfl
@[simp] theorem State.setStack_towers (k : Nat) (x : Stack) : (s.setStack k x).towers = s.towers := rfl
@[simp] theorem State.setStack_groups (k : Nat) (x : Stack) : (s.setStack k x).groups = s.groups := rfl
@[simp] theorem State.setStack_ports (k : Nat) (x : Stack) : (s.setStack k x).ports = s.ports := rfl
@[simp] theorem State.setStack_regs (k : Nat) (x : Stack) : (s.setStack k x).regs = s.regs := rfl
@[simp] theorem State.setStack_dommap (k : Nat) (x : Stack) : (s.setStack k x).dommap = s.dommap := rfl
@[simp] theorem State.setStack_fabric (k : Nat) (x : Stack) : (s.setStack k x).fabric = s.fabric := rfl
@[simp] theorem State.setStack_groupOps (k : Nat) (x : Stack) : (s.setStack k x).groupOps = s.groupOps := rfl
@[simp] theorem State.setStack_releases (k : Nat) (x : Stack) : (s.setStack k x).releases = s.releases := rfl
@[simp] theorem State.setStack_refusals (k : Nat) (x : Stack) : (s.setStack k x).refusals = s.refusals := rfl
@[simp] theorem State.setStack_nextId (k : Nat) (x : Stack) : (s.setStack k x).nextId = s.nextId := rfl
@[simp] theorem State.setStack_queues (k : Nat) (x : Stack) : (s.setStack k x).queues = s.queues := rfl
@[simp] theorem State.setStack_events (k : Nat) (x : Stack) : (s.setStack k x).events = s.events := rfl
@[simp] theorem State.setStack_slots (k : Nat) (x : Stack) : (s.setStack k x).slots = s.slots := rfl
@[simp] theorem State.setStack_evsel (k : Nat) (x : Stack) : (s.setStack k x).evsel = s.evsel := rfl
@[simp] theorem State.setStack_held (k : Nat) (x : Stack) : (s.setStack k x).held = s.held := rfl
@[simp] theorem State.setStack_hldrop (k : Nat) (x : Stack) : (s.setStack k x).hldrop = s.hldrop := rfl
@[simp] theorem State.setStack_links (k : Nat) (x : Stack) : (s.setStack k x).links = s.links := rfl
@[simp] theorem State.setStack_clsel (k : Nat) (x : Stack) : (s.setStack k x).clsel = s.clsel := rfl
@[simp] theorem State.setStack_featLower (k : Nat) (x : Stack) : (s.setStack k x).featLower = s.featLower := rfl
@[simp] theorem State.setStack_featUpper (k : Nat) (x : Stack) : (s.setStack k x).featUpper = s.featUpper := rfl
@[simp] theorem State.setStack_featLowerSet (k : Nat) (x : Stack) : (s.setStack k x).featLowerSet = s.featLowerSet := rfl
@[simp] theorem State.setStack_featUpperSet (k : Nat) (x : Stack) : (s.setStack k x).featUpperSet = s.featUpperSet := rfl
@[simp] theorem State.setStack_featAcc (k : Nat) (x : Stack) : (s.setStack k x).featAcc = s.featAcc := rfl
@[simp] theorem State.setStack_wiped (k : Nat) (x : Stack) : (s.setStack k x).wiped = s.wiped := rfl
@[simp] theorem State.setStack_go (k : Nat) (x : Stack) : (s.setStack k x).go = s.go := rfl
@[simp] theorem State.setStack_measured (k : Nat) (x : Stack) : (s.setStack k x).measured = s.measured := rfl
@[simp] theorem State.setStack_bootReady (k : Nat) (x : Stack) : (s.setStack k x).bootReady = s.bootReady := rfl
@[simp] theorem State.setStack_fwWritten (k : Nat) (x : Stack) : (s.setStack k x).fwWritten = s.fwWritten := rfl
@[simp] theorem State.setStack_lock (k : Nat) (x : Stack) : (s.setStack k x).lock = s.lock := rfl
@[simp] theorem State.setStack_lockLimit (k : Nat) (x : Stack) : (s.setStack k x).lockLimit = s.lockLimit := rfl
@[simp] theorem State.setStack_lockBase (k : Nat) (x : Stack) : (s.setStack k x).lockBase = s.lockBase := rfl
@[simp] theorem State.setStack_alarm (k : Nat) (x : Stack) : (s.setStack k x).alarm = s.alarm := rfl
@[simp] theorem State.setStack_alarmAct (k : Nat) (x : Stack) : (s.setStack k x).alarmAct = s.alarmAct := rfl
@[simp] theorem State.setStack_atBusy (k : Nat) (x : Stack) : (s.setStack k x).atBusy = s.atBusy := rfl
@[simp] theorem State.setStack_atErr (k : Nat) (x : Stack) : (s.setStack k x).atErr = s.atErr := rfl
@[simp] theorem State.setStack_nonce (k : Nat) (x : Stack) : (s.setStack k x).nonce = s.nonce := rfl
@[simp] theorem State.setStack_report (k : Nat) (x : Stack) : (s.setStack k x).report = s.report := rfl
@[simp] theorem State.setStack_m1 (k : Nat) (x : Stack) : (s.setStack k x).m1 = s.m1 := rfl
@[simp] theorem State.setStack_s1 (k : Nat) (x : Stack) : (s.setStack k x).s1 = s.s1 := rfl
@[simp] theorem State.setStack_cert (k : Nat) (x : Stack) : (s.setStack k x).cert = s.cert := rfl
@[simp] theorem State.setStack_pk0 (k : Nat) (x : Stack) : (s.setStack k x).pk0 = s.pk0 := rfl
@[simp] theorem State.setStack_m2 (k : Nat) (x : Stack) : (s.setStack k x).m2 = s.m2 := rfl
@[simp] theorem State.setStack_s2 (k : Nat) (x : Stack) : (s.setStack k x).s2 = s.s2 := rfl
@[simp] theorem State.setStack_cert2 (k : Nat) (x : Stack) : (s.setStack k x).cert2 = s.cert2 := rfl
@[simp] theorem State.setStack_keysErased (k : Nat) (x : Stack) : (s.setStack k x).keysErased = s.keysErased := rfl
@[simp] theorem State.setStack_fuses (k : Nat) (x : Stack) : (s.setStack k x).fuses = s.fuses := rfl
@[simp] theorem State.setStack_lcErr (k : Nat) (x : Stack) : (s.setStack k x).lcErr = s.lcErr := rfl
@[simp] theorem State.setStack_lcTarget (k : Nat) (x : Stack) : (s.setStack k x).lcTarget = s.lcTarget := rfl
@[simp] theorem State.setStack_errCor (k : Nat) (x : Stack) : (s.setStack k x).errCor = s.errCor := rfl
@[simp] theorem State.setStack_errUnc (k : Nat) (x : Stack) : (s.setStack k x).errUnc = s.errUnc := rfl
@[simp] theorem State.setStack_xlbase (k : Nat) (x : Stack) : (s.setStack k x).xlbase = s.xlbase := rfl
@[simp] theorem State.setStack_podstag (k : Nat) (x : Stack) : (s.setStack k x).podstag = s.podstag := rfl
@[simp] theorem State.setStack_podMemb (k : Nat) (x : Stack) : (s.setStack k x).podMemb = s.podMemb := rfl
@[simp] theorem State.setStack_podg (k : Nat) (x : Stack) : (s.setStack k x).podg = s.podg := rfl
@[simp] theorem State.setStack_podEn (k : Nat) (x : Stack) : (s.setStack k x).podEn = s.podEn := rfl
@[simp] theorem State.setStack_halted (k : Nat) (x : Stack) : (s.setStack k x).halted = s.halted := rfl
@[simp] theorem State.setStack_tb (k : Nat) (x : Stack) : (s.setStack k x).tb = s.tb := rfl
@[simp] theorem State.setStack_tbCopies (k : Nat) (x : Stack) : (s.setStack k x).tbCopies = s.tbCopies := rfl
@[simp] theorem State.setStack_tbLock (k : Nat) (x : Stack) : (s.setStack k x).tbLock = s.tbLock := rfl
@[simp] theorem State.setStack_tbOffs (k : Nat) (x : Stack) : (s.setStack k x).tbOffs = s.tbOffs := rfl
@[simp] theorem State.setStack_tbSlow (k : Nat) (x : Stack) : (s.setStack k x).tbSlow = s.tbSlow := rfl
@[simp] theorem State.setStack_msix (k : Nat) (x : Stack) : (s.setStack k x).msix = s.msix := rfl
@[simp] theorem State.setStack_hostMem (k : Nat) (x : Stack) : (s.setStack k x).hostMem = s.hostMem := rfl
@[simp] theorem State.setStack_hostRead (k : Nat) (x : Stack) : (s.setStack k x).hostRead = s.hostRead := rfl
@[simp] theorem State.setStack_hostPois (k : Nat) (x : Stack) : (s.setStack k x).hostPois = s.hostPois := rfl
@[simp] theorem State.setStack_now (k : Nat) (x : Stack) : (s.setStack k x).now = s.now := rfl
@[simp] theorem State.setStack_halfNs (k : Nat) (x : Stack) : (s.setStack k x).halfNs = s.halfNs := rfl
@[simp] theorem State.setStack_focus (k : Nat) (x : Stack) : (s.setStack k x).focus = s.focus := rfl
@[simp] theorem State.setStack_agenda (k : Nat) (x : Stack) : (s.setStack k x).agenda = s.agenda := rfl
@[simp] theorem State.setStack_tick (k : Nat) (x : Stack) : (s.setStack k x).tick = s.tick := rfl

/-! ### setPort -/

@[simp] theorem State.setPort_modId (k : Fin 8) (x : Port) : (s.setPort k x).modId = s.modId := rfl
@[simp] theorem State.setPort_inPod (k : Fin 8) (x : Port) : (s.setPort k x).inPod = s.inPod := rfl
@[simp] theorem State.setPort_mem (k : Fin 8) (x : Port) : (s.setPort k x).mem = s.mem := rfl
@[simp] theorem State.setPort_poison (k : Fin 8) (x : Port) : (s.setPort k x).poison = s.poison := rfl
@[simp] theorem State.setPort_full (k : Fin 8) (x : Port) : (s.setPort k x).full = s.full := rfl
@[simp] theorem State.setPort_spmLive (k : Fin 8) (x : Port) : (s.setPort k x).spmLive = s.spmLive := rfl
@[simp] theorem State.setPort_marks (k : Fin 8) (x : Port) : (s.setPort k x).marks = s.marks := rfl
@[simp] theorem State.setPort_monitors (k : Fin 8) (x : Port) : (s.setPort k x).monitors = s.monitors := rfl
@[simp] theorem State.setPort_cores (k : Fin 8) (x : Port) : (s.setPort k x).cores = s.cores := rfl
@[simp] theorem State.setPort_quads (k : Fin 8) (x : Port) : (s.setPort k x).quads = s.quads := rfl
@[simp] theorem State.setPort_clusters (k : Fin 8) (x : Port) : (s.setPort k x).clusters = s.clusters := rfl
@[simp] theorem State.setPort_towers (k : Fin 8) (x : Port) : (s.setPort k x).towers = s.towers := rfl
@[simp] theorem State.setPort_groups (k : Fin 8) (x : Port) : (s.setPort k x).groups = s.groups := rfl
@[simp] theorem State.setPort_dram (k : Fin 8) (x : Port) : (s.setPort k x).dram = s.dram := rfl
@[simp] theorem State.setPort_regs (k : Fin 8) (x : Port) : (s.setPort k x).regs = s.regs := rfl
@[simp] theorem State.setPort_dommap (k : Fin 8) (x : Port) : (s.setPort k x).dommap = s.dommap := rfl
@[simp] theorem State.setPort_fabric (k : Fin 8) (x : Port) : (s.setPort k x).fabric = s.fabric := rfl
@[simp] theorem State.setPort_groupOps (k : Fin 8) (x : Port) : (s.setPort k x).groupOps = s.groupOps := rfl
@[simp] theorem State.setPort_releases (k : Fin 8) (x : Port) : (s.setPort k x).releases = s.releases := rfl
@[simp] theorem State.setPort_refusals (k : Fin 8) (x : Port) : (s.setPort k x).refusals = s.refusals := rfl
@[simp] theorem State.setPort_nextId (k : Fin 8) (x : Port) : (s.setPort k x).nextId = s.nextId := rfl
@[simp] theorem State.setPort_queues (k : Fin 8) (x : Port) : (s.setPort k x).queues = s.queues := rfl
@[simp] theorem State.setPort_events (k : Fin 8) (x : Port) : (s.setPort k x).events = s.events := rfl
@[simp] theorem State.setPort_slots (k : Fin 8) (x : Port) : (s.setPort k x).slots = s.slots := rfl
@[simp] theorem State.setPort_evsel (k : Fin 8) (x : Port) : (s.setPort k x).evsel = s.evsel := rfl
@[simp] theorem State.setPort_held (k : Fin 8) (x : Port) : (s.setPort k x).held = s.held := rfl
@[simp] theorem State.setPort_hldrop (k : Fin 8) (x : Port) : (s.setPort k x).hldrop = s.hldrop := rfl
@[simp] theorem State.setPort_links (k : Fin 8) (x : Port) : (s.setPort k x).links = s.links := rfl
@[simp] theorem State.setPort_clsel (k : Fin 8) (x : Port) : (s.setPort k x).clsel = s.clsel := rfl
@[simp] theorem State.setPort_featLower (k : Fin 8) (x : Port) : (s.setPort k x).featLower = s.featLower := rfl
@[simp] theorem State.setPort_featUpper (k : Fin 8) (x : Port) : (s.setPort k x).featUpper = s.featUpper := rfl
@[simp] theorem State.setPort_featLowerSet (k : Fin 8) (x : Port) : (s.setPort k x).featLowerSet = s.featLowerSet := rfl
@[simp] theorem State.setPort_featUpperSet (k : Fin 8) (x : Port) : (s.setPort k x).featUpperSet = s.featUpperSet := rfl
@[simp] theorem State.setPort_featAcc (k : Fin 8) (x : Port) : (s.setPort k x).featAcc = s.featAcc := rfl
@[simp] theorem State.setPort_wiped (k : Fin 8) (x : Port) : (s.setPort k x).wiped = s.wiped := rfl
@[simp] theorem State.setPort_go (k : Fin 8) (x : Port) : (s.setPort k x).go = s.go := rfl
@[simp] theorem State.setPort_measured (k : Fin 8) (x : Port) : (s.setPort k x).measured = s.measured := rfl
@[simp] theorem State.setPort_bootReady (k : Fin 8) (x : Port) : (s.setPort k x).bootReady = s.bootReady := rfl
@[simp] theorem State.setPort_fwWritten (k : Fin 8) (x : Port) : (s.setPort k x).fwWritten = s.fwWritten := rfl
@[simp] theorem State.setPort_lock (k : Fin 8) (x : Port) : (s.setPort k x).lock = s.lock := rfl
@[simp] theorem State.setPort_lockLimit (k : Fin 8) (x : Port) : (s.setPort k x).lockLimit = s.lockLimit := rfl
@[simp] theorem State.setPort_lockBase (k : Fin 8) (x : Port) : (s.setPort k x).lockBase = s.lockBase := rfl
@[simp] theorem State.setPort_alarm (k : Fin 8) (x : Port) : (s.setPort k x).alarm = s.alarm := rfl
@[simp] theorem State.setPort_alarmAct (k : Fin 8) (x : Port) : (s.setPort k x).alarmAct = s.alarmAct := rfl
@[simp] theorem State.setPort_atBusy (k : Fin 8) (x : Port) : (s.setPort k x).atBusy = s.atBusy := rfl
@[simp] theorem State.setPort_atErr (k : Fin 8) (x : Port) : (s.setPort k x).atErr = s.atErr := rfl
@[simp] theorem State.setPort_nonce (k : Fin 8) (x : Port) : (s.setPort k x).nonce = s.nonce := rfl
@[simp] theorem State.setPort_report (k : Fin 8) (x : Port) : (s.setPort k x).report = s.report := rfl
@[simp] theorem State.setPort_m1 (k : Fin 8) (x : Port) : (s.setPort k x).m1 = s.m1 := rfl
@[simp] theorem State.setPort_s1 (k : Fin 8) (x : Port) : (s.setPort k x).s1 = s.s1 := rfl
@[simp] theorem State.setPort_cert (k : Fin 8) (x : Port) : (s.setPort k x).cert = s.cert := rfl
@[simp] theorem State.setPort_pk0 (k : Fin 8) (x : Port) : (s.setPort k x).pk0 = s.pk0 := rfl
@[simp] theorem State.setPort_m2 (k : Fin 8) (x : Port) : (s.setPort k x).m2 = s.m2 := rfl
@[simp] theorem State.setPort_s2 (k : Fin 8) (x : Port) : (s.setPort k x).s2 = s.s2 := rfl
@[simp] theorem State.setPort_cert2 (k : Fin 8) (x : Port) : (s.setPort k x).cert2 = s.cert2 := rfl
@[simp] theorem State.setPort_keysErased (k : Fin 8) (x : Port) : (s.setPort k x).keysErased = s.keysErased := rfl
@[simp] theorem State.setPort_fuses (k : Fin 8) (x : Port) : (s.setPort k x).fuses = s.fuses := rfl
@[simp] theorem State.setPort_lcErr (k : Fin 8) (x : Port) : (s.setPort k x).lcErr = s.lcErr := rfl
@[simp] theorem State.setPort_lcTarget (k : Fin 8) (x : Port) : (s.setPort k x).lcTarget = s.lcTarget := rfl
@[simp] theorem State.setPort_errCor (k : Fin 8) (x : Port) : (s.setPort k x).errCor = s.errCor := rfl
@[simp] theorem State.setPort_errUnc (k : Fin 8) (x : Port) : (s.setPort k x).errUnc = s.errUnc := rfl
@[simp] theorem State.setPort_xlbase (k : Fin 8) (x : Port) : (s.setPort k x).xlbase = s.xlbase := rfl
@[simp] theorem State.setPort_podstag (k : Fin 8) (x : Port) : (s.setPort k x).podstag = s.podstag := rfl
@[simp] theorem State.setPort_podMemb (k : Fin 8) (x : Port) : (s.setPort k x).podMemb = s.podMemb := rfl
@[simp] theorem State.setPort_podg (k : Fin 8) (x : Port) : (s.setPort k x).podg = s.podg := rfl
@[simp] theorem State.setPort_podEn (k : Fin 8) (x : Port) : (s.setPort k x).podEn = s.podEn := rfl
@[simp] theorem State.setPort_halted (k : Fin 8) (x : Port) : (s.setPort k x).halted = s.halted := rfl
@[simp] theorem State.setPort_tb (k : Fin 8) (x : Port) : (s.setPort k x).tb = s.tb := rfl
@[simp] theorem State.setPort_tbCopies (k : Fin 8) (x : Port) : (s.setPort k x).tbCopies = s.tbCopies := rfl
@[simp] theorem State.setPort_tbLock (k : Fin 8) (x : Port) : (s.setPort k x).tbLock = s.tbLock := rfl
@[simp] theorem State.setPort_tbOffs (k : Fin 8) (x : Port) : (s.setPort k x).tbOffs = s.tbOffs := rfl
@[simp] theorem State.setPort_tbSlow (k : Fin 8) (x : Port) : (s.setPort k x).tbSlow = s.tbSlow := rfl
@[simp] theorem State.setPort_msix (k : Fin 8) (x : Port) : (s.setPort k x).msix = s.msix := rfl
@[simp] theorem State.setPort_hostMem (k : Fin 8) (x : Port) : (s.setPort k x).hostMem = s.hostMem := rfl
@[simp] theorem State.setPort_hostRead (k : Fin 8) (x : Port) : (s.setPort k x).hostRead = s.hostRead := rfl
@[simp] theorem State.setPort_hostPois (k : Fin 8) (x : Port) : (s.setPort k x).hostPois = s.hostPois := rfl
@[simp] theorem State.setPort_now (k : Fin 8) (x : Port) : (s.setPort k x).now = s.now := rfl
@[simp] theorem State.setPort_halfNs (k : Fin 8) (x : Port) : (s.setPort k x).halfNs = s.halfNs := rfl
@[simp] theorem State.setPort_focus (k : Fin 8) (x : Port) : (s.setPort k x).focus = s.focus := rfl
@[simp] theorem State.setPort_agenda (k : Fin 8) (x : Port) : (s.setPort k x).agenda = s.agenda := rfl
@[simp] theorem State.setPort_tick (k : Fin 8) (x : Port) : (s.setPort k x).tick = s.tick := rfl

/-! ### modCore -/

@[simp] theorem State.modCore_modId (k : Nat) (f : Core → Core) : (s.modCore k f).modId = s.modId := rfl
@[simp] theorem State.modCore_inPod (k : Nat) (f : Core → Core) : (s.modCore k f).inPod = s.inPod := rfl
@[simp] theorem State.modCore_mem (k : Nat) (f : Core → Core) : (s.modCore k f).mem = s.mem := rfl
@[simp] theorem State.modCore_poison (k : Nat) (f : Core → Core) : (s.modCore k f).poison = s.poison := rfl
@[simp] theorem State.modCore_full (k : Nat) (f : Core → Core) : (s.modCore k f).full = s.full := rfl
@[simp] theorem State.modCore_spmLive (k : Nat) (f : Core → Core) : (s.modCore k f).spmLive = s.spmLive := rfl
@[simp] theorem State.modCore_marks (k : Nat) (f : Core → Core) : (s.modCore k f).marks = s.marks := rfl
@[simp] theorem State.modCore_monitors (k : Nat) (f : Core → Core) : (s.modCore k f).monitors = s.monitors := rfl
@[simp] theorem State.modCore_quads (k : Nat) (f : Core → Core) : (s.modCore k f).quads = s.quads := rfl
@[simp] theorem State.modCore_clusters (k : Nat) (f : Core → Core) : (s.modCore k f).clusters = s.clusters := rfl
@[simp] theorem State.modCore_towers (k : Nat) (f : Core → Core) : (s.modCore k f).towers = s.towers := rfl
@[simp] theorem State.modCore_groups (k : Nat) (f : Core → Core) : (s.modCore k f).groups = s.groups := rfl
@[simp] theorem State.modCore_dram (k : Nat) (f : Core → Core) : (s.modCore k f).dram = s.dram := rfl
@[simp] theorem State.modCore_ports (k : Nat) (f : Core → Core) : (s.modCore k f).ports = s.ports := rfl
@[simp] theorem State.modCore_regs (k : Nat) (f : Core → Core) : (s.modCore k f).regs = s.regs := rfl
@[simp] theorem State.modCore_dommap (k : Nat) (f : Core → Core) : (s.modCore k f).dommap = s.dommap := rfl
@[simp] theorem State.modCore_fabric (k : Nat) (f : Core → Core) : (s.modCore k f).fabric = s.fabric := rfl
@[simp] theorem State.modCore_groupOps (k : Nat) (f : Core → Core) : (s.modCore k f).groupOps = s.groupOps := rfl
@[simp] theorem State.modCore_releases (k : Nat) (f : Core → Core) : (s.modCore k f).releases = s.releases := rfl
@[simp] theorem State.modCore_refusals (k : Nat) (f : Core → Core) : (s.modCore k f).refusals = s.refusals := rfl
@[simp] theorem State.modCore_nextId (k : Nat) (f : Core → Core) : (s.modCore k f).nextId = s.nextId := rfl
@[simp] theorem State.modCore_queues (k : Nat) (f : Core → Core) : (s.modCore k f).queues = s.queues := rfl
@[simp] theorem State.modCore_events (k : Nat) (f : Core → Core) : (s.modCore k f).events = s.events := rfl
@[simp] theorem State.modCore_slots (k : Nat) (f : Core → Core) : (s.modCore k f).slots = s.slots := rfl
@[simp] theorem State.modCore_evsel (k : Nat) (f : Core → Core) : (s.modCore k f).evsel = s.evsel := rfl
@[simp] theorem State.modCore_held (k : Nat) (f : Core → Core) : (s.modCore k f).held = s.held := rfl
@[simp] theorem State.modCore_hldrop (k : Nat) (f : Core → Core) : (s.modCore k f).hldrop = s.hldrop := rfl
@[simp] theorem State.modCore_links (k : Nat) (f : Core → Core) : (s.modCore k f).links = s.links := rfl
@[simp] theorem State.modCore_clsel (k : Nat) (f : Core → Core) : (s.modCore k f).clsel = s.clsel := rfl
@[simp] theorem State.modCore_featLower (k : Nat) (f : Core → Core) : (s.modCore k f).featLower = s.featLower := rfl
@[simp] theorem State.modCore_featUpper (k : Nat) (f : Core → Core) : (s.modCore k f).featUpper = s.featUpper := rfl
@[simp] theorem State.modCore_featLowerSet (k : Nat) (f : Core → Core) : (s.modCore k f).featLowerSet = s.featLowerSet := rfl
@[simp] theorem State.modCore_featUpperSet (k : Nat) (f : Core → Core) : (s.modCore k f).featUpperSet = s.featUpperSet := rfl
@[simp] theorem State.modCore_featAcc (k : Nat) (f : Core → Core) : (s.modCore k f).featAcc = s.featAcc := rfl
@[simp] theorem State.modCore_wiped (k : Nat) (f : Core → Core) : (s.modCore k f).wiped = s.wiped := rfl
@[simp] theorem State.modCore_go (k : Nat) (f : Core → Core) : (s.modCore k f).go = s.go := rfl
@[simp] theorem State.modCore_measured (k : Nat) (f : Core → Core) : (s.modCore k f).measured = s.measured := rfl
@[simp] theorem State.modCore_bootReady (k : Nat) (f : Core → Core) : (s.modCore k f).bootReady = s.bootReady := rfl
@[simp] theorem State.modCore_fwWritten (k : Nat) (f : Core → Core) : (s.modCore k f).fwWritten = s.fwWritten := rfl
@[simp] theorem State.modCore_lock (k : Nat) (f : Core → Core) : (s.modCore k f).lock = s.lock := rfl
@[simp] theorem State.modCore_lockLimit (k : Nat) (f : Core → Core) : (s.modCore k f).lockLimit = s.lockLimit := rfl
@[simp] theorem State.modCore_lockBase (k : Nat) (f : Core → Core) : (s.modCore k f).lockBase = s.lockBase := rfl
@[simp] theorem State.modCore_alarm (k : Nat) (f : Core → Core) : (s.modCore k f).alarm = s.alarm := rfl
@[simp] theorem State.modCore_alarmAct (k : Nat) (f : Core → Core) : (s.modCore k f).alarmAct = s.alarmAct := rfl
@[simp] theorem State.modCore_atBusy (k : Nat) (f : Core → Core) : (s.modCore k f).atBusy = s.atBusy := rfl
@[simp] theorem State.modCore_atErr (k : Nat) (f : Core → Core) : (s.modCore k f).atErr = s.atErr := rfl
@[simp] theorem State.modCore_nonce (k : Nat) (f : Core → Core) : (s.modCore k f).nonce = s.nonce := rfl
@[simp] theorem State.modCore_report (k : Nat) (f : Core → Core) : (s.modCore k f).report = s.report := rfl
@[simp] theorem State.modCore_m1 (k : Nat) (f : Core → Core) : (s.modCore k f).m1 = s.m1 := rfl
@[simp] theorem State.modCore_s1 (k : Nat) (f : Core → Core) : (s.modCore k f).s1 = s.s1 := rfl
@[simp] theorem State.modCore_cert (k : Nat) (f : Core → Core) : (s.modCore k f).cert = s.cert := rfl
@[simp] theorem State.modCore_pk0 (k : Nat) (f : Core → Core) : (s.modCore k f).pk0 = s.pk0 := rfl
@[simp] theorem State.modCore_m2 (k : Nat) (f : Core → Core) : (s.modCore k f).m2 = s.m2 := rfl
@[simp] theorem State.modCore_s2 (k : Nat) (f : Core → Core) : (s.modCore k f).s2 = s.s2 := rfl
@[simp] theorem State.modCore_cert2 (k : Nat) (f : Core → Core) : (s.modCore k f).cert2 = s.cert2 := rfl
@[simp] theorem State.modCore_keysErased (k : Nat) (f : Core → Core) : (s.modCore k f).keysErased = s.keysErased := rfl
@[simp] theorem State.modCore_fuses (k : Nat) (f : Core → Core) : (s.modCore k f).fuses = s.fuses := rfl
@[simp] theorem State.modCore_lcErr (k : Nat) (f : Core → Core) : (s.modCore k f).lcErr = s.lcErr := rfl
@[simp] theorem State.modCore_lcTarget (k : Nat) (f : Core → Core) : (s.modCore k f).lcTarget = s.lcTarget := rfl
@[simp] theorem State.modCore_errCor (k : Nat) (f : Core → Core) : (s.modCore k f).errCor = s.errCor := rfl
@[simp] theorem State.modCore_errUnc (k : Nat) (f : Core → Core) : (s.modCore k f).errUnc = s.errUnc := rfl
@[simp] theorem State.modCore_xlbase (k : Nat) (f : Core → Core) : (s.modCore k f).xlbase = s.xlbase := rfl
@[simp] theorem State.modCore_podstag (k : Nat) (f : Core → Core) : (s.modCore k f).podstag = s.podstag := rfl
@[simp] theorem State.modCore_podMemb (k : Nat) (f : Core → Core) : (s.modCore k f).podMemb = s.podMemb := rfl
@[simp] theorem State.modCore_podg (k : Nat) (f : Core → Core) : (s.modCore k f).podg = s.podg := rfl
@[simp] theorem State.modCore_podEn (k : Nat) (f : Core → Core) : (s.modCore k f).podEn = s.podEn := rfl
@[simp] theorem State.modCore_halted (k : Nat) (f : Core → Core) : (s.modCore k f).halted = s.halted := rfl
@[simp] theorem State.modCore_tb (k : Nat) (f : Core → Core) : (s.modCore k f).tb = s.tb := rfl
@[simp] theorem State.modCore_tbCopies (k : Nat) (f : Core → Core) : (s.modCore k f).tbCopies = s.tbCopies := rfl
@[simp] theorem State.modCore_tbLock (k : Nat) (f : Core → Core) : (s.modCore k f).tbLock = s.tbLock := rfl
@[simp] theorem State.modCore_tbOffs (k : Nat) (f : Core → Core) : (s.modCore k f).tbOffs = s.tbOffs := rfl
@[simp] theorem State.modCore_tbSlow (k : Nat) (f : Core → Core) : (s.modCore k f).tbSlow = s.tbSlow := rfl
@[simp] theorem State.modCore_msix (k : Nat) (f : Core → Core) : (s.modCore k f).msix = s.msix := rfl
@[simp] theorem State.modCore_hostMem (k : Nat) (f : Core → Core) : (s.modCore k f).hostMem = s.hostMem := rfl
@[simp] theorem State.modCore_hostRead (k : Nat) (f : Core → Core) : (s.modCore k f).hostRead = s.hostRead := rfl
@[simp] theorem State.modCore_hostPois (k : Nat) (f : Core → Core) : (s.modCore k f).hostPois = s.hostPois := rfl
@[simp] theorem State.modCore_now (k : Nat) (f : Core → Core) : (s.modCore k f).now = s.now := rfl
@[simp] theorem State.modCore_halfNs (k : Nat) (f : Core → Core) : (s.modCore k f).halfNs = s.halfNs := rfl
@[simp] theorem State.modCore_focus (k : Nat) (f : Core → Core) : (s.modCore k f).focus = s.focus := rfl
@[simp] theorem State.modCore_agenda (k : Nat) (f : Core → Core) : (s.modCore k f).agenda = s.agenda := rfl
@[simp] theorem State.modCore_tick (k : Nat) (f : Core → Core) : (s.modCore k f).tick = s.tick := rfl

/-! ### setCtx -/

@[simp] theorem State.setCtx_modId (k : Nat) (n : Bool) (x : Ctx) : (s.setCtx k n x).modId = s.modId := rfl
@[simp] theorem State.setCtx_inPod (k : Nat) (n : Bool) (x : Ctx) : (s.setCtx k n x).inPod = s.inPod := rfl
@[simp] theorem State.setCtx_mem (k : Nat) (n : Bool) (x : Ctx) : (s.setCtx k n x).mem = s.mem := rfl
@[simp] theorem State.setCtx_poison (k : Nat) (n : Bool) (x : Ctx) : (s.setCtx k n x).poison = s.poison := rfl
@[simp] theorem State.setCtx_full (k : Nat) (n : Bool) (x : Ctx) : (s.setCtx k n x).full = s.full := rfl
@[simp] theorem State.setCtx_spmLive (k : Nat) (n : Bool) (x : Ctx) : (s.setCtx k n x).spmLive = s.spmLive := rfl
@[simp] theorem State.setCtx_marks (k : Nat) (n : Bool) (x : Ctx) : (s.setCtx k n x).marks = s.marks := rfl
@[simp] theorem State.setCtx_monitors (k : Nat) (n : Bool) (x : Ctx) : (s.setCtx k n x).monitors = s.monitors := rfl
@[simp] theorem State.setCtx_quads (k : Nat) (n : Bool) (x : Ctx) : (s.setCtx k n x).quads = s.quads := rfl
@[simp] theorem State.setCtx_clusters (k : Nat) (n : Bool) (x : Ctx) : (s.setCtx k n x).clusters = s.clusters := rfl
@[simp] theorem State.setCtx_towers (k : Nat) (n : Bool) (x : Ctx) : (s.setCtx k n x).towers = s.towers := rfl
@[simp] theorem State.setCtx_groups (k : Nat) (n : Bool) (x : Ctx) : (s.setCtx k n x).groups = s.groups := rfl
@[simp] theorem State.setCtx_dram (k : Nat) (n : Bool) (x : Ctx) : (s.setCtx k n x).dram = s.dram := rfl
@[simp] theorem State.setCtx_ports (k : Nat) (n : Bool) (x : Ctx) : (s.setCtx k n x).ports = s.ports := rfl
@[simp] theorem State.setCtx_regs (k : Nat) (n : Bool) (x : Ctx) : (s.setCtx k n x).regs = s.regs := rfl
@[simp] theorem State.setCtx_dommap (k : Nat) (n : Bool) (x : Ctx) : (s.setCtx k n x).dommap = s.dommap := rfl
@[simp] theorem State.setCtx_fabric (k : Nat) (n : Bool) (x : Ctx) : (s.setCtx k n x).fabric = s.fabric := rfl
@[simp] theorem State.setCtx_groupOps (k : Nat) (n : Bool) (x : Ctx) : (s.setCtx k n x).groupOps = s.groupOps := rfl
@[simp] theorem State.setCtx_releases (k : Nat) (n : Bool) (x : Ctx) : (s.setCtx k n x).releases = s.releases := rfl
@[simp] theorem State.setCtx_refusals (k : Nat) (n : Bool) (x : Ctx) : (s.setCtx k n x).refusals = s.refusals := rfl
@[simp] theorem State.setCtx_nextId (k : Nat) (n : Bool) (x : Ctx) : (s.setCtx k n x).nextId = s.nextId := rfl
@[simp] theorem State.setCtx_queues (k : Nat) (n : Bool) (x : Ctx) : (s.setCtx k n x).queues = s.queues := rfl
@[simp] theorem State.setCtx_events (k : Nat) (n : Bool) (x : Ctx) : (s.setCtx k n x).events = s.events := rfl
@[simp] theorem State.setCtx_slots (k : Nat) (n : Bool) (x : Ctx) : (s.setCtx k n x).slots = s.slots := rfl
@[simp] theorem State.setCtx_evsel (k : Nat) (n : Bool) (x : Ctx) : (s.setCtx k n x).evsel = s.evsel := rfl
@[simp] theorem State.setCtx_held (k : Nat) (n : Bool) (x : Ctx) : (s.setCtx k n x).held = s.held := rfl
@[simp] theorem State.setCtx_hldrop (k : Nat) (n : Bool) (x : Ctx) : (s.setCtx k n x).hldrop = s.hldrop := rfl
@[simp] theorem State.setCtx_links (k : Nat) (n : Bool) (x : Ctx) : (s.setCtx k n x).links = s.links := rfl
@[simp] theorem State.setCtx_clsel (k : Nat) (n : Bool) (x : Ctx) : (s.setCtx k n x).clsel = s.clsel := rfl
@[simp] theorem State.setCtx_featLower (k : Nat) (n : Bool) (x : Ctx) : (s.setCtx k n x).featLower = s.featLower := rfl
@[simp] theorem State.setCtx_featUpper (k : Nat) (n : Bool) (x : Ctx) : (s.setCtx k n x).featUpper = s.featUpper := rfl
@[simp] theorem State.setCtx_featLowerSet (k : Nat) (n : Bool) (x : Ctx) : (s.setCtx k n x).featLowerSet = s.featLowerSet := rfl
@[simp] theorem State.setCtx_featUpperSet (k : Nat) (n : Bool) (x : Ctx) : (s.setCtx k n x).featUpperSet = s.featUpperSet := rfl
@[simp] theorem State.setCtx_featAcc (k : Nat) (n : Bool) (x : Ctx) : (s.setCtx k n x).featAcc = s.featAcc := rfl
@[simp] theorem State.setCtx_wiped (k : Nat) (n : Bool) (x : Ctx) : (s.setCtx k n x).wiped = s.wiped := rfl
@[simp] theorem State.setCtx_go (k : Nat) (n : Bool) (x : Ctx) : (s.setCtx k n x).go = s.go := rfl
@[simp] theorem State.setCtx_measured (k : Nat) (n : Bool) (x : Ctx) : (s.setCtx k n x).measured = s.measured := rfl
@[simp] theorem State.setCtx_bootReady (k : Nat) (n : Bool) (x : Ctx) : (s.setCtx k n x).bootReady = s.bootReady := rfl
@[simp] theorem State.setCtx_fwWritten (k : Nat) (n : Bool) (x : Ctx) : (s.setCtx k n x).fwWritten = s.fwWritten := rfl
@[simp] theorem State.setCtx_lock (k : Nat) (n : Bool) (x : Ctx) : (s.setCtx k n x).lock = s.lock := rfl
@[simp] theorem State.setCtx_lockLimit (k : Nat) (n : Bool) (x : Ctx) : (s.setCtx k n x).lockLimit = s.lockLimit := rfl
@[simp] theorem State.setCtx_lockBase (k : Nat) (n : Bool) (x : Ctx) : (s.setCtx k n x).lockBase = s.lockBase := rfl
@[simp] theorem State.setCtx_alarm (k : Nat) (n : Bool) (x : Ctx) : (s.setCtx k n x).alarm = s.alarm := rfl
@[simp] theorem State.setCtx_alarmAct (k : Nat) (n : Bool) (x : Ctx) : (s.setCtx k n x).alarmAct = s.alarmAct := rfl
@[simp] theorem State.setCtx_atBusy (k : Nat) (n : Bool) (x : Ctx) : (s.setCtx k n x).atBusy = s.atBusy := rfl
@[simp] theorem State.setCtx_atErr (k : Nat) (n : Bool) (x : Ctx) : (s.setCtx k n x).atErr = s.atErr := rfl
@[simp] theorem State.setCtx_nonce (k : Nat) (n : Bool) (x : Ctx) : (s.setCtx k n x).nonce = s.nonce := rfl
@[simp] theorem State.setCtx_report (k : Nat) (n : Bool) (x : Ctx) : (s.setCtx k n x).report = s.report := rfl
@[simp] theorem State.setCtx_m1 (k : Nat) (n : Bool) (x : Ctx) : (s.setCtx k n x).m1 = s.m1 := rfl
@[simp] theorem State.setCtx_s1 (k : Nat) (n : Bool) (x : Ctx) : (s.setCtx k n x).s1 = s.s1 := rfl
@[simp] theorem State.setCtx_cert (k : Nat) (n : Bool) (x : Ctx) : (s.setCtx k n x).cert = s.cert := rfl
@[simp] theorem State.setCtx_pk0 (k : Nat) (n : Bool) (x : Ctx) : (s.setCtx k n x).pk0 = s.pk0 := rfl
@[simp] theorem State.setCtx_m2 (k : Nat) (n : Bool) (x : Ctx) : (s.setCtx k n x).m2 = s.m2 := rfl
@[simp] theorem State.setCtx_s2 (k : Nat) (n : Bool) (x : Ctx) : (s.setCtx k n x).s2 = s.s2 := rfl
@[simp] theorem State.setCtx_cert2 (k : Nat) (n : Bool) (x : Ctx) : (s.setCtx k n x).cert2 = s.cert2 := rfl
@[simp] theorem State.setCtx_keysErased (k : Nat) (n : Bool) (x : Ctx) : (s.setCtx k n x).keysErased = s.keysErased := rfl
@[simp] theorem State.setCtx_fuses (k : Nat) (n : Bool) (x : Ctx) : (s.setCtx k n x).fuses = s.fuses := rfl
@[simp] theorem State.setCtx_lcErr (k : Nat) (n : Bool) (x : Ctx) : (s.setCtx k n x).lcErr = s.lcErr := rfl
@[simp] theorem State.setCtx_lcTarget (k : Nat) (n : Bool) (x : Ctx) : (s.setCtx k n x).lcTarget = s.lcTarget := rfl
@[simp] theorem State.setCtx_errCor (k : Nat) (n : Bool) (x : Ctx) : (s.setCtx k n x).errCor = s.errCor := rfl
@[simp] theorem State.setCtx_errUnc (k : Nat) (n : Bool) (x : Ctx) : (s.setCtx k n x).errUnc = s.errUnc := rfl
@[simp] theorem State.setCtx_xlbase (k : Nat) (n : Bool) (x : Ctx) : (s.setCtx k n x).xlbase = s.xlbase := rfl
@[simp] theorem State.setCtx_podstag (k : Nat) (n : Bool) (x : Ctx) : (s.setCtx k n x).podstag = s.podstag := rfl
@[simp] theorem State.setCtx_podMemb (k : Nat) (n : Bool) (x : Ctx) : (s.setCtx k n x).podMemb = s.podMemb := rfl
@[simp] theorem State.setCtx_podg (k : Nat) (n : Bool) (x : Ctx) : (s.setCtx k n x).podg = s.podg := rfl
@[simp] theorem State.setCtx_podEn (k : Nat) (n : Bool) (x : Ctx) : (s.setCtx k n x).podEn = s.podEn := rfl
@[simp] theorem State.setCtx_halted (k : Nat) (n : Bool) (x : Ctx) : (s.setCtx k n x).halted = s.halted := rfl
@[simp] theorem State.setCtx_tb (k : Nat) (n : Bool) (x : Ctx) : (s.setCtx k n x).tb = s.tb := rfl
@[simp] theorem State.setCtx_tbCopies (k : Nat) (n : Bool) (x : Ctx) : (s.setCtx k n x).tbCopies = s.tbCopies := rfl
@[simp] theorem State.setCtx_tbLock (k : Nat) (n : Bool) (x : Ctx) : (s.setCtx k n x).tbLock = s.tbLock := rfl
@[simp] theorem State.setCtx_tbOffs (k : Nat) (n : Bool) (x : Ctx) : (s.setCtx k n x).tbOffs = s.tbOffs := rfl
@[simp] theorem State.setCtx_tbSlow (k : Nat) (n : Bool) (x : Ctx) : (s.setCtx k n x).tbSlow = s.tbSlow := rfl
@[simp] theorem State.setCtx_msix (k : Nat) (n : Bool) (x : Ctx) : (s.setCtx k n x).msix = s.msix := rfl
@[simp] theorem State.setCtx_hostMem (k : Nat) (n : Bool) (x : Ctx) : (s.setCtx k n x).hostMem = s.hostMem := rfl
@[simp] theorem State.setCtx_hostRead (k : Nat) (n : Bool) (x : Ctx) : (s.setCtx k n x).hostRead = s.hostRead := rfl
@[simp] theorem State.setCtx_hostPois (k : Nat) (n : Bool) (x : Ctx) : (s.setCtx k n x).hostPois = s.hostPois := rfl
@[simp] theorem State.setCtx_now (k : Nat) (n : Bool) (x : Ctx) : (s.setCtx k n x).now = s.now := rfl
@[simp] theorem State.setCtx_halfNs (k : Nat) (n : Bool) (x : Ctx) : (s.setCtx k n x).halfNs = s.halfNs := rfl
@[simp] theorem State.setCtx_focus (k : Nat) (n : Bool) (x : Ctx) : (s.setCtx k n x).focus = s.focus := rfl
@[simp] theorem State.setCtx_agenda (k : Nat) (n : Bool) (x : Ctx) : (s.setCtx k n x).agenda = s.agenda := rfl
@[simp] theorem State.setCtx_tick (k : Nat) (n : Bool) (x : Ctx) : (s.setCtx k n x).tick = s.tick := rfl

/-! ### modCtx -/

@[simp] theorem State.modCtx_modId (k : Nat) (n : Bool) (f : Ctx → Ctx) : (s.modCtx k n f).modId = s.modId := rfl
@[simp] theorem State.modCtx_inPod (k : Nat) (n : Bool) (f : Ctx → Ctx) : (s.modCtx k n f).inPod = s.inPod := rfl
@[simp] theorem State.modCtx_mem (k : Nat) (n : Bool) (f : Ctx → Ctx) : (s.modCtx k n f).mem = s.mem := rfl
@[simp] theorem State.modCtx_poison (k : Nat) (n : Bool) (f : Ctx → Ctx) : (s.modCtx k n f).poison = s.poison := rfl
@[simp] theorem State.modCtx_full (k : Nat) (n : Bool) (f : Ctx → Ctx) : (s.modCtx k n f).full = s.full := rfl
@[simp] theorem State.modCtx_spmLive (k : Nat) (n : Bool) (f : Ctx → Ctx) : (s.modCtx k n f).spmLive = s.spmLive := rfl
@[simp] theorem State.modCtx_marks (k : Nat) (n : Bool) (f : Ctx → Ctx) : (s.modCtx k n f).marks = s.marks := rfl
@[simp] theorem State.modCtx_monitors (k : Nat) (n : Bool) (f : Ctx → Ctx) : (s.modCtx k n f).monitors = s.monitors := rfl
@[simp] theorem State.modCtx_quads (k : Nat) (n : Bool) (f : Ctx → Ctx) : (s.modCtx k n f).quads = s.quads := rfl
@[simp] theorem State.modCtx_clusters (k : Nat) (n : Bool) (f : Ctx → Ctx) : (s.modCtx k n f).clusters = s.clusters := rfl
@[simp] theorem State.modCtx_towers (k : Nat) (n : Bool) (f : Ctx → Ctx) : (s.modCtx k n f).towers = s.towers := rfl
@[simp] theorem State.modCtx_groups (k : Nat) (n : Bool) (f : Ctx → Ctx) : (s.modCtx k n f).groups = s.groups := rfl
@[simp] theorem State.modCtx_dram (k : Nat) (n : Bool) (f : Ctx → Ctx) : (s.modCtx k n f).dram = s.dram := rfl
@[simp] theorem State.modCtx_ports (k : Nat) (n : Bool) (f : Ctx → Ctx) : (s.modCtx k n f).ports = s.ports := rfl
@[simp] theorem State.modCtx_regs (k : Nat) (n : Bool) (f : Ctx → Ctx) : (s.modCtx k n f).regs = s.regs := rfl
@[simp] theorem State.modCtx_dommap (k : Nat) (n : Bool) (f : Ctx → Ctx) : (s.modCtx k n f).dommap = s.dommap := rfl
@[simp] theorem State.modCtx_fabric (k : Nat) (n : Bool) (f : Ctx → Ctx) : (s.modCtx k n f).fabric = s.fabric := rfl
@[simp] theorem State.modCtx_groupOps (k : Nat) (n : Bool) (f : Ctx → Ctx) : (s.modCtx k n f).groupOps = s.groupOps := rfl
@[simp] theorem State.modCtx_releases (k : Nat) (n : Bool) (f : Ctx → Ctx) : (s.modCtx k n f).releases = s.releases := rfl
@[simp] theorem State.modCtx_refusals (k : Nat) (n : Bool) (f : Ctx → Ctx) : (s.modCtx k n f).refusals = s.refusals := rfl
@[simp] theorem State.modCtx_nextId (k : Nat) (n : Bool) (f : Ctx → Ctx) : (s.modCtx k n f).nextId = s.nextId := rfl
@[simp] theorem State.modCtx_queues (k : Nat) (n : Bool) (f : Ctx → Ctx) : (s.modCtx k n f).queues = s.queues := rfl
@[simp] theorem State.modCtx_events (k : Nat) (n : Bool) (f : Ctx → Ctx) : (s.modCtx k n f).events = s.events := rfl
@[simp] theorem State.modCtx_slots (k : Nat) (n : Bool) (f : Ctx → Ctx) : (s.modCtx k n f).slots = s.slots := rfl
@[simp] theorem State.modCtx_evsel (k : Nat) (n : Bool) (f : Ctx → Ctx) : (s.modCtx k n f).evsel = s.evsel := rfl
@[simp] theorem State.modCtx_held (k : Nat) (n : Bool) (f : Ctx → Ctx) : (s.modCtx k n f).held = s.held := rfl
@[simp] theorem State.modCtx_hldrop (k : Nat) (n : Bool) (f : Ctx → Ctx) : (s.modCtx k n f).hldrop = s.hldrop := rfl
@[simp] theorem State.modCtx_links (k : Nat) (n : Bool) (f : Ctx → Ctx) : (s.modCtx k n f).links = s.links := rfl
@[simp] theorem State.modCtx_clsel (k : Nat) (n : Bool) (f : Ctx → Ctx) : (s.modCtx k n f).clsel = s.clsel := rfl
@[simp] theorem State.modCtx_featLower (k : Nat) (n : Bool) (f : Ctx → Ctx) : (s.modCtx k n f).featLower = s.featLower := rfl
@[simp] theorem State.modCtx_featUpper (k : Nat) (n : Bool) (f : Ctx → Ctx) : (s.modCtx k n f).featUpper = s.featUpper := rfl
@[simp] theorem State.modCtx_featLowerSet (k : Nat) (n : Bool) (f : Ctx → Ctx) : (s.modCtx k n f).featLowerSet = s.featLowerSet := rfl
@[simp] theorem State.modCtx_featUpperSet (k : Nat) (n : Bool) (f : Ctx → Ctx) : (s.modCtx k n f).featUpperSet = s.featUpperSet := rfl
@[simp] theorem State.modCtx_featAcc (k : Nat) (n : Bool) (f : Ctx → Ctx) : (s.modCtx k n f).featAcc = s.featAcc := rfl
@[simp] theorem State.modCtx_wiped (k : Nat) (n : Bool) (f : Ctx → Ctx) : (s.modCtx k n f).wiped = s.wiped := rfl
@[simp] theorem State.modCtx_go (k : Nat) (n : Bool) (f : Ctx → Ctx) : (s.modCtx k n f).go = s.go := rfl
@[simp] theorem State.modCtx_measured (k : Nat) (n : Bool) (f : Ctx → Ctx) : (s.modCtx k n f).measured = s.measured := rfl
@[simp] theorem State.modCtx_bootReady (k : Nat) (n : Bool) (f : Ctx → Ctx) : (s.modCtx k n f).bootReady = s.bootReady := rfl
@[simp] theorem State.modCtx_fwWritten (k : Nat) (n : Bool) (f : Ctx → Ctx) : (s.modCtx k n f).fwWritten = s.fwWritten := rfl
@[simp] theorem State.modCtx_lock (k : Nat) (n : Bool) (f : Ctx → Ctx) : (s.modCtx k n f).lock = s.lock := rfl
@[simp] theorem State.modCtx_lockLimit (k : Nat) (n : Bool) (f : Ctx → Ctx) : (s.modCtx k n f).lockLimit = s.lockLimit := rfl
@[simp] theorem State.modCtx_lockBase (k : Nat) (n : Bool) (f : Ctx → Ctx) : (s.modCtx k n f).lockBase = s.lockBase := rfl
@[simp] theorem State.modCtx_alarm (k : Nat) (n : Bool) (f : Ctx → Ctx) : (s.modCtx k n f).alarm = s.alarm := rfl
@[simp] theorem State.modCtx_alarmAct (k : Nat) (n : Bool) (f : Ctx → Ctx) : (s.modCtx k n f).alarmAct = s.alarmAct := rfl
@[simp] theorem State.modCtx_atBusy (k : Nat) (n : Bool) (f : Ctx → Ctx) : (s.modCtx k n f).atBusy = s.atBusy := rfl
@[simp] theorem State.modCtx_atErr (k : Nat) (n : Bool) (f : Ctx → Ctx) : (s.modCtx k n f).atErr = s.atErr := rfl
@[simp] theorem State.modCtx_nonce (k : Nat) (n : Bool) (f : Ctx → Ctx) : (s.modCtx k n f).nonce = s.nonce := rfl
@[simp] theorem State.modCtx_report (k : Nat) (n : Bool) (f : Ctx → Ctx) : (s.modCtx k n f).report = s.report := rfl
@[simp] theorem State.modCtx_m1 (k : Nat) (n : Bool) (f : Ctx → Ctx) : (s.modCtx k n f).m1 = s.m1 := rfl
@[simp] theorem State.modCtx_s1 (k : Nat) (n : Bool) (f : Ctx → Ctx) : (s.modCtx k n f).s1 = s.s1 := rfl
@[simp] theorem State.modCtx_cert (k : Nat) (n : Bool) (f : Ctx → Ctx) : (s.modCtx k n f).cert = s.cert := rfl
@[simp] theorem State.modCtx_pk0 (k : Nat) (n : Bool) (f : Ctx → Ctx) : (s.modCtx k n f).pk0 = s.pk0 := rfl
@[simp] theorem State.modCtx_m2 (k : Nat) (n : Bool) (f : Ctx → Ctx) : (s.modCtx k n f).m2 = s.m2 := rfl
@[simp] theorem State.modCtx_s2 (k : Nat) (n : Bool) (f : Ctx → Ctx) : (s.modCtx k n f).s2 = s.s2 := rfl
@[simp] theorem State.modCtx_cert2 (k : Nat) (n : Bool) (f : Ctx → Ctx) : (s.modCtx k n f).cert2 = s.cert2 := rfl
@[simp] theorem State.modCtx_keysErased (k : Nat) (n : Bool) (f : Ctx → Ctx) : (s.modCtx k n f).keysErased = s.keysErased := rfl
@[simp] theorem State.modCtx_fuses (k : Nat) (n : Bool) (f : Ctx → Ctx) : (s.modCtx k n f).fuses = s.fuses := rfl
@[simp] theorem State.modCtx_lcErr (k : Nat) (n : Bool) (f : Ctx → Ctx) : (s.modCtx k n f).lcErr = s.lcErr := rfl
@[simp] theorem State.modCtx_lcTarget (k : Nat) (n : Bool) (f : Ctx → Ctx) : (s.modCtx k n f).lcTarget = s.lcTarget := rfl
@[simp] theorem State.modCtx_errCor (k : Nat) (n : Bool) (f : Ctx → Ctx) : (s.modCtx k n f).errCor = s.errCor := rfl
@[simp] theorem State.modCtx_errUnc (k : Nat) (n : Bool) (f : Ctx → Ctx) : (s.modCtx k n f).errUnc = s.errUnc := rfl
@[simp] theorem State.modCtx_xlbase (k : Nat) (n : Bool) (f : Ctx → Ctx) : (s.modCtx k n f).xlbase = s.xlbase := rfl
@[simp] theorem State.modCtx_podstag (k : Nat) (n : Bool) (f : Ctx → Ctx) : (s.modCtx k n f).podstag = s.podstag := rfl
@[simp] theorem State.modCtx_podMemb (k : Nat) (n : Bool) (f : Ctx → Ctx) : (s.modCtx k n f).podMemb = s.podMemb := rfl
@[simp] theorem State.modCtx_podg (k : Nat) (n : Bool) (f : Ctx → Ctx) : (s.modCtx k n f).podg = s.podg := rfl
@[simp] theorem State.modCtx_podEn (k : Nat) (n : Bool) (f : Ctx → Ctx) : (s.modCtx k n f).podEn = s.podEn := rfl
@[simp] theorem State.modCtx_halted (k : Nat) (n : Bool) (f : Ctx → Ctx) : (s.modCtx k n f).halted = s.halted := rfl
@[simp] theorem State.modCtx_tb (k : Nat) (n : Bool) (f : Ctx → Ctx) : (s.modCtx k n f).tb = s.tb := rfl
@[simp] theorem State.modCtx_tbCopies (k : Nat) (n : Bool) (f : Ctx → Ctx) : (s.modCtx k n f).tbCopies = s.tbCopies := rfl
@[simp] theorem State.modCtx_tbLock (k : Nat) (n : Bool) (f : Ctx → Ctx) : (s.modCtx k n f).tbLock = s.tbLock := rfl
@[simp] theorem State.modCtx_tbOffs (k : Nat) (n : Bool) (f : Ctx → Ctx) : (s.modCtx k n f).tbOffs = s.tbOffs := rfl
@[simp] theorem State.modCtx_tbSlow (k : Nat) (n : Bool) (f : Ctx → Ctx) : (s.modCtx k n f).tbSlow = s.tbSlow := rfl
@[simp] theorem State.modCtx_msix (k : Nat) (n : Bool) (f : Ctx → Ctx) : (s.modCtx k n f).msix = s.msix := rfl
@[simp] theorem State.modCtx_hostMem (k : Nat) (n : Bool) (f : Ctx → Ctx) : (s.modCtx k n f).hostMem = s.hostMem := rfl
@[simp] theorem State.modCtx_hostRead (k : Nat) (n : Bool) (f : Ctx → Ctx) : (s.modCtx k n f).hostRead = s.hostRead := rfl
@[simp] theorem State.modCtx_hostPois (k : Nat) (n : Bool) (f : Ctx → Ctx) : (s.modCtx k n f).hostPois = s.hostPois := rfl
@[simp] theorem State.modCtx_now (k : Nat) (n : Bool) (f : Ctx → Ctx) : (s.modCtx k n f).now = s.now := rfl
@[simp] theorem State.modCtx_halfNs (k : Nat) (n : Bool) (f : Ctx → Ctx) : (s.modCtx k n f).halfNs = s.halfNs := rfl
@[simp] theorem State.modCtx_focus (k : Nat) (n : Bool) (f : Ctx → Ctx) : (s.modCtx k n f).focus = s.focus := rfl
@[simp] theorem State.modCtx_agenda (k : Nat) (n : Bool) (f : Ctx → Ctx) : (s.modCtx k n f).agenda = s.agenda := rfl
@[simp] theorem State.modCtx_tick (k : Nat) (n : Bool) (f : Ctx → Ctx) : (s.modCtx k n f).tick = s.tick := rfl

/-! ### modCur -/

@[simp] theorem State.modCur_modId (f : Ctx → Ctx) : (s.modCur f).modId = s.modId := rfl
@[simp] theorem State.modCur_inPod (f : Ctx → Ctx) : (s.modCur f).inPod = s.inPod := rfl
@[simp] theorem State.modCur_mem (f : Ctx → Ctx) : (s.modCur f).mem = s.mem := rfl
@[simp] theorem State.modCur_poison (f : Ctx → Ctx) : (s.modCur f).poison = s.poison := rfl
@[simp] theorem State.modCur_full (f : Ctx → Ctx) : (s.modCur f).full = s.full := rfl
@[simp] theorem State.modCur_spmLive (f : Ctx → Ctx) : (s.modCur f).spmLive = s.spmLive := rfl
@[simp] theorem State.modCur_marks (f : Ctx → Ctx) : (s.modCur f).marks = s.marks := rfl
@[simp] theorem State.modCur_monitors (f : Ctx → Ctx) : (s.modCur f).monitors = s.monitors := rfl
@[simp] theorem State.modCur_quads (f : Ctx → Ctx) : (s.modCur f).quads = s.quads := rfl
@[simp] theorem State.modCur_clusters (f : Ctx → Ctx) : (s.modCur f).clusters = s.clusters := rfl
@[simp] theorem State.modCur_towers (f : Ctx → Ctx) : (s.modCur f).towers = s.towers := rfl
@[simp] theorem State.modCur_groups (f : Ctx → Ctx) : (s.modCur f).groups = s.groups := rfl
@[simp] theorem State.modCur_dram (f : Ctx → Ctx) : (s.modCur f).dram = s.dram := rfl
@[simp] theorem State.modCur_ports (f : Ctx → Ctx) : (s.modCur f).ports = s.ports := rfl
@[simp] theorem State.modCur_regs (f : Ctx → Ctx) : (s.modCur f).regs = s.regs := rfl
@[simp] theorem State.modCur_dommap (f : Ctx → Ctx) : (s.modCur f).dommap = s.dommap := rfl
@[simp] theorem State.modCur_fabric (f : Ctx → Ctx) : (s.modCur f).fabric = s.fabric := rfl
@[simp] theorem State.modCur_groupOps (f : Ctx → Ctx) : (s.modCur f).groupOps = s.groupOps := rfl
@[simp] theorem State.modCur_releases (f : Ctx → Ctx) : (s.modCur f).releases = s.releases := rfl
@[simp] theorem State.modCur_refusals (f : Ctx → Ctx) : (s.modCur f).refusals = s.refusals := rfl
@[simp] theorem State.modCur_nextId (f : Ctx → Ctx) : (s.modCur f).nextId = s.nextId := rfl
@[simp] theorem State.modCur_queues (f : Ctx → Ctx) : (s.modCur f).queues = s.queues := rfl
@[simp] theorem State.modCur_events (f : Ctx → Ctx) : (s.modCur f).events = s.events := rfl
@[simp] theorem State.modCur_slots (f : Ctx → Ctx) : (s.modCur f).slots = s.slots := rfl
@[simp] theorem State.modCur_evsel (f : Ctx → Ctx) : (s.modCur f).evsel = s.evsel := rfl
@[simp] theorem State.modCur_held (f : Ctx → Ctx) : (s.modCur f).held = s.held := rfl
@[simp] theorem State.modCur_hldrop (f : Ctx → Ctx) : (s.modCur f).hldrop = s.hldrop := rfl
@[simp] theorem State.modCur_links (f : Ctx → Ctx) : (s.modCur f).links = s.links := rfl
@[simp] theorem State.modCur_clsel (f : Ctx → Ctx) : (s.modCur f).clsel = s.clsel := rfl
@[simp] theorem State.modCur_featLower (f : Ctx → Ctx) : (s.modCur f).featLower = s.featLower := rfl
@[simp] theorem State.modCur_featUpper (f : Ctx → Ctx) : (s.modCur f).featUpper = s.featUpper := rfl
@[simp] theorem State.modCur_featLowerSet (f : Ctx → Ctx) : (s.modCur f).featLowerSet = s.featLowerSet := rfl
@[simp] theorem State.modCur_featUpperSet (f : Ctx → Ctx) : (s.modCur f).featUpperSet = s.featUpperSet := rfl
@[simp] theorem State.modCur_featAcc (f : Ctx → Ctx) : (s.modCur f).featAcc = s.featAcc := rfl
@[simp] theorem State.modCur_wiped (f : Ctx → Ctx) : (s.modCur f).wiped = s.wiped := rfl
@[simp] theorem State.modCur_go (f : Ctx → Ctx) : (s.modCur f).go = s.go := rfl
@[simp] theorem State.modCur_measured (f : Ctx → Ctx) : (s.modCur f).measured = s.measured := rfl
@[simp] theorem State.modCur_bootReady (f : Ctx → Ctx) : (s.modCur f).bootReady = s.bootReady := rfl
@[simp] theorem State.modCur_fwWritten (f : Ctx → Ctx) : (s.modCur f).fwWritten = s.fwWritten := rfl
@[simp] theorem State.modCur_lock (f : Ctx → Ctx) : (s.modCur f).lock = s.lock := rfl
@[simp] theorem State.modCur_lockLimit (f : Ctx → Ctx) : (s.modCur f).lockLimit = s.lockLimit := rfl
@[simp] theorem State.modCur_lockBase (f : Ctx → Ctx) : (s.modCur f).lockBase = s.lockBase := rfl
@[simp] theorem State.modCur_alarm (f : Ctx → Ctx) : (s.modCur f).alarm = s.alarm := rfl
@[simp] theorem State.modCur_alarmAct (f : Ctx → Ctx) : (s.modCur f).alarmAct = s.alarmAct := rfl
@[simp] theorem State.modCur_atBusy (f : Ctx → Ctx) : (s.modCur f).atBusy = s.atBusy := rfl
@[simp] theorem State.modCur_atErr (f : Ctx → Ctx) : (s.modCur f).atErr = s.atErr := rfl
@[simp] theorem State.modCur_nonce (f : Ctx → Ctx) : (s.modCur f).nonce = s.nonce := rfl
@[simp] theorem State.modCur_report (f : Ctx → Ctx) : (s.modCur f).report = s.report := rfl
@[simp] theorem State.modCur_m1 (f : Ctx → Ctx) : (s.modCur f).m1 = s.m1 := rfl
@[simp] theorem State.modCur_s1 (f : Ctx → Ctx) : (s.modCur f).s1 = s.s1 := rfl
@[simp] theorem State.modCur_cert (f : Ctx → Ctx) : (s.modCur f).cert = s.cert := rfl
@[simp] theorem State.modCur_pk0 (f : Ctx → Ctx) : (s.modCur f).pk0 = s.pk0 := rfl
@[simp] theorem State.modCur_m2 (f : Ctx → Ctx) : (s.modCur f).m2 = s.m2 := rfl
@[simp] theorem State.modCur_s2 (f : Ctx → Ctx) : (s.modCur f).s2 = s.s2 := rfl
@[simp] theorem State.modCur_cert2 (f : Ctx → Ctx) : (s.modCur f).cert2 = s.cert2 := rfl
@[simp] theorem State.modCur_keysErased (f : Ctx → Ctx) : (s.modCur f).keysErased = s.keysErased := rfl
@[simp] theorem State.modCur_fuses (f : Ctx → Ctx) : (s.modCur f).fuses = s.fuses := rfl
@[simp] theorem State.modCur_lcErr (f : Ctx → Ctx) : (s.modCur f).lcErr = s.lcErr := rfl
@[simp] theorem State.modCur_lcTarget (f : Ctx → Ctx) : (s.modCur f).lcTarget = s.lcTarget := rfl
@[simp] theorem State.modCur_errCor (f : Ctx → Ctx) : (s.modCur f).errCor = s.errCor := rfl
@[simp] theorem State.modCur_errUnc (f : Ctx → Ctx) : (s.modCur f).errUnc = s.errUnc := rfl
@[simp] theorem State.modCur_xlbase (f : Ctx → Ctx) : (s.modCur f).xlbase = s.xlbase := rfl
@[simp] theorem State.modCur_podstag (f : Ctx → Ctx) : (s.modCur f).podstag = s.podstag := rfl
@[simp] theorem State.modCur_podMemb (f : Ctx → Ctx) : (s.modCur f).podMemb = s.podMemb := rfl
@[simp] theorem State.modCur_podg (f : Ctx → Ctx) : (s.modCur f).podg = s.podg := rfl
@[simp] theorem State.modCur_podEn (f : Ctx → Ctx) : (s.modCur f).podEn = s.podEn := rfl
@[simp] theorem State.modCur_halted (f : Ctx → Ctx) : (s.modCur f).halted = s.halted := rfl
@[simp] theorem State.modCur_tb (f : Ctx → Ctx) : (s.modCur f).tb = s.tb := rfl
@[simp] theorem State.modCur_tbCopies (f : Ctx → Ctx) : (s.modCur f).tbCopies = s.tbCopies := rfl
@[simp] theorem State.modCur_tbLock (f : Ctx → Ctx) : (s.modCur f).tbLock = s.tbLock := rfl
@[simp] theorem State.modCur_tbOffs (f : Ctx → Ctx) : (s.modCur f).tbOffs = s.tbOffs := rfl
@[simp] theorem State.modCur_tbSlow (f : Ctx → Ctx) : (s.modCur f).tbSlow = s.tbSlow := rfl
@[simp] theorem State.modCur_msix (f : Ctx → Ctx) : (s.modCur f).msix = s.msix := rfl
@[simp] theorem State.modCur_hostMem (f : Ctx → Ctx) : (s.modCur f).hostMem = s.hostMem := rfl
@[simp] theorem State.modCur_hostRead (f : Ctx → Ctx) : (s.modCur f).hostRead = s.hostRead := rfl
@[simp] theorem State.modCur_hostPois (f : Ctx → Ctx) : (s.modCur f).hostPois = s.hostPois := rfl
@[simp] theorem State.modCur_now (f : Ctx → Ctx) : (s.modCur f).now = s.now := rfl
@[simp] theorem State.modCur_halfNs (f : Ctx → Ctx) : (s.modCur f).halfNs = s.halfNs := rfl
@[simp] theorem State.modCur_focus (f : Ctx → Ctx) : (s.modCur f).focus = s.focus := rfl
@[simp] theorem State.modCur_agenda (f : Ctx → Ctx) : (s.modCur f).agenda = s.agenda := rfl
@[simp] theorem State.modCur_tick (f : Ctx → Ctx) : (s.modCur f).tick = s.tick := rfl

/-! ### putRaw -/

@[simp] theorem State.putRaw_modId (k : Nat) (l : List Byte) : (s.putRaw k l).modId = s.modId := rfl
@[simp] theorem State.putRaw_inPod (k : Nat) (l : List Byte) : (s.putRaw k l).inPod = s.inPod := rfl
@[simp] theorem State.putRaw_poison (k : Nat) (l : List Byte) : (s.putRaw k l).poison = s.poison := rfl
@[simp] theorem State.putRaw_full (k : Nat) (l : List Byte) : (s.putRaw k l).full = s.full := rfl
@[simp] theorem State.putRaw_spmLive (k : Nat) (l : List Byte) : (s.putRaw k l).spmLive = s.spmLive := rfl
@[simp] theorem State.putRaw_marks (k : Nat) (l : List Byte) : (s.putRaw k l).marks = s.marks := rfl
@[simp] theorem State.putRaw_monitors (k : Nat) (l : List Byte) : (s.putRaw k l).monitors = s.monitors := rfl
@[simp] theorem State.putRaw_cores (k : Nat) (l : List Byte) : (s.putRaw k l).cores = s.cores := rfl
@[simp] theorem State.putRaw_quads (k : Nat) (l : List Byte) : (s.putRaw k l).quads = s.quads := rfl
@[simp] theorem State.putRaw_clusters (k : Nat) (l : List Byte) : (s.putRaw k l).clusters = s.clusters := rfl
@[simp] theorem State.putRaw_towers (k : Nat) (l : List Byte) : (s.putRaw k l).towers = s.towers := rfl
@[simp] theorem State.putRaw_groups (k : Nat) (l : List Byte) : (s.putRaw k l).groups = s.groups := rfl
@[simp] theorem State.putRaw_dram (k : Nat) (l : List Byte) : (s.putRaw k l).dram = s.dram := rfl
@[simp] theorem State.putRaw_ports (k : Nat) (l : List Byte) : (s.putRaw k l).ports = s.ports := rfl
@[simp] theorem State.putRaw_regs (k : Nat) (l : List Byte) : (s.putRaw k l).regs = s.regs := rfl
@[simp] theorem State.putRaw_dommap (k : Nat) (l : List Byte) : (s.putRaw k l).dommap = s.dommap := rfl
@[simp] theorem State.putRaw_fabric (k : Nat) (l : List Byte) : (s.putRaw k l).fabric = s.fabric := rfl
@[simp] theorem State.putRaw_groupOps (k : Nat) (l : List Byte) : (s.putRaw k l).groupOps = s.groupOps := rfl
@[simp] theorem State.putRaw_releases (k : Nat) (l : List Byte) : (s.putRaw k l).releases = s.releases := rfl
@[simp] theorem State.putRaw_refusals (k : Nat) (l : List Byte) : (s.putRaw k l).refusals = s.refusals := rfl
@[simp] theorem State.putRaw_nextId (k : Nat) (l : List Byte) : (s.putRaw k l).nextId = s.nextId := rfl
@[simp] theorem State.putRaw_queues (k : Nat) (l : List Byte) : (s.putRaw k l).queues = s.queues := rfl
@[simp] theorem State.putRaw_events (k : Nat) (l : List Byte) : (s.putRaw k l).events = s.events := rfl
@[simp] theorem State.putRaw_slots (k : Nat) (l : List Byte) : (s.putRaw k l).slots = s.slots := rfl
@[simp] theorem State.putRaw_evsel (k : Nat) (l : List Byte) : (s.putRaw k l).evsel = s.evsel := rfl
@[simp] theorem State.putRaw_held (k : Nat) (l : List Byte) : (s.putRaw k l).held = s.held := rfl
@[simp] theorem State.putRaw_hldrop (k : Nat) (l : List Byte) : (s.putRaw k l).hldrop = s.hldrop := rfl
@[simp] theorem State.putRaw_links (k : Nat) (l : List Byte) : (s.putRaw k l).links = s.links := rfl
@[simp] theorem State.putRaw_clsel (k : Nat) (l : List Byte) : (s.putRaw k l).clsel = s.clsel := rfl
@[simp] theorem State.putRaw_featLower (k : Nat) (l : List Byte) : (s.putRaw k l).featLower = s.featLower := rfl
@[simp] theorem State.putRaw_featUpper (k : Nat) (l : List Byte) : (s.putRaw k l).featUpper = s.featUpper := rfl
@[simp] theorem State.putRaw_featLowerSet (k : Nat) (l : List Byte) : (s.putRaw k l).featLowerSet = s.featLowerSet := rfl
@[simp] theorem State.putRaw_featUpperSet (k : Nat) (l : List Byte) : (s.putRaw k l).featUpperSet = s.featUpperSet := rfl
@[simp] theorem State.putRaw_featAcc (k : Nat) (l : List Byte) : (s.putRaw k l).featAcc = s.featAcc := rfl
@[simp] theorem State.putRaw_wiped (k : Nat) (l : List Byte) : (s.putRaw k l).wiped = s.wiped := rfl
@[simp] theorem State.putRaw_go (k : Nat) (l : List Byte) : (s.putRaw k l).go = s.go := rfl
@[simp] theorem State.putRaw_measured (k : Nat) (l : List Byte) : (s.putRaw k l).measured = s.measured := rfl
@[simp] theorem State.putRaw_bootReady (k : Nat) (l : List Byte) : (s.putRaw k l).bootReady = s.bootReady := rfl
@[simp] theorem State.putRaw_fwWritten (k : Nat) (l : List Byte) : (s.putRaw k l).fwWritten = s.fwWritten := rfl
@[simp] theorem State.putRaw_lock (k : Nat) (l : List Byte) : (s.putRaw k l).lock = s.lock := rfl
@[simp] theorem State.putRaw_lockLimit (k : Nat) (l : List Byte) : (s.putRaw k l).lockLimit = s.lockLimit := rfl
@[simp] theorem State.putRaw_lockBase (k : Nat) (l : List Byte) : (s.putRaw k l).lockBase = s.lockBase := rfl
@[simp] theorem State.putRaw_alarm (k : Nat) (l : List Byte) : (s.putRaw k l).alarm = s.alarm := rfl
@[simp] theorem State.putRaw_alarmAct (k : Nat) (l : List Byte) : (s.putRaw k l).alarmAct = s.alarmAct := rfl
@[simp] theorem State.putRaw_atBusy (k : Nat) (l : List Byte) : (s.putRaw k l).atBusy = s.atBusy := rfl
@[simp] theorem State.putRaw_atErr (k : Nat) (l : List Byte) : (s.putRaw k l).atErr = s.atErr := rfl
@[simp] theorem State.putRaw_nonce (k : Nat) (l : List Byte) : (s.putRaw k l).nonce = s.nonce := rfl
@[simp] theorem State.putRaw_report (k : Nat) (l : List Byte) : (s.putRaw k l).report = s.report := rfl
@[simp] theorem State.putRaw_m1 (k : Nat) (l : List Byte) : (s.putRaw k l).m1 = s.m1 := rfl
@[simp] theorem State.putRaw_s1 (k : Nat) (l : List Byte) : (s.putRaw k l).s1 = s.s1 := rfl
@[simp] theorem State.putRaw_cert (k : Nat) (l : List Byte) : (s.putRaw k l).cert = s.cert := rfl
@[simp] theorem State.putRaw_pk0 (k : Nat) (l : List Byte) : (s.putRaw k l).pk0 = s.pk0 := rfl
@[simp] theorem State.putRaw_m2 (k : Nat) (l : List Byte) : (s.putRaw k l).m2 = s.m2 := rfl
@[simp] theorem State.putRaw_s2 (k : Nat) (l : List Byte) : (s.putRaw k l).s2 = s.s2 := rfl
@[simp] theorem State.putRaw_cert2 (k : Nat) (l : List Byte) : (s.putRaw k l).cert2 = s.cert2 := rfl
@[simp] theorem State.putRaw_keysErased (k : Nat) (l : List Byte) : (s.putRaw k l).keysErased = s.keysErased := rfl
@[simp] theorem State.putRaw_fuses (k : Nat) (l : List Byte) : (s.putRaw k l).fuses = s.fuses := rfl
@[simp] theorem State.putRaw_lcErr (k : Nat) (l : List Byte) : (s.putRaw k l).lcErr = s.lcErr := rfl
@[simp] theorem State.putRaw_lcTarget (k : Nat) (l : List Byte) : (s.putRaw k l).lcTarget = s.lcTarget := rfl
@[simp] theorem State.putRaw_errCor (k : Nat) (l : List Byte) : (s.putRaw k l).errCor = s.errCor := rfl
@[simp] theorem State.putRaw_errUnc (k : Nat) (l : List Byte) : (s.putRaw k l).errUnc = s.errUnc := rfl
@[simp] theorem State.putRaw_xlbase (k : Nat) (l : List Byte) : (s.putRaw k l).xlbase = s.xlbase := rfl
@[simp] theorem State.putRaw_podstag (k : Nat) (l : List Byte) : (s.putRaw k l).podstag = s.podstag := rfl
@[simp] theorem State.putRaw_podMemb (k : Nat) (l : List Byte) : (s.putRaw k l).podMemb = s.podMemb := rfl
@[simp] theorem State.putRaw_podg (k : Nat) (l : List Byte) : (s.putRaw k l).podg = s.podg := rfl
@[simp] theorem State.putRaw_podEn (k : Nat) (l : List Byte) : (s.putRaw k l).podEn = s.podEn := rfl
@[simp] theorem State.putRaw_halted (k : Nat) (l : List Byte) : (s.putRaw k l).halted = s.halted := rfl
@[simp] theorem State.putRaw_tb (k : Nat) (l : List Byte) : (s.putRaw k l).tb = s.tb := rfl
@[simp] theorem State.putRaw_tbCopies (k : Nat) (l : List Byte) : (s.putRaw k l).tbCopies = s.tbCopies := rfl
@[simp] theorem State.putRaw_tbLock (k : Nat) (l : List Byte) : (s.putRaw k l).tbLock = s.tbLock := rfl
@[simp] theorem State.putRaw_tbOffs (k : Nat) (l : List Byte) : (s.putRaw k l).tbOffs = s.tbOffs := rfl
@[simp] theorem State.putRaw_tbSlow (k : Nat) (l : List Byte) : (s.putRaw k l).tbSlow = s.tbSlow := rfl
@[simp] theorem State.putRaw_msix (k : Nat) (l : List Byte) : (s.putRaw k l).msix = s.msix := rfl
@[simp] theorem State.putRaw_hostMem (k : Nat) (l : List Byte) : (s.putRaw k l).hostMem = s.hostMem := rfl
@[simp] theorem State.putRaw_hostRead (k : Nat) (l : List Byte) : (s.putRaw k l).hostRead = s.hostRead := rfl
@[simp] theorem State.putRaw_hostPois (k : Nat) (l : List Byte) : (s.putRaw k l).hostPois = s.hostPois := rfl
@[simp] theorem State.putRaw_now (k : Nat) (l : List Byte) : (s.putRaw k l).now = s.now := rfl
@[simp] theorem State.putRaw_halfNs (k : Nat) (l : List Byte) : (s.putRaw k l).halfNs = s.halfNs := rfl
@[simp] theorem State.putRaw_focus (k : Nat) (l : List Byte) : (s.putRaw k l).focus = s.focus := rfl
@[simp] theorem State.putRaw_agenda (k : Nat) (l : List Byte) : (s.putRaw k l).agenda = s.agenda := rfl
@[simp] theorem State.putRaw_tick (k : Nat) (l : List Byte) : (s.putRaw k l).tick = s.tick := rfl

theorem State.setCore_cores (k : Nat) (x : Core) : (s.setCore k x).cores = tset s.cores k x := rfl
theorem State.setQuad_quads (k : Nat) (x : Quad) : (s.setQuad k x).quads = tset s.quads k x := rfl
theorem State.setCluster_clusters (k : Nat) (x : Cluster) : (s.setCluster k x).clusters = tset s.clusters k x := rfl
theorem State.setTower_towers (k : Nat) (x : Tower) : (s.setTower k x).towers = tset s.towers k x := rfl
theorem State.setGroup_groups (k : Nat) (x : Group) : (s.setGroup k x).groups = tset s.groups k x := rfl
theorem State.setStack_dram (k : Nat) (x : Stack) : (s.setStack k x).dram = tset s.dram k x := rfl

/-! ### A core whose context is replaced -/

@[simp] theorem Core.setCtx_active (c : Core) (n : Bool) (x : Ctx) : (c.setCtx n x).active = c.active := by cases n <;> rfl
@[simp] theorem Core.setCtx_q (c : Core) (n : Bool) (x : Ctx) : (c.setCtx n x).q = c.q := by cases n <;> rfl
@[simp] theorem Core.setCtx_autosw (c : Core) (n : Bool) (x : Ctx) : (c.setCtx n x).autosw = c.autosw := by cases n <;> rfl
@[simp] theorem Core.setCtx_swth (c : Core) (n : Bool) (x : Ctx) : (c.setCtx n x).swth = c.swth := by cases n <;> rfl
@[simp] theorem Core.setCtx_bkRet (c : Core) (n : Bool) (x : Ctx) : (c.setCtx n x).bkRet = c.bkRet := by cases n <;> rfl
@[simp] theorem Core.setCtx_bkIdle (c : Core) (n : Bool) (x : Ctx) : (c.setCtx n x).bkIdle = c.bkIdle := by cases n <;> rfl
@[simp] theorem Core.setCtx_rdesc (c : Core) (n : Bool) (x : Ctx) : (c.setCtx n x).rdesc = c.rdesc := by cases n <;> rfl
@[simp] theorem Core.setCtx_mrseq (c : Core) (n : Bool) (x : Ctx) : (c.setCtx n x).mrseq = c.mrseq := by cases n <;> rfl
@[simp] theorem Core.setCtx_mxpf (c : Core) (n : Bool) (x : Ctx) : (c.setCtx n x).mxpf = c.mxpf := by cases n <;> rfl
@[simp] theorem Core.setCtx_mrset (c : Core) (n : Bool) (x : Ctx) : (c.setCtx n x).mrset = c.mrset := by cases n <;> rfl
@[simp] theorem Core.setCtx_pmcsel (c : Core) (n : Bool) (x : Ctx) : (c.setCtx n x).pmcsel = c.pmcsel := by cases n <;> rfl
@[simp] theorem Core.setCtx_pmc (c : Core) (n : Bool) (x : Ctx) : (c.setCtx n x).pmc = c.pmc := by cases n <;> rfl
@[simp] theorem Core.setCtx_ctlCtx (c : Core) (n : Bool) (x : Ctx) : (c.setCtx n x).ctlCtx = c.ctlCtx := by cases n <;> rfl
@[simp] theorem Core.setCtx_ctlErr (c : Core) (n : Bool) (x : Ctx) : (c.setCtx n x).ctlErr = c.ctlErr := by cases n <;> rfl
@[simp] theorem Core.setCtx_spill (c : Core) (n : Bool) (x : Ctx) : (c.setCtx n x).spill = c.spill := by cases n <;> rfl
@[simp] theorem Core.setCtx_save0 (c : Core) (n : Bool) (x : Ctx) : (c.setCtx n x).save0 = c.save0 := by cases n <;> rfl
@[simp] theorem Core.setCtx_save1 (c : Core) (n : Bool) (x : Ctx) : (c.setCtx n x).save1 = c.save1 := by cases n <;> rfl
@[simp] theorem Core.setCtx_shelf (c : Core) (n : Bool) (x : Ctx) : (c.setCtx n x).shelf = c.shelf := by cases n <;> rfl
@[simp] theorem Core.setCtx_banks (c : Core) (n : Bool) (x : Ctx) : (c.setCtx n x).banks = c.banks := by cases n <;> rfl
@[simp] theorem Core.setCtx_lrb (c : Core) (n : Bool) (x : Ctx) : (c.setCtx n x).lrb = c.lrb := by cases n <;> rfl
@[simp] theorem Core.setCtx_staged (c : Core) (n : Bool) (x : Ctx) : (c.setCtx n x).staged = c.staged := by cases n <;> rfl
@[simp] theorem Core.setCtx_vq (c : Core) (n : Bool) (x : Ctx) : (c.setCtx n x).vq = c.vq := by cases n <;> rfl
@[simp] theorem Core.setCtx_fly (c : Core) (n : Bool) (x : Ctx) : (c.setCtx n x).fly = c.fly := by cases n <;> rfl
@[simp] theorem Core.setCtx_late (c : Core) (n : Bool) (x : Ctx) : (c.setCtx n x).late = c.late := by cases n <;> rfl
@[simp] theorem Core.setCtx_outbound (c : Core) (n : Bool) (x : Ctx) : (c.setCtx n x).outbound = c.outbound := by cases n <;> rfl
@[simp] theorem Core.setCtx_swapping (c : Core) (n : Bool) (x : Ctx) : (c.setCtx n x).swapping = c.swapping := by cases n <;> rfl
@[simp] theorem Core.setCtx_pktOut (c : Core) (n : Bool) (x : Ctx) : (c.setCtx n x).pktOut = c.pktOut := by cases n <;> rfl
@[simp] theorem Core.setCtx_cyc (c : Core) (n : Bool) (x : Ctx) : (c.setCtx n x).cyc = c.cyc := by cases n <;> rfl
@[simp] theorem Core.setCtx_stopped (c : Core) (n : Bool) (x : Ctx) : (c.setCtx n x).stopped = c.stopped := by cases n <;> rfl
@[simp] theorem Core.ctx_setCtx_same (c : Core) (n : Bool) (x : Ctx) : (c.setCtx n x).ctx n = x := by cases n <;> rfl
@[simp] theorem Core.ctx_setCtx_other (c : Core) (n : Bool) (x : Ctx) : (c.setCtx n x).ctx (!n) = c.ctx (!n) := by cases n <;> rfl

end Sys2Proof.Machine
end

