-- ==== Sys2Proof/Laws/Memory.lean ====
section
/-! SUPPORT. Memory and tables: a read after a write, the canonical form that every write keeps, and the parts of the state read back. -/

namespace Sys2Proof.Machine

theorem cellsGet_cellsPut (l : List Host.Cell) (a a2 : Nat) (b : Byte) (h : memWf l = true) :
    cellsGet (cellsPut l a b) a2 = if a2 = a then b else cellsGet l a2 := by
  have below : ∀ (l : List Host.Cell) (k : Nat), memWf l = true → (∀ c ∈ l.head?, k < c.1) → cellsGet l k = 0 := by
    intro l
    induction l with
    | nil => intros; rfl
    | cons d l ih =>
      intro k hw hk
      have hd : k < d.1 := hk d (by simp)
      simp only [cellsGet]
      rw [if_neg (by omega)]
      refine ih k (memWf_tail hw) ?_
      cases l with
      | nil => simp
      | cons e l => simp only [memWf, Bool.and_eq_true, decide_eq_true_eq] at hw; simp; omega
  have above : ∀ (d : Host.Cell) (l : List Host.Cell), memWf (d :: l) = true → ∀ c ∈ l.head?, d.1 < c.1 := by
    intro d l hw
    cases l with
    | nil => simp
    | cons e l => simp only [memWf, Bool.and_eq_true, decide_eq_true_eq] at hw; simp; omega
  induction l with
  | nil =>
    simp only [cellsPut]
    by_cases hb : b = 0
    · rw [if_pos hb]; simp [cellsGet, hb]
    · rw [if_neg hb]
      by_cases e : a2 = a
      · simp [cellsGet, e]
      · simp [cellsGet, e, Ne.symm e]
  | cons d l ih =>
    have ht := memWf_tail h
    have ha := above d l h
    obtain ⟨k, v⟩ := d
    simp only [cellsPut]
    by_cases h1 : a < k
    · rw [if_pos h1]
      by_cases hb : b = 0
      · rw [if_pos hb]
        by_cases e : a2 = a
        · rw [if_pos e, e, hb]; exact below _ _ h (by simpa using h1)
        · rw [if_neg e]
      · rw [if_neg hb]; simp only [cellsGet]; by_cases e : a2 = a
        · rw [if_pos e, if_pos e.symm]
        · rw [if_neg e, if_neg (Ne.symm e)]
    · rw [if_neg h1]
      by_cases h2 : a = k
      · rw [if_pos h2]
        by_cases hb : b = 0
        · rw [if_pos hb]
          by_cases e : a2 = a
          · rw [if_pos e, e, hb, h2]; exact below _ _ ht ha
          · rw [if_neg e]; simp only [cellsGet]; rw [if_neg (by omega)]
        · rw [if_neg hb]
          by_cases e : a2 = a
          · simp [cellsGet, e]
          · simp only [cellsGet, if_neg e]; rw [if_neg (by omega), if_neg (by omega)]
      · rw [if_neg h2]
        simp only [cellsGet]
        by_cases e : k = a2
        · rw [if_pos e, if_neg (by omega), if_pos e]
        · rw [if_neg e, if_neg e]; exact ih ht

/-- A byte reads as the last write left it. -/
@[simp] theorem Mem.get_put_same (m : Mem) (a : Nat) (b : Byte) : (m.put a b).get a = b := by
  simp [Mem.get, Mem.put, cellsGet_cellsPut _ _ _ _ m.wf]

/-- A write changes no other byte. -/
theorem Mem.get_put_other (m : Mem) {a a2 : Nat} (b : Byte) (h : a2 ≠ a) : (m.put a b).get a2 = m.get a2 := by
  simp [Mem.get, Mem.put, cellsGet_cellsPut _ _ _ _ m.wf, h]

/-- Every memory is in canonical form, whatever wrote it. -/
theorem Mem.canonical (m : Mem) : memWf m.cells = true := m.wf

/-- A run of bytes changes none outside it. -/
theorem Mem.get_putN_other (m : Mem) (a : Nat) (l : List Byte) (a2 : Nat) (h : a2 < a ∨ a + l.length ≤ a2) : (m.putN a l).get a2 = m.get a2 := by
  induction l generalizing m a with
  | nil => rfl
  | cons b l ih =>
    simp only [List.length_cons] at h
    simp only [Mem.putN]
    rw [ih _ _ (by omega), Mem.get_put_other _ _ (by omega)]

/-- The entry written, and no other. -/
@[simp] theorem tget_tset_same {α : Type} (d : α) (l : Tbl α) (n : Nat) (x : α) : tget d (tset l n x) n = x := by
  induction l with
  | nil => simp [tset, tget]
  | cons e l ih =>
    obtain ⟨k, v⟩ := e
    simp only [tset]
    split_ifs with h1 h2
    · simp [tget]
    · simp [tget]
    · simp [tget, Ne.symm h2, ih]

theorem tget_tset_other {α : Type} (d : α) (l : Tbl α) {n n2 : Nat} (x : α) (h : n2 ≠ n) : tget d (tset l n x) n2 = tget d l n2 := by
  induction l with
  | nil => simp [tset, tget, Ne.symm h]
  | cons e l ih =>
    obtain ⟨k, v⟩ := e
    simp only [tset]
    split_ifs with h1 h2
    · simp [tget, Ne.symm h]
    · subst h2; simp [tget, Ne.symm h]
    · simp [tget, ih]

variable (s : State)

@[simp] theorem State.core_setCore_same (k : Nat) (c : Core) : (s.setCore k c).core k = c := tget_tset_same _ _ _ _
theorem State.core_setCore_other {k k2 : Nat} (c : Core) (h : k2 ≠ k) : (s.setCore k c).core k2 = s.core k2 := tget_tset_other _ _ _ h
@[simp] theorem State.quad_setQuad_same (k : Nat) (x : Quad) : (s.setQuad k x).quad k = x := tget_tset_same _ _ _ _
theorem State.quad_setQuad_other {k k2 : Nat} (x : Quad) (h : k2 ≠ k) : (s.setQuad k x).quad k2 = s.quad k2 := tget_tset_other _ _ _ h
@[simp] theorem State.cluster_setCluster_same (k : Nat) (x : Cluster) : (s.setCluster k x).cluster k = x := tget_tset_same _ _ _ _
theorem State.cluster_setCluster_other {k k2 : Nat} (x : Cluster) (h : k2 ≠ k) : (s.setCluster k x).cluster k2 = s.cluster k2 := tget_tset_other _ _ _ h
@[simp] theorem State.core_modCore_same (k : Nat) (f : Core → Core) : (s.modCore k f).core k = f (s.core k) := tget_tset_same _ _ _ _
@[simp] theorem State.ctx_modCtx_same (k : Nat) (n : Bool) (f : Ctx → Ctx) : (s.modCtx k n f).ctx k n = f (s.ctx k n) := by
  simp [State.modCtx, State.setCtx, State.ctx]
/-- A change of one context leaves the other of its core. -/
@[simp] theorem State.ctx_modCtx_shadow (k : Nat) (n : Bool) (f : Ctx → Ctx) : (s.modCtx k n f).ctx k (!n) = s.ctx k (!n) := by
  simp [State.modCtx, State.setCtx, State.ctx]
/-- A change of the executing context leaves which it is. -/
@[simp] theorem State.act_modCur (f : Ctx → Ctx) : (s.modCur f).act = s.act := by
  simp [State.modCur, State.modCtx, State.setCtx, State.act, State.me, State.setCore, State.core]
@[simp] theorem State.cur_modCur (f : Ctx → Ctx) : (s.modCur f).cur = f s.cur := by
  rw [State.cur, State.act_modCur]; simp [State.cur, State.modCur]

end Sys2Proof.Machine
end

