-- ==== Sys2Proof/Tests/Slice0.lean ====
section
/-! SUPPORT. Tests: terms that are not well-formed are refused, words written out from the encodings decode, single steps give what the spec's tables say, and every
statement's hypotheses are met by a state. -/

namespace Sys2Proof.Tests

open Sys2Proof Sys2Proof.Machine

set_option maxRecDepth 100000
set_option exponentiation.threshold 1100

/-! ### Helpers -/

/-- An answer that is not an error. -/
def okB {ε α : Type} (r : Except ε α) : Bool := match r with | .ok _ => true | .error _ => false

theorem okB_elim {ε α : Type} {r : Except ε α} (h : okB r = true) : ∃ a, r = .ok a := by
  cases r with
  | ok a => exact ⟨a, rfl⟩
  | error e => simp [okB] at h

theorem okB_bind {ε α β : Type} {r : Except ε α} {f : α → Except ε β} (h : okB (r >>= f) = true) : ∃ a, r = .ok a ∧ okB (f a) = true := by
  cases r with
  | ok a => exact ⟨a, rfl, h⟩
  | error e => simp [okB, bind, Except.bind] at h

/-- No predicate, no wait. -/
def plain : Com := { pred := { neg := false, p := 0 }, wt := 0 }
/-- The reset state with core 0 changed. -/
def withCore (f : Core → Core) : State := State.reset.modCore 0 f
/-- The reset state with the active context of core 0 changed. -/
def withCtx (f : Ctx → Ctx) : State := State.reset.modCtx 0 false f
/-- A register as an operand that is not its last use. -/
def reg (n : Fin 48) : Use Src := ⟨.g n, false⟩
/-- The reset state as leaf controller 0 executes. -/
def leaf0 : State := { State.reset with focus := leafKey 0 }

theorem ready_reset : Ready .tile plain State.reset := ⟨rfl, rfl, rfl, by decide, rfl⟩
/-- What the first turn of a placed word does. -/
def placed (w : Nat) : State := State.reset.withFetchWord 64 w
/-- `addi g3 := g0 + 5`. -/
def addi5 : Nat := 1 + 0x21 * 2 ^ 2 + 3 * 2 ^ 16 + 5 * 2 ^ 40

/-! ### Witnesses -/

theorem wit_StepRunsDecoded : ∃ (s v u : State) (key : Nat) (i : Instr), nextTurn s = (.issue key, v) ∧ v.halted = false ∧ isAgent key = true ∧ u = focusOn v key
    ∧ canIssue u = true ∧ clockStopped u (clusterOf key) = false ∧ dueTake u = false
    ∧ (u.byteAt (locIst u.focus u.cur.pc.toNat)).toNat % 4 ≠ 0
    ∧ u.cur.pc.toNat % 32 + lenBytes ((u.byteAt (locIst u.focus u.cur.pc.toNat)).toNat % 4) ≤ 32 ∧ decode (u.insnAt u.focus u.cur.pc) = .ok i :=
  ⟨placed addi5, (nextTurn (placed addi5)).2, _, 0, _, Prod.ext (by decide) rfl, by decide, by decide, rfl, by decide, by decide, by decide, by decide, by decide,
    (by decide : _ = Except.ok (Instr.addi plain (.g 3) (reg 0) 5))⟩


/-- Core 0 with the first eight banks of its scratchpad FULL. -/
def spm0 : State := withCore fun k => { k with banks := (List.range 8).map fun i => (64 + i, { st := .full }) }
/-- A page of DRAM at virtual address 0, readable, writable and pinned, in the TLB of cluster 0. -/
def glb0 : State := State.reset.modCluster 0 fun c => { c with tlb := [{ asid := 0, vbase := 0, size := 65536, leaf := 47 }] }
/-- A memory operand at g1. -/
def mem1 (sel : Space) : MemOp := { base := reg 1, sel, lu := false, na := false, off := .imm24 0 }
/-- The same with a 32-bit offset. -/
def mem32 (sel : Space) : MemOp32 := { base := reg 1, sel, lu := false, na := false, off := 0 }

theorem wit_loadOwn : ∃ (s s1 s2 s3 t : State) (c : Com) (k : LdKind) (d : Dst) (m : MemOp) (x : Word) (acc : Acc), Ready .any c s ∧
    (m.sel = .spm ∨ m.sel = .lane) ∧ readSrc s m.base.r = .ok (x, s1) ∧ memReady s1 = .ok () ∧
    access s1 m.sel rdUse (addressOf x m.off) (loadWidth k) (loadWidth k) = .ok (acc, s2) ∧ ownBanks s2 false acc.locs = .ok s3 ∧
    writeDst (withPois (if m.lu then killWords s3 acc.locs else s3) (acc.locs.any s3.poisonAt)) d (loadedValue k (acc.locs.map s3.byteAt)) = .ok t :=
  ⟨State.reset, _, _, _, _, plain, .d64, .g 3, mem1 .spm, _, _, ⟨rfl, rfl, rfl, by decide, rfl⟩, .inl rfl, rfl, rfl, rfl, rfl, rfl⟩
theorem wit_loadGlb : ∃ (s s1 s2 s3 s4 : State) (c : Com) (k : LdKind) (d : Dst) (m : MemOp) (x : Word) (acc : Acc) (dst : ReqDst), Ready .any c s ∧
    readSrc s m.base.r = .ok (x, s1) ∧ memReady s1 = .ok () ∧
    access s1 m.sel rdUse (addressOf x m.off) (loadWidth k) (loadWidth k) = .ok (acc, s2) ∧ acc.own = false ∧
    s2.linesBusy s2.focus s2.act [firstLoc acc / 64] = false ∧ s2.me.heldLine (firstLoc acc) = none ∧ reserveDst s2 d k s2.nextId = .ok (dst, s3) ∧ s4 = s3 :=
  ⟨glb0, _, _, _, _, plain, .d64, .g 3, mem1 .glb, _, _, _, ⟨rfl, rfl, rfl, by decide, rfl⟩, rfl, rfl, rfl, rfl, rfl, rfl, rfl, rfl⟩


/-- A request to which a reply is due to g3 of core 0. -/
def dueG3 : Req := { reqOf 0 false (.load [0]) 0 none with id := 1, dst := .reg (.g 3) .d64 }
/-- The reset state with requests on the fabric. -/
def withReqs (rs : List Req) : State := { State.reset with fabric := rs, nextId := 100 }
/-- The state before an instruction at an address that crosses its fetch block. -/
def crossing : State := ((placed 0).modCtx 0 false fun c => { c with pc := 28 }).putRaw (locIst 0 28) [1]
/-- What a turn of agent 0 needs before it fetches. -/
def fetches (s v u : State) : Prop := nextTurn s = (.issue 0, v) ∧ v.halted = false ∧ isAgent 0 = true ∧ u = focusOn v 0 ∧ canIssue u = true
  ∧ clockStopped u (clusterOf 0) = false ∧ dueTake u = false

theorem wit_FetchFaults :
    (∃ s v u, fetches s v u ∧ (u.byteAt (locIst u.focus u.cur.pc.toNat)).toNat % 4 = 0)
    ∧ (∃ s v u len, fetches s v u ∧ len = (u.byteAt (locIst u.focus u.cur.pc.toNat)).toNat % 4 ∧ len ≠ 0 ∧ 32 < u.cur.pc.toNat % 32 + lenBytes len)
    ∧ ∃ s v u len e, fetches s v u ∧ len = (u.byteAt (locIst u.focus u.cur.pc.toNat)).toNat % 4 ∧ len ≠ 0
      ∧ u.cur.pc.toNat % 32 + lenBytes len ≤ 32 ∧ decode (u.insnAt u.focus u.cur.pc) = .error e :=
  ⟨⟨placed 0, _, _, ⟨Prod.ext (by decide) rfl, by decide, by decide, rfl, by decide, by decide, by decide⟩, by decide⟩,
   ⟨crossing, _, _, _, ⟨Prod.ext (by decide) rfl, by decide, by decide, rfl, by decide, by decide, by decide⟩, rfl, by decide, by decide⟩,
   ⟨placed (1 + 0x1F * 2 ^ 2), _, _, _, _, ⟨Prod.ext (by decide) rfl, by decide, by decide, rfl, by decide, by decide, by decide⟩, rfl, by decide, by decide,
    (by decide : _ = Except.error DecodeError.unassigned)⟩⟩

theorem wit_turns :
    (∃ s v i, nextTurn s = (.event i, v) ∧ v.halted = false ∧ isStep i = true ∧ awaitsClock v i = false ∧ namesAgents i = true)
    ∧ (∃ (s : State) (t : Turn) (ts : List Turn), s.agenda = t :: ts)
    ∧ (∃ s f, step s = .fault f)
    ∧ (∃ s v t, nextTurn s = (t, v) ∧ v.halted = true ∧ t = .event .moduleReset)
    ∧ (∃ s v t a bs, nextTurn s = (t, v) ∧ v.halted = true ∧ t = .hostStore a bs)
    ∧ (∃ s v t, nextTurn s = (t, v) ∧ v.halted = true ∧ v.keysErased = false ∧ t ≠ .event .moduleReset ∧ ∀ a bs, t ≠ .hostStore a bs)
    ∧ (∃ s v x, nextTurn s = (.event (.attestRequest x), v) ∧ v.halted = true ∧ v.keysErased = true)
    ∧ ∃ s v x, nextTurn s = (.event (.registerWrite 0x300020 x), v) ∧ v.halted = true ∧ v.keysErased = true :=
  ⟨⟨{ State.reset with agenda := [.event .alarmTamper] }, _, _, rfl, rfl, rfl, rfl, rfl⟩, ⟨{ State.reset with agenda := [.elapse 1] }, _, _, rfl⟩,
   ⟨{ State.reset with agenda := [.issue 0x10000000] }, _, rfl⟩,
   ⟨{ State.reset with agenda := [.event .moduleReset], halted := true }, _, _, rfl, rfl, rfl⟩,
   ⟨{ State.reset with agenda := [.hostStore 0 [1]], halted := true }, _, _, _, _, rfl, rfl, rfl⟩,
   ⟨{ State.reset with agenda := [.elapse 1], halted := true }, _, _, rfl, rfl, rfl, by decide, by intro a bs h; cases h⟩,
   ⟨{ State.reset with agenda := [.event (.attestRequest 1)], halted := true, keysErased := true }, _, _, rfl, rfl, rfl⟩,
   ⟨{ State.reset with agenda := [.event (.registerWrite 0x300020 1)], halted := true, keysErased := true }, _, _, rfl, rfl, rfl⟩⟩

theorem wit_PredicatedOffAndWrongAgent :
    (∃ (i : Instr) (s : State) (c : Com) (w : Where), wholePred i = some c ∧ runsOn i = some w ∧ w.ok s.focus = true ∧ s.feDue = false ∧ s.predBusy c.pred.p = false ∧ s.predMask c.pred = 0)
    ∧ ∃ (i : Instr) (s : State) (w : Where), runsOn i = some w ∧ w.ok s.focus = false ∧ s.feDue = false :=
  ⟨⟨.add { pred := { neg := false, p := 1 }, wt := 0 } (.g 3) (reg 1) (reg 2), State.reset, _, _, rfl, rfl, rfl, rfl, rfl, by decide⟩,
   ⟨.take plain, leaf0, _, rfl, by decide, rfl⟩⟩

theorem wit_OperandForms :
    (∃ s : State, s.regBusy 3 = true) ∧ (∃ s : State, s.regBusy 3 = false) ∧ (∃ s : State, ∃ w ws, s.me.q.get 1 = .word w :: ws)
    ∧ (∃ s : State, ∃ id ws, s.me.q.get 1 = .due id :: ws) ∧ (∃ s : State, s.me.q.get 1 = [])
    ∧ (∃ s : State, ∃ w ws, s.cur.q4 = w :: ws) ∧ (∃ s : State, ∃ w ws, s.cur.q5 = w :: ws) ∧ (∃ s : State, ∃ w ws, s.cur.q7 = w :: ws)
    ∧ (∃ s : State, s.cur.q4 = [] ∧ s.cur.q5 = [] ∧ s.cur.q7 = [] ∧ s.cur.inbox = [])
    ∧ (∃ s : State, ∃ r rs, s.cur.inbox = r :: rs ∧ s.cur.inboxRead < 7) ∧ (∃ s : State, ∃ r rs, s.cur.inbox = r :: rs ∧ s.cur.inboxRead = 7)
    ∧ (∃ s : State, isTile s.focus = true ∧ ((s.core 3).q.get 0).length < 8) ∧ (∃ s : State, isTile s.focus = true ∧ 8 ≤ ((s.core 3).q.get 0).length) :=
  ⟨⟨withReqs [dueG3], by decide⟩, ⟨State.reset, by decide⟩, ⟨withCore fun k => { k with q := k.q.set 1 [.word 5] }, _, _, rfl⟩,
   ⟨withCore fun k => { k with q := k.q.set 1 [.due 5] }, _, _, rfl⟩, ⟨State.reset, rfl⟩, ⟨withCtx fun c => { c with q4 := [1] }, _, _, rfl⟩,
   ⟨withCtx fun c => { c with q5 := [1] }, _, _, rfl⟩, ⟨withCtx fun c => { c with q7 := [1] }, _, _, rfl⟩, ⟨State.reset, rfl, rfl, rfl, rfl⟩,
   ⟨withCtx fun c => { c with inbox := [1] }, _, _, rfl, by decide⟩, ⟨withCtx fun c => { c with inbox := [1], inboxRead := 7 }, _, _, rfl, rfl⟩,
   ⟨State.reset, by decide, by decide⟩, ⟨State.reset.modCore 3 fun k => { k with q := k.q.set 0 (List.replicate 8 (.word 1)) }, by decide, by decide⟩⟩

theorem wit_shapes :
    (∃ (s s1 s2 t : State) (c : Com) (d : Dst) (a b : Use Src) (x y v : Word), Ready .any c s ∧ readSrc s a.r = .ok (x, s1) ∧ readSrc s1 b.r = .ok (y, s2)
      ∧ writeDst s2 d v = .ok t)
    ∧ (∃ (s s1 s2 s3 t : State) (c : Com) (d : Dst) (a b z : Use Src) (x y w v : Word), Ready .any c s ∧ readSrc s a.r = .ok (x, s1)
      ∧ readSrc s1 b.r = .ok (y, s2) ∧ readSrc s2 z.r = .ok (w, s3) ∧ writeDst (s3.modCur fun k => { k with status := k.status ||| 8 }) d v = .ok t)
    ∧ (∃ (s t : State) (c : Com) (d : Dst) (v : Word), Ready .any c s ∧ writeDst s d v = .ok t)
    ∧ ∃ (pos : Fin 64) (len : Fin 128) (x y v : Word), pos.val + len.val ≤ 64 ∧
      ∀ i < 64, v.getLsbD i = if pos.val ≤ i ∧ i < pos.val + len.val then x.getLsbD (i - pos.val) else y.getLsbD i :=
  ⟨⟨State.reset, _, _, _, plain, .g 3, reg 1, reg 2, _, _, 7, ⟨rfl, rfl, rfl, by decide, rfl⟩, rfl, rfl, rfl⟩,
   ⟨State.reset, _, _, _, _, plain, .g 3, reg 1, reg 2, reg 4, _, _, _, 7, ⟨rfl, rfl, rfl, by decide, rfl⟩, rfl, rfl, rfl, rfl⟩,
   ⟨State.reset, _, plain, .g 3, 7, ⟨rfl, rfl, rfl, by decide, rfl⟩, rfl⟩, ⟨0, 64, 5, 6, 5, by decide, by decide⟩⟩

theorem wit_ControlResults :
    (∃ (s : State) (c : Com) (a : Use (Fin 8)), Ready .any c s ∧ s.predBusy a.r = false)
    ∧ (∃ (s t : State) (c : Com), Ready .any c s ∧ writeDst s (.g 47) (s.succPc.setWidth 64) = .ok t)
    ∧ (∃ (s s1 : State) (c : Com) (a : Use Src) (x : Word), Ready .any c s ∧ readSrc s a.r = .ok (x, s1) ∧ x.toNat % 2 ^ 32 ≠ 0)
    ∧ ∃ (s s1 : State) (c : Com) (a : Use Src) (x : Word), Ready .any c s ∧ readSrc s a.r = .ok (x, s1) ∧ x.toNat % 2 ^ 32 = 0 :=
  ⟨⟨State.reset, plain, ⟨1, false⟩, ⟨rfl, rfl, rfl, by decide, rfl⟩, rfl⟩, ⟨State.reset, _, plain, ⟨rfl, rfl, rfl, by decide, rfl⟩, rfl⟩,
   ⟨withCtx fun c => { c with g := c.g.set 1 3 }, _, plain, reg 1, _, ⟨rfl, rfl, rfl, by decide, rfl⟩, rfl, by decide⟩,
   ⟨State.reset, _, plain, reg 1, _, ⟨rfl, rfl, rfl, by decide, rfl⟩, rfl, by decide⟩⟩

/-- A line of the reuse buffer at location 0. -/
def line0 : LrbLine := { loc := 0, bytes := List.replicate 64 1, glb := true }

theorem wit_LoadHit : ∃ (s s1 s2 t : State) (c : Com) (k : LdKind) (d : Dst) (m : MemOp) (x : Word) (acc : Acc) (l : LrbLine), Ready .any c s ∧
    readSrc s m.base.r = .ok (x, s1) ∧ memReady s1 = .ok () ∧
    access s1 m.sel rdUse (addressOf x m.off) (loadWidth k) (loadWidth k) = .ok (acc, s2) ∧ acc.own = false ∧
    s2.linesBusy s2.focus s2.act [firstLoc acc / 64] = false ∧
    (!m.na && !(acc.ms.contains (firstLoc acc / 64)) && reusable (firstLoc acc) && (m.sel == .glb || m.sel == .cls || m.sel == .twr)) = true ∧ s2.me.heldLine (firstLoc acc) = some l ∧
    writeDst (withPois (countPmc (s2.modMe fun k => lrbTouch k (firstLoc acc)) s2.focus (some s2.act) 11 1) (l.poisAt (firstLoc acc))) d
        (loadedValue k ((l.bytes.drop (firstLoc acc % 64)).take acc.locs.length)) = .ok t :=
  ⟨glb0.modCore 0 fun k => { k with lrb := [line0] }, _, _, _, plain, .d64, .g 3, mem1 .glb, _, _, _, ⟨rfl, rfl, rfl, by decide, rfl⟩, rfl, rfl, rfl, rfl, rfl,
    by decide, rfl, rfl⟩

theorem wit_StoreResults :
    (∃ (s s1 s2 s3 s4 : State) (c : Com) (k : StKind) (d : Src) (m : MemOp) (x v : Word) (acc : Acc), Ready .any c s ∧ readSrc s m.base.r = .ok (x, s1) ∧
      readSrc s1 d = .ok (v, s2) ∧ memReady s2 = .ok () ∧ access s2 m.sel wrUse (addressOf x m.off) (storeWidth k) (storeWidth k) = .ok (acc, s3) ∧
      acc.own = true ∧ ownBanks s3 true acc.locs = .ok s4)
    ∧ ∃ (s s1 s2 s3 : State) (c : Com) (k : StKind) (d : Src) (m : MemOp) (x v : Word) (acc : Acc), Ready .any c s ∧ readSrc s m.base.r = .ok (x, s1) ∧
      readSrc s1 d = .ok (v, s2) ∧ memReady s2 = .ok () ∧ access s2 m.sel wrUse (addressOf x m.off) (storeWidth k) (storeWidth k) = .ok (acc, s3) ∧
      acc.own = false ∧ sendReady s3 acc.locs = .ok () :=
  ⟨⟨spm0, _, _, _, _, plain, .b64, .g 2, mem1 .spm, _, _, _, ⟨rfl, rfl, rfl, by decide, rfl⟩, rfl, rfl, rfl, rfl, rfl, rfl⟩,
   ⟨glb0, _, _, _, plain, .b64, .g 2, mem1 .glb, _, _, _, ⟨rfl, rfl, rfl, by decide, rfl⟩, rfl, rfl, rfl, rfl, rfl, rfl⟩⟩

/-- The same as spm0 with the first word FULL. -/
def full0 : State := { spm0 with full := [locSpm 0 0 / 8] }
/-- g1 holds the rmt address of core 1's scratchpad. -/
def rmt1 : State := withCtx fun c => { c with g := c.g.set 1 0x40000 }

theorem wit_FullEmptyResults :
    (∃ (s s1 s2 s3 t u : State) (c : Com) (d : Dst) (m : MemOp) (x : Word) (acc : Acc), Ready .any c s ∧ readSrc s m.base.r = .ok (x, s1) ∧ memReady s1 = .ok () ∧
      access s1 m.sel rdUse (addressOf x m.off) 8 8 = .ok (acc, s2) ∧ acc.own = true ∧ ownBanks s2 true [firstLoc acc] = .ok s3 ∧
      feTurn s2 .ldw (firstLoc acc) = true ∧ feTurn s2 .lde (firstLoc acc) = true ∧
      writeDst (withPois (if m.lu then killSpmWord s3 (firstLoc acc) else s3) (s3.poisonAt (firstLoc acc))) d
        (BitVec.ofNat 64 (s3.readLE (firstLoc acc) 8)) = .ok t ∧
      writeDst { s3 with full := nsDel s3.full (s3.phys (firstLoc acc) / 8) } d (BitVec.ofNat 64 (s3.readLE (firstLoc acc) 8)) = .ok u)
    ∧ (∃ (s s1 s2 s3 s4 : State) (c : Com) (d : Src) (m : MemOp) (x v : Word) (acc : Acc), Ready .any c s ∧ readSrc s m.base.r = .ok (x, s1) ∧
      readSrc s1 d = .ok (v, s2) ∧ memReady s2 = .ok () ∧ access s2 m.sel wrUse (addressOf x m.off) 8 8 = .ok (acc, s3) ∧ acc.own = true ∧
      ownBanks s3 true [firstLoc acc] = .ok s4 ∧ feTurn s3 .stw (firstLoc acc) = true ∧ feTurn s3 .stf (firstLoc acc) = true ∧
      feTurn s3 .setE (firstLoc acc) = true ∧ feTurn s3 .setF (firstLoc acc) = true)
    ∧ (∃ (s s1 s2 s3 : State) (c : Com) (d : Dst) (m : MemOp) (x : Word) (acc : Acc) (dst : ReqDst), Ready .any c s ∧ readSrc s m.base.r = .ok (x, s1) ∧
      memReady s1 = .ok () ∧ access s1 m.sel rdUse (addressOf x m.off) 8 8 = .ok (acc, s2) ∧ acc.own = false ∧ sendReady s2 [firstLoc acc] = .ok () ∧
      reserveDst s2 d .d64 s2.nextId = .ok (dst, s3) ∧ sendReady s3 [firstLoc acc] = .ok ())
    ∧ ∃ (s s1 s2 s3 : State) (c : Com) (d : Src) (m : MemOp) (x v : Word) (acc : Acc), Ready .any c s ∧ readSrc s m.base.r = .ok (x, s1) ∧
      readSrc s1 d = .ok (v, s2) ∧ memReady s2 = .ok () ∧ access s2 m.sel wrUse (addressOf x m.off) 8 8 = .ok (acc, s3) ∧ acc.own = false ∧
      sendReady s3 [firstLoc acc] = .ok () :=
  ⟨⟨full0, _, _, _, _, _, plain, .g 3, mem1 .spm, _, _, ⟨rfl, rfl, rfl, by decide, rfl⟩, rfl, rfl, rfl, rfl, rfl, by decide, by decide, rfl, rfl⟩,
   ⟨spm0, _, _, _, _, plain, .g 2, mem1 .spm, _, _, _, ⟨rfl, rfl, rfl, by decide, rfl⟩, rfl, rfl, rfl, rfl, rfl, rfl, by decide, by decide, by decide, by decide⟩,
   ⟨State.reset, _, _, _, plain, .g 3, mem1 .rmt, _, _, _, ⟨rfl, rfl, rfl, by decide, rfl⟩, rfl, rfl, rfl, rfl, rfl, rfl, rfl⟩,
   ⟨State.reset, _, _, _, plain, .g 2, mem1 .rmt, _, _, _, ⟨rfl, rfl, rfl, by decide, rfl⟩, rfl, rfl, rfl, rfl, rfl, rfl⟩⟩

/-- An access to the first n bytes of the cluster window. -/
def accCls (n : Nat) : Acc := { locs := (List.range n).map fun i => locCls 0 i, own := false, ms := [] }
/-- An access to the first n bytes of the own scratchpad. -/
def accSpm (n : Nat) : Acc := { locs := (List.range n).map fun i => locSpm 0 i, own := true, ms := [] }
/-- An access to the first n bytes of the tower's scratchpad. -/
def accTwr (n : Nat) : Acc := { locs := (List.range n).map fun i => locTwr 0 i, own := false, ms := [] }
theorem covered_reset (l : Nat) : State.reset.inCoverage l = false := by
  unfold State.inCoverage
  split
  · rfl
  · rename_i i a h
    have : (State.reset.cluster i).slots = Vector.replicate 4 {} := rfl
    simp [this]
theorem resolve_reset {key : Nat} {asid : BitVec 16} {sp : Space} {u : PageUse} {addr align : Nat} {as ls : List Nat} (hg : sp ≠ .glb) (hi : sp ≠ .ist)
    (h : as.mapM (directByte key sp) = some ls) (ha : addr % align = 0) :
    resolve State.reset key asid sp u addr align as = .ok { locs := ls, own := sp == .spm || sp == .lane, ms := [] } := by
  cases sp <;> simp_all [resolve, covered_reset]
theorem access_reset {sp : Space} {u : PageUse} {addr align n : Nat} {ls : List Nat} (hg : sp ≠ .glb) (hi : sp ≠ .ist)
    (h : (addrRange addr n).mapM (directByte 0 sp) = some ls) (ha : addr % align = 0) :
    access State.reset sp u addr align n = .ok ({ locs := ls, own := sp == .spm || sp == .lane, ms := [] }, State.reset) := by
  have f : State.reset.focus = 0 := rfl
  unfold access
  simp only [f, resolve_reset hg hi h ha, checkedIn, translated, beq_eq_false_iff_ne.mpr hg]
  rfl
theorem syncWord_reset {sp : Space} {u : PageUse} {addr : Nat} {ls : List Nat} (hg : sp ≠ .glb) (hi : sp ≠ .ist)
    (h : (addrRange addr 16).mapM (directByte 0 sp) = some ls) (ha : addr % 16 = 0) (hp : syncPlace (ls.headD 0) = true) :
    syncWord State.reset sp u addr = .ok { locs := ls, own := sp == .spm || sp == .lane, ms := [] } := by
  have f : State.reset.focus = 0 := rfl
  unfold syncWord
  rw [f, resolve_reset hg hi h ha]
  simp only [hp, if_true]
theorem access_cls0 (u : PageUse) : access State.reset .cls u 0 16 16 = .ok (accCls 16, State.reset) :=
  access_reset (by decide) (by decide) rfl rfl
/-- An access to the first n bytes of the page. -/
def accGlb (n : Nat) : Acc := { locs := List.range n, own := false, ms := [] }
/-- The same as glb0 with banks FULL. -/
def glbSpm : State := glb0.modCore 0 fun k => { k with banks := (List.range 8).map fun i => (64 + i, { st := .full }) }

theorem wit_Put : (∃ (s s1 s2 s3 : State) (c : Com) (d a : Src) (sel : Space) (len : BitVec 32) (r l : Word) (src dst : Acc), Ready .any c s ∧
      readSrc s a = .ok (r, s1) ∧ readSrc s1 d = .ok (l, s2) ∧ memReady s2 = .ok () ∧
      resolve s2 s2.focus s2.cur.asid .spm rdUse l.toNat 8 (addrRange l.toNat len.toNat) = .ok src ∧
      resolve s2 s2.focus s2.cur.asid sel wrUse r.toNat 8 (addrRange r.toNat len.toNat) = .ok dst ∧ sendReady (translated s2 sel (addrRange r.toNat len.toNat)) dst.locs = .ok () ∧
      ownBanks (translated s2 sel (addrRange r.toNat len.toNat)) false src.locs = .ok s3) :=
  ⟨glb0, _, _, _, plain, .g 1, .g 2, .glb, 8, _, _, _, _, ⟨rfl, rfl, rfl, by decide, rfl⟩, rfl, rfl, rfl, rfl, rfl, rfl, rfl⟩
theorem wit_Get : (∃ (s s1 s2 : State) (c : Com) (d a : Src) (sel : Space) (len : BitVec 32) (r l : Word) (src dst : Acc), Ready .any c s ∧
      readSrc s a = .ok (r, s1) ∧ readSrc s1 d = .ok (l, s2) ∧ memReady s2 = .ok () ∧
      resolve s2 s2.focus s2.cur.asid .spm rdUse l.toNat 8 (addrRange l.toNat len.toNat) = .ok dst ∧
      resolve s2 s2.focus s2.cur.asid sel rdUse r.toNat 8 (addrRange r.toNat len.toNat) = .ok src ∧
      sendReady (translated s2 sel (addrRange r.toNat len.toNat)) src.locs = .ok ()) :=
  ⟨glb0, _, _, plain, .g 1, .g 2, .glb, 8, _, _, _, _, ⟨rfl, rfl, rfl, by decide, rfl⟩, rfl, rfl, rfl, rfl, rfl, rfl⟩
theorem syncWord_glb0 : syncWord glb0 .spm wrUse (0 : Word).toNat = .ok (accSpm 16) := rfl
theorem wit_Putsig : (∃ (s s1 s2 s3 s4 u : State) (c : Com) (d a x : Src) (sel ssp : Space) (len : BitVec 32) (r y l : Word) (src dst sync : Acc), Ready .any c s ∧
      readSrc s a = .ok (r, s1) ∧ readSrc s1 x = .ok (y, s2) ∧ readSrc s2 d = .ok (l, s3) ∧ memReady s3 = .ok () ∧
      resolve s3 s3.focus s3.cur.asid .spm rdUse l.toNat 8 (addrRange l.toNat len.toNat) = .ok src ∧
      resolve s3 s3.focus s3.cur.asid sel wrUse r.toNat 8 (addrRange r.toNat len.toNat) = .ok dst ∧ syncWord s3 ssp wrUse y.toNat = .ok sync ∧
      u = tlbFills s3 (isFw s3.focus) s3.myCluster s3.cur.asid
        ((if sel = .glb then addrRange r.toNat len.toNat else []) ++ (if ssp = .glb then addrRange y.toNat 16 else [])) ∧
      u.linesBusy u.focus u.act (firstLoc sync / 64 :: linesOf dst.locs) = false ∧
      roomFor u (firstLoc sync :: (linesOf dst.locs).map (· * 64)) = true ∧ ownBanks u false src.locs = .ok s4) := by
  obtain ⟨v, hv⟩ := okB_elim (r := ownBanks (tlbFills glb0 (isFw glb0.focus) glb0.myCluster glb0.cur.asid (addrRange 0 8 ++ [])) false (accSpm 8).locs)
    (by decide)
  exact ⟨glb0, glb0, glb0, glb0, v, _, plain, .g 1, .g 2, .g 3, .glb, .spm, 8, 0, 0, 0, accSpm 8, accGlb 8, accSpm 16, ⟨rfl, rfl, rfl, by decide, rfl⟩, rfl, rfl,
    rfl, rfl, rfl, rfl, syncWord_glb0, rfl, by decide, by decide, hv⟩
theorem syncWord_own : syncWord spm0 (mem1 .spm).sel wrUse (addressOf 0 (mem1 .spm).off) = .ok (accSpm 16) := rfl
theorem wit_RaddOwn : (∃ (s s1 s2 s3 : State) (c : Com) (d : Src) (m : MemOp) (x v : Word) (acc : Acc), Ready .any c s ∧ readSrc s m.base.r = .ok (x, s1) ∧
      readSrc s1 d = .ok (v, s2) ∧ memReady s2 = .ok () ∧ syncWord s2 m.sel wrUse (addressOf x m.off) = .ok acc ∧ acc.own = true ∧
      ownBanks (translated s2 m.sel (addrRange (addressOf x m.off) 16)) true acc.locs = .ok s3) := by
  obtain ⟨u, hu⟩ := okB_elim (r := ownBanks spm0 true (accSpm 16).locs) (by decide)
  exact ⟨spm0, spm0, spm0, u, plain, .g 2, mem1 .spm, 0, 0, accSpm 16, ⟨rfl, rfl, rfl, by decide, rfl⟩, rfl, rfl, rfl, syncWord_own, rfl, hu⟩
theorem syncWord_twr : syncWord State.reset (mem1 .twr).sel wrUse (addressOf 0 (mem1 .twr).off) = .ok (accTwr 16) :=
  syncWord_reset (by decide) (by decide) rfl rfl (by decide)
theorem wit_RaddBeyond : ∃ (s s1 s2 : State) (c : Com) (d : Src) (m : MemOp) (x v : Word) (acc : Acc), Ready .any c s ∧ readSrc s m.base.r = .ok (x, s1) ∧
      readSrc s1 d = .ok (v, s2) ∧ memReady s2 = .ok () ∧ syncWord s2 m.sel wrUse (addressOf x m.off) = .ok acc ∧ acc.own = false ∧
      sendReady (translated s2 m.sel (addrRange (addressOf x m.off) 16)) [firstLoc acc] = .ok () :=
  ⟨State.reset, State.reset, State.reset, plain, .g 2, mem1 .twr, 0, 0, accTwr 16, ⟨rfl, rfl, rfl, by decide, rfl⟩, rfl, rfl, rfl, syncWord_twr, rfl, rfl⟩

/-- A binding of object 0. -/
def bind0 : Binding := { obj := 0, osp := .glb, rsp := .glb, base := 0, sizeM1 := 63 }

theorem wit_BindingAndStageResults :
    (∃ (s : State) (e : Binding), e = { obj := 0, osp := .glb, rsp := .glb, base := 0, sizeM1 := 63 } ∧ e ∈ s.cur.binds)
    ∧ (∃ (s : State) (e : Binding), e = bind0 ∧ e ∉ s.cur.binds ∧ s.cur.binds.length < 8)
    ∧ (∃ (s : State) (e : Binding), e = bind0 ∧ e ∉ s.cur.binds ∧ 8 ≤ s.cur.binds.length)
    ∧ (∃ (s s1 : State) (c : Com) (a : Use Src) (osp : Osp) (o : Word), Ready .any c s ∧ readSrc s a.r = .ok (o, s1) ∧
      s1.vecMemPending s1.focus s1.act = false ∧ s1.wtMet (relScope s1.focus (s1.cur.binds.filter fun e => e.osp == osp && e.obj == o)) = true)
    ∧ (∃ (s : State) (c : Com) (a : Fin 16), Ready .tile c s ∧ viewSane (s.cur.vw.get a) = false)
    ∧ ∃ (s : State) (c : Com) (a : Fin 16), Ready .tile c s ∧ viewSane (s.cur.vw.get a) = true :=
  ⟨⟨withCtx fun c => { c with binds := [bind0] }, _, rfl, by decide⟩, ⟨State.reset, _, rfl, by decide, by decide⟩,
   ⟨withCtx fun c => { c with binds := List.replicate 8 { bind0 with obj := 9 } }, _, rfl, by decide, by decide⟩,
   ⟨State.reset, _, plain, reg 1, .glb, _, ⟨rfl, rfl, rfl, by decide, rfl⟩, rfl, rfl, by decide⟩,
   ⟨withCtx fun c => { c with vw := c.vw.set 1 0xFFFFFFFFFFFFFFFF }, plain, 1, ⟨rfl, rfl, rfl, by decide, rfl⟩, by decide⟩,
   ⟨State.reset, plain, 0, ⟨rfl, rfl, rfl, by decide, rfl⟩, by decide⟩⟩

theorem access_twr (u : PageUse) (n : Nat) (hn : n = 4 ∨ n = 8) : access State.reset .twr u 0 n n = .ok (accTwr n, State.reset) := by
  rcases hn with rfl | rfl <;> exact access_reset (by decide) (by decide) rfl rfl
theorem syncAccess_twr (u : PageUse) : syncAccess State.reset .twr u 0 = .ok (accTwr 16, State.reset) := by
  unfold syncAccess
  rw [syncWord_reset (by decide) (by decide) rfl rfl (by decide)]
  rfl
theorem wit_AtomicOwn : ∃ (s s1 s2 s3 s4 t u : State) (c : Com) (op : AmoOp) (d : Dst) (m : MemOp32) (x : Src) (a v : Word) (acc : Acc) (o : BitVec 64),
    Ready .any c s ∧ readSrc s m.base.r = .ok (a, s1) ∧ readSrc s1 x = .ok (v, s2) ∧ memReady s2 = .ok () ∧
    access s2 m.sel rwUse (addressOf a (.imm32 m.off)) 8 8 = .ok (acc, s3) ∧ acc.own = true ∧ ownBanks s3 true acc.locs = .ok s4 ∧
    s4.poisonAt (firstLoc acc) = false ∧ o = BitVec.ofNat 64 (s4.readLE (firstLoc acc) 8) ∧
    writeDst (performWrite s4 (!isTile s4.focus) (pairsAt (firstLoc acc) (bytesOfNat 8 (amoResult op o v).toNat))) d o = .ok t ∧
    writeDst s4 d o = .ok u :=
  ⟨spm0, _, _, _, _, _, _, plain, .add, .g 3, mem32 .spm, .g 2, _, _, _, _, ⟨rfl, rfl, rfl, by decide, rfl⟩, rfl, rfl, rfl, rfl, rfl, rfl, rfl, rfl, rfl, rfl⟩
theorem wit_AtomicOwn32 : ∃ (s s1 s2 s3 s4 t u : State) (c : Com) (op : AmoOp) (d : Dst) (m : MemOp32) (x : Src) (a v : Word) (acc : Acc) (o : BitVec 32)
    (p : Nat), Ready .any c s ∧ readSrc s m.base.r = .ok (a, s1) ∧ readSrc s1 x = .ok (v, s2) ∧ memReady s2 = .ok () ∧
    access s2 m.sel rwUse (addressOf a (.imm32 m.off)) 4 4 = .ok (acc, s3) ∧ acc.own = true ∧ ownBanks s3 true acc.locs = .ok s4 ∧
    s4.poisonAt (firstLoc acc) = false ∧ o = BitVec.ofNat 32 (s4.readLE (firstLoc acc) 4) ∧
    writeDst (performWrite s4 (!isTile s4.focus) (pairsAt (firstLoc acc) (bytesOfNat 4 (amoResult op o (v.setWidth 32)).toNat))) d
      (if op = .min ∨ op = .max then o.signExtend 64 else o.setWidth 64) = .ok t ∧ p = s4.readLE (firstLoc acc) 4 ∧ writeDst s4 d (BitVec.ofNat 64 p) = .ok u :=
  ⟨spm0, _, _, _, _, _, _, plain, .min, .g 3, mem32 .spm, .g 2, _, _, _, _, _, ⟨rfl, rfl, rfl, by decide, rfl⟩, rfl, rfl, rfl, rfl, rfl, rfl, rfl, rfl, rfl, rfl,
    rfl⟩
theorem wit_AtomicPoisoned : ∃ (s s1 s2 s3 s4 t : State) (c : Com) (d : Dst) (m : MemOp32) (x : Src) (a v : Word) (acc : Acc),
    Ready .any c s ∧ readSrc s m.base.r = .ok (a, s1) ∧ readSrc s1 x = .ok (v, s2) ∧ memReady s2 = .ok () ∧
    access s2 m.sel rwUse (addressOf a (.imm32 m.off)) 8 8 = .ok (acc, s3) ∧ acc.own = true ∧ ownBanks s3 true acc.locs = .ok s4 ∧
    s4.poisonAt (firstLoc acc) = true ∧ writeDst (withPois s4 true) d 0 = .ok t :=
  ⟨{ spm0 with poison := [locSpm 0 0 / 8] }, _, _, _, _, _, plain, .g 3, mem32 .spm, .g 2, _, _, _, ⟨rfl, rfl, rfl, by decide, rfl⟩, rfl, rfl, rfl, rfl, rfl, rfl,
    rfl, rfl⟩
theorem wit_AtomicBeyond : ∃ (s s1 s2 s3 s4 s5 s6 : State) (c : Com) (d : Dst) (m : MemOp32) (x n : Src) (a v u : Word) (acc : Acc) (dst : ReqDst),
    Ready .any c s ∧ readSrc s m.base.r = .ok (a, s1) ∧ readSrc s1 x = .ok (v, s2) ∧ readSrc s2 n = .ok (u, s3) ∧ memReady s2 = .ok () ∧ memReady s3 = .ok () ∧
    access s3 m.sel rwUse (addressOf a (.imm32 m.off)) 8 8 = .ok (acc, s4) ∧ acc.own = false ∧ sendReady s4 [firstLoc acc] = .ok () ∧
    reserveDst s4 d .d64 s4.nextId = .ok (dst, s5) ∧ access s3 m.sel rwUse (addressOf a (.imm32 m.off)) 4 4 = .ok ({ acc with locs := acc.locs.take 4 }, s6) :=
  ⟨State.reset, State.reset, State.reset, State.reset, State.reset, State.reset, State.reset, plain, .g 3, mem32 .twr, .g 2, .g 4, 0, 0, 0, accTwr 8, _, ⟨rfl, rfl, rfl, by decide, rfl⟩, rfl, rfl, rfl, rfl, rfl, rfl, rfl, rfl, rfl,
    rfl⟩

/-- Core 0 waits on a sync word of its own scratchpad, for this generation. -/
def waiting0 (v : Option Word) (ns : List Word) : State := withCtx fun c => { c with wait := .waitw (locSpm 0 0) 0 0 v ns }

theorem wit_SwarmOwn : ∃ (s s1 s2 s3 s4 t : State) (c : Com) (d : Dst) (m : MemOp32) (x : Use Src) (a v : Word) (acc : Acc), Ready .any c s ∧
    readSrc s m.base.r = .ok (a, s1) ∧ readSrc s1 x.r = .ok (v, s2) ∧ memReady s2 = .ok () ∧
    syncAccess s2 m.sel rwUse (addressOf a (.imm32 m.off)) = .ok (acc, s3) ∧ acc.own = true ∧ ownBanks s3 true acc.locs = .ok s4 ∧
    writeDst (withPois (swarmStep s4 (firstLoc acc) (v.setWidth 48)).1 (swarmStep s4 (firstLoc acc) (v.setWidth 48)).2.2) d
      (swarmStep s4 (firstLoc acc) (v.setWidth 48)).2.1 = .ok t :=
  ⟨spm0, _, _, _, _, _, plain, .g 3, mem32 .spm, reg 2, _, _, _, ⟨rfl, rfl, rfl, by decide, rfl⟩, rfl, rfl, rfl, rfl, rfl, rfl, rfl⟩
theorem wit_SwarmBeyond : ∃ (s s1 s2 s3 s4 : State) (c : Com) (d : Dst) (m : MemOp32) (x : Use Src) (a v : Word) (acc : Acc) (dst : ReqDst), Ready .any c s ∧
    readSrc s m.base.r = .ok (a, s1) ∧ readSrc s1 x.r = .ok (v, s2) ∧ memReady s2 = .ok () ∧
    syncAccess s2 m.sel rwUse (addressOf a (.imm32 m.off)) = .ok (acc, s3) ∧ acc.own = false ∧ sendReady s3 [firstLoc acc] = .ok () ∧
    reserveDst s3 d .d64 s3.nextId = .ok (dst, s4) :=
  ⟨State.reset, State.reset, State.reset, State.reset, _, plain, .g 3, mem32 .twr, reg 2, 0, 0, accTwr 16, _, ⟨rfl, rfl, rfl, by decide, rfl⟩, rfl, rfl, rfl, rfl, rfl, rfl, rfl⟩
theorem wit_Waitw :
    (∃ (s : State) (c : Com) (l : Nat) (o : Word) (g : BitVec 16) (v : Word) (ns : List Word), Ready .any c s ∧ s.cur.away = false ∧ s.cur.wait = .waitw l o g (some v) ns)
    ∧ ∀ g : BitVec 16, (g = 0 ∨ g = 1) → ∃ (s s1 s2 s3 s4 s5 t : State) (c : Com) (d : Dst) (m : MemOp32) (x : Use Src) (a v : Word) (acc : Acc),
      Ready .any c s ∧ s.cur.away = false ∧ s.cur.wait = .none ∧
      readSrc s m.base.r = .ok (a, s1) ∧ readSrc s1 x.r = .ok (v, s2) ∧ memReady s2 = .ok () ∧
      syncAccess s2 m.sel rdUse (addressOf a (.imm32 m.off)) = .ok (acc, s3) ∧ acc.own = true ∧ ownBanks s3 false acc.locs = .ok s4 ∧
      holdDst s4 d = .ok s5 ∧
      t = evalMonitor (armStep (s5.modCur fun k => { k with wait := .waitw (firstLoc acc) (a + m.off.signExtend 64) (v.setWidth 16) none [] })
        s5.focus s5.act (firstLoc acc)) s5.focus s5.act ∧
      ((g = 0 ∧ ∃ l o e w ns, t.cur.wait = .waitw l o e (some w) ns) ∨ (g = 1 ∧ ∃ l o e ns, t.cur.wait = .waitw l o e none ns)) :=
  ⟨⟨waiting0 (some 0) [], plain, _, _, _, _, _, ⟨rfl, rfl, rfl, by decide, rfl⟩, rfl, rfl⟩,
   fun g hg => by
    rcases hg with rfl | rfl
    · exact ⟨State.reset, _, _, _, _, _, _, plain, .g 3, mem32 .spm, reg 2, _, _, _, ⟨rfl, rfl, rfl, by decide, rfl⟩, rfl, rfl, rfl, rfl, rfl, rfl, rfl, rfl, rfl, rfl,
        .inl ⟨rfl, _, _, _, _, _, rfl⟩⟩
    · exact ⟨withCtx fun c => { c with g := c.g.set 2 1 }, _, _, _, _, _, _, plain, .g 3, mem32 .spm, reg 2, _, _, _, ⟨rfl, rfl, rfl, by decide, rfl⟩, rfl, rfl, rfl, rfl,
        rfl, rfl, rfl, rfl, rfl, rfl, .inr ⟨rfl, _, _, _, _, rfl⟩⟩⟩
theorem wit_WaitwBeyond : ∃ (s s1 s2 s3 s4 : State) (c : Com) (d : Dst) (m : MemOp32) (x : Use Src) (a v : Word) (acc : Acc), Ready .any c s ∧ s.cur.away = false ∧
    s.cur.wait = .none ∧ readSrc s m.base.r = .ok (a, s1) ∧ readSrc s1 x.r = .ok (v, s2) ∧ memReady s2 = .ok () ∧
    syncAccess s2 m.sel rdUse (addressOf a (.imm32 m.off)) = .ok (acc, s3) ∧ acc.own = false ∧ s3.linesBusy s3.focus s3.act [firstLoc acc / 64] = false ∧
    holdDst s3 d = .ok s4 :=
  ⟨State.reset, State.reset, State.reset, State.reset, _, plain, .g 3, mem32 .twr, reg 2, 0, 0, accTwr 16, ⟨rfl, rfl, rfl, by decide, rfl⟩, rfl, rfl, rfl, rfl, rfl,
    syncAccess_twr _, rfl, rfl, rfl⟩

theorem wit_GroupResults :
    (∃ (s : State) (c : Com) (v : Word), Ready .any c s ∧ s.cur.away = false ∧ s.cur.ask = .answered v)
    ∧ (∃ (s : State) (c : Com), Ready .any c s ∧ s.cur.away = false ∧ s.cur.ask = .refused)
    ∧ (∃ (s s1 : State) (c : Com) (d : Dst), Ready .any c s ∧ s.cur.away = false ∧ s.cur.ask = .none ∧ s.cur.cap.getLsbD 2 = true ∧ holdDst s d = .ok s1)
    ∧ (∃ (s : State) (c : Com), Ready .any c s ∧ s.cur.cap.getLsbD 2 = false ∧ s.cur.away = false ∧ s.cur.ask = .none)
    ∧ (∃ (s s1 s2 : State) (c : Com) (d : Dst) (a : Use Src) (id : BitVec 12) (x : Word), Ready .any c s ∧ readSrc s a.r = .ok (x, s1) ∧
      x.toNat + id.toNat ≤ 0xFFF ∧ s.cur.cap.getLsbD 2 = true ∧ s.cur.away = false ∧ s.cur.ask = .none ∧ s.cur.wait = .none ∧ holdDst s1 d = .ok s2)
    ∧ (∃ (s s1 : State) (c : Com) (a : Use Src) (id : BitVec 12) (x : Word), Ready .any c s ∧ readSrc s a.r = .ok (x, s1) ∧
      0xFFF < x.toNat + id.toNat ∧ s.cur.away = false ∧ s.cur.ask = .none ∧ s.cur.wait = .none ∧ s.cur.cap.getLsbD 2 = true)
    ∧ (∃ (s : State) (c : Com) (g code : Nat) (b : Bool), Ready .any c s ∧ s.cur.away = false ∧ s.cur.wait = .group g b (some code))
    ∧ ∃ (s : State) (c : Com) (g code : Nat), Ready .any c s ∧ s.cur.away = false ∧ s.cur.wait = .waitg g (some code) :=
  ⟨⟨withCtx fun c => { c with ask := .answered 3 }, plain, _, ⟨rfl, rfl, rfl, by decide, rfl⟩, rfl, rfl⟩,
   ⟨withCtx fun c => { c with ask := .refused }, plain, ⟨rfl, rfl, rfl, by decide, rfl⟩, rfl, rfl⟩,
   ⟨withCtx fun c => { c with cap := 4 }, _, plain, .g 3, ⟨rfl, rfl, rfl, by decide, rfl⟩, rfl, rfl, rfl, rfl⟩,
   ⟨State.reset, plain, ⟨rfl, rfl, rfl, by decide, rfl⟩, rfl, rfl, rfl⟩,
   ⟨withCtx fun c => { c with cap := 4 }, _, _, plain, .g 3, reg 1, 0xFFF, _, ⟨rfl, rfl, rfl, by decide, rfl⟩, rfl, by decide, rfl, rfl, rfl, rfl, rfl⟩,
   ⟨withCtx fun c => { c with g := c.g.set 1 1, cap := 4 }, _, plain, reg 1, 0xFFF, _, ⟨rfl, rfl, rfl, by decide, rfl⟩, rfl, by decide, rfl, rfl, rfl, rfl⟩,
   ⟨withCtx fun c => { c with wait := .group 1 false (some 0) }, plain, _, _, _, ⟨rfl, rfl, rfl, by decide, rfl⟩, rfl, rfl⟩,
   ⟨withCtx fun c => { c with wait := .waitg 1 (some 0) }, plain, _, _, ⟨rfl, rfl, rfl, by decide, rfl⟩, rfl, rfl⟩⟩

theorem wit_ForkJoin :
    (∃ (s : State) (c : Com) (id : Nat) (n : Word), Ready .tile c s ∧ s.cur.away = false ∧ s.cur.ask = .cell id n ∧ ∀ r ∈ s.fabric, r.id ≠ id)
    ∧ (∃ (s s1 s2 s3 s4 s5 : State) (c : Com) (d : Dst) (a b : Use Src) (x : Src) (t arg cell : Word) (acc : Acc), Ready .tile c s ∧ s.cur.away = false ∧ s.cur.ask = .none ∧
      readSrc s a.r = .ok (t, s1) ∧ readSrc s1 b.r = .ok (arg, s2) ∧ readSrc s2 x = .ok (cell, s3) ∧ memReady s3 = .ok () ∧
      access s3 .cls wrUse cell.toNat 16 16 = .ok (acc, s4) ∧ sendReady s4 [firstLoc acc] = .ok () ∧ holdDst s4 d = .ok s5)
    ∧ (∃ (s s1 s2 : State) (c : Com) (a : Use Src) (off : BitVec 24) (v : Word) (acc : Acc), Ready .tile c s ∧ s.cur.away = false ∧
      s.cur.ending = .none ∧ readSrc s a.r = .ok (v, s1) ∧ s1.wtMet 2 = true ∧ memReady s1 = .ok () ∧
      access s1 .cls rwUse (addressOf v (.imm24 off)) 16 16 = .ok (acc, s2) ∧ sendReady s2 [firstLoc acc] = .ok ())
    ∧ ∃ (s : State) (c : Com) (id loc cl cell : Nat) (v : Word), Ready .tile c s ∧ s.cur.away = false ∧ s.cur.ending = .joinSent id loc ∧
      clsOfLoc loc = some (cl, cell) ∧ s.cur.ask = .answered v ∧ v.getLsbD 63 = true :=
  ⟨⟨withCtx fun c => { c with ask := .cell 1 2 }, plain, _, _, ⟨rfl, rfl, rfl, by decide, rfl⟩, rfl, rfl, by decide⟩,
   ⟨State.reset, State.reset, State.reset, State.reset, State.reset, _, plain, .g 3, reg 1, reg 2, .g 4, 0, 0, 0, accCls 16, ⟨rfl, rfl, rfl, by decide, rfl⟩, rfl, rfl, rfl, rfl, rfl, rfl, access_cls0 _, rfl, rfl⟩,
   ⟨State.reset, State.reset, State.reset, plain, reg 1, 0, 0, accCls 16, ⟨rfl, rfl, rfl, by decide, rfl⟩, rfl, rfl, rfl, by decide, rfl, access_cls0 _, rfl⟩,
   ⟨withCtx fun c => { c with ending := .joinSent 1 (locCls 0 0), ask := .answered 0x8000000000000000 }, plain, _, _, _, _, _, ⟨rfl, rfl, rfl, by decide, rfl⟩, rfl, rfl,
    rfl, rfl, by decide⟩⟩

set_option exponentiation.threshold 600 in
theorem wit_QueueAndMessage :
    (∃ (s t : State) (c : Com) (d : Dst) (k : Fin 4), Ready .any c s ∧ writeDst s d (BitVec.ofNat 64 (readyWords (s.me.q.get k))) = .ok t)
    ∧ ∃ (s s1 s2 s3 : State) (c : Com) (a : Use Src) (off : BitVec 32) (x : Word) (acc : Acc) (r : Record), Ready .any c s ∧
      s.me.outbound.length < 2 ∧ readSrc s a.r = .ok (x, s1) ∧ memReady s1 = .ok () ∧
      access s1 .spm rdUse (addressOf x (.imm32 off)) 64 64 = .ok (acc, s2) ∧ ownBanks s2 false acc.locs = .ok s3 ∧
      acc.locs.any s3.poisonAt = false ∧ r = BitVec.ofNat 512 (natOfBytes (acc.locs.map s3.byteAt)) ∧
      msgBad r = false ∧ isTile (recCore r) = true ∧ recCap r &&& ~~~s.cur.cap = 0 ∧ recAsid r = s.cur.asid ∧ clusterOf (recCore r) = s.myCluster :=
  ⟨⟨State.reset, _, plain, .g 3, 0, ⟨rfl, rfl, rfl, by decide, rfl⟩, rfl⟩,
   ⟨State.reset, _, _, _, plain, reg 1, 0, _, _, _, ⟨rfl, rfl, rfl, by decide, rfl⟩, by decide, rfl, rfl, rfl, rfl, rfl, rfl, by decide, by decide, by decide, by decide,
    by decide⟩⟩

/-! Vectors and matrices. -/

/-- The checks of ViewsOk as a Bool. -/
def okV (s : State) (o : VOp) : Bool :=
  formatOk o && (viewFault (usesOf o)).isNone && (!usesB o || (bvBeyond o.bv).isNone) && !mmarPending s s.focus s.act (readsOf o)
    && (let m := progReadable s s.focus s.act; (readsOf o).all fun g => m.getLsbD g)
theorem okV_ok {s : State} {o : VOp} (h : okV s o = true) : ViewsOk s o := by
  simp only [okV, Bool.and_eq_true, Option.isNone_iff_eq_none, Bool.or_eq_true, Bool.not_eq_true', List.all_eq_true] at h
  obtain ⟨⟨⟨⟨h1, h2⟩, h3⟩, h4⟩, h5⟩ := h
  exact ⟨h1, h2, fun hu => by rcases h3 with h3 | h3 <;> simp_all, h4, h5⟩

/-- A V view register of type code t at granule b. -/
def vview (t b : Nat) : Word := BitVec.ofNat 64 (t * 2 ^ 36 + b * 2 ^ 6)
/-- An A view register: type code t, KSZ k, pitch in 32-byte units, granule b. -/
def aview (t k p b : Nat) : Word := BitVec.ofNat 64 (2 ^ 40 + t * 2 ^ 36 + k * 2 ^ 34 + p * 2 ^ 21 + b * 2 ^ 6)
/-- A C view register of type code t at granule b. -/
def cview (t b : Nat) : Word := BitVec.ofNat 64 (2 * 2 ^ 40 + t * 2 ^ 36 + 4 * 2 ^ 21 + b * 2 ^ 6)
/-- Core 0 with every granule live: vw0-vw11 are V views of the twelve types, vw12 an A view of I8, vw13 and vw14 C views of I32 and F32, vw15 an A view of
I8 with K = 64; p1 selects the first four bytes. bv0 and bv1 are B views of I8 with K = 32 and K = 64. -/
def vec0 : State :=
  (withCtx fun c => { c with
    live := BitVec.allOnes 1024, p := c.p.set 1 15, g := c.g.set 2 32
    vw := (Vector.ofFn fun (i : Fin 16) => if i.val < 12 then vview i.val (4 * i.val) else if i.val = 12 then aview 0 0 1 64
      else if i.val = 13 then cview 4 128 else if i.val = 14 then cview 8 192 else aview 0 1 2 256) }).modQuad 0 fun q =>
    { q with bv := (q.bv.set 0 0).set 1 (BitVec.ofNat 64 (2 ^ 34)) }
/-- Only the first element. -/
def first4 : Com := { pred := { neg := false, p := 1 }, wt := 0 }
/-- A view register that is not a last use. -/
def vr (n : Fin 16) : Use (Fin 16) := ⟨n, false⟩
/-- A predicate register that is not a last use. -/
def pr (n : Fin 8) : Use (Fin 8) := ⟨n, false⟩
/-- No saturation, no override. -/
def x0 : VX := { sat := false, rnd := { ro := false, rmo := .rne } }
def rnd0 : Rnd := { ro := false, rmo := .rne }

theorem readyV_vec0 : ReadyV plain.pred plain.wt vec0 := ⟨rfl, rfl, rfl, rfl, by decide⟩
theorem readyV_first : ReadyV first4.pred first4.wt vec0 := ⟨rfl, rfl, rfl, rfl, by decide⟩
theorem readyM_vec0 : ReadyM plain vec0 := ⟨readyV_vec0, by decide⟩
theorem ready_vec0 : Ready .tile plain vec0 := ⟨rfl, rfl, rfl, by decide, rfl⟩

theorem wit_ViewRegisters : (∃ (s s1 : State) (wt : Fin 4) (a : Src) (x : Word), Ready .tile { pred := { neg := false, p := 0 }, wt } s ∧ readSrc s a = .ok (x, s1))
    ∧ ∃ (s s1 : State) (wt : Fin 4) (d : Fin 16) (a : Use Src) (x v : Word), Ready .tile { pred := { neg := false, p := 0 }, wt } s ∧
      readSrc s a.r = .ok (x, s1) ∧
      ∀ i < 64, v.getLsbD i = if 6 ≤ i ∧ i < 16 then (BitVec.ofNat 10 (viewBase (s.cur.vw.get d) + x.toNat)).getLsbD (i - 6) else (s.cur.vw.get d).getLsbD i :=
  ⟨⟨vec0, _, 0, .g 2, _, ready_vec0, rfl⟩, ⟨vec0, _, 0, 1, reg 2, _, vview 1 36, ready_vec0, rfl, by decide⟩⟩

/-- An instruction with views D, A and B passes its checks in vec0. -/
def seenDAB (i : Com → Fin 16 → Use (Fin 16) → Use (Fin 16) → Instr) (d a b : Fin 16) : Bool :=
  okV vec0 { captured vec0 (i plain d (vr a) (vr b)) plain.pred with vd := vec0.cur.vw.get d, va := vec0.cur.vw.get a, vb := vec0.cur.vw.get b }
/-- The same with D and A. -/
def seenDA (i : Com → Fin 16 → Use (Fin 16) → Instr) (d a : Fin 16) : Bool :=
  okV vec0 { captured vec0 (i plain d (vr a)) plain.pred with vd := vec0.cur.vw.get d, va := vec0.cur.vw.get a }

theorem wit_VectorPushes1 : seenDAB (fun c d a b => .vadd c .i32 d a b x0) 4 4 4 = true ∧ seenDAB (fun c d a b => .vsub c .f32 d a b x0) 8 8 8 = true
    ∧ seenDAB (fun c d a b => .vmul c .bf16 d a b x0) 7 7 7 = true ∧ seenDAB (fun c d a b => .vdot c .i8 d a b x0) 4 0 0 = true
    ∧ seenDAB (fun c d a b => .vwadd c .i8 d a b false false x0) 2 0 0 = true ∧ seenDAB (fun c d a b => .vwmul c .i16 d a b true false x0) 4 2 2 = true
    ∧ seenDA (fun c d a => .vcvt c .f32 d a .i32 0 x0) 8 4 = true ∧ seenDA (fun c d a => .vscan c .add .i32 d a x0) 4 4 = true := by decide
theorem wit_VectorPushes2 : seenDAB (fun c d a b => .vmin c .i8 d a b) 0 0 0 = true ∧ seenDAB (fun c d a b => .vmax c .z8 d a b) 1 1 1 = true
    ∧ seenDAB (fun c d a b => .vand c .i64 d a b) 6 6 6 = true ∧ seenDAB (fun c d a b => .vor c .z32 d a b) 5 5 5 = true
    ∧ seenDAB (fun c d a b => .vxor c .i32 d a b) 4 4 4 = true ∧ seenDAB (fun c d a b => .vandn c .i32 d a b) 4 4 4 = true
    ∧ seenDAB (fun c d a b => .vshl c .i32 d a b) 4 4 4 = true ∧ seenDAB (fun c d a b => .vshr c .z16 d a b) 3 3 3 = true
    ∧ seenDAB (fun c d a b => .vsra c .i16 d a b) 2 2 2 = true ∧ seenDAB (fun c d a b => .vperm c .i8 d a b) 0 0 1 = true
    ∧ seenDAB (fun c d a b => .vshuf c .i32 d a b .lo) 4 4 4 = true ∧ seenDAB (fun c d a b => .vslide c .i32 d a b 1) 4 4 4 = true := by decide
theorem wit_VectorPushes3 : seenDA (fun c d a => .vabs c .i32 d a true) 4 4 = true ∧ seenDA (fun c d a => .vneg c .f32 d a false) 8 8 = true
    ∧ seenDA (fun c d a => .vunbs c .f32 d a false) 8 8 = true ∧ seenDA (fun c d a => .vrcp c .f32 d a rnd0) 8 8 = true
    ∧ seenDA (fun c d a => .vrsq c .bf16 d a rnd0) 7 7 = true ∧ seenDA (fun c d a => .vexp2 c .f32 d a rnd0) 8 8 = true := by decide
theorem wit_VectorPushes4 : (∃ (s : State) (c : Com) (ty : Ty) (d : Fin 16) (a b z : Use (Fin 16)) (x : VX), ReadyV c.pred c.wt s ∧
      ViewsOk s { captured s (.vfma c ty d a b z x) c.pred with vd := s.cur.vw.get d, va := s.cur.vw.get a.r, vb := s.cur.vw.get b.r, vc := s.cur.vw.get z.r })
    ∧ (∃ (s : State) (c : Com) (cond : Cond) (ty : Ty) (d : Fin 8) (a b : Use (Fin 16)), ReadyV c.pred c.wt s ∧
      ViewsOk s { captured s (.vcmp c cond ty d a b) c.pred with va := s.cur.vw.get a.r, vb := s.cur.vw.get b.r })
    ∧ (∃ (s : State) (c : Com) (ty : Ty) (d : Fin 16) (a b : Use (Fin 16)) (x : Use (Fin 8)), ReadyV c.pred c.wt s ∧ s.predBusy x.r = false ∧
      ViewsOk s { captured s (.vsel c ty d a b x) c.pred with vd := s.cur.vw.get d, va := s.cur.vw.get a.r, vb := s.cur.vw.get b.r, pa := s.cur.readP x.r })
    ∧ ∃ (s s1 : State) (c : Com) (ty : Ty) (d : Fin 16) (a : Use Src) (x : Word), ReadyV c.pred c.wt s ∧ readSrc s a.r = .ok (x, s1) ∧
      ViewsOk s1 { captured s (.vbcast c ty d a) c.pred with vd := s.cur.vw.get d, sa := x } :=
  ⟨⟨vec0, plain, .f32, 8, vr 8, vr 8, vr 8, x0, readyV_vec0, okV_ok (by decide)⟩, ⟨vec0, plain, .lt, .i32, 1, vr 4, vr 4, readyV_vec0, okV_ok (by decide)⟩,
   ⟨vec0, plain, .i32, 4, vr 4, vr 4, pr 1, readyV_vec0, by decide, okV_ok (by decide)⟩, ⟨vec0, vec0, plain, .i32, 4, reg 2, 32, readyV_vec0, rfl, okV_ok (by decide)⟩⟩
theorem wit_VectorPushes5 : (∃ (s : State) (wt : Fin 4) (ty : Ty) (a : Use (Fin 16)) (idx : BitVec 9), ReadyV { neg := false, p := 0 } wt s ∧
      ViewsOk s { captured s (.vext wt ty a idx) { neg := false, p := 0 } with va := s.cur.vw.get a.r })
    ∧ (∃ (s : State) (c : Com) (op : RedOp) (ty : Ty) (a : Use (Fin 16)) (r : Rnd), ReadyV c.pred c.wt s ∧
      ViewsOk s { captured s (.vred c op ty a r) c.pred with va := s.cur.vw.get a.r })
    ∧ (∃ (s : State) (wt : Fin 4) (ty : Ty) (d : Fin 16) (a : Use (Fin 16)) (w16 : Bool) (r : Rnd), ReadyV { neg := false, p := 0 } wt s ∧
      ViewsOk s { captured s (.vbs wt ty d a w16 r) { neg := false, p := 0 } with vd := s.cur.vw.get d, va := s.cur.vw.get a.r })
    ∧ ∃ (s : State) (c : Com) (ty : Ty) (a b : Use (Fin 8)), ReadyV c.pred c.wt s ∧ s.predBusy a.r = false ∧ s.predBusy b.r = false ∧ ty = .i8 :=
  ⟨⟨vec0, 0, .i32, vr 4, 63, readyV_vec0, okV_ok (by decide)⟩, ⟨vec0, plain, .add, .i32, vr 4, rnd0, readyV_vec0, okV_ok (by decide)⟩,
   ⟨vec0, 0, .f32, 0, vr 8, false, rnd0, readyV_vec0, okV_ok (by decide)⟩, ⟨vec0, plain, .i8, pr 1, pr 2, readyV_vec0, by decide, by decide, rfl⟩⟩

theorem wit_VectorMemory1 : (∃ (s s1 s2 : State) (c : Com) (ty : Ty) (d : Fin 16) (m : MemOp32) (x : Word) (o v : VOp), ReadyV c.pred c.wt s ∧
      readSrc s m.base.r = .ok (x, s1) ∧ v = { captured s (.vld c ty d m) c.pred with vd := s.cur.vw.get d } ∧ ViewsOk s1 v ∧
      imageMem s1 v m.sel rdUse (viewAlign v ty) (addressOf x (.imm32 m.off)) (imagePlaces v ty) = .ok (o, s2))
    ∧ (∃ (s s1 s2 : State) (c : Com) (ty : Ty) (d : Fin 16) (m : MemOp32) (x : Word) (o v : VOp), ReadyV c.pred c.wt s ∧
      readSrc s m.base.r = .ok (x, s1) ∧ v = { captured s (.vst c ty d m) c.pred with vd := s.cur.vw.get d } ∧ ViewsOk s1 v ∧
      imageMem s1 v m.sel wrUse (viewAlign v ty) (addressOf x (.imm32 m.off)) (imagePlaces v ty) = .ok (o, s2)) := by
  obtain ⟨⟨o, u⟩, h⟩ := okB_elim (r := imageMem vec0 { captured vec0 (.vld first4 .i32 4 (mem32 .spm)) first4.pred with vd := vec0.cur.vw.get 4 } .spm rdUse 4 0
    [0, 1, 2, 3]) (by decide)
  obtain ⟨⟨o', u'⟩, h'⟩ := okB_elim (r := imageMem vec0 { captured vec0 (.vst first4 .i32 4 (mem32 .spm)) first4.pred with vd := vec0.cur.vw.get 4 } .spm wrUse 4 0
    [0, 1, 2, 3]) (by decide)
  exact ⟨⟨vec0, vec0, u, first4, .i32, 4, mem32 .spm, 0, o, _, readyV_first, rfl, rfl, okV_ok (by decide), h⟩,
    ⟨vec0, vec0, u', first4, .i32, 4, mem32 .spm, 0, o', _, readyV_first, rfl, rfl, okV_ok (by decide), h'⟩⟩
theorem wit_VectorMemory2 : ∃ (s s1 s2 : State) (c : Com) (ty : Ty) (d : Fin 16) (a : Use Src) (off : BitVec 32) (x w : Word) (ix : List Int)
    (ls : List (Nat × Nat × List Nat)), ReadyV c.pred c.wt s ∧ readSrc s a.r = .ok (x, s1) ∧ w = 0 ∧ .ok ([], s1) = Except.ok (ε := Stop) (ix, s2) ∧
    ls = laneAccesses (s.predMask c.pred) ty x off ix ∧ (∀ e ∈ ls, e.2.1 < 4096 ∧ e.2.1 % 4 = 0) ∧
    ViewsOk s1 { captured s (.vldl c ty d a off none) c.pred with vd := s.cur.vw.get d, vc := w } ∧
    ViewsOk s1 { captured s (.vstl c ty d a off none) c.pred with vd := s.cur.vw.get d, vc := w } :=
  ⟨vec0, vec0, vec0, first4, .i32, 4, reg 2, 4060, 32, 0, [], _, readyV_first, rfl, rfl, rfl, rfl, by decide, okV_ok (by decide), okV_ok (by decide)⟩
/-- vec0 with the banks of the register store FULL. -/
def vecB : State := vec0.modCore 0 fun k => { k with banks := (List.range 32).map fun i => (i, { st := .full }) }
theorem readyV_vecB : ReadyV first4.pred first4.wt vecB := ⟨rfl, rfl, rfl, rfl, by decide⟩
theorem index_zero : ∃ u, indexElems vecB (vecB.cur.vw.get 5) = .ok (List.replicate 64 0, u) ∧ u = vecB := ⟨_, rfl, by decide⟩
theorem wit_VectorMemory3 : ∃ (s s1 s2 s3 s4 : State) (c : Com) (ty : Ty) (d : Fin 16) (m : MemOp32) (n : Use (Fin 16)) (sc : Fin 4) (x : Word) (ix : List Int)
    (o v o' v' : VOp), ReadyV c.pred c.wt s ∧ readSrc s m.base.r = .ok (x, s1) ∧ indexElems s1 (s.cur.vw.get n.r) = .ok (ix, s2) ∧
    v = { captured s (.vgath c ty d m n sc) c.pred with vd := s.cur.vw.get d, vc := s.cur.vw.get n.r } ∧ ViewsOk s1 v ∧
    elementMem s2 v m.sel rdUse (tyBytes ty) (elementAccesses (s.predMask c.pred) ty x m.off ix sc) = .ok (o, s3) ∧
    v' = { captured s (.vscat c ty d m n sc) c.pred with vd := s.cur.vw.get d, vc := s.cur.vw.get n.r } ∧ ViewsOk s1 v' ∧
    elementMem s2 v' m.sel wrUse (tyBytes ty) (elementAccesses (s.predMask c.pred) ty x m.off ix sc) = .ok (o', s4) := by
  obtain ⟨u, hi, rfl⟩ := index_zero
  obtain ⟨⟨o, v⟩, h⟩ := okB_elim (r := elementMem vecB { captured vecB (.vgath first4 .i32 4 (mem32 .spm) (vr 5) 2) first4.pred with
    vd := vecB.cur.vw.get 4, vc := vecB.cur.vw.get 5 } .spm rdUse 4 [(0, [0, 1, 2, 3])]) (by decide)
  obtain ⟨⟨o', v'⟩, h'⟩ := okB_elim (r := elementMem vecB { captured vecB (.vscat first4 .i32 4 (mem32 .spm) (vr 5) 2) first4.pred with
    vd := vecB.cur.vw.get 4, vc := vecB.cur.vw.get 5 } .spm wrUse 4 [(0, [0, 1, 2, 3])]) (by decide)
  exact ⟨vecB, vecB, vecB, v, v', first4, .i32, 4, mem32 .spm, vr 5, 2, 0, _, o, _, o', _, readyV_vecB, rfl, hi, rfl, okV_ok (by decide), h, rfl,
    okV_ok (by decide), h'⟩

theorem wit_MatrixPushes1 : (∃ (s : State) (c : Com) (ty : MmaTy) (d : Fin 16) (a : Use (Fin 16)) (b : Fin 16) (ov : Bool) (bs : Option (Use (Fin 16))), ReadyM c s ∧
      ViewsOk s (capturedM s (.mma c ty d a b ov bs) c d a.r b bs))
    ∧ (∃ (s : State) (c : Com) (ty : MmaTy) (d : Fin 16) (a : Use (Fin 16)) (b : Fin 16) (ov : Bool) (bs : Option (Use (Fin 16))), ReadyM c s ∧
      ViewsOk s (capturedM s (.mmar c ty d a b ov bs) c d a.r b bs))
    ∧ (∃ (s : State) (c : Com) (ty : Ty) (d : Fin 16), ReadyM c s ∧ ViewsOk s { captured s (.mzero c ty d) c.pred with vd := s.cur.vw.get d })
    ∧ ∃ (s : State) (c : Com) (ty : Ty) (d : Fin 16) (a : Use (Fin 16)) (sat : Bool), ReadyM c s ∧
      ViewsOk s { captured s (.macc c ty d a sat) c.pred with vd := s.cur.vw.get d, va := s.cur.vw.get a.r } :=
  ⟨⟨vec0, plain, .i8, 13, vr 12, 0, false, none, readyM_vec0, okV_ok (by decide)⟩, ⟨vec0, plain, .i8, 13, vr 12, 0, true, none, readyM_vec0, okV_ok (by decide)⟩,
   ⟨vec0, plain, .f32, 14, readyM_vec0, okV_ok (by decide)⟩, ⟨vec0, plain, .i32, 13, vr 13, true, readyM_vec0, okV_ok (by decide)⟩⟩
theorem wit_MatrixPushes2 : ∃ (s s1 s2 : State) (c : Com) (ty : MmaTy) (d : Fin 16) (a : Use Src) (b : Fin 16) (ov : Bool) (shape : Fin 16) (sp : Space) (x : Word) (o v : VOp)
    (n : Nat), ReadyM c s ∧ readSrc s a.r = .ok (x, s1) ∧
    v = { captured s (.mmaRa c ty d a b ov shape sp) c.pred with
      vd := s.cur.vw.get d, vc := s.cur.vw.get shape, bv := (s.quad (quadOf s.focus)).bv.get b, sa := x } ∧ ViewsOk s1 v ∧
    n = 32 * (if ty = .t6 then viewK v.vc * 3 / 4 else viewK v.vc) ∧
    tileMem s1 v sp 32 x.toNat 0 ((List.range n).map fun i => (i, (x.toNat + i) % 2 ^ 64)) = .ok (o, s2) := by
  obtain ⟨⟨o, u⟩, h⟩ := okB_elim (r := tileMem vec0 { captured vec0 (.mmaRa plain .i8 13 (reg 2) 0 false 12 .spm) plain.pred with
      vd := vec0.cur.vw.get 13, vc := vec0.cur.vw.get 12, bv := (vec0.quad (quadOf vec0.focus)).bv.get 0, sa := 32 } .spm 32 32 0
      ((List.range 1024).map fun i => (i, (32 + i) % 2 ^ 64))) (by decide)
  exact ⟨vec0, vec0, u, plain, .i8, 13, reg 2, 0, false, 12, .spm, 32, o, _, 1024, readyM_vec0, rfl, rfl, okV_ok (by decide), rfl, h⟩

/-- vec0 with a pitch in g2 and a descriptor with `BSAX` b over the scratchpad. -/
def tile0 (p b : Nat) : State :=
  (vec0.modCur fun c => { c with g := c.g.set 2 (BitVec.ofNat 64 p) }).modCore 0 fun k =>
    { k with rdesc := k.rdesc.set 1 (BitVec.ofNat 64 (2 ^ 63 + 2 ^ 60 + b * 2 ^ 58 + 65536)) }
theorem readyM_tileA : ReadyM plain (tile0 32 0) := ⟨⟨rfl, rfl, rfl, rfl, by decide⟩, by decide⟩
theorem readyM_tileB : ReadyM plain (tile0 2304 2) := ⟨⟨rfl, rfl, rfl, rfl, by decide⟩, by decide⟩
theorem readyM_tileC : ReadyM plain (tile0 72 1) := ⟨⟨rfl, rfl, rfl, rfl, by decide⟩, by decide⟩
theorem desc_tile {s : State} (w : Word) (hz : s.me.rdesc.get 0 = 0) (hw : s.me.rdesc.get 1 = w) (h63 : w.getLsbD 63 = true) (hsp : w.toNat / 2 ^ 60 % 8 = 1)
    (hn : w.toNat % 2 ^ 40 = 65536) (l : List (Nat × Nat)) (h : (l.all fun q => q.2 < 65536) = true) :
    ∀ q ∈ l, descAt s.me .spm q.2 = descAt s.me .spm 0 := by
  have h0 : ∀ a, a < 65536 → descAt s.me .spm a = some 0 := by
    intro a ha
    have e : List.range 8 = 0 :: (List.range 8).tail := rfl
    unfold descAt
    rw [e, List.find?_cons_of_pos]
    have i0 : Fin.ofNat 16 (2 * 0) = 0 := rfl
    have i1 : Fin.ofNat 16 (2 * 0 + 1) = 1 := rfl
    simp only [i0, i1, hz, hw, h63, hsp, hn, spaceNum]
    simpa using ha
  intro q hq
  have hlt : q.2 < 65536 := by simpa using List.all_eq_true.mp h q hq
  rw [h0 _ hlt, h0 _ (by omega)]

theorem wit_Mbld : ∃ (s s1 s2 s3 : State) (c : Com) (ty : Ty) (d : Fin 16) (m : MemOp32) (y : TilePitch) (a p : Word) (o v : VOp) (w : Word) (at_ bsax : Nat), ReadyM c s ∧
    readSrc s m.base.r = .ok (a, s1) ∧ readSrc s1 y.p.r = .ok (p, s2) ∧ at_ = addressOf a (.imm32 m.off) ∧ bsax = bsaxOf s.me (descAt s.me m.sel at_) ∧
    operandTy ty = true ∧ y.opx.getLsbD 4 = false ∧ w = (s.quad (quadOf s.focus)).bv.get d ∧ bsax ≠ 1 ∧
    (bsax = 2 → ty = .i8 ∧ 64 ≤ viewK w ∧ bvBse w = true ∧ y.opx.extractLsb' 0 4 = 0) ∧
    v = { captured s (.mbld c ty d m y) c.pred with bv := w, sa := BitVec.ofNat 64 at_, sc := p, blk := if bsax = 2 then 1 else 0 } ∧
    leastPitch ty v.blk ≤ p.toNat ∧ (∀ q ∈ tileImage ty v.blk (keOf ty (viewK w)) at_ p.toNat, descAt s.me m.sel q.2 = descAt s.me m.sel at_) ∧ ViewsOk s2 v ∧
    tileMem s2 v m.sel 8 at_ p.toNat (tileImage ty v.blk (keOf ty (viewK w)) at_ p.toNat) = .ok (o, s3) := by
  obtain ⟨⟨o, u⟩, h⟩ := okB_elim (r := tileMem (tile0 32 0) { captured (tile0 32 0) (.mbld plain .i8 0 (mem32 .spm) ⟨reg 2, 9⟩) plain.pred with
      bv := 0, sa := 0, sc := 32, blk := 0 } .spm 8 0 32 (tileImage .i8 0 32 0 32)) (by decide)
  exact ⟨tile0 32 0, tile0 32 0, tile0 32 0, u, plain, .i8, 0, mem32 .spm, ⟨reg 2, 9⟩, 0, 32, o, _, 0, 0, 0, readyM_tileA, rfl, rfl, rfl, by decide, rfl, rfl, rfl, by decide,
    by decide, rfl, by decide, desc_tile _ rfl rfl (by decide) (by decide) (by decide) _ (by decide), okV_ok (by decide), h⟩
/-- OPX[4] = 1 is refused where no row-blocked copy is read, and OPX[3:0] on a block-scaled image. -/
theorem wit_MbldForms : (⟨reg 2, 16⟩ : TilePitch).opx.getLsbD 4 = true ∧ bsaxOf (tile0 32 0).me (descAt (tile0 32 0).me .spm 0) ≠ 2
    ∧ (⟨reg 2, 9⟩ : TilePitch).opx.extractLsb' 0 4 ≠ 0 ∧ bsaxOf (tile0 2304 2).me (descAt (tile0 2304 2).me .spm 0) = 2 := by decide
theorem wit_Mtld : ∃ (s s1 s2 s3 : State) (c : Com) (ty : Ty) (d : Fin 16) (m : MemOp32) (x : Use Src) (a p : Word) (o v : VOp) (w : Word) (at_ bsax : Nat) (ev : Fin 16)
    (hi : Bool), ReadyM c s ∧
    readSrc s m.base.r = .ok (a, s1) ∧ readSrc s1 x.r = .ok (p, s2) ∧ at_ = addressOf a (.imm32 m.off) ∧ bsax = bsaxOf s.me (descAt s.me m.sel at_) ∧
    operandTy ty = true ∧ w = s.cur.vw.get d ∧ bsax ≠ 1 ∧ hi = false ∧ (bsax = 2 → ty = .i8 ∧ 64 ≤ viewK w) ∧
    v = { captured s (.mtld c ty d m x ev hi) c.pred with
        vd := w, vb := s.cur.vw.get ev, sa := BitVec.ofNat 64 at_, sc := p, blk := if bsax = 2 then 1 else 0 } ∧
    leastPitch ty v.blk ≤ p.toNat ∧ (∀ q ∈ tileImage ty v.blk (keOf ty (viewK w)) at_ p.toNat, descAt s.me m.sel q.2 = descAt s.me m.sel at_) ∧ ViewsOk s2 v ∧
    tileMem s2 v m.sel 8 at_ p.toNat (tileImage ty v.blk (keOf ty (viewK w)) at_ p.toNat) = .ok (o, s3) := by
  obtain ⟨⟨o, u⟩, h⟩ := okB_elim (r := tileMem (tile0 2304 2) { captured (tile0 2304 2) (.mtld plain .i8 15 (mem32 .spm) (reg 2) 1 false) plain.pred with
      vd := aview 0 1 2 256, vb := vview 1 4, sa := 0, sc := 2304, blk := 1 } .spm 8 0 2304 (tileImage .i8 1 64 0 2304)) (by decide)
  exact ⟨tile0 2304 2, tile0 2304 2, tile0 2304 2, u, plain, .i8, 15, mem32 .spm, reg 2, 0, 2304, o, _, aview 0 1 2 256, 0, 2, 1, false, readyM_tileB, rfl, rfl, rfl, by decide, rfl, rfl,
    by decide, rfl, by decide, rfl, by decide, desc_tile _ rfl rfl (by decide) (by decide) (by decide) _ (by decide), okV_ok (by decide), h⟩
theorem wit_MtldRb : ∃ (s s1 s2 s3 : State) (c : Com) (ty : Ty) (d : Fin 16) (m : MemOp32) (x : Use Src) (a p : Word) (o v : VOp) (w : Word) (at_ bsax : Nat) (ev : Fin 16)
    (hi : Bool), ReadyM c s ∧
    readSrc s m.base.r = .ok (a, s1) ∧ readSrc s1 x.r = .ok (p, s2) ∧ at_ = addressOf a (.imm32 m.off) ∧ bsax = bsaxOf s.me (descAt s.me m.sel at_) ∧
    operandTy ty = true ∧ w = s.cur.vw.get d ∧ (bsax = 1 ∨ bsax = 2) ∧ (hi = true → bsax = 1) ∧ ty = .i8 ∧ 64 ≤ viewK w ∧
    v = { captured s (.mtldRb c ty d m x ev hi) c.pred with
        vd := w, vb := s.cur.vw.get ev, sa := BitVec.ofNat 64 at_, sc := p, blk := if bsax = 2 then 1 else 2 } ∧
    leastPitch ty v.blk ≤ p.toNat ∧ (∀ q ∈ tileImage ty v.blk (keOf ty (viewK w)) at_ p.toNat, descAt s.me m.sel q.2 = descAt s.me m.sel at_) ∧ ViewsOk s2 v ∧
    tileMem s2 v m.sel 8 at_ p.toNat (tileImage ty v.blk (keOf ty (viewK w)) at_ p.toNat) = .ok (o, s3) := by
  obtain ⟨⟨o, u⟩, h⟩ := okB_elim (r := tileMem (tile0 72 1) { captured (tile0 72 1) (.mtldRb plain .i8 15 (mem32 .spm) (reg 2) 1 true) plain.pred with
      vd := aview 0 1 2 256, vb := vview 1 4, sa := 0, sc := 72, blk := 2 } .spm 8 0 72 (tileImage .i8 2 64 0 72)) (by decide)
  exact ⟨tile0 72 1, tile0 72 1, tile0 72 1, u, plain, .i8, 15, mem32 .spm, reg 2, 0, 72, o, _, aview 0 1 2 256, 0, 1, 1, true, readyM_tileC, rfl, rfl, rfl, by decide, rfl, rfl,
    by decide, by decide, rfl, by decide, rfl, by decide, desc_tile _ rfl rfl (by decide) (by decide) (by decide) _ (by decide), okV_ok (by decide), h⟩
theorem wit_Mepi : ∃ (s s1 : State) (c : Com) (ty : Ty) (acc : Use (Fin 16)) (base : Use Src) (sel : Space) (cols : Option (Fin 16)) (r : Rnd) (x : Word) (off : BitVec 32)
    (scale : BitVec 32) (pitch : BitVec 20) (o o' : VOp) (p : Nat), ReadyM c s ∧ readSrc s base.r = .ok (x, s1) ∧
    addressOf x (.imm32 off) % 8 = 0 ∧ rowBytes ty % 8 = 0 ∧
    o = { captured s (.mepi96 c ty acc base sel off cols r) c.pred with
        vc := s.cur.vw.get acc.r, vd := 0, sa := BitVec.ofNat 64 (addressOf x (.imm32 off)), sc := BitVec.ofNat 64 (rowBytes ty) } ∧ ViewsOk s1 o ∧ cols = none ∧
    p = (if pitch = 0 then rowBytes ty else pitch.toNat) ∧ x.toNat % 8 = 0 ∧ p % 8 = 0 ∧
    o' = { captured s (.mepi128 c ty acc base sel scale pitch cols r) c.pred with vc := s.cur.vw.get acc.r, vd := 0, sa := x, sc := BitVec.ofNat 64 p } ∧ ViewsOk s1 o' :=
  ⟨vec0, vec0, plain, .i8, vr 13, reg 2, .spm, none, rnd0, 32, 8, 0, 0, _, _, _, readyM_vec0, rfl, by decide, by decide, rfl, okV_ok (by decide), rfl, rfl, by decide,
    by decide, rfl, okV_ok (by decide)⟩
theorem wit_Mwait : Ready .tile plain vec0 ∧ matrixBusy vec0 vec0.focus vec0.act = false := ⟨ready_vec0, by decide⟩

/-! Engines and the Runner. -/

def ladle0 : LadleOp := { d := .g 3, a := reg 1, b := reg 2, c := .g 4, ssp := .spm, dsp := .spm, ysp := .none, q5 := true }
/-- g1 and g2 apart. -/
def lad0 : State := withCtx fun c => { c with g := c.g.set 2 4096 }
theorem ready_lad0 : Ready .tile plain lad0 := ⟨rfl, rfl, rfl, by decide, rfl⟩
theorem wit_LadleStarts (h : LadleShape) (h1 : h.rlen = 64) (h2 : h.wlen = 64) : ∃ t, LadleStarts lad0 (.g 3) (some .spm) .spm .none true 0 4096 0 h t := by
  obtain ⟨r, hr⟩ := okB_elim (r := jobRange lad0 lad0.focus lad0.cur.asid .spm false 0 64) (by decide)
  obtain ⟨w, hw⟩ := okB_elim (r := jobRange lad0 lad0.focus lad0.cur.asid .spm true 4096 64) (by decide)
  exact ⟨_, rfl, by decide, by decide, r, w, none, _, _, by rw [h1]; exact hr, by rw [h2]; exact hw, rfl, rfl, rfl, rfl⟩
theorem wit_LadleResults :
    (∃ (s s1 s2 s3 t : State) (c : Com) (o : LadleOp) (a b x : Word) (len : BitVec 32) (evt : BitVec 16), Ready .tile c s ∧ readSrc s o.a.r = .ok (a, s1) ∧
      readSrc s1 o.b.r = .ok (b, s2) ∧ readSrc s2 o.c = .ok (x, s3) ∧ LadleStarts s3 o.d (some o.ssp) o.dsp o.ysp o.q5 a b x
        { kind := .ldl, rlen := len.toNat, wlen := len.toNat, len := len.toNat, block := len.setWidth 64, evt } t)
    ∧ (∃ (s s1 s2 s3 t : State) (c : Com) (o : LadleOp) (a b x : Word) (rowlen nrows spitch dpitch : BitVec 16), Ready .tile c s ∧ readSrc s o.a.r = .ok (a, s1) ∧
      readSrc s1 o.b.r = .ok (b, s2) ∧ readSrc s2 o.c = .ok (x, s3) ∧ LadleStarts s3 o.d (some o.ssp) o.dsp o.ysp o.q5 a b x
        { kind := .ldl2d, rlen := (nrows.toNat - 1) * spitch.toNat * 8 + rowlen.toNat, wlen := (nrows.toNat - 1) * dpitch.toNat * 8 + rowlen.toNat
          len := rowlen.toNat * nrows.toNat
          block := BitVec.ofNat 64 (rowlen.toNat + nrows.toNat * 2 ^ 16 + spitch.toNat * 2 ^ 32 + dpitch.toNat * 2 ^ 48), evt := 0 } t)
    ∧ (∃ (s s1 : State) (c : Com) (a : Use Src) (x : Word), Ready .tile c s ∧ readSrc s a.r = .ok (x, s1) ∧
      ∀ j ∈ jobsOf s s.focus s.act, j.jobid.toNat % 2 ^ 23 ≠ x.toNat % 2 ^ 23)
    ∧ ∃ (s : State) (c : Com) (n : BitVec 5), Ready .tile c s ∧ (jobsOf s s.focus s.act).length ≤ n.toNat := by
  obtain ⟨t, ht⟩ := wit_LadleStarts { kind := .ldl, rlen := 64, wlen := 64, len := 64, block := 64, evt := 3 } rfl rfl
  obtain ⟨u, hu⟩ := wit_LadleStarts { kind := .ldl2d, rlen := 64, wlen := 64, len := 64, block := BitVec.ofNat 64 (32 + 2 * 2 ^ 16 + 4 * 2 ^ 32 + 4 * 2 ^ 48), evt := 0 } rfl rfl
  exact ⟨⟨lad0, lad0, lad0, lad0, t, plain, ladle0, 0, 4096, 0, 64, 3, ready_lad0, rfl, rfl, rfl, ht⟩,
    ⟨lad0, lad0, lad0, lad0, u, plain, ladle0, 0, 4096, 0, 32, 2, 4, 4, ready_lad0, rfl, rfl, rfl, hu⟩,
    ⟨lad0, _, plain, reg 1, _, ready_lad0, rfl, by decide⟩, ⟨lad0, plain, 0, ready_lad0, by decide⟩⟩
theorem wit_Ldlz : ∃ (s s1 s2 t : State) (c : Com) (d : Dst) (b : Use Src) (x : Src) (dsp : Space) (ysp : SyncSp) (q5 : Bool) (len : BitVec 32) (bv xv : Word),
    Ready .tile c s ∧ readSrc s b.r = .ok (bv, s1) ∧ readSrc s1 x = .ok (xv, s2) ∧
    LadleStarts s2 d none dsp ysp q5 0 bv xv { kind := .ldlz, rlen := 0, wlen := len.toNat, len := len.toNat, block := len.setWidth 64, evt := 0 } t := by
  obtain ⟨w, hw⟩ := okB_elim (r := jobRange lad0 lad0.focus lad0.cur.asid .spm true 4096 64) (by decide)
  exact ⟨lad0, lad0, lad0, _, plain, .g 3, reg 2, .g 4, .spm, .none, false, 64, 4096, 0, ready_lad0, rfl, rfl, rfl, by decide, by decide, [], w, none, _, _, rfl, hw,
    rfl, rfl, rfl, rfl⟩

/-- A calibrated port 0 with group 0 armed for position 0, and the capability. -/
def run0 : State :=
  (withCtx fun c => { c with cap := 2, g := c.g.set 1 4096 }).modPort 0 fun x =>
    { x with cal := .calok, rwlim := 8, en := true, groups := [(0, { valid := true, mask := 3 })] }
def pour0 : PourOp := { src := .g 2, dst := reg 1, sync := reg 3, seqev := reg 4, ssp := .twr, dsp := .twr, ysp := .none, q7 := false, count := 64, grp := 0, port := 0 }
theorem ready_run0 : Ready .tile plain run0 := ⟨rfl, rfl, rfl, by decide, rfl⟩
theorem wit_Pours : ∃ (s s1 s2 s3 s4 : State) (c : Com) (o : PourOp) (dst sync se src : Word) (rps wps : List (Nat × Nat)) (at_ : Option Nat) (kind : PourKind) (rlen : Nat),
    kind = .int 0 ∧ Ready .tile c s ∧ s.cur.cap.getLsbD 1 = true ∧
    readSrc s o.dst.r = .ok (dst, s1) ∧ readSrc s1 o.sync.r = .ok (sync, s2) ∧ readSrc s2 o.seqev.r = .ok (se, s3) ∧ readSrc s3 o.src = .ok (src, s4) ∧
    s4.vecMemPending s4.focus s4.act = false ∧ rlen = pourReads (s.port o.port) kind o.grp o.count.toNat ∧
    (if rlen = 0 then .ok [] else jobRange s4 s4.focus s4.cur.asid (pourSpace o.ssp) false src.toNat rlen) = .ok rps ∧
    jobRange s4 s4.focus s4.cur.asid (pourSpace o.dsp) true dst.toNat (dstLen kind o.count.toNat) = .ok wps ∧
    jobSync s4 o.ysp sync.toNat = .ok at_ ∧ statusPlace s4 o.ysp sync.toNat = .ok () ∧
    pourRefused (s.port o.port) kind o.grp (BitVec.ofNat 16 (se.toNat % 2 ^ 16)) = false ∧ (s4.cluster s4.myCluster).jobs.length < 64 := by
  obtain ⟨r, hr⟩ := okB_elim (r := jobRange run0 run0.focus run0.cur.asid .twr false 0 (srcLen (.int 0) 64)) (by decide)
  obtain ⟨w, hw⟩ := okB_elim (r := jobRange run0 run0.focus run0.cur.asid .twr true 4096 (dstLen (.int 0) 64)) (by decide)
  exact ⟨run0, run0, run0, run0, run0, plain, pour0, 4096, 0, 0, 0, r, w, none, .int 0, srcLen (.int 0) 64, rfl, ready_run0, rfl, rfl, rfl, rfl, rfl, rfl, by decide, hr, hw, rfl, rfl,
    by decide, by decide⟩
theorem wit_PourKinds : pourRefused (run0.port 0) .skim 0 0 = false ∧ pourRefused (run0.port 0) (.bs true) 0 0 = false
    ∧ pourRefused (run0.port 0) (.bcast 1) 0 0 = false ∧ pourReads (run0.port 0) (.bcast 1) 0 64 = 0 := by decide
theorem wit_RunnerResults : (∃ (s : State) (c : Com) (port : Fin 8), Ready .tile c s ∧ s.cur.cap.getLsbD 1 = true ∧ (s.port port).en = true)
    ∧ (∃ (s : State) (c : Com) (port : Fin 8), Ready .tile c s ∧ s.cur.cap.getLsbD 1 = true ∧ (s.port port).en = false)
    ∧ (∃ (s t : State) (c : Com) (d : Dst) (port : Fin 8) (grp : Fin 64), Ready .tile c s ∧
      writeDst s d (BitVec.ofNat 64 (((s.port port).group grp).expseq.toNat * 2 ^ 48 + ((s.port port).poursOf grp).length * 2 ^ 45
        + (match ((s.port port).poursOf grp).head? with | some q => pourNum q.st | none => 0) * 2 ^ 43 + calNum (s.port port).cal * 2 ^ 40
        + (s.port port).allLit.toNat * 2 ^ 39 + ((s.port port).group grp).valid.toNat * 2 ^ 38)) = .ok t)
    ∧ ∃ (s : State) (c : Com), Ready .tile c s ∧ s.cur.cap.getLsbD 1 = false :=
  ⟨⟨run0, plain, 0, ready_run0, rfl, rfl⟩, ⟨run0, plain, 7, ready_run0, rfl, rfl⟩, ⟨run0, _, plain, .g 3, 0, 0, ready_run0, rfl⟩,
   ⟨State.reset, plain, ⟨rfl, rfl, rfl, by decide, rfl⟩, rfl⟩⟩

/-! System registers, patterns, banks, tasks and supervision. -/

/-- The reset state as global scheduler core executes. -/
def glob0 : State := { State.reset with focus := 0x20000 }
theorem ready_leaf0 : Ready .leaf plain leaf0 := ⟨rfl, rfl, rfl, by decide, rfl⟩
theorem ready_any_leaf0 : Ready .any plain leaf0 := ⟨rfl, rfl, rfl, by decide, rfl⟩
theorem ready_glob0 : Ready .any plain glob0 := ⟨rfl, rfl, rfl, by decide, rfl⟩

theorem wit_SystemRegisters :
    (∀ n : BitVec 12, n = 0 ∨ n = 1 ∨ n = 0x2F → ∃ (s t : State) (c : Com) (d : Dst), Ready .any c s ∧ sysCheck s n.toNat false = .ok () ∧
      (n = 0 → statusBusy s = false) ∧ writeDst (if n = 0x311 then clearStalls s else s) d (sysRead s n.toNat) = .ok t)
    ∧ (∃ (s t : State) (c : Com) (d : Dst), Ready .any c s ∧ sysCheck s 0x311 false = .ok () ∧ writeDst (clearStalls s) d (sysRead s 0x311) = .ok t)
    ∧ (∀ n : BitVec 12, n = 0 ∨ n = 0x20 ∨ n = 0x210 → ∃ (s s1 : State) (c : Com) (a : Use Src) (v : Word), Ready .any c s ∧ sysCheck s n.toNat true = .ok () ∧
      (n = 0 → statusBusy s = false) ∧ readSrc s a.r = .ok (v, s1) ∧ n ≠ 0x320)
    ∧ (∃ (s s1 : State) (c : Com) (a : Use Src) (v : Word), Ready .any c s ∧ sysCheck s 0x320 true = .ok () ∧ readSrc s a.r = .ok (v, s1) ∧ v.getLsbD 8 = false)
    ∧ (∃ (s t : State) (c : Com) (d : Dst), Ready .any c s ∧ writeDst s d (BitVec.ofNat 64 (s.tbOf s.myCluster)) = .ok t)
    ∧ ∃ (s s1 t : State) (c : Com) (d : Dst) (a : Use Src) (k : Fin 8) (clr : Bool) (x : Word), Ready .any c s ∧ s.cur.cap.getLsbD 4 = true ∧
      readSrc s a.r = .ok (x, s1) ∧ s.myCluster < 80 ∧
      writeDst (if clr then s1.modCore (coreAt s.myCluster (x.toNat % 64)) (fun q => { q with pmc := q.pmc.set k 0 }) else s1) d
        (((s1.core (coreAt s.myCluster (x.toNat % 64))).pmc.get k).setWidth 64) = .ok t :=
  ⟨fun n hn => by
     rcases hn with rfl | rfl | rfl
     · exact ⟨State.reset, _, plain, .g 3, ⟨rfl, rfl, rfl, by decide, rfl⟩, rfl, fun _ => by decide, rfl⟩
     · exact ⟨State.reset, _, plain, .g 3, ⟨rfl, rfl, rfl, by decide, rfl⟩, rfl, fun _ => by decide, rfl⟩
     · exact ⟨State.reset, _, plain, .g 3, ⟨rfl, rfl, rfl, by decide, rfl⟩, rfl, fun _ => by decide, rfl⟩,
   ⟨leaf0, _, plain, .g 3, ready_any_leaf0, rfl, rfl⟩,
   fun n hn => by
     rcases hn with rfl | rfl | rfl
     · exact ⟨State.reset, _, plain, reg 1, _, ⟨rfl, rfl, rfl, by decide, rfl⟩, rfl, fun _ => by decide, rfl, by decide⟩
     · exact ⟨State.reset, _, plain, reg 1, _, ⟨rfl, rfl, rfl, by decide, rfl⟩, rfl, fun _ => by decide, rfl, by decide⟩
     · exact ⟨State.reset, _, plain, reg 1, _, ⟨rfl, rfl, rfl, by decide, rfl⟩, rfl, fun _ => by decide, rfl, by decide⟩,
   ⟨glob0, _, plain, reg 1, _, ready_glob0, rfl, rfl, rfl⟩, ⟨State.reset, _, plain, .g 3, ⟨rfl, rfl, rfl, by decide, rfl⟩, rfl⟩,
   ⟨withCtx fun c => { c with cap := 16, g := c.g.set 1 63 }, _, _, plain, .g 3, reg 1, 7, true, 63, ⟨rfl, rfl, rfl, by decide, rfl⟩, rfl, rfl, by decide, rfl⟩⟩
theorem wit_SystemRegisterFaults : Ready .any plain State.reset ∧ sysKnown 3 = false ∧ sysKnown 0x224 = true ∧ sysKnown 0x230 = true ∧ isTile State.reset.focus = true
    ∧ Ready .any plain leaf0 ∧ isTile leaf0.focus = false ∧ leaf0.focus ≠ 0x20000 ∧ State.reset.cur.cap.getLsbD 3 = false ∧ State.reset.cur.cap.getLsbD 4 = false
    ∧ State.reset.cur.cap.getLsbD 1 = false := by
  refine ⟨⟨rfl, rfl, rfl, by decide, rfl⟩, ?_⟩
  exact ⟨rfl, rfl, rfl, rfl, ready_any_leaf0, rfl, by decide, rfl, rfl, rfl⟩

/-- A pattern task of kid 7 on slot 0, ACTIVE on four granules, FREE ones as many as n, placed on core 0. -/
def pat0 (n : Nat) : State :=
  (withCtx fun c => { c with kid := 7, cap := 1, task := { c.task with active := true, pat := true } }).setSlot 0 0
    { st := .active, space := 4, kid := 7, place := 1, nfree := n, nclaim := 4 - n, gen := 1 }
/-- The same with granule 1 claimed by context 0. -/
def claim0 : State := (pat0 3).modCtx 0 false fun c => { c with claim := some { slot := 0, t0 := 1, t1 := 0x01010101, mask := 1, gen := 1 } }
theorem ready_pat4 : Ready .tile plain (pat0 4) := ⟨rfl, rfl, rfl, by decide, rfl⟩
theorem ready_pat0 : Ready .tile plain (pat0 0) := ⟨rfl, rfl, rfl, by decide, rfl⟩
theorem ready_claim0 : Ready .tile plain claim0 := ⟨rfl, rfl, rfl, by decide, rfl⟩
/-- The same placed on core 1 too, whose context 0 is parked in a TAKE. -/
def behind0 : State := ((pat0 4).setSlot 0 0 { (pat0 4).slot 0 0 with place := 3 }).modCtx 1 false fun c =>
  { c with st := .running, kid := 7, task := { c.task with active := true, pat := true }, parked := some false }
theorem wit_Take : (∃ (s u : State) (c : Com) (t : Vector Word 4), Ready .tile c s ∧ takeTile s s.focus s.act = .tile u t ∧ takeAhead s s.focus s.act = false)
    ∧ (∃ (s u : State) (c : Com) (t : Vector Word 4), Ready .tile c s ∧ takeTile s s.focus s.act = .tile u t ∧ takeAhead s s.focus s.act = true)
    ∧ (∃ (s : State) (c : Com) (rev : Bool), Ready .tile c s ∧ takeTile s s.focus s.act = .none rev)
    ∧ (∃ (s : State) (c : Com), Ready .tile c s ∧ takeTile s s.focus s.act = .fault)
    ∧ ∃ (s : State) (c : Com), Ready .tile c s ∧ takeTile s s.focus s.act = .park :=
  ⟨⟨pat0 4, _, plain, _, ready_pat4, rfl, by decide⟩, ⟨behind0, _, plain, _, ⟨rfl, rfl, rfl, by decide, rfl⟩, rfl, by decide⟩, ⟨(pat0 4).setSlot 0 0 { st := .complete, kid := 7 }, plain, false, ⟨rfl, rfl, rfl, by decide, rfl⟩, rfl⟩,
   ⟨State.reset, plain, ⟨rfl, rfl, rfl, by decide, rfl⟩, rfl⟩, ⟨pat0 0, plain, ready_pat0, rfl⟩⟩
theorem wit_PatternResults :
    (∃ (s s1 : State) (c : Com) (a : Use Src) (m : Word), Ready .tile c s ∧ readSrc s a.r = .ok (m, s1) ∧ maskOk s.cur m = true ∧ s1.wtMet 3 = true)
    ∧ (∃ (s s1 : State) (c : Com) (a : Use Src) (m : Word), Ready .tile c s ∧ readSrc s a.r = .ok (m, s1) ∧ maskOk s.cur m = false)
    ∧ (∃ (s t : State) (c : Com) (d : Dst) (slot : Fin 4) (reg : Fin 16) (sh : Bool) (v : Word), Ready .any c s ∧
      patRead (s.slot s.myCluster slot) reg sh = some v ∧ writeDst s d v = .ok t)
    ∧ (∃ (s : State) (c : Com) (slot : Fin 4) (reg : Fin 16) (sh : Bool), Ready .any c s ∧ patRead (s.slot s.myCluster slot) reg sh = none)
    ∧ (∃ (s s1 t : State) (c : Com) (slot : Fin 4) (reg : Fin 16) (a : Use Src) (v : Word), Ready .any c s ∧ readSrc s a.r = .ok (v, s1) ∧
      s.cur.cap.getLsbD 0 = true ∧ patWrite s1 s.myCluster slot reg v false = .done t)
    ∧ (∃ (s s1 t : State) (c : Com) (slot : Fin 4) (reg : Fin 16) (a : Use Src) (v : Word), Ready .any c s ∧ readSrc s a.r = .ok (v, s1) ∧
      s.cur.cap.getLsbD 0 = true ∧ patWrite s1 s.myCluster slot reg v true = .done t)
    ∧ ∃ (s s1 : State) (c : Com) (a : Use Src) (v : Word), Ready .any c s ∧ readSrc s a.r = .ok (v, s1) ∧ s.cur.cap.getLsbD 0 = false :=
  ⟨⟨claim0.modCtx 0 false fun c => { c with g := c.g.set 1 1 }, _, plain, reg 1, 1, ⟨rfl, rfl, rfl, by decide, rfl⟩, rfl, by decide, rfl⟩,
   ⟨claim0.modCtx 0 false fun c => { c with g := c.g.set 1 2 }, _, plain, reg 1, 2, ⟨rfl, rfl, rfl, by decide, rfl⟩, rfl, by decide⟩,
   ⟨pat0 4, _, plain, .g 3, 0, 9, false, _, ⟨rfl, rfl, rfl, by decide, rfl⟩, rfl, rfl⟩, ⟨pat0 4, plain, 0, 10, false, ⟨rfl, rfl, rfl, by decide, rfl⟩, rfl⟩,
   ⟨pat0 4, _, _, plain, 0, 4, reg 1, _, ⟨rfl, rfl, rfl, by decide, rfl⟩, rfl, rfl, rfl⟩,
   ⟨pat0 4, _, _, plain, 0, 4, reg 1, _, ⟨rfl, rfl, rfl, by decide, rfl⟩, rfl, rfl, rfl⟩,
   ⟨State.reset, _, plain, reg 1, _, ⟨rfl, rfl, rfl, by decide, rfl⟩, rfl, rfl⟩⟩

theorem wit_BankResults : (∃ (s s1 : State) (c : Com) (a : Use Src) (k : BankSel) (m : Word) (ks : List Nat), Ready .tile c s ∧ readSrc s a.r = .ok (m, s1) ∧
      ks = (List.range 32).filter (fun i => m.getLsbD i) ∧ ∀ i ∈ ks, bankBusy s k i = false)
    ∧ (∃ (s t : State) (c : Com) (d : Dst) (k : BankSel), Ready .tile c s ∧
      writeDst s d (BitVec.ofNat 64 ((List.range 32).foldl (fun v i => v + bankNum (s.me.bank (bankOfSel s k) i).st * 4 ^ i) 0)) = .ok t)
    ∧ (∃ (s s1 s2 : State) (c : Com) (d : Src) (a : Use Src) (off : Off) (x n : Word), Ready .any c s ∧
      readSrc s a.r = .ok (x, s1) ∧ readSrc s1 d = .ok (n, s2) ∧ memReady s2 = .ok () ∧
      addressOf x off + n.toNat ≤ spmSize s.focus ∧ addressOf x off % 8 = 0 ∧ n.toNat % 8 = 0)
    ∧ ∃ (s s1 s2 : State) (c : Com) (d : Src) (a : Use Src) (off : Off) (x n : Word), Ready .any c s ∧
      readSrc s a.r = .ok (x, s1) ∧ readSrc s1 d = .ok (n, s2) ∧ memReady s2 = .ok () ∧ spmSize s.focus < addressOf x off + n.toNat :=
  ⟨⟨withCtx fun c => { c with g := c.g.set 1 0x80000001 }, _, plain, reg 1, .spm, 0x80000001, _, ⟨rfl, rfl, rfl, by decide, rfl⟩, rfl, rfl, by decide⟩,
   ⟨State.reset, _, plain, .g 3, .rs, ⟨rfl, rfl, rfl, by decide, rfl⟩, rfl⟩,
   ⟨withCtx fun c => { c with g := c.g.set 2 8 }, _, _, plain, .g 2, reg 1, .imm32 (BitVec.ofNat 32 (spmSize 0 - 8)), _, _, ⟨rfl, rfl, rfl, by decide, rfl⟩, rfl, rfl, rfl, by decide, by decide,
     by decide⟩,
   ⟨withCtx fun c => { c with g := c.g.set 2 1 }, _, _, plain, .g 2, reg 1, .imm32 (BitVec.ofNat 32 (spmSize 0)), _, _, ⟨rfl, rfl, rfl, by decide, rfl⟩, rfl, rfl, rfl, by decide⟩⟩

theorem wit_TaskResults : (∃ (s u : State) (c : Com), Ready .any c s ∧ s.cur.ending = .none ∧ s.cur.task.pat = false ∧ workDone s s.focus s.act = true ∧
      u = (leaveAll s s.focus s.act).modCur (fun k => { k with ending := .left }) ∧ u.cur.task.evend = false)
    ∧ (∃ (s u : State) (c : Com), Ready .any c s ∧ s.cur.ending = .none ∧ s.cur.task.pat = false ∧ workDone s s.focus s.act = true ∧
      u = (leaveAll s s.focus s.act).modCur (fun k => { k with ending := .left }) ∧ u.cur.task.evend = true ∧ u.cur.clu = 0 ∧ u.cur.mod = 0 ∧ u.cur.sys = 0)
    ∧ (∃ (s u : State) (c : Com) (t : Vector Word 4), Ready .any c s ∧ s.cur.ending = .take ∧ takeTile s s.focus s.act = .tile u t ∧
      takeAhead s s.focus s.act = false)
    ∧ (∃ (s : State) (c : Com) (rev : Bool), Ready .any c s ∧ s.cur.ending = .take ∧ takeTile s s.focus s.act = .none rev)
    ∧ (∃ (s u v z w : State) (c : Com) (t : Vector Word 4), Ready .any c s ∧ s.cur.ending = .none ∧ s.cur.task.pat = true ∧ workDone s s.focus s.act = true ∧
      s.wtMet 3 = true ∧ u = (match s.cur.claim with | some x => leaveClaim s s.focus s.act x.mask gDone | none => s) ∧
      v = (leaveAll u u.focus u.act).modCur (fun k => { k with ending := .left }) ∧ v.cur.task.evend = false ∧ z = tileEnded v ∧
      takeTile z z.focus z.act = .tile w t ∧ takeAhead z z.focus z.act = false)
    ∧ (∃ (s u v z : State) (c : Com) (rev : Bool), Ready .any c s ∧ s.cur.ending = .none ∧ s.cur.task.pat = true ∧ workDone s s.focus s.act = true ∧
      s.wtMet 3 = true ∧ u = (match s.cur.claim with | some x => leaveClaim s s.focus s.act x.mask gDone | none => s) ∧
      v = (leaveAll u u.focus u.act).modCur (fun k => { k with ending := .left }) ∧ v.cur.task.evend = false ∧ z = tileEnded v ∧
      takeTile z z.focus z.act = .none rev)
    ∧ (∃ (s : State) (c : Com), Ready .any c s ∧ shadowReady s s.focus = true ∧ isTile s.focus = true)
    ∧ (∃ (s : State) (c : Com), Ready .any c s ∧ shadowReady s s.focus = false) ∧ ∃ (s : State) (c : Com), Ready .any c s ∧ isTile s.focus = false :=
  ⟨⟨State.reset, _, plain, ⟨rfl, rfl, rfl, by decide, rfl⟩, rfl, rfl, by decide, rfl, by decide⟩,
   ⟨withCtx fun c => { c with task := { c.task with evend := true, cevt := 5 } }, _, plain, ⟨rfl, rfl, rfl, by decide, rfl⟩, rfl, rfl, by decide, rfl, by decide, by decide,
     by decide, by decide⟩,
   ⟨(pat0 4).modCtx 0 false fun c => { c with ending := .take }, _, plain, _, ⟨rfl, rfl, rfl, by decide, rfl⟩, rfl, rfl, by decide⟩,
   ⟨((pat0 4).setSlot 0 0 { st := .complete, kid := 7 }).modCtx 0 false fun c => { c with ending := .take }, plain, false, ⟨rfl, rfl, rfl, by decide, rfl⟩, rfl, rfl⟩,
   ⟨claim0, _, _, _, _, plain, _, ⟨rfl, rfl, rfl, by decide, rfl⟩, rfl, rfl, by decide, rfl, rfl, rfl, by decide, rfl, rfl, by decide⟩,
   ⟨(pat0 4).setSlot 0 0 { st := .complete, kid := 7 }, _, _, _, plain, false, ⟨rfl, rfl, rfl, by decide, rfl⟩, rfl, rfl, by decide, rfl, rfl, rfl, by decide, rfl, rfl⟩,
   ⟨withCore fun k => { k with c1 := { k.c1 with st := .ready } }, plain, ⟨rfl, rfl, rfl, by decide, rfl⟩, by decide, rfl⟩,
   ⟨State.reset, plain, ⟨rfl, rfl, rfl, by decide, rfl⟩, by decide⟩, ⟨leaf0, plain, ready_any_leaf0, rfl⟩⟩

/-- A frozen context 0 of core 0, granule 0 live, with the banks of its store FULL; focus on leaf controller 0, whose g1 holds x. -/
def sup0 (x : Word) : State :=
  ({ (withCore fun k => { k with c0 := { k.c0 with st := .frozen, live := 1 }, banks := (List.range 32).map fun i => (i, { st := .full }) }) with
    focus := leafKey 0 }).modCur fun c => { c with g := c.g.set 1 x }
theorem wit_Supervision : ∀ x ∈ [(0 : Word), 0x6F8, 0x700, 0x7F8, 0x800, 0xFFF8, 0x10000, 0x1FFF8, 0x20000, 0x30000, 0xFFFFF8],
    (sup0 x).focus ≠ 0x20000 ∧ Where.ok .leaf (sup0 x).focus = true ∧ (sup0 x).feDue = false ∧ (sup0 x).predBusy 0 = false ∧ (sup0 x).predMask plain.pred ≠ 0
    ∧ (sup0 x).wtMet 0 = true ∧ readSrc (sup0 x) (.g 1) = .ok (x, sup0 x) ∧ x.toNat < 2 ^ 24 ∧ x.toNat % 8 = 0 ∧ okB (writeDst (sup0 x) (.g 3) 0) = true
    ∧ okB (readSrc (sup0 x) (.g 2)) = true ∧ spillOn ((sup0 x).core 0) (x.getLsbD 17) = false
    ∧ ((sup0 x).ctx 0 (x.getLsbD 17)).killing = false := by
  intro x hx
  fin_cases hx <;> exact ⟨by decide, rfl, rfl, rfl, by decide, rfl, rfl, by decide, by decide, by decide, by decide, by decide, by decide⟩
theorem wit_Supervision2 : canResume (sup0 0) 0 false = true ∧ canResume (sup0 0) 0 true = false ∧ ((sup0 0).ctx 0 false).live.getLsbD 0 = true
    ∧ ((sup0 0).ctx 0 false).live.getLsbD 1023 = false ∧ ((sup0 0).ctx 0 false).pend.getLsbD 0 = false ∧ okB (debugBanks (sup0 0) 0 false [0]) = true ∧ okB (debugBanks (sup0 0) 0 false (bornGranules (sup0 0) 0 false 0 1)) = true
    ∧ ((sup0 0).ctx 0 true).st = .idle ∧ ((sup0 0).ctx 0 false).killing = false ∧ ((sup0 0).ctx 0 true).killing = false := by decide
/-- A context that is being spilled. -/
theorem wit_KillWhileSpilling : ∃ s : State, (s.core 0).spill = .spill false ∧ (s.ctx 0 false).killing = false ∧ (s.ctx 0 false).st ≠ .idle ∧ (s.ctx 0 false).vac = false :=
  ⟨(sup0 0).modCore 0 fun k => { k with spill := .spill false }, by decide⟩
/-- The same with a packet in the leaf's queue. -/
def fq0 : State := leaf0.modCluster 0 fun k => { k with faults := [1] }
theorem wit_Fwait : Ready .leaf plain fq0 ∧ fq0.focus ≠ 0x20000 ∧ readSrc fq0 (.g 1) = .ok (0, fq0) ∧ memReady fq0 = .ok ()
    ∧ addressOf 0 (.imm24 0xFFC0) + 64 ≤ 0x10000 ∧ addressOf 0 (.imm24 0xFFC0) % 64 = 0 ∧ (fq0.cluster fq0.myCluster).faults = [1]
    ∧ okB (writeDst (performWrite (fq0.modCluster 0 fun k => { k with faults := [] }) true (pairsAt (locSpm fq0.focus 0xFFC0) (bytesOfNat 64 1))) (.g 3) 0) = true :=
  ⟨⟨rfl, rfl, rfl, by decide, rfl⟩, by decide, rfl, rfl, by decide, by decide, rfl, by decide⟩

/-! Boot, power and groups. -/

theorem wit_Lock : State.reset.fwWritten = false ∧ ({ State.reset with fwWritten := true } : State).fwWritten = true := by decide
theorem wit_BootGo : ∃ s : State, s.go = false ∧ s.wiped = true ∧ s.lock = true ∧ s.lockBase.toNat ≤ s.lockLimit.toNat ∧ s.fuses ≠ 3 :=
  ⟨{ State.reset with wiped := true, lock := true }, by decide⟩
theorem wit_BootGoKey : ((State.reset.core (leafKey 79)).active = false) ∧ isTile (coreAt 79 63) = true ∧ State.reset.wiped = false := by decide
theorem wit_Features : (∃ s : State, s.featLowerSet = false ∧ s.featUpperSet = false ∧ s.bootReady = true)
    ∧ (∃ s : State, s.featLowerSet = true ∧ s.featUpperSet = true) ∧ (∃ s : State, s.bootReady = false)
    ∧ ∃ (s t : State) (v : Word), s.featUpperSet = false ∧ s.bootReady = true ∧ exec (.featAccUpper v) s = .next t :=
  ⟨⟨{ State.reset with bootReady := true }, by decide⟩, ⟨{ State.reset with featLowerSet := true, featUpperSet := true }, by decide⟩, ⟨State.reset, by decide⟩,
   ⟨{ State.reset with bootReady := true }, _, 0, rfl, rfl, rfl⟩⟩
theorem wit_Attestation : (∃ s : State, s.feat 10 = true ∧ s.keysErased = false ∧ s.atBusy = false ∧ s.measured = true)
    ∧ (∃ s : State, s.feat 10 = false) ∧ (∃ s : State, s.atBusy = true ∧ s.keysErased = false) ∧ (∃ s : State, s.atBusy = true ∧ s.keysErased = true)
    ∧ (1 : Word).getLsbD 1 = false ∧ (1 : Word).getLsbD 0 = true ∧ (0 : Word).getLsbD 0 = false :=
  ⟨⟨{ State.reset with featAcc := 0x400, measured := true }, by decide⟩, ⟨State.reset, by decide⟩,
   ⟨{ State.reset with atBusy := true }, by decide⟩, ⟨{ State.reset with atBusy := true, keysErased := true }, by decide⟩, by decide, by decide, by decide⟩
theorem wit_LifeCycle : (0x101 : Word).getLsbD 8 = true ∧ lcAllowed State.reset.fuses ((0x101 : Word).extractLsb' 0 2) = true
    ∧ lcAllowed State.reset.fuses ((0x102 : Word).extractLsb' 0 2) = false ∧ (1 : Word).getLsbD 8 = false := by decide
theorem wit_Poison : unitHas .regStore (locRs 0 false 0) = true ∧ unitHas .scratch (locSpm 0 0) = true ∧ unitHas .dram 0 = true ∧ unitHas .towerL2 (locTwr 0 0) = true := by
  decide

theorem wit_Power : (∃ s : State, domField s 0 ≠ domOf s 0 ∧ (s.cluster 0).switchUntil = none ∧ clusterIdle s 0 = true)
    ∧ (domField State.reset 79 = domOf State.reset 79) ∧ (∃ s : State, (s.cluster 0).switchUntil = some 5 ∧ 5 ≤ s.tb)
    ∧ (∃ s : State, (s.cluster 0).switchUntil = some 5 ∧ s.tb < 5)
    ∧ (∃ s : State, clusterIdle s 0 = false) :=
  ⟨⟨{ State.reset with dommap := #v[1, 0, 0] }, by decide⟩, by decide, ⟨{ State.reset.modCluster 0 (fun c => { c with switchUntil := some 5 }) with tb := 5 }, by decide⟩,
   ⟨State.reset.modCluster 0 fun c => { c with switchUntil := some 5 }, by decide⟩,
   ⟨withCtx fun c => { c with st := .running }, by decide⟩⟩
theorem wit_Frequency : (5 < (State.reset.regs.get 0).f.toNat) ∧ (18 : Word).toNat % 32 ≤ 18 ∧ (State.reset.regs.get 0).f.toNat ≤ 18
    ∧ (State.reset.regs.get 0).v < voltageFor 18 * 100 ∧ (4 : Word).toNat % 32 < 5 ∧ 18 < (19 : Word).toNat % 32
    ∧ (State.reset.regs.get 0).vt * 100 ≤ (State.reset.regs.get 0).v ∧ (∃ s : State, (s.regs.get 0).v < (s.regs.get 0).vt * 100)
    ∧ (∃ s : State, (s.regs.get 0).currentAt + 1000 ≤ s.tb) ∧ State.reset.tb < (State.reset.regs.get 0).currentAt + 1000
    ∧ 5 < (State.reset.regs.get 0).fcode.toNat ∧ (State.reset.regs.get 0).fcode.toNat ≤ 15 :=
  ⟨by decide, by decide, by decide, by decide, by decide, by decide, by decide, ⟨{ State.reset with regs := State.reset.regs.set 0 { v := 0 } }, by decide⟩,
   ⟨{ State.reset with tb := 1000 }, by decide⟩, by decide, by decide, by decide⟩
theorem wit_Ramps : (∃ s : State, (s.quad 0).level < 16 ∧ (s.quad 0).rampLeft = 0 ∧ (s.regs.get (domOf s 0)).slewHold = false ∧ (s.regs.get (domOf s 0)).current = false)
    ∧ (∃ s : State, (s.quad 0).level < 16 ∧ (s.quad 0).rampLeft ≠ 0)
    ∧ (∃ s : State, s.feat 7 = true ∧ (s.regs.get 0).lim ≠ 0 ∧ ∀ cl ∈ clustersOf s 0, ∀ q ∈ quadsOf cl, (s.quad q).level = 16)
    ∧ (∃ s : State, s.feat 7 = true ∧ (s.regs.get 0).lim ≠ 0 ∧ ∃ cl ∈ clustersOf s 0, ∃ q ∈ quadsOf cl, (s.quad q).level ≠ 16)
    ∧ State.reset.feat 7 = false ∧ (∃ s : State, s.tbCopies.get 79 < s.tb) ∧ State.reset.tb ≤ State.reset.tbCopies.get 0
    ∧ (∃ s : State, (s.port 0).en = true ∧ (s.port 0).ckmst = false ∧ (s.port 0).ckLost = false) ∧ (State.reset.port 0).en = false := by
  refine ⟨⟨State.reset.modQuad 0 fun q => { q with level := 15 }, by decide⟩, ⟨State.reset.modQuad 0 fun q => { q with level := 1, rampLeft := 1 }, by decide⟩,
    ⟨{ State.reset with featAcc := 0x80, regs := State.reset.regs.set 0 { lim := 1 } }, by decide, by decide, fun _ _ _ _ => rfl⟩,
    ⟨State.modQuad { State.reset with featAcc := 0x80, regs := State.reset.regs.set 0 { lim := 1 } } 0
      fun q => { q with level := 8 }, by decide, by decide, 0, by decide, 0, by decide, by decide⟩, by decide, ⟨{ State.reset with tb := 1 }, by decide⟩, by decide,
    ⟨State.reset.modPort 0 fun x => { x with en := true }, by decide⟩, by decide⟩

/-- Group 5 open for ASID 0 with m members and a arrivals; context 0 of core 0 is one of them. -/
def grp0 (x : Group) : State := (withCtx fun c => { c with members := c.members.set 0 (some (5, x.epoch)), ask := .sent }).setGroup 5 x
/-- An operation of context 0 of core 0 on group 5. -/
def gop (k : GroupOpKind) : GroupOp := { id := 1, key := 0, ctx := false, kind := k, gid := 5, asid := 0, pc := 0, insn := 0, opa := 0, opb := 0 }
theorem wit_GroupOps : (∀ k : GroupOpKind, (({ State.reset with groupOps := [gop k] } : State).groupOps.find? fun x => x.id == (gop k).id) = some (gop k))
    ∧ ((grp0 { opened := true, m := 1 }).group 5).opened = true ∧ ((grp0 { opened := true, m := 1 }).group 5).asid = (gop .sync).asid
    ∧ isMember (grp0 { opened := true, m := 1 }) 0 false 5 = true ∧ ((grp0 { opened := true, m := 1 }).group 5).kind = .none
    ∧ (State.reset.group 5).opened = false
    ∧ (∀ k : GroupOpKind, opFirst { State.reset with groupOps := [gop k] } (gop k) = true)
    ∧ (∀ k : GroupOpKind, opFirst { State.reset with groupOps := [{ gop .leave with id := 0 }, gop k] } (gop k) = false) := by
  refine ⟨fun k => ?_, by decide, by decide, by decide, by decide, by decide, fun k => ?_, fun k => ?_⟩ <;> try (cases k <;> decide)
theorem wit_Join : ∃ s : State, (s.group 5).opened = true ∧ isMember s 0 false 5 = false ∧ (s.ctx 0 false).members.toList.findIdx? (entryFree s) = some 0
    ∧ (s.ctx 0 false).away = false ∧ (gop .join).dead = false
    ∧ (s.ctx 0 false).ask = .sent := ⟨(withCtx fun c => { c with ask := .sent }).setGroup 5 { opened := true }, by decide⟩
theorem wit_Phases : (∃ s : State, (s.group 5).kind = .sync ∧ (s.group 5).a = (s.group 5).m) ∧ (∃ s : State, (s.group 5).kind = .sstep ∧ (s.group 5).a = (s.group 5).m
      ∧ ¬(s.podEn = true ∧ s.feat 6 = true ∧ s.podg.toNat = 5))
    ∧ ∃ s : State, (s.group 5).kind = .sstep ∧ (s.group 5).a = (s.group 5).m ∧ s.podEn = true ∧ s.feat 6 = true ∧ s.podg.toNat = 5 :=
  ⟨⟨State.reset.setGroup 5 { opened := true, m := 1, a := 1, kind := .sync }, by decide⟩, ⟨State.reset.setGroup 5 { opened := true, m := 1, a := 1, kind := .sstep }, by decide⟩,
   ⟨State.setGroup { State.reset with podEn := true, podg := 5, featAcc := 0x40 } 5
      { opened := true, m := 1, a := 1, kind := .sstep }, by decide⟩⟩
def rel0 (sstep : Bool) (at_ : Nat) : Release := { id := 1, key := 0, ctx := false, code := 0, sstep, at_, rstep := 0 }
theorem wit_Releases : (({ State.reset with releases := [rel0 false 0] } : State).releases.find? fun x => x.id == 1 && !x.sstep) = some (rel0 false 0)
    ∧ (({ State.reset with releases := [rel0 true 8] } : State).releases.find? fun x => x.id == 1 && x.sstep) = some (rel0 true 8)
    ∧ 8 ≤ State.reset.tb + 8 ∧ State.reset.tb + 8 < 9 ∧ (State.reset.cluster 0).switchUntil = none
    ∧ (∃ s : State, (s.ctx 0 false).away = false ∧ (s.ctx 0 false).wait = .group 5 true none) ∧ (∃ s : State, (s.ctx 0 false).away = false ∧ (s.ctx 0 false).wait = .waitg 5 none)
    ∧ (rel0 true 8).area = none ∧ ({ rel0 true 8 with area := some 64 } : Release).area = some 64
    ∧ isTile 0 = true ∧ (255 : BitVec 8) ≠ 0 :=
  ⟨by decide, by decide, by decide, by decide, by decide, ⟨withCtx fun c => { c with wait := .group 5 true none }, by decide⟩,
   ⟨withCtx fun c => { c with wait := .waitg 5 none }, by decide⟩, by decide, by decide, by decide, by decide⟩
def ref0 (posted : Bool) : PostRefusal := { id := 1, key := 0, ctx := false, posted, code := 10, detail := 0, pc := 0, insn := 0, opa := 0, opb := 0 }
theorem wit_Refusals : (∃ s : State, (s.refusals.find? fun x => x.id == 1) = some (ref0 true) ∧ canFreeze s 0 false = true)
    ∧ (∃ s : State, (s.refusals.find? fun x => x.id == 1) = some (ref0 true) ∧ canFreeze s 0 false = false)
    ∧ (∃ s : State, (s.refusals.find? fun x => x.id == 1) = some (ref0 false) ∧ (s.ctx 0 false).away = false ∧ (s.ctx 0 false).ask = .sent)
    ∧ (∃ s : State, (s.refusals.find? fun x => x.id == 1) = some { ref0 true with area := some 64 }) :=
  ⟨⟨{ (withCtx fun c => { c with st := .running, task := { c.task with active := true } }) with refusals := [ref0 true] }, by decide⟩,
   ⟨{ (withCtx fun c => { c with vac := true, st := .frozen }) with refusals := [ref0 true] }, by decide⟩,
   ⟨{ (withCtx fun c => { c with ask := .sent }) with refusals := [ref0 false] }, by decide⟩,
   ⟨{ State.reset with refusals := [{ ref0 true with area := some 64 }] }, by decide⟩⟩
/-- A module of a pod of m members, its group's arrival m' made. -/
def pod0 (m : BitVec 6) (arr : Bool) : State :=
  State.setGroup (State.modPort { State.reset with podEn := true, podg := 5, podMemb := m, featAcc := 0x40 } 0
    fun x => { x with en := true, lasers := Vector.replicate 9 { st := .lit } }) 5 { opened := true, podArrived := arr }
/-- Light of one other member, on λ1. -/
def row1 : List Int := [0, 64]
/-- What port 0 of such a module reads of a barrier census. -/
def podReads (s : State) (row : List Int) : List (Option Nat) :=
  (List.range 32).map (fun i => (s.port 0).settleIdle.sense (row.getD i 0)
    (if (s.group s.podg.toNat).podArrived = true ∧ (s.port 0).settleIdle.writable = true ∧ (s.port 0).settleIdle.litAt i = true
      ∧ (s.port 0).settleIdle.spos.toNat = i then 1 else 0))
theorem wit_PodBarrier : ∀ s ∈ [pod0 2 true, pod0 3 true, pod0 2 false], s.port 0 = (s.port 0).settleIdle ∧ (s.port 0).inCycle = true ∧ barrierCycle s 0 = true
    ∧ (s.port 0).idle % 32 = 0 ∧ (s.port 0).seen.length < 32 := by
  intro s hs
  simp only [List.mem_cons, List.not_mem_nil, or_false] at hs
  rcases hs with rfl | rfl | rfl <;> decide
theorem wit_PodReads : podReads (pod0 2 true) row1 = [some 1, some 1] ++ List.replicate 30 (some 0) ∧ (podReads (pod0 2 true) row1).count (some 1) = (pod0 2 true).podMemb.toNat
    ∧ ((pod0 2 true).group (pod0 2 true).podg.toNat).podArrived = true ∧ (podReads (pod0 3 true) row1).count (some 1) ≠ (pod0 3 true).podMemb.toNat
    ∧ ((pod0 2 false).group (pod0 2 false).podg.toNat).podArrived = false ∧ none ∈ podReads (pod0 2 true) [0, 32] := by decide


/-! The host. -/

/-- Queue 15 with a record at its head: the all-zero one, which goes to core 0, context 0. -/
def hq0 (asid : BitVec 16) : State := (State.modQueue { State.reset with bootReady := true } 15 fun x => { x with en := true, tail := 1, asid }).modCluster 0 fun c => { c with cladm := c.cladm.set 0 0x10000 }
/-- The head's record with this WEVT: byte 36. -/
def hostRec (s : State) (off : Nat) (b : Byte) : State := { s with hostMem := s.hostMem.put off b }
/-- The hold store full, but for n places. -/
def fullInbox (s : State) : State := s.modCtx 0 false fun c => { c with inbox := List.replicate 8 0 }
theorem wit_Queue1 : (hq0 1).bootReady = true ∧ State.reset.bootReady = false ∧ ((hq0 1).queue 15).en = true ∧ ((hq0 1).queue 15).head ≠ ((hq0 1).queue 15).tail
    ∧ recordCode (hq0 1) ((hq0 1).queue 15) (headRecord (hq0 1) ((hq0 1).queue 15)) = some 4 := by decide
theorem wit_Queue2 : recordCode (hq0 0) ((hq0 0).queue 15) (headRecord (hq0 0) ((hq0 0).queue 15)) = none
    ∧ recWevt (headRecord (hq0 0) ((hq0 0).queue 15)) = 0 ∧ recKind (headRecord (hq0 0) ((hq0 0).queue 15)) ≠ 1
    ∧ inboxRoom (hq0 0) 0 false = true ∧ inboxRoom (fullInbox (hq0 0)) 0 false = false
    ∧ recordCode (fullInbox (hq0 0)) ((hq0 0).queue 15) (headRecord (hq0 0) ((hq0 0).queue 15)) = none := by decide
theorem wit_Queue3 : (let s := hostRec (hq0 0) 36 1; recordCode s (s.queue 15) (headRecord s (s.queue 15)) = none ∧ recWevt (headRecord s (s.queue 15)) ≠ 0 ∧ holdRoom s = true) := by
  decide
/-- A full hold store leaves no room. -/
theorem holdRoom_full (s : State) (hs : 16384 ≤ s.held.length) : holdRoom s = false := by unfold holdRoom; simp; omega
theorem wit_HoldFull : ∃ s : State, holdRoom s = false :=
  ⟨{ State.reset with held := List.replicate 16384 { id := 0, body := 0, released := none } }, holdRoom_full _ (by rw [List.length_replicate])⟩
theorem wit_QueueIdle : (State.reset.queue 0).en = false ∧ ({} : HostQueue).head = ({} : HostQueue).tail := by decide
/-- A record from its bytes. -/
def recAt (bs : List (Nat × Nat)) : Record := BitVec.ofNat 512 (bs.foldl (fun n p => n + p.2 * 2 ^ (8 * p.1)) 0)
theorem wit_RecordCodes : (recCap (recAt [])).toNat < 64 ∧ 64 ≤ (recCap (recAt [(28, 64)])).toNat ∧ isTile (recCore (recAt [(20, 0x00), (21, 0x10)])) = true ∧ isTile (recCore (recAt [(20, 0x40), (21, 1)])) = false
    ∧ recCap (recAt [(28, 1)]) &&& ~~~({} : HostQueue).capmax ≠ 0 ∧ recAsid (recAt [(32, 1)]) ≠ ({} : HostQueue).asid ∧ recPc (recAt [(16, 4)]) % 4 = 0
    ∧ recPc (recAt [(16, 2)]) % 4 ≠ 0 ∧ 65535 < recWevt (recAt [(38, 1)]) ∧ recField (recAt []) 40 4 ≤ 65535 := by decide

theorem wit_Events : (0x100000001 : Word).toNat % 2 ^ 16 ≠ 0 ∧ (0x100000001 : Word).toNat / 2 ^ 32 ≠ 0 ∧ (0x1FFFF : Word).toNat / 2 ^ 32 = 0
    ∧ (∃ s : State, (tget ({} : Event) s.events 65535).target ≠ 0
      ∧ (tget ({} : Event) s.events 65535).count.toNat + 1 = (tget ({} : Event) s.events 65535).target.toNat)
    ∧ (∃ s : State, (tget ({} : Event) s.events 1).target ≠ 0 ∧ (tget ({} : Event) s.events 1).count.toNat + 1 < (tget ({} : Event) s.events 1).target.toNat)
    ∧ (∃ s : State, (tget ({} : Event) s.events 1).target ≠ 0 ∧ (tget ({} : Event) s.events 1).target.toNat ≤ (tget ({} : Event) s.events 1).count.toNat)
    ∧ (tget ({} : Event) State.reset.events 1).target = 0 ∧ State.reset.feat 1 = false
    ∧ (∃ s : State, s.feat 1 = true ∧ (s.hostMem.get 8).getLsbD 1 = false) ∧ ∃ s : State, s.feat 1 = true ∧ (s.hostMem.get 8).getLsbD 1 = true :=
  ⟨by decide, by decide, by decide, ⟨{ State.reset with events := [(65535, { target := 1 })] }, by decide⟩, ⟨{ State.reset with events := [(1, { target := 2 })] }, by decide⟩,
   ⟨{ State.reset with events := [(1, { target := 1, count := 1 })] }, by decide⟩, by decide, by decide,
   ⟨{ State.reset with featAcc := 3 }, by decide⟩,
   ⟨{ State.reset with featAcc := 3, hostMem := Mem.empty.put 8 2 }, by decide⟩⟩
theorem wit_Window : (∃ s : State, s.feat 4 = true) ∧ State.reset.feat 4 = false ∧ (∃ s : State, (s.queue 0).en = true) ∧ (State.reset.queue 15).en = false :=
  ⟨⟨{ State.reset with featAcc := 16 }, by decide⟩, by decide, ⟨State.reset.modQueue 0 fun x => { x with en := true }, by decide⟩,
   by decide⟩
/-- A wiped module with the first 64 KiB locked. -/
def locked0 : State := { State.reset with wiped := true, lock := true, fwWritten := true }
theorem wit_HostMemory : hdmUp locked0 = true ∧ hdmUp State.reset = false ∧ locked0.lockedLoc 0 = true ∧ (∃ i < 9, locked0.lockedLoc (65528 + i) = true) ∧ (∀ i < 9, locked0.lockedLoc (65536 + i) = false)
    ∧ isDram 0 = true ∧ locked0.lockBase.toNat ≤ 0 / 2 ^ 16 ∧ 0 / 2 ^ 16 ≤ locked0.lockLimit.toNat := by decide

/-! Requests, records, units and translation. -/

def req0 (k : ReqKind) (loc : Nat) : Req := { id := 1, key := 0, ctx := false, kind := k, loc, cls := none }
/-- The reset state with one request under way. -/
def fab (r : Req) : State := { State.reset with fabric := [r] }
theorem wit_Requests : ∀ k ∈ [ReqKind.write [(0, 1)], .load [0], .amo .add true 0 1, .cas false 0 0 1, .amof 0 1, .swarm (locTwr 0 0) 1, .syncAdd (locTwr 0 0) 1,
    .arm (locTwr 0 0) 0, .fe .ldw 0 0, .fe .stf 0 1, .fe .setE 0 0, .join (locCls 0 0), .hold 0, .forkStart 0 true 0 0 #v[0, 0, 0, 0] 0 0 0],
    (fab (req0 k 0)).req 1 = some (req0 k 0) ∧ routeClear (fab (req0 k 0)) (req0 k 0) = true ∧ afterDone (fab (req0 k 0)) (req0 k 0) = true
    ∧ afterGone (fab (req0 k 0)) (req0 k 0) = true ∧ msGate (fab (req0 k 0)) (req0 k 0) = .go ∧ (req0 k 0).loc < foreignBase ∧ (req0 k 0).performed = false := by
  intro k hk
  fin_cases hk <;> exact ⟨rfl, rfl, rfl, rfl, rfl, by decide, rfl⟩
/-- A write of the first scratchpad bytes of core 0, whose bank is FULL; the second does not wait for its bank. -/
theorem wit_WriteHome : (∃ u, homeBanks { spm0 with fabric := [req0 (.write [(locSpm 0 0, 1)]) (locSpm 0 0)] } true [locSpm 0 0] = (u, true))
    ∧ (∃ u, homeBanks (fab (req0 (.write [(locSpm 0 0, 1)]) (locSpm 0 0))) true [locSpm 0 0] = (u, false))
    ∧ nextPiece State.reset [(locSpm 0 0, 1)] = ([(locSpm 0 0, 1)], []) ∧ pieceAt [(7, 1), (8, 2)] 8 = ([(8, 2)], [(7, 1)]) :=
  ⟨⟨_, Prod.ext rfl (by decide)⟩, ⟨_, Prod.ext rfl (by decide)⟩, by decide, by decide⟩
/-- A memory-side request, not parked or parked. -/
def ms0 (k : ReqKind) (parked : Bool) : Req := { req0 k 0 with ms := true, parked }
/-- A performed request. -/
def done0 (k : ReqKind) : Req := { req0 k 0 with performed := true }
/-- The second of two requests: on the same route, or after the first. -/
def second0 (k : ReqKind) (route : Option Nat) (after : List Nat) : Req := { req0 k 0 with id := 2, route, after }
/-- A load whose value goes to g3, for a task that has ended or not. -/
def toReg0 (dead : Bool) : Req := { req0 (.load [0]) 0 with dst := .reg (.g 3) .z8, dead }
/-- A memory-side request at a held unit, one behind another request of its unit, one whose word is poisoned, and a replayed one. -/
theorem wit_Gates : (∃ (s : State) (r : Req), s.req r.id = some r ∧ isWriting r.kind = true ∧ r.performed = false ∧ routeClear s r = true ∧ afterDone s r = true ∧
      msGate s r = .park false)
    ∧ (∃ (s : State) (r : Req), s.req r.id = some r ∧ isWriting r.kind = true ∧ r.performed = false ∧ routeClear s r = true ∧ afterDone s r = true ∧ msGate s r = .park true)
    ∧ (∃ (s : State) (r : Req), s.req r.id = some r ∧ isWriting r.kind = true ∧ msGate s r = .stay)
    ∧ (∃ (s : State) (r : Req), s.req r.id = some r ∧ isWriting r.kind = true ∧ r.performed = true)
    ∧ (∃ (s : State) (r : Req), s.req r.id = some r ∧ isWriting r.kind = true ∧ routeClear s r = false)
    ∧ (∃ (s : State) (r : Req), s.req r.id = some r ∧ isWriting r.kind = true ∧ afterDone s r = false)
    ∧ (∃ (s : State) (r : Req), s.req r.id = some r ∧ r.kind = .load [0] ∧ r.performed = false ∧ msGate s r = .park false)
    ∧ ∃ (s : State) (r : Req), s.req r.id = some r ∧ r.kind = .load [0] ∧ r.performed = false ∧ msGate s r = .stay :=
  ⟨⟨(fab (ms0 (.write [(0, 1)]) false)).setStack 0 { held := [0] }, ms0 (.write [(0, 1)]) false, rfl, rfl, rfl, rfl, rfl, by decide⟩,
   ⟨{ fab (ms0 (.write [(0, 1)]) false) with poison := [0] }, ms0 (.write [(0, 1)]) false, rfl, rfl, rfl, rfl, rfl, by decide⟩,
   ⟨(fab (ms0 (.write [(0, 1)]) true)).setStack 0 { held := [0], queue := [1] }, ms0 (.write [(0, 1)]) true, rfl, rfl, by decide⟩,
   ⟨fab (done0 (.write [])), done0 (.write []), rfl, rfl, rfl⟩,
   ⟨{ State.reset with fabric := [second0 (.write [(0, 1)]) (some 5) [], { req0 (.write [(0, 1)]) 0 with route := some 5 }] }, second0 (.write [(0, 1)]) (some 5) [], rfl, rfl,
     by decide⟩,
   ⟨{ State.reset with fabric := [second0 (.syncAdd 0 8) none [1], req0 (.write [(0, 1)]) 0] }, second0 (.syncAdd 0 8) none [1], rfl, rfl, by decide⟩,
   ⟨(fab (ms0 (.load [0]) false)).setStack 0 { held := [0] }, ms0 (.load [0]) false, rfl, rfl, rfl, by decide⟩,
   ⟨(fab (ms0 (.load [0]) true)).setStack 0 { held := [0], queue := [1] }, ms0 (.load [0]) true, rfl, rfl, rfl, by decide⟩⟩
theorem wit_FeSteps : feReady (fab { req0 (.fe .ldw 0 0) 0 with arr := some 3 }) 0 3 .ldw = false ∧ feReady { fab (req0 (.fe .ldw 0 0) 0) with full := [0] } 0 3 .ldw = true
    ∧ feReady (fab (req0 (.fe .stw 0 0) 0)) 0 3 .stw = true ∧ feReady (fab (req0 (.fe .setE 0 0) 0)) 0 3 .setE = true := by decide
/-- A load of these bytes whose value goes to a destination. -/
def ld0 (ls : List Nat) (dst : ReqDst) : Req := { req0 (.load ls) 0 with dst }
/-- The pieces that a load of these bytes still has to read, and what the next step reads (R209). -/
def nextRead (s : State) (ls : List Nat) (got : List (Nat × Byte)) : List (List (Nat × Unit)) × List (List (Nat × Unit)) :=
  pick s.tick (splitPieces ((ls.filter fun l => !(got.any fun p => p.1 == l)).map fun l => (l, ())))
theorem wit_Loads : (∃ (s : State) (r : Req) (u v : State) (bs : List Byte) (p : Bool), s.req r.id = some r ∧ r.kind = .load [0] ∧ (∀ base, r.dst ≠ .spm base) ∧ r.performed = false ∧
      msGate s r = .go ∧ nextRead s [0] r.got = ([[(0, ())]], []) ∧ homeBanks s false [0] = (u, true) ∧ readHome u (isFw r.key) [0] = (bs, p, v))
    ∧ (∃ (s : State) (r : Req), s.req r.id = some r ∧ r.kind = .load [0] ∧ r.dst = .spm (locSpm 0 0) ∧ r.performed = false ∧ msGate s r = .go ∧
      nextRead s [0] r.got = ([[(0, ())]], []))
    ∧ (∃ (s : State) (r : Req), s.req r.id = some r ∧ r.kind = .load [7, 8] ∧ r.performed = false ∧ msGate s r = .go ∧ r.got = [(7, 0)] ∧
      nextRead s [7, 8] r.got = ([[(8, ())]], []))
    ∧ (∃ u, homeBanks ({ fab (ld0 [locSpm 0 0] (.reg (.g 3) .z8)) with spmLive := [locSpm 0 0 / 8] }) false [locSpm 0 0] = (u, false)) :=
  ⟨⟨fab (toReg0 false), toReg0 false, _, _, _, _, rfl, rfl, fun _ h => ReqDst.noConfusion h, rfl, rfl, rfl, Prod.ext rfl (by decide), rfl⟩,
   ⟨fab (ld0 [0] (.spm (locSpm 0 0))), ld0 [0] (.spm (locSpm 0 0)), rfl, rfl, rfl, rfl, rfl, rfl⟩,
   ⟨fab { ld0 [7, 8] (.reg (.g 3) .z16) with got := [(7, 0)] }, { ld0 [7, 8] (.reg (.g 3) .z16) with got := [(7, 0)] }, rfl, rfl, rfl, rfl, rfl, rfl⟩,
   ⟨_, Prod.ext rfl (by decide)⟩⟩
theorem wit_Replies : (∃ (s : State) (r : Req), s.req r.id = some r ∧ r.kind = .load [0] ∧ (∀ base, r.dst ≠ .spm base) ∧ r.performed = true)
    ∧ (∃ (s : State) (r : Req), s.req r.id = some r ∧ r.performed = true ∧ r.kind = .amo .add true 0 1)
    ∧ (∃ (s : State) (r : Req), s.req r.id = some r ∧ r.kind = .join 0 ∧ r.performed = true ∧ r.dead = false ∧ (s.ctx r.key r.ctx).ending = .joinSent r.id 0)
    ∧ (∃ (s : State) (r : Req), s.req r.id = some r ∧ r.kind = .join 0 ∧ r.performed = true ∧ (r.dead = true ∨ ∀ m, (s.ctx r.key r.ctx).ending ≠ .joinSent r.id m))
    ∧ (∃ (s : State) (r : Req) (u : State), s.req r.id = some r ∧ r.kind = .arm (locTwr 0 0) 0 ∧ homeBanks s false ((List.range 16).map (locTwr 0 0 + ·)) = (u, true))
    ∧ (∃ (s : State) (r : Req) (u : State), s.req r.id = some r ∧ r.kind = .arm (locSpm 0 0) 0 ∧ homeBanks s false ((List.range 16).map (locSpm 0 0 + ·)) = (u, false))
    ∧ (∃ (s : State) (r : Req), s.req r.id = some r ∧ isAcked r.kind = true ∧ r.performed = true ∧ ∀ q id, r.dst ≠ .epi q id)
    ∧ (∃ (s : State) (r : Req), s.req r.id = some r ∧ isAcked r.kind = false) ∧ (∃ (s : State) (r : Req), s.req r.id = some r ∧ r.performed = false)
    ∧ (∃ r : Req, r.dst = .reg (.g 3) .d64 ∧ r.dead = false) ∧ (∃ r : Req, r.dst = .spm (locSpm 0 0)) ∧ ∃ r : Req, r.dst = .reg (.g 3) .d64 ∧ r.dead = true :=
  ⟨⟨fab (done0 (.load [0])), done0 (.load [0]), rfl, rfl, fun _ h => ReqDst.noConfusion h, rfl⟩,
   ⟨fab (done0 (.amo .add true 0 1)), done0 (.amo .add true 0 1), rfl, rfl, rfl⟩,
   ⟨(fab (done0 (.join 0))).modCtx 0 false fun c => { c with ending := .joinSent 1 0 }, done0 (.join 0), rfl, rfl, rfl, rfl, rfl⟩,
   ⟨fab (done0 (.join 0)), done0 (.join 0), rfl, rfl, rfl, .inr fun _ h => Ending.noConfusion h⟩,
   ⟨fab (req0 (.arm (locTwr 0 0) 0) 0), req0 (.arm (locTwr 0 0) 0) 0, _, rfl, rfl, Prod.ext rfl (by decide)⟩,
   ⟨{ fab (req0 (.arm (locSpm 0 0) 0) 0) with spmLive := [locSpm 0 0 / 8] }, req0 (.arm (locSpm 0 0) 0) 0, _, rfl, rfl, Prod.ext rfl (by decide)⟩,
   ⟨fab (done0 (.write [])), done0 (.write []), rfl, rfl, rfl, fun _ _ h => ReqDst.noConfusion h⟩, ⟨fab (toReg0 false), toReg0 false, rfl, rfl⟩,
   ⟨fab (toReg0 false), toReg0 false, rfl, rfl⟩,
   ⟨{ toReg0 false with dst := .reg (.g 3) .d64 }, rfl, rfl⟩, ⟨{ toReg0 false with dst := .spm (locSpm 0 0) }, rfl⟩, ⟨{ toReg0 true with dst := .reg (.g 3) .d64 }, rfl, rfl⟩⟩
/-- A load for a scratchpad range: its write there is done at once where the bank is FULL, and waits where it is not. -/
theorem wit_FinishLoad : ∀ s ∈ [spm0, State.reset], ∃ x, (applyReq (poisIf (putReq { s with fabric := [ld0 [0] (.spm (locSpm 0 0))] }
      { ld0 [0] (.spm (locSpm 0 0)) with kind := .write (pairsAt (locSpm 0 0) [1]) }) 0 false false)
      { ld0 [0] (.spm (locSpm 0 0)) with kind := .write (pairsAt (locSpm 0 0) [1]) }).req 1 = some x ∧ (x.performed = true ↔ s = spm0) := by
  intro s hs
  simp only [List.mem_cons, List.not_mem_nil, or_false] at hs
  rcases hs with rfl | rfl
  · exact ⟨_, rfl, by decide⟩
  · exact ⟨_, rfl, by decide⟩
/-- Boundary: half of the generation numbers are reached. -/
theorem wit_Notify : ∃ (s : State) (l : Nat), (s.ctx 0 false).wait = .waitw l 0 1 none [0] ∧ l < foreignBase ∧ (s.ctx 0 false).away = false :=
  ⟨withCtx fun c => { c with wait := .waitw 0 0 1 none [0] }, 0, rfl, by decide, by decide⟩
theorem wit_Reached : genReached 0x7FFF000000000000 0 = true ∧ genReached 0x8000000000000000 0 = false := by decide

def fork0 : Req := req0 (.forkStart 0 true 0 0 #v[0, 0, 0, 0] 0 0 0) 0
/-- An ISTLOAD of 64 bytes from DRAM 0 to PC 0 of core 0. -/
def ist0 : Record := BitVec.ofNat 512 (2 ^ 176 + 64 * 2 ^ 64)
def adm0 : State := State.reset.modCluster 0 fun c => { c with cladm := c.cladm.set 0 0x10000 }
theorem wit_Arrivals : (∃ (s : State) (r : Req) (b : Record) (m : Bool) (pc : BitVec 15) (i : BitVec 128) (a : Word), s.req r.id = some r ∧ r.kind = .record b m pc i a ∧
      recKind b = 0 ∧ routeClear s r = true ∧ m = true ∧ admits s (clusterOf (recCore b)) (recAsid b) = true ∧ inboxHeld s (recCore b) (recCtx b) < 8)
    ∧ (∃ (s : State) (b : Record), 8 ≤ inboxHeld s (recCore b) (recCtx b))
    ∧ (∃ (s : State) (b : Record), (s.ctx (recCore b) (recCtx b)).st ≠ .idle)
    ∧ (∃ (s : State) (b : Record), (s.ctx (recCore b) (recCtx b)).st = .idle ∧ (s.ctx (recCore b) (recCtx b)).vac = false ∧ recCtx b = (s.core (recCore b)).active ∧
      (s.core (recCore b)).swapping = false ∧ (s.ctx (recCore b) (recCtx b)).inbox = [])
    ∧ (∃ (s : State) (r : Req), s.req r.id = some r ∧ r.kind = .forkStart 0 true 0 0 #v[0, 0, 0, 0] 0 0 0 ∧ afterGone s r = true ∧ (s.ctx 0 true).st = .reserved ∧
      (s.core 0).spill ≠ .spill true)
    ∧ (∃ (s : State) (r : Req) (b : Record), s.req r.id = some r ∧ r.kind = .record b false 0 0 0 ∧ recKind b = 1 ∧ routeClear s r = true ∧
      ∀ l ∈ (List.range (recField b 8 2)).map (recField b 0 8 + ·), s.lockedLoc l = false)
    ∧ (∃ (s : State) (r : Req) (b : Record), s.req r.id = some r ∧ r.kind = .record b false 0 0 0 ∧ recKind b = 1 ∧ routeClear s r = true ∧
      ∃ l ∈ (List.range (recField b 8 2)).map (recField b 0 8 + ·), s.lockedLoc l = true)
    ∧ (∃ (s : State) (r : Req) (b : Record), s.req r.id = some r ∧ r.kind = .record b true 0 0 0 ∧ routeClear s r = false)
    ∧ (∃ (s : State) (r : Req) (b : Record), s.req r.id = some r ∧ r.kind = .record b true 0 0 0 ∧ admits s (clusterOf (recCore b)) (recAsid b) = false ∧
      routeClear s r = true ∧ r.dead = true)
    ∧ (∃ (s : State) (r : Req) (b : Record), s.req r.id = some r ∧ r.kind = .record b true 0 0 0 ∧ admits s (clusterOf (recCore b)) (recAsid b) = false ∧
      routeClear s r = true ∧ r.dead = false ∧ canFreeze s r.key r.ctx = false)
    ∧ (∃ (s : State) (r : Req) (b : Record), s.req r.id = some r ∧ r.kind = .record b true 0 0 0 ∧ admits s (clusterOf (recCore b)) (recAsid b) = false ∧
      routeClear s r = true ∧ r.dead = false ∧ r.area = none ∧ canFreeze s r.key r.ctx = true) :=
  ⟨⟨{ adm0 with fabric := [req0 (.record 0 true 0 0 0) 0] }, req0 (.record 0 true 0 0 0) 0, 0, true, 0, 0, 0, rfl, rfl, by decide, rfl, rfl, by decide, by decide⟩,
   ⟨fullInbox State.reset, 0, by decide⟩,
   ⟨withCtx fun c => { c with st := .running }, 0, by decide⟩, ⟨State.reset, 0, by decide⟩,
   ⟨{ (withCore fun k => { k with c1 := { k.c1 with st := .reserved } }) with fabric := [fork0] }, fork0, rfl, rfl, rfl,
     by decide, by decide⟩,
   ⟨fab (req0 (.record ist0 false 0 0 0) 0), req0 (.record ist0 false 0 0 0) 0, ist0, rfl, rfl, by decide, rfl, by decide⟩,
   ⟨{ locked0 with fabric := [req0 (.record ist0 false 0 0 0) 0] }, req0 (.record ist0 false 0 0 0) 0, ist0, rfl, rfl, by decide, rfl, 0, by decide, by decide⟩,
   ⟨{ State.reset with fabric := [second0 (.record 0 true 0 0 0) (some 5) [], { req0 (.write [(0, 1)]) 0 with route := some 5 }] },
     second0 (.record 0 true 0 0 0) (some 5) [], 0, rfl, rfl, by decide⟩,
   ⟨fab { req0 (.record 0 true 0 0 0) 0 with dead := true }, { req0 (.record 0 true 0 0 0) 0 with dead := true }, 0, rfl, rfl, by decide, rfl, rfl⟩,
   ⟨fab (req0 (.record 0 true 0 0 0) 0), req0 (.record 0 true 0 0 0) 0, 0, rfl, rfl, by decide, rfl, rfl, by decide⟩,
   ⟨{ (withCtx fun c => { c with st := .running }) with fabric := [req0 (.record 0 true 0 0 0) 0] }, req0 (.record 0 true 0 0 0) 0, 0, rfl, rfl, by decide, rfl, rfl, rfl, by decide⟩⟩
def held0 (rel : Option Nat) : Held := { id := 1, body := 0, released := rel }
theorem wit_Held : (∃ s : State, (s.held.find? fun x => x.id == 1) = some (held0 none))
    ∧ (∃ s : State, (s.held.find? fun x => x.id == 1) = some (held0 (some 2)) ∧ (∀ x ∈ s.held, recCore x.body = recCore 0 → heldBefore x (held0 (some 2)) = false) ∧
      admits s (clusterOf (recCore 0)) (recAsid 0) = false)
    ∧ (∃ s : State, (s.held.find? fun x => x.id == 1) = some (held0 (some 2)) ∧ (∀ x ∈ s.held, recCore x.body = recCore 0 → heldBefore x (held0 (some 2)) = false) ∧
      admits s (clusterOf (recCore 0)) (recAsid 0) = true ∧ inboxRoom s (recCore 0) (recCtx 0) = true)
    ∧ (∃ s : State, (s.held.find? fun x => x.id == 1) = some (held0 (some 2)) ∧ (∀ x ∈ s.held, recCore x.body = recCore 0 → heldBefore x (held0 (some 2)) = false) ∧
      admits s (clusterOf (recCore 0)) (recAsid 0) = true ∧ recKind 0 = 0 ∧ inboxRoom s (recCore 0) (recCtx 0) = false)
    ∧ heldBefore (held0 (some 1)) (held0 (some 2)) = true :=
  ⟨⟨{ State.reset with held := [held0 none] }, by decide⟩, ⟨{ State.reset with held := [held0 (some 2)] }, by decide⟩, ⟨{ adm0 with held := [held0 (some 2)] }, by decide⟩,
   ⟨fullInbox { adm0 with held := [held0 (some 2)] }, by decide⟩, by decide⟩
def out0 (b : Record) : Outgoing := { id := 1, body := b, pc := 0, insn := 0, opa := 0, ctx := false }
theorem wit_Outbound : (∃ s : State, (s.core 0).outbound = [out0 0] ∧ recWevt (out0 0).body = 0 ∧ inboxRoom s 0 false = true)
    ∧ (∃ s : State, (s.core 0).outbound = [out0 0] ∧ inboxRoom s 0 false = false)
    ∧ (∃ s : State, (s.core 0).outbound = [out0 (recAt [(36, 1)])] ∧ recWevt (recAt [(36, 1)]) ≠ 0 ∧ holdRoom s = true) :=
  ⟨⟨withCore fun k => { k with outbound := [out0 0] }, by decide⟩, ⟨fullInbox (withCore fun k => { k with outbound := [out0 0] }), by decide⟩,
   ⟨withCore fun k => { k with outbound := [out0 (recAt [(36, 1)])] }, by decide⟩⟩
/-- A page table in the first 1,024 bytes of DRAM: a page of 1 GiB at virtual address 0. -/
def pages0 : State :=
  { State.reset with
    xlbase := 1
    mem := ((((((Mem.empty.put 0 1).put 1 1).put 256 1).put 257 2).put 512 1).put 513 3).put 768 3 }
theorem wit_Units : (∀ k : BitVec 3, k = 1 ∨ k = 2 ∨ k = 3 → ∃ s : State, (s.stack 15).cmdUnit = 7 ∧ (s.stack 15).cmd = k) ∧ (State.reset.stack 0).cmd ≠ 1
    ∧ (∃ d, pageOf State.reset false 0 0 0 = .error d)
    ∧ (∃ e, pageOf pages0 false (clusterOf 0) 0 0x3FFFFFFF = .ok e ∧ ((pages0.cluster (clusterOf 0)).hit e.asid e.vbase).isSome = false)
    ∧ (1 : Word).getLsbD 0 = true ∧ isTile 0 = true :=
  ⟨fun k _ => ⟨State.reset.setStack 15 { cmdUnit := 7, cmd := k }, rfl, rfl⟩, by decide, ⟨1, rfl⟩, ⟨{ asid := 0, vbase := 0, size := 2 ^ 30, leaf := 3 }, by rfl, by decide⟩,
   by decide, by decide⟩
/-- A request that is the last one parked at its unit while a RELEASE of the unit is in progress. -/
theorem wit_Unpark : ∃ (s : State) (r : Req) (x : Stack), x = s.stack (stackOf r.loc) ∧ r.parked = true ∧ x.cmd = 2 ∧ x.cmdUnit = unitOf r.loc ∧
    parkedFor s (stackOf r.loc) (unitOf r.loc) = [r.id] ∧ unitOf r.loc ∉ x.held :=
  ⟨(fab (ms0 (.load [0]) true)).setStack 0 { queue := [1], cmd := 2 }, ms0 (.load [0]) true, _, rfl, rfl, by decide, by decide, by decide, by decide⟩

/-! Arbiters, swaps, links, epilogue. -/

theorem wit_Decision : (∃ i cr2 last2, decideCr 4 (fun i => if i < 2 then 4 else 0) (fun _ => 0) 3 [0, 1, 3] (fun _ => 2) = some (i, cr2, last2))
    ∧ (∃ i cr2 last2, decideCr 4 (fun _ => 0) (fun _ => 0) 3 [1, 2] (fun _ => 1) = some (i, cr2, last2)) ∧ decideCr 4 (fun _ => 4) (fun _ => 0) 3 [] (fun _ => 1) = none
    ∧ [0, 1, 3].Pairwise (· < ·) := ⟨⟨_, _, _, rfl⟩, ⟨_, _, _, rfl⟩, rfl, by decide⟩
/-- An entry of core 0's queue after q quarters. -/
def ent0 (i : Instr) (quarters : Nat) : VEntry := { op := captured vecB i plain.pred, quarters }
def vq0 (i : Instr) (quarters : Nat) : State := vecB.modCore 0 fun k => { k with vq := [ent0 i quarters] }
theorem wit_Grants : (∀ n, n = 2 ∨ n = 3 → (candidate (prelude (vq0 (.vpnot plain .i8 1 (pr 1)) n) 0) 0 false) = some (ent0 (.vpnot plain .i8 1 (pr 1)) n)
      ∧ withheld (prelude (vq0 (.vpnot plain .i8 1 (pr 1)) n) 0) 0 = false)
    ∧ (∃ i cr last, decideCr 4 (weightOf (vecB.quad 0)) (fun j => (vecB.quad 0).laneCr.get (Fin.ofNat 4 j)) (vecB.quad 0).laneLast.val [0] (fun _ => 1) = some (i, cr, last)
      ∧ quadCore 0 (Fin.ofNat 4 i) = 0)
    ∧ (List.range 4).filter (fun i => (candidate (prelude State.reset 0) i false).isSome) = []
    ∧ withheld (prelude (State.reset.modQuad 0 fun q => { q with level := 1, rampPhase := 1 }) 0) 0 = true := by
  refine ⟨?_, ⟨_, _, _, rfl, by decide⟩, by decide, by decide⟩
  rintro n (rfl | rfl) <;> exact ⟨by decide, by decide⟩
/-- MZERO at the head: a matrix instruction. -/
theorem wit_MxuGrant : (candidate (advanceEpi (prelude (vq0 (.mzero plain .i32 13) 0) 0) 0) 0 true).isSome = true
    ∧ withheld (advanceEpi (prelude (vq0 (.mzero plain .i32 13) 0) 0) 0) 0 = false
    ∧ epiFull (advanceEpi (prelude (vq0 (.mzero plain .i32 13) 0) 0) 0) 0 (ent0 (.mzero plain .i32 13) 0) = false
    ∧ (advanceEpi (prelude State.reset 0) 0).focus = 0 := by decide

/-- A core whose active context has blocked for b cycles, with a READY shadow. -/
def swap0 (b : Nat) : State := withCore fun k => { k with autosw := true, c0 := { k.c0 with st := .running, blocked := b }, c1 := { k.c1 with st := .ready } }
theorem wit_Swaps : ((swap0 257).core 0).autosw = true ∧ ((swap0 257).core 0).swapping = false
    ∧ max 32 ((swap0 257).core 0).swth.toNat < (((swap0 257).core 0).ctx ((swap0 257).core 0).active).blocked ∧ shadowReady (swap0 257) 0 = true
    ∧ waitOpen (((swap0 257).core 0).ctx (!((swap0 257).core 0).active)).wait = false
    ∧ (((swap0 256).core 0).ctx ((swap0 256).core 0).active).blocked ≤ max 32 ((swap0 256).core 0).swth.toNat
    ∧ (State.reset.core 0).swapping = false := by decide
theorem wit_Swapping : (∃ s : State, (s.core 0).swapping = true ∧ ((s.core 0).ctx (!(s.core 0).active)).vac = false ∧ spillOn (s.core 0) (!(s.core 0).active) = false
      ∧ ((s.core 0).ctx (!(s.core 0).active)).st ≠ .idle)
    ∧ (∃ s : State, (s.core 0).swapping = true ∧ ((s.core 0).ctx (!(s.core 0).active)).vac = false ∧ spillOn (s.core 0) (!(s.core 0).active) = false
      ∧ ((s.core 0).ctx (!(s.core 0).active)).st = .idle ∧ ((s.core 0).ctx (!(s.core 0).active)).inbox = [])
    ∧ (∃ s : State, (s.core 0).swapping = true ∧ ((s.core 0).ctx (!(s.core 0).active)).vac = true) :=
  ⟨⟨(swap0 0).modCore 0 fun k => { k with swapping := true }, by decide⟩,
   ⟨withCore fun k => { k with swapping := true }, by decide⟩, ⟨(swap0 0).modCore 0 fun k => { k with swapping := true, c1 := { k.c1 with vac := true } }, by decide⟩⟩
theorem wit_Links : 0 < (State.reset.link 79).downPermits ∧ (State.reset.link 79).downHeld = [] ∧ 0 < (State.reset.link 0).upPermits ∧ (State.reset.link 0).upHeld = []
    ∧ (∃ s : State, (s.link 0).downHeld ≠ [] ∧ (s.link 0).upHeld ≠ [] ∧ (s.link 0).downPermits = 0 ∧ (s.link 0).upPermits = 0
      ∧ 1 = min ((s.link 0).downPermits + min 1 (s.link 0).downBuf.length) (s.link 0).downHeld.length
      ∧ 1 = min ((s.link 0).upPermits + min 1 (s.link 0).upBuf.length) (s.link 0).upHeld.length)
    ∧ (∃ s : State, (s.link 0).downPermits = 0 ∧ (s.link 0).upPermits = 0)
    ∧ (∃ s : State, (s.core 0).pktOut = [1] ∧ (s.cluster (clusterOf 0)).faults.length < 64)
    ∧ (∃ s : State, (s.core 0).pktOut = [1] ∧ 64 ≤ (s.cluster (clusterOf 0)).faults.length) :=
  ⟨by decide, by decide, by decide, by decide,
   ⟨State.reset.setLink 0 { downPermits := 0, upPermits := 0, downHeld := [7, 8], upHeld := [7, 8], downBuf := List.replicate 16 1, upBuf := List.replicate 16 1 }, by decide⟩,
   ⟨State.reset.setLink 0 { downPermits := 0, upPermits := 0 }, by decide⟩, ⟨withCore fun k => { k with pktOut := [1] }, by decide⟩,
   ⟨(withCore fun k => { k with pktOut := [1] }).modCluster 0 fun c => { c with faults := List.replicate 64 1 }, by decide⟩⟩

/-- An epilogue entry of core 0 that stores at glb address 0, unmapped. -/
def epi0 (rows : List EpiRow) (left : Nat) : Epi :=
  { id := 1, pos := 0, op := captured vec0 (.mepi96 plain .i8 (vr 13) (reg 2) .glb 0 none rnd0) plain.pred, rows, left, kill := 1 }
def epiS (e : Epi) : State := (vec0.modCtx 0 false fun c => { c with st := .running }).modQuad 0 fun q => { q with epi := [e] }
theorem wit_Epilogue : (epiS (epi0 [] 0)).epiEntry 0 1 = some (epi0 [] 0) ∧ (epi0 [] 0).done = true ∧ (epi0 [] 1).done = false
    ∧ (epiS (epi0 [⟨0, [1]⟩] 0)).epiEntry 0 1 = some (epi0 [⟨0, [1]⟩] 0) ∧ (epi0 [⟨0, [1]⟩] 0).parked = false
    ∧ canFreeze (epiS (epi0 [⟨0, [1]⟩] 0)) 0 false = true ∧ (epi0 [⟨0, [1]⟩] 0).dead = false ∧ rowsBefore (epiS (epi0 [⟨0, [1]⟩] 0)) 0 (epi0 [⟨0, [1]⟩] 0) = false
    ∧ canFreeze ((epiS (epi0 [⟨0, [1]⟩] 0)).modCtx 0 false fun c => { c with st := .frozen }) 0 false = false
    ∧ rowsBefore (vec0.modQuad 0 fun q => { q with epi := [epi0 [⟨0, [1]⟩] 0, { epi0 [⟨8, [1]⟩] 0 with id := 2 }] }) 0 { epi0 [⟨8, [1]⟩] 0 with id := 2 } = true
    ∧ ({ epi0 [⟨0, [1]⟩] 0 with dead := true } : Epi).dead = true ∧ ({ epi0 [⟨0, [1]⟩] 0 with parked := true } : Epi).parked = true
    ∧ (∃ x, epiResolve ((epiS (epi0 [⟨0, [1]⟩] 0)).modCluster 0 fun c => { c with tlb := [{ asid := 0, vbase := 0, size := 65536, leaf := 47 }] }) 0 (epi0 [⟨0, [1]⟩] 0) ⟨0, [1]⟩ = .ok x)
    ∧ (∃ f, epiResolve (epiS (epi0 [⟨0, [1]⟩] 0)) 0 (epi0 [⟨0, [1]⟩] 0) ⟨0, [1]⟩ = .error f ∧ f.code < 2 ^ 8) :=
  ⟨by decide, by decide, by decide, by decide, by decide, by decide, by decide, by decide, by decide, by decide, by decide, by decide, ⟨_, rfl⟩, ⟨_, rfl, by decide⟩⟩
/-- An MMAR of context 0 that waits for both tiles. -/
def mmarF : Flight := { id := 1, op := captured vec0 (.mmar plain .i8 13 (vr 12) 0 false none) plain.pred, left := 0, got := [], needA := true, needB := true }
def tile (isA : Bool) : TorusTile := { quad := 0, pos := 0, isA, mrseq := 0, sender := 4, src := 9, k := 32, rows := [] }
def mmarS (ts : List TorusTile) : State := (vec0.modCore 0 fun k => { k with fly := [mmarF] }).modCluster 0 fun c => { c with torus := ts }
theorem wit_Torus : (mmarS [tile true, tile false]).me.fly.find? (fun x => x.id == 1) = some mmarF ∧ mmarF.needA = true ∧ mmarF.needB = true ∧ mmarF.dead = false
    ∧ tileFor (mmarS [tile true, tile false]) 0 mmarF true = some (tile true) ∧ tileFor (mmarS [tile true, tile false]) 0 mmarF false = some (tile false)
    ∧ tileFor (mmarS []) 0 mmarF true = none ∧ isMmar mmarF.op = true ∧ mmarsOf (mmarS []) 0 false = [1]
    ∧ flightDone (mmarS []) 0 { mmarF with needA := false, needB := false } = true := by decide

/-! Engines, pattern steps, banks, spills, ports, lasers, pours and frames. -/

/-- A copy of 64 bytes within core 0's scratchpad. -/
def job0 (f : Job → Job) : Job := f
  { id := 1, kind := .ldl, key := 0, ctx := false, asid := 0, rd := none, wr := none, edges := [], src := 0, dst := 4096, ssp := .spm, dsp := .spm, block := 64, opx := 256
    evt := 0, sync := 0, ysp := .none, syncLoc := 0, jobid := 0, len := 64 }
def jobS (s : State) (j : Job) : State := s.modCluster 0 fun c => { c with jobs := [j] }
theorem wit_Jobs : (((jobS spm0 (job0 id)).cluster 0).jobs.find? fun x => x.id == 1) = some (job0 id) ∧ isLadle (job0 id) = true ∧ (job0 id).started = false
    ∧ edgesDone (jobS spm0 (job0 id)) 0 (job0 id) = true ∧ edgesDone (jobS spm0 (job0 fun j => { j with edges := [1] })) 0 (job0 fun j => { j with edges := [1] }) = false
    ∧ (job0 fun j => { j with ended := true }).ended = true ∧ (job0 id).killed = false ∧ midBurst (job0 id) = false ∧ (job0 id).owned = true
    ∧ midBurst (job0 fun j => { j with todo := [[]] }) = true ∧ ((spm0.ctx 0 false).vac = false ∧ (spm0.ctx 0 false).q5.length < 16)
    ∧ (∀ j ∈ (State.reset.cluster (clusterOf 0)).jobs, myLadle 0 false j = false) ∧ myLadle 0 false (job0 id) = true
    ∧ (List.replicate 16 (0 : Word)).length = 16 ∧ (∀ j ∈ (State.reset.cluster 0).jobs, jobReady j = false) := by decide
theorem wit_SyncJob : ∃ v, homeBanks (jobS spm0 (job0 fun j => { j with ended := true, ysp := .spm })) true [locSpm 0 0] = (v, true) := ⟨_, Prod.ext rfl (by decide)⟩
theorem wit_EngineChoice : (List.range 16).filter (fun q => (([job0 fun j => { j with started := true }].filter jobReady).find? fun j => (none : Option Nat) == some j.id).map jobQuad
        != some q && ([job0 fun j => { j with started := true }].filter jobReady).any fun j => jobQuad j == q) = [0]
    ∧ (∃ q cr last, decideCr 16 (fun q => (spm0.quad (quadOf (coreAt 0 (4 * q)))).quadw.toNat / 2 ^ 16 % 16) (fun q => (spm0.cluster 0).ldlCr.get (Fin.ofNat 32 q))
      ((spm0.cluster 0).ldlLast.get 0).val [0] (fun _ => 1) = some (q, cr, last) ∧ q = 0)
    ∧ ([job0 fun j => { j with started := true }].filter jobReady).find? (fun j => jobQuad j == 0) = some (job0 fun j => { j with started := true }) :=
  ⟨by decide, ⟨_, _, _, rfl, by decide⟩, by decide⟩
theorem wit_Killing : (spm0.ctx 0 false).killing = false ∧ ∃ s : State, (s.ctx 0 false).killing = true := ⟨rfl, ⟨withCtx fun c => { c with killing := true }, rfl⟩⟩
/-- The bytes of the job's burst. -/
def burst0 : List (Nat × Nat) := (List.range 64).map fun i => jobByte (job0 id) i
theorem wit_BurstBegins : burst0 = (List.range (min 256 ((job0 id).len - (job0 id).cursor))).map (fun i => jobByte (job0 id) ((job0 id).cursor + i))
    ∧ ∃ ls ld, burstSide (jobS spm0 (job0 id)) (job0 id) false (burst0.map (·.1)) = .ok (ls, []) ∧ burstSide (jobS spm0 (job0 id)) (job0 id) true (burst0.map (·.2)) = .ok (ld, []) :=
  ⟨rfl, (List.range 64).map (locSpm 0 ·), (List.range 64).map (fun i => locSpm 0 (4096 + i)), rfl, rfl⟩
/-- The job within a burst: one piece still to be read, or one still to be written. -/
def readJ : Job := job0 fun j => { j with started := true, todo := [[(locSpm 0 0, locSpm 0 4096)]], out := [[]] }
def writeJ : Job := job0 fun j => { j with started := true, out := [[(locSpm 0 0, 1)]] }
theorem wit_BurstGoesOn : (((jobS spm0 readJ).cluster 0).jobs.find? fun j => some 1 == some j.id && midBurst j) = some readJ ∧ readJ.todo ≠ []
    ∧ (((jobS spm0 readJ).cluster 0).jobs.find? fun x => x.id == readJ.id) = some readJ ∧ readJ.todo.getD 0 [] ≠ []
    ∧ midBurst writeJ = true ∧ writeJ.todo = [] ∧ (((jobS spm0 writeJ).cluster 0).jobs.find? fun x => x.id == writeJ.id) = some writeJ
    ∧ (((State.reset.cluster 0).jobs.find? fun j => some 1 == some j.id && midBurst j) = none) := by decide
theorem wit_Pieces : (∃ u w bs p v, homeBanks (jobS spm0 readJ) false [locSpm 0 0] = (u, true) ∧ engineGate u 0 readJ false [locSpm 0 0] = .go w ∧ readHome w false [locSpm 0 0] = (bs, p, v))
    ∧ (∃ u w, homeBanks (jobS spm0 writeJ) true [locSpm 0 0] = (u, true) ∧ engineGate u 0 writeJ true [locSpm 0 0] = .go w ∧ (∀ p ∈ [(locSpm 0 0, (1 : Byte))], w.inCoverage p.1 = false))
    ∧ (∃ u, homeBanks (jobS State.reset writeJ) true [locSpm 0 0] = (u, false)) ∧ (∃ u, homeBanks { jobS State.reset readJ with spmLive := [locSpm 0 0 / 8] } false [locSpm 0 0] = (u, false)) :=
  ⟨⟨_, _, _, _, _, Prod.ext rfl (by decide), rfl, rfl⟩, ⟨_, _, Prod.ext rfl (by decide), rfl, by decide⟩, ⟨_, Prod.ext rfl (by decide)⟩, ⟨_, Prod.ext rfl (by decide)⟩⟩
/-- A piece on a memory-side line: at a held unit it parks and stays, and a DROP ends it. -/
def msJ (drop : Bool) : Job := { readJ with msl := [0], parks := if drop then [{ id := 5, loc := 0, write := false, drop := true }] else [], todo := [[(0, locSpm 0 4096)]] }
theorem wit_Gated : (∃ w, engineGate ((jobS spm0 (msJ false)).setStack 0 { held := [0] }) 0 (msJ false) false [0] = .stay w)
    ∧ ∃ w, engineGate ((jobS spm0 (msJ true)).setStack 0 { held := [0] }) 0 (msJ true) false [0] = .drop w := ⟨⟨_, rfl⟩, ⟨_, rfl⟩⟩
/-- A write of a burst into a coverage map that is active now. -/
theorem wit_Covered : (State.reset.setSlot 0 0 { st := .active, space := 4 }).inCoverage (locCls 0 0) = true := by
  simp only [State.inCoverage, show clsOfLoc (locCls 0 0) = some (0, 0) by decide, Vector.any_eq_true]
  exact ⟨0, by decide, by decide⟩
theorem wit_Writing : writeJ.out ≠ [] ∧ isLadle writeJ = true ∧ isLadle { writeJ with kind := .pour 0 0 0 } = false ∧ ([(locSpm 0 0, (1 : Byte))] ∈ writeJ.out) := by decide
theorem wit_BurstFault : ∃ f, burstSide spm0 (job0 fun j => { j with src := 0xFFFFFFFFFFFFFFF8 }) false ((List.range 64).map fun i =>
    (jobByte (job0 fun j => { j with src := 0xFFFFFFFFFFFFFFF8 }) i).1) = .error f ∧ f.code < 2 ^ 8 := ⟨_, rfl, by decide⟩

theorem wit_PatternSteps : (∃ s : State, (s.slot 0 3).pend = true ∧ (s.slot 0 3).st = .active) ∧ (∃ s : State, (s.slot 0 3).evDue = [7, 8]) ∧ (State.reset.slot 0 0).pend = false
    ∧ (State.reset.slot 0 0).evDue = [] ∧ ((pat0 4).slot 0 0).st ≠ .idle ∧ ((pat0 4).slot 0 0).nclaim = 0 ∧ ((pat0 3).slot 0 0).nclaim ≠ 0 ∧ (State.reset.slot 0 0).st = .idle
    ∧ (1 : Word).getLsbD 0 = true ∧ patValid (State.reset.setSlot 0 0 { space := 4 }) 0 0 ({} : PatSlot).order ({} : PatSlot).tile = true
    ∧ patValid (State.reset.setSlot 0 0 { gran := 0 }) 0 0 ({} : PatSlot).order ({} : PatSlot).tile = false :=
  ⟨⟨State.reset.setSlot 0 3 { pend := true, st := .active }, by decide⟩, ⟨State.reset.setSlot 0 3 { evDue := [7, 8] }, by decide⟩, by decide, by decide, by decide, by decide, by decide, by decide,
   by decide, by decide, by decide⟩
/-- Context 0 of core 0, with a TAKE at PC 0, or before the first instruction of its task, parked. -/
def parked0 (free : Nat) (due : Bool) (first : Byte) : State :=
  { ((pat0 free).modCtx 0 false fun c => { c with st := .running, parked := some false, task := { c.task with takeDue := due } }) with
    mem := ((Mem.empty.put (locIst 0 0) first).put (locIst 0 1) 0) }
theorem wit_TakeResume : (∀ p ∈ [parked0 4 true 0, parked0 4 false 0, parked0 0 false 0], p.cur.st = .running ∧ p.cur.vac = false ∧ p.me.swapping = false ∧ p.cur.parked ≠ none)
    ∧ takeReady (parked0 0 false 0) 0 false = false ∧ takeReady (parked0 4 true 0) 0 false = true ∧ takeReady (parked0 4 false 0) 0 false = true ∧ isTile 0 = true := by
  refine ⟨?_, by decide, by decide, by decide, by decide⟩
  intro p hp
  fin_cases hp <;> exact ⟨by decide, by decide, by decide, by decide⟩
/-- The same with these bytes at PC 0. -/
def parkedAt (b0 b1 b2 b3 : Byte) : State :=
  { parked0 4 false 0 with mem := (((Mem.empty.put (locIst 0 0) b0).put (locIst 0 1) b1).put (locIst 0 2) b2).put (locIst 0 3) b3 }
theorem wit_ParkedTake : (parkedAt 0x91 3 0 0).instrAt 0 (parkedAt 0x91 3 0 0).cur.pc = some (.take plain) := by decide
theorem wit_ParkedEnd : (parkedAt 0x2D 0 0 0).instrAt 0 (parkedAt 0x2D 0 0 0).cur.pc = some (.end_ plain) := by decide


/-- Bank 31 of the scratchpad in a state x, with t cycles gone; granule 0 of context 0 is LIVE. -/
def bank0 (x : Bank) (cyc : Nat) (live : BitVec 1024) : State :=
  withCore fun k => { k with banks := [(31, x), (64 + 31, x), (0, x), (32, x)], cyc, bkRet := 1, c0 := { k.c0 with live } }
theorem wit_Banks : (let s := bank0 { st := .full } 256 0; (((s.core 0).bank .spm 31).st = .full ∧ s.bankLive 0 .spm 31 = false
      ∧ ((s.core 0).bank .spm 31).last + max 16 (min 4096 (s.core 0).bkIdle.toNat) ≤ (s.core 0).cyc))
    ∧ (let s := bank0 { st := .full } 255 0; (s.core 0).cyc < ((s.core 0).bank .spm 31).last + max 16 (min 4096 (s.core 0).bkIdle.toNat))
    ∧ (let s := bank0 { st := .full } 16 1; (((s.core 0).bank .rs0 0).st = .full ∧ (s.core 0).bkRet ≠ 0 ∧ bankHolds s 0 .rs0 0 = true
      ∧ ((s.core 0).bank .rs0 0).last + (s.core 0).bkRet.toNat * 16 ≤ (s.core 0).cyc))
    ∧ (let s := bank0 { st := .full } 15 1; (s.core 0).cyc < ((s.core 0).bank .rs0 0).last + (s.core 0).bkRet.toNat * 16)
    ∧ (let s := bank0 { st := .waking, wakeAt := 6 } 6 0; (∀ b ∈ [(BankOf.spm, 31), (.rs0, 0), (.rs1, 0)],
      ((s.core 0).bank b.1 b.2).st = .waking ∧ ((s.core 0).bank b.1 b.2).wakeAt ≤ (s.core 0).cyc))
    ∧ (let s := bank0 { st := .waking, wakeAt := 6 } 5 0; (s.core 0).cyc < ((s.core 0).bank .spm 31).wakeAt)
    ∧ (let s := bank0 { st := .retain } 0 0; ((s.core 0).bank .spm 31).st = .retain) ∧ ((State.reset.core 0).bank .rs1 31).st = .off := by decide
theorem wit_LateWrites : (∀ l ∈ (State.reset.core 0).late, l.ctx ≠ false ∨ l.bank ≠ 0)
    ∧ ∃ s : State, (s.core 0).late = [{ ctx := true, bank := 31, bytes := [(65535, 1)] }] := ⟨by decide, withCore fun k =>
      { k with late := [{ ctx := true, bank := 31, bytes := [(65535, 1)] }] }, by decide⟩

/-- Save areas of core 0: DRAM at 0 for context 0, at 128 KiB for context 1. -/
def save0 (st : CtxSt) (sp : SpillOp) : State := withCore fun k => { k with save1 := 0x20000, spill := sp, c0 := { k.c0 with st } }
theorem wit_Spills : (let s := save0 .frozen .none; ((s.ctx 0 false).st ≠ .running ∧ (s.ctx 0 false).st ≠ .idle ∧ (s.ctx 0 false).vac = false ∧ (s.ctx 0 false).killing = false
      ∧ (s.core 0).spill = .none ∧ areaOk s (saveBase s 0 false) = true))
    ∧ (let s := save0 .running .none; ((s.ctx 0 false).st = .running ∧ (s.ctx 0 false).vac = false))
    ∧ areaOk { save0 .frozen .none with lock := true } (saveBase (save0 .frozen .none) 0 false) = false
    ∧ (let s := save0 .frozen (.spill false); ((s.core 0).spill = .spill false ∧ spillReady s 0 false = true))
    ∧ (let s := (save0 .frozen (.spill false)).modCtx 0 false fun c => { c with clu := 1 }; spillReady s 0 false = false)
    ∧ (save0 .frozen (.restore true)).me.spill = .restore true := by decide
theorem wit_SpillReads : (∃ u, engineBanks (save0 .frozen (.spill false)) 0 false (savedGranules ((save0 .frozen (.spill false)).ctx 0 false)) = (u, true))
    ∧ ∃ u, engineBanks (save0 .frozen (.spill false)) 0 false (savedGranules { (save0 .frozen (.spill false)).ctx 0 false with live := 1 }) = (u, false) := ⟨⟨_, Prod.ext rfl (by decide)⟩, ⟨_, Prod.ext rfl (by decide)⟩⟩
/-- An image of core 0, spilled from context 0, in an area at 0: STATE holds FROZEN. -/
def saved0 : State := { save0 .idle .none with mem := Mem.empty.put 0x280 4 }
/-- The same for context 1, whose slot is vacant, in the area of context 0. -/
def saved1 : State := { saved0.modCtx 0 true (fun c => { c with vac := true }) with mem := (Mem.empty.put 0x280 4).put 0x191 0x20 }
theorem wit_Restore : (∀ s ∈ [saved0, saved1], (s.core 0).spill = .none ∧ (s.ctx 0 false).st = .idle ∧ (s.ctx 0 false).inbox = [] ∧ s.readLE (saveBase s 0 false + 0x190) 8 % 2 ^ 13 = 0
      ∧ s.readLE (saveBase s 0 false + 0x280) 8 % 8 = 4 ∧ s.readLE (saveBase s 0 false + 3896) 8 % 16 + (s.ctx 0 false).inbox.length ≤ 8)
    ∧ (∀ i < 16, recordJob saved0 0 (saveBase saved0 0 false) i ≠ some none) ∧ (∀ i < 16, recordJob saved1 0 (saveBase saved1 0 false) i ≠ some none)
    ∧ savedCtx saved0 0 = false ∧ savedCtx saved1 0 = true ∧ (saved1.ctx 0 true).vac = true ∧ saved1.readLE 0x280 8 / 8 % 2 = 0
    ∧ (save0 .idle .none).readLE 0x280 8 % 8 = 0 ∧ (∃ i < 16, recordJob { saved0 with mem := saved0.mem.put 2104 1 } 0 0 i = some none) := by decide

/-- Port 7 changed, with the Runner accepted. -/
def port0 (f : Port → Port) : State := State.modPort { State.reset with featAcc := 16 } 7 f
theorem wit_Ports : (port0 id).feat 4 = true ∧ State.reset.feat 4 = false ∧ ((port0 id).port 7).en = false ∧ ((port0 fun x => { x with en := true }).port 7).en = true
    ∧ (let x := (port0 fun x => { x with en := true }).port 7; (x.ckLost = false ∧ x.running = none ∧ x.busy = false ∧ x.cal ≠ .running ∧ x.ckmst = false ∧ x.gbw ≠ 0))
    ∧ (let x := (port0 fun x => { x with en := true, ckmst := true, cal := .pending }).port 7; (x.cal = .pending ∧ x.ckmst = true))
    ∧ (let x := (port0 fun x => { x with en := true, ckmst := true, start := true }).port 7; (x.start = true ∧ x.cal ≠ .pending))
    ∧ (let x := (port0 fun x => { x with en := true, ckmst := true }).port 7; (x.ckmst = true ∧ x.cal ≠ .pending ∧ x.start = false))
    ∧ (let x := (port0 fun x => { x with en := true, busy := true, ckLost := true }).port 7; (x.busy = true ∧ x.ckLost = true))
    ∧ ((port0 fun x => { x with cal := .running }).port 7).cal = .running
    ∧ (let x := (port0 fun x => { x with ckmst := true, lcal := 15 }).port 7; (x.ckmst = true ∧ (0xF00 : Word).toNat / 2 ^ 8 % 16 ≤ x.lcal.toNat))
    ∧ (let x := (port0 fun x => { x with ckmst := true, lcal := 14 }).port 7; x.lcal.toNat < (0xF00 : Word).toNat / 2 ^ 8 % 16)
    ∧ (let x := (port0 fun x => { x with en := true, cal := .calok, rwlimDist := some 3, ckmst := true }).port 7; (x.cal = .calok ∧ x.running = none ∧ x.rwlimDist = some 3 ∧ x.idle % 32 = 0))
    ∧ (let x := (port0 fun x => { x with en := true, cal := .calok, idle := 32 }).port 7; (x.ckmst = false ∧ x.auto = true ∧ x.idle % 32 = 0 ∧ x.stepUs ≠ some ((port0 id).tb / 1000)))
    ∧ ((port0 fun x => { x with stepUs := some 0 }).port 7).stepUs = some ((port0 id).tb / 1000) := by decide
theorem wit_Alignment : 9 < (10 : BitVec 8).toInt ∧ (0xF6 : BitVec 8).toInt < -9 ∧ -9 ≤ (0xF7 : BitVec 8).toInt ∧ (9 : BitVec 8).toInt ≤ 9 ∧ (0 : BitVec 8).toInt = 0 := by decide
/-- Guard bands of 8/64: 24 and 40 lie outside the band at 32, 25 and 39 within it; with no band 32 counts 0. -/
theorem wit_Detect : detect 8 24 = some 0 ∧ detect 8 25 = none ∧ detect 8 39 = none ∧ detect 8 40 = some 1 ∧ detect 0 32 = some 0 ∧ detect 0 33 = some 1 ∧ detect 15 100000 = some 15
    ∧ levelGood 8 1 [64, 40] = true ∧ levelGood 8 0 [25] = false ∧ levelGood 8 0 (([] : List (List Int)).getD 0 []) = true := by decide
/-- What a calibration finds with no sample spoiled, with other ports at these positions and limits. -/
def meas (os : List (Fin 32 × Fin 16)) : CalMeas := { ldly := 5, train := [], others := os, calgen := 0 }
theorem wit_Calibration : (((port0 fun x => { x with spos := 3 }).port 7).spos.toNat :: (meas [(2, 7), (4, 0)]).others.map (·.1.val)).Nodup
    ∧ ¬ (((port0 fun x => { x with spos := 3 }).port 7).spos.toNat :: (meas [(3, 7)]).others.map (·.1.val)).Nodup := by decide
/-- Port 7 enabled, after n idle slots of this calibration, s of them in the cycle under way. -/
def idleP (n s : Nat) : Port := ((port0 fun x => { x with en := true, idle := n, seen := List.replicate s none }).port 7).settleIdle
theorem wit_Probes : (idleP 31 31).inCycle = true ∧ (idleP 31 31).seen.length < 32 ∧ 32 ≤ (idleP 32 32).seen.length ∧ barrierCycle State.reset 7 = false
    ∧ (idleP 0 0).idle % 32 = (idleP 0 0).spos.toNat ∧ (idleP 0 0).announced = none ∧ (idleP 0 0).inCycle = true ∧ (∃ s : State, barrierCycle s 0 = true ∧ ((s.port 0).settleIdle).inCycle = true ∧ ((s.port 0).settleIdle).idle % 32 ≠ 0)
    ∧ (∃ s : State, barrierCycle s 0 = true ∧ ((s.port 0).settleIdle).idle % 32 = 0) ∧ (0 : Nat) ≠ (idleP 0 0).spos.toNat + 1 :=
  ⟨by decide, by decide, by decide, by decide, by decide, by decide, by decide, ⟨State.modPort State.reset 0 fun x => { x with en := true, idle := 1 }, by decide⟩,
   ⟨State.modPort State.reset 0 fun x => { x with en := true }, by decide⟩, by decide⟩
/-- The counts of a slot that carries this announcement. -/
def slotOf (a : Announce) : List (Option Nat) := (List.range 63).map (fun i => some ((annBits a).testBit i).toNat) ++ [some 0, some 1, some 0, some 1, some 1]
def ann0 : Announce := { seq := 0x8001, grp := 63, ty := 4, gm1 := 31, replay := 3, form := 2, countM1 := 0x8000001 }
theorem wit_Slots : (slotOf ann0).length = 68 ∧ (∀ i < 63, (slotOf ann0).getD i none = some ((annBits ann0).testBit i).toNat) ∧ (slotOf ann0).getD 67 none = some 1
    ∧ (∃ i < 63, (none :: (slotOf ann0).tail).getD i none = none) ∧ ((slotOf ann0).set 67 none).getD 67 none = none ∧ ((slotOf ann0).set 67 (some 0)).getD 67 none = some 0
    ∧ (none :: (slotOf ann0).tail).length = 68 ∧ ((slotOf ann0).set 67 none).length = 68 ∧ ((slotOf ann0).set 67 (some 0)).length = 68 := by decide

/-- Group 8's laser of port 7 at a time of the timebase. -/
def laser0 (l : Laser) (tb : Nat) : State := { port0 (fun x => { x with lasers := x.lasers.set 8 l }) with tb }
theorem wit_Lasers : (let s := laser0 { st := .waking } 1500; (((s.port 7).lasers.get 8).st = .waking ∧ ((s.port 7).lasers.get 8).since + 1500 ≤ s.tb))
    ∧ (let s := laser0 { st := .waking } 1499; s.tb < ((s.port 7).lasers.get 8).since + 1500)
    ∧ (let s := laser0 { st := .waking } 3001; ((s.port 7).lasers.get 8).since + 3000 < s.tb)
    ∧ (let s := laser0 { st := .waking } 3000; s.tb ≤ ((s.port 7).lasers.get 8).since + 3000)
    ∧ (let s := laser0 { st := .lit, holding := true } 16385; (((s.port 7).lasers.get 8).st = .lit ∧ ((s.port 7).lasers.get 8).holding = true ∧ (s.port 7).forced 8 = false
      ∧ (s.port 7).pendingUse = false ∧ ((s.port 7).lasers.get 8).since + (s.port 7).hold.toNat * 64 < s.tb))
    ∧ (let s := laser0 { st := .lit, holding := true } 16384; s.tb ≤ ((s.port 7).lasers.get 8).since + (s.port 7).hold.toNat * 64)
    ∧ (((port0 fun x => { x with force := 256, lasers := x.lasers.set 8 { st := .lit } }).port 7).force.getLsbD 8 = true) ∧ (0 : Word).getLsbD 26 = false
    ∧ (0x4000000 : Word).getLsbD 26 = true := by decide
/-- Whatever the device does, one of the two outcomes of a wake is open. -/
theorem wit_LaserWakes (k : Nat) : Config.laserFails k = false ∨ Config.laserFails k = true := by cases Config.laserFails k <;> simp

/-- A pour of group 0 at port 7, position 0 of a group of two. -/
def pourQ (f : Pour → Pour) : Pour := f
  { grp := 0, seq := 1, kind := .int 0, count := 256, src := 0, dst := 0, ssp := .twr, dsp := .twr, asid := 0, syncLoc := 0, evt := 0, q7 := false, key := 0, ctx := false
    job := 1, cluster := 0 }
def pourS (f : Pour → Pour) (g : Port → Port) : State := port0 fun x => g
  { x with en := true, cal := .calok, rwlim := 8, pours := [pourQ f], lasers := Vector.replicate 9 { st := .lit }, groups := [(0, { valid := true, mask := 3 })] }
theorem wit_Pour : (let s := pourS id id; ((s.port 7).findPour 0 1 = some (pourQ id) ∧ (pourQ id).edgesOk = false ∧ (s.cluster 0).jobs = [] ∧ (pourQ id).code = none))
    ∧ (let q := pourQ fun q => { q with edgesOk := true, code := some 2 }; (q.code ≠ none ∧ q.edgesOk = true)) ∧ (pourQ fun q => { q with code := some 4 }).edgesOk = false
    ∧ (let s := pourS (fun q => { q with edgesOk := true }) id; (((s.port 7).poursOf 0).head? = some (pourQ fun q => { q with edgesOk := true }) ∧ (s.port 7).allLit = true
      ∧ (pourQ fun q => { q with edgesOk := true }).st = .queued))
    ∧ (let s := pourS (fun q => { q with st := .announcing }) fun x => { x with idle := 31, spos := 31, seen := List.replicate 31 none }; ((s.port 7).inCycle = true ∧ (s.port 7).ann = none
      ∧ barrierCycle s 7 = false ∧ (s.port 7).idle % 32 ≤ (s.port 7).spos.toNat ∧ (s.port 7).seen.length < 32 ∧ (s.port 7).announcing ≠ []))
    ∧ (State.reset.port 0).inCycle = false ∧ (State.reset.port 7).seen.length < 32 := by decide
theorem wit_EdgesOpen : ∃ (s : State) (j : Job), ((s.cluster 0).jobs.find? fun x => x.id == (pourQ id).job) = some j ∧ edgesDone s 0 j = false :=
  ⟨jobS State.reset (job0 fun j => { j with edges := [1] }), job0 fun j => { j with edges := [1] }, by decide, by decide⟩
/-- A cycle at its end, the pour announced in it, with these announcements in the slots of positions 0 and 1. -/
def annS (a0 a1 : Announce → Option Announce) : State := pourS (fun q => { q with st := .announcing, edgesOk := true }) fun x =>
  let d := describe x (pourQ fun q => { q with st := .announcing, edgesOk := true })
  { x with ann := some 1, annExp := true, idle := 32, seen := a0 d :: a1 d :: List.replicate 30 none }
def annQ : Pour := pourQ fun q => { q with st := .announcing, edgesOk := true }
theorem wit_RollCall : (∀ s ∈ [annS some some, annS some fun _ => none, annS some fun d => some { d with countM1 := 1 }], 32 ≤ (s.port 7).seen.length
      ∧ ((s.port 7).ann.bind fun n => (s.port 7).announcing.find? fun q => q.job == n) = some annQ)
    ∧ rollCall ((annS some some).port 7) annQ ((annS some some).port 7).seen = .complete
    ∧ rollCall ((annS some fun _ => none).port 7) annQ ((annS some fun _ => none).port 7).seen = .incomplete
    ∧ rollCall ((annS some fun d => some { d with countM1 := 1 }).port 7) annQ ((annS some fun d => some { d with countM1 := 1 }).port 7).seen = .mismatch
    ∧ grantOf 63 [0, 5] = some 0 ∧ grantOf 0 [0, 5] = some 5 ∧ grantOf 5 [0, 5] = some 0 ∧ grantOf 63 [] = none := by decide
theorem wit_PourBanks : (∃ u, homeBanks (annS some some) true [locTwr 0 0, locTwr 0 16] = (u, true)) ∧ ∃ u, homeBanks State.reset true [locSpm 0 0, locSpm 0 16] = (u, false) :=
  ⟨⟨_, Prod.ext rfl (by decide)⟩, ⟨_, Prod.ext rfl (by decide)⟩⟩
/-- The pour's job, with a write of it that waits. -/
theorem wit_PourHeld : pourHeld (pourS id id) (pourQ id) = false ∧ pourHeld (jobS (pourS id id) writeJ) (pourQ id) = true
    ∧ ((pourS id id).port 7).pours.find? (fun y => y.job == (pourQ id).job) = some (pourQ id) ∧ (pourQ id).rounds < 64 ∧ (pourQ id).lim < 16 := by decide
/-- The running pour in its first data frame, in a round in which the port does not write; and in its first skim frame. -/
def runQ (f : Pour → Pour) : Pour := pourQ fun q => f { q with st := .running, rounds := 2, lim := 1, mask := 3, round := 1, acc := List.replicate 256 0 }
/-- A frame in which nobody else lights anything. -/
def dark : FrameIn := { slots := [] }
theorem wit_Frames : (let s := pourS (fun _ => runQ id) id; ((s.port 7).running = some (runQ id) ∧ (runQ id).phase = .data 0
      ∧ (runQ id).kept = none ∧ writesNow (s.port 7) (runQ id) = false ∧ (runQ id).sending < ((s.port 7).group 0).replaymax.toNat))
    ∧ (let s := pourS (fun _ => runQ fun q => { q with phase := .skim 0 }) id; (s.port 7).running = some (runQ fun q => { q with phase := .skim 0 }))
    ∧ writesNow ((pourS (fun _ => runQ fun q => { q with round := 0 }) id).port 7) (runQ fun q => { q with round := 0 }) = true
    ∧ (State.reset.port 0).running = none ∧ ((State.reset.port 0).en = false ∨ (State.reset.port 0).busy = false)
    ∧ ((port0 fun x => { x with en := true, busy := true }).port 7).busy = true ∧ (runQ fun q => { q with round := 0 }).round + 1 < (runQ id).rounds
    ∧ ((pourS id id).port 7 |>.group 0).replaymax.toNat ≤ (runQ fun q => { q with sending := 3 }).sending
    ∧ readWindow [some 0, some 0, some 0, some 0] = .clear ∧ readWindow [some 1, some 1, some 0, some 0] = .nak ∧ readWindow [none, some 1, some 1, some 0] = .uncertain := by
  decide
/-- Page 0 memory-side, its first unit HELD, and the pour's job. -/
def heldS : State := (State.modCluster (pourS id id) 0 fun c => { c with jobs := [job0 id], tlb := [{ asid := 0, vbase := 0, size := 65536, leaf := 63 }] }).setStack 0 { held := [0] }
/-- The same pour in a round in which the port writes: a broadcast's, whose source at another rank than the root's is empty, and one with a source. -/
def skimQ (f : Pour → Pour) : Pour := runQ fun q => f { q with round := 0, kind := .skim, phase := .skim 0, count := 1 }
/-- The first sending of a frame in which the port writes reads its source: it is there, or it is parked at a held unit. -/
theorem wit_Sources : frameOffs ((pourS id id).port 7) (runQ id) = [] ∧ frameOffs ((pourS id id).port 7) (skimQ id) ≠ []
    ∧ (∃ u, frameSource heldS (heldS.port 7) (skimQ fun q => { q with ssp := .glb, src := 0 }) = .error u) :=
  ⟨by decide, by decide, ⟨_, rfl⟩⟩
theorem wit_Rounds : ∃ v y, nextRound (pourS id id) (runQ fun q => { q with round := 0 }) = (v, y) ∧ y.code = none ∧ y.job = (runQ id).job := ⟨_, _, rfl, rfl, rfl⟩
theorem wit_Poisoned : ∃ y n, poisonFrame (runQ id) = (y, n) := ⟨_, _, rfl⟩

/-! Encoding, invariants, frames. -/

theorem wit_DecodeEncode : encode (.addi plain (.g 3) (reg 0) 5) = some addi5 ∧ decode addi5 = .ok (.addi plain (.g 3) (reg 0) 5) := by decide
theorem wit_Wipe : (∃ t, exec .moduleReset State.reset = .next t) ∧ (0x101 : Word).getLsbD 8 = true ∧ lcAllowed State.reset.fuses ((0x101 : Word).setWidth 2) = true
    ∧ ∃ u, exec (.lifecycleChange 0x101) State.reset = .next u := ⟨⟨_, rfl⟩, by decide, by decide, ⟨_, rfl⟩⟩
theorem control_placed : ControlInv (placed addi5) := by
  constructor <;> decide
theorem wit_StepKeepsControl : ∃ s t : State, ControlInv s ∧ step s = .next t := ⟨placed addi5, _, control_placed, rfl⟩
theorem wit_ScalarFrames : (∃ t, scalarDst (.addi plain (.g 3) (reg 0) 5) = some [.g 3] ∧ exec (.addi plain (.g 3) (reg 0) 5) State.reset = .next t)
    ∧ (∃ t, scalarDst (.call plain 4) = some [.g 47] ∧ exec (.call plain 4) State.reset = .next t) := ⟨⟨_, rfl, rfl⟩, ⟨_, rfl, rfl⟩⟩
theorem wit_LoadFrames : ∃ (s t : State) (acc : Acc), exec (.ld plain .d64 (.g 3) (mem1 .spm)) s = .next t ∧ loadFrom s (mem1 .spm) (loadWidth .d64) = some acc ∧ acc.own = true :=
  ⟨spm0, _, accSpm 8, rfl, rfl, rfl⟩
theorem wit_StoreFrames : (∃ (s t : State) (acc : Acc), exec (.st plain .b64 (.g 2) (mem1 .spm)) s = .next t ∧ storeTo s (.g 2) (mem1 .spm) (storeWidth .b64) = some acc ∧
      acc.own = true ∧ ¬ mayChange s acc.locs 0)
    ∧ ∃ (s t : State) (acc : Acc), exec (.st plain .b8 (.g 2) (mem1 .glb)) s = .next t ∧ storeTo s (.g 2) (mem1 .glb) (storeWidth .b8) = some acc ∧ acc.own = false :=
  ⟨⟨spm0, _, accSpm 8, rfl, rfl, rfl, by
      rintro (⟨l, hl, h⟩ | ⟨l, hl, i, hi, h, _⟩)
      · revert h; revert l; decide
      · exact absurd h (by simp [spm0, withCore, State.modCore, State.reset, State.setCore])⟩,
   ⟨glb0, _, accGlb 1, rfl, rfl, rfl⟩⟩
theorem wit_PushFrames : isPush (.vpnot plain .i8 1 (pr 1)) = true ∧ ∃ t, exec (.vpnot plain .i8 1 (pr 1)) vec0 = .next t := ⟨rfl, _, rfl⟩
/-- The first sync word of the tower's scratchpad, marked, with COUNT 7 and TARGET 3. -/
def sync0 : State :=
  { State.reset with marks := [locTwr 0 0 / 16], mem := (Mem.empty.put (locTwr 0 0) 7).put (locTwr 0 8) 3 }
theorem wit_SyncWord : (let w := locTwr 0 0 / 16; (w ∈ sync0.marks ∧ w * 16 + 16 ≤ foreignBase ∧ (∀ j < 16, sync0.phys (w * 16 + j) = w * 16 + j)
      ∧ (∀ j < 2, w * 2 + j ∉ sync0.poison) ∧ sync0.syncTarget (w * 16) ≠ 0)) ∧ locTwr 0 0 / 16 ∉ State.reset.marks := by decide
theorem wit_Writes : [(0, (1 : Byte)), (1, 2)].Pairwise (fun p q => State.reset.phys p.1 ≠ State.reset.phys q.1) ∧ (∀ p ∈ [(0, (1 : Byte)), (1, 2)], p.1 < foreignBase)
    ∧ ∀ p ∈ [(0, (1 : Byte)), (1, 2)], p.1 / 16 ∉ State.reset.marks := by decide
theorem wit_Elements : Ty.isInt .i4 = true ∧ (captured vecB (.vadd plain .i32 4 (vr 4) (vr 4) x0) plain.pred).instr = .vadd plain .i32 4 (vr 4) (vr 4) x0 := by decide
theorem wit_Fences : Ready .any { pred := { neg := false, p := 0 }, wt := 0 } State.reset ∧ State.reset.wtMet 3 = true
    ∧ (withCtx fun c => { c with sys := 1 }).wtMet 3 = false ∧ State.reset.cur.count .sys ≤ 0 ∧ ¬(withCtx fun c => { c with sys := 513 }).cur.count .sys ≤ 512 :=
  ⟨⟨rfl, rfl, rfl, by decide, rfl⟩, by decide, by decide, by decide, by decide⟩
theorem wit_Trap : (∃ w, encode (.trap plain 255) = some w) ∧ (∃ w, encode (.brk plain) = some w) ∧ (2 + 0x0C * 2 ^ 2) / 4 % 256 = 0x0C ∧ (2 + 0x0C * 2 ^ 2) % 4 ≠ 1
    ∧ (1 + 0x0D * 2 ^ 2 + 2 ^ 40) / 4 % 256 = 0x0D ∧ (1 + 0x0D * 2 ^ 2 + 2 ^ 40) / 2 ^ 40 % 2 ^ 24 ≠ 0 :=
  ⟨⟨_, rfl⟩, ⟨_, rfl⟩, by decide, by decide, by decide, by decide⟩

/-! ### Terms that are not well-formed -/

/-- PRED 1000 (R274). -/
def badPred : Com := { pred := { neg := true, p := 0 }, wt := 0 }
theorem test_wf_pred : Instr.wf (.add badPred (.g 3) (reg 1) (reg 2)) = false ∧ Instr.wf (.fence { neg := true, p := 0 } .clu) = false := by decide
theorem test_wf_control : Instr.wf (.loop plain (reg 1) 0) = false ∧ Instr.wf (.loop plain (reg 1) (-1)) = false := by decide
theorem test_wf_fields : Instr.wf (.sext plain (.g 3) (reg 1) 0) = false ∧ Instr.wf (.bfx plain (.g 3) (reg 1) 0 0) = false
    ∧ Instr.wf (.bfi plain 3 (reg 1) 60 5) = false ∧ Instr.wf (.fcmp plain .ltz (.g 3) (reg 1) (reg 2)) = false := by decide
theorem test_wf_hints : Instr.wf (.ld plain .z8 (.g 3) { mem1 .glb with lu := true }) = false ∧ Instr.wf (.st plain .b8 (.g 3) { mem1 .spm with lu := true }) = false
    ∧ Instr.wf (.ldw plain (.g 3) (mem1 .glb)) = false ∧ Instr.wf (.stf plain (.g 3) { mem1 .spm with lu := true }) = false
    ∧ Instr.wf (.vst plain .i8 1 { mem32 .spm with na := true }) = false ∧ Instr.wf (.vld plain .i8 1 (mem32 .lane)) = false
    ∧ Instr.wf (.mbld plain .i8 0 { mem32 .spm with lu := true } ⟨reg 2, 0⟩) = false := by decide
theorem test_wf_spaces : Instr.wf (.put plain (.g 2) (.g 1) .spm 8) = false ∧ Instr.wf (.get plain (.g 2) (.g 1) .ist 8) = false
    ∧ Instr.wf (.putsig plain (.g 2) (.g 1) (.g 3) .twr .lane 8) = false ∧ Instr.wf (.radd plain (.g 2) (mem1 .lane)) = false
    ∧ Instr.wf (.bind plain (.g 2) (reg 1) 0 .spm .glb) = false ∧ Instr.wf (.amo plain .add true (.g 3) (mem32 .ist) (.g 2)) = false
    ∧ Instr.wf (.swarm plain (.g 3) (mem32 .lane) (reg 2)) = false ∧ Instr.wf (.mmaRa plain .i8 1 (reg 1) 0 false 2 .spm) = false
    ∧ Instr.wf (.mepi96 plain .i8 (vr 1) (reg 1) .lane 0 none rnd0) = false := by decide
theorem test_wf_lengths : Instr.wf (.put plain (.g 2) (.g 1) .twr 12) = false ∧ Instr.wf (.put plain (.g 2) (.g 1) .twr 16392) = false
    ∧ Instr.wf (.ldl plain ladle0 4 0) = false ∧ Instr.wf (.ldl2d plain ladle0 64 0 8 8) = false ∧ Instr.wf (.ldl2d plain ladle0 64 2 8 7) = false
    ∧ Instr.wf (.rskim plain { pour0 with ysp := .spm, count := 0 }) = false ∧ Instr.wf (.rskim plain pour0) = false := by decide
theorem test_wf_engines : Instr.wf (.ldl plain { ladle0 with ssp := .ist } 64 0) = false ∧ Instr.wf (.ldl plain { ladle0 with dsp := .lane } 64 0) = false
    ∧ Instr.wf (.ldlz plain (.g 3) (reg 1) (.g 4) .spm .none false 64) = false ∧ Instr.wf (.rpourInt plain { pour0 with ysp := .spm } 6) = false
    ∧ Instr.wf (.rpourInt plain { pour0 with ysp := .spm, count := 3 } 0) = false := by decide
theorem test_wf_sync : Instr.wf (.forkr plain .cluster (.g 3) (reg 1) (reg 2) (.g 4) 0 0 10240 0 0) = false
    ∧ Instr.wf (.forkr plain .cluster (.g 3) (reg 1) (reg 2) (.g 4) 0 0 0 2 0) = false := by decide
theorem test_wf_vectors : Instr.wf (.vadd plain .f32 1 (vr 2) (vr 3) { x0 with sat := true }) = false ∧ Instr.wf (.vadd plain .i32 1 (vr 2) (vr 3) { x0 with rnd := { ro := true, rmo := .rtz } }) = false
    ∧ Instr.wf (.vabs plain .f32 1 (vr 2) true) = false ∧ Instr.wf (.vcmp plain .eq .i8 0 (vr 1) (vr 2)) = false ∧ Instr.wf (.vcvt plain .i32 1 (vr 2) .i8 4 x0) = false
    ∧ Instr.wf (.vext 0 .i32 (vr 1) 64) = false ∧ Instr.wf (.vred plain .max .f32 (vr 1) { ro := true, rmo := .rtz }) = false
    ∧ Instr.wf (.vscan plain .max .i32 1 (vr 2) { x0 with sat := true }) = false ∧ Instr.wf (.vslide plain .i32 1 (vr 2) (vr 3) 64) = false
    ∧ Instr.wf (.vpand plain .i8 0 (pr 1) (pr 2)) = false ∧ Instr.wf (.vrcp plain .i32 1 (vr 2) { ro := true, rmo := .rtz }) = false
    ∧ Instr.wf (.macc plain .f32 1 (vr 2) true) = false := by decide
theorem test_wf_steps : Instr.wf .moduleReset = false ∧ Instr.wf (.zeroedWordFetch 0) = false := by decide

/-! ### Words of the spec's examples -/

/-- R279's examples: `add g7, g7, g5~`, `(!p2) ld.s8 g5, spm:[g6+64]` (its IMM24 where R271 puts it: log entry 24), `vfma.f32 vw4, vw1, vw2~, vw3~`; R311's NOP. -/
theorem test_words_head : decode 0x0000000851C70081 = .ok (.add plain (.g 7) (reg 7) ⟨.g 5, true⟩)
    ∧ decode 0x0000401011852901 = .ok (.ld { pred := { neg := true, p := 2 }, wt := 0 } .s8 (.g 5) { base := reg 6, sel := .spm, lu := false, na := false, off := .imm24 64 })
    ∧ decode 0x0020430820440225 = .ok (.vfma plain .f32 4 (vr 1) ⟨2, true⟩ ⟨3, true⟩ x0) ∧ decode 1 = .ok (.nop plain .x64) := by decide
/-- R317's and R304's examples. -/
theorem test_words_scalar : decode 0x00000001008000000003009A = .ok (.li32 plain (.g 3) true 1) ∧ decode 0x0000050000040099 = .ok (.li24 plain (.g 4) 5)
    ∧ decode 0x0000040001000029 = .ok (.loop plain (reg 4) 4) ∧ decode 0x0000020000C30085 = .ok (.addi plain (.g 3) (reg 3) 2)
    ∧ decode 0x0000016000C30085 = .ok (.shli plain (.g 3) (reg 3) 1) ∧ decode 0x2D = .ok (.end_ plain) := by decide
/-- The examples of R330, R332, R343 and R345. -/
theorem test_words_sync : decode 0x0000100010C40109 = .ok (.ldw plain (.g 4) { base := reg 3, sel := .spm, lu := false, na := false, off := .imm24 16 })
    ∧ decode 0x0002000063094115 = .ok (.stf { plain with wt := 1 } (.g 9) { base := reg 12, sel := .rmt, lu := false, na := false, off := .imm24 0x200 })
    ∧ decode 0x0000004000000600100501AA = .ok (.waitw plain (.g 5) { base := reg 0, sel := .spm, lu := false, na := false, off := 0x40 } (reg 6))
    ∧ decode 0x000000060000100000000D0063080127 = .ok (.putsig plain (.g 8) (.g 12) (.g 13) .rmt .rmt 4096)
    ∧ decode 0x0000170000070195 = .ok (.join plain (.g 7) (reg 0) 0x17) ∧ decode 0x00001700000601AD = .ok (.waitg plain (.g 6) (reg 0) 0x17) := by decide
/-- The examples of R360, R378, R373, R364, R374, R377 and R382. -/
theorem test_words_vector : decode 0x000001000020000010C2020A = .ok (.vld plain .f32 2 { base := reg 3, sel := .spm, lu := false, na := false, off := 0x100 })
    ∧ decode 0x0008000001050249 = .ok (.vscan plain .add .i16 5 (vr 4) x0) ∧ decode 0x0808000400840239 = .ok (.vcvt plain .i16 4 ⟨2, true⟩ .i8 1 x0)
    ∧ decode 0x018800084208024D = .ok (.vwadd plain .i16 8 (vr 8) ⟨4, true⟩ true true x0)
    ∧ decode 0x01100900_0445061E = .ok (.vscat { pred := { neg := false, p := 1 }, wt := 0 } .i32 5 { base := reg 17, sel := .glb, lu := false, na := false, off := 0 } (vr 9) 2)
    ∧ decode 0x0010000400400245 = .ok (.vred plain .add .i32 ⟨1, true⟩ rnd0) ∧ decode 0x0020000400C4025D = .ok (.vbs 0 .f32 4 ⟨3, true⟩ false rnd0) := by decide
/-- The examples of R390, R398 and R401. -/
theorem test_words_matrix : decode 0x0080000400420289 = .ok (.mma plain .i8 2 ⟨1, true⟩ 0 true none)
    ∧ decode 0x00000D001401029A = .ok (.mtld plain .i8 1 { base := reg 16, sel := .spm, lu := false, na := false, off := 0 } (reg 13) 0 false)
    ∧ decode 0x000000003C800000000042001140029F = .ok (.mepi128 plain .i8 ⟨2, true⟩ (reg 5) .spm 0x3C800000 0 none rnd0) := by decide
/-- The examples of R408, R414, R418 and R439. -/
theorem test_words_engines : decode 0x00000000000010002400090081C40303
      = .ok (.ldl plain { d := .g 4, a := reg 7, b := reg 8, c := .g 9, ssp := .glb, dsp := .spm, ysp := .spm, q5 := false } 4096 0)
    ∧ decode 0x00000285000004000380_0D00C2CA0317
      = .ok (.rpourInt plain { src := .g 10, dst := reg 11, sync := reg 12, seqev := reg 13, ssp := .twr, dsp := .twr, ysp := .spm, q7 := false, count := 0x400, grp := 5, port := 2 } 1)
    ∧ decode 0x0000030000000311 = .ok (.rarm plain 3) := by decide
/-- The examples of R425 and R451 to R456. -/
theorem test_words_system : decode 0x0000000002800395 = .ok (.doneg plain (reg 10)) ∧ decode 0x0000000001C00399 = .ok (.yieldt plain (reg 7))
    ∧ decode 0x00000D10028003A1 = .ok (.patwC plain 1 3 (reg 10)) ∧ decode 0x0000010002C003A5 = .ok (.prevoke plain 1 (reg 11))
    ∧ decode 0x391 = .ok (.take plain) ∧ decode (1 + 0xFC * 2 ^ 2 + 3 * 2 ^ 16 + 4 * 2 ^ 22) = .ok (.kill plain (.g 3) (reg 4))
    ∧ decode (1 + 0xE0 * 2 ^ 2 + 3 * 2 ^ 16 + 0x22C * 2 ^ 40) = .ok (.srd plain (.g 3) 0x22C) := by decide

/-! ### Single steps -/

/-- What an outcome's next state gives. -/
def after {α : Type} (o : Host.Outcome State Fault Refusal) (f : State → α) : Option α :=
  match o with
  | .next t => some (f t)
  | _ => none
/-- g3 and the STATUS flags after an instruction whose sources are g1 and g2. -/
def flagged (i : Instr) (a b : Word) : Option (Word × Word) :=
  after (exec i (withCtx fun c => { c with g := (c.g.set 1 a).set 2 b })) fun t => (t.cur.g.get 3, t.cur.status)
def result (i : Instr) (a b : Word) : Option Word := (flagged i a b).map (·.1)

/-- The table of R325's examples. -/
theorem test_div : result (.div plain (.g 3) (reg 1) (reg 2)) (-7) 2 = some (-3) ∧ result (.div plain (.g 3) (reg 1) (reg 2)) 0x8000000000000000 (-1) = some 0x8000000000000000 := by
  decide
theorem test_rem : result (.rem plain (.g 3) (reg 1) (reg 2)) (-7) 2 = some (-1) := by decide
theorem test_divz : result (.divz plain (.g 3) (reg 1) (reg 2)) 9 0 = some (-1) := by decide
theorem test_remz : result (.remz plain (.g 3) (reg 1) (reg 2)) 9 0 = some 9 := by decide
theorem test_mulh : result (.mulh plain (.g 3) (reg 1) (reg 2)) (-1) 1 = some (-1) := by decide
theorem test_mulhz : result (.mulhz plain (.g 3) (reg 1) (reg 2)) (-1) (-1) = some (-2) := by decide
theorem test_clz : result (.clz plain (.g 3) (reg 1)) 0 0 = some 64 := by decide
theorem test_fcvt_i32f : flagged (.fcvt plain .i32f .short (.g 3) (reg 1)) 0xC0200000 0 = some (-2, 8)
    ∧ flagged (.fcvt plain .i32f .short (.g 3) (reg 1)) 0x4F32D05E 0 = some (0x7FFFFFFF, 0x2080) := by decide
theorem test_fcvt_rtz : flagged (.fcvt plain .i32f (.long { ro := true, rmo := .rtz }) (.g 3) (reg 1)) 0x40600000 0 = some (3, 8) := by decide
theorem test_fcvt_z32f : flagged (.fcvt plain .z32f .short (.g 3) (reg 1)) 0xBF800000 0 = some (0, 0x2080)
    ∧ flagged (.fcvt plain .z32f .short (.g 3) (reg 1)) 0xBECCCCCD 0 = some (0, 8) := by decide
theorem test_add_wraps : result (.add plain (.g 3) (reg 1) (reg 2)) (-1) 2 = some 1 := by decide
theorem test_g0 : after (exec (.addi plain (.g 0) (reg 1) 5) State.reset) (fun t => t.cur.readG 0) = some 0 := by decide
/-- A source that is also the destination. -/
theorem test_sub_same : after (exec (.sub plain (.g 1) (reg 2) (reg 1)) (withCtx fun c => { c with g := (c.g.set 1 3).set 2 10 })) (fun t => t.cur.g.get 1) = some 7 := by decide
/-- R268: the successor of an instruction that ends at block offset 28 is 4 further. -/
theorem test_successor : after (step (placed addi5)) (fun t => (t.cur.g.get 3, t.cur.pc)) = some (5, 8)
    ∧ ({ (withCtx fun c => { c with pc := 20 }) with mem := Mem.empty.put (locIst 0 20) 1 } : State).succPc = 32 := by decide
/-- R301 to R304: LOOP's example, 5 times from 0x18. -/
theorem test_loop : after (exec (.loop plain (reg 1) 4) (withCtx fun c => { c with g := c.g.set 1 5, pc := 0x10 })) (fun t => t.cur.loop.isSome) = some true := by decide
theorem test_call : after (exec (.call plain 4) (withCtx fun c => { c with pc := 0x10 })) (fun t => t.cur.pc) = some 0x20 := by decide
theorem test_trap : after (exec (.trap plain 9) State.reset) (fun t => (t.cur.st, t.cur.fcode, t.cur.packet.extractLsb' 264 24)) = some (.frozen, 13, 9) := by decide
theorem test_illop : after (exec (.unassignedOpcode 0) State.reset) (fun t => (t.cur.st, t.cur.fcode)) = some (.frozen, 1) := by decide
/-- R274: an instruction that is predicated off only moves on. -/
theorem test_predicated_off : after (exec (.addi { pred := { neg := true, p := 1 }, wt := 0 } (.g 3) (reg 1) 5) (withCtx fun c => { c with p := c.p.set 1 (BitVec.allOnes 256) }))
    (fun t => t.cur.g.get 3) = some 0 := by decide
/-- R166: a pop of an empty queue waits, of a filled one takes its word. -/
theorem test_pop : after (exec (.addi plain (.g 3) ⟨.q4, false⟩ 1) (withCtx fun c => { c with q4 := [6, 9] })) (fun t => (t.cur.g.get 3, t.cur.q4)) = some (7, [9])
    ∧ after (exec (.addi plain (.g 3) ⟨.q4, false⟩ 1) State.reset) (fun t => t.cur.pc) = some 0 := by decide
theorem test_store_load : after (exec (.st plain .b32 (.g 2) (mem1 .spm)) ((spm0).modCur fun c => { c with g := c.g.set 2 0x1122334455667788 }))
      (fun t => (t.byteAt (locSpm 0 0), t.byteAt (locSpm 0 3), t.byteAt (locSpm 0 4))) = some (0x88, 0x55, 0)
    ∧ after (exec (.ld plain .s8 (.g 3) (mem1 .spm)) { spm0 with mem := Mem.empty.put (locSpm 0 0) 0x88 }) (fun t => t.cur.g.get 3) = some 0xFFFFFFFFFFFFFF88 := by decide
/-- R360's example: 0x4_0000 lies beyond the scratchpad. -/
theorem test_bound : after (exec (.ld plain .d64 (.g 3) (mem1 .spm)) (spm0.modCur fun c => { c with g := c.g.set 1 0x40000 })) (fun t => t.cur.fcode) = some 8 := by decide
theorem test_priv : after (exec (.patw plain 0 4 (reg 1)) State.reset) (fun t => (t.cur.st, t.cur.fcode)) = some (.frozen, 4) := by decide
theorem test_srd : after (exec (.srd plain (.g 3) 2) (withCtx fun c => { c with cap := 0x15 })) (fun t => t.cur.g.get 3) = some 0x15 := by decide
/-- R118's example: weights 8, 4, 4 and 0, four decisions. -/
theorem test_arbiter : ((List.range 4).foldl (fun (p : List Nat × (Nat → Int)) _ =>
      match decideCr 4 (fun i => [8, 4, 4, 0].getD i 0) p.2 3 [0, 1, 2, 3] (fun _ => 1) with
      | some (i, cr, _) => (p.1 ++ [i], cr)
      | none => p) ([], fun _ => 0)).1 = [0, 1, 2, 0] := by decide
/-- R203: an addition of 8 to COUNT 0 of TARGET 4 advances GEN by 2. -/
theorem test_sync_word : (let t := syncAdd { State.reset with marks := [locTwr 0 0 / 16], mem := Mem.empty.put (locTwr 0 8) 4 } (locTwr 0 0) 8 false
    (t.syncCount (locTwr 0 0), t.syncGen (locTwr 0 0))) = (0, 2) := by decide
/-- R340: MIN compares signed, MINZ unsigned. -/
theorem test_amo : amoResult .min (5 : BitVec 32) (-1) = -1 ∧ amoResult .minz (5 : BitVec 32) (-1) = 5 := by decide
/-- R368: an element sum that saturates, and the same wrapped. -/
theorem test_elements : elementOf .i8 true 200 = 127 ∧ elementOf .i8 false 200 = 200 ∧ elementOf .z8 true (-1) = 0 := by decide
/-- R442's status word: SEQ 0, GRP 9, PORT 3, ROUNDS 1, LIM 7, CODE OK. -/
theorem test_status_word : statusWord 3 { pourQ id with grp := 9, seq := 0, rounds := 1, lim := 7, code := some 0 } = 0x0000258000000470 := by decide
/-- R409's job ids: context 0 of core 39, its fourth job; core 5, its first. -/
theorem test_job_id : jobIdOf 39 false 3 = 0x004E0003 ∧ jobIdOf 5 false 0 = 0x000A0000 := by decide
/-- R178: the base, kind and type of a view word; a KSZ of 1 is K = 64. -/
theorem test_view : viewBase (vview 4 36) = 36 ∧ viewTy (vview 4 36) = some .i32 ∧ viewKind (cview 8 0) = .c ∧ viewK (aview 0 1 2 0) = 64 := by decide
/-- R86: features 1 and 0 together; an offer that is not made is not taken. -/
theorem test_features : after (exec (.featAccLower 0xFFFF) { State.reset with bootReady := true }) (fun t => t.featLower) = some 0x7FF
    ∧ after (exec (.featAccLower 2) { State.reset with bootReady := true }) (fun t => t.featLower) = some 0 := by
  decide
/-- R92: TEST to PROD is allowed, TEST to RMA not. -/
theorem test_fuses : after (exec (.lifecycleChange 0x101) State.reset) (fun t => (t.fuses, t.lcErr)) = some (1, false)
    ∧ after (exec (.lifecycleChange 0x102) State.reset) (fun t => (t.fuses, t.lcErr)) = some (0, true) := by decide

/-! What later statements add. -/

theorem wit_VectorElements : (∀ i : Instr, (captured vecB i plain.pred).instr = i) ∧ wideTy .i8 = some .i16 ∧ wideTy .bf16 = some .f32 ∧ Ty.isInt .i64 = true ∧ Ty.isInt .f32 = false
    ∧ (Ty.i8).count = 256 ∧ (Ty.f32).count = 64 := ⟨fun _ => rfl, rfl, rfl, rfl, rfl, rfl, rfl⟩
/-- An MMA.RA whose tile is in flight 7, and the flight. -/
def raE : VEntry := { op := captured vec0 (.mmaRa plain .i8 13 (reg 2) 0 false 12 .glb) plain.pred, tile := some 7 }
def raF : Flight := { id := 7, op := raE.op, left := 0, got := [] }
theorem wit_MatrixElements : (∀ i : Instr, ({ op := { captured vec0 i plain.pred with vd := cview 8 0, vc := cview 8 0 } } : VEntry).dead = false) ∧ viewKind (cview 8 0) = .c
    ∧ raE.dead = false ∧ ((vec0.modCore 0 fun c => { c with fly := [raF] }).me.fly.find? fun x => raE.tile == some x.id) = some raF
    ∧ [1, 2, 3, 4].length = mxuGroup .t8 ∧ (List.replicate 64 1).length = 64 ∧ ({ raE with dead := true } : VEntry).dead = true ∧ isMmar raE.op = false :=
  ⟨fun _ => rfl, by decide, rfl, by decide, by decide, by decide, rfl, by decide⟩
/-- Updates of the first word of the own scratchpad, and of the first word of the page. -/
theorem wit_UpdateFrames : (∃ (t : State) (acc : Acc), exec (.amo plain .add true (.g 3) (mem32 .spm) (.g 2)) spm0 = .next t
      ∧ updateTo spm0 (.amo plain .add true (.g 3) (mem32 .spm) (.g 2)) = some acc ∧ acc.own = true)
    ∧ (∃ t, exec (.fesetF plain (mem1 .spm)) spm0 = .next t) ∧ isUpdate (.fesetF plain (mem1 .spm)) = true
    ∧ ∃ (t : State) (acc : Acc), exec (.amo plain .add true (.g 3) (mem32 .glb) (.g 2)) glb0 = .next t
      ∧ updateTo glb0 (.amo plain .add true (.g 3) (mem32 .glb) (.g 2)) = some acc ∧ acc.own = false :=
  ⟨⟨_, accSpm 8, rfl, rfl, rfl⟩, ⟨_, rfl⟩, rfl, ⟨_, accGlb 8, rfl, rfl, rfl⟩⟩
/-- A poisoned word of the own scratchpad, under the atomics that R94 answers with zero. -/
theorem wit_CasPoisoned : ∃ t, exec (.amoCas plain false (.g 3) (mem32 .spm) (.g 2) (.g 4)) { spm0 with poison := [locSpm 0 0 / 8] } = .next t ∧ t.cur.status = 0x4000 :=
  ⟨_, rfl, by decide⟩
theorem wit_AmofPoisoned : ∃ t, exec (.amofAdd plain (.g 3) (mem32 .spm) (reg 2)) { spm0 with poison := [locSpm 0 0 / 8] } = .next t ∧ t.cur.status = 0x4000 := ⟨_, rfl, by decide⟩

/-- A port that tracks drift: an error of e steps, at this delay, in an idle slot. -/
def driftP (e : BitVec 8) (d : BitVec 18) : Port := ((port0 fun x => { x with en := true, cal := .calok, auto := true, aerr := e, ldly := d }).port 7)
theorem wit_Drift : (∀ x ∈ [driftP 0xFF 0, driftP 0xFF 0x3FFFF, driftP 1 1, driftP 1 0], x.auto = true ∧ x.writable = true ∧ x.inCycle = true ∧ x.stepUs ≠ some (1000 / 1000)
      ∧ ∀ g, (x.lasers.get g).st = .off)
    ∧ (driftP 0xFF 0).aerr.toInt < 0 ∧ 0 < (driftP 1 1).aerr.toInt ∧ (driftP 1 1).cal ≠ .pending ∧ (driftP 1 1).cal ≠ .running ∧ (driftP 0 0).aerr = 0
    ∧ ({ driftP 1 1 with cal := .running } : Port).cal = .running := by decide
theorem wit_Adopt : (let x := ((port0 fun x => { x with en := true, cal := .calok, idle := 32 }).port 7).settleIdle; (x.inCycle = true ∧ x.cal = .calok ∧ x.idle % 32 = 0 ∧ x.seen = []))
    ∧ (idleP 32 32).seen ≠ [] := by decide
/-- Frames on the segment, counted by an enabled port that is no member. -/
theorem wit_Foreign : ((port0 fun x => { x with en := true }).port 7).en = true ∧ ((port0 fun x => { x with en := true }).port 7).running = none := by decide
/-- No announcing pour, and one announced. -/
theorem wit_Announced : (idleP 0 0).announcing = [] ∧ ((annS some some).port 7).announced = some annQ ∧ annQ ∈ ((annS some some).port 7).announcing := by decide

/-- The pour's job in the scheduler, in phases of its reading and writing. -/
def pourJ (f : Job → Job) : Job := job0 fun j => f { j with kind := .pour 7 0 1 }
def runS (f : Job → Job) (g : Pour → Pour) : State := State.modCluster (pourS (fun _ => skimQ g) id) 0 fun c => { c with jobs := [pourJ f] }
theorem wit_Reading : (∀ s ∈ [runS id id, runS (fun j => { j with reading := true, todo := [[(locTwr 0 0, 0)]], out := [[(locTwr 0 8, 1)]] }) id], s.req 1 = none ∧ (s.job 1).isSome = true
      ∧ (∃ j, s.job 1 = some j ∧ isLadle j = false ∧ s.pourOf j = some (7, skimQ id)) ∧ (skimQ id).mayRead = true)
    ∧ (skimQ fun q => { q with code := some 0 }).mayRead = false := by
  refine ⟨?_, by decide⟩
  intro s hs
  simp only [List.mem_cons, List.not_mem_nil, or_false] at hs
  rcases hs with rfl | rfl
  · exact ⟨rfl, rfl, ⟨_, rfl, by decide, by decide⟩, by decide⟩
  · exact ⟨rfl, rfl, ⟨_, rfl, by decide, by decide⟩, by decide⟩
/-- A piece of a frame's source in the tower's scratchpad that is read now, and one of a scratchpad whose bank is not FULL. -/
def readS : State := runS (fun j => { j with reading := true, todo := [[(locTwr 0 0, 0)]] }) id
theorem wit_ReadSource : (∃ j, ((readS.cluster 0).jobs.find? fun x => x.id == 1) = some j ∧ [(locTwr 0 0, 0)] ∈ j.todo ∧ [(locTwr 0 8, 0)] ∉ j.todo
      ∧ homeBanks readS false [locTwr 0 0] = (readS, true) ∧ engineGate readS 0 j false [locTwr 0 0] = .go readS)
    ∧ ∃ u, homeBanks { readS with spmLive := [locSpm 0 0 / 8] } false [locSpm 0 0] = (u, false) :=
  ⟨⟨_, rfl, by decide, by decide, by decide, rfl⟩, ⟨_, Prod.ext rfl (by decide)⟩⟩

/-- A context that has asked the controller, with a popped word. -/
def asked (x : Src) (r : Option Record) : State := withCtx fun c => { c with ask := .sent, due := 5, popped := some (x, 9, r) }
theorem wit_Refused : (∀ x ∈ [Src.q4, .q5, .q6, .q7, .q 2], ((asked x none).ctx 0 false).ask = .sent ∧ ((asked x none).ctx 0 false).popped = some (x, 9, none))
    ∧ ((asked .q6 (some 1)).ctx 0 false).inboxRead = 0 := by decide
/-- JOINC whose decrement did not continue: its task has work left, signals its event at its end, or just ends. -/
def joined (f : Ctx → Ctx) : State := withCtx fun c => f { c with ending := .joinSent 1 (locCls 0 0), ask := .answered 0 }
/-- The same after the ask is taken. -/
def joinedU (f : Ctx → Ctx) : State := (((joined f).modCur fun k => { k with ask := .none }).modCur fun k => { k with ending := .join })
/-- The same after its groups are left. -/
def joinedW (f : Ctx → Ctx) : State := (leaveAll (dropWait (joinedU f) (joinedU f).focus (joinedU f).act) (joinedU f).focus (joinedU f).act).modCur fun k => { k with ending := .joinLeft }
theorem wit_JoincEnds : Ready .tile plain (joined id) ∧ (joined id).cur.away = false ∧ workDone (joinedU id) 0 false = true ∧ (joinedW id).cur.task.evend = false
    ∧ workDone ((joinedU id).modCluster 0 fun c => { c with jobs := [job0 id] }) 0 false = false
    ∧ (joinedW fun c => { c with task := { c.task with evend := true } }).cur.task.evend = true ∧ countsZero (joinedW fun c => { c with task := { c.task with evend := true } }).cur = true
    ∧ countsZero (joinedW fun c => { c with task := { c.task with evend := true }, sys := 1 }).cur = false := ⟨⟨rfl, rfl, rfl, by decide, rfl⟩, by decide, by decide, by decide, by decide,
  by decide, by decide, by decide⟩

/-- A MEPI that waits for an entry, and a product that reads its B tile, at the head of core 0. -/
def mepiE : VEntry := { op := captured vec0 (.mepi96 plain .i8 (vr 13) (reg 2) .glb 0 none rnd0) plain.pred, won := true }
def mmaE (q : Nat) (b : List Nat) : VEntry := { op := { captured vec0 (.mma plain .i8 13 (vr 12) 0 true none) plain.pred with bv := vec0.cur.vw.get 12 }, quarters := q, btodo := b }
theorem wit_MxuHead : mxuHead (vec0.modCore 0 fun k => { k with vq := [mepiE] }) 0 = some (0, mepiE) ∧ mxuHead vec0 0 = none
    ∧ epiFull (vec0.modQuad 0 fun q => { q with epi := List.replicate 4 (epi0 [] 1) }) 0 mepiE = true ∧ epiFull vec0 0 mepiE = false ∧ bLen mepiE.op = 0
    ∧ bLen (mmaE 0 []).op ≠ 0 ∧ (readB vec0 0 (mmaE 1 [])).btodo = [] ∧ (mmaE 1 [0]).quarters ≠ 0 := by decide
/-- A SPILL of the shadow keeps a SWAP waiting. -/
theorem wit_SwapHeld : (let c := ((swap0 0).modCore 0 fun k => { k with swapping := true, spill := .spill true }).core 0; (c.swapping = true ∧ spillOn c (!c.active) = true)) := by decide
/-- A bank that BKHOLD has named while it wakes. -/
theorem wit_WakeHeld : (let s := bank0 { st := .waking, wakeAt := 6, hold := true } 6 0; (((s.core 0).bank .rs0 0).hold = true ∧ ((s.core 0).bank .rs0 0).st = .waking)) := by decide
/-- The seam of a slot's shadow, in each of its cycles. -/
theorem wit_Seams : ∀ k ∈ [(0 : Nat), 1, 2, 3, 4], ∃ s : State, (s.slot 0 3).pend = true ∧ (s.slot 0 3).st = .active ∧ (s.slot 0 3).seam = k :=
  fun k _ => ⟨State.reset.setSlot 0 3 { pend := true, st := .active, seam := k }, rfl, rfl, rfl⟩
/-- The module's arrival at a pod's barrier, and the same while an earlier release is still to be given. -/
theorem wit_PodHere : podHere (pod0 2 true) = true ∧ podHere (pod0 2 false) = false ∧ podHere { pod0 2 true with releases := [{ rel0 true 8 with pod := true }] } = false := by decide
/-- A GET or a sync addition at a scratchpad whose banks are FULL, or not. -/
theorem wit_HomeBanksRw : (∃ u, homeBanksRw spm0 [locSpm 0 0] [locSpm 0 8] = (u, true)) ∧ ∃ u, homeBanksRw State.reset [locSpm 0 0] [locSpm 0 8] = (u, false) :=
  ⟨⟨_, Prod.ext rfl (by decide)⟩, ⟨_, Prod.ext rfl (by decide)⟩⟩
/-- A Ladle job that has ended, one that a SPILL has stopped, and one in a burst. -/
theorem wit_JobEnds : isLadle (job0 id) = true ∧ midBurst (job0 fun j => { j with ended := true }) = false ∧ midBurst readJ = true
    ∧ (job0 fun j => { j with ended := true, stopped := true }).stopped = true ∧ (job0 fun j => { j with killed := true }).killed = true := by decide
/-- A queue of 16 words, places held among them. -/
theorem wit_Full5 : (State.reset.ctx 0 false).q5.length + (State.reset.ctx 0 false).heldOf .q5 < 16
    ∧ ∃ s : State, 16 ≤ (s.ctx 0 false).q5.length + (s.ctx 0 false).heldOf .q5 := ⟨by decide, withCtx fun c => { c with q5 := List.replicate 16 1 }, by decide⟩
/-- A module without attestation, and an MBLD that names bits of OPX. -/
theorem wit_Mailbox : State.reset.feat 10 = false ∧ (∃ s : State, s.feat 10 = true) ∧ (16 : BitVec 5).getLsbD 4 = true ∧ (1 : BitVec 5).extractLsb' 0 4 ≠ 0 :=
  ⟨by decide, ⟨{ State.reset with featAcc := 0x400 }, by decide⟩, by decide, by decide⟩
/-- A regulator below and above its target. -/
theorem wit_Targets : ({ v := 0 } : Regulator).v ≤ ({ v := 0 } : Regulator).vt * 100 ∧ ({ vt := 0 } : Regulator).vt * 100 ≤ ({ vt := 0 } : Regulator).v := by decide
end Sys2Proof.Tests
end

section
/-! Facts about the state that several statements rest on: fields of a written word, the ports' table, little-endian bytes, and the order in which
the parts of an attempt to issue are tried. -/

namespace Sys2Proof.Laws

open Sys2Proof Sys2Proof.Machine

/-! ### Fields of a written word -/

/-- A register field that is written takes its bits of the word. -/
theorem ofNat_bitsAt (v : Word) (lo n : Nat) : BitVec.ofNat n (bitsAt v lo n) = v.extractLsb' lo n := by
  apply BitVec.eq_of_toNat_eq
  simp [bitsAt, BitVec.extractLsb'_toNat, Nat.shiftRight_eq_div_pow]

/-! ### Ports -/

@[simp] theorem get_set_same {α : Type} {n : Nat} (v : Vector α n) (i : Fin n) (a : α) : (v.set i a).get i = a := Vector.getElem_set_self ..

@[simp] theorem port_setPort_same (s : State) (p : Fin 8) (x : Port) : (s.setPort p x).port p = x := get_set_same ..

@[simp] theorem port_modPort_same (s : State) (p : Fin 8) (f : Port → Port) : (s.modPort p f).port p = f (s.port p) := port_setPort_same ..

/-- A port put back as it is leaves the state. -/
@[simp] theorem setPort_port (s : State) (p : Fin 8) : s.setPort p (s.port p) = s := by
  rw [State.setPort, State.port, Vector.get_eq_getElem, Vector.set_getElem_self]

theorem modPort_eq_setPort {s : State} {p : Fin 8} {f : Port → Port} {x : Port} (h : f (s.port p) = x) : s.modPort p f = s.setPort p x := by
  rw [State.modPort, h]

/-- A change that leaves the port as it is leaves the state. -/
theorem modPort_eq_self {s : State} {p : Fin 8} {f : Port → Port} (h : f (s.port p) = s.port p) : s.modPort p f = s := by
  rw [modPort_eq_setPort h, setPort_port]

/-! ### Little-endian bytes (R5, R266) -/

@[simp] theorem length_bytesOfNat (n w : Nat) : (bytesOfNat n w).length = n := by
  induction n generalizing w with
  | zero => rfl
  | succ n ih => simp [bytesOfNat, ih]

theorem natOfBytes_bytesOfNat (n w : Nat) : natOfBytes (bytesOfNat n w) = w % 256 ^ n := by
  induction n generalizing w with
  | zero => simp [bytesOfNat, natOfBytes, Nat.mod_one]
  | succ n ih => simp [bytesOfNat, natOfBytes, ih, Nat.pow_succ', Nat.mod_mul]

theorem natOfBytes_append (as bs : List Byte) : natOfBytes (as ++ bs) = natOfBytes as + 256 ^ as.length * natOfBytes bs := by
  induction as with
  | nil => simp [natOfBytes]
  | cons a as ih => simp only [List.cons_append, natOfBytes, ih, List.length_cons, Nat.pow_succ']; ring

theorem take_bytesOfNat {k n : Nat} (h : k ≤ n) (w : Nat) : (bytesOfNat n w).take k = bytesOfNat k w := by
  induction k generalizing n w with
  | zero => rfl
  | succ k ih =>
    obtain ⟨n, rfl⟩ := Nat.exists_eq_succ_of_ne_zero (Nat.ne_zero_of_lt h)
    simp [bytesOfNat, ih (Nat.le_of_succ_le_succ h)]

theorem drop_bytesOfNat (k n w : Nat) : (bytesOfNat (k + n) w).drop k = bytesOfNat n (w / 256 ^ k) := by
  induction k generalizing w with
  | zero => simp
  | succ k ih => rw [Nat.succ_add]; simp [bytesOfNat, ih, Nat.pow_succ', Nat.div_div_eq_div_mul]

theorem natOfBytes_lt (bs : List Byte) : natOfBytes bs < 2 ^ (8 * bs.length) := by
  induction bs with
  | nil => simp [natOfBytes]
  | cons b bs ih =>
    rw [natOfBytes, List.length_cons, Nat.mul_succ, Nat.pow_add]
    omega

theorem pow_256 (n : Nat) : 256 ^ n = 2 ^ (8 * n) := by
  rw [Nat.pow_mul]

theorem testBit_natOfBytes_append (as bs : List Byte) (i : Nat) : (natOfBytes (as ++ bs)).testBit i =
    if i < 8 * as.length then (natOfBytes as).testBit i else (natOfBytes bs).testBit (i - 8 * as.length) := by
  rw [natOfBytes_append, pow_256, Nat.add_comm,
    Nat.testBit_two_pow_mul_add _ (natOfBytes_lt as)]

theorem testBit_natOfBytes_bytesOfNat (n w i : Nat) : (natOfBytes (bytesOfNat n w)).testBit i = (decide (i < 8 * n) && w.testBit i) := by
  rw [natOfBytes_bytesOfNat, pow_256, Nat.testBit_mod_two_pow]

theorem testBit_div_pow256 (w n i : Nat) : (w / 256 ^ n).testBit i = w.testBit (8 * n + i) := by
  rw [pow_256, Nat.testBit_div_two_pow, Nat.add_comm]

/-! ### Sequences of attempts -/

@[simp] theorem exec_bind_ok {α β : Type} (a : α) (f : α → Exec β) : (Except.ok a : Exec α) >>= f = f a := rfl
@[simp] theorem exec_bind_error {α β : Type} (e : Stop) (f : α → Exec β) : (Except.error e : Exec α) >>= f = .error e := rfl
@[simp] theorem raiseIf_true (f : FaultInfo) : raiseIf true f = .error (.raise f id) := rfl
@[simp] theorem raiseIf_false (f : FaultInfo) : raiseIf false f = .ok () := rfl
@[simp] theorem waitFor_true : waitFor true = .ok () := rfl

theorem needCap_missing {s : State} {b : Nat} (h : s.cur.cap.getLsbD b = false) : needCap s b = .error (.raise (fPriv b) id) := by
  simp [needCap, h]

theorem needCap_held {s : State} {b : Nat} (h : s.cur.cap.getLsbD b = true) : needCap s b = .ok () := by
  simp [needCap, h]

/-- Reading a source changes nothing outside the cores: it pops the queue that it names, if it names one (R165). -/
theorem readSrc_frame {s t : State} {x : Src} {v : Word} (h : readSrc s x = .ok (v, t)) : ∃ cores, t = { s with cores } := by
  cases x with
  | g n =>
    simp only [readSrc] at h
    cases hb : s.regBusy n with
    | true => rw [hb] at h; exact nomatch h
    | false => rw [hb] at h; cases h; exact ⟨s.cores, rfl⟩
  | t n => cases h; exact ⟨s.cores, rfl⟩
  | q | q4 | q5 | q6 | q7 =>
    simp only [readSrc] at h
    split at h
    · cases h; exact ⟨_, rfl⟩
    · exact nomatch h

end Sys2Proof.Laws
end

section
/-! Every instruction and every step of another agent answers a next state, and a step of the module stops only at a turn that names no agent
of it (R1, R16, R18, R19; log entries 2, 6 and 9). -/

namespace Sys2Proof.Laws

open Sys2Proof Sys2Proof.Machine

/-- A resumed TAKE is an attempt to issue, or leaves the state (R129). -/
theorem execTakeResume_next (key : Nat) (s : State) : ∃ t, execTakeResume key s = .next t := by
  unfold execTakeResume
  dsimp only
  split
  · split
    · exact settle_next _ _
    · split
      · exact issueFall_next ..
      · exact issue_next ..
      · exact ⟨_, rfl⟩
  · exact ⟨_, rfl⟩

/-- An instruction of a program settles, whatever its attempt gives; a step of another agent is written as a next state. -/
theorem exec_next (i : Instr) (s : State) : ∃ t, exec i s = .next t := by
  cases i
  case takeResume key => exact execTakeResume_next key s
  -- words that are no instruction
  case unassignedOpcode | zeroedWordFetch => exact ⟨_, rfl⟩
  -- reset, boot, attestation, alarms and errors
  case moduleReset | wipeComplete | fwlockWrite | bootGo | featAccLower | featAccUpper | attestRequest | attestReportDone | lifecycleChange
      | alarmTamper | alarmGlitch | overTemperatureHalt | supplyFault | errorCorrected | poisonMark => exact ⟨_, rfl⟩
  -- power and time
  case thermalThrottle | thermalThrottleEnd | currentThrottle | currentThrottleEnd | slewExceed | rampStep | domainSwitch | domainSwitchEnd
      | frequencyRequest | voltageTargetReached | timebaseLoad | timebaseSteer => exact ⟨_, rfl⟩
  -- the host's window, its queues and its events
  case hostMemAccess | queueRecordCheck | queueDisable | counterReadClear | registerWrite | eventArm | eventFree | eventSignal => exact ⟨_, rfl⟩
  -- records and command links
  case holdStoreIntake | heldRelease | commandLinkMessage | permitReturn | recordArrival | istloadCopy | outboundRecordSend
      | msgAdmissionRefused => exact ⟨_, rfl⟩
  -- arbiters, contexts and banks
  case laneGroupGrant | mxuGrant | quadwWrite | engshrWrite | autoSwap | contextSwap | bankIdleOff | bankRetainEntry | bankWakeDone | bkcfgWrite
      | killpendApply | epiStoreFault | mmarTileReceive | faultPacketArrive | corectlSwap | corectlFreeze | corectlSpill | spillComplete
      | corectlRestore | restoreComplete => exact ⟨_, rfl⟩
  -- groups and patterns
  case groupOpApply | groupRelease | groupRefusalReturn | sstepRelease | podBarrierCensus | seam | patternActivate | patternDeactivate
      | patternEventSignal => exact ⟨_, rfl⟩
  -- the memory system and the Ladle engines
  case loadReply | writePerform | writeAck | monitorNotify | tlbWalk | tlbInvalidate | msqHold | msqRelease | msqDrop | jobStart | ladleBurst
      | ladleJobComplete => exact ⟨_, rfl⟩
  -- Runner ports
  case portEnable | portDisable | calibration | calibrationComplete | rwlimWrite | rwlimAdopt | alignError | driftStep | probeSlot | clockLoss
      | clockRelock | laserWakeDone | laserWakeFail | laserHoldExpire | rplasWrite | groupEntryInvalidate | pourAnnounceStart
      | pourEdgesSatisfied | announcement | announcementCycleEnd | rolltoExpire | roundFrame | skimFrame | pourComplete => exact ⟨_, rfl⟩
  -- what remains are the instructions of a program, each an attempt to issue
  all_goals exact settle_next _ _

theorem runNext_next (s : State) : ∃ t, runNext s = .next t := by
  unfold runNext
  split
  · exact settle_next _ _
  · split
    · exact exec_next _ s
    · exact ⟨_, rfl⟩

theorem endStackCmd_next (s : State) (st : Fin 16) : ∃ t, endStackCmd s st = .next t := by
  unfold endStackCmd
  dsimp only
  split <;> exact ⟨_, rfl⟩

/-- A stopped module answers every turn. -/
theorem stepHalted_next (s : State) (t : Turn) : ∃ u, stepHalted s t = .next u := by
  unfold stepHalted
  split
  · exact exec_next _ s
  · split
    · exact exec_next _ s
    · exact ⟨_, rfl⟩
  · split
    · exact exec_next _ s
    · exact ⟨_, rfl⟩
  · exact ⟨_, rfl⟩
  · exact ⟨_, rfl⟩

theorem stepIssue_next {key : Nat} (h : isAgent key = true) (s : State) : ∃ t, stepIssue s key = .next t := by
  unfold stepIssue
  rw [if_pos h]
  dsimp only
  split
  · exact runNext_next _
  · exact ⟨_, rfl⟩

theorem stepIssue_noAgent {key : Nat} (h : isAgent key = false) (s : State) : stepIssue s key = .fault .noSuchAgent := by
  unfold stepIssue
  rw [h]
  rfl

/-- A turn of another agent goes on, unless it names an agent that is not there. -/
theorem stepEvent_cases (s : State) (i : Instr) :
    (∃ t, stepEvent s i = .next t) ∨ (stepEvent s i = .fault .noSuchAgent ∧ namesAgents i = false) := by
  unfold stepEvent
  split
  · exact .inl ⟨_, rfl⟩
  · split
    · exact .inl (exec_next i s)
    · next h => exact .inr ⟨rfl, Bool.eq_false_iff.mpr h⟩

/-- What names no agent of the module: an issue of a key that is none, or a step of an agent that is not there. -/
def NamesNoAgent (t : Turn) : Prop := (∃ key, t = .issue key ∧ isAgent key = false) ∨ ∃ i, t = .event i ∧ namesAgents i = false

/-- One turn goes on in a next state, or names no agent and stops. -/
theorem stepTurn_cases (s : State) (t : Turn) :
    (∃ u, stepTurn s t = .next u) ∨ (stepTurn s t = .fault .noSuchAgent ∧ NamesNoAgent t) := by
  unfold stepTurn
  split
  · exact .inl (stepHalted_next s t)
  · cases t with
    | issue key =>
      cases h : isAgent key with
      | true => exact .inl (stepIssue_next h s)
      | false => exact .inr ⟨stepIssue_noAgent h s, .inl ⟨key, rfl, h⟩⟩
    | event i => exact (stepEvent_cases s i).imp_right fun h => ⟨h.1, .inr ⟨i, rfl, h.2⟩⟩
    | stackEnd st => exact .inl (endStackCmd_next s st)
    | elapse ns => exact .inl ⟨_, rfl⟩
    | half => exact .inl ⟨_, rfl⟩
    | hostStore a bs => exact .inl ⟨_, rfl⟩

/-- Settles O2: every arm of `exec` answers a next state, and one turn stops only where it names no agent. -/
theorem stepNeverRefuses : Obligations.StepNeverRefuses := by
  refine ⟨exec_next, fun s r hr => ?_, fun s f hf => ?_⟩
  · rcases stepTurn_cases (nextTurn s).2 (nextTurn s).1 with ⟨u, hu⟩ | ⟨hu, -⟩
    · exact nomatch hu.symm.trans hr
    · exact nomatch hu.symm.trans hr
  · rcases stepTurn_cases (nextTurn s).2 (nextTurn s).1 with ⟨u, hu⟩ | ⟨hu, hn⟩
    · exact nomatch hu.symm.trans hf
    · exact ⟨(Host.Outcome.fault.inj (hu.symm.trans hf)).symm, hn⟩

end Sys2Proof.Laws
end

section
/-! The state that a reset gives: its sparse tables hold their defaults, so a part of it is its type's default (R8; log entry 1). -/

namespace Sys2Proof.Laws

open Sys2Proof Sys2Proof.Machine

@[simp] theorem core_reset (key : Nat) : State.reset.core key = {} := rfl
@[simp] theorem ctx_reset (key : Nat) (n : Bool) : State.reset.ctx key n = {} := by cases n <;> rfl
@[simp] theorem quad_reset (q : Nat) : State.reset.quad q = {} := rfl
@[simp] theorem tower_reset (t : Nat) : State.reset.tower t = {} := rfl
@[simp] theorem link_reset (l : Nat) : State.reset.link l = {} := rfl

/-- No feature is accepted at reset (R86). -/
@[simp] theorem feat_reset (n : Nat) : State.reset.feat n = false := BitVec.getLsbD_zero

/-- Every copy of the timebase starts at 0 (R150). -/
@[simp] theorem tbOf_reset (cl : Nat) : State.reset.tbOf cl = 0 := by
  unfold State.tbOf
  split
  · exact Vector.getElem_replicate ..
  · rfl

/-- The reset value of DOMMAP names regulator i div 20 for cluster i (R145). -/
theorem domField_reset : ∀ cl < 80, domField State.reset cl = Fin.ofNat 4 (cl / 20) := by decide

theorem controlInv_reset : ControlInv State.reset where
  locked := nofun
  order := nofun
  ready := ⟨rfl, rfl⟩
  reports := nofun
  features := ⟨rfl, rfl, by decide⟩
  accepted := ⟨rfl, by decide, nofun⟩
  link := by decide
  members := by decide
  translation := rfl

/-- Settles O49: each value is a default of the tables that reset leaves empty, or a field of `State.reset`. -/
theorem resetState : Obligations.ResetState := by
  rintro s rfl
  have errors : ∀ u, State.reset.errCor.get u = 0 ∧ State.reset.errUnc.get u = 0 := by decide
  have regulators : ∀ d : Fin 4, (State.reset.regs.get d).fcode = 15 ∧ (State.reset.regs.get d).vt = 600 := by decide
  exact ⟨controlInv_reset, rfl, rfl, rfl, rfl, rfl, rfl, rfl, rfl, feat_reset, rfl, rfl, rfl, errors, rfl, tbOf_reset, rfl, rfl,
    fun key => by simp, fun key n => by simp, fun q => by simp, fun t => by simp, fun l => by simp, regulators, domField_reset⟩

end Sys2Proof.Laws
end

section
/-! Laser groups and group entries of a Runner port (R37 to R39, R45, R49, R50, R72). -/

namespace Sys2Proof.Laws

open Sys2Proof Sys2Proof.Machine

/-! ### One laser group (R37, R39) -/

section
variable {tb : Nat} {p : Fin 8} {g : Fin 9} {x : Port}

theorem laserLights_done (hw : (x.lasers.get g).st = .waking) (ht : (x.lasers.get g).since + 1500 ≤ tb)
    (hf : laserFailing p g (x.lasers.get g) = false) :
    laserLights tb p g x = { x with lasers := x.lasers.set g { x.lasers.get g with st := .lit, since := tb } } := by
  simp [laserLights, hw, ht, hf]

theorem laserLights_early (h : (x.lasers.get g).st ≠ .waking ∨ tb < (x.lasers.get g).since + 1500) : laserLights tb p g x = x := by
  rcases h with h | h <;> simp [laserLights, h, Nat.not_le.mpr]

theorem laserGivesUp_fails (hw : (x.lasers.get g).st = .waking) (ht : (x.lasers.get g).since + 3000 < tb)
    (hf : laserFailing p g (x.lasers.get g) = true) :
    laserGivesUp tb p g x =
      { x with lasers := x.lasers.set g (if x.forced g then { st := .waking, since := tb } else {}), stat := x.stat ||| 1 } := by
  simp [laserGivesUp, Port.flag, hw, ht, hf]

theorem laserGivesUp_early (h : (x.lasers.get g).st ≠ .waking ∨ tb ≤ (x.lasers.get g).since + 3000) : laserGivesUp tb p g x = x := by
  rcases h with h | h <;> simp [laserGivesUp, h, Nat.not_lt.mpr]

theorem laserExpires_dark (hl : (x.lasers.get g).st = .lit) (hh : (x.lasers.get g).holding = true) (hf : x.forced g = false)
    (hu : x.pendingUse = false) (ht : (x.lasers.get g).since + x.hold.toNat * 64 < tb) :
    laserExpires tb g x = { x with lasers := x.lasers.set g {} } := by
  simp [laserExpires, hl, hh, hf, hu, ht]

theorem laserExpires_stays (h : (x.lasers.get g).st ≠ .lit ∨ (x.lasers.get g).holding = false ∨ x.forced g = true ∨ x.pendingUse = true
    ∨ tb ≤ (x.lasers.get g).since + x.hold.toNat * 64) : laserExpires tb g x = x := by
  rcases h with h | h | h | h | h <;> simp [laserExpires, h, Nat.not_lt.mpr]

end

/-- A wake request wakes a group that is OFF, and cancels the hold of any other. -/
theorem wakeOne_off {now : Nat} {l : Laser} (h : l.st = .off) : wakeOne now l = { st := .waking, since := now, holding := false } := by
  simp [wakeOne, h]

theorem wakeOne_on {now : Nat} {l : Laser} (h : l.st ≠ .off) : wakeOne now l = { l with holding := false } := by
  simp [wakeOne, h]

/-! ### RPLAS (R39, R45) -/

/-- A group after a write of RPLAS: one that the word forces wakes, one that it no longer forces begins its hold, any other stays. -/
theorem writeRplas_laser (s : State) (p : Fin 8) (v : Word) (g : Fin 9) (l : Laser) (hl : l = (s.port p).lasers.get g) :
    ((writeRplas s p v).port p).lasers.get g =
      if v.getLsbD (18 + g.val) then wakeOne s.tb l
      else if (s.port p).force.getLsbD g.val = true ∧ l.st ≠ .off then
        { l with since := if l.st == .lit then s.tb else l.since, holding := true }
      else l := by
  subst hl
  simp [writeRplas, ofNat_bitsAt]

theorem writeRplas_fields (s : State) (p : Fin 8) (v : Word) :
    ((writeRplas s p v).port p).hold = v.extractLsb' 32 16 ∧ ((writeRplas s p v).port p).force = v.extractLsb' 18 9
      ∧ ((writeRplas s p v).port p).pours = (s.port p).pours := by
  simp [writeRplas, ofNat_bitsAt]

/-! ### Group entries (R49, R50, R72) -/

theorem group_invalidateGroup_same (x : Port) (n : Fin 64) :
    (invalidateGroup x n).group n = { x.group n with valid := false, expseq := 0 } := tget_tset_same ..

theorem group_invalidateGroup_other (x : Port) {n m : Fin 64} (h : m ≠ n) : (invalidateGroup x n).group m = x.group m :=
  tget_tset_other _ _ _ (Fin.val_ne_of_ne h)

/-- Invalidating an entry disarms the pours of its group that do not run and have not ended. -/
theorem pours_invalidateGroup (x : Port) (n : Fin 64) : (invalidateGroup x n).pours =
    x.pours.map fun q => if q.grp = n ∧ q.st ≠ .running ∧ q.code = none then { q with code := some 4 } else q := by
  simp [invalidateGroup, disarm, Port.setGroup, and_assoc]

/-- Settles O43: each step of a group is a change of one port, which its condition makes or leaves out. -/
theorem laserSteps : Obligations.LaserSteps := by
  refine ⟨?_, fun s p v hf => ?_, fun s p v hf => ?_, fun now l => ⟨wakeOne_off, wakeOne_on⟩, fun s p n hf => ?_⟩
  · rintro s p g x l rfl rfl
    refine ⟨fun hw ht hn => ?_, fun h => ?_, fun hw ht hn => ?_, fun h => ?_, fun hl hh hf hu ht => ?_, fun h => ?_⟩
    · exact congrArg Host.Outcome.next (modPort_eq_setPort (laserLights_done hw ht hn))
    · exact congrArg Host.Outcome.next (modPort_eq_self (laserLights_early h))
    · exact congrArg Host.Outcome.next (modPort_eq_setPort (laserGivesUp_fails hw ht hn))
    · exact congrArg Host.Outcome.next (modPort_eq_self (laserGivesUp_early h))
    · exact congrArg Host.Outcome.next (modPort_eq_setPort (laserExpires_dark hl hh hf hu ht))
    · exact congrArg Host.Outcome.next (modPort_eq_self (laserExpires_stays h))
  · obtain ⟨hold, force, pours⟩ := writeRplas_fields s p v
    refine ⟨writeRplas s p v, congrArg Host.Outcome.next (if_pos hf), hold, force, pours, fun g hv => ?_, fun g hv ho => ?_, fun g hv ho hl => ?_⟩
    · rw [writeRplas_laser s p v g _ rfl, if_pos hv]
    · rw [writeRplas_laser s p v g _ rfl, hv, ho]; rfl
    · rw [writeRplas_laser s p v g _ rfl, hv, ho, hl]; rfl
  · have off {t : State} : (if s.feat 4 then t else s) = s := if_neg (Bool.eq_false_iff.mp hf)
    exact ⟨congrArg Host.Outcome.next off, congrArg Host.Outcome.next off, fun n => congrArg Host.Outcome.next off⟩
  · refine ⟨s.modPort p fun x => invalidateGroup x n, congrArg Host.Outcome.next (if_pos hf), ?_, fun m hm => ?_, ?_, rfl, rfl⟩
    · rw [port_modPort_same, group_invalidateGroup_same]
    · rw [port_modPort_same, group_invalidateGroup_other _ hm]
    · rw [port_modPort_same, pours_invalidateGroup]

end Sys2Proof.Laws
end

section
/-! Reset, boot, the firmware lock, alarms and errors (R8, R23, R87 to R95). -/

namespace Sys2Proof.Laws

open Sys2Proof Sys2Proof.Machine

/-! ### The controllers that boot starts (R87; log entry 19) -/

@[simp] theorem active_modCtx (s : State) (key : Nat) (n : Bool) (f : Ctx → Ctx) : ((s.modCtx key n f).core key).active = (s.core key).active := by
  rw [State.modCtx, State.setCtx, State.core_setCore_same]
  cases n <;> rfl

theorem active_killStore (s : State) (key : Nat) (n : Bool) : ((killStore s key n).core key).active = (s.core key).active := by
  simp [killStore]

theorem active_startTask (s : State) (key : Nat) (n : Bool) (pc : BitVec 15) (arg0 arg1 : Word) (t : Vector Word 4) (kid : BitVec 32)
    (asid : BitVec 16) (cap : BitVec 32) (task : Task) :
    ((startTask s key n pc arg0 arg1 t kid asid cap task).core key).active = (s.core key).active := by
  simp [startTask, active_killStore]

/-- A core whose context 0 firmware has been started on, with its active context left as it was. -/
structure Started (act : Bool) (c : Core) : Prop where
  active : c.active = act
  pc : (c.ctx false).pc = 0
  cap : (c.ctx false).cap = 0x3F
  st : (c.ctx false).st = if act then CtxSt.ready else CtxSt.running

theorem startController_frame (s : State) (key : Nat) : startController s key = { s with cores := (startController s key).cores } := rfl

theorem core_startController_other (s : State) {key k : Nat} (h : k ≠ key) : (startController s key).core k = s.core k := by
  simp only [startController, startTask, killStore, State.modCtx, State.modCore, State.setCtx, State.core_setCore_other _ _ h]

theorem started_startController (s : State) (key : Nat) : Started (s.core key).active ((startController s key).core key) := by
  have ctx : ((startController s key).core key).ctx false = _ := State.ctx_modCtx_same (killStore s key false) key false _
  refine ⟨active_startTask .., congrArg Ctx.pc ctx, congrArg Ctx.cap ctx, (congrArg Ctx.st ctx).trans ?_⟩
  rw [active_killStore]
  cases (s.core key).active <;> rfl

theorem active_startController (s : State) (key k : Nat) : ((startController s key).core k).active = (s.core k).active := by
  by_cases h : k = key
  · subst h; exact (started_startController s k).active
  · rw [core_startController_other s h]

/-- Starting controllers changes their cores and nothing else. -/
theorem startControllers_frame (l : List Nat) (s : State) : ∃ cores, l.foldl startController s = { s with cores } := by
  induction l generalizing s with
  | nil => exact ⟨s.cores, rfl⟩
  | cons k l ih =>
    obtain ⟨cores, h⟩ := ih (startController s k)
    exact ⟨cores, h.trans (by rw [startController_frame])⟩

theorem core_startControllers_other (l : List Nat) (s : State) {key : Nat} (h : key ∉ l) : (l.foldl startController s).core key = s.core key := by
  induction l generalizing s with
  | nil => rfl
  | cons k l ih =>
    obtain ⟨hk, hl⟩ := not_or.mp (mt List.mem_cons.mpr h)
    rw [List.foldl_cons, ih _ hl, core_startController_other s hk]

theorem started_startControllers (l : List Nat) (s : State) {key : Nat} (h : key ∈ l) :
    Started (s.core key).active ((l.foldl startController s).core key) := by
  induction l generalizing s with
  | nil => exact absurd h List.not_mem_nil
  | cons k l ih =>
    rw [List.foldl_cons]
    by_cases hl : key ∈ l
    · rw [← active_startController s k key]
      exact ih _ hl
    · obtain rfl := (List.mem_cons.mp h).resolve_right hl
      rw [core_startControllers_other l _ hl]
      exact started_startController s key

theorem startControllers_result (l : List Nat) (s : State) : ∃ cores, l.foldl startController s = { s with cores }
    ∧ (∀ key ∈ l, Started (s.core key).active (tget {} cores key)) ∧ ∀ key ∉ l, tget {} cores key = s.core key := by
  obtain ⟨cores, h⟩ := startControllers_frame l s
  refine ⟨cores, h, fun key hk => ?_, fun key hk => ?_⟩
  · have started := started_startControllers l s hk
    rwa [h] at started
  · have other := core_startControllers_other l s hk
    rwa [h] at other

/-- The controllers that firmware runs on: the leaves and the global scheduler core. -/
def bootKeys : List Nat := (List.range 80).map leafKey ++ [globalKey]

theorem mem_bootKeys {key : Nat} : key ∈ bootKeys ↔ (∃ i < 80, key = leafKey i) ∨ key = globalKey := by
  simp [bootKeys, eq_comm]

theorem tile_not_mem_bootKeys {key : Nat} (h : isTile key = true) : key ∉ bootKeys := by
  simp only [isTile, Bool.and_eq_true, decide_eq_true_eq] at h
  rintro hk
  rcases mem_bootKeys.mp hk with ⟨i, -, rfl⟩ | rfl
  · unfold leafKey at h; omega
  · unfold globalKey at h; omega

/-! ### What firmware sets, and the layer that it derives (R87, R89) -/

/-- A CLADM register written, where the cluster is there. -/
def writeCladm (s : State) (x : Nat × Nat × Word) : State :=
  if x.1 < 80 then s.modCluster x.1 fun c => { c with cladm := c.cladm.set (Fin.ofNat 8 x.2.1) (x.2.2 &&& 0x1FFFF) } else s

theorem foldl_writeCladm_frame (l : List (Nat × Nat × Word)) (s : State) : ∃ clusters, l.foldl writeCladm s = { s with clusters } := by
  induction l generalizing s with
  | nil => exact ⟨s.clusters, rfl⟩
  | cons x l ih =>
    obtain ⟨clusters, h⟩ := ih (writeCladm s x)
    refine ⟨clusters, h.trans ?_⟩
    unfold writeCladm
    split <;> rfl

/-- What firmware sets: the registers that the row carries, in the ports, the regulators and the clusters, and nothing else. -/
theorem fwInit_frame (s : State) (f : FwInit) : ∃ ports regs clusters,
    fwInit s f = { s with xlbase := f.xlbase &&& 0xFFFFFF0001, alarmAct := f.alarmAct, ports, regs, clusters } := by
  obtain ⟨clusters, h⟩ := foldl_writeCladm_frame f.cladm _
  exact ⟨_, _, clusters, h⟩

theorem deriveLayer2_cases (s : State) (image : Option (List Byte)) : ∃ m2 s2 cert2, deriveLayer2 s image = { s with m2, s2, cert2 }
    ∧ (image = none → m2 = s.m2 ∧ s2 = s.s2 ∧ cert2 = s.cert2)
    ∧ ∀ bs, image = some bs → m2 = sha3 bs ∧ s2 = sha3 (labelL2 ++ bytes32 s.s1 ++ bytes32 m2) ∧ cert2 = some (layerCert m2 s2 s.s1 s.fuses) := by
  cases image with
  | none => exact ⟨s.m2, s.s2, s.cert2, rfl, fun _ => ⟨rfl, rfl, rfl⟩, nofun⟩
  | some bs =>
    refine ⟨_, _, _, rfl, nofun, fun bs' h => ?_⟩
    obtain rfl := Option.some.inj h
    exact ⟨rfl, rfl, rfl⟩

/-- What the boot ROM leaves when it goes (R87, R89): the locked range measured, and the layer's secret, certificate and key. -/
def romBoot (s : State) : State :=
  let m1 := sha3 (s.mem.getN (s.lockBase.toNat * 2 ^ 16) ((s.lockLimit.toNat + 1 - s.lockBase.toNat) * 2 ^ 16))
  let s1 := sha3 ((if s.fuses = 2 then labelRma else labelL1) ++ bytes32 Config.deviceSecret ++ bytes32 m1)
  { s with go := true, measured := true, bootReady := true, m1, s1, cert := layerCert m1 s1 Config.deviceSecret s.fuses
           pk0 := mldsaPublic (keySeed Config.deviceSecret) }

/-- A boot that goes: the ROM's part, the registers and the layer that firmware adds, and its controllers started. -/
theorem bootGo_goes {s : State} (f : FwInit) (hg : s.go = false) (hw : s.wiped = true) (hl : s.lock = true)
    (hr : s.lockBase.toNat ≤ s.lockLimit.toNat) (hf : s.fuses ≠ 3) :
    bootGo s f = bootKeys.foldl startController (deriveLayer2 (fwInit (romBoot s) f) f.layer2) := by
  have go : ¬ (s.go || !s.wiped || !s.lock || s.lockLimit.toNat < s.lockBase.toNat || s.fuses = 3) = true := by
    simp [hg, hw, hl, hr]
    exact hf
  rw [bootGo, if_neg go, bootKeys, List.foldl_append, List.foldl_map]
  rfl

/-- The state after a boot, field by field. -/
theorem bootGo_result {s : State} (f : FwInit) (hg : s.go = false) (hw : s.wiped = true) (hl : s.lock = true)
    (hr : s.lockBase.toNat ≤ s.lockLimit.toNat) (hf : s.fuses ≠ 3) : ∃ ports regs clusters m2 s2 cert2 cores,
    bootGo s f = { romBoot s with xlbase := f.xlbase &&& 0xFFFFFF0001, alarmAct := f.alarmAct, ports, regs, clusters, m2, s2, cert2, cores }
    ∧ (f.layer2 = none → m2 = s.m2 ∧ s2 = s.s2 ∧ cert2 = s.cert2)
    ∧ (∀ bs, f.layer2 = some bs → m2 = sha3 bs ∧ s2 = sha3 (labelL2 ++ bytes32 (romBoot s).s1 ++ bytes32 m2)
      ∧ cert2 = some (layerCert m2 s2 (romBoot s).s1 s.fuses))
    ∧ (∀ key ∈ bootKeys, Started (s.core key).active (tget {} cores key)) ∧ ∀ key ∉ bootKeys, tget {} cores key = s.core key := by
  have boot := bootGo_goes f hg hw hl hr hf
  obtain ⟨ports, regs, clusters, init⟩ := fwInit_frame (romBoot s) f
  obtain ⟨m2, s2, cert2, layer, kept, derived⟩ := deriveLayer2_cases (fwInit (romBoot s) f) f.layer2
  obtain ⟨cores, start, started, others⟩ := startControllers_result bootKeys (deriveLayer2 (fwInit (romBoot s) f) f.layer2)
  rw [layer, init] at boot start started others
  rw [init] at kept derived
  exact ⟨ports, regs, clusters, m2, s2, cert2, cores, boot.trans start, kept, derived, started, others⟩

theorem bootGo_stays {s : State} (f : FwInit)
    (h : s.go = true ∨ s.wiped = false ∨ s.lock = false ∨ s.lockLimit.toNat < s.lockBase.toNat ∨ s.fuses = 3) : bootGo s f = s := by
  refine if_pos ?_
  simpa [or_assoc] using h

/-! ### Alarms (R93) -/

theorem raiseAlarm_eq (s : State) (c : Nat) (must : Bool) (act : Nat) (h : act = s.alarmAct.toNat / 4 ^ c % 4) : raiseAlarm s c must =
    { s with alarm := s.alarm ||| BitVec.ofNat 4 (2 ^ c), msix := 0 :: s.msix, halted := s.halted || act == 1 || act == 2 || must
             keysErased := s.keysErased || act == 2, s1 := if act = 2 then 0 else s.s1, s2 := if act = 2 then 0 else s.s2 } := by
  simp only [raiseAlarm, ← h]
  by_cases h2 : act = 2
  · subst h2; simp
  · by_cases h1 : act = 1
    · subst h1; simp
    · have e1 : (act == 1) = false := beq_false_of_ne h1
      have e2 : (act == 2) = false := beq_false_of_ne h2
      cases must <;> simp [h1, h2, e1, e2]

/-! ### Errors and poison (R94, R95) -/

theorem mem_nsAdd (l : List Nat) (n w : Nat) : w ∈ nsAdd l n ↔ w = n ∨ w ∈ l := by
  induction l with
  | nil => simp [nsAdd]
  | cons k l ih =>
    simp only [nsAdd]
    split
    · simp
    · split
      · next h => simp [h]
      · simp only [List.mem_cons, ih]; tauto

/-- The unit of a counter. -/
def unitOf (i : Fin 7) : ErrUnit := #v[.regStore, .scratch, .bsram, .towerL2, .dram, .links, .cxl].get i

theorem unitOf_errIx (u : ErrUnit) : unitOf (errIx u) = u := by
  cases u <;> rfl

theorem errIx_ne {u v : ErrUnit} (h : v ≠ u) : errIx v ≠ errIx u := fun he =>
  h (by rw [← unitOf_errIx v, he, unitOf_errIx])

theorem get_set_errIx_other (c : Vector (BitVec 32) 7) {u v : ErrUnit} (h : v ≠ u) (x : BitVec 32) :
    (c.set (errIx u) x).get (errIx v) = c.get (errIx v) :=
  Vector.getElem_set_ne _ _ fun he => errIx_ne h (Fin.ext he.symm)

/-- A counter of 32 bits saturates (R48). -/
theorem toNat_inc32 (c : BitVec 32) (n : Nat) : (inc32 c n).toNat = min (c.toNat + n) 0xFFFFFFFF := by
  rw [inc32, BitVec.toNat_ofNat, Nat.mod_eq_of_lt (by omega)]

/-- Settles O25: a reset is `State.reset` but for what stays, a boot that goes is the ROM's part and the controllers started, and an alarm or an error
changes its own registers. -/
theorem bootLockAndAlarms : Obligations.BootLockAndAlarms := by
  refine ⟨⟨fun s => ?_, fun s => rfl, fun s v hw => ?_, fun s v hw => ?_⟩, ⟨fun s f hg hw hl hr hf => ?_, fun s f h => ?_⟩, fun s c must act h => ?_,
    fun s => ⟨rfl, rfl, rfl, rfl⟩, fun s u => ?_, fun s u a h => ?_, fun s u a h => ?_⟩
  · exact ⟨resetModule s, rfl, fun _ => rfl, rfl, rfl, rfl, rfl, ctx_reset, core_reset, fun _ => rfl, fun _ => rfl, fun _ => rfl, rfl, rfl, rfl, rfl, rfl,
      rfl, rfl, rfl, rfl, rfl, rfl, rfl, rfl, rfl, rfl, rfl, rfl⟩
  · rw [← ofNat_bitsAt, ← ofNat_bitsAt]
    exact congrArg Host.Outcome.next (if_neg (Bool.eq_false_iff.mp hw))
  · exact congrArg Host.Outcome.next (if_pos hw)
  · obtain ⟨ports, regs, clusters, m2, s2, cert2, cores, boot, kept, derived, started, others⟩ := bootGo_result f hg hw hl hr hf
    refine ⟨_, congrArg Host.Outcome.next boot, rfl, rfl, rfl, rfl, rfl, rfl, rfl, rfl, rfl, kept, derived, rfl, rfl, fun key hk => ?_,
      fun key hk => others key (tile_not_mem_bootKeys hk)⟩
    obtain ⟨-, pc, cap, st⟩ := started key (mem_bootKeys.mpr hk)
    refine ⟨pc, cap, ?_, fun ha => ?_⟩
    · refine fun idle => absurd (st.symm.trans idle) ?_
      split <;> decide
    · exact st.trans (if_neg (Bool.eq_false_iff.mp ha))
  · exact congrArg Host.Outcome.next (bootGo_stays f h)
  · exact raiseAlarm_eq s c must act h
  · exact ⟨_, rfl, (congrArg BitVec.toNat (get_set_same ..)).trans (toNat_inc32 ..), fun v hv => get_set_errIx_other _ hv _, rfl⟩
  · refine ⟨_, congrArg Host.Outcome.next (if_pos h), fun w => mem_nsAdd .., rfl, fun v hv => get_set_errIx_other _ hv _,
      (congrArg BitVec.toNat (get_set_same ..)).trans (toNat_inc32 ..)⟩
  · rcases h with rfl | rfl <;> rfl

end Sys2Proof.Laws
end

section
/-! The host's register window (R9, R10, R48, R73, R76): which register an offset of BAR0 names, and what a read clears. -/

namespace Sys2Proof.Laws

open Sys2Proof Sys2Proof.Machine

/-- An offset within the i-th block of a range of registers. -/
theorem block_index {base size i o : Nat} (ho : o < size) : (base + size * i + o - base) / size = i := by
  rw [Nat.add_assoc, Nat.add_sub_cancel_left, Nat.mul_add_div (by omega), Nat.div_eq_of_lt ho, Nat.add_zero]

theorem barWrite_queue (s : State) (q : Fin 16) {o : Nat} (ho : o < 0x1000) (v : Word) :
    barWrite s (0x10000 + 0x1000 * q.val + o) v = queueWrite s q.val o v := by
  have hm : (0x10000 + 0x1000 * q.val + o) % 0x1000 = o := by omega
  simp (disch := omega) only [barWrite, Bool.and_eq_true, decide_eq_true_eq, if_neg, if_pos, block_index ho, hm]

theorem barWrite_slot (s : State) (k : Fin 1024) {o : Nat} (ho : o < 16) (v : Word) :
    barWrite s (0x21000 + 16 * k.val + o) v =
      if o = 0 then { s with slots := tset s.slots k.val { tget ({} : NotSlot) s.slots k.val with addr := v &&& 0xFFFFFFFFFFFFFFC1 } }
      else if o = 8 then { s with slots := tset s.slots k.val { tget ({} : NotSlot) s.slots k.val with cfg := v &&& 0x0000FFFF003F07FF } }
      else s := by
  have hm : (0x21000 + 16 * k.val + o) % 16 = o := by omega
  simp (disch := omega) only [barWrite, Bool.and_eq_true, decide_eq_true_eq, if_neg, if_pos, block_index ho, hm]

theorem barWrite_port (s : State) (p : Fin 8) {o : Nat} (ho : o < 0x1000) (v : Word) :
    barWrite s (0x100000 + 0x1000 * p.val + o) v = if s.feat 4 then portWrite s p o v else s := by
  have hm : (0x100000 + 0x1000 * p.val + o) % 0x1000 = o := by omega
  simp (disch := omega) only [barWrite, Bool.and_eq_true, decide_eq_true_eq, if_neg, if_pos, block_index ho, hm, Fin.ofNat_val_eq_self]

theorem barWrite_nonce (s : State) (k : Fin 4) (v : Word) :
    barWrite s (0x301000 + 8 * k.val) v = if s.feat 10 then writeNonce s k.val v else s := by
  have hm : (0x301000 + 8 * k.val) % 8 = 0 := by omega
  have hk : (0x301000 + 8 * k.val - 0x301000) / 8 = k.val := by omega
  cases h : s.feat 10 <;>
    simp (disch := omega) only [barWrite, Bool.and_eq_true, decide_eq_true_eq, Bool.false_eq_true, and_true, and_false, if_neg, if_pos, if_true, hm, hk, h]

theorem barWrite_unlisted (s : State) (v : Word) {off : Nat} (h : off ∉ [0x20, 0x28, 0x20000, 0x20008, 0x20010, 0x300008, 0x300010, 0x300020])
    (hq : off < 0x10000 ∨ 0x20000 ≤ off) (hs : off < 0x21000 ∨ 0x25000 ≤ off) (hp : off < 0x100000 ∨ 0x108000 ≤ off)
    (hn : off < 0x301000 ∨ 0x301020 ≤ off ∨ off % 8 ≠ 0) : barWrite s off v = s := by
  simp only [List.mem_cons, List.not_mem_nil, or_false, not_or] at h
  simp (disch := omega) only [barWrite, Bool.and_eq_true, decide_eq_true_eq, if_neg]

theorem barRead_queueErr (s : State) (q : Fin 16) : barRead s (0x10020 + 0x1000 * q.val) = queueRead (s.queue q) 0x20 := by
  have hm : (0x10020 + 0x1000 * q.val) % 0x1000 = 0x20 := by omega
  have hq : (0x10020 + 0x1000 * q.val - 0x10000) / 0x1000 = q.val := by omega
  simp (disch := omega) only [barRead, Bool.and_eq_true, decide_eq_true_eq, if_neg, if_pos, hm, hq]

theorem barClear_queueErr (s : State) (q : Fin 16) : barClear s (0x10020 + 0x1000 * q.val) =
    s.modQueue q.val fun x => { x with errIndex := 0, errCount := 0, errCode := 0 } := by
  have hm : (0x10020 + 0x1000 * q.val) % 0x1000 = 0x20 := by omega
  have hq : (0x10020 + 0x1000 * q.val - 0x10000) / 0x1000 = q.val := by omega
  simp (disch := omega) only [barClear, Bool.and_eq_true, decide_eq_true_eq, and_true, if_pos, hm, hq]

theorem barRead_port {s : State} (hf : s.feat 4 = true) (p : Fin 8) {o : Nat} (ho : o < 0x1000) :
    barRead s (0x100000 + 0x1000 * p.val + o) = portRead (s.port p) o := by
  have hm : (0x100000 + 0x1000 * p.val + o) % 0x1000 = o := by omega
  simp (disch := omega) only [barRead, Bool.and_eq_true, decide_eq_true_eq, if_neg, if_pos, if_true, block_index ho, hm, hf, Fin.ofNat_val_eq_self]

theorem barClear_port {s : State} (hf : s.feat 4 = true) (p : Fin 8) {o : Nat} (ho : o < 0x1000) :
    barClear s (0x100000 + 0x1000 * p.val + o) = s.modPort p fun x => portClear x o := by
  have hm : (0x100000 + 0x1000 * p.val + o) % 0x1000 = o := by omega
  simp (disch := omega) only [barClear, Bool.and_eq_true, decide_eq_true_eq, and_true, if_neg, if_pos, block_index ho, hm, hf, Fin.ofNat_val_eq_self]

theorem barRead_errCor (s : State) (k : Fin 7) : barRead s (0x200000 + 8 * k.val) = (s.errCor.get k).setWidth 64 := by
  have hm : (0x200000 + 8 * k.val) % 8 = 0 := by omega
  have hk : (0x200000 + 8 * k.val - 0x200000) / 8 = k.val := by omega
  simp (disch := omega) only [barRead, Bool.and_eq_true, decide_eq_true_eq, and_true, if_neg, if_pos, hm, hk, Fin.ofNat_val_eq_self]

theorem barClear_errCor (s : State) (k : Fin 7) : barClear s (0x200000 + 8 * k.val) = { s with errCor := s.errCor.set k 0 } := by
  have hm : (0x200000 + 8 * k.val) % 8 = 0 := by omega
  have hk : (0x200000 + 8 * k.val - 0x200000) / 8 = k.val := by omega
  simp (disch := omega) only [barClear, Bool.and_eq_true, decide_eq_true_eq, and_true, if_neg, if_pos, hm, hk, Fin.ofNat_val_eq_self]

theorem barRead_errUnc (s : State) (k : Fin 7) : barRead s (0x200040 + 8 * k.val) = (s.errUnc.get k).setWidth 64 := by
  have hm : (0x200040 + 8 * k.val) % 8 = 0 := by omega
  have hk : (0x200040 + 8 * k.val - 0x200040) / 8 = k.val := by omega
  simp (disch := omega) only [barRead, Bool.and_eq_true, decide_eq_true_eq, and_true, if_neg, if_pos, hm, hk, Fin.ofNat_val_eq_self]

theorem barClear_errUnc (s : State) (k : Fin 7) : barClear s (0x200040 + 8 * k.val) = { s with errUnc := s.errUnc.set k 0 } := by
  have hm : (0x200040 + 8 * k.val) % 8 = 0 := by omega
  have hk : (0x200040 + 8 * k.val - 0x200040) / 8 = k.val := by omega
  simp (disch := omega) only [barClear, Bool.and_eq_true, decide_eq_true_eq, and_true, if_neg, if_pos, hm, hk, Fin.ofNat_val_eq_self]

/-- A read of a register without RC fields clears nothing. -/
theorem barClear_plain {s : State} {off : Nat} (hq : ∀ q : Fin 16, off ≠ 0x10020 + 0x1000 * q.val) (hd : off ≠ 0x20028)
    (he : ∀ k : Fin 7, off ≠ 0x200000 + 8 * k.val ∧ off ≠ 0x200040 + 8 * k.val)
    (hp : ∀ (p : Fin 8) (i : Fin 6), s.feat 4 = true → off ≠ 0x100030 + 0x1000 * p.val + 8 * i.val) : barClear s off = s := by
  have queue : ¬ ((0x10000 ≤ off ∧ off < 0x20000) ∧ off % 0x1000 = 0x20) := fun h => hq ⟨(off - 0x10000) / 0x1000, by omega⟩ (by simp only; omega)
  have cor : ¬ ((0x200000 ≤ off ∧ off < 0x200038) ∧ off % 8 = 0) := fun h => (he ⟨(off - 0x200000) / 8, by omega⟩).1 (by simp only; omega)
  have unc : ¬ ((0x200040 ≤ off ∧ off < 0x200078) ∧ off % 8 = 0) := fun h => (he ⟨(off - 0x200040) / 8, by omega⟩).2 (by simp only; omega)
  simp only [barClear, Bool.and_eq_true, decide_eq_true_eq, if_neg queue, if_neg hd, if_neg cor, if_neg unc]
  split
  · next h =>
    obtain ⟨hr, hf⟩ := h
    refine modPort_eq_self ?_
    have counter (i : Nat) (hi : i < 6) : off % 0x1000 ≠ 0x30 + 8 * i := fun ho =>
      hp ⟨(off - 0x100000) / 0x1000, by omega⟩ ⟨i, hi⟩ hf (by simp only; omega)
    simp only [portClear, if_neg (counter 0 (by decide)), if_neg (counter 1 (by decide)), if_neg (counter 2 (by decide)),
      if_neg (counter 3 (by decide)), if_neg (counter 4 (by decide)), if_neg (counter 5 (by decide))]
  · rfl

end Sys2Proof.Laws
end

section
/-! The two registers of the host's window whose writes merge fields: the mailbox nonce (R90) and ALARM (R93). -/

namespace Sys2Proof.Laws

open Sys2Proof Sys2Proof.Machine

/-! ### The mailbox nonce (R90) -/

/-- A write of word k of the nonce sets its 64 bits and leaves the others. -/
theorem getLsbD_writeNonce (s : State) (k : Fin 4) (v : Word) (i : Nat) : (writeNonce s k.val v).nonce.getLsbD i =
    if 64 * k.val ≤ i ∧ i < 64 * k.val + 64 then v.getLsbD (i - 64 * k.val) else s.nonce.getLsbD i := by
  have rest : bytes32 s.nonce = bytesOfNat (8 * k.val + 8 + (24 - 8 * k.val)) s.nonce.toNat := by
    rw [bytes32]; congr 1; omega
  have split : natOfBytes ((bytes32 s.nonce).take (8 * k.val) ++ bytesOfNat 8 v.toNat ++ (bytes32 s.nonce).drop (8 * k.val + 8)) =
      natOfBytes (bytesOfNat (8 * k.val) s.nonce.toNat ++ bytesOfNat 8 v.toNat
        ++ bytesOfNat (24 - 8 * k.val) (s.nonce.toNat / 256 ^ (8 * k.val + 8))) := by
    rw [rest, take_bytesOfNat (by omega), drop_bytesOfNat]
  simp only [writeNonce, split, BitVec.getLsbD_ofNat, testBit_natOfBytes_append, testBit_natOfBytes_bytesOfNat, List.length_append,
    length_bytesOfNat, testBit_div_pow256, BitVec.testBit_toNat]
  rcases Nat.lt_or_ge i (64 * k.val) with hlo | hlo
  · simp (disch := omega) only [if_pos, if_neg, decide_eq_true, Bool.true_and]
  · rcases Nat.lt_or_ge i (64 * k.val + 64) with hhi | hhi
    · have at_ : i - 8 * (8 * k.val) = i - 64 * k.val := by omega
      simp (disch := omega) only [if_pos, if_neg, decide_eq_true, Bool.true_and, at_]
    · have at_ : 8 * (8 * k.val + 8) + (i - 8 * (8 * k.val + 8)) = i := by omega
      have in_ : (i - 8 * (8 * k.val + 8) < 8 * (24 - 8 * k.val)) ↔ i < 256 := by omega
      have top : i < 256 ∨ s.nonce.getLsbD i = false := (Nat.lt_or_ge i 256).imp_right (BitVec.getLsbD_of_ge _ _)
      simp (disch := omega) only [if_neg, at_, in_]
      rcases top with h | h <;> simp [h]

theorem word_writeNonce (s : State) (k j : Fin 4) (v : Word) : (writeNonce s k.val v).nonce.extractLsb' (64 * j.val) 64 =
    if j = k then v else s.nonce.extractLsb' (64 * j.val) 64 := by
  ext i hi
  rw [apply_ite (fun w : Word => w[i])]
  simp only [BitVec.getElem_extractLsb', getLsbD_writeNonce]
  by_cases h : j = k
  · subst h
    rw [if_pos (by omega), if_pos rfl, Nat.add_sub_cancel_left, BitVec.getLsbD_eq_getElem hi]
  · rw [if_neg (by omega), if_neg h]

/-! ### ALARM (R93) -/

/-- ACT of one cause after a write: a reserved code leaves it (log entry 44). -/
def actField (s : State) (v : Word) (c : Nat) : Nat := if bitsAt v (12 + 2 * c) 2 = 3 then s.alarmAct.toNat / 4 ^ c % 4 else bitsAt v (12 + 2 * c) 2

theorem actField_lt (s : State) (v : Word) (c : Nat) : actField s v c < 4 := by
  unfold actField bitsAt
  split <;> exact Nat.mod_lt _ (by decide)

theorem alarmAct_writeAlarm (s : State) (v : Word) : (writeAlarm s v).alarmAct.toNat =
    actField s v 0 + actField s v 1 * 4 + actField s v 2 * 16 + actField s v 3 * 64 := by
  have h0 := actField_lt s v 0
  have h1 := actField_lt s v 1
  have h2 := actField_lt s v 2
  have h3 := actField_lt s v 3
  have sum : (writeAlarm s v).alarmAct =
      BitVec.ofNat 8 (0 + actField s v 0 * 4 ^ 0 + actField s v 1 * 4 ^ 1 + actField s v 2 * 4 ^ 2 + actField s v 3 * 4 ^ 3) := rfl
  rw [sum, BitVec.toNat_ofNat]
  omega

/-- Each cause's two bits of ACT are a field of their own. -/
theorem alarmAct_field (s : State) (v : Word) (c : Fin 4) : (writeAlarm s v).alarmAct.toNat / 4 ^ c.val % 4 = actField s v c.val := by
  have h0 := actField_lt s v 0
  have h1 := actField_lt s v 1
  have h2 := actField_lt s v 2
  have h3 := actField_lt s v 3
  rw [alarmAct_writeAlarm]
  match c with
  | 0 | 1 | 2 | 3 => norm_num; omega

end Sys2Proof.Laws
end

section
/-! The statement of the register window, clause by clause. -/

namespace Sys2Proof.Laws

open Sys2Proof Sys2Proof.Machine

/-! ### Reads -/

/-- A counter of 32 bits reads as the low half of its register. -/
theorem toNat_setWidth64 (c : BitVec 32) : (c.setWidth 64).toNat = c.toNat := BitVec.toNat_setWidth_of_le (by decide)

theorem exec_counterReadClear {s t : State} {off n : Nat} (hc : barClear s off = t) (hr : (barRead s off).toNat = n) :
    exec (.counterReadClear off) s = .next { t with hostRead := bytesOfNat 8 n, hostPois := false } := by
  subst hc hr
  rfl

/-- ERRINDEX, ERRCOUNT and ERRCODE share a register of a queue (R79). -/
theorem toNat_queueRead_err (x : HostQueue) :
    (queueRead x 0x20).toNat = x.errIndex.toNat * 2 ^ 32 + x.errCount.toNat * 2 ^ 16 + x.errCode.toNat := by
  have hi := x.errIndex.isLt
  have hc := x.errCount.isLt
  have he := x.errCode.isLt
  rw [queueRead, if_neg (by decide), if_neg (by decide), if_neg (by decide), if_neg (by decide), if_pos rfl, BitVec.toNat_ofNat]
  omega

/-- The counters of a port, in the order of R48. -/
def portCounters (x : Port) : List (BitVec 32) := [x.eras, x.overs, x.pourCnt, x.absCnt, x.replCnt, x.poisCnt]

theorem toNat_portRead_counter (x : Port) (i : Fin 6) : (portRead x (0x30 + 8 * i.val)).toNat = ((portCounters x).getD i.val 0).toNat := by
  match i with
  | 0 | 1 | 2 | 3 | 4 | 5 => exact toNat_setWidth64 _

theorem exec_read_portCounter {s : State} (hf : s.feat 4 = true) (p : Fin 8) (i : Fin 6) :
    exec (.counterReadClear (0x100030 + 0x1000 * p.val + 8 * i.val)) s = .next
      { s.setPort p (portClear (s.port p) (0x30 + 8 * i.val)) with
        hostRead := bytesOfNat 8 ((portCounters (s.port p)).getD i.val 0).toNat, hostPois := false } := by
  have off : 0x100030 + 0x1000 * p.val + 8 * i.val = 0x100000 + 0x1000 * p.val + (0x30 + 8 * i.val) := by omega
  rw [off]
  refine exec_counterReadClear (barClear_port hf p (by omega)) ?_
  rw [barRead_port hf p (by omega), toNat_portRead_counter]

/-! ### Writes -/

theorem exec_registerWrite {s t : State} {off : Nat} {v : Word} (h : barWrite s off v = t) : exec (.registerWrite off v) s = .next t :=
  congrArg Host.Outcome.next h

theorem modQueue_congr {s : State} {q : Nat} {f g : HostQueue → HostQueue} (h : f (s.queue q) = g (s.queue q)) : s.modQueue q f = s.modQueue q g := by
  rw [State.modQueue, State.modQueue, h]

theorem queueWrite_none (s : State) (q : Nat) {o : Nat} (v : Word) (h0 : o ≠ 0) (h8 : o ≠ 8) (ht : o ≠ 0x10) :
    queueWrite s q o v = s.modQueue q fun x => x := by
  simp only [queueWrite, if_neg h0, if_neg h8, if_neg ht]

/-- A write of a queue's control word (R79): EN needs acceptance, and the other fields are fixed while it is set. -/
theorem queue_queueWrite_ctl (s : State) (q : Nat) (v : Word) : (queueWrite s q 8 v).queue q =
    { (if (s.queue q).en then s.queue q else
        { s.queue q with asid := v.extractLsb' 48 16, capmax := v.extractLsb' 16 32
                         logsz := if v.toNat / 2 ^ 12 % 16 ≤ 12 then v.extractLsb' 12 4 else (s.queue q).logsz }) with
      en := v.getLsbD 0 && ((s.queue q).en || s.featUpperSet) } := by
  simp only [← ofNat_bitsAt]
  exact tget_tset_same ..

theorem queue_queueWrite_other (s : State) {q p : Nat} (o : Nat) (v : Word) (h : p ≠ q) : (queueWrite s q o v).queue p = s.queue p :=
  tget_tset_other _ _ _ h

/-- Settles O31: each offset reaches its register, by the lemmas on `barRead`, `barClear` and `barWrite`. -/
theorem registerWindow : Obligations.RegisterWindow := by
  refine ⟨fun s off hq hd he hp => ?_, fun s k => ⟨?_, ?_⟩, fun s => ?_, fun s q => ?_, ?_, fun s v => ?_, ?_, fun s k v => ?_, fun s p o v ho => ?_,
    ?_, fun s v off h hq hs hp hn _ => ?_⟩
  · exact exec_counterReadClear (barClear_plain hq hd he hp) rfl
  · exact exec_counterReadClear (barClear_errCor s k) (by rw [barRead_errCor, toNat_setWidth64])
  · exact exec_counterReadClear (barClear_errUnc s k) (by rw [barRead_errUnc, toNat_setWidth64])
  · exact exec_counterReadClear (t := { s with hldrop := 0 }) rfl (toNat_setWidth64 _)
  · exact exec_counterReadClear (barClear_queueErr s q) (by rw [barRead_queueErr, toNat_queueRead_err])
  · rintro s p i hf x rfl
    rw [exec_read_portCounter hf p i]
    match i with
    | 0 | 1 | 2 | 3 | 4 | 5 => rfl
  · refine ⟨rfl, rfl, rfl, ?_, rfl, rfl, rfl, rfl, fun hf k => ?_, fun hf k => ?_⟩
    · refine exec_registerWrite (congrArg (signalEvent s) ?_)
      rw [bitsAt, Nat.pow_zero, Nat.div_one]
    · exact exec_registerWrite (by rw [barWrite_nonce, hf]; rfl)
    · exact ⟨writeNonce s k.val v, exec_registerWrite (by rw [barWrite_nonce, if_pos hf]), rfl, fun j => word_writeNonce s k j v⟩
  · rintro s q v x rfl
    have at_ (o : Nat) (ho : o < 0x1000) : exec (.registerWrite (0x10000 + 0x1000 * q.val + o) v) s = .next (queueWrite s q.val o v) :=
      exec_registerWrite (barWrite_queue s q ho v)
    have ctl : (0x10008 + 0x1000 * q.val) = 0x10000 + 0x1000 * q.val + 8 := by omega
    have tail : (0x10010 + 0x1000 * q.val) = 0x10000 + 0x1000 * q.val + 0x10 := by omega
    rw [ctl, tail]
    refine ⟨fun he => ?_, fun he => ?_, at_ 0x10 (by decide), fun o ho h0 h8 ht => ?_, queueWrite s q.val 8 v, at_ 8 (by decide), rfl,
      fun p hp => queue_queueWrite_other s 8 v hp, ?_⟩
    · exact (at_ 0 (by decide)).trans (congrArg Host.Outcome.next (modQueue_congr (by rw [he]; rfl)))
    · exact (at_ 0 (by decide)).trans (congrArg Host.Outcome.next (modQueue_congr (by rw [he]; rfl)))
    · rw [at_ o ho, queueWrite_none s q.val v h0 h8 ht]
    · rw [queue_queueWrite_ctl]
      cases he : (s.queue q.val).en <;> simp [he]
  · refine ⟨?_, ?_, fun o ho h0 h8 => ?_⟩
    · exact exec_registerWrite (barWrite_slot s k (o := 0) (by decide) v)
    · have off : 0x21008 + 16 * k.val = 0x21000 + 16 * k.val + 8 := by omega
      rw [off]
      exact exec_registerWrite (barWrite_slot s k (o := 8) (by decide) v)
    · exact exec_registerWrite (by rw [barWrite_slot s k ho, if_neg h0, if_neg h8])
  · exact ⟨fun hf => exec_registerWrite (by rw [barWrite_port s p ho, if_pos hf]), fun hf => exec_registerWrite (by rw [barWrite_port s p ho, hf]; rfl)⟩
  · rintro s v t rfl
    refine ⟨?_, alarmAct_field s v⟩
    rw [← ofNat_bitsAt]
    rfl
  · exact exec_registerWrite (barWrite_unlisted s v h hq hs hp hn)

end Sys2Proof.Laws
end

section
/-! System registers (R10, R159, R160, R429 to R433): the checks of an access, in their order, and what SRD, SWR, TBR and PMCR then do. -/

namespace Sys2Proof.Laws

open Sys2Proof Sys2Proof.Machine

/-! ### The checks of an access (R429) -/

section
variable {s : State} {n : Nat} {write : Bool}

theorem sysCheck_unknown (h : sysKnown n = false) : sysCheck s n write = .error (.raise fIllop id) := by
  simp [sysCheck, h]

theorem sysCheck_firmware (hk : sysKnown n = true) (ht : isTile s.focus = true) (hn : n = 0x224 ∨ 0x230 ≤ n) :
    sysCheck s n write = .error (.raise (fPriv 32) id) := by
  have firmware : sysFirmware n = true := by simpa [sysFirmware, hk] using hn
  simp [sysCheck, hk, ht, firmware]

theorem sysCheck_global (ht : isTile s.focus = false) (hf : s.focus ≠ globalKey) (hn : n = 0x224 ∨ n = 0x310 ∨ n = 0x320) :
    sysCheck s n write = .error (.raise (fPriv 32) id) := by
  have known : sysKnown n = true := by rcases hn with rfl | rfl | rfl <;> decide
  have global : sysGlobal n = true := by simpa [sysGlobal, or_assoc] using hn
  have other : (s.focus != globalKey) = true := bne_iff_ne.mpr hf
  simp [sysCheck, known, ht, global, other]

/-- Numbers that every agent reads, and whose SWR no rule of place forbids. -/
def sysOpen (n : Nat) : Bool := sysKnown n && !sysFirmware n && !sysGlobal n

theorem sysCheck_readOnly (ho : sysOpen n = true) (hr : sysReadOnly n = true) : sysCheck s n true = .error (.raise (fPriv 0) id) := by
  simp only [sysOpen, Bool.and_eq_true, Bool.not_eq_true'] at ho
  obtain ⟨⟨known, firmware⟩, global⟩ := ho
  simp [sysCheck, known, firmware, global, hr]

theorem sysCheck_cap {b : Nat} (ho : sysOpen n = true) (hr : sysReadOnly n = false) (hc : sysCap n = some b)
    (hb : s.cur.cap.getLsbD b = false) : sysCheck s n true = .error (.raise (fPriv b) id) := by
  simp only [sysOpen, Bool.and_eq_true, Bool.not_eq_true'] at ho
  obtain ⟨⟨known, firmware⟩, global⟩ := ho
  simp [sysCheck, known, firmware, global, hr, hc, needCap_missing hb]

end

/-! ### What a failed check raises -/

theorem exec_srd (c : Com) (d : Dst) (n : BitVec 12) (s : State) : exec (.srd c d n) s = issueFall .any c s (fun s => do
    sysCheck s n.toNat false
    waitFor (n ≠ 0 || !statusBusy s)
    writeDst (if n = 0x311 then clearStalls s else s) d (sysRead s n.toNat)) := rfl

theorem exec_swr (c : Com) (n : BitVec 12) (a : Use Src) (s : State) : exec (.swr c n a) s = issue .any c s (fun s => do
    sysCheck s n.toNat true
    waitFor (n ≠ 0 || !statusBusy s)
    let (v, s) ← readSrc s a.r
    return (sysWrite s n.toNat v,
      if n = 0x320 && v.getLsbD 8 && lcAllowed s.fuses (BitVec.ofNat 2 (bitsAt v 0 2)) then .placed else .fall)) := rfl

theorem srd_raises {s : State} {c : Com} {d : Dst} {n : BitVec 12} {f : FaultInfo} (h : Ready .any c s)
    (hc : sysCheck s n.toNat false = .error (.raise f id)) : exec (.srd c d n) s = .next (takeFault s s.focus s.act f) := by
  rw [exec_srd]
  exact issueFall_raises (k := id) h (by rw [hc]; rfl)

theorem swr_raises {s : State} {c : Com} {n : BitVec 12} {a : Use Src} {f : FaultInfo} (h : Ready .any c s)
    (hc : sysCheck s n.toNat true = .error (.raise f id)) : exec (.swr c n a) s = .next (takeFault s s.focus s.act f) := by
  rw [exec_swr]
  exact issue_raises (k := id) h (by rw [hc]; rfl)

/-! ### What an allowed access does -/

/-- Only an access to STATUS waits for work that may set its flags. -/
theorem status_waited {s : State} {n : BitVec 12} (h : n = 0 → statusBusy s = false) : waitFor (n ≠ 0 || !statusBusy s) = .ok () := by
  by_cases hn : n = 0
  · rw [h hn, Bool.not_false, Bool.or_true, waitFor_true]
  · rw [decide_eq_true hn, Bool.true_or, waitFor_true]

theorem srd_completes {s t : State} {c : Com} {d : Dst} {n : BitVec 12} (h : Ready .any c s) (hc : sysCheck s n.toNat false = .ok ())
    (hs : n = 0 → statusBusy s = false) (hd : writeDst (if n = 0x311 then clearStalls s else s) d (sysRead s n.toNat) = .ok t) :
    exec (.srd c d n) s = .next (completed s t) := by
  rw [exec_srd]
  exact issueFall_completes h (by rw [hc, exec_bind_ok, status_waited hs]; exact hd)

theorem swr_completes {s s1 : State} {c : Com} {n : BitVec 12} {a : Use Src} {v : Word} (h : Ready .any c s)
    (hc : sysCheck s n.toNat true = .ok ()) (hs : n = 0 → statusBusy s = false) (ha : readSrc s a.r = .ok (v, s1))
    (hl : n ≠ 0x320 ∨ v.getLsbD 8 = false ∨ lcAllowed s.fuses (BitVec.ofNat 2 (v.toNat % 4)) = false) :
    exec (.swr c n a) s = .next (completed s (sysWrite s1 n.toNat v)) := by
  have fuses : s1.fuses = s.fuses := by obtain ⟨cores, rfl⟩ := readSrc_frame ha; rfl
  have stays : ¬ (n = 0x320 && v.getLsbD 8 && lcAllowed s1.fuses (BitVec.ofNat 2 (bitsAt v 0 2))) = true := by
    rw [fuses, bitsAt, Nat.pow_zero, Nat.div_one]
    simp only [Bool.and_eq_true, decide_eq_true_eq]
    rintro ⟨⟨hn, hv⟩, ha⟩
    rcases hl with hl | hl | hl
    · exact hl hn
    · exact absurd hv (Bool.eq_false_iff.mp hl)
    · exact absurd ha (Bool.eq_false_iff.mp hl)
  rw [exec_swr]
  refine issue_completes h ?_
  rw [hc, exec_bind_ok, status_waited hs, exec_bind_ok, ha, exec_bind_ok]
  exact congrArg (fun f => Except.ok (sysWrite s1 n.toNat v, f)) (if_neg stays)

theorem tbr_completes {s t : State} {c : Com} {d : Dst} (h : Ready .any c s) (hd : writeDst s d (BitVec.ofNat 64 (s.tbOf s.myCluster)) = .ok t) :
    exec (.tbr c d) s = .next (completed s t) := by
  rw [show exec (.tbr c d) s = issueFall .any c s fun s => writeDst s d (BitVec.ofNat 64 (s.tbOf s.myCluster)) from rfl]
  exact issueFall_completes h hd

theorem exec_pmcr (c : Com) (d : Dst) (a : Use Src) (k : Fin 8) (clr : Bool) (s : State) : exec (.pmcr c d a k clr) s = issueFall .any c s (fun s => do
    needCap s 4
    let (x, s) ← readSrc s a.r
    let key := coreAt s.myCluster (x.toNat % 64)
    if 80 ≤ s.myCluster then writeDst s d 0
    else
      let v := (s.core key).pmc.get k
      let s := if clr then s.modCore key fun c => { c with pmc := c.pmc.set k 0 } else s
      writeDst s d (v.setWidth 64)) := rfl

theorem pmcr_completes {s s1 t : State} {c : Com} {d : Dst} {a : Use Src} {k : Fin 8} {clr : Bool} {x : Word} (h : Ready .any c s)
    (hp : s.cur.cap.getLsbD 4 = true) (ha : readSrc s a.r = .ok (x, s1)) (hcl : s.myCluster < 80)
    (hd : writeDst (if clr then s1.modCore (coreAt s.myCluster (x.toNat % 64)) (fun q => { q with pmc := q.pmc.set k 0 }) else s1) d
      (((s1.core (coreAt s.myCluster (x.toNat % 64))).pmc.get k).setWidth 64) = .ok t) : exec (.pmcr c d a k clr) s = .next (completed s t) := by
  have cluster : s1.myCluster = s.myCluster := by obtain ⟨cores, rfl⟩ := readSrc_frame ha; rfl
  rw [exec_pmcr]
  refine issueFall_completes h ?_
  rw [needCap_held hp, exec_bind_ok, ha, exec_bind_ok]
  simp only [cluster, if_neg (Nat.not_le.mpr hcl)]
  exact hd

/-! ### Values of some registers -/

theorem sysRead_rdesc (s : State) (k : Fin 16) : sysRead s (0x20 + k.val) = s.me.rdesc.get k := by
  simp (disch := omega) only [sysRead, if_neg, if_pos, Nat.add_sub_cancel_left, Fin.ofNat_val_eq_self]

theorem sysRead_pmcsel (s : State) (k : Fin 8) : sysRead s (0x100 + k.val) = s.me.pmcsel.get k := by
  simp (disch := omega) only [sysRead, if_neg, if_pos, Nat.add_sub_cancel_left, Fin.ofNat_val_eq_self]

theorem sysRead_dommap (s : State) (k : Fin 3) : sysRead s (0x238 + k.val) = s.dommap.get k := by
  simp (disch := omega) only [sysRead, if_neg, if_pos, Nat.add_sub_cancel_left, Fin.ofNat_val_eq_self]

theorem sysWrite_mxcfg (s : State) (v : Word) : sysWrite s 0x214 v =
    s.modMe fun k => k.writeMxcfg (BitVec.ofNat 16 (v.toNat / 2 ^ 16)) (BitVec.ofNat 4 v.toNat) := by
  have seq : BitVec.ofNat 16 (bitsAt v 16 16) = BitVec.ofNat 16 (v.toNat / 2 ^ 16) := BitVec.eq_of_toNat_eq (by simp [bitsAt])
  have depth : BitVec.ofNat 4 (bitsAt v 0 4) = BitVec.ofNat 4 v.toNat := BitVec.eq_of_toNat_eq (by simp [bitsAt])
  rw [← seq, ← depth]
  rfl

/-- Settles O21: an access completes where its checks pass, and raises what the first check that fails gives. -/
theorem systemRegisterAccesses : Obligations.SystemRegisterAccesses := by
  refine ⟨⟨fun s t c d n h hc hs hd => srd_completes h hc hs hd, fun s s1 c n a v h hc hs ha hl => swr_completes h hc hs ha hl, fun s => ?_,
    fun s v => ⟨rfl, rfl, sysWrite_mxcfg s v⟩, fun s t c d h hd => tbr_completes h hd,
    fun s s1 t c d a k clr x h hp ha hcl hd => pmcr_completes h hp ha hcl hd⟩, fun s c d a n h => ⟨fun hn => ?_, fun hn ht hf => ?_, fun ht hf hn => ?_,
    fun hn => ?_, fun hn hb => ?_, fun h1 h2 hb => ?_, fun hn hb => ?_⟩⟩
  · exact ⟨rfl, rfl, rfl, rfl, sysRead_rdesc s, sysRead_pmcsel s, sysRead_dommap s, rfl⟩
  · exact ⟨srd_raises h (sysCheck_unknown hn), swr_raises h (sysCheck_unknown hn)⟩
  · have place : n.toNat = 0x224 ∨ 0x230 ≤ n.toNat := hf.imp_left (congrArg BitVec.toNat)
    exact ⟨srd_raises h (sysCheck_firmware hn ht place), swr_raises h (sysCheck_firmware hn ht place)⟩
  · have place : n.toNat = 0x224 ∨ n.toNat = 0x310 ∨ n.toNat = 0x320 := hn.imp (congrArg BitVec.toNat) (.imp (congrArg BitVec.toNat) (congrArg BitVec.toNat))
    exact ⟨srd_raises h (sysCheck_global ht hf place), swr_raises h (sysCheck_global ht hf place)⟩
  · have readOnly : sysOpen n.toNat = true ∧ sysReadOnly n.toNat = true := by rcases hn with rfl | rfl | rfl | rfl | rfl <;> decide
    exact swr_raises h (sysCheck_readOnly readOnly.1 readOnly.2)
  · have needs : sysOpen n.toNat = true ∧ sysReadOnly n.toNat = false ∧ sysCap n.toNat = some 3 := by rcases hn with rfl | rfl | rfl <;> decide
    exact swr_raises h (sysCheck_cap needs.1 needs.2.1 needs.2.2 hb)
  · have needs : sysOpen n.toNat = true ∧ sysReadOnly n.toNat = false ∧ sysCap n.toNat = some 4 := by
      generalize n.toNat = m at h1 h2
      interval_cases m <;> decide
    exact swr_raises h (sysCheck_cap needs.1 needs.2.1 needs.2.2 hb)
  · have needs : sysOpen n.toNat = true ∧ sysReadOnly n.toNat = false ∧ sysCap n.toNat = some 1 := by subst hn; decide
    exact swr_raises h (sysCheck_cap needs.1 needs.2.1 needs.2.2 hb)

end Sys2Proof.Laws
end

section
/-! Throttles, frequency requests, domain switches, ramps and the timebase (R23, R141, R145 to R151). -/

namespace Sys2Proof.Laws

open Sys2Proof Sys2Proof.Machine

/-! ### Clusters and regulators read back -/

@[simp] theorem cluster_modCluster_same (s : State) (cl : Nat) (f : Cluster → Cluster) : (s.modCluster cl f).cluster cl = f (s.cluster cl) :=
  tget_tset_same ..

theorem cluster_modCluster_other (s : State) {cl i : Nat} (f : Cluster → Cluster) (h : i ≠ cl) : (s.modCluster cl f).cluster i = s.cluster i :=
  tget_tset_other _ _ _ h

theorem get_set_other {α : Type} {n : Nat} (v : Vector α n) {i j : Fin n} (a : α) (h : j ≠ i) : (v.set i a).get j = v.get j :=
  Vector.getElem_set_ne _ _ fun he => h (Fin.ext he.symm)

theorem set_get_self {α : Type} {n : Nat} (v : Vector α n) (i : Fin n) : v.set i (v.get i) = v := by
  rw [Vector.get_eq_getElem, Vector.set_getElem_self]

theorem modReg_eq_set {s : State} {d : Fin 4} {f : Regulator → Regulator} {x : Regulator} (h : f (s.regs.get d) = x) :
    s.modReg d f = { s with regs := s.regs.set d x } := by
  rw [State.modReg, h]

/-- A change that leaves the regulator as it is leaves the state. -/
theorem modReg_eq_self {s : State} {d : Fin 4} {f : Regulator → Regulator} (h : f (s.regs.get d) = s.regs.get d) : s.modReg d f = s := by
  rw [modReg_eq_set h, set_get_self]

/-- A sequence of writes of single entries, each of which does the same at its entry however often it comes, writes the entries that it names. -/
theorem foldl_writes {σ β : Type} {inv : σ → Prop} {view : σ → Nat → β} {write : σ → Nat → σ} {f : Nat → β → β}
    (keeps : ∀ s a, inv s → inv (write s a)) (writes : ∀ s a, inv s → ∀ b, view (write s a) b = if b = a then f b (view s b) else view s b)
    (idem : ∀ b x, f b (f b x) = f b x) (l : List Nat) (s : σ) (h : inv s) :
    inv (l.foldl write s) ∧ ∀ b, view (l.foldl write s) b = if b ∈ l then f b (view s b) else view s b := by
  induction l generalizing s with
  | nil => exact ⟨h, fun b => rfl⟩
  | cons a l ih =>
    obtain ⟨kept, written⟩ := ih (write s a) (keeps s a h)
    refine ⟨kept, fun b => ?_⟩
    rw [List.foldl_cons, written, writes s a h]
    by_cases hb : b = a <;> by_cases hl : b ∈ l <;> simp [hb, hl, idem]

/-! ### Throttle reasons (R149) -/

theorem cluster_throttled_same (s : State) (cl b : Nat) :
    (throttled s cl b).cluster cl = { s.cluster cl with thrrsn := (s.cluster cl).thrrsn ||| BitVec.ofNat 5 (2 ^ b) } :=
  cluster_modCluster_same ..

theorem cluster_throttled_other (s : State) {cl i : Nat} (b : Nat) (h : i ≠ cl) : (throttled s cl b).cluster i = s.cluster i :=
  cluster_modCluster_other _ _ h

/-- The bits of these reasons set in a value of THRRSN. -/
def withReasons (bs : List Nat) (w : BitVec 5) : BitVec 5 := bs.foldl (fun w b => w ||| BitVec.ofNat 5 (2 ^ b)) w

theorem withReasons_eq_or (bs : List Nat) (w : BitVec 5) : withReasons bs w = w ||| withReasons bs 0#5 := by
  induction bs generalizing w with
  | nil => exact (BitVec.or_zero).symm
  | cons b bs ih =>
    have step (v : BitVec 5) : withReasons (b :: bs) v = withReasons bs (v ||| BitVec.ofNat 5 (2 ^ b)) := rfl
    rw [step, step, ih, ih (0#5 ||| _), BitVec.zero_or, BitVec.or_assoc]

theorem withReasons_idem (bs : List Nat) (w : BitVec 5) : withReasons bs (withReasons bs w) = withReasons bs w := by
  rw [withReasons_eq_or bs (withReasons bs w), withReasons_eq_or bs w, BitVec.or_assoc, BitVec.or_self]

/-- Throttles of one cluster, for these reasons. -/
def throttledFor (bs : List Nat) (s : State) (cl : Nat) : State := bs.foldl (fun s b => throttled s cl b) s

theorem throttledFor_result (bs : List Nat) (s : State) (cl : Nat) : ∃ clusters, throttledFor bs s cl = { s with clusters }
    ∧ ∀ i, ((throttledFor bs s cl).cluster i).thrrsn = if i = cl then withReasons bs (s.cluster i).thrrsn else (s.cluster i).thrrsn := by
  induction bs generalizing s with
  | nil => exact ⟨s.clusters, rfl, fun i => (ite_self _).symm⟩
  | cons b bs ih =>
    obtain ⟨clusters, frame, reasons⟩ := ih (throttled s cl b)
    refine ⟨clusters, frame, fun i => (reasons i).trans ?_⟩
    by_cases h : i = cl
    · subst h
      rw [if_pos rfl, if_pos rfl, cluster_throttled_same]
      rfl
    · rw [if_neg h, if_neg h, cluster_throttled_other _ _ h]

theorem mem_clustersOf {s : State} {d : Fin 4} {cl : Nat} : cl ∈ clustersOf s d ↔ cl < 80 ∧ domOf s cl = d := by
  simp [clustersOf]

/-- A throttle of a domain, for reasons that its marks do not change, writes THRRSN of the domain's clusters and nothing else. -/
theorem throttleDomain_result (s u : State) (d : Fin 4) {reasons : State → List Nat}
    (fixed : ∀ clusters, reasons { u with clusters } = reasons u) : ∃ clusters,
    (clustersOf s d).foldl (fun t cl => throttledFor (reasons t) t cl) u = { u with clusters }
    ∧ ∀ cl, (tget ({} : Cluster) clusters cl).thrrsn =
      if cl < 80 ∧ domOf s cl = d then withReasons (reasons u) (u.cluster cl).thrrsn else (u.cluster cl).thrrsn := by
  have keeps (t : State) (cl : Nat) : (∃ clusters, t = { u with clusters }) → ∃ clusters, throttledFor (reasons t) t cl = { u with clusters } := by
    rintro ⟨_, rfl⟩
    obtain ⟨clusters, frame, -⟩ := throttledFor_result (reasons _) _ cl
    exact ⟨clusters, frame⟩
  have writes (t : State) (cl : Nat) : (∃ clusters, t = { u with clusters }) → ∀ i, ((throttledFor (reasons t) t cl).cluster i).thrrsn =
      if i = cl then withReasons (reasons u) (t.cluster i).thrrsn else (t.cluster i).thrrsn := by
    rintro ⟨clusters, rfl⟩
    obtain ⟨-, -, marked⟩ := throttledFor_result (reasons { u with clusters }) { u with clusters } cl
    rwa [fixed] at marked ⊢
  obtain ⟨⟨clusters, frame⟩, marked⟩ := foldl_writes (view := fun t i => (t.cluster i).thrrsn) keeps writes
    (fun _ => withReasons_idem (reasons u)) (clustersOf s d) u ⟨u.clusters, rfl⟩
  rw [frame] at marked
  exact ⟨clusters, frame, fun cl => (marked cl).trans (if_congr mem_clustersOf rfl rfl)⟩

/-! ### Frequency (R147, R148) -/

theorem mem_lowerReasons {s : State} {c b : Nat} (h : b ∈ lowerReasons s c) : b = 3 ∨ (b = 4 ∧ c ≤ 15) := by
  rcases List.mem_append.mp h with h | h
  · exact .inl (by simpa using (List.mem_ite_nil_right.mp h).2)
  · obtain ⟨hc, hb⟩ := List.mem_ite_nil_right.mp h
    simp only [Bool.and_eq_true, decide_eq_true_eq] at hc
    exact .inr ⟨List.mem_singleton.mp hb, hc.2⟩

/-- A regulator that takes a request for this frequency code. -/
def requested (r : Regulator) (c : Nat) : Regulator :=
  { r with fcode := BitVec.ofNat 5 c, fnew := BitVec.ofNat 5 c, vt := voltageFor c
           f := if c < r.f.toNat ∨ voltageFor c * 100 ≤ r.v then BitVec.ofNat 5 c else r.f }

theorem bitsAt_code (v : Word) : bitsAt v 0 5 = v.toNat % 32 :=
  congrArg (· % 32) (Nat.div_one _)

theorem requestFreq_reserved {s : State} {d : Fin 4} {v : Word} (h : v.toNat % 32 < 5 ∨ 18 < v.toNat % 32) : requestFreq s d v = s := by
  refine if_neg ?_
  rw [bitsAt_code, Bool.and_eq_true, decide_eq_true_eq, decide_eq_true_eq]
  omega

/-- A valid request: the regulator takes it, and a lower one marks the clusters of its domain. -/
theorem requestFreq_result {s : State} {d : Fin 4} {v : Word} {c : Nat} (hc : c = v.toNat % 32) (lo : 5 ≤ c) (hi : c ≤ 18) : ∃ clusters,
    requestFreq s d v = { s with clusters, regs := s.regs.set d (requested (s.regs.get d) c) }
    ∧ ((s.regs.get d).fcode.toNat ≤ c → clusters = s.clusters)
    ∧ ∀ cl, (tget ({} : Cluster) clusters cl).thrrsn = if c < (s.regs.get d).fcode.toNat ∧ cl < 80 ∧ domOf s cl = d then
        withReasons (lowerReasons s c) (s.cluster cl).thrrsn else (s.cluster cl).thrrsn := by
  have valid : (decide (5 ≤ c) && decide (c ≤ 18)) = true := by simp [lo, hi]
  obtain ⟨clusters, marks, reasons⟩ := throttleDomain_result s s d (reasons := fun t => lowerReasons t c) fun _ => rfl
  have request : requestFreq s d v = (if c < (s.regs.get d).fcode.toNat then
      (clustersOf s d).foldl (fun t cl => throttledFor (lowerReasons t c) t cl) s else s).modReg d (requested · c) := by
    simp only [requestFreq, bitsAt_code, ← hc, if_pos valid, Bool.or_eq_true, decide_eq_true_eq]
    rfl
  by_cases lower : c < (s.regs.get d).fcode.toNat
  · rw [if_pos lower, marks] at request
    exact ⟨clusters, request, fun h => absurd lower (Nat.not_lt.mpr h), fun cl => by simpa only [lower, true_and] using reasons cl⟩
  · rw [if_neg lower] at request
    exact ⟨s.clusters, request, fun _ => rfl, fun cl => (if_neg fun h => lower h.1).symm⟩

theorem settle_reached {r : Regulator} (h : r.vt * 100 ≤ r.v) : r.settle = { r with f := r.fnew } := if_pos h

theorem settle_below {r : Regulator} (h : r.v < r.vt * 100) : r.settle = r := if_neg (Nat.not_le.mpr h)

/-- Settling changes the present frequency alone. -/
theorem settle_eq (r : Regulator) : r.settle = { r with f := if r.vt * 100 ≤ r.v then r.fnew else r.f } := by
  by_cases h : r.vt * 100 ≤ r.v
  · rw [settle_reached h, if_pos h]
  · rw [settle_below (Nat.not_le.mp h), if_neg h]

/-- A regulator's voltage after d ns: 10 mV a µs towards its target, and no further. -/
theorem v_passReg (d : Nat) (b : Bool) (r : Regulator) :
    (passReg d b r).v = if r.v < r.vt * 100 then min (r.vt * 100) (r.v + d) else max (r.vt * 100) (r.v - d) := by
  rw [passReg, settle_eq]

theorem passReg_result (d : Nat) (b : Bool) (r : Regulator) :
    (passReg d b r).vt = r.vt ∧ ((passReg d b r).slewHold = true ↔ r.slewHold = true ∧ b = false)
    ∧ (r.v ≤ r.vt * 100 → (passReg d b r).v = min (r.vt * 100) (r.v + d)) ∧ (r.vt * 100 ≤ r.v → (passReg d b r).v = max (r.vt * 100) (r.v - d))
    ∧ ((passReg d b r).f = if r.vt * 100 ≤ (passReg d b r).v then r.fnew else r.f) := by
  refine ⟨?_, ?_, fun h => ?_, fun h => ?_, ?_⟩
  · rw [passReg, settle_eq]
  · rw [passReg, settle_eq]; simp
  · rw [v_passReg]; split <;> omega
  · rw [v_passReg, if_neg (Nat.not_lt.mpr h)]
  · rw [passReg, settle_eq]

/-! ### Domain switches (R145) -/

theorem switchDue_eq_true {s : State} {cl : Nat} (hcl : cl < 80) (hd : domField s cl ≠ domOf s cl) (hs : (s.cluster cl).switchUntil = none)
    (hi : clusterIdle s cl = true) : switchDue s cl = true := by
  simp [switchDue, hcl, hd, hs, hi]

theorem switchDue_eq_false {s : State} {cl : Nat} (h : domField s cl = domOf s cl ∨ clusterIdle s cl = false) : switchDue s cl = false := by
  rcases h with h | h <;> simp [switchDue, h]

theorem domOf_modCluster_same (s : State) (cl : Nat) (f : Cluster → Cluster) :
    domOf (s.modCluster cl f) cl = (f (s.cluster cl)).dom.getD (Fin.ofNat 4 (cl / 20)) := by
  rw [domOf, cluster_modCluster_same]

theorem clockStopped_modCluster_same (s : State) (cl : Nat) (f : Cluster → Cluster) :
    clockStopped (s.modCluster cl f) cl = (f (s.cluster cl)).switchUntil.isSome := by
  rw [clockStopped, cluster_modCluster_same]

theorem switchEnds_due {s : State} {cl t : Nat} (h : (s.cluster cl).switchUntil = some t) (ht : t ≤ s.tb) :
    switchEnds s cl = s.modCluster cl fun c => { c with switchUntil := none } := by
  simp [switchEnds, h, ht]

theorem switchEnds_early {s : State} {cl t : Nat} (h : (s.cluster cl).switchUntil = some t) (ht : s.tb < t) : switchEnds s cl = s := by
  simp [switchEnds, h, Nat.not_le.mpr ht]

/-! ### Ramps and the slew limit (R141, R146) -/

theorem rise_steps {q : Quad} {r : Regulator} (hl : q.level < 16) (hs : q.rampLeft = 0) (hold : r.slewHold = false)
    (hc : r.current = false ∨ q.level < 12) : q.rise r = { q with level := q.level + 1, rampLeft := 16 * q.rampStep } := by
  rcases hc with hc | hc <;> simp [Quad.rise, rampHeld, hl, hs, hold, hc]

theorem rise_stays {q : Quad} {r : Regulator} (h : q.rampLeft ≠ 0 ∨ r.slewHold = true ∨ (r.current = true ∧ 12 ≤ q.level)) : q.rise r = q := by
  rcases h with h | h | ⟨hc, hl⟩
  · simp [Quad.rise, h]
  · simp [Quad.rise, rampHeld, h]
  · simp [Quad.rise, rampHeld, hc, hl]

/-- A quad of a cluster lies in that cluster, and in no other (R18). -/
theorem clusterOf_quadsOf {cl q : Nat} (hcl : cl < 80) (hq : q ∈ quadsOf cl) : clusterOf (q * 4) = cl := by
  obtain ⟨k, hk, rfl⟩ := List.mem_map.mp hq
  have hk := List.mem_range.mp hk
  unfold quadOf coreAt clusterOf
  split <;> omega

/-- The step length of a slew ramp in a cluster, in units of 16 cycles: its tower's RSTEP, and at least 1. -/
def slewStep (s : State) (cl : Nat) : Nat := max 1 (s.rstepOf (towerOfCluster cl)).toNat

/-- A quad that drops to level 8 and climbs from there. -/
def dropped (step : Nat) (q : Quad) : Quad := { q with level := 8, rampStep := step, rampPhase := 0, rampLeft := 16 * step }

/-- The quads of some clusters drop. -/
def dropClusters (cls : List Nat) (s : State) : State :=
  cls.foldl (fun s c => (quadsOf c).foldl (fun s q => s.modQuad q (dropped (slewStep s c))) s) s

/-- A quad drops, to climb with the step length of its own cluster. -/
def dropQuad (s : State) (q : Nat) : State := s.modQuad q (dropped (slewStep s (clusterOf (q * 4))))

/-- As each quad lies in one cluster, the drop of clusters is a sequence of drops of single quads. -/
theorem dropClusters_eq {cls : List Nat} (h : ∀ c ∈ cls, c < 80) (s : State) : dropClusters cls s = (cls.flatMap quadsOf).foldl dropQuad s := by
  rw [List.foldl_flatMap]
  refine List.foldl_ext _ _ _ fun t c hc => List.foldl_ext _ _ _ fun t q hq => ?_
  rw [dropQuad, clusterOf_quadsOf (h c hc) hq]

theorem dropClusters_result {cls : List Nat} (h : ∀ c ∈ cls, c < 80) (u : State) : ∃ quads, dropClusters cls u = { u with quads }
    ∧ ∀ cl ∈ cls, ∀ q ∈ quadsOf cl, tget {} quads q = dropped (slewStep u cl) (u.quad q) := by
  have keeps (t : State) (q : Nat) : (∃ quads, t = { u with quads }) → ∃ quads, dropQuad t q = { u with quads } := by
    rintro ⟨quads, rfl⟩
    exact ⟨_, rfl⟩
  have writes (t : State) (q : Nat) : (∃ quads, t = { u with quads }) → ∀ i, (dropQuad t q).quad i =
      if i = q then dropped (slewStep u (clusterOf (i * 4))) (t.quad i) else t.quad i := by
    rintro ⟨quads, rfl⟩ i
    split
    · next hi => subst hi; exact State.quad_setQuad_same ..
    · next hi => exact State.quad_setQuad_other _ _ hi
  obtain ⟨⟨quads, frame⟩, drops⟩ := foldl_writes keeps writes (fun _ _ => rfl) (cls.flatMap quadsOf) u ⟨u.quads, rfl⟩
  rw [← dropClusters_eq h] at frame drops
  refine ⟨quads, frame, fun cl hcl q hq => ?_⟩
  have drop := drops q
  rwa [frame, if_pos (List.mem_flatMap.mpr ⟨cl, hcl, hq⟩), clusterOf_quadsOf (h cl hcl) hq] at drop

/-- Every quad of a domain runs at full rate. -/
def fullRate (s : State) (d : Fin 4) : Bool := (clustersOf s d).all fun c => (quadsOf c).all fun q => (s.quad q).level == 16

theorem fullRate_iff {s : State} {d : Fin 4} : fullRate s d = true ↔ ∀ cl ∈ clustersOf s d, ∀ q ∈ quadsOf cl, (s.quad q).level = 16 := by
  simp [fullRate]

/-- No quad of the domain raises its level until the next sample. -/
def slewHeld (s : State) (d : Fin 4) : State := s.modReg d fun r => { r with slewHold := true }

/-- A sample above SLEWLIM: the reasons are marked, the levels held, and the quads of a domain at full rate drop. -/
theorem execSlewExceed_result {s : State} {d : Fin 4} (hf : s.feat 7 = true) (hl : (s.regs.get d).lim ≠ 0) : ∃ clusters quads,
    execSlewExceed d s = .next { s with clusters, quads, regs := s.regs.set d { s.regs.get d with slewHold := true } }
    ∧ (∀ cl, (tget ({} : Cluster) clusters cl).thrrsn = if cl < 80 ∧ domOf s cl = d then (s.cluster cl).thrrsn ||| 4 else (s.cluster cl).thrrsn)
    ∧ (fullRate s d = true → ∀ cl ∈ clustersOf s d, ∀ q ∈ quadsOf cl, tget {} quads q = dropped (slewStep s cl) (s.quad q))
    ∧ (fullRate s d = false → quads = s.quads) := by
  obtain ⟨clusters, marks, reasons⟩ := throttleDomain_result s (slewHeld s d) d (reasons := fun _ => [2]) fun _ => rfl
  have above : ¬ (decide ((s.regs.get d).lim = 0) || !s.feat 7) = true := by
    rw [hf, decide_eq_false hl]
    exact Bool.false_ne_true
  have exceed : execSlewExceed d s = .next (if fullRate s d then dropClusters (clustersOf s d) { slewHeld s d with clusters }
      else { slewHeld s d with clusters }) := by
    rw [← marks]
    exact congrArg Host.Outcome.next (if_neg above)
  cases full : fullRate s d with
  | true =>
    obtain ⟨quads, frame, drops⟩ := dropClusters_result (fun c hc => (mem_clustersOf.mp hc).1) { slewHeld s d with clusters }
    rw [full, if_pos rfl, frame] at exceed
    exact ⟨clusters, quads, exceed, reasons, fun _ => drops, nofun⟩
  | false =>
    rw [full] at exceed
    exact ⟨clusters, s.quads, exceed, reasons, nofun, fun _ => rfl⟩

/-! ### The timebase (R150, R151) -/

theorem execTimebaseLoad_eq (s : State) (cl : Fin 80) :
    execTimebaseLoad cl.val s = .next { s with tbCopies := s.tbCopies.set cl (max (s.tbCopies.get cl) s.tb) } := by
  simp [execTimebaseLoad, loadCopy]

/-- The offset that a module has measured, and how it runs from then on: slower while it is ahead. -/
def measuredOffset (s : State) (o : Int) : State :=
  { s with tbOffs := BitVec.ofInt 32 o, tbLock := decide (o.natAbs ≤ 5), tbSlow := if 0 < o then 2 * o.natAbs else 0 }

/-- A step forward by n ns: every copy is loaded, and the time passes at the regulators and the ports. -/
def steppedForward (s : State) (n : Nat) : State :=
  passPorts { s with tb := s.tb + n, tbCopies := s.tbCopies.map (loadCopy (s.tb + n)), regs := passRegs s.tb (s.tb + n) s.regs } n

section
variable {s : State} {o : Int}

theorem execTimebaseSteer_steers (he : (s.port 0).en = true) (hm : (s.port 0).ckmst = false) (hk : (s.port 0).ckLost = false) :
    execTimebaseSteer o s = .next (if o < 0 then steppedForward (measuredOffset s o) o.natAbs else measuredOffset s o) := by
  have steers : ¬ (!(s.port 0).en || (s.port 0).ckmst || (s.port 0).ckLost) = true := by simp [he, hm, hk]
  exact congrArg Host.Outcome.next (if_neg steers)

theorem execTimebaseSteer_behind (he : (s.port 0).en = true) (hm : (s.port 0).ckmst = false) (hk : (s.port 0).ckLost = false) (ho : o < 0) :
    execTimebaseSteer o s = .next (steppedForward (measuredOffset s o) (-o).toNat) := by
  have n : (-o).toNat = o.natAbs := by omega
  rw [execTimebaseSteer_steers he hm hk, if_pos ho, n]

theorem execTimebaseSteer_ahead (he : (s.port 0).en = true) (hm : (s.port 0).ckmst = false) (hk : (s.port 0).ckLost = false) (ho : 0 ≤ o) :
    execTimebaseSteer o s = .next (measuredOffset s o) := by
  rw [execTimebaseSteer_steers he hm hk, if_neg (Int.not_lt.mpr ho)]

end

theorem execTimebaseSteer_stays {s : State} {o : Int} (h : (s.port 0).en = false ∨ (s.port 0).ckmst = true ∨ (s.port 0).ckLost = true) :
    execTimebaseSteer o s = .next s := by
  refine congrArg Host.Outcome.next (if_pos ?_)
  simpa [or_assoc] using h

theorem tbLock_measuredOffset (s : State) (o : Int) : (measuredOffset s o).tbLock = true ↔ -5 ≤ o ∧ o ≤ 5 := by
  rw [measuredOffset, decide_eq_true_eq]
  omega

theorem tbSlow_measuredOffset (s : State) (o : Int) : (measuredOffset s o).tbSlow = 2 * o.toNat := by
  unfold measuredOffset
  dsimp only
  split <;> omega

theorem tbCopies_steppedForward (s : State) (n : Nat) (cl : Fin 80) :
    (steppedForward s n).tbCopies.get cl = max (s.tbCopies.get cl) (s.tb + n) :=
  Vector.getElem_map ..

theorem regs_steppedForward (s : State) (n : Nat) : (steppedForward s n).regs = s.regs.map (passReg n (s.tb / 16 != (s.tb + n) / 16)) := by
  have pass : (steppedForward s n).regs = s.regs.map (passReg (s.tb + n - s.tb) (s.tb / 16 != (s.tb + n) / 16)) := rfl
  rw [pass, Nat.add_sub_cancel_left]

/-- Settles O27: a throttle or a slew sample is a sequence of writes of the clusters and quads of its domain, a request, a switch, a ramp step or a
load is one write, and a step forward of the timebase reaches each copy and each regulator. -/
theorem powerAndTimebaseSteps : Obligations.PowerAndTimebaseSteps := by
  refine ⟨⟨fun s cl hcl => ?_, fun s cl => rfl, fun s d => ?_, fun s d h => ?_, fun s d h => ?_, ?_, fun s c b => mem_lowerReasons,
    fun s d v h => congrArg Host.Outcome.next (requestFreq_reserved h), fun c => rfl, ?_, fun s d h => ?_, fun s cl hcl hd hs hi => ?_,
    fun s cl h => ?_, fun s cl t h => ⟨fun ht => ?_, fun ht => congrArg Host.Outcome.next (switchEnds_early h ht)⟩⟩,
    ?_, fun s d hf hl => ?_, fun s d h => ?_, fun s cl => ⟨fun h => ?_, fun h => ?_⟩, fun s o he hm hk => ?_, passReg_result,
    fun s o => execTimebaseSteer_stays⟩
  · refine ⟨_, congrArg Host.Outcome.next (if_pos hcl), ?_, ?_, fun i hi => ?_, rfl, rfl, rfl⟩
    · rw [cluster_throttled_same, cluster_modCluster_same]
    · rw [cluster_throttled_same, cluster_modCluster_same]; rfl
    · rw [cluster_throttled_other _ _ hi, cluster_modCluster_other _ _ hi]
  · obtain ⟨clusters, marks, reasons⟩ :=
      throttleDomain_result s (s.modReg d fun r => { r with current := true, currentAt := s.tb }) d (reasons := fun _ => [1]) fun _ => rfl
    have same := get_set_same s.regs d { s.regs.get d with current := true, currentAt := s.tb }
    exact ⟨_, congrArg Host.Outcome.next marks, congrArg Regulator.current same, congrArg Regulator.currentAt same,
      fun e he => get_set_other _ _ he, reasons, rfl, rfl⟩
  · exact congrArg Host.Outcome.next (modReg_eq_set (if_pos h))
  · exact congrArg Host.Outcome.next (modReg_eq_self (if_neg (Nat.not_le.mpr h)))
  · rintro s d v c n r x hc lo hi rfl rfl rfl
    obtain ⟨clusters, request, kept, reasons⟩ := requestFreq_result hc lo hi
    refine ⟨_, congrArg Host.Outcome.next request, rfl, rfl, fun now => ?_, fun hf hv => ?_, kept, reasons⟩
    · simp only [requested, if_pos now]
    · simp only [requested, if_neg (not_or.mpr ⟨Nat.not_lt.mpr hf, Nat.not_le.mpr hv⟩)]
  · rintro s d r rfl h
    exact congrArg Host.Outcome.next (modReg_eq_set (settle_reached h))
  · exact congrArg Host.Outcome.next (modReg_eq_self (settle_below h))
  · exact ⟨_, congrArg Host.Outcome.next (if_pos (switchDue_eq_true hcl hd hs hi)), domOf_modCluster_same .., clockStopped_modCluster_same ..,
      congrArg Cluster.switchUntil (cluster_modCluster_same ..), fun i hi => cluster_modCluster_other _ _ hi, rfl, rfl⟩
  · exact congrArg Host.Outcome.next (if_neg (Bool.eq_false_iff.mp (switchDue_eq_false h)))
  · exact ⟨_, congrArg Host.Outcome.next (switchEnds_due h ht), clockStopped_modCluster_same .., domOf_modCluster_same .., rfl⟩
  · rintro s quad q r rfl rfl hl
    exact ⟨fun hs hold hc => congrArg (fun q => Host.Outcome.next (s.setQuad quad q)) (rise_steps hl hs hold hc),
      fun h => congrArg (fun q => Host.Outcome.next (s.setQuad quad q)) (rise_stays h)⟩
  · obtain ⟨clusters, quads, exceed, reasons, drops, stay⟩ := execSlewExceed_result hf hl
    refine ⟨_, exceed, reasons, rfl, rfl, fun full cl hcl q hq => ?_, rfl, fun h => stay ?_⟩
    · have drop := drops (fullRate_iff.mpr full) cl hcl q hq
      exact ⟨congrArg Quad.level drop, congrArg Quad.rampPhase drop, congrArg Quad.rampStep drop,
        (congrArg Quad.rampLeft drop).trans (congrArg (fun x => 16 * x.rampStep) drop).symm⟩
    · obtain ⟨cl, hcl, q, hq, level⟩ := h
      exact Bool.eq_false_iff.mpr fun full => level (fullRate_iff.mp full cl hcl q hq)
  · refine congrArg Host.Outcome.next (if_pos ?_)
    rcases h with h | h <;> simp [h]
  · exact (execTimebaseLoad_eq s cl).trans (by rw [Nat.max_eq_right h.le])
  · exact (execTimebaseLoad_eq s cl).trans (by rw [Nat.max_eq_left h, set_get_self])
  · have slow := tbSlow_measuredOffset s o
    rcases lt_or_ge o 0 with behind | ahead
    · rw [Int.toNat_of_nonpos behind.le] at slow
      exact ⟨_, execTimebaseSteer_behind he hm hk behind, rfl, tbLock_measuredOffset s o, fun _ => ⟨rfl, slow⟩, fun h => absurd behind (Int.not_lt.mpr h),
        rfl, rfl, fun h => absurd behind (Int.not_lt.mpr h), fun _ => tbCopies_steppedForward (measuredOffset s o) _,
        (regs_steppedForward ..).trans (if_pos behind).symm⟩
    · exact ⟨_, execTimebaseSteer_ahead he hm hk ahead, rfl, tbLock_measuredOffset s o, fun h => absurd h (Int.not_lt.mpr ahead), fun _ => ⟨rfl, slow⟩,
        rfl, rfl, fun _ => rfl, fun h => absurd h (Int.not_lt.mpr ahead), (if_neg (Int.not_lt.mpr ahead)).symm⟩

end Sys2Proof.Laws
end

section
/-! Runner ports: enabling, calibration, writer limits, alignment, drift, probes and the slot clock (R30 to R36, R40 to R42, R54). -/

namespace Sys2Proof.Laws

open Sys2Proof Sys2Proof.Machine

theorem port_setPort_other (s : State) {p o : Fin 8} (x : Port) (h : o ≠ p) : (s.setPort p x).port o = s.port o := get_set_other _ _ h

/-! ### Enabling (R40, R42; log entry 41) -/

section
variable {s : State} {p : Fin 8} {v : Word}

theorem enablePort_disabled (hf : s.feat 4 = true) (hv : v.getLsbD 0 = true) (he : (s.port p).en = false) :
    enablePort s p v = s.setPort p { s.port p with
      segid := v.extractLsb' 32 8, spos := v.extractLsb' 24 5, gbw := v.extractLsb' 20 4, ckmst := v.getLsbD 1, en := true, cal := .uncal
      ckLost := (s.port p).ckLost && !v.getLsbD 1
      lasers := Vector.ofFn fun g : Fin 9 =>
        if (s.port p).force.getLsbD g.val then wakeOne s.tb ((s.port p).lasers.get g) else (s.port p).lasers.get g } := by
  simp [enablePort, hf, hv, he, ofNat_bitsAt, Port.forced]

theorem enablePort_enabled (he : (s.port p).en = true) : enablePort s p v = s := if_neg (by simp [he])

theorem disablePort_disabled (he : (s.port p).en = false) : disablePort s p = s := if_neg (by simp [he])

end

/-! ### Pours that a port ends (R63, R72) -/

/-- A port that withdraws runs no pour. -/
theorem running_withdraw (x : Port) : (withdraw x).running = none := by
  simp only [Port.running, withdraw, List.find?_eq_none, List.forall_mem_map]
  intro q _
  split
  · simp
  · assumption

/-- A port that withdraws its pour and disarms the others leaves none without a code. -/
theorem code_disarm_withdraw (x : Port) : ∀ q ∈ (disarm (withdraw x) fun _ => true).pours, q.code ≠ none := by
  simp only [disarm, withdraw, List.forall_mem_map, Bool.true_and]
  intro q _
  cases hq : q.code with
  | some c => simp [hq]
  | none => by_cases hs : q.st = .running <;> simp [hq, hs]

theorem map_job_map {f : Pour → Pour} (h : ∀ q, (f q).job = q.job) (l : List Pour) : (l.map f).map (·.job) = l.map (·.job) := by
  rw [List.map_map]
  exact List.map_congr_left fun q _ => h q

theorem job_withdraw (x : Port) : (withdraw x).pours.map (·.job) = x.pours.map (·.job) := map_job_map (fun q => by split <;> rfl) _

theorem job_disarm (x : Port) (which : Pour → Bool) : (disarm x which).pours.map (·.job) = x.pours.map (·.job) :=
  map_job_map (fun q => by split <;> rfl) _

/-! ### The epoch of a calibration (R34), and START (R46) -/

/-- What an epoch waits for at a port. -/
def epochHeld (x : Port) : Prop := x.en = false ∨ x.ckLost = true ∨ x.running ≠ none ∨ x.busy = true ∨ x.cal = .running

section
variable {s : State} {p : Fin 8} {v : Word}

theorem execCalibration_begins (he : (s.port p).en = true) (hc : (s.port p).ckLost = false) (hr : (s.port p).running = none)
    (hb : (s.port p).busy = false) (hn : (s.port p).cal ≠ .running)
    (h : (s.port p).ckmst = false ∨ (s.port p).cal = .pending ∨ (s.port p).start = true) :
    exec (.calibration p) s = .next (s.setPort p { s.port p with
      cal := .running, start := false, k := 0, idle := 0, seen := [], lastGrant := 63, ann := none, annExp := false
      pours := (s.port p).pours.map fun q => { q with expired := q.expired.map fun _ => 0 } }) := by
  refine congrArg Host.Outcome.next (if_pos ?_)
  simpa [he, hc, hr, hb, hn, or_assoc] using h

theorem execCalibration_unasked (hm : (s.port p).ckmst = true) (hp : (s.port p).cal ≠ .pending) (hs : (s.port p).start = false) :
    exec (.calibration p) s = .next s :=
  congrArg Host.Outcome.next (if_neg (by simp [hm, hp, hs]))

theorem execCalibration_held (h : epochHeld (s.port p)) : exec (.calibration p) s = .next s := by
  refine congrArg Host.Outcome.next (if_neg ?_)
  rcases h with h | h | h | h | h <;> simp [h]

theorem writeRpcal_follower (h : (s.port p).ckmst = false) : writeRpcal s p v = s :=
  modPort_eq_self (if_pos (by simp [h]))

theorem writeRpcal_master (h : (s.port p).ckmst = true) : writeRpcal s p v = s.setPort p { s.port p with
    start := v.getLsbD 0
    cal := if v.getLsbD 0 && (s.port p).en && (s.port p).cal != .running then .pending else (s.port p).cal } :=
  modPort_eq_setPort (if_neg (by simp [h]))

end

/-! ### Detectors (R30, R31; log entry 40) -/

/-- Of a property that the numbers below a number share, the filtered range is as long as the numbers that have it. -/
theorem lt_length_filter_range {P : Nat → Bool} (down : ∀ i j, i ≤ j → P j = true → P i = true) (n : Nat) :
    ∀ k < n, k < ((List.range n).filter P).length ↔ P k = true := by
  induction n with
  | zero => simp
  | succ n ih =>
    have short : ((List.range n).filter P).length ≤ n := (List.length_filter_le ..).trans_eq List.length_range
    intro k hk
    rw [List.range_succ, List.filter_append, List.length_append]
    cases hP : P n with
    | true =>
      have all : (List.range n).filter P = List.range n :=
        List.filter_eq_self.mpr fun i hi => down i n (List.mem_range.mp hi).le hP
      simp [all, hP, hk, down k n (Nat.le_of_lt_succ hk) hP]
    | false =>
      rcases Nat.lt_succ_iff_lt_or_eq.mp hk with hk | rfl
      · simp [hP, ih k hk]
      · simpa [hP] using short

theorem countOf_le (v : Int) : countOf v ≤ 15 := (List.length_filter_le ..).trans_eq List.length_range

theorem lt_countOf (v : Int) {k : Nat} (hk : k < 15) : k < countOf v ↔ 64 * (k : Int) + 32 < v := by
  refine (lt_length_filter_range (fun i j hij h => ?_) 15 k hk).trans decide_eq_true_iff
  have := of_decide_eq_true h
  exact decide_eq_true (by omega)

theorem inGuard_iff (gbw : BitVec 4) (v : Int) : inGuard gbw v = true ↔ ∃ k : Nat, k < 15 ∧ (v - (64 * (k : Int) + 32)).natAbs < gbw.toNat := by
  simp [inGuard]

theorem detect_eq_none (gbw : BitVec 4) (v : Int) : detect gbw v = none ↔ inGuard gbw v = true := by
  simp [detect]

theorem detect_eq_some {gbw : BitVec 4} {v : Int} {c : Nat} (h : detect gbw v = some c) : countOf v = c := by
  unfold detect at h
  split at h
  · exact nomatch h
  · exact Option.some.inj h

theorem levelGood_iff (gbw : BitVec 4) (j : Nat) (vs : List Int) : levelGood gbw j vs = true ↔ ∀ v ∈ vs, detect gbw v = some j := by
  simp [levelGood]

/-! ### Limits (R32; log entry 40) -/

/-- A number lies below the length of what a range's numbers take while they have a property, as all numbers up to it have it. -/
theorem lt_length_takeWhile_range (P : Nat → Bool) {n k : Nat} (hk : k < n) :
    k < ((List.range n).takeWhile P).length ↔ ∀ j ≤ k, P j = true := by
  rw [List.takeWhile_eq_take_findIdx_not, List.length_take, Nat.min_eq_left List.findIdx_le_length, List.lt_findIdx_iff]
  simp [hk]

theorem waveLimit_le (gbw : BitVec 4) (ls : List (List Int)) : waveLimit gbw ls ≤ 15 := by
  have short : ((List.range 16).takeWhile fun j => levelGood gbw j (ls.getD j [])).length ≤ 16 := (List.takeWhile_sublist _).length_le
  exact Nat.sub_le_of_le_add short

theorem le_waveLimit {gbw : BitVec 4} {ls : List (List Int)} (h : levelGood gbw 0 (ls.getD 0 []) = true) {k : Nat} (hk : k ≤ 15) :
    k ≤ waveLimit gbw ls ↔ ∀ j ≤ k, levelGood gbw j (ls.getD j []) = true := by
  have pos : 0 < ((List.range 16).takeWhile fun j => levelGood gbw j (ls.getD j [])).length :=
    (lt_length_takeWhile_range _ (by decide)).mpr fun j hj => Nat.le_zero.mp hj ▸ h
  rw [← lt_length_takeWhile_range (fun j => levelGood gbw j (ls.getD j [])) (show k < 16 from Nat.lt_succ_of_le hk), waveLimit]
  omega

theorem length_waveLimits (gbw : BitVec 4) (m : CalMeas) : (waveLimits gbw m).length = 68 := by
  simp [waveLimits]

theorem waveLimits_getElem? (gbw : BitVec 4) (m : CalMeas) {i : Nat} (h : i < 68) :
    (waveLimits gbw m)[i]? = some (waveLimit gbw (m.train.getD i [])) := by
  simp [waveLimits, h]

/-- A minimum folded over a list is of the list or its start, and least. -/
theorem foldl_min_spec (a : Nat) (l : List Nat) : l.foldl min a ∈ a :: l ∧ ∀ b ∈ a :: l, l.foldl min a ≤ b :=
  List.min?_eq_some_iff.mp List.min?_cons'

/-- The limit of a port: the least of its wavelengths'. -/
def portLimit (x : Port) (m : CalMeas) : Nat := (waveLimits x.gbw m).foldl min 15

/-- The limit of a segment: the least of its ports'. -/
def segmentLimit (x : Port) (m : CalMeas) : Nat := m.others.foldl (fun n o => min n o.2.val) (portLimit x m)

theorem portLimit_le (x : Port) (m : CalMeas) {k : Nat} (h : k ∈ waveLimits x.gbw m) : portLimit x m ≤ k :=
  (foldl_min_spec 15 _).2 k (List.mem_cons_of_mem _ h)

theorem portLimit_le_15 (x : Port) (m : CalMeas) : portLimit x m ≤ 15 := (foldl_min_spec 15 _).2 15 List.mem_cons_self

/-- The limit of a port is that of one of its wavelengths: none of these is above 15, where the fold starts. -/
theorem portLimit_mem (x : Port) (m : CalMeas) : portLimit x m ∈ waveLimits x.gbw m := by
  rcases List.mem_cons.mp (foldl_min_spec 15 (waveLimits x.gbw m)).1 with h | h
  · have first : waveLimit x.gbw (m.train.getD 0 []) ∈ waveLimits x.gbw m := List.mem_of_getElem? (waveLimits_getElem? x.gbw m (by decide))
    have top : portLimit x m = 15 := h
    rw [top, ← Nat.le_antisymm (waveLimit_le ..) (top ▸ portLimit_le x m first)]
    exact first
  · exact h

theorem segmentLimit_spec (x : Port) (m : CalMeas) : segmentLimit x m ∈ portLimit x m :: m.others.map (·.2.val)
    ∧ ∀ b ∈ portLimit x m :: m.others.map (·.2.val), segmentLimit x m ≤ b := by
  have fold : segmentLimit x m = (m.others.map (·.2.val)).foldl min (portLimit x m) := List.foldl_map.symm
  rw [fold]
  exact foldl_min_spec ..

theorem segmentLimit_le (x : Port) (m : CalMeas) : segmentLimit x m ≤ portLimit x m := (segmentLimit_spec x m).2 _ List.mem_cons_self

/-! ### The end of a calibration (R32, R33; log entries 41 and 42) -/

/-- The positions of the ports of a segment. -/
def positions (x : Port) (m : CalMeas) : List Nat := x.spos.toNat :: m.others.map (·.1.val)

/-- A port whose calibration has ended with distinct positions. -/
def calibrated (x : Port) (m : CalMeas) : Port :=
  let clamps := segmentLimit x m < x.rwlim.toNat
  let stat := if clamps then x.stat ||| 128 else x.stat
  { x with
    ldly := m.ldly, ldlyNext := none, plim := BitVec.ofNat 4 (portLimit x m)
    failw := BitVec.ofNat 8 ((waveLimits x.gbw m).findIdx (· == portLimit x m))
    known := BitVec.ofNat 32 ((positions x m).map fun i => 2 ^ i).sum, lcal := BitVec.ofNat 4 (segmentLimit x m), aerr := 0, alignStop := false
    calgen := if x.ckmst then x.calgen + 1 else m.calgen
    rwlim := if clamps then BitVec.ofNat 4 (segmentLimit x m) else x.rwlim
    cal := if segmentLimit x m = 0 then .calfail else .calok, stat := if segmentLimit x m = 0 then stat ||| 8 else stat }

theorem dedup_length_lt {l : List Nat} : l.dedup.length < l.length ↔ ¬l.Nodup := by
  rw [← List.dedup_eq_self, ← (List.dedup_sublist l).length_eq]
  exact (List.dedup_sublist l).length_le.lt_iff_ne

section
variable {s : State} {p : Fin 8} {m : CalMeas}

theorem execCalibrationComplete_duplicate (hc : (s.port p).cal = .running) (hn : ¬(positions (s.port p) m).Nodup) :
    exec (.calibrationComplete p m) s = .next (s.setPort p { s.port p with cal := .calfail, stat := (s.port p).stat ||| 8 }) :=
  congrArg Host.Outcome.next ((if_pos (by simp [hc])).trans (if_pos (dedup_length_lt.mpr hn)))

theorem execCalibrationComplete_distinct (hc : (s.port p).cal = .running) (hn : (positions (s.port p) m).Nodup) :
    exec (.calibrationComplete p m) s = .next (s.setPort p (calibrated (s.port p) m)) := by
  refine congrArg Host.Outcome.next ((if_pos (by simp [hc])).trans ((if_neg (not_not.mpr hn ∘ dedup_length_lt.mp)).trans ?_))
  refine congrArg (s.setPort p) ?_
  unfold calibrated segmentLimit portLimit
  dsimp only
  split <;> split <;> rfl

end

theorem toNat_ofNat4 {n : Nat} (h : n ≤ 15) : (BitVec.ofNat 4 n).toNat = n := by
  rw [BitVec.toNat_ofNat, Nat.mod_eq_of_lt (Nat.lt_succ_of_le h)]

theorem plim_calibrated (x : Port) (m : CalMeas) : (calibrated x m).plim.toNat = portLimit x m := toNat_ofNat4 (portLimit_le_15 x m)

theorem lcal_calibrated (x : Port) (m : CalMeas) : (calibrated x m).lcal.toNat = segmentLimit x m :=
  toNat_ofNat4 ((segmentLimit_le x m).trans (portLimit_le_15 x m))

theorem rwlim_calibrated (x : Port) (m : CalMeas) : (calibrated x m).rwlim.toNat = min x.rwlim.toNat (segmentLimit x m) := by
  unfold calibrated
  dsimp only
  split
  · next h => rw [toNat_ofNat4 ((segmentLimit_le x m).trans (portLimit_le_15 x m)), Nat.min_eq_right h.le]
  · next h => rw [Nat.min_eq_left (Nat.le_of_not_lt h)]

/-- FAILW names the first wavelength of the port's limit. -/
theorem failw_calibrated (x : Port) (m : CalMeas) : (waveLimits x.gbw m)[(calibrated x m).failw.toNat]? = some (portLimit x m)
    ∧ ∀ i, i < (calibrated x m).failw.toNat → (waveLimits x.gbw m)[i]? ≠ some (portLimit x m) := by
  have found : (waveLimits x.gbw m).findIdx (· == portLimit x m) < (waveLimits x.gbw m).length :=
    List.findIdx_lt_length_of_exists ⟨_, portLimit_mem x m, beq_self_eq_true _⟩
  have failw : (calibrated x m).failw.toNat = (waveLimits x.gbw m).findIdx (· == portLimit x m) := by
    refine (BitVec.toNat_ofNat ..).trans (Nat.mod_eq_of_lt ?_)
    rw [length_waveLimits] at found
    omega
  rw [failw]
  refine ⟨?_, fun i hi he => ?_⟩
  · rw [List.getElem?_eq_getElem found]
    exact congrArg some (beq_iff_eq.mp (List.findIdx_getElem (p := (· == portLimit x m))))
  · obtain ⟨_, he⟩ := List.getElem?_eq_some_iff.mp he
    exact absurd (List.not_of_lt_findIdx hi) (by simp [he])

/-! ### Writer limits (R33) -/

section
variable {s : State} {p : Fin 8} {v : Word}

theorem execRwlimWrite_distributes (hf : s.feat 4 = true) (hm : (s.port p).ckmst = true) (h1 : 1 ≤ bitsAt v 8 4)
    (h2 : bitsAt v 8 4 ≤ (s.port p).lcal.toNat) :
    exec (.rwlimWrite p v) s = .next (s.setPort p { s.port p with rwlimDist := some (BitVec.ofNat 4 (bitsAt v 8 4)) }) :=
  congrArg Host.Outcome.next ((if_pos hf).trans ((if_neg (by simp [hm])).trans (if_pos (by simp [h1, h2]))))

theorem execRwlimWrite_refused (hf : s.feat 4 = true) (hm : (s.port p).ckmst = true)
    (h : bitsAt v 8 4 = 0 ∨ (s.port p).lcal.toNat < bitsAt v 8 4) :
    exec (.rwlimWrite p v) s = .next (s.setPort p { s.port p with stat := (s.port p).stat ||| 64 }) := by
  refine congrArg Host.Outcome.next ((if_pos hf).trans ((if_neg (by simp [hm])).trans (if_neg ?_)))
  rcases h with h | h
  · simp [h]
  · simp [Nat.not_le.mpr h]

theorem execRwlimWrite_follower (hf : s.feat 4 = true) (hm : (s.port p).ckmst = false) : exec (.rwlimWrite p v) s = .next s :=
  congrArg Host.Outcome.next ((if_pos hf).trans (if_pos (by simp [hm])))

end

section
variable {s : State} {p : Fin 8} {v : Option (BitVec 4)} {x : Port}

/-- What a port in the first slot of an idle cycle adopts: the master the value that it distributes, a follower what it read. -/
def adopted (s : State) (p : Fin 8) (v : Option (BitVec 4)) (x : Port) : State :=
  match x.ckmst, x.rwlimDist, v with
  | true, some r, _ => s.setPort p { x with rwlim := r, rwlimDist := none }
  | true, none, _ => s
  | false, _, some r => s.setPort p { x with rwlim := r }
  | false, _, none => s.setPort p { x with cal := .uncal }

theorem execRwlimAdopt_adopts (hx : x = (s.port p).settleIdle) (hi : x.inCycle = true) (hc : x.cal = .calok) (hk : x.idle % 32 = 0)
    (hs : x.seen = []) : exec (.rwlimAdopt p v) s = .next (adopted s p v x) := by
  subst hx
  refine congrArg Host.Outcome.next ((if_pos (by simp [hi, hc, hk, hs])).trans ?_)
  unfold adopted
  cases (s.port p).settleIdle.ckmst with
  | true => cases (s.port p).settleIdle.rwlimDist <;> rfl
  | false => cases v <;> rfl

theorem execRwlimAdopt_stays (hx : x = (s.port p).settleIdle)
    (h : x.inCycle = false ∨ x.cal ≠ .calok ∨ x.idle % 32 ≠ 0 ∨ x.seen ≠ []) : exec (.rwlimAdopt p v) s = .next s := by
  subst hx
  refine congrArg Host.Outcome.next (if_neg ?_)
  rcases h with h | h | h | h <;> simp [h]

end

/-! ### Alignment and drift (R35, R36; log entry 41) -/

/-- The calibration state of a port that has seen an alignment error: the master asks for a calibration. -/
def askedCal (x : Port) : CalSt := if x.ckmst = true ∧ x.cal ≠ .running then .pending else x.cal

/-- A port that has stopped on its own alignment error. -/
def stoppedOn (e : BitVec 8) (x : Port) : Port := (withdraw { x with aerr := e, alignStop := true, cal := askedCal x }).flag 4

theorem natAbs_beyond {e : Int} (h : 9 < e ∨ e < -9) : 9 < e.natAbs := by omega
theorem natAbs_within {e : Int} (h1 : -9 ≤ e) (h2 : e ≤ 9) : e.natAbs ≤ 9 := by omega

section
variable {s : State} {p : Fin 8} {e : BitVec 8}

theorem execAlignError_other (he : (s.port p).en = true) :
    exec (.alignError p none) s = .next (s.setPort p { s.port p with cal := askedCal (s.port p) }) := by
  refine congrArg Host.Outcome.next ((if_neg (by simp [he])).trans ?_)
  simp [askedCal]

theorem execAlignError_beyond (he : (s.port p).en = true) (h : 9 < e.toInt.natAbs) :
    exec (.alignError p (some e)) s = .next (s.setPort p (stoppedOn e (s.port p))) := by
  refine congrArg Host.Outcome.next ((if_neg (by simp [he])).trans ((if_pos h).trans ?_))
  simp [stoppedOn, askedCal]

theorem execAlignError_within (he : (s.port p).en = true) (h : e.toInt.natAbs ≤ 9) : exec (.alignError p (some e)) s = .next s :=
  congrArg Host.Outcome.next ((if_neg (by simp [he])).trans (if_neg (Nat.not_lt.mpr h)))

theorem execDriftStep_within (he : (s.port p).en = true) (h : e.toInt.natAbs ≤ 9) :
    exec (.driftStep p e) s = .next (s.setPort p (Port.track s.tb { s.port p with aerr := e })) :=
  congrArg Host.Outcome.next (if_pos (by simp [he, h]))

theorem execDriftStep_beyond (h : 9 < e.toInt.natAbs) : exec (.driftStep p e) s = .next s :=
  congrArg Host.Outcome.next (if_neg (by simp [Nat.not_le.mpr h]))

theorem writable_stoppedOn (x : Port) : (stoppedOn e x).writable = false := by
  simp [stoppedOn, Port.writable, withdraw, Port.flag]

theorem running_stoppedOn (x : Port) : (stoppedOn e x).running = none := running_withdraw _

end

/-- Whether a port makes a step of drift in a microsecond, if its error is not 0. -/
def tracks (tb : Nat) (x : Port) : Bool := x.auto && x.writable && x.inCycle && x.stepUs != some (tb / 1000)

theorem ne_zero_of_toInt {e : BitVec 8} (h : e.toInt ≠ 0) : e ≠ 0 := fun h0 => h (by rw [h0]; rfl)

section
variable {tb d : Nat} {p : Fin 8} {x : Port}

theorem track_stays (h : x.auto = false ∨ x.writable = false ∨ x.inCycle = false ∨ x.stepUs = some (tb / 1000) ∨ x.aerr = 0) :
    x.track tb = x := by
  refine if_pos ?_
  rcases h with h | h | h | h | h <;> simp [h]

theorem track_early (ht : tracks tb x = true) (h : x.aerr.toInt < 0) : x.track tb =
    if x.ldly = 0x3FFFF then x else { x with stepUs := some (tb / 1000), ldly := x.ldly + 1, aerr := x.aerr + 1 } := by
  have go := ne_zero_of_toInt h.ne
  simp only [tracks, Bool.and_eq_true, bne_iff_ne] at ht
  obtain ⟨⟨⟨auto, writable⟩, idle⟩, us⟩ := ht
  exact (if_neg (by simpa [auto, writable, idle, us] using go)).trans (if_pos h)

theorem track_late (ht : tracks tb x = true) (h : 0 < x.aerr.toInt) : x.track tb =
    if x.ldly = 0 then x else { x with stepUs := some (tb / 1000), ldly := x.ldly - 1, aerr := x.aerr - 1 } := by
  have go := ne_zero_of_toInt h.ne'
  simp only [tracks, Bool.and_eq_true, bne_iff_ne] at ht
  obtain ⟨⟨⟨auto, writable⟩, idle⟩, us⟩ := ht
  exact (if_neg (by simpa [auto, writable, idle, us] using go)).trans (if_neg h.not_gt)

/-- A step of drift changes the delay, the error and the microsecond of the step. -/
theorem track_frame (tb : Nat) (x : Port) : ∃ us l e, x.track tb = { x with stepUs := us, ldly := l, aerr := e } := by
  unfold Port.track
  split
  · exact ⟨_, _, _, rfl⟩
  · split <;> split <;> exact ⟨_, _, _, rfl⟩

theorem passPort_dark (hl : ∀ g, (x.lasers.get g).st = .off) : passPort tb d p x =
    if x.cal == .pending || x.cal == .running then x.track tb
    else rollExpire (fun _ => true) { x.track tb with pours := (x.track tb).pours.map fun q => { q with timer := q.timer.map (· - d) } } := by
  have dark : x.lasers.toList.all (fun l => l.st == .off) = true := by
    simp only [List.all_eq_true, beq_iff_eq]
    intro l hm
    obtain ⟨i, hi, rfl⟩ := Vector.mem_iff_getElem.mp (Vector.mem_toList_iff.mp hm)
    exact hl ⟨i, hi⟩
  obtain ⟨us, l, e, frame⟩ := track_frame tb x
  unfold passPort
  rw [frame]
  refine if_pos ?_
  split <;> exact dark

end

/-! ### Probes (R30, R31, R36, R41, R54, R143; log entry 42) -/

theorem countErrs_eq (x : Port) (e o : Nat) : x.countErrs (e, o) = { x with
    eras := if e = 0 then x.eras else inc32 x.eras e, overs := if o = 0 then x.overs else inc32 x.overs o
    stat := x.stat ||| (if e = 0 then 0 else 2) ||| (if o = 0 then 0 else 4) } := by
  unfold Port.countErrs
  by_cases he : e = 0 <;> by_cases ho : o = 0 <;> simp [he, ho, Port.flag]

/-- Counting nothing leaves a counter, as counting from it does. -/
theorem toNat_inc32_unless (c : BitVec 32) (n : Nat) : (if n = 0 then c else inc32 c n).toNat = min (c.toNat + n) 0xFFFFFFFF := by
  split
  · next h => rw [h, Nat.add_zero, Nat.min_eq_left (Nat.le_of_lt_succ c.isLt)]
  · exact toNat_inc32 c n

@[simp] theorem idle_countErrs (x : Port) (e : Nat × Nat) : (x.countErrs e).idle = x.idle := by rw [countErrs_eq]
@[simp] theorem seen_countErrs (x : Port) (e : Nat × Nat) : (x.countErrs e).seen = x.seen := by rw [countErrs_eq]

/-- Choosing what to announce changes nothing else. -/
theorem choose_frame (x : Port) : ∃ a e, x.choose = { x with ann := a, annExp := e } := by
  unfold Port.choose
  split
  · exact ⟨_, _, rfl⟩
  · split <;> exact ⟨_, _, rfl⟩

/-- A port in a slot of an announcement cycle: in its own it chooses what it announces, if it has not. -/
def inSlot (x : Port) : Port := if x.idle % 32 = x.spos.toNat ∧ x.announced = none then x.choose else x

theorem inSlot_frame (x : Port) : ∃ a e, inSlot x = { x with ann := a, annExp := e } := by
  unfold inSlot
  split
  · exact choose_frame x
  · exact ⟨_, _, rfl⟩

@[simp] theorem idle_inSlot (x : Port) : (inSlot x).idle = x.idle := by obtain ⟨_, _, h⟩ := inSlot_frame x; rw [h]
@[simp] theorem seen_inSlot (x : Port) : (inSlot x).seen = x.seen := by obtain ⟨_, _, h⟩ := inSlot_frame x; rw [h]
@[simp] theorem probeSlot_inSlot (x : Port) (i : Nat) : (inSlot x).probeSlot i = x.probeSlot i := by obtain ⟨_, _, h⟩ := inSlot_frame x; rw [h]; rfl

section
variable {s : State} {p : Fin 8} {data ctl : List Int} {x : Port}

theorem execProbeSlot_stays (hx : x = (s.port p).settleIdle)
    (h : x.inCycle = false ∨ 32 ≤ x.seen.length ∨ (barrierCycle s p = true ∧ x.idle % 32 = 0)) : exec (.probeSlot p data ctl) s = .next s := by
  subst hx
  refine congrArg Host.Outcome.next (if_pos ?_)
  rcases h with h | h | ⟨h1, h2⟩
  · simp [h]
  · simp [h]
  · simp [h1, h2]

/-- The port after a slot of an announcement cycle. -/
def announcementSlot (row : List Int) (x : Port) : Port :=
  let cs := (inSlot x).readSlot row ((inSlot x).idleLight (x.idle % 32))
  { (inSlot x).countErrs (slotErrs cs (idleExpect (x.probeSlot (x.idle % 32)))) with idle := x.idle + 1, seen := x.seen ++ [slotAnnouncement cs] }

/-- The port after a slot of a barrier cycle: it lights ck alone, as the master, and expects nothing else. -/
def barrierSlot (row : List Int) (x : Port) : Port :=
  { x.countErrs (slotErrs (x.readSlot row fun lam => if lam = 66 then (x.ckmst && x.en).toNat else 0) (idleExpect false)) with
    idle := x.idle + 1, seen := [] }

theorem execProbeSlot_announcement (hx : x = (s.port p).settleIdle) (hi : x.inCycle = true) (hs : x.seen.length < 32)
    (hb : barrierCycle s p = false) : exec (.probeSlot p data ctl) s = .next (s.setPort p (announcementSlot (slotRow data ctl) x)) := by
  subst hx
  refine congrArg Host.Outcome.next ((if_neg (by simp [hi, hb, hs])).trans (congrArg (s.setPort p) ?_))
  have own : (if (s.port p).settleIdle.idle % 32 = (s.port p).settleIdle.spos.toNat && (s.port p).settleIdle.announced.isNone && !barrierCycle s p
      then (s.port p).settleIdle.choose else (s.port p).settleIdle) = inSlot (s.port p).settleIdle := by
    simp [inSlot, hb]
  rw [own, hb]
  simp only [idle_countErrs, seen_countErrs, idle_inSlot, seen_inSlot, probeSlot_inSlot, announcementSlot, Bool.not_false, Bool.true_and,
    Bool.false_eq_true, if_false]

theorem execProbeSlot_barrier (hx : x = (s.port p).settleIdle) (hi : x.inCycle = true) (hs : x.seen.length < 32)
    (hb : barrierCycle s p = true) (h0 : x.idle % 32 ≠ 0) :
    exec (.probeSlot p data ctl) s = .next (s.setPort p (barrierSlot (slotRow data ctl) x)) := by
  subst hx
  refine congrArg Host.Outcome.next ((if_neg (by simp [hi, hb, hs, h0])).trans (congrArg (s.setPort p) ?_))
  rw [hb]
  simp only [Bool.not_true, Bool.and_false, Bool.false_and, Bool.false_eq_true, if_false, if_true, idle_countErrs, barrierSlot]

end

theorem idleExpect_other (lam : Nat) : idleExpect false lam = if lam = 66 then 1 else 0 := rfl

theorem idleExpect_probe (lam : Nat) : idleExpect true lam = if lam = 65 then 0 else 1 := by
  unfold idleExpect
  by_cases h : lam = 66
  · simp [h]
  · simp [h]

theorem probeSlot_iff (x : Port) (i : Nat) : x.probeSlot i = true ↔ i = x.spos.toNat ∨ x.known.getLsbD i = true := by
  simp [Port.probeSlot]

theorem idleLight_g1 (x : Port) (slot : Nat) : x.idleLight slot 65 = 0 := by
  unfold Port.idleLight
  split
  · contradiction
  · split
    · rfl
    · split
      · contradiction
      · split <;> rfl

theorem idleLight_ck (x : Port) (slot : Nat) : x.idleLight slot 66 = if x.ckmst = true ∧ x.en = true then 1 else 0 := by
  simp [Port.idleLight, Bool.toNat, Bool.cond_eq_ite]

theorem idleLight_other {x : Port} {slot lam : Nat} (h : slot ≠ x.spos.toNat) (hl : lam ≠ 66) : x.idleLight slot lam = 0 :=
  (if_neg hl).trans (if_pos h)

theorem idleLight_probe (x : Port) :
    x.idleLight x.spos.toNat 64 = if x.auto = true ∧ x.writable = true ∧ (x.lasers.get 8).st = .lit then 1 else 0 := by
  have lit : x.litAt 64 = true ↔ (x.lasers.get 8).st = .lit := beq_iff_eq
  simp [Port.idleLight, lit, and_assoc, Bool.toNat, Bool.cond_eq_ite]

/-! ### Announcements (R54) -/

theorem annBits_lt (a : Announce) : annBits a < 2 ^ 63 := by
  have := a.seq.isLt; have := a.grp.isLt; have := a.ty.isLt; have := a.gm1.isLt; have := a.replay.isLt; have := a.form.isLt; have := a.countM1.isLt
  unfold annBits
  omega

theorem annOf_annBits (a : Announce) : annOf (annBits a) = a := by
  obtain ⟨seq, grp, ty, gm1, replay, form, countM1⟩ := a
  have := seq.isLt; have := grp.isLt; have := ty.isLt; have := gm1.isLt; have := replay.isLt; have := form.isLt
  simp only [annOf, annBits, Announce.mk.injEq]
  refine ⟨?_, Fin.ext ?_, ?_, ?_, ?_, ?_, ?_⟩
  · exact BitVec.eq_of_toNat_eq (by rw [BitVec.toNat_ofNat]; omega)
  · rw [Fin.val_ofNat]; omega
  all_goals exact BitVec.eq_of_toNat_eq (by rw [BitVec.toNat_ofNat]; omega)

theorem zip_map_self {α β : Type} (f : α → β) (l : List α) : (l.map f).zip l = l.map fun a => (f a, a) := by
  induction l with
  | nil => rfl
  | cons a l ih => rw [List.map_cons, List.map_cons, List.zip_cons_cons, ih]

/-- The low bits of a number, each read with its place, weigh its remainder. -/
theorem sum_testBit (n k : Nat) : ((((List.range k).map fun i => some (n.testBit i).toNat).zip (List.range k)).map fun p =>
    if (p.1.getD 0) = 0 then 0 else 2 ^ p.2).sum = n % 2 ^ k := by
  rw [zip_map_self, List.map_map]
  induction k with
  | zero => simp [Nat.mod_one]
  | succ k ih =>
    rw [List.range_succ, List.map_append, List.sum_append, ih, Nat.mod_pow_succ, ← Nat.toNat_testBit]
    cases h : n.testBit k <;> simp [h]

section
variable {cs : List (Option Nat)}

/-- A slot of 68 wavelengths in which the bits of a number are read on the first 63. -/
theorem take_bits {n : Nat} (hl : cs.length = 68) (hb : ∀ i < 63, cs.getD i none = some (n.testBit i).toNat) :
    cs.take 63 = (List.range 63).map fun i => some (n.testBit i).toNat := by
  refine List.ext_getElem (by simp [hl]) fun i h1 h2 => ?_
  have hi : i < 63 := by simpa using h2
  rw [List.getElem_take, List.getElem_map, List.getElem_range, ← hb i hi, List.getD_eq_getElem]

/-- What the bits of an announcement weigh on its wavelengths. -/
theorem sum_annBits (a : Announce) (hl : cs.length = 68) (hb : ∀ i < 63, cs.getD i none = some ((annBits a).testBit i).toNat) :
    (((cs.take 63).zip (List.range 63)).map fun p => if (p.1.getD 0) = 0 then 0 else 2 ^ p.2).sum = annBits a := by
  rw [take_bits hl hb, sum_testBit, Nat.mod_eq_of_lt (annBits_lt a)]

/-- Where ct is lit, the bits that are read make the announcement. -/
theorem slotAnnouncement_some (a : Announce) (hl : cs.length = 68) (hb : ∀ i < 63, cs.getD i none = some ((annBits a).testBit i).toNat)
    (hc : cs.getD 67 none = some 1) : slotAnnouncement cs = some a := by
  have read : (cs.take 63).any Option.isNone = false := by rw [take_bits hl hb]; simp
  unfold slotAnnouncement
  simp only [read, hc, sum_annBits a hl hb, annOf_annBits, Bool.false_eq_true, if_false]

theorem slotAnnouncement_none (hl : cs.length = 68)
    (h : (∃ i < 63, cs.getD i none = none) ∨ cs.getD 67 none = none ∨ cs.getD 67 none = some 0) : slotAnnouncement cs = none := by
  rcases h with ⟨i, hi, he⟩ | h | h
  · refine if_pos (List.any_eq_true.mpr ⟨none, ?_, rfl⟩)
    have hi' : i < cs.length := by omega
    rw [List.getD_eq_getElem _ _ hi'] at he
    exact List.mem_take_iff_getElem.mpr ⟨i, by omega, he⟩
  · unfold slotAnnouncement
    rw [h]
    exact ite_self _
  · unfold slotAnnouncement
    rw [h]
    exact ite_self _

end

/-! ### The slot clock (R41) -/

section
variable {s : State} {p : Fin 8}

/-- A follower that has lost its clock. -/
def unclocked (x : Port) : Port := (withdraw { x with ckLost := true, cal := .uncal }).flag 5

theorem execClockLoss_follower (he : (s.port p).en = true) (hm : (s.port p).ckmst = false) :
    exec (.clockLoss p) s = .next (s.setPort p (unclocked (s.port p))) :=
  congrArg Host.Outcome.next (if_pos (by simp [he, hm]))

theorem execClockLoss_other (h : (s.port p).en = false ∨ (s.port p).ckmst = true) : exec (.clockLoss p) s = .next s := by
  refine congrArg Host.Outcome.next (if_neg ?_)
  rcases h with h | h <;> simp [h]

end

/-- A port that PORT_DISABLE leaves. -/
def disabled (x : Port) : Port :=
  { disarm (withdraw x) fun _ => true with
    en := false, cal := .uncal, start := false, lasers := Vector.replicate 9 {}, rwlimDist := none, ann := none, annExp := false, seen := [] }.settleIdle

theorem disablePort_enabled {s : State} {p : Fin 8} (he : (s.port p).en = true) : disablePort s p = s.setPort p (disabled (s.port p)) := if_pos he

theorem job_disabled (x : Port) : (disabled x).pours.map (·.job) = x.pours.map (·.job) := (job_disarm ..).trans (job_withdraw x)

/-- Settles O42: each step of a port is a change of that port alone, which its condition makes or leaves out. -/
theorem portSteps : Obligations.PortSteps := by
  refine ⟨?_, ?_, ?_, ?_, ?_, ?_, fun gbw m => ⟨length_waveLimits gbw m, fun i => waveLimits_getElem? gbw m⟩,
    fun gbw ls => ⟨waveLimit_le gbw ls, fun h k => le_waveLimit h⟩, levelGood_iff,
    fun gbw v => ⟨(detect_eq_none gbw v).trans (inGuard_iff gbw v), ?_⟩, ?_, ?_, fun s p v x hx => execRwlimAdopt_stays hx, ?_, ?_, ?_, ?_, fun lam => ⟨idleExpect_other lam, idleExpect_probe lam⟩, probeSlot_iff, ?_,
    fun x v n => ⟨fun h => if_pos h, fun h => if_neg (by simp [h])⟩,
    fun x slot => ⟨idleLight_g1 x slot, idleLight_ck x slot, fun h lam => idleLight_other h, idleLight_probe x⟩,
    fun a cs => slotAnnouncement_some a, fun cs => slotAnnouncement_none, ?_⟩
  · rintro s p v x rfl hf hv
    exact ⟨fun he => congrArg Host.Outcome.next (enablePort_disabled hf hv he), fun he => congrArg Host.Outcome.next (enablePort_enabled he)⟩
  · refine fun s p => ⟨fun he => congrArg Host.Outcome.next (disablePort_disabled he),
      fun he => ⟨_, congrArg Host.Outcome.next (disablePort_enabled he), ?_⟩⟩
    rw [port_setPort_same]
    exact ⟨rfl, rfl, rfl, fun g => Vector.getElem_replicate .., job_disabled _, code_disarm_withdraw _, fun o => port_setPort_other s _, rfl, rfl⟩
  · rintro s p x rfl he hc hr hb hn
    exact ⟨execCalibration_begins he hc hr hb hn, execCalibration_unasked⟩
  · exact fun s p => execCalibration_held
  · rintro s p v x rfl
    refine ⟨writeRpcal_follower, fun hm hv he hc => ?_, fun hm hv h => ?_, fun hm hv => ?_⟩
    · rw [writeRpcal_master hm, hv]; simp [he, hc]
    · rw [writeRpcal_master hm, hv]; rcases h with h | h <;> simp [h]
    · rw [writeRpcal_master hm, hv]; simp
  · intro s p m x ks plim lcal hx hc hks hp hl
    subst hx hl hp hks
    refine ⟨execCalibrationComplete_duplicate hc, fun hn => ⟨_, _, execCalibrationComplete_distinct hc hn, rfl, ?_⟩,
      fun k => portLimit_le _ m, portLimit_mem _ m, segmentLimit_le _ m, ?_, ?_⟩
    · rw [port_setPort_same]
      obtain ⟨first, before⟩ := failw_calibrated (s.port p) m
      exact ⟨rfl, plim_calibrated .., first, before, lcal_calibrated .., rfl, rfl, rfl, rwlim_calibrated .., rfl, rfl,
        fun o => port_setPort_other s _, rfl, rfl⟩
    · exact fun o ho => (segmentLimit_spec (s.port p) m).2 _ (List.mem_cons_of_mem _ (List.mem_map_of_mem ho))
    · rcases List.mem_cons.mp (segmentLimit_spec (s.port p) m).1 with h | h
      · exact .inl h
      · obtain ⟨o, ho, he⟩ := List.mem_map.mp h
        exact .inr ⟨o, ho, he.symm⟩
  · rintro c hc
    obtain rfl := detect_eq_some hc
    exact ⟨fun k => lt_countOf v, countOf_le v⟩
  · rintro s p v x n rfl rfl hf
    exact ⟨execRwlimWrite_distributes hf, execRwlimWrite_refused hf, execRwlimWrite_follower hf⟩
  · intro s p v x hx hi hc hk hs
    rw [execRwlimAdopt_adopts hx hi hc hk hs]
    unfold adopted
    exact ⟨fun r hm hr => by rw [hm, hr], fun r hm hv => by rw [hm, hv], fun hm hr => by rw [hm, hr], fun hm hv => by rw [hm, hv]⟩
  · rintro s p e x rfl he
    refine ⟨execAlignError_other he, fun h => ⟨_, execAlignError_beyond he (natAbs_beyond h), ?_⟩,
      fun h1 h2 => ⟨execAlignError_within he (natAbs_within h1 h2), execDriftStep_within he (natAbs_within h1 h2)⟩,
      fun h => execDriftStep_beyond (natAbs_beyond h)⟩
    rw [port_setPort_same]
    exact ⟨rfl, rfl, rfl, rfl, writable_stoppedOn _, running_stoppedOn _, rfl, rfl⟩
  · refine fun tb x => ⟨track_stays, fun ha hw hi hu => ?_⟩
    have ht : tracks tb x = true := by simp [tracks, ha, hw, hi, hu]
    refine ⟨fun he hl => (track_early ht he).trans (if_neg hl), fun he hl => (track_late ht he).trans (if_neg hl), fun h => ?_⟩
    rcases h with ⟨he, hl⟩ | ⟨he, hl⟩
    · exact (track_early ht he).trans (if_pos hl)
    · exact (track_late ht he).trans (if_pos hl)
  · intro tb d p x hl
    rw [passPort_dark hl]
    refine ⟨fun h => if_pos ?_, fun h1 h2 => if_neg (by simp [h1, h2])⟩
    rcases h with h | h <;> simp [h]
  · rintro s p data ctl row x bar hx rfl rfl
    refine ⟨execProbeSlot_stays hx, fun hi hs hb y cs hy hcs => ?_, fun hi hs hb h0 cs hcs => ?_⟩
    · subst hcs hy
      exact execProbeSlot_announcement hx hi hs hb
    · subst hcs
      exact execProbeSlot_barrier hx hi hs hb h0
  · intro x e o
    rw [countErrs_eq]
    exact ⟨toNat_inc32_unless .., toNat_inc32_unless .., rfl, rfl⟩
  · rintro s p x rfl
    refine ⟨fun he hm => ⟨_, execClockLoss_follower he hm, ?_⟩, execClockLoss_other, rfl⟩
    rw [port_setPort_same]
    exact ⟨rfl, rfl, rfl, running_withdraw _, rfl, rfl⟩

end Sys2Proof.Laws
end

section
/-! The frames of a running pour, their NAK windows, and the bytes of their sources (R57 to R71, R417 to R420). -/

namespace Sys2Proof.Laws

open Sys2Proof Sys2Proof.Machine

/-! ### Changes of a port, one after the other -/

theorem setPort_setPort (s : State) (p : Fin 8) (x y : Port) : (s.setPort p x).setPort p y = s.setPort p y := by
  simp [State.setPort]

theorem modPort_modPort (s : State) (p : Fin 8) (f g : Port → Port) : (s.modPort p f).modPort p g = s.modPort p fun x => g (f x) := by
  rw [State.modPort, port_modPort_same, State.modPort, setPort_setPort, State.modPort]

/-! ### A frame, by the pour that runs (R57, R30, R41) -/

section
variable {s : State} {p : Fin 8} {f : FrameIn} {q : Pour}

theorem execRoundFrame_noPour (h : (s.port p).running = none) : exec (.roundFrame p f) s = .next (foreignFrame s p f) :=
  congrArg Host.Outcome.next (by rw [h])

theorem execRoundFrame_data {pos : Nat} (h : (s.port p).running = some q) (hp : q.phase = .data pos) :
    exec (.roundFrame p f) s = .next (dataFrame s p q f) :=
  congrArg Host.Outcome.next (by simp only [h, hp])

theorem execRoundFrame_skim {set : Nat} (h : (s.port p).running = some q) (hp : q.phase = .skim set) : exec (.roundFrame p f) s = .next s :=
  congrArg Host.Outcome.next (by simp only [h, hp])

theorem execSkimFrame_noPour (h : (s.port p).running = none) : exec (.skimFrame p f) s = .next (foreignFrame s p f) :=
  congrArg Host.Outcome.next (by rw [h])

theorem execSkimFrame_skim {set : Nat} (h : (s.port p).running = some q) (hp : q.phase = .skim set) :
    exec (.skimFrame p f) s = .next (skimFrameOf s p q f) :=
  congrArg Host.Outcome.next (by simp only [h, hp])

theorem execSkimFrame_data {pos : Nat} (h : (s.port p).running = some q) (hp : q.phase = .data pos) : exec (.skimFrame p f) s = .next s :=
  congrArg Host.Outcome.next (by simp only [h, hp])

end

/-- The erased samples that a port which is no member counts in a frame of others: it expects the master's ck alone, from the first slot after the
census on. -/
def foreignErasures (x : Port) (f : FrameIn) : Nat :=
  ((f.slots.zip (List.range f.slots.length)).map fun r =>
    ((x.readSlot r.1 fun lam => if lam = 66 ∧ r.2 ≠ 0 then x.ckmst.toNat else 0).filter Option.isNone).length).sum

theorem foreignLight_eq (x : Port) (slot : Nat) : foreignLight x slot = fun lam => if lam = 66 ∧ slot ≠ 0 then x.ckmst.toNat else 0 := by
  funext lam
  simp [foreignLight]

theorem foreignFrame_disabled {s : State} {p : Fin 8} {f : FrameIn} (h : (s.port p).en = false) : foreignFrame s p f = s :=
  if_neg (Bool.eq_false_iff.mp h)

theorem foreignFrame_enabled {s : State} {p : Fin 8} {f : FrameIn} (h : (s.port p).en = true) :
    foreignFrame s p f = s.setPort p { (s.port p).countErrs (foreignErasures (s.port p) f, 0) with busy := true } := by
  refine (if_pos h).trans ?_
  simp only [foreignLight_eq, List.map_map, foreignErasures, Function.comp_def]

/-! ### A sending, once its source is known (R58 to R64, R66 to R68) -/

/-- The sending of a data frame by port x, with the elements that it sends and whether a source byte of them is poisoned. -/
def sendData (x : Port) (u : State) (p : Fin 8) (q : Pour) (f : FrameIn) (k : List Int × Bool) : State :=
  let n := elemBits (frameTy q.kind)
  let q2 := if writesNow x q then { q with kept := some k } else q
  let plan := dataPlan x q2 n k.1
  let rows := plan.rows x f
  let sums := frameSums n (elemSigned (frameTy q.kind)) rows
  let nak := plan.spoiled rows || !guardsOk n rows sums || (plan.writer && k.2)
  endSending (countErrs u p (plan.errs x f nak)) p q2 (plan.window x f nak) fun y => { y with acc := List.zipWith (· + ·) y.acc sums }

/-- The sending of a skim frame by port x, with its exponents and whether a source byte of them is poisoned. -/
def sendSkim (x : Port) (u : State) (p : Fin 8) (q : Pour) (f : FrameIn) (k : List Nat × Bool) : State :=
  let wr := writesNow x q
  let q := if wr then { q with kept := some ([], k.2), exps := k.1 } else q
  let lanes := (List.range 64).map fun b =>
    skimLane (if wr then some (k.1.getD b 0) else none) (writersOf q) (fun i bit => x.sense (rawAt f i b) (bit && x.litAt b).toNat) 8
  let plan := skimPlan x q lanes
  let rows := plan.rows x f
  let lost := wr && (List.range 64).any fun b => (List.range 8).any fun i => plan.light (i + 1) b && countAt rows (i + 1) b == 0
  let nak := plan.spoiled rows || lost || (wr && k.2)
  endSending (countErrs u p (plan.errs x f nak)) p q (plan.window x f nak) fun y => { y with emax := List.zipWith max y.emax (lanes.map fun l => l.2.2) }

section
variable {s u : State} {p : Fin 8} {f : FrameIn} {q : Pour} {bs : List Byte} {pois : Bool}

/-- A replay sends what the first sending kept (R64). -/
theorem dataFrame_kept {k : List Int × Bool} (hk : q.kept = some k) : dataFrame s p q f = sendData (s.port p) s p q f k := by
  cases hw : writesNow (s.port p) q <;> simp only [dataFrame, hk, hw, sendData, if_true, Bool.false_eq_true, if_false]

/-- A writer's first sending reads its source. -/
theorem dataFrame_reads (hk : q.kept = none) (hw : writesNow (s.port p) q = true) (hs : frameSource s (s.port p) q = .ok ((bs, pois), u)) :
    dataFrame s p q f = sendData (s.port p) u p q f (positionElems q bs, pois) := by
  simp only [dataFrame, hk, hw, hs, Except.map, sendData, if_true]

/-- A port that does not write in the round sends nothing. -/
theorem dataFrame_listens (hk : q.kept = none) (hw : writesNow (s.port p) q = false) : dataFrame s p q f = sendData (s.port p) s p q f ([], false) := by
  simp only [dataFrame, hk, hw, sendData, Bool.false_eq_true, if_false]

/-- A frame waits while its source is not all read. -/
theorem dataFrame_waits (hk : q.kept = none) (hw : writesNow (s.port p) q = true) (hs : frameSource s (s.port p) q = .error u) :
    dataFrame s p q f = u := by
  simp only [dataFrame, hk, hw, hs, Except.map]

theorem skimFrameOf_kept {k : List Int × Bool} (hk : q.kept = some k) : skimFrameOf s p q f = sendSkim (s.port p) s p q f (q.exps, k.2) := by
  simp only [skimFrameOf, hk, sendSkim]

theorem skimFrameOf_reads (hk : q.kept = none) (hw : writesNow (s.port p) q = true) (hs : frameSource s (s.port p) q = .ok ((bs, pois), u)) :
    skimFrameOf s p q f = sendSkim (s.port p) u p q f (bs.map (·.toNat), pois) := by
  simp only [skimFrameOf, hk, hw, hs, Except.map, sendSkim]

theorem skimFrameOf_listens (hk : q.kept = none) (hw : writesNow (s.port p) q = false) :
    skimFrameOf s p q f = sendSkim (s.port p) s p q f (q.exps, false) := by
  simp only [skimFrameOf, hk, hw, sendSkim]

theorem skimFrameOf_waits (hk : q.kept = none) (hw : writesNow (s.port p) q = true) (hs : frameSource s (s.port p) q = .error u) :
    skimFrameOf s p q f = u := by
  simp only [skimFrameOf, hk, hw, hs, Except.map]

end

theorem writesNow_iff (x : Port) (q : Pour) : writesNow x q = true ↔
    q.round * q.lim ≤ rankOf q.mask x.spos.toNat ∧ rankOf q.mask x.spos.toNat < (q.round + 1) * q.lim := by
  rw [writesNow, Bool.and_eq_true, decide_eq_true_iff, decide_eq_true_iff]
  rfl

/-! ### The source, read piece by piece (R209, R228; log entries 17 and 20) -/

/-- The state in which a frame's source stands as pieces to be read. -/
def sourceBegun (s : State) (x : Port) (q : Pour) : State := if (s.job q.job).any (·.reading) then s else beginRead s x q

/-- The state after an attempt to read each piece of a job that still stands. -/
def sourceTried (u : State) (q : Pour) (j : Job) : State := j.todo.foldl (fun s ps => readSource s q.cluster q.job ps) u

theorem frameSource_none {s : State} {x : Port} {q : Pour} (h : frameOffs x q = []) : frameSource s x q = .ok (([], false), s) :=
  if_pos (by rw [h]; rfl)

theorem frameSource_tried {s : State} {x : Port} {q : Pour} {i j : Job} (h : frameOffs x q ≠ []) (hi : (sourceBegun s x q).job q.job = some i)
    (hj : (sourceTried (sourceBegun s x q) q i).job q.job = some j) :
    frameSource s x q = if !j.todo.isEmpty then .error (sourceTried (sourceBegun s x q) q i) else
      .ok (((List.range (frameOffs x q).length).map fun k => ((j.got.find? fun p => p.1 == k).map (·.2)).getD 0, j.poisoned),
        modJob (sourceTried (sourceBegun s x q) q i) q.cluster q.job fun j => { j with reading := false, got := [], poisoned := false }) := by
  unfold sourceTried sourceBegun at *
  refine (if_neg (by simpa using h)).trans ?_
  simp only [hi, hj]

section
variable {s u w : State} {cl id : Nat} {j : Job} {ps : List (Nat × Nat)}

theorem readSource_banks (hj : ((s.cluster cl).jobs.find? fun x => x.id == id) = some j) (hb : homeBanks s false (ps.map (·.1)) = (u, false)) :
    readSource s cl id ps = u := by
  simp [readSource, hj, hb]

theorem readSource_gone (hj : ((s.cluster cl).jobs.find? fun x => x.id == id) = some j) (hb : homeBanks s false (ps.map (·.1)) = (u, true))
    (hp : ps ∉ j.todo) : readSource s cl id ps = u := by
  simp [readSource, hj, hb, hp]

theorem readSource_stays (hj : ((s.cluster cl).jobs.find? fun x => x.id == id) = some j) (hb : homeBanks s false (ps.map (·.1)) = (u, true))
    (hp : ps ∈ j.todo) (hg : engineGate u cl j false (ps.map (·.1)) = .stay w) : readSource s cl id ps = w := by
  simp [readSource, hj, hb, hp, hg]

theorem readSource_drops (hj : ((s.cluster cl).jobs.find? fun x => x.id == id) = some j) (hb : homeBanks s false (ps.map (·.1)) = (u, true))
    (hp : ps ∈ j.todo) (hg : engineGate u cl j false (ps.map (·.1)) = .drop w) : readSource s cl id ps = modJob w cl id fun x =>
      { x with todo := x.todo.erase ps, got := x.got ++ (ps.map (·.2)).zip (List.replicate ps.length 0), poisoned := true } := by
  simp [readSource, hj, hb, hp, hg]

theorem readSource_goes {v : State} {bs : List Byte} {p : Bool} (hj : ((s.cluster cl).jobs.find? fun x => x.id == id) = some j)
    (hb : homeBanks s false (ps.map (·.1)) = (u, true)) (hp : ps ∈ j.todo) (hg : engineGate u cl j false (ps.map (·.1)) = .go w)
    (hr : readHome w false (ps.map (·.1)) = (bs, p, v)) : readSource s cl id ps = modJob v cl id fun x =>
      { x with todo := x.todo.erase ps, got := x.got ++ (ps.map (·.2)).zip bs, poisoned := x.poisoned || p } := by
  simp [readSource, hj, hb, hp, hg, hr]

end

/-! ### Reads ahead of a frame, and writes of a result, by the job of a pour (R65, R209) -/

/-- A Ladle job is no pour's. -/
theorem pourOf_ladle {s : State} {j : Job} (h : isLadle j = true) : s.pourOf j = none := by
  unfold State.pourOf
  cases hk : j.kind <;> simp [isLadle, hk] at h ⊢

section
variable {s : State} {id : Nat} {j : Job} {p : Fin 8} {q : Pour}

theorem execLoadReply_readAhead (h : s.req id = none) : exec (.loadReply id) s = .next (readAhead s id) :=
  congrArg Host.Outcome.next (by rw [h])

theorem execWritePerform_writeSome (h : s.req id = none) : exec (.writePerform id) s = .next (writeSome s id) :=
  congrArg Host.Outcome.next (by rw [h])

theorem readAhead_noPour (hj : s.job id = some j) (hp : s.pourOf j = none) : readAhead s id = s := by
  simp only [readAhead, hj, hp]

theorem readAhead_pour (hj : s.job id = some j) (hp : s.pourOf j = some (p, q)) : readAhead s id =
    if !q.mayRead || (frameOffs (s.port p) q).isEmpty then s
    else if !j.reading then beginRead s (s.port p) q
    else (pick s.tick j.todo).1.foldl (fun s ps => readSource s q.cluster j.id ps) s := by
  simp only [readAhead, hj, hp]

theorem writeSome_eq (hj : s.job id = some j) : writeSome s id =
    if isLadle j then s else (pick s.tick j.out).1.foldl (fun s ps => writePiece s (clusterOf j.key) j.id ps) s := by
  simp only [writeSome, hj]

end

/-! ### The NAK window (R63, R64) -/

theorem readWindow_clear (ws : List (Option Nat)) : readWindow ws = .clear ↔ ∀ w ∈ ws, w = some 0 := by
  unfold readWindow
  split
  · next h => simpa using h
  · next h =>
    have noClear : ¬∀ w ∈ ws, w = some 0 := by simpa using h
    split
    · simp [noClear]
    · split <;> simp [noClear]

theorem readWindow_nak (ws : List (Option Nat)) :
    readWindow ws = .nak ↔ (∀ w ∈ ws, w ≠ none) ∧ 2 ≤ (ws.filter (· ≠ some 0)).length := by
  have lit : ws.filter (· != some 0) = ws.filter (· ≠ some 0) := List.filter_congr fun w _ => by rw [Bool.eq_iff_iff]; simp
  unfold readWindow
  rw [lit]
  split
  · next h =>
    have dark : ws.filter (· ≠ some 0) = [] := by simpa using h
    rw [dark]
    simp
  · split
    · next h =>
      obtain ⟨w, hw, erased⟩ := List.any_eq_true.mp h
      exact ⟨nofun, fun ⟨read, _⟩ => absurd (Option.isNone_iff_eq_none.mp erased) (read w hw)⟩
    · next h =>
      have read : ∀ w ∈ ws, w ≠ none := fun w hw hn => h (List.any_eq_true.mpr ⟨w, hw, Option.isNone_iff_eq_none.mpr hn⟩)
      split
      · next h2 => exact ⟨fun _ => ⟨read, h2⟩, fun _ => rfl⟩
      · next h2 => exact ⟨nofun, fun ⟨_, lit2⟩ => absurd lit2 h2⟩

section
variable {s v : State} {p : Fin 8} {q y : Pour} {good : Pour → Pour}

theorem endSending_uncertain : endSending s p q .uncertain good = s.modPort p fun x => x.modPour q.job fun _ => { q with code := some 5 } := rfl

/-- The port after a sending whose pour goes on as y: an ended pour leaves the segment idle. -/
def pourGoesOn (q y : Pour) (x : Port) : Port := if y.code.isSome then (x.modPour q.job fun _ => y).settleIdle else x.modPour q.job fun _ => y

theorem endSending_clear (hn : nextRound s (good q) = (v, y)) (hj : y.job = q.job) :
    endSending s p q .clear good = v.modPort p (pourGoesOn q y) := by
  unfold pourGoesOn
  simp only [endSending, hn, hj]
  split
  · rw [modPort_modPort]
  · rfl

theorem endSending_poisons {n : Nat} {z : Pour} (hs : ((s.port p).group q.grp).replaymax.toNat ≤ q.sending) (hf : poisonFrame q = (y, n))
    (hn : nextRound (s.modPort p fun x => { x with poisCnt := inc32 x.poisCnt n }) y = (v, z)) (hj : z.job = q.job) :
    endSending s p q .nak good = v.modPort p (pourGoesOn q z) := by
  unfold pourGoesOn
  simp only [endSending, if_neg (Nat.not_lt.mpr hs), hf, hn, hj]
  split
  · rw [modPort_modPort]
  · rfl

theorem endSending_replays (hs : q.sending < ((s.port p).group q.grp).replaymax.toNat) : endSending s p q .nak good =
    s.modPort p fun x => { x with replCnt := inc32 x.replCnt 1 }.modPour q.job fun _ => { q with sending := q.sending + 1, nrepl := q.nrepl + 1 } :=
  (if_pos hs).trans (modPort_modPort ..)

end

theorem pourGoesOn_open {q y : Pour} (h : y.code = none) (x : Port) : pourGoesOn q y x = x.modPour q.job fun _ => y := by
  simp [pourGoesOn, h]

theorem pourGoesOn_ended {q y : Pour} (h : y.code ≠ none) (x : Port) : pourGoesOn q y x = (x.modPour q.job fun _ => y).settleIdle := by
  simp [pourGoesOn, Option.isSome_iff_ne_none, h]

/-! ### The sums of a round-frame (R60) -/

/-- Element i's sum: the counts of its planes by their weights, that of a sign plane negative. -/
theorem frameSums_getElem? (n : Nat) (sgn : Bool) (rows : List (List (Option Nat))) {i : Nat} (h : i < 256) :
    (frameSums n sgn rows)[i]? = some ((List.range n).map fun j =>
      if sgn = true ∧ j + 1 = n then -((countAt rows (1 + n * (i / 64) + j) (i % 64) : Int) * 2 ^ j)
      else (countAt rows (1 + n * (i / 64) + j) (i % 64) : Int) * 2 ^ j).sum := by
  simp [frameSums, h]

/-- Settles O45: each frame is one sending of the pour that runs, which its source, its counts and its window settle. -/
theorem frameSteps : Obligations.FrameSteps := by
  refine ⟨fun s p f h => ⟨execRoundFrame_noPour h, execSkimFrame_noPour h⟩, ?_,
    fun s p f q h => ⟨fun _ => execRoundFrame_skim h, fun _ => execSkimFrame_data h⟩, ?_, ?_, ?_, ?_, ?_, ?_,
    fun x q => ⟨rfl, writesNow_iff x q⟩, ?_, fun ws _ => ⟨readWindow_clear ws, readWindow_nak ws⟩, fun s q h => if_pos h, fun q => rfl,
    fun sgn n rows i h => frameSums_getElem? n sgn rows h⟩
  · rintro s p f x rfl
    exact ⟨foreignFrame_disabled, fun h n hn => hn ▸ foreignFrame_enabled h⟩
  · rintro s u p f q q2 x pos n xs sums bs pois nak plan rows rfl hr hp rfl source rfl rfl rfl rfl rfl
    rw [execRoundFrame_data hr hp]
    rcases source with ⟨hk, rfl⟩ | ⟨hk, hw, hs, rfl⟩ | ⟨hk, hw, rfl, rfl, rfl⟩
    · simp only [dataFrame_kept hk, sendData]
    · simp only [dataFrame_reads hk hw hs, sendData]
    · simp only [dataFrame_listens hk hw, sendData]
  · rintro s u p f q x rfl hr hk hw hs
    exact ⟨fun pos hp => (execRoundFrame_data hr hp).trans (congrArg Host.Outcome.next (dataFrame_waits hk hw hs)),
      fun set hp => (execSkimFrame_skim hr hp).trans (congrArg Host.Outcome.next (skimFrameOf_waits hk hw hs))⟩
  · refine fun s u v x q => ⟨frameSource_none, ?_⟩
    rintro h rfl hv i j hi hj
    obtain rfl : v = sourceTried (sourceBegun s x q) q i := hv i hi
    rw [frameSource_tried h hi hj]
    exact ⟨fun h => if_pos (by simpa using h), fun h => if_neg (by simp [h])⟩
  · intro s id j hr hj
    rw [execLoadReply_readAhead hr, execWritePerform_writeSome hr, writeSome_eq hj]
    refine ⟨fun hl => ⟨congrArg Host.Outcome.next (readAhead_noPour hj (pourOf_ladle hl)), congrArg Host.Outcome.next (if_pos hl)⟩,
      fun hl => ⟨congrArg Host.Outcome.next (if_neg (Bool.eq_false_iff.mp hl)), fun p q hp => ?_⟩⟩
    rw [readAhead_pour hj hp]
    refine ⟨fun h => congrArg Host.Outcome.next (if_pos ?_), fun hm ho => ?_⟩
    · rcases h with h | h <;> simp [h]
    · rw [if_neg (by simp [hm, ho])]
      exact ⟨fun h => congrArg Host.Outcome.next (if_pos (by simp [h])), fun h => congrArg Host.Outcome.next (if_neg (by simp [h]))⟩
  · exact fun s u w cl id j ps hj => ⟨readSource_banks hj, fun hb => ⟨readSource_gone hj hb, readSource_stays hj hb, readSource_drops hj hb,
      fun bs p v hp hg hr => readSource_goes hj hb hp hg hr⟩⟩
  · rintro s u p f q q2 x set es bs pois nak wr lost plan lanes rows rfl hr hp rfl source rfl rfl rfl rfl rfl rfl
    rw [execSkimFrame_skim hr hp]
    rcases source with ⟨k, hk, rfl, rfl⟩ | ⟨hk, hw, hs, rfl⟩ | ⟨hk, hw, rfl, rfl, rfl⟩
    · simp only [skimFrameOf_kept hk, sendSkim]
    · simp only [skimFrameOf_reads hk hw hs, sendSkim]
    · simp only [skimFrameOf_listens hk hw, sendSkim]
  · intro s p q good
    refine ⟨endSending_uncertain, fun v y hn hj => ?_, fun hs y n v z hf hn hj => ?_, fun hs => ⟨_, endSending_replays hs, rfl, ?_, ?_⟩⟩
    · rw [endSending_clear hn hj]
      exact ⟨fun h => congrArg (v.modPort p) (funext (pourGoesOn_open h)), fun h => congrArg (v.modPort p) (funext (pourGoesOn_ended h))⟩
    · rw [endSending_poisons hs hf hn hj]
      exact ⟨fun h => congrArg (v.modPort p) (funext (pourGoesOn_open h)), fun h => congrArg (v.modPort p) (funext (pourGoesOn_ended h))⟩
    · rw [port_modPort_same]; rfl
    · rw [port_modPort_same]; exact toNat_inc32 ..

end Sys2Proof.Laws
end

section
/-! The pours of a port from their edges to their completion: the wake, the announcement, the roll-call, the grant and the completion writes (R53 to
R57, R70 to R72, R416, R420). That a completion is made piece by piece is log entry 17; that the announced group goes by the cycle's k, that ROLLTO is
judged at the cycle's start, that EXPSEQ advances at every completion and the hold of a waking group are log entry 28. -/

namespace Sys2Proof.Laws

open Sys2Proof Sys2Proof.Machine

/-! ### The group whose turn it is (R54, R56) -/

theorem leastOf_some {l : List Nat} {r : Nat} (h : leastOf l = some r) : r ∈ l ∧ ∀ o ∈ l, r ≤ o := by
  cases l with
  | nil => exact nomatch h
  | cons a l => exact Option.some.inj h ▸ foldl_min_spec a l

theorem leastOf_eq_none {l : List Nat} : leastOf l = none ↔ l = [] := by
  cases l <;> simp [leastOf]

theorem leastFrom_eq_none {k : Nat} {ns : List Nat} : leastFrom k ns = none ↔ ns = [] :=
  ⟨fun h => leastOf_eq_none.mp ((Option.orElse_eq_none ..).mp h).2, fun h => h ▸ rfl⟩

/-- Of groups, the one that comes first from a number on, wrapping. -/
theorem leastFrom_some {k r : Nat} {ns : List Nat} (hk : k ≤ 64) (hn : ∀ n ∈ ns, n < 64) (h : leastFrom k ns = some r) :
    r ∈ ns ∧ ∀ o ∈ ns, (r + 64 - k) % 64 ≤ (o + 64 - k) % 64 := by
  rcases (Option.orElse_eq_some ..).mp h with above | ⟨nothing, any⟩
  · obtain ⟨hr, least⟩ := leastOf_some above
    obtain ⟨mem, ge⟩ := List.mem_filter.mp hr
    refine ⟨mem, fun o ho => ?_⟩
    have := hn r mem
    have := hn o ho
    have := of_decide_eq_true ge
    by_cases hko : k ≤ o
    · have := least o (List.mem_filter.mpr ⟨ho, decide_eq_true hko⟩)
      omega
    · omega
  · obtain ⟨mem, least⟩ := leastOf_some any
    have below (n : Nat) (h : n ∈ ns) : n < k := by simpa using List.filter_eq_nil_iff.mp (leastOf_eq_none.mp nothing) n h
    refine ⟨mem, fun o ho => ?_⟩
    have := below r mem
    have := below o ho
    have := least o ho
    omega

theorem grantOf_some {last r : Nat} {rs : List Nat} (hl : last < 64) (hr : ∀ n ∈ rs, n < 64) (h : grantOf last rs = some r) :
    r ∈ rs ∧ ∀ o ∈ rs, (r + 64 - last - 1) % 64 ≤ (o + 64 - last - 1) % 64 := by
  simpa only [Nat.sub_sub] using leastFrom_some hl hr h

/-! ### The pour that a port announces (R54, R55; log entry 28) -/

/-- Whether the ROLLTO of a pour had expired when the port's cycle began. -/
def expiredAtStart (x : Port) (q : Pour) : Bool := match q.expired with | some e => decide (e ≤ x.idle / 32 * 32) | none => false

theorem choose_none {x : Port} (h : x.announcing = []) : x.choose = { x with ann := none, annExp := false } := by
  unfold Port.choose
  rw [h]
  rfl

theorem choose_some {x : Port} (h : x.announcing ≠ []) : ∃ q ∈ x.announcing,
    x.choose = { x with ann := some q.job, annExp := expiredAtStart x q }
    ∧ ∀ y ∈ x.announcing, (q.grp.val + 64 - x.k % 64) % 64 ≤ (y.grp.val + 64 - x.k % 64) % 64 := by
  have ready : leastFrom (x.k % 64) (x.announcing.map (·.grp.val)) ≠ none := mt leastFrom_eq_none.mp (mt List.map_eq_nil_iff.mp h)
  obtain ⟨n, hn⟩ := Option.ne_none_iff_exists'.mp ready
  obtain ⟨mem, first⟩ := leastFrom_some (Nat.le_of_lt (Nat.mod_lt _ (by decide))) (by simp) hn
  obtain ⟨y, hy, hyn⟩ := List.mem_map.mp mem
  obtain ⟨q, hq⟩ := Option.isSome_iff_exists.mp (List.find?_isSome (p := fun q : Pour => q.grp.val == n).mpr ⟨y, hy, beq_iff_eq.mpr hyn⟩)
  obtain rfl : q.grp.val = n := by simpa using List.find?_some hq
  refine ⟨q, List.mem_of_find?_eq_some hq, ?_, fun y hy => first _ (List.mem_map_of_mem hy)⟩
  unfold Port.choose
  simp only [hn, hq]
  rfl

theorem mem_announcing {x : Port} {q : Pour} : q ∈ x.announcing ↔ q ∈ x.pours ∧ q.st = .announcing ∧ q.code = none := by
  simp [Port.announcing]

theorem announced_of_ann_none {x : Port} (h : x.ann = none) : x.announced = none := by
  rw [Port.announced, h]; rfl

theorem announced_of_ann_some {x : Port} {j : Nat} (h : x.ann = some j) : x.announced = x.announcing.find? fun q => q.job == j := by
  rw [Port.announced, h]; rfl

section
variable {s : State} {p : Fin 8}

theorem execAnnouncement_stays (h : (s.port p).inCycle = false ∨ (s.port p).announced ≠ none ∨ barrierCycle s p = true
    ∨ (s.port p).spos.toNat < (s.port p).idle % 32 ∨ 32 ≤ (s.port p).seen.length) : exec (.announcement p) s = .next s := by
  refine congrArg Host.Outcome.next (if_neg ?_)
  rcases h with h | h | h | h | h <;> simp [h]

theorem execAnnouncement_chooses (hi : (s.port p).inCycle = true) (ha : (s.port p).announced = none) (hb : barrierCycle s p = false)
    (hk : (s.port p).idle % 32 ≤ (s.port p).spos.toNat) (hs : (s.port p).seen.length < 32) :
    exec (.announcement p) s = .next (s.setPort p (s.port p).choose) :=
  congrArg Host.Outcome.next (if_pos (by simp [hi, ha, hb, hk, hs]))

end

/-! ### Edges, and the start of the announcement (R53) -/

section
variable {s : State} {p : Fin 8} {n : Fin 64} {seq : BitVec 16} {q : Pour}

/-- No job from which a pour's job has an edge is held any more. -/
def edgesMet (s : State) (q : Pour) : Bool :=
  match (s.cluster q.cluster).jobs.find? fun j => j.id == q.job with
  | some j => edgesDone s q.cluster j
  | none => true

theorem edgesMet_iff : edgesMet s q = true ↔
    ∀ j, ((s.cluster q.cluster).jobs.find? fun j => j.id == q.job) = some j → edgesDone s q.cluster j = true := by
  unfold edgesMet
  cases (s.cluster q.cluster).jobs.find? fun j => j.id == q.job <;> simp

theorem edgesMet_open {j : Job} (hj : ((s.cluster q.cluster).jobs.find? fun j => j.id == q.job) = some j)
    (h : edgesDone s q.cluster j = false) : edgesMet s q = false := by
  unfold edgesMet
  rw [hj]
  exact h

/-- A pour whose edges are satisfied, with its job started and so much of ROLLTO left. -/
def pourReleased (s : State) (p : Fin 8) (q : Pour) (left : Option Nat) : State :=
  modJob (s.setPort p ((s.port p).modPour q.job fun y => { y with edgesOk := true, timer := left })) q.cluster q.job fun j => { j with started := true }

theorem execPourEdgesSatisfied_found (hq : (s.port p).findPour n seq = some q) : exec (.pourEdgesSatisfied p n seq) s = .next (
    if q.edgesOk || !edgesMet s q then s
    else if q.code.isNone then wakeAll (pourReleased s p q (some (((s.port p).group n).rollto.toNat * 1000))) p
    else pourReleased s p q none) := by
  refine congrArg Host.Outcome.next ?_
  simp only [hq]
  refine if_congr Iff.rfl rfl ?_
  cases q.code <;> rfl

theorem execPourEdgesSatisfied_wakes (hq : (s.port p).findPour n seq = some q) (ho : q.edgesOk = false) (he : edgesMet s q = true) (hc : q.code = none) :
    exec (.pourEdgesSatisfied p n seq) s = .next (wakeAll (pourReleased s p q (some (((s.port p).group n).rollto.toNat * 1000))) p) := by
  simp [execPourEdgesSatisfied_found hq, ho, he, hc]

theorem execPourEdgesSatisfied_ended (hq : (s.port p).findPour n seq = some q) (ho : q.edgesOk = false) (he : edgesMet s q = true) (hc : q.code ≠ none) :
    exec (.pourEdgesSatisfied p n seq) s = .next (pourReleased s p q none) := by
  simp [execPourEdgesSatisfied_found hq, ho, he, hc]

theorem execPourEdgesSatisfied_stays (hq : (s.port p).findPour n seq = some q) (h : q.edgesOk = true ∨ edgesMet s q = false) :
    exec (.pourEdgesSatisfied p n seq) s = .next s := by
  rw [execPourEdgesSatisfied_found hq, if_pos]
  rcases h with h | h <;> simp [h]

theorem execPourAnnounceStart_first (hq : ((s.port p).poursOf n).head? = some q) : exec (.pourAnnounceStart p n) s = .next (
    if q.st = .queued ∧ q.edgesOk = true ∧ q.code = none ∧ (s.port p).allLit = true then
      s.setPort p ((s.port p).modPour q.job fun y => { y with st := .announcing }) else s) := by
  refine congrArg Host.Outcome.next ?_
  simp only [hq]
  exact if_congr (by simp [and_assoc]) rfl rfl

theorem execPourAnnounceStart_starts (hq : ((s.port p).poursOf n).head? = some q) (hs : q.st = .queued) (he : q.edgesOk = true) (hc : q.code = none)
    (hl : (s.port p).allLit = true) :
    exec (.pourAnnounceStart p n) s = .next (s.setPort p ((s.port p).modPour q.job fun y => { y with st := .announcing })) := by
  rw [execPourAnnounceStart_first hq, if_pos ⟨hs, he, hc, hl⟩]

theorem execPourAnnounceStart_stays (hq : ((s.port p).poursOf n).head? = some q)
    (h : q.st ≠ .queued ∨ q.edgesOk = false ∨ q.code ≠ none ∨ (s.port p).allLit = false) : exec (.pourAnnounceStart p n) s = .next s := by
  rw [execPourAnnounceStart_first hq, if_neg]
  rcases h with h | h | h | h <;> simp [h]

theorem execPourComplete_completes (hq : (s.port p).findPour n seq = some q) (hc : q.code ≠ none) (he : q.edgesOk = true) :
    exec (.pourComplete p n seq) s = .next (completePour s p q) := by
  refine congrArg Host.Outcome.next ?_
  simp only [hq]
  exact if_pos (by simp [Option.isSome_iff_ne_none, hc, he])

theorem execPourComplete_stays (hq : (s.port p).findPour n seq = some q) (h : q.code = none ∨ q.edgesOk = false) :
    exec (.pourComplete p n seq) s = .next s := by
  refine congrArg Host.Outcome.next ?_
  simp only [hq]
  refine if_neg ?_
  rcases h with h | h <;> simp [h]

end

/-! ### Roll-call (R55) -/

/-- What the roll-call has of a position: its announcement of the pour's group and sequence number. -/
def answer (q : Pour) (seen : List (Option Announce)) (i : Nat) : Option Announce :=
  (seen.getD i none).filter fun a => a.grp == q.grp && a.seq == q.seq

theorem answer_eq_none {q : Pour} {seen : List (Option Announce)} {i : Nat} :
    answer q seen i = none ↔ ∀ a, seen.getD i none = some a → a.grp ≠ q.grp ∨ a.seq ≠ q.seq := by
  rw [answer, Option.filter_eq_none_iff]
  refine forall₂_congr fun a _ => ?_
  simp [imp_iff_not_or]

theorem answer_eq_describe {x : Port} {q : Pour} {seen : List (Option Announce)} {i : Nat} :
    answer q seen i = some (describe x q) ↔ seen.getD i none = some (describe x q) := by
  rw [answer, Option.filter_eq_some_iff]
  exact and_iff_left (by simp [describe])

theorem rollCall_eq (x : Port) (q : Pour) (seen : List (Option Announce)) : rollCall x q seen =
    if ∃ i ∈ maskBits (x.group q.grp).mask, answer q seen i = none then .incomplete
    else if ∀ i ∈ maskBits (x.group q.grp).mask, answer q seen i = some (describe x q) then .complete
    else .mismatch := by
  refine if_congr ?_ rfl (if_congr ?_ rfl rfl)
  · simp only [List.any_map, List.any_eq_true, Function.comp_apply, Option.isNone_iff_eq_none, answer]
    rfl
  · simp only [List.all_map, List.all_eq_true, Function.comp_apply, beq_iff_eq, answer]
    rfl

theorem rollCall_incomplete (x : Port) (q : Pour) (seen : List (Option Announce)) : rollCall x q seen = .incomplete ↔
    ∃ i ∈ maskBits (x.group q.grp).mask, ∀ a, seen.getD i none = some a → a.grp ≠ q.grp ∨ a.seq ≠ q.seq := by
  simp only [← answer_eq_none, rollCall_eq]
  split
  · next h => exact iff_of_true rfl h
  · next h => refine iff_of_false ?_ h; split <;> exact nofun

theorem rollCall_complete (x : Port) (q : Pour) (seen : List (Option Announce)) : rollCall x q seen = .complete ↔
    ∀ i ∈ maskBits (x.group q.grp).mask, seen.getD i none = some (describe x q) := by
  simp only [← answer_eq_describe, rollCall_eq]
  split
  · next h =>
    obtain ⟨i, hi, silent⟩ := h
    exact iff_of_false nofun fun all => nomatch silent.symm.trans (all i hi)
  · split
    · next h => exact iff_of_true rfl h
    · next h => exact iff_of_false nofun h

/-! ### The end of a cycle (R55, R56) -/

/-- The port at the start of the next announcement cycle. -/
def nextCycle (x : Port) : Port := { x with k := x.k + 1, ann := none, annExp := false, seen := [] }

@[simp] theorem pours_nextCycle (x : Port) : (nextCycle x).pours = x.pours := rfl
@[simp] theorem lastGrant_nextCycle (x : Port) : (nextCycle x).lastGrant = x.lastGrant := rfl
@[simp] theorem busy_nextCycle (x : Port) : (nextCycle x).busy = x.busy := rfl

/-- The port after the roll-call of the pour that it announced: a mismatch, and an incomplete roll-call after ROLLTO, end the pour. -/
def calledPort (x : Port) (own : Option Pour) (call : Option RollCall) : Port :=
  match own, call with
  | some q, some .mismatch => x.modPour q.job fun y => { y with code := some 3 }
  | some q, some .incomplete => if x.annExp then x.modPour q.job fun y => { y with code := some 2 } else x
  | _, _ => x

/-- The group that a complete roll-call makes ready. -/
def ownReady (own : Option Pour) (call : Option RollCall) : List Nat :=
  match own, call with
  | some q, some .complete => [q.grp.val]
  | _, _ => []

/-- The segment is granted to a group. -/
def granted (x : Port) (n : Nat) : Port := { x with lastGrant := Fin.ofNat 64 n, busy := true }

/-- The port after the grant among the ready groups rs, of which mine are the port's own. -/
def grantedPort (x : Port) (own : Option Pour) (mine rs : List Nat) : Port :=
  match grantOf x.lastGrant.val rs with
  | none => x
  | some n =>
    match own with
    | some q => if mine == [n] then (granted x n).modPour q.job (beginFrames (granted x n)) else granted x n
    | none => granted x n

/-- The ready groups of other ports that a port follows: none without its clock (R41). -/
def othersReady (x : Port) (gs : List Nat) : List Nat := if x.ckLost then [] else gs

/-- How the roll-call of the pour that a port announced in a cycle stands at its end. -/
def callOf (x : Port) (own : Option Pour) : Option RollCall := own.map fun q => rollCall x q x.seen

/-- The port after a cycle in which it announced this pour, with the ready groups gs of other ports. -/
def cycleOutcome (x : Port) (own : Option Pour) (gs : List Nat) : Port :=
  grantedPort (calledPort x own (callOf x own)) own (ownReady own (callOf x own))
    (ownReady own (callOf x own) ++ othersReady (calledPort x own (callOf x own)) gs)

section
variable {s : State} {p : Fin 8} {r0 r1 r2 r3 : BitVec 16}

theorem execAnnouncementCycleEnd_early (h : (s.port p).seen.length < 32) : exec (.announcementCycleEnd p r0 r1 r2 r3) s = .next s :=
  congrArg Host.Outcome.next (if_pos h)

theorem execAnnouncementCycleEnd_ends (h : 32 ≤ (s.port p).seen.length) : exec (.announcementCycleEnd p r0 r1 r2 r3) s =
    .next (s.setPort p (nextCycle (cycleOutcome (s.port p) (s.port p).announced (groupSet r0 r1 r2 r3)))) :=
  congrArg Host.Outcome.next (if_neg (Nat.not_lt.mpr h))

end

section
variable {x : Port} {own : Option Pour} {q : Pour} {n : Nat} {mine rs gs : List Nat}

theorem grantedPort_idle (h : grantOf x.lastGrant.val rs = none) : grantedPort x own mine rs = x := by
  rw [grantedPort, h]

theorem grantedPort_own (h : grantOf x.lastGrant.val rs = some n) :
    grantedPort x (some q) [n] rs = (granted x n).modPour q.job (beginFrames x) := by
  simp only [grantedPort, h, beq_self_eq_true, if_true]
  rfl

theorem grantedPort_other (h : grantOf x.lastGrant.val rs = some n) (hm : mine ≠ [n]) : grantedPort x own mine rs = granted x n := by
  rw [grantedPort, h]
  cases own with
  | none => rfl
  | some q => exact if_neg (by simpa using hm)

/-- Without a ready pour of the port's own, a grant changes none. -/
theorem pours_grantedPort_other : (grantedPort x own [] rs).pours = x.pours := by
  cases h : grantOf x.lastGrant.val rs with
  | none => rw [grantedPort_idle h]
  | some n => rw [grantedPort_other h (List.cons_ne_nil n []).symm]; rfl

theorem calledPort_frame (x : Port) (own : Option Pour) (call : Option RollCall) : ∃ pours, calledPort x own call = { x with pours } := by
  unfold calledPort
  split
  · exact ⟨_, rfl⟩
  · split <;> exact ⟨_, rfl⟩
  · exact ⟨_, rfl⟩

@[simp] theorem ckLost_calledPort (call : Option RollCall) : (calledPort x own call).ckLost = x.ckLost := by
  obtain ⟨_, h⟩ := calledPort_frame x own call; rw [h]
@[simp] theorem busy_calledPort (call : Option RollCall) : (calledPort x own call).busy = x.busy := by
  obtain ⟨_, h⟩ := calledPort_frame x own call; rw [h]
@[simp] theorem lastGrant_calledPort (call : Option RollCall) : (calledPort x own call).lastGrant = x.lastGrant := by
  obtain ⟨_, h⟩ := calledPort_frame x own call; rw [h]

theorem grantedPort_frame (x : Port) (own : Option Pour) (mine rs : List Nat) : ∃ pours lastGrant busy,
    grantedPort x own mine rs = { x with pours, lastGrant, busy } := by
  unfold grantedPort
  split
  · exact ⟨_, _, _, rfl⟩
  · split
    · split <;> exact ⟨_, _, _, rfl⟩
    · exact ⟨_, _, _, rfl⟩

/-- The end of a cycle changes the port's pours and its grant. -/
theorem cycleOutcome_frame (x : Port) (own : Option Pour) (gs : List Nat) : ∃ pours lastGrant busy,
    cycleOutcome x own gs = { x with pours, lastGrant, busy } := by
  obtain ⟨_, called⟩ := calledPort_frame x own (callOf x own)
  obtain ⟨_, _, _, granted⟩ := grantedPort_frame (calledPort x own (callOf x own)) own (ownReady own (callOf x own))
    (ownReady own (callOf x own) ++ othersReady (calledPort x own (callOf x own)) gs)
  rw [cycleOutcome, granted, called]
  exact ⟨_, _, _, rfl⟩

/-- Without a complete roll-call the grant goes to the ready groups of other ports. -/
theorem cycleOutcome_unready (h : ∀ q, own = some q → rollCall x q x.seen ≠ .complete) :
    cycleOutcome x own gs = grantedPort (calledPort x own (callOf x own)) own [] (othersReady x gs) := by
  have unready : ownReady own (callOf x own) = [] := by
    unfold ownReady
    split
    · next q hq => exact absurd (by simpa [callOf] using hq) (h q rfl)
    · rfl
  rw [cycleOutcome, unready, List.nil_append, othersReady, ckLost_calledPort, othersReady]

/-- A complete roll-call makes the port's own pour ready. -/
theorem cycleOutcome_ready (h : rollCall x q x.seen = .complete) :
    cycleOutcome x (some q) gs = grantedPort x (some q) [q.grp.val] (q.grp.val :: othersReady x gs) := by
  have call : callOf x (some q) = some .complete := congrArg some h
  rw [cycleOutcome, call]
  rfl

theorem pours_cycleOutcome_unready (h : ∀ q, own = some q → rollCall x q x.seen ≠ .complete) :
    (cycleOutcome x own gs).pours = (calledPort x own (callOf x own)).pours := by
  rw [cycleOutcome_unready h, pours_grantedPort_other]

theorem pours_cycleOutcome_none : (cycleOutcome x none gs).pours = x.pours := pours_cycleOutcome_unready fun _ h => nomatch h

theorem pours_cycleOutcome_mismatch (h : rollCall x q x.seen = .mismatch) :
    (cycleOutcome x (some q) gs).pours = (x.modPour q.job fun y => { y with code := some 3 }).pours := by
  have call : callOf x (some q) = some .mismatch := congrArg some h
  rw [pours_cycleOutcome_unready (by simp [h]), call]
  rfl

theorem pours_cycleOutcome_incomplete (h : rollCall x q x.seen = .incomplete) :
    (cycleOutcome x (some q) gs).pours = if x.annExp then (x.modPour q.job fun y => { y with code := some 2 }).pours else x.pours := by
  have call : callOf x (some q) = some .incomplete := congrArg some h
  rw [pours_cycleOutcome_unready (by simp [h]), call]
  exact apply_ite Port.pours ..

/-- The grant among the ready groups of other ports, where the port has none. -/
theorem cycleOutcome_grant_unready (h : ∀ q, own = some q → rollCall x q x.seen ≠ .complete) :
    (∀ n, grantOf x.lastGrant.val (othersReady x gs) = some n →
      (cycleOutcome x own gs).lastGrant = Fin.ofNat 64 n ∧ (cycleOutcome x own gs).busy = true)
    ∧ (grantOf x.lastGrant.val (othersReady x gs) = none →
      (cycleOutcome x own gs).lastGrant = x.lastGrant ∧ (cycleOutcome x own gs).busy = x.busy) := by
  have last := lastGrant_calledPort (x := x) (own := own) (callOf x own)
  rw [cycleOutcome_unready h, ← last]
  refine ⟨fun n hn => ?_, fun hn => ?_⟩
  · rw [grantedPort_other hn (List.cons_ne_nil n []).symm]
    exact ⟨rfl, rfl⟩
  · rw [grantedPort_idle hn]
    exact ⟨rfl, busy_calledPort _⟩

/-- The grant where the port's own pour is ready: it goes to that pour's group or to another. -/
theorem cycleOutcome_grant_ready (h : rollCall x q x.seen = .complete) : (cycleOutcome x (some q) gs).busy = true
    ∧ (grantOf x.lastGrant.val (q.grp.val :: othersReady x gs) = some q.grp.val →
      (cycleOutcome x (some q) gs).pours = (x.modPour q.job (beginFrames x)).pours ∧ (cycleOutcome x (some q) gs).lastGrant = q.grp)
    ∧ (grantOf x.lastGrant.val (q.grp.val :: othersReady x gs) ≠ some q.grp.val → (cycleOutcome x (some q) gs).pours = x.pours) := by
  have ready : grantOf x.lastGrant.val (q.grp.val :: othersReady x gs) ≠ none := mt leastFrom_eq_none.mp (List.cons_ne_nil _ _)
  obtain ⟨n, hn⟩ := Option.ne_none_iff_exists'.mp ready
  rw [cycleOutcome_ready h, hn]
  by_cases own : n = q.grp.val
  · subst own
    rw [grantedPort_own hn]
    exact ⟨rfl, fun _ => ⟨rfl, Fin.ofNat_val_eq_self q.grp⟩, fun other => absurd rfl other⟩
  · rw [grantedPort_other hn (by simpa using Ne.symm own)]
    exact ⟨rfl, fun ours => absurd (Option.some.inj ours) own, fun _ => rfl⟩

end

theorem pours_rollExpire (x : Port) (n : Fin 64) : (rollExpire (fun q => q.grp == n) x).pours = x.pours.map fun q =>
    if q.grp = n ∧ q.timer = some 0 ∧ q.st ≠ .running then { q with timer := none, expired := some x.idle } else q := by
  simp [rollExpire, and_assoc]

/-! ### What leaves the ports, the clusters and the timebase -/

/-- The ports, the clusters and the timebase stay as they are. -/
structure KeepsPorts (s t : State) : Prop where
  ports : t.ports = s.ports
  clusters : t.clusters = s.clusters
  tb : t.tb = s.tb

namespace KeepsPorts

variable {s t u : State}

theorem refl (s : State) : KeepsPorts s s := ⟨rfl, rfl, rfl⟩

theorem trans (h : KeepsPorts s t) (k : KeepsPorts t u) : KeepsPorts s u :=
  ⟨k.ports.trans h.ports, k.clusters.trans h.clusters, k.tb.trans h.tb⟩

theorem foldl {α : Type} {f : State → α → State} (h : ∀ s a, KeepsPorts s (f s a)) (l : List α) (s : State) : KeepsPorts s (l.foldl f s) :=
  List.foldlRecOn l f (refl s) fun t kept a _ => kept.trans (h t a)

theorem ite {c : Prop} [Decidable c] (h : KeepsPorts s t) (k : KeepsPorts s u) : KeepsPorts s (if c then t else u) := by
  split
  · exact h
  · exact k

theorem port (h : KeepsPorts s t) (p : Fin 8) : t.port p = s.port p := by rw [State.port, h.ports, State.port]

theorem cluster (h : KeepsPorts s t) (n : Nat) : t.cluster n = s.cluster n := by rw [State.cluster, h.clusters, State.cluster]

end KeepsPorts

theorem keepsPorts_raiseAlarm (s : State) (c : Nat) (must : Bool) : KeepsPorts s (raiseAlarm s c must) := by
  rw [raiseAlarm_eq s c must _ rfl]
  exact ⟨rfl, rfl, rfl⟩

theorem keepsPorts_mem (s : State) (mem : Mem) : KeepsPorts s { s with mem } := ⟨rfl, rfl, rfl⟩

theorem keepsPorts_modCtx (s : State) (key : Nat) (n : Bool) (f : Ctx → Ctx) : KeepsPorts s (s.modCtx key n f) := ⟨rfl, rfl, rfl⟩

theorem keepsPorts_putPhys (s : State) (loc : Nat) (bs : List Byte) : KeepsPorts s (s.putPhys loc bs) := by
  induction bs generalizing s loc with
  | nil => exact .refl s
  | cons b bs ih => exact .trans (keepsPorts_mem s _) (ih _ (loc + 1))

theorem keepsPorts_syncStep (s : State) (w : Nat) : KeepsPorts s (syncStep s w) := .ite (keepsPorts_putPhys ..) (.refl s)

theorem keepsPorts_notifyMonitors (s : State) (w : Nat) : KeepsPorts s (notifyMonitors s w) := by
  refine .foldl (fun s m => ?_) _ s
  exact keepsPorts_modCtx s m.2.1 m.2.2 _

theorem keepsPorts_performWrite (s : State) (fw : Bool) (ps : List (Nat × Byte)) : KeepsPorts s (performWrite s fw ps) := by
  have alarmed (b : Bool) : KeepsPorts s (if b then raiseAlarm s 2 false else s) := .ite (keepsPorts_raiseAlarm ..) (.refl s)
  have put (s : State) (ps : List (Nat × Byte)) : KeepsPorts s (ps.foldl (fun s p => { s with mem := s.mem.put (s.phys p.1) p.2 }) s) :=
    .foldl (fun s _ => keepsPorts_mem s _) ps s
  have marked (s : State) (poison spmLive : List Nat) : KeepsPorts s { s with poison, spmLive } := ⟨rfl, rfl, rfl⟩
  have stepped (s : State) (sw : List Nat) : KeepsPorts s (sw.foldl (fun s w => notifyMonitors (syncStep s w) w) s) :=
    .foldl (fun s w => (keepsPorts_syncStep s w).trans (keepsPorts_notifyMonitors ..)) sw s
  exact ((alarmed _).trans (put _ _)).trans ((marked _ _ _).trans (stepped _ _))

theorem keepsPorts_writePieces (s : State) (fw : Bool) (ps : List (Nat × Byte)) : KeepsPorts s (writePieces s fw ps) :=
  .foldl (fun s ps => keepsPorts_performWrite s fw ps) _ s

theorem keepsPorts_syncAdd (s : State) (loc n : Nat) (pois : Bool) : KeepsPorts s (syncAdd s loc n pois) := by
  have marked : KeepsPorts s (setMark s loc) := ⟨rfl, rfl, rfl⟩
  have counted := marked.trans (keepsPorts_putPhys _ loc (bytesOfNat 6 (((setMark s loc).syncCount loc + n) % 2 ^ 48)))
  have flagged (s : State) : KeepsPorts s (if pois then s.putPhys (loc + 14) [s.byteAt (loc + 14) ||| 1] else s) := .ite (keepsPorts_putPhys ..) (.refl s)
  have lives (s : State) (b : Bool) (w : Nat) : KeepsPorts s (if b then s.liven w else s) := .ite ⟨rfl, rfl, rfl⟩ (.refl s)
  exact ((((counted.trans (flagged _)).trans (lives _ _ _)).trans (lives _ _ _)).trans (keepsPorts_syncStep ..)).trans (keepsPorts_notifyMonitors ..)

theorem keepsPorts_pushImage (s : State) (area img cnt room : Nat) (w : Word) : KeepsPorts s (pushImage s area img cnt room w) := by
  refine .ite ?_ ?_
  · exact (keepsPorts_performWrite ..).trans (keepsPorts_performWrite ..)
  · exact keepsPorts_performWrite ..

theorem keepsPorts_pushQ7 (s : State) (key : Nat) (n : Bool) (area : Option Nat) (w : Word) : KeepsPorts s (pushQ7 s key n area w) := by
  unfold pushQ7
  cases area with
  | some b => exact keepsPorts_pushImage s b 3840 3888 4 w
  | none => exact keepsPorts_modCtx s key n _

theorem keepsPorts_postNotification (s : State) (n : NotSlot) : KeepsPorts s (postNotification s n) := by
  have posted (hostMem : Mem) (run : Bool) (v : Nat) : KeepsPorts s
      (if run then { s with hostMem } else { { s with hostMem } with msix := v :: s.msix }) := .ite ⟨rfl, rfl, rfl⟩ ⟨rfl, rfl, rfl⟩
  unfold postNotification
  refine .ite ?_ (posted _ _ _)
  exact ⟨rfl, rfl, rfl⟩

theorem keepsPorts_signalEvent (s : State) (id : Nat) : KeepsPorts s (signalEvent s id) := by
  have posted (s : State) (l : List (Nat × NotSlot)) : KeepsPorts s (l.foldl (fun s n => postNotification s n.2) s) := by
    refine .foldl (fun s n => ?_) l s
    exact keepsPorts_postNotification s n.2
  have counted (s : State) (events : Tbl Event) : KeepsPorts s { s with events } := ⟨rfl, rfl, rfl⟩
  have freed (s : State) (nextId : Nat) (held : List Held) : KeepsPorts s { s with nextId, held } := ⟨rfl, rfl, rfl⟩
  exact .ite (.refl s) ((counted s _).trans (.ite ((freed _ _ _).trans (posted _ _)) (.refl _)))

/-! ### The other jobs of a cluster -/

theorem filter_map_job {f : Job → Job} (hf : ∀ j, (f j).id = j.id) (id : Nat) (l : List Job) :
    (l.map fun j => if j.id = id then f j else j).filter (fun j => j.id ≠ id) = l.filter fun j => j.id ≠ id := by
  induction l with
  | nil => rfl
  | cons j l ih => by_cases h : j.id = id <;> simp_all

/-- A change of a job leaves the others of its cluster. -/
theorem otherJobs_modJob {f : Job → Job} (hf : ∀ j, (f j).id = j.id) (s : State) (cl id : Nat) :
    ((modJob s cl id f).cluster cl).jobs.filter (fun j => j.id ≠ id) = (s.cluster cl).jobs.filter fun j => j.id ≠ id := by
  rw [modJob, cluster_modCluster_same]
  exact filter_map_job hf id _

theorem keepsPorts_dequeueUnit (s : State) (id loc : Nat) : KeepsPorts s (dequeueUnit s id loc) := by
  have stacked (s : State) (n : Nat) (x : Stack) : KeepsPorts s (s.setStack n x) := ⟨rfl, rfl, rfl⟩
  exact (stacked s _ _).trans (.ite (stacked _ _ _) (.refl _))

/-- A job that leaves the stacks' queues changes no port and no other job of its cluster. -/
theorem unparkAll_frame (s : State) (cl : Nat) (j : Job) : (unparkAll s cl j).ports = s.ports ∧ (unparkAll s cl j).tb = s.tb
    ∧ ((unparkAll s cl j).cluster cl).jobs.filter (fun i => i.id ≠ j.id) = (s.cluster cl).jobs.filter fun i => i.id ≠ j.id := by
  unfold unparkAll
  refine List.foldlRecOn (motive := fun t : State => t.ports = s.ports ∧ t.tb = s.tb
    ∧ (t.cluster cl).jobs.filter (fun i => i.id ≠ j.id) = (s.cluster cl).jobs.filter fun i => i.id ≠ j.id) _ _ ⟨rfl, rfl, rfl⟩ ?_
  rintro t ⟨ports, tb, jobs⟩ k -
  have kept := keepsPorts_dequeueUnit t k.id k.loc
  refine ⟨kept.ports.trans ports, kept.tb.trans tb, (otherJobs_modJob ?_ ..).trans ?_⟩
  · exact fun _ => rfl
  · rw [kept.cluster, jobs]

theorem id_of_job {s : State} {id : Nat} {j : Job} (h : s.job id = some j) : j.id = id := by
  obtain ⟨c, -, found⟩ := List.exists_of_findSome?_eq_some h
  simpa using List.find?_some found

/-! ### Poisoned blocks (R65, R70; log entry 17) -/

theorem ports_writeBlock (s : State) (q : Pour) (b : Nat) (img : List Byte) : (writeBlock s q b img).ports = s.ports := by
  have alarmed (c : Bool) (as : List Nat) : (if c then lockAlarm s false q.cluster q.asid as else s).ports = s.ports := by
    split
    · exact (KeepsPorts.ite (keepsPorts_raiseAlarm ..) (.refl s)).ports
    · rfl
  exact alarmed _ _

theorem ports_writePoison (s : State) (q : Pour) (lo hi : Nat) : (writePoison s q lo hi).ports = s.ports :=
  List.foldlRecOn (motive := fun t : State => t.ports = s.ports) _ _ rfl fun t kept b _ => (ports_writeBlock t q b _).trans kept

/-- The blocks of a pour that are poisoned when it is completed. -/
def blocksLeft (q : Pour) : Nat := q.blocks - q.written - countedHere q

theorem port_finishBlocks (s : State) (p : Fin 8) (q : Pour) : (finishBlocks s p q).port p =
    { s.port p with
      poisCnt := inc32 (s.port p).poisCnt (blocksLeft q)
      pours := (s.port p).pours.map fun y => if y.job = q.job then { y with npois := q.npois + blocksLeft q, blocksDone := true } else y } := by
  have kept : (modJob (writePoison s q q.written q.blocks) q.cluster q.job fun j => { j with todo := [], reading := false }).port p = s.port p :=
    congrArg (·.get p) (ports_writePoison s q q.written q.blocks)
  rw [finishBlocks, port_modPort_same, kept]
  rfl

/-! ### What follows the last block (R70, R72; log entry 28) -/

/-- The status word and the sync word of a pour are written. -/
def pourReported (s : State) (p : Fin 8) (q : Pour) : State :=
  syncAdd (writePieces s false (pairsAt (q.syncLoc + 16) (bytesOfNat 8 (statusWord p q).toNat))) q.syncLoc (dstLen q.kind q.count) (q.code != some 0)

/-- A port without a completed pour: EXPSEQ and the counters advance. -/
def pourDone (q : Pour) (x : Port) : Port :=
  { x.setGroup q.grp { x.group q.grp with expseq := q.seq + 1 } with
    pourCnt := inc32 x.pourCnt 1, absCnt := inc32 x.absCnt (if q.code = some 2 then 1 else 0), pours := x.pours.filter fun y => y.job ≠ q.job }

/-- q7 and the event of a pour learn of its completion. -/
def pourTold (s : State) (p : Fin 8) (q : Pour) : State :=
  signalEvent (if q.q7 && q.owned then pushQ7 s q.key q.ctx q.area (statusWord p q) else s) q.evt.toNat

/-- The job of a pour leaves the stacks' queues. -/
def pourUnparked (s : State) (q : Pour) : State := match s.job q.job with | some j => unparkAll s q.cluster j | none => s

/-- A port whose groups begin their hold. -/
def heldPort (tb : Nat) (x : Port) : Port :=
  { x with lasers := Vector.ofFn fun g : Fin 9 =>
      let l := x.lasers.get g
      if l.st == LaserSt.off || Port.forced x g then l else { l with since := if l.st == .lit then tb else l.since, holding := true } }

/-- All that follows a pour's last block but for the end of its job and the lasers' hold. -/
def pourClosed (s : State) (p : Fin 8) (q : Pour) : State := pourUnparked (pourTold ((pourReported s p q).modPort p (pourDone q)) p q) q

theorem finishPour_eq (s : State) (p : Fin 8) (q : Pour) : finishPour s p q =
    holdAll ((pourClosed s p q).modCluster q.cluster fun c => { c with jobs := c.jobs.filter fun j => j.id ≠ q.job }) p := rfl

theorem keepsPorts_pourReported (s : State) (p : Fin 8) (q : Pour) : KeepsPorts s (pourReported s p q) :=
  (keepsPorts_writePieces ..).trans (keepsPorts_syncAdd ..)

theorem keepsPorts_pourTold (s : State) (p : Fin 8) (q : Pour) : KeepsPorts s (pourTold s p q) :=
  (KeepsPorts.ite (keepsPorts_pushQ7 ..) (.refl s)).trans (keepsPorts_signalEvent ..)

theorem pourUnparked_frame (s : State) (q : Pour) : (pourUnparked s q).ports = s.ports ∧ (pourUnparked s q).tb = s.tb
    ∧ ((pourUnparked s q).cluster q.cluster).jobs.filter (fun j => j.id ≠ q.job) = (s.cluster q.cluster).jobs.filter fun j => j.id ≠ q.job := by
  unfold pourUnparked
  split
  · next j hj => rw [← id_of_job hj]; exact unparkAll_frame s q.cluster j
  · exact ⟨rfl, rfl, rfl⟩

theorem pourClosed_frame (s : State) (p : Fin 8) (q : Pour) :
    (pourClosed s p q).port p = pourDone q (s.port p) ∧ (pourClosed s p q).tb = s.tb
    ∧ ((pourClosed s p q).cluster q.cluster).jobs.filter (fun j => j.id ≠ q.job) = (s.cluster q.cluster).jobs.filter fun j => j.id ≠ q.job := by
  have reported := keepsPorts_pourReported s p q
  have told := keepsPorts_pourTold ((pourReported s p q).modPort p (pourDone q)) p q
  obtain ⟨ports, tb, jobs⟩ := pourUnparked_frame (pourTold ((pourReported s p q).modPort p (pourDone q)) p q) q
  have done : ((pourReported s p q).modPort p (pourDone q)).cluster q.cluster = s.cluster q.cluster := reported.cluster q.cluster
  refine ⟨?_, tb.trans (told.tb.trans reported.tb), jobs.trans ?_⟩
  · rw [pourClosed, State.port, ports, ← State.port, told.port, port_modPort_same, reported.port]
  · rw [told.cluster, done]

theorem port_finishPour (s : State) (p : Fin 8) (q : Pour) : (finishPour s p q).port p = heldPort s.tb (pourDone q (s.port p)) := by
  obtain ⟨port, tb, -⟩ := pourClosed_frame s p q
  rw [finishPour_eq, ← port, ← tb]
  exact port_modPort_same ..

theorem jobs_finishPour (s : State) (p : Fin 8) (q : Pour) :
    ((finishPour s p q).cluster q.cluster).jobs = (s.cluster q.cluster).jobs.filter fun j => j.id ≠ q.job := by
  obtain ⟨-, -, jobs⟩ := pourClosed_frame s p q
  have before := cluster_modCluster_same (pourClosed s p q) q.cluster fun c => { c with jobs := c.jobs.filter fun j => j.id ≠ q.job }
  rw [finishPour_eq]
  exact (congrArg Cluster.jobs before).trans jobs

theorem laser_heldPort (tb : Nat) (x : Port) (g : Fin 9) : (heldPort tb x).lasers.get g =
    if (x.lasers.get g).st = .off ∨ x.force.getLsbD g.val = true then x.lasers.get g
    else { x.lasers.get g with since := if (x.lasers.get g).st = .lit then tb else (x.lasers.get g).since, holding := true } := by
  simp [heldPort, Port.forced]

theorem group_pourDone_same (q : Pour) (x : Port) : (pourDone q x).group q.grp = { x.group q.grp with expseq := q.seq + 1 } := tget_tset_same ..

theorem group_pourDone_other (q : Pour) (x : Port) {g : Fin 64} (h : g ≠ q.grp) : (pourDone q x).group g = x.group g :=
  tget_tset_other _ _ _ (Fin.val_ne_of_ne h)

/-! ### Completion (R70; log entry 17) -/

/-- The locations that a pour's completion writes: its status word, COUNT with GEN of its sync word, and FLAGS unless the pour ended well. -/
def completionWrites (q : Pour) : List Nat := (q.syncLoc + 16) :: if q.code = some 0 then [q.syncLoc] else [q.syncLoc, q.syncLoc + 8]

/-- The state after an attempt to write what stands of a pour, its missing blocks poisoned. -/
def pourDrained (s : State) (p : Fin 8) (q : Pour) : State := drainPour (if q.blocksDone then s else finishBlocks s p q) q

/-- A completion whose banks have answered: it waits for them, or for the writes that stand, or it finishes. -/
def banksAnswered (p : Fin 8) (q : Pour) (r : State × Bool) : State :=
  if !r.2 then r.1
  else if pourHeld (pourDrained r.1 p q) q then pourDrained r.1 p q
  else
    match ((pourDrained r.1 p q).port p).pours.find? fun y => y.job == q.job with
    | some z => finishPour (pourDrained r.1 p q) p z
    | none => pourDrained r.1 p q

theorem completePour_eq (s : State) (p : Fin 8) (q : Pour) :
    completePour s p q = banksAnswered p q (homeBanksRw s (completionWrites q) [q.syncLoc + 8]) := by
  have needs : (q.syncLoc + 16) :: (syncNeeds q.syncLoc (q.code != some 0)).1 = completionWrites q := by
    unfold completionWrites syncNeeds
    by_cases h : q.code = some 0
    · rw [h]; rfl
    · rw [if_neg h, bne_iff_ne.mpr h]; rfl
  rw [← needs]
  rfl

section
variable {s u : State} {p : Fin 8} {q z : Pour}

theorem completePour_banks (hb : homeBanksRw s (completionWrites q) [q.syncLoc + 8] = (u, false)) : completePour s p q = u := by
  rw [completePour_eq, hb]
  rfl

theorem completePour_held (hb : homeBanksRw s (completionWrites q) [q.syncLoc + 8] = (u, true)) (hh : pourHeld (pourDrained u p q) q = true) :
    completePour s p q = pourDrained u p q := by
  rw [completePour_eq, hb]
  exact if_pos hh

theorem completePour_finishes (hb : homeBanksRw s (completionWrites q) [q.syncLoc + 8] = (u, true)) (hh : pourHeld (pourDrained u p q) q = false)
    (hz : (((pourDrained u p q).port p).pours.find? fun y => y.job == q.job) = some z) : completePour s p q = finishPour (pourDrained u p q) p z := by
  rw [completePour_eq, hb]
  simp only [banksAnswered, Bool.not_true, Bool.false_eq_true, if_false, hh, hz]

end

/-! ### The status word (R71) -/

theorem toNat_statusWord (p : Fin 8) (q : Pour) (hr : q.rounds < 64) (hl : q.lim < 16) : (statusWord p q).toNat =
    q.seq.toNat * 2 ^ 48 + q.grp.val * 2 ^ 42 + p.val * 2 ^ 39 + min 255 q.npois * 2 ^ 24 + min 255 q.nrepl * 2 ^ 16
      + q.rounds * 2 ^ 10 + q.sat.toNat * 2 ^ 8 + q.lim * 2 ^ 4 + (q.code.getD 0).toNat := by
  have := q.seq.isLt
  have := q.grp.isLt
  have := Bool.toNat_lt q.sat
  have := (q.code.getD 0).isLt
  rw [statusWord, BitVec.toNat_ofNat]
  omega

/-- A field of a word that holds a number. -/
theorem extractLsb'_eq_ofNat {w : Word} {lo n k : Nat} (h : w.toNat / 2 ^ lo % 2 ^ n = k % 2 ^ n) : w.extractLsb' lo n = BitVec.ofNat n k := by
  apply BitVec.eq_of_toNat_eq
  rw [BitVec.extractLsb'_toNat, Nat.shiftRight_eq_div_pow, h, BitVec.toNat_ofNat]

/-- A field of a word that holds a bit vector. -/
theorem extractLsb'_eq {w : Word} {lo n : Nat} {v : BitVec n} (h : w.toNat / 2 ^ lo % 2 ^ n = v.toNat) : w.extractLsb' lo n = v := by
  apply BitVec.eq_of_toNat_eq
  rw [BitVec.extractLsb'_toNat, Nat.shiftRight_eq_div_pow, h]

theorem statusWord_fields (p : Fin 8) (q : Pour) (hr : q.rounds < 64) (hl : q.lim < 16) :
    (statusWord p q).extractLsb' 48 16 = q.seq ∧ (statusWord p q).extractLsb' 42 6 = BitVec.ofNat 6 q.grp.val
    ∧ (statusWord p q).extractLsb' 39 3 = BitVec.ofNat 3 p.val ∧ (statusWord p q).extractLsb' 24 8 = BitVec.ofNat 8 (min 255 q.npois)
    ∧ (statusWord p q).extractLsb' 16 8 = BitVec.ofNat 8 (min 255 q.nrepl) ∧ (statusWord p q).extractLsb' 10 6 = BitVec.ofNat 6 q.rounds
    ∧ (statusWord p q).getLsbD 8 = q.sat ∧ (statusWord p q).extractLsb' 4 4 = BitVec.ofNat 4 q.lim
    ∧ (statusWord p q).extractLsb' 0 4 = q.code.getD 0 := by
  have word := toNat_statusWord p q hr hl
  have := q.seq.isLt
  have := q.grp.isLt
  have := Bool.toNat_lt q.sat
  have := (q.code.getD 0).isLt
  have saturated : (statusWord p q).toNat / 2 ^ 8 % 2 = q.sat.toNat := by omega
  refine ⟨extractLsb'_eq ?_, extractLsb'_eq_ofNat ?_, extractLsb'_eq_ofNat ?_, extractLsb'_eq_ofNat ?_, extractLsb'_eq_ofNat ?_,
    extractLsb'_eq_ofNat ?_, ?_, extractLsb'_eq_ofNat ?_, extractLsb'_eq ?_⟩
  case refine_7 => rw [BitVec.getLsbD, Nat.testBit_eq_decide_div_mod_eq, saturated]; cases q.sat <;> rfl
  all_goals omega

/-- Settles O44: each step of a pour is a change of its port that its condition makes or leaves out, and a completion that finds every block written
changes the port as R70 says, whatever its writes, q7 and its event do elsewhere. -/
theorem pourSteps : Obligations.PourSteps := by
  refine ⟨?_, ?_, ?_, fun x => choose_none, fun x => choose_some, ?_,
    fun x => ⟨announced_of_ann_none, fun j => announced_of_ann_some, fun q hq => ?_⟩, fun s p r0 r1 r2 r3 => execAnnouncementCycleEnd_early,
    fun x q seen => ⟨rollCall_complete x q seen, rollCall_incomplete x q seen⟩,
    fun last rs hl hr r => grantOf_some hl hr, fun s p n => ⟨_, rfl, rfl, rfl, fun o => port_setPort_other s _, ?_⟩, ?_,
    fun s p q => ⟨blocksLeft q, rfl, ?_⟩, ?_, ?_⟩
  · rintro s p n seq x q rfl hq
    exact ⟨fun ho he => ⟨execPourEdgesSatisfied_wakes hq ho (edgesMet_iff.mpr he), execPourEdgesSatisfied_ended hq ho (edgesMet_iff.mpr he)⟩,
      fun h => execPourEdgesSatisfied_stays hq (h.imp_right fun ⟨j, hj, hd⟩ => edgesMet_open hj hd),
      execPourComplete_completes hq, execPourComplete_stays hq⟩
  · rintro s p n x q rfl hq
    exact ⟨execPourAnnounceStart_starts hq, execPourAnnounceStart_stays hq⟩
  · rintro s p x rfl
    exact ⟨execAnnouncement_stays, execAnnouncement_chooses⟩
  · rintro s p r0 r1 r2 r3 x own fs rfl hs rfl rfl
    refine ⟨_, execAnnouncementCycleEnd_ends hs, ?_⟩
    simp only [port_setPort_same, pours_nextCycle, lastGrant_nextCycle, busy_nextCycle]
    obtain ⟨pours, lastGrant, busy, frame⟩ := cycleOutcome_frame (s.port p) (s.port p).announced (groupSet r0 r1 r2 r3)
    refine ⟨?_, rfl, rfl, rfl, ?_, rfl, rfl, fun o => port_setPort_other s _, fun ho => ?_, fun q ho hc => ?_, fun q ho hc => ?_,
      cycleOutcome_grant_unready, fun q ho hc => ?_⟩
    · rw [frame]; rfl
    · rw [frame]; rfl
    · rw [ho]; exact pours_cycleOutcome_none
    · rw [ho]; exact pours_cycleOutcome_mismatch hc
    · rw [ho]; exact pours_cycleOutcome_incomplete hc
    · rw [ho]; exact cycleOutcome_grant_ready hc
  · obtain ⟨held, announcing, going⟩ := mem_announcing.mp hq
    exact ⟨announcing, going, held⟩
  · rw [port_modPort_same]
    exact pours_rollExpire _ n
  · rintro s u p q ws rfl
    refine ⟨completePour_banks, fun hb v hv => ?_⟩
    subst hv
    exact ⟨completePour_held hb, fun z => completePour_finishes hb⟩
  · rw [port_finishBlocks]
    exact ⟨rfl, toNat_inc32 ..⟩
  · rintro s p q t rfl
    rw [port_finishPour]
    exact ⟨rfl, toNat_inc32 .., group_pourDone_same q _, toNat_inc32 .., laser_heldPort s.tb _, fun g => group_pourDone_other q _, jobs_finishPour s p q⟩
  · rintro p q hr hl w rfl
    exact statusWord_fields p q hr hl

end Sys2Proof.Laws
end

section
/-! Wipe, accepted features, attestation reports and the life cycle (R86, R90 to R92). -/

namespace Sys2Proof.Laws

open Sys2Proof Sys2Proof.Machine

/-! ### Wipe (R91, R92) -/

/-- A change of the fuses that is allowed is a reset with the fuses changed (R92). -/
theorem writeLcreq_allowed {s : State} {v : Word} (hg : v.getLsbD 8 = true) (ha : lcAllowed s.fuses (v.extractLsb' 0 2) = true) :
    writeLcreq s v = resetModule { s with fuses := v.extractLsb' 0 2 } := by
  simp only [writeLcreq, ofNat_bitsAt, hg, ha]
  rfl

theorem setWidth_two (v : Word) : v.setWidth 2 = v.extractLsb' 0 2 := by
  rw [BitVec.setWidth_eq_extractLsb' (by decide)]

/-- What a wipe leaves: no byte, tag, live granule, bank, event or group of the module holds anything. -/
structure Wiped (u : State) : Prop where
  bytes : ∀ a < foreignBase, u.byteAt a = 0
  mem : u.mem = Mem.empty
  full : u.full = []
  granules : ∀ key n, (u.ctx key n).live = 0 ∧ (u.ctx key n).pend = 0
  banks : ∀ key b k, ((u.core key).bank b k).st = .off
  events : ∀ id, (tget {} u.events id).target = 0
  groups : ∀ g, u.group g = {}

theorem wiped_reset : Wiped State.reset where
  bytes a ha := by simp only [State.byteAt, if_neg (Nat.not_le_of_lt ha)]; rfl
  mem := rfl
  full := rfl
  granules key n := by rw [ctx_reset]; exact ⟨rfl, rfl⟩
  banks _ _ _ := rfl
  events _ := rfl
  groups _ := rfl

theorem wiped_resetModule (s : State) : Wiped (resetModule s) where
  bytes a ha := by simp only [State.byteAt, if_neg (Nat.not_le_of_lt ha)]; rfl
  mem := rfl
  full := rfl
  granules := wiped_reset.granules
  banks := wiped_reset.banks
  events := wiped_reset.events
  groups := wiped_reset.groups

/-- Settles O48: what a reset and a change of the fuses leave is `resetModule`, which is wiped as `State.reset` is. -/
theorem wipeAtReset : Obligations.WipeAtReset := by
  refine ⟨fun s t ht u hu => ?_, fun s => ⟨_, rfl⟩, fun s v hg ha => ?_⟩
  · obtain rfl : resetModule s = t := Host.Outcome.next.inj ht
    have wiped : Wiped u := by
      rcases hu with rfl | rfl | ⟨v, hg, ha, hv⟩
      · exact wiped_reset
      · exact wiped_resetModule s
      · rw [setWidth_two] at ha
        rw [← Host.Outcome.next.inj hv, writeLcreq_allowed hg ha]
        exact wiped_resetModule _
    exact ⟨wiped.bytes, wiped.mem, wiped.full, wiped.granules, wiped.banks, wiped.events, wiped.groups⟩
  · rw [setWidth_two] at ha ⊢
    exact congrArg Host.Outcome.next (writeLcreq_allowed hg ha)

/-! ### Accepted features (R86) -/

/-- The lower half's first write keeps the offered features, feature 1 only with feature 0. -/
theorem getLsbD_offered (v : Word) (i : Nat) :
    (v &&& (if v.getLsbD 0 then 0x7FF else 0x7FD)).getLsbD i = (decide (i < 11) && v.getLsbD i && (i ≠ 1 || v.getLsbD 0)) := by
  by_cases hi : i < 11
  · cases h0 : v.getLsbD 0 <;> interval_cases i <;> simp_all
  · have high (m : Word) (hm : m.toNat < 2 ^ 11) : m.getLsbD i = false :=
      Nat.testBit_lt_two_pow (hm.trans_le (Nat.pow_le_pow_right (by decide) (by omega)))
    rw [BitVec.getLsbD_and, apply_ite (BitVec.getLsbD · i), high 0x7FF (by decide), high 0x7FD (by decide)]
    simp [hi]

theorem writeFeatUpper_first {s : State} (v : Word) (hu : s.featUpperSet = false) (hb : s.bootReady = true) :
    writeFeatUpper s v = { s with featUpper := 0, featUpperSet := true, featAcc := s.featLower } := by
  simp [writeFeatUpper, hu, hb]

/-! ### Attestation (R90) -/

/-- A write of `ATREQ` clears ERR where it says so; a request then sets ERR, or makes the module busy. -/
theorem writeAtreq_eq (s : State) (v : Word) : writeAtreq s v =
    if !v.getLsbD 0 then { s with atErr := s.atErr && !v.getLsbD 1 }
    else if !s.feat 10 || s.keysErased || s.atBusy then { s with atErr := true }
    else { s with atErr := s.atErr && !v.getLsbD 1, atBusy := true } := by
  unfold writeAtreq
  cases v.getLsbD 1
  · rw [Bool.not_false, Bool.and_true]; rfl
  · rw [Bool.not_true, Bool.and_false]; rfl

theorem length_reportBody (s : State) : (reportBody s).length = 136 := by
  simp [reportBody, bytes32]

/-- Settles O26: each register's write is its own update of the state, and an allowed change of the fuses is a reset. -/
theorem featuresAttestationAndLifeCycle : Obligations.FeaturesAttestationAndLifeCycle := by
  refine ⟨⟨fun s v hl hb => ?_, fun s v h => ?_, fun s v hu hb => ?_, fun s v h => ?_, fun s t v n hu hb ht => ?_⟩,
    ⟨fun s v h1 h0 hf hk ha => ?_, fun s v h0 h => ?_, fun s v h0 => ?_, fun s ha hk => ?_, fun s ha hk => ?_, fun s => rfl, length_reportBody⟩,
    ⟨fun s v hg ha => ?_, fun s v hg ha => ?_, fun s v hg => ?_, by decide⟩⟩
  · refine ⟨_, congrArg Host.Outcome.next (if_neg (by simp [hl, hb])), rfl, rfl, rfl, getLsbD_offered v, rfl, rfl, rfl⟩
  · refine congrArg Host.Outcome.next (if_pos ?_)
    rcases h with h | h <;> simp [h]
  · exact congrArg Host.Outcome.next (writeFeatUpper_first v hu hb)
  · refine congrArg Host.Outcome.next (if_pos ?_)
    rcases h with h | h <;> simp [h]
  · rw [← Host.Outcome.next.inj ht, writeFeatUpper_first v hu hb]
    rfl
  · refine congrArg Host.Outcome.next ((writeAtreq_eq s v).trans ?_)
    rw [h1, h0, hf, hk, ha, Bool.not_false, Bool.and_true]
    rfl
  · refine congrArg Host.Outcome.next ((writeAtreq_eq s v).trans ?_)
    rw [h0, if_neg (by decide), if_pos (by rcases h with h | h | h <;> simp [h])]
  · refine congrArg Host.Outcome.next ((writeAtreq_eq s v).trans ?_)
    rw [h0, if_pos (by decide)]
  · refine congrArg Host.Outcome.next ?_
    simp only [ha, hk]
    rfl
  · refine congrArg Host.Outcome.next ?_
    simp only [ha, hk]
    rfl
  · refine ⟨_, congrArg Host.Outcome.next (writeLcreq_allowed hg ha), rfl, fun _ => rfl, rfl, rfl, core_reset⟩
  · refine congrArg Host.Outcome.next ?_
    simp only [writeLcreq, ofNat_bitsAt, hg, ha]
    rfl
  · refine congrArg Host.Outcome.next ?_
    simp only [writeLcreq, ofNat_bitsAt, hg]
    rfl

end Sys2Proof.Laws
end

section
/-! The command queues (R79, R80, R103, R105, R107): which code refuses a record, and what a check of the record at a queue's head does. -/

namespace Sys2Proof.Laws

open Sys2Proof Sys2Proof.Machine

/-! ### Queues and requests -/

@[simp] theorem queue_modQueue_same (s : State) (q : Nat) (f : HostQueue → HostQueue) : (s.modQueue q f).queue q = f (s.queue q) := tget_tset_same ..

theorem queue_modQueue_other (s : State) {q p : Nat} (f : HostQueue → HostQueue) (h : p ≠ q) : (s.modQueue q f).queue p = s.queue p :=
  tget_tset_other _ _ _ h

/-- A request of no class goes onto the fabric and is counted nowhere (R214). -/
theorem sendReq_uncounted (s : State) {r : Req} (h : r.cls = none) : sendReq s r =
    { s with nextId := s.nextId + 1, fabric := s.fabric ++ [{ r with id := s.nextId, route := r.route <|> routeOf r.loc }] } := by
  simp only [sendReq, h]

theorem sendRecord_route (s : State) (key : Nat) {r : Record} (h : recWevt r = 0) : sendRecord s key r =
    { s with nextId := s.nextId + 1, fabric := s.fabric ++
        [{ reqOf key false (.record r false 0 0 0) noLoc none with id := s.nextId, route := some (recCore r) }] } := by
  rw [sendRecord, if_pos h, sendReq_uncounted _ rfl]
  rfl

theorem sendRecord_hold (s : State) (key : Nat) {r : Record} (h : recWevt r ≠ 0) : sendRecord s key r =
    { s with nextId := s.nextId + 1, fabric := s.fabric ++
        [{ reqOf key false (.hold r) noLoc none with id := s.nextId, route := routeOf noLoc }] } := by
  rw [sendRecord, if_neg h, sendReq_uncounted _ rfl]
  rfl

/-! ### The refusal code (R80) -/

/-- A reserved field, or a kind, a flag or a capability bit that is none (code 2). -/
abbrev Malformed (r : Record) : Prop :=
  1 < recKind r ∨ 2 ^ 14 ≤ recField r 20 2 ∨ 4 ≤ recFlags r ∨ recField r 34 2 ≠ 0 ∨ recField r 44 20 ≠ 0 ∨ 64 ≤ (recCap r).toNat

/-- A task whose entry is no instruction address (code 5). -/
abbrev BadEntry (r : Record) : Prop := recKind r ≠ 1 ∧ (32768 ≤ recPc r ∨ recPc r % 4 ≠ 0)

/-- An event id out of range (code 6). -/
abbrev BadEvent (r : Record) : Prop := 65535 < recWevt r ∨ 65535 < recField r 40 4

/-- An ISTLOAD whose blocks do not lie in an instruction store (code 7). -/
abbrev BadCopy (r : Record) : Prop := recKind r = 1 ∧
  (recField r 0 8 % 64 ≠ 0 ∨ recPc r % 64 ≠ 0 ∨ recField r 8 2 = 0 ∨ recField r 8 2 % 64 ≠ 0 ∨ 32768 < recPc r + recField r 8 2)

/-- A record that waits for no event and that its cluster does not admit (code 8). -/
abbrev Unadmitted (s : State) (r : Record) : Prop := recWevt r = 0 ∧ admits s (clusterOf (recCore r)) (recAsid r) = false

/-- The first of several codes whose condition holds, taken from the front. -/
theorem find_code_cons (k : Nat) (b : Bool) (l : List (Nat × Bool)) :
    (((k, b) :: l).find? fun c => c.2).map (·.1) = if b = true then some k else (l.find? fun c => c.2).map (·.1) := by
  cases b <;> rfl

/-- The conditions of the codes, in their order. -/
theorem recordCode_eq (s : State) (x : HostQueue) (r : Record) : recordCode s x r =
    if isTile (recCore r) = false then some 1 else if Malformed r then some 2 else if recCap r &&& ~~~x.capmax ≠ 0 then some 3
    else if recAsid r ≠ x.asid then some 4 else if BadEntry r then some 5 else if BadEvent r then some 6 else if BadCopy r then some 7
    else if Unadmitted s r then some 8 else none := by
  simp only [recordCode, find_code_cons, List.find?_nil, Option.map_none, Bool.or_eq_true, Bool.and_eq_true, decide_eq_true_eq,
    bne_iff_ne, beq_iff_eq, Nat.div_ne_zero_iff, ne_eq, or_assoc, Bool.not_eq_eq_eq_not]
  norm_num
  rfl

theorem ite_some_eq_iff {P : Prop} [Decidable P] {k : Nat} {o : Option Nat} (h : o ≠ some k) : (if P then some k else o) = some k ↔ P := by
  split <;> simp [*]

section Codes
variable {s : State} {x : HostQueue} {r : Record}

theorem recordCode_target : recordCode s x r = some 1 ↔ isTile (recCore r) = false := by
  rw [recordCode_eq]
  exact ite_some_eq_iff (by split_ifs <;> simp)

variable (ht : isTile (recCore r) = true)
include ht

theorem recordCode_malformed : recordCode s x r = some 2 ↔ Malformed r := by
  rw [recordCode_eq, if_neg (by simp [ht])]
  exact ite_some_eq_iff (by split_ifs <;> simp)

variable (hm : ¬ Malformed r)
include hm

theorem recordCode_capability : recordCode s x r = some 3 ↔ recCap r &&& ~~~x.capmax ≠ 0 := by
  rw [recordCode_eq, if_neg (by simp [ht]), if_neg hm]
  exact ite_some_eq_iff (by split_ifs <;> simp)

variable (hc : recCap r &&& ~~~x.capmax = 0)
include hc

theorem recordCode_asid : recordCode s x r = some 4 ↔ recAsid r ≠ x.asid := by
  rw [recordCode_eq, if_neg (by simp [ht]), if_neg hm, if_neg (not_not.mpr hc)]
  exact ite_some_eq_iff (by split_ifs <;> simp)

variable (ha : recAsid r = x.asid)
include ha

theorem recordCode_entry : recordCode s x r = some 5 ↔ BadEntry r := by
  rw [recordCode_eq, if_neg (by simp [ht]), if_neg hm, if_neg (not_not.mpr hc), if_neg (not_not.mpr ha)]
  exact ite_some_eq_iff (by split_ifs <;> simp)

variable (he : ¬ BadEntry r)
include he

theorem recordCode_event : recordCode s x r = some 6 ↔ BadEvent r := by
  rw [recordCode_eq, if_neg (by simp [ht]), if_neg hm, if_neg (not_not.mpr hc), if_neg (not_not.mpr ha), if_neg he]
  exact ite_some_eq_iff (by split_ifs <;> simp)

variable (hv : ¬ BadEvent r)
include hv

theorem recordCode_copy : recordCode s x r = some 7 ↔ BadCopy r := by
  rw [recordCode_eq, if_neg (by simp [ht]), if_neg hm, if_neg (not_not.mpr hc), if_neg (not_not.mpr ha), if_neg he, if_neg hv]
  exact ite_some_eq_iff (by split_ifs <;> simp)

variable (hb : ¬ BadCopy r)
include hb

theorem recordCode_last : recordCode s x r = if Unadmitted s r then some 8 else none := by
  rw [recordCode_eq, if_neg (by simp [ht]), if_neg hm, if_neg (not_not.mpr hc), if_neg (not_not.mpr ha), if_neg he, if_neg hv, if_neg hb]

end Codes

/-! ### The check of a record (R80, R103, R107) -/

/-- A record that its queue refuses is counted and skipped. -/
def refusedHead (c : Nat) (x : HostQueue) : HostQueue :=
  { x with head := x.head + 1, errIndex := if x.errCount = 0 then x.head else x.errIndex
           errCode := if x.errCount = 0 then BitVec.ofNat 4 c else x.errCode
           errCount := BitVec.ofNat 16 (min 0xFFFF (x.errCount.toNat + 1)) }

/-- An accepted record goes when there is room: in the hold store if it waits for an event, else in its inbox, which an ISTLOAD does not need. -/
def headRoom (s : State) (r : Record) : Bool :=
  if recWevt r ≠ 0 then holdRoom s else recKind r == 1 || inboxRoom s (recCore r) (recCtx r)

section Check
variable {s : State} {q : Nat} {x : HostQueue} {r : Record} (hx : x = s.queue q)
include hx

theorem checkRecord_idle (h : x.en = false ∨ s.bootReady = false ∨ x.head = x.tail) : checkRecord s q = s := by
  subst hx
  refine if_pos ?_
  rcases h with h | h | h <;> simp [h]

variable (hb : s.bootReady = true) (he : x.en = true) (hh : x.head ≠ x.tail) (hr : r = headRecord s x)
include hb he hh hr

/-- A check that finds a record refuses it, or sends it if there is room. -/
theorem checkRecord_takes : checkRecord s q = match recordCode s x r with
    | some c => s.modQueue q (refusedHead c)
    | none => if headRoom s r = true then (sendRecord s (queueKey q) r).modQueue q fun x => { x with head := x.head + 1 } else s := by
  subst hx hr
  unfold checkRecord
  dsimp only
  rw [if_neg (by simp [hb, he, hh])]
  rfl

theorem checkRecord_refused {c : Nat} (hc : recordCode s x r = some c) : checkRecord s q = s.modQueue q (refusedHead c) := by
  rw [checkRecord_takes hx hb he hh hr, hc]

variable (hc : recordCode s x r = none)
include hc

theorem checkRecord_sent (room : headRoom s r = true) :
    checkRecord s q = (sendRecord s (queueKey q) r).modQueue q fun x => { x with head := x.head + 1 } := by
  rw [checkRecord_takes hx hb he hh hr, hc]
  exact if_pos room

theorem checkRecord_stays (room : headRoom s r = false) : checkRecord s q = s := by
  rw [checkRecord_takes hx hb he hh hr, hc]
  exact if_neg (Bool.eq_false_iff.mp room)

end Check

/-- Settles O29: a check refuses, sends or leaves the record at the head, and the code is the first whose condition holds. -/
theorem queueSteps : Obligations.QueueSteps := by
  refine ⟨fun s q x r hx hb he hh hr => ⟨fun c hc => ?_, fun hc hw room => ?_, fun hc hw room => ?_, fun hc hw hk room => ?_, fun hc hw room => ?_⟩,
    fun s q h => ?_, fun s q => ?_, fun s x r => ⟨recordCode_target, fun ht => ?_, fun ht hk hp h2 hf h34 h44 => ?_⟩⟩
  · refine ⟨_, congrArg Host.Outcome.next (checkRecord_refused hx hb he hh hr hc), ?_⟩
    rw [queue_modQueue_same, ← hx]
    refine ⟨rfl, ?_, fun h0 => ⟨if_pos h0, if_pos h0⟩, fun h0 => ⟨if_neg h0, if_neg h0⟩, rfl, rfl, rfl, fun p hp => queue_modQueue_other s _ hp⟩
    rw [refusedHead, BitVec.toNat_ofNat, Nat.mod_eq_of_lt (by omega), Nat.add_comm]
  · have room : headRoom s r = true := by
      rw [headRoom, if_neg (not_not.mpr hw), Bool.or_eq_true, beq_iff_eq]
      exact room
    refine ⟨_, congrArg Host.Outcome.next (checkRecord_sent hx hb he hh hr hc room), ?_⟩
    rw [queue_modQueue_same, sendRecord_route s _ hw]
    exact ⟨by rw [hx]; rfl, rfl, rfl, _, rfl, rfl, rfl, rfl, rfl⟩
  · have room : headRoom s r = true := by rw [headRoom, if_pos hw, room]
    refine ⟨_, congrArg Host.Outcome.next (checkRecord_sent hx hb he hh hr hc room), ?_⟩
    rw [queue_modQueue_same, sendRecord_hold s _ hw]
    exact ⟨by rw [hx]; rfl, rfl, rfl, _, rfl, rfl, rfl⟩
  · have room : headRoom s r = false := by rw [headRoom, if_neg (not_not.mpr hw), room, beq_false_of_ne hk]; rfl
    exact congrArg Host.Outcome.next (checkRecord_stays hx hb he hh hr hc room)
  · have room : headRoom s r = false := by rw [headRoom, if_pos hw, room]
    exact congrArg Host.Outcome.next (checkRecord_stays hx hb he hh hr hc room)
  · exact congrArg Host.Outcome.next (checkRecord_idle rfl h)
  · exact ⟨_, rfl, queue_modQueue_same .., fun p hp => queue_modQueue_other s _ hp, rfl, rfl, rfl⟩
  · exact recordCode_malformed ht
  · have hm : ¬ Malformed r := by unfold Malformed; omega
    refine ⟨recordCode_capability ht hm, fun hc => ⟨recordCode_asid ht hm hc, fun ha => ⟨?_, fun he => ?_⟩⟩⟩
    · rw [recordCode_entry ht hm hc ha, BadEntry]; omega
    · have he : ¬ BadEntry r := by unfold BadEntry; omega
      refine ⟨recordCode_event ht hm hc ha he, fun hw hc2 len hlen => ?_⟩
      have hv : ¬ BadEvent r := by unfold BadEvent; omega
      subst hlen
      refine ⟨recordCode_copy ht hm hc ha he hv, fun hl => ?_⟩
      have hb : ¬ BadCopy r := by unfold BadCopy; omega
      rw [recordCode_last ht hm hc ha he hv hb]
      refine ⟨ite_some_eq_iff (by simp), ?_⟩
      rw [ite_eq_right_iff, Unadmitted]
      cases admits s (clusterOf (recCore r)) (recAsid r) <;> simp

end Sys2Proof.Laws
end

section
/-! Events and their notifications (R81, R83, R84, R108, R109), and the host's accesses to device memory (R75, R85, R88, R94, R208). -/

namespace Sys2Proof.Laws

open Sys2Proof Sys2Proof.Machine

/-! ### Memory read back -/

/-- A run of bytes reads as it was written. -/
theorem getN_putN_same (m : Mem) (a : Nat) (bs : List Byte) : (m.putN a bs).getN a bs.length = bs := by
  induction bs generalizing m a with
  | nil => rfl
  | cons b bs ih =>
    rw [Mem.getN, List.length_cons, List.range_succ_eq_map, List.map_cons, List.map_map, Mem.putN]
    refine congrArg₂ List.cons ?_ (Eq.trans (List.map_congr_left fun i _ => ?_) (ih (m.put a b) (a + 1)))
    · exact (Mem.get_putN_other _ (a + 1) bs a (.inl (Nat.lt_succ_self a))).trans (Mem.get_put_same ..)
    · rw [Function.comp_apply, Nat.succ_eq_add_one, Nat.add_right_comm, Nat.add_assoc]

/-- A byte written outside a run leaves it. -/
theorem getN_put_other (m : Mem) {a n c : Nat} (b : Byte) (h : a + n ≤ c) : (m.put c b).getN a n = m.getN a n :=
  List.map_congr_left fun i hi => Mem.get_put_other _ _ (by have := List.mem_range.mp hi; omega)

theorem getLE_lt (m : Mem) (a n : Nat) : m.getLE a n < 2 ^ (8 * n) := by
  have := natOfBytes_lt (m.getN a n)
  rwa [Mem.getN, List.length_map, List.length_range] at this

/-! ### Events (R81, R109) -/

theorem tget_filter_ne {α : Type} (d : α) (l : Tbl α) (id j : Nat) : tget d (l.filter fun e => e.1 ≠ id) j = if j = id then d else tget d l j := by
  induction l with
  | nil => simp [tget]
  | cons e l ih =>
    obtain ⟨k, v⟩ := e
    by_cases hk : k = id
    · subst hk
      rw [List.filter_cons_of_neg (by simp), ih]
      by_cases hj : j = k
      · rw [if_pos hj, if_pos hj]
      · rw [if_neg hj, if_neg hj, tget, if_neg (Ne.symm hj)]
    · rw [List.filter_cons_of_pos (by simpa using hk), tget, tget, ih]
      by_cases hj : k = j
      · subst hj; simp [hk]
      · simp [hj]

/-- A write of `EVARM`, by its fields. -/
theorem armEvent_eq (s : State) (v : Word) : armEvent s v =
    if v.toNat % 2 ^ 16 = 0 then s else if v.toNat / 2 ^ 32 = 0 then freeEvent s (v.toNat % 2 ^ 16)
    else { s with events := tset s.events (v.toNat % 2 ^ 16) { target := BitVec.ofNat 32 (v.toNat / 2 ^ 32), count := 0 } } := by
  have hv := v.isLt
  have target : BitVec.ofNat 32 (v.toNat / 2 ^ 32) = 0 ↔ v.toNat / 2 ^ 32 = 0 := by
    rw [← BitVec.toNat_inj, BitVec.toNat_ofNat, Nat.mod_eq_of_lt (by omega)]
    rfl
  simp only [armEvent, bitsAt, Nat.pow_zero, Nat.div_one, Nat.mod_eq_of_lt (show v.toNat / 2 ^ 32 < 2 ^ 32 by omega), target]

/-! ### Notifications (R84) -/

theorem postNotification_frame (s : State) (n : NotSlot) : ∃ msix hostMem, postNotification s n = { s with msix, hostMem } := by
  unfold postNotification
  dsimp only
  split
  · exact ⟨_, _, rfl⟩
  · split
    · exact ⟨_, _, rfl⟩
    · exact ⟨_, _, rfl⟩

theorem foldl_postNotification_frame (l : List (Nat × NotSlot)) (s : State) :
    ∃ msix hostMem, l.foldl (fun s (n : Nat × NotSlot) => postNotification s n.2) s = { s with msix, hostMem } := by
  induction l generalizing s with
  | nil => exact ⟨_, _, rfl⟩
  | cons n l ih =>
    obtain ⟨msix, hostMem, h⟩ := postNotification_frame s n.2
    obtain ⟨msix', hostMem', h'⟩ := ih (postNotification s n.2)
    exact ⟨msix', hostMem', h'.trans (by rw [h])⟩

/-- A notification descriptor that is not being processed: its bit is set in PEND, ON is set in its control byte, and the vector is sent. -/
theorem postNotification_idle {s : State} {n : NotSlot} {d : Nat} (hd : d = n.addr.toNat / 64 * 64) (hf : s.feat 1 = true)
    (hr : (s.hostMem.get (d + 8)).getLsbD 1 = false) : postNotification s n =
    { s with msix := n.cfg.toNat % 2 ^ 11 :: s.msix
             hostMem := (s.hostMem.putN d (bytesOfNat 8 (BitVec.ofNat 64 (s.hostMem.getLE d 8)
               ||| BitVec.ofNat 64 (2 ^ (n.cfg.toNat / 2 ^ 16 % 64))).toNat)).put (d + 8) (s.hostMem.get (d + 8) ||| 1) } := by
  subst hd
  simp only [postNotification, hf, hr]
  rfl

theorem postNotification_running {s : State} {n : NotSlot} {d : Nat} (hd : d = n.addr.toNat / 64 * 64) (hf : s.feat 1 = true)
    (hr : (s.hostMem.get (d + 8)).getLsbD 1 = true) : (postNotification s n).msix = s.msix := by
  subst hd
  simp only [postNotification, hf, hr]
  rfl

/-- PEND with one more bit set. -/
theorem toNat_pend (m : Mem) (d bit : Nat) (hb : bit < 64) :
    (BitVec.ofNat 64 (m.getLE d 8) ||| BitVec.ofNat 64 (2 ^ bit)).toNat = m.getLE d 8 ||| 2 ^ bit := by
  rw [BitVec.toNat_or, BitVec.toNat_ofNat, BitVec.toNat_ofNat, Nat.mod_eq_of_lt (getLE_lt m d 8), Nat.mod_eq_of_lt (Nat.pow_lt_pow_right (by decide) hb)]

/-! ### Signals (R81, R83, R108) -/

theorem wevt_eq (r : Record) : r.toNat / 2 ^ 288 % 2 ^ 32 = recWevt r := by
  simp only [recWevt, recField]

/-- The records held on an event that its last signal releases. -/
def releasedBy (s : State) (id : Nat) (h : Held) : Held :=
  if recWevt h.body = id ∧ h.released = none then { h with released := some s.nextId } else h

section Signal
variable {s : State} {id : Nat} {e : Event} (hi : id ≠ 0) (he : e = tget {} s.events id) (ht : e.target ≠ 0)
include hi he ht

/-- A signal of an event that is not FREE counts, and reaches the target where its step crosses it. -/
theorem signalEvent_armed : signalEvent s id =
    if e.count.toNat < e.target.toNat ∧ e.target.toNat ≤ (inc32 e.count 1).toNat then
      (s.slots.filter fun (n : Nat × NotSlot) => n.2.addr.getLsbD 0 && n.2.cfg.toNat / 2 ^ 32 % 2 ^ 16 = id).foldl
        (fun s (n : Nat × NotSlot) => postNotification s n.2)
        { s with events := tset s.events id { e with count := inc32 e.count 1 }, nextId := s.nextId + 1, held := s.held.map (releasedBy s id) }
    else { s with events := tset s.events id { e with count := inc32 e.count 1 } } := by
  have free : ¬ (id = 0 || decide (e.target = 0)) = true := by simpa [hi] using ht
  simp only [signalEvent, ← he]
  rw [if_neg free]
  simp only [Bool.and_eq_true, decide_eq_true_eq, Option.isNone_iff_eq_none, wevt_eq]
  rfl

theorem signalEvent_counts (h : e.count.toNat + 1 < e.target.toNat ∨ e.target.toNat ≤ e.count.toNat) :
    signalEvent s id = { s with events := tset s.events id { e with count := inc32 e.count 1 } } := by
  rw [signalEvent_armed hi he ht, if_neg]
  rw [toNat_inc32]
  omega

theorem signalEvent_reaches (h : e.count.toNat + 1 = e.target.toNat) : ∃ msix hostMem, signalEvent s id =
    { s with events := tset s.events id { e with count := e.target }, nextId := s.nextId + 1, held := s.held.map (releasedBy s id), msix, hostMem } := by
  have last : inc32 e.count 1 = e.target := by
    have := e.target.isLt
    apply BitVec.eq_of_toNat_eq
    rw [toNat_inc32]
    omega
  rw [signalEvent_armed hi he ht, last, if_pos ⟨by omega, le_refl _⟩]
  exact foldl_postNotification_frame _ _

end Signal

/-! ### The host's accesses to device memory (R75, R85, R88, R94) -/

theorem hostMemAccess_outside {s : State} {wr : Bool} {a n : Nat} {bs : List Byte} (h : 2 ^ 40 < a + if wr then bs.length else n) :
    exec (.hostMemAccess wr a n bs) s = .next s :=
  congrArg Host.Outcome.next (if_pos (by simpa using h))

theorem hostMemAccess_inside {s : State} {wr : Bool} {a n : Nat} {bs : List Byte} (h : a + (if wr then bs.length else n) ≤ 2 ^ 40) :
    exec (.hostMemAccess wr a n bs) s = .next (if !hdmUp s then (if wr then s else { s with hostRead := List.replicate n 0, hostPois := true })
      else if wr then writePieces s false (pairsAt a bs)
      else
        let (bs, p, t) := readHome s false ((List.range n).map (a + ·))
        { t with hostRead := bs, hostPois := p }) :=
  congrArg Host.Outcome.next (if_neg (by simpa using h))

/-- A read by an agent that is no firmware, of a range that the lock leaves open. -/
theorem readHome_open {s : State} {ls : List Nat} (h : ∀ l ∈ ls, s.lockedLoc l = false) :
    readHome s false ls = (ls.map s.byteAt, ls.any s.poisonAt, s) := by
  have none_locked : ls.any s.lockedLoc = false := List.any_eq_false.mpr fun l hl => by simp [h l hl]
  simp only [readHome, none_locked, Bool.not_false, Bool.true_and, Bool.false_or]
  refine Prod.ext (List.map_congr_left fun l hl => ?_) rfl
  rw [h l hl]
  rfl

/-- A read by an agent that is no firmware, of a range that meets the lock. -/
theorem readHome_locked {s : State} {ls : List Nat} (h : ∃ l ∈ ls, s.lockedLoc l = true) :
    readHome s false ls = (ls.map fun l => if s.lockedLoc l then 0 else s.byteAt l, true, raiseAlarm s 2 false) := by
  have some_locked : ls.any s.lockedLoc = true := List.any_eq_true.mpr h
  simp only [readHome, some_locked, Bool.not_false, Bool.true_and, Bool.true_or, if_true]

/-- A write to the locked range by an agent that is no firmware is dropped and raises the alarm (R88). -/
theorem performWrite_locked {s : State} {a : Nat} (h : s.lockedLoc a = true) (b : Byte) : performWrite s false [(a, b)] = raiseAlarm s 2 false := by
  obtain ⟨locked, kept⟩ : ([(a, b)].any fun p => s.lockedLoc p.1 && !false) = true
      ∧ ([(a, b)].filter fun p => decide (p.1 < foreignBase) && !((raiseAlarm s 2 false).lockedLoc p.1 && !false)) = [] := by
    have same : (raiseAlarm s 2 false).lockedLoc a = true := by rw [raiseAlarm_eq s 2 false _ rfl]; exact h
    simp [h, same]
  simp only [performWrite, locked, if_true, kept]
  simp

/-- Settles O30: arming, freeing and signalling are updates of the event table, the hold store and the notifications, and an access of the host is a
write piece by piece, or a read at the home. -/
theorem eventAndHostMemorySteps : Obligations.EventAndHostMemorySteps := by
  refine ⟨⟨fun s v id hid h0 ht => ?_, fun s v h0 => ?_, fun s v id hid h0 ht => ?_, fun s id h => ⟨?_, ?_⟩, fun s id h0 h1 => ?_,
      fun s => ⟨rfl, rfl⟩, fun s id e h0 h1 he => ⟨fun ht => ?_, fun ht hc => ?_, fun ht hc => ?_⟩, fun s n hf => ?_,
      fun s n d hd hf => ⟨_, rfl, fun hr => ?_, postNotification_running hd hf⟩⟩,
    fun s a n bs h hu => ?_, fun s a n bs h hu hl => ?_, fun s a n bs h hu hl => ?_, fun s a n bs h hu => ?_, fun s a n bs hu => ?_,
    fun s a n bs h => hostMemAccess_outside h, fun s a n bs h => hostMemAccess_outside h, fun s => ?_, fun s a hd hl hb ht b => ?_⟩
  · refine ⟨_, congrArg Host.Outcome.next (armEvent_eq s v), ?_⟩
    rw [← hid, if_neg h0, if_neg ht]
    exact ⟨tget_tset_same .., fun j hj => tget_tset_other _ _ _ hj, rfl, rfl, rfl⟩
  · exact congrArg Host.Outcome.next ((armEvent_eq s v).trans (if_pos h0))
  · have free : armEvent s v = freeEvent s id := by rw [armEvent_eq, ← hid, if_neg h0, if_pos ht]
    exact ⟨_, congrArg Host.Outcome.next free, congrArg Host.Outcome.next (if_neg (by simp; omega))⟩
  · exact congrArg Host.Outcome.next (if_pos (by simp [h]))
  · exact congrArg Host.Outcome.next (if_pos h)
  · exact ⟨_, congrArg Host.Outcome.next (if_neg (by simp; omega)), fun j => tget_filter_ne .., rfl, toNat_inc32 .., rfl, rfl⟩
  · refine congrArg Host.Outcome.next ((if_neg (by omega)).trans ?_)
    simp only [signalEvent, ← he, ht]
    exact if_pos (by simp)
  · exact congrArg Host.Outcome.next ((if_neg (by omega)).trans (signalEvent_counts (by omega) he ht hc))
  · obtain ⟨msix, hostMem, h⟩ := signalEvent_reaches (by omega) he ht hc
    exact ⟨_, congrArg Host.Outcome.next ((if_neg (by omega)).trans h), tget_tset_same .., rfl, rfl, rfl, rfl⟩
  · simp only [postNotification, hf]
    rfl
  · rw [postNotification_idle hd hf hr]
    refine ⟨rfl, ?_, ?_⟩
    · simp
    · rw [Mem.getLE, getN_put_other _ _ (le_refl _)]
      have pend := getN_putN_same s.hostMem d
        (bytesOfNat 8 (BitVec.ofNat 64 (s.hostMem.getLE d 8) ||| BitVec.ofNat 64 (2 ^ (n.cfg.toNat / 2 ^ 16 % 64))).toNat)
      rw [length_bytesOfNat] at pend
      rw [pend, natOfBytes_bytesOfNat, pow_256, Nat.mod_eq_of_lt (BitVec.isLt _), toNat_pend _ _ _ (by omega)]
  · rw [hostMemAccess_inside h, hu]
    rfl
  · rw [hostMemAccess_inside h, hu]
    rw [readHome_open (by simpa using hl)]
    simp [List.map_map, List.any_map, Function.comp_def]
  · rw [hostMemAccess_inside h, hu]
    rw [readHome_locked (by simpa using hl), raiseAlarm_eq s 2 false _ rfl]
    exact ⟨_, rfl, rfl, rfl, rfl, by simp [List.map_map, Function.comp_def]⟩
  · rw [hostMemAccess_inside h, hu]
    rfl
  · by_cases h : a + bs.length ≤ 2 ^ 40
    · rw [hostMemAccess_inside h, hu]
      rfl
    · exact hostMemAccess_outside (Nat.not_le.mp h)
  · simp [hdmUp]
  · have locked : s.lockedLoc a = true := by simp only [State.lockedLoc, hl, hd, hb, ht]; rfl
    rw [performWrite_locked locked, raiseAlarm_eq s 2 false _ rfl]
    exact ⟨_, rfl, rfl, rfl⟩

end Sys2Proof.Laws
end

section
/-! PROOFS. The life of a record at its target's side (R77, R99 to R108, R350): arrival, start, copy, refusal, hold store and outbound buffer. -/

namespace Sys2Proof.Laws

open Sys2Proof Sys2Proof.Machine

/-! ### Contexts and cores read back after a change -/

/-- A change of a core that keeps a context leaves what is read of that context. -/
theorem ctx_modCore_of_keeps (s : State) (k : Nat) (n : Bool) {f : Core → Core} (h : (f (s.core k)).ctx n = (s.core k).ctx n) :
    (s.modCore k f).ctx k n = s.ctx k n := by
  rw [State.ctx, State.core_modCore_same, h, State.ctx]

/-- Counting an event changes no more of a core than its counters (R433). -/
theorem countPmc_core (s : State) (k : Nat) (o : Option Bool) (ev n : Nat) :
    ∃ v w, (countPmc s k o ev n).core k = { s.core k with pmc := v, pmcsel := w } := by
  rw [countPmc, State.core_modCore_same]
  refine List.foldlRecOn (motive := fun c : Core => ∃ v w, c = { s.core k with pmc := v, pmcsel := w }) _ _ ⟨(s.core k).pmc, (s.core k).pmcsel, rfl⟩ ?_
  rintro _ ⟨v, w, rfl⟩ i -
  dsimp only
  split_ifs <;> exact ⟨_, _, rfl⟩

theorem ctx_countPmc (s : State) (k : Nat) (m : Bool) (o : Option Bool) (ev n : Nat) : (countPmc s k o ev n).ctx k m = s.ctx k m := by
  obtain ⟨v, w, h⟩ := countPmc_core s k o ev n
  rw [State.ctx, h]
  cases m <;> rfl

/-- An answer takes a request off the fabric and changes no more than a count of its class (R214). -/
theorem dropReq_frame (s : State) (r : Req) :
    dropReq s r = { s with fabric := s.fabric.filter (fun x => x.id ≠ r.id), cores := (dropReq s r).cores } := by
  cases h : r.cls with
  | none => simp only [dropReq, h]
  | some k => simp only [dropReq, h]; rfl

theorem ctx_dropReq (s : State) (r : Req) : ∃ c m y, (dropReq s r).ctx r.key r.ctx = { s.ctx r.key r.ctx with clu := c, mod := m, sys := y } := by
  rcases h : r.cls with _ | k
  · exact ⟨_, _, _, by simp only [dropReq, h]; rfl⟩
  · cases k <;> exact ⟨_, _, _, by simp only [dropReq, h, State.ctx_modCtx_same]; rfl⟩

theorem ctx_offerSwap (s : State) (k : Nat) (n : Bool) : (offerSwap s k).ctx k n = s.ctx k n := by
  simp only [offerSwap]
  split
  · rw [State.ctx, State.core_setCore_same]; cases n <;> rfl
  · rfl

theorem lrb_offerSwap (s : State) (k : Nat) : ((offerSwap s k).core k).lrb = (s.core k).lrb := by
  simp only [offerSwap]
  split
  · rw [State.core_setCore_same]
  · rfl

theorem mem_offerSwap (s : State) (k : Nat) : (offerSwap s k).mem = s.mem := by
  simp only [offerSwap]
  split <;> rfl

theorem lrb_modCtx (s : State) (k : Nat) (n : Bool) (f : Ctx → Ctx) : ((s.modCtx k n f).core k).lrb = (s.core k).lrb := by
  rw [State.modCtx, State.setCtx, State.core_setCore_same]
  cases n <;> rfl

/-! ### Packets (R233) -/

/-- The fields of a packet hold what they are given, where their widths allow it. -/
theorem packetOf_fields (f : FaultInfo) {flags core pc insn npc : Nat} (opa opb : Word) (time : Nat) (hc : f.code < 2 ^ 8) (hf : flags < 2 ^ 8)
    (hp : pc < 2 ^ 32) (hi : insn < 2 ^ 128) (hs : f.space < 2 ^ 8) :
    (packetOf f flags core pc insn npc opa opb time).extractLsb' 0 8 = BitVec.ofNat 8 f.code
    ∧ (packetOf f flags core pc insn npc opa opb time).extractLsb' 8 8 = BitVec.ofNat 8 flags
    ∧ (packetOf f flags core pc insn npc opa opb time).extractLsb' 32 32 = BitVec.ofNat 32 pc
    ∧ (packetOf f flags core pc insn npc opa opb time).extractLsb' 264 24 = BitVec.ofNat 24 f.detail := by
  have field (lo n v : Nat) (h : (packetOf f flags core pc insn npc opa opb time).toNat / 2 ^ lo % 2 ^ n = v % 2 ^ n) :
      (packetOf f flags core pc insn npc opa opb time).extractLsb' lo n = BitVec.ofNat n v := by
    apply BitVec.eq_of_toNat_eq
    rw [BitVec.extractLsb'_toNat, Nat.shiftRight_eq_div_pow, h, BitVec.toNat_ofNat]
  refine ⟨field _ _ _ ?_, field _ _ _ ?_, field _ _ _ ?_, field _ _ _ ?_⟩
  all_goals
    rw [packetOf, BitVec.toNat_ofNat]
    omega

/-! ### A refusal reaches its sender (R230, R350) -/

/-- Freezing a context leaves its PC and the memory, and keeps the packet (R232). -/
theorem ctx_freezeWith (s : State) (k : Nat) (n : Bool) (code : Nat) (pkt : Packet) :
    ((freezeWith s k n code pkt).ctx k n) = { s.ctx k n with
      st := .frozen, fcode := BitVec.ofNat 8 code, packet := pkt, blocked := max 1 (s.ctx k n).blocked, feArr := none, parked := none } := by
  have frozen : (countPmc (s.modCtx k n fun c => { c with st := .frozen, fcode := BitVec.ofNat 8 code, packet := pkt, blocked := max 1 c.blocked
                                                          feArr := none, parked := none }) k (some n) 8 1).ctx k n = _ :=
    (ctx_countPmc ..).trans (State.ctx_modCtx_same ..)
  simp only [freezeWith]
  split
  · refine (ctx_modCore_of_keeps _ _ _ ?_).trans frozen
    cases n <;> rfl
  · exact frozen

theorem freezeWith_frame (s : State) (k : Nat) (n : Bool) (code : Nat) (pkt : Packet) :
    freezeWith s k n code pkt = { s with cores := (freezeWith s k n code pkt).cores } := by
  simp only [freezeWith]
  split <;> rfl

/-- What a context that a refusal of MSG freezes holds: PRIV, DETAIL 33, and the PC of the sending instruction in its packet. -/
theorem takePosted_msg (s : State) {x : PostRefusal} (hc : x.code = 4) (hd : x.detail = 33) :
    ∃ c : Ctx, (takePosted s x).ctx x.key x.ctx = c ∧ c.st = .frozen ∧ c.fcode = 4 ∧ c.packet.extractLsb' 0 8 = 4 ∧ c.packet.extractLsb' 264 24 = 33
      ∧ c.packet.extractLsb' 32 32 = x.pc.setWidth 32 ∧ c.pc = (s.ctx x.key x.ctx).pc := by
  refine ⟨_, rfl, ?_⟩
  rw [takePosted, ctx_freezeWith, hc, hd]
  have fields := packetOf_fields { code := 4, detail := 33 } (flags := 8 + (if x.ctx != (s.core x.key).active then 4 else 0))
    (core := packetCore x.key x.ctx) (pc := x.pc.toNat) (insn := x.insn.toNat) (npc := (s.ctx x.key x.ctx).pc.toNat) x.opa x.opb
    (s.tbOf (clusterOf x.key)) (by decide) (by split_ifs <;> decide) (by have := x.pc.isLt; omega) x.insn.isLt (by decide)
  obtain ⟨code, -, pc, detail⟩ := fields
  dsimp only
  exact ⟨rfl, rfl, code, detail, pc.trans (BitVec.ofNat_toNat ..), rfl⟩

/-! ### A record starts its context (R101, R158, R223) -/

/-- What a task starts with. -/
theorem ctx_startTask (s : State) (key : Nat) (n : Bool) (pc : BitVec 15) (a b : Word) (t : Vector Word 4) (kid : BitVec 32) (asid : BitVec 16)
    (cap : BitVec 32) (task : Task) : (startTask s key n pc a b t kid asid cap task).ctx key n = { (killStore s key n).ctx key n with
      st := if n == (s.core key).active then .running else .ready, fcode := 0, pc, g := startRegs a b, p := Vector.replicate 8 0
      vw := Vector.replicate 16 0, t, status := 0, kid, asid, cap, place := placeOf key n, task := { task with kid, asid, cap }, loop := none
      loopStart := 0, loopLast := 0, binds := [], members := Vector.replicate 4 none, wait := .none, ask := .none, ending := .none, parked := none
      feArr := none, blocked := 0, killing := false, popped := none } := by
  rw [startTask, State.ctx_modCtx_same, active_killStore]

theorem lrb_killStore (s : State) (key : Nat) (n : Bool) : ((killStore s key n).core key).lrb = (s.core key).lrb := by
  rw [killStore, State.core_modCore_same, lrb_modCtx]

theorem startRegs_get (a b : Word) :
    (startRegs a b).get 1 = a ∧ (startRegs a b).get 2 = b ∧ ∀ i : Fin 48, i ≠ 1 → i ≠ 2 → (startRegs a b).get i = 0 := by
  refine ⟨rfl, rfl, fun i h1 h2 => ?_⟩
  have apart : (1 : Nat) ≠ i.val ∧ (2 : Nat) ≠ i.val := ⟨fun h => h1 (Fin.ext h.symm), fun h => h2 (Fin.ext h.symm)⟩
  simp [startRegs, Vector.get_eq_getElem, apart]

/-- The first record of an idle active context is started (R101). -/
theorem serveInbox_starts {s : State} {key : Nat} {n : Bool} {r : Record} {rs : List Record} (hi : (s.ctx key n).st = .idle)
    (hv : (s.ctx key n).vac = false) (ha : n = (s.core key).active) (hs : (s.core key).swapping = false) (hr : (s.ctx key n).inbox = r :: rs) :
    serveInbox s key n = startRecord (s.modCtx key n fun c => { c with inbox := rs, inboxRead := 0 }) key n r := by
  have due : ((s.ctx key n).st == .idle && !(s.ctx key n).vac && n == (s.core key).active && !(s.core key).swapping) = true := by
    simp [hi, hv, ← ha, hs]
  simp only [serveInbox, due, if_true, hr]

theorem serveInbox_busy {s : State} {key : Nat} {n : Bool} (hi : (s.ctx key n).st ≠ .idle) : serveInbox s key n = s := by
  have busy : ((s.ctx key n).st == .idle && !(s.ctx key n).vac && n == (s.core key).active && !(s.core key).swapping) = false := by
    simp [beq_eq_false_iff_ne.mpr hi]
  simp only [serveInbox, busy, Bool.false_eq_true, if_false]

theorem swapping_modCtx (s : State) (k : Nat) (n : Bool) (f : Ctx → Ctx) : ((s.modCtx k n f).core k).swapping = (s.core k).swapping := by
  rw [State.modCtx, State.setCtx, State.core_setCore_same]
  cases n <;> rfl

/-- A record that arrives at a context that is not idle waits in its inbox (R101). -/
theorem arriveRecord_waits {s : State} {b : Record} (hi : (s.ctx (recCore b) (recCtx b)).st ≠ .idle) :
    (arriveRecord s b).ctx (recCore b) (recCtx b) = { s.ctx (recCore b) (recCtx b) with inbox := (s.ctx (recCore b) (recCtx b)).inbox ++ [b] }
    ∧ (arriveRecord s b).mem = s.mem := by
  have busy : (((s.modCtx (recCore b) (recCtx b) fun c => { c with inbox := c.inbox ++ [b] }).ctx (recCore b) (recCtx b)).st) ≠ .idle := by
    rw [State.ctx_modCtx_same]; exact hi
  rw [arriveRecord, serveInbox_busy busy, ctx_offerSwap, mem_offerSwap, State.ctx_modCtx_same]
  exact ⟨rfl, rfl⟩

/-- One that arrives at an idle active context with an empty inbox starts it (R101). -/
theorem arriveRecord_starts {s : State} {b : Record} {key : Nat} {n : Bool} (hk : key = recCore b) (hn : n = recCtx b) (hi : (s.ctx key n).st = .idle)
    (hv : (s.ctx key n).vac = false) (ha : n = (s.core key).active) (hs : (s.core key).swapping = false) (he : (s.ctx key n).inbox = []) :
    arriveRecord s b = offerSwap (startRecord ((s.modCtx key n fun c => { c with inbox := c.inbox ++ [b] }).modCtx key n fun c =>
      { c with inbox := [], inboxRead := 0 }) key n b) key := by
  subst hk hn
  refine congrArg (offerSwap · _) (serveInbox_starts ?_ ?_ ?_ ?_ ?_)
  · rw [State.ctx_modCtx_same]; exact hi
  · rw [State.ctx_modCtx_same]; exact hv
  · rw [active_modCtx]; exact ha
  · rw [swapping_modCtx]; exact hs
  · rw [State.ctx_modCtx_same]; exact congrArg (· ++ [b]) he

theorem ctx_killStore (s : State) (key : Nat) (n : Bool) : (killStore s key n).ctx key n = { s.ctx key n with live := 0, pend := 0 } := by
  rw [killStore, ctx_modCore_of_keeps _ _ _ (by cases n <;> rfl), State.ctx_modCtx_same]

theorem ctx_lrbClear (s : State) (key : Nat) (n : Bool) : (lrbClear s key).ctx key n = s.ctx key n := by
  rw [lrbClear, lrbDrop, ctx_modCore_of_keeps _ _ _ (by cases n <;> rfl)]
  rfl

theorem core_lrbClear (s : State) (key : Nat) : (lrbClear s key).core key = { s.core key with lrb := [] } := by
  rw [lrbClear, lrbDrop, State.core_modCore_same]
  exact congrArg (fun l => { s.core key with lrb := l }) ((List.filter_eq_nil_iff (p := fun _ => !true)).mpr fun _ _ => Bool.false_ne_true)

theorem lrb_startTask (s : State) (key : Nat) (n : Bool) (pc : BitVec 15) (a b : Word) (t : Vector Word 4) (kid : BitVec 32) (asid : BitVec 16)
    (cap : BitVec 32) (task : Task) : ((startTask s key n pc a b t kid asid cap task).core key).lrb = (s.core key).lrb := by
  rw [startTask, lrb_modCtx, lrb_killStore]

/-! ### The steps -/

/-- A record at its target: TASK, admitted, in its turn, with room, arrives; else nothing changes. -/
theorem recordArrival_record {s : State} {r : Req} {b : Record} {m : Bool} {pc : BitVec 15} {i : BitVec 128} {a : Word} (hr : s.req r.id = some r)
    (hk : r.kind = .record b m pc i a) : exec (.recordArrival r.id) s = .next
      (if recKind b = 0 && routeClear s r && (!m || admits s (clusterOf (recCore b)) (recAsid b)) && decide (inboxHeld s (recCore b) (recCtx b) < 8) then
        arriveRecord (dropReq s r) b else s) := by
  refine congrArg Host.Outcome.next ?_
  simp only [hr, hk]

theorem recordArrival_fork {s : State} {r : Req} {key : Nat} {n : Bool} {pc : BitVec 15} {x : Word} {t : Vector Word 4} {kid : BitVec 32}
    {asid : BitVec 16} {cap : BitVec 32} (hr : s.req r.id = some r) (hk : r.kind = .forkStart key n pc x t kid asid cap) :
    exec (.recordArrival r.id) s = .next (if afterGone s r && (s.ctx key n).st == .reserved && (s.core key).spill != .spill n then
      startRecruit (dropReq s r) key n pc x t kid asid cap else s) := by
  refine congrArg Host.Outcome.next ?_
  simp only [hr, hk]

theorem msgAdmissionRefused_record {s : State} {r : Req} {b : Record} {pc : BitVec 15} {i : BitVec 128} {a : Word} (hr : s.req r.id = some r)
    (hk : r.kind = .record b true pc i a) : exec (.msgAdmissionRefused r.id) s = .next
      (if admits s (clusterOf (recCore b)) (recAsid b) || !routeClear s r then s else refuseMsg s r pc i a) := by
  refine congrArg Host.Outcome.next ?_
  simp only [hr, hk]

theorem msgAdmissionRefused_stays {s : State} {r : Req} {b : Record} {pc : BitVec 15} {i : BitVec 128} {a : Word} (hr : s.req r.id = some r)
    (hk : r.kind = .record b true pc i a) (h : admits s (clusterOf (recCore b)) (recAsid b) = true ∨ routeClear s r = false) :
    exec (.msgAdmissionRefused r.id) s = .next s :=
  (msgAdmissionRefused_record hr hk).trans (congrArg Host.Outcome.next (if_pos (by simpa using h)))

theorem msgAdmissionRefused_refuses {s : State} {r : Req} {b : Record} {pc : BitVec 15} {i : BitVec 128} {a : Word} (hr : s.req r.id = some r)
    (hk : r.kind = .record b true pc i a) (h : admits s (clusterOf (recCore b)) (recAsid b) = false) (hc : routeClear s r = true) :
    exec (.msgAdmissionRefused r.id) s = .next (refuseMsg s r pc i a) :=
  (msgAdmissionRefused_record hr hk).trans (congrArg Host.Outcome.next (if_neg (by simp [h, hc])))

/-- A sender's context as a refusal finds it: the request's answer has changed its counts alone. -/
theorem canFreeze_dropReq (s : State) (r : Req) (i : Nat) : canFreeze { dropReq s r with nextId := i } r.key r.ctx = canFreeze s r.key r.ctx := by
  obtain ⟨c, m, y, h⟩ := ctx_dropReq s r
  change canFreeze (dropReq s r) r.key r.ctx = _
  rw [canFreeze, h, canFreeze]

/-- The refusal of MSG on its way to its sender (R350). -/
def msgRefusal (s : State) (r : Req) (pc : BitVec 15) (insn : BitVec 128) (opa : Word) : PostRefusal :=
  { id := s.nextId, key := r.key, ctx := r.ctx, posted := true, code := 4, detail := 33, pc, insn, opa, opb := 0, area := r.area }

theorem refuseMsg_waits {s : State} {r : Req} (hd : r.dead = false) (hf : r.area ≠ none ∨ canFreeze s r.key r.ctx = false) (pc : BitVec 15)
    (i : BitVec 128) (a : Word) :
    refuseMsg s r pc i a = { dropReq s r with nextId := s.nextId + 1, refusals := s.refusals ++ [msgRefusal s r pc i a] } := by
  have waits : ¬(r.area.isNone && canFreeze { dropReq s r with nextId := s.nextId + 1 } r.key r.ctx) = true := by
    rw [canFreeze_dropReq]
    rcases hf with hf | hf <;> simp [hf]
  rw [refuseMsg, if_neg (by simp [hd]), if_neg waits, dropReq_frame]
  rfl

theorem refuseMsg_freezes {s : State} {r : Req} (hd : r.dead = false) (ha : r.area = none) (hf : canFreeze s r.key r.ctx = true) (pc : BitVec 15)
    (i : BitVec 128) (a : Word) : refuseMsg s r pc i a = takePosted { dropReq s r with nextId := s.nextId + 1 } (msgRefusal s r pc i a) := by
  have freezes : (r.area.isNone && canFreeze { dropReq s r with nextId := s.nextId + 1 } r.key r.ctx) = true := by
    rw [canFreeze_dropReq]; simp [ha, hf]
  rw [refuseMsg, if_neg (by simp [hd]), if_pos freezes]
  rfl

theorem pc_dropReq (s : State) (r : Req) : ((dropReq s r).ctx r.key r.ctx).pc = (s.ctx r.key r.ctx).pc := by
  obtain ⟨c, m, y, h⟩ := ctx_dropReq s r
  rw [h]

theorem takePosted_frame (s : State) (x : PostRefusal) : takePosted s x = { s with cores := (takePosted s x).cores } := freezeWith_frame ..

/-- What an ISTLOAD copies (R77): an open byte of DRAM as it stands, a locked one as 0. -/
theorem istloadCopy_record {s : State} {r : Req} {b : Record} {m : Bool} {pc : BitVec 15} {i : BitVec 128} {a : Word} (hr : s.req r.id = some r)
    (hk : r.kind = .record b m pc i a) (h1 : recKind b = 1) (hc : routeClear s r = true) : exec (.istloadCopy r.id) s = .next
      (dropReq (writePieces (readHome s false ((List.range (recField b 8 2)).map (recField b 0 8 + ·))).2.2 true
        ((List.range (recField b 8 2)).map fun j => (locIst (recCore b) (recPc b + j), if s.lockedLoc (recField b 0 8 + j) = true then 0
          else if isDram (recField b 0 8 + j) = true then s.byteAt (recField b 0 8 + j) else Config.openByte s.tick (recField b 0 8 + j)))) r) := by
  refine congrArg Host.Outcome.next ?_
  simp only [hr, hk, h1, hc, decide_true, Bool.and_self, if_true]
  refine congrArg (fun ps => dropReq (writePieces _ true ps) r) ?_
  rw [istloadBytes, List.map_map]
  refine List.map_congr_left fun j _ => ?_
  have offset : locIst (recCore b) (recPc b + j) - locIst (recCore b) (recPc b) = j := by simp only [locIst]; omega
  simp only [Function.comp_apply, offset]
  split_ifs <;> rfl

theorem mem_startRecord (s : State) (key : Nat) (n : Bool) (b : Record) : (startRecord s key n b).mem = s.mem := rfl

/-- What a task that a record starts has (R101, R158, R223): its fields are the record's, all else that it holds is fresh. -/
theorem ctx_startRecord (s : State) (key : Nat) (n : Bool) (b : Record) (c : Ctx) (h : (startRecord s key n b).ctx key n = c) :
    c.st = (if n == (s.core key).active then .running else .ready) ∧ c.pc = BitVec.ofNat 15 (recPc b)
    ∧ c.inbox = (s.ctx key n).inbox ∧ c.status = 0 ∧ c.g = startRegs (BitVec.ofNat 64 (recField b 0 8)) (BitVec.ofNat 64 (recField b 8 8))
    ∧ c.asid = recAsid b ∧ c.cap = recCap b ∧ c.kid = BitVec.ofNat 32 (recField b 24 4) ∧ c.live = 0 ∧ c.binds = []
    ∧ c.task.pat = (recFlags b % 2 == 1) ∧ c.task.evend = (recFlags b / 2 % 2 == 1) ∧ c.task.cevt = recField b 40 4 := by
  rw [startRecord, ctx_startTask, ctx_killStore, ctx_lrbClear, core_lrbClear] at h
  subst h
  exact ⟨rfl, rfl, rfl, rfl, rfl, rfl, rfl, rfl, rfl, rfl, rfl, rfl, rfl⟩

theorem execHoldStoreIntake_hold {s : State} {r : Req} {b : Record} (hr : s.req r.id = some r) (hk : r.kind = .hold b) :
    exec (.holdStoreIntake r.id) s = .next { dropReq s r with
      nextId := (dropReq s r).nextId + 1
      held := (dropReq s r).held ++ [{ id := (dropReq s r).nextId, body := b
                                       released := if eventSignalled (dropReq s r) (recWevt b) then some (dropReq s r).nextId else none }] } := by
  refine congrArg Host.Outcome.next ?_
  simp only [hr, hk]

theorem heldRelease_eq {s : State} {h : Held} (hh : (s.held.find? fun x => x.id == h.id) = some h) :
    exec (.heldRelease h.id) s = .next (releaseHeld s h) := by
  refine congrArg Host.Outcome.next ?_
  simp only [hh]

/-- The step of a held record whose turn has come (R103, R108, R109). -/
theorem releaseHeld_turn {s : State} {h : Held} (hrel : h.released ≠ none)
    (hfirst : ∀ x ∈ s.held, recCore x.body = recCore h.body → heldBefore x h = false) : releaseHeld s h =
      if !admits s (clusterOf (recCore h.body)) (recAsid h.body) then
        { s with held := s.held.filter (fun x => x.id ≠ h.id), hldrop := inc32 s.hldrop 1 }
      else if recKind h.body = 0 && !inboxRoom s (recCore h.body) (recCtx h.body) then s
      else sendReq { s with held := s.held.filter (fun x => x.id ≠ h.id) }
        { reqOf globalKey false (.record h.body false 0 0 0) noLoc none with route := some (recCore h.body) } := by
  refine if_neg ?_
  have none_before : ∀ x ∈ s.held, (recCore x.body == recCore h.body && heldBefore x h) = false := fun x hx => by
    by_cases same : recCore x.body = recCore h.body
    · simp [hfirst x hx same]
    · simp [same]
  simp only [List.any_eq_false.mpr fun x hx => (Bool.eq_false_iff.mp (none_before x hx)), Bool.or_false, Option.isNone_iff_eq_none]
  exact hrel

/-- OUTBOUND_RECORD_SEND of a buffer that holds a record. -/
theorem outboundRecordSend_cons {s : State} {key : Nat} {o : Outgoing} {rest : List Outgoing} (ho : (s.core key).outbound = o :: rest) :
    exec (.outboundRecordSend key) s = .next
      (if recWevt o.body ≠ 0 then
        (if holdRoom s then { s.modCore key (fun c => { c with outbound := rest }) with fabric := s.fabric ++
          [{ reqOf key o.ctx (.hold o.body) noLoc none with id := o.id, dead := o.dead, area := o.area }] } else s)
      else if inboxRoom s (recCore o.body) (recCtx o.body) then
        { s.modCore key (fun c => { c with outbound := rest }) with fabric := s.fabric ++
          [{ reqOf key o.ctx (.record o.body true o.pc o.insn o.opa) noLoc none with
             id := o.id, dead := o.dead, area := o.area, route := some (recCore o.body) }] }
      else s) := by
  refine congrArg Host.Outcome.next ?_
  simp only [ho]
  rfl

theorem outbound_popped (s : State) (key : Nat) (rest : List Outgoing) (f : List Req) :
    (({ s.modCore key (fun c => { c with outbound := rest }) with fabric := f } : State).core key).outbound = rest :=
  congrArg Core.outbound (State.core_modCore_same s key fun c => { c with outbound := rest })

/-- Settles O34: each step of a record is one equation in what its request holds. -/
theorem recordSteps : Obligations.RecordSteps := by
  refine ⟨fun s r b m pc i a hr hk h0 hc hm => ⟨fun hroom => ?_, fun hfull => ?_⟩, fun s b key n hkey hn hi => ?_,
    fun s b key n hkey hn hi hv ha hs he => ?_, fun s r key n pc x t kid asid cap hr hk hg hst hsp => ?_,
    fun s r b m pc i a hr hk h1 hc xs u hxs hopen hlock => ?_,
    fun s r b pc i a hr hk => ⟨fun h => msgAdmissionRefused_stays hr hk (.inl h), fun h => msgAdmissionRefused_stays hr hk (.inr h),
      fun h hc hd => ?_, fun h hc hd hf => ?_, fun h hc hd ha hf => ?_⟩,
    fun s r b hr hk => ?_, fun s h hh key hkey => ⟨fun hw => ?_, fun hrel hfirst => ⟨fun had => ?_, fun had hroom => ?_, fun had hk hroom => ?_⟩⟩,
    fun s key o rest ho => ⟨fun hw hroom => ?_, fun hw hroom => ?_, fun hw hroom => ?_, fun hw hroom => ?_⟩, fun s key ho => ?_⟩
  case refine_1 =>
    rw [recordArrival_record hr hk, if_pos]
    rcases hm with rfl | hm <;> simp [*]
  case refine_2 =>
    rw [recordArrival_record hr hk, if_neg]
    simp [Nat.not_lt.mpr hfull]
  case refine_3 =>
    subst hkey hn
    obtain ⟨ctx, mem⟩ := arriveRecord_waits hi
    refine ⟨_, rfl, ?_⟩
    rw [ctx]
    exact ⟨rfl, rfl, rfl, mem⟩
  case refine_4 =>
    refine ⟨_, arriveRecord_starts hkey hn hi hv ha hs he, ?_⟩
    rw [ctx_offerSwap, lrb_offerSwap, mem_offerSwap]
    obtain ⟨st, pc, inbox, status, g, asid, cap, kid, live, binds, pat, evend, cevt⟩ := ctx_startRecord _ key n b _ rfl
    rw [active_modCtx, active_modCtx, if_pos (by rw [← ha]; exact beq_self_eq_true n)] at st
    rw [State.ctx_modCtx_same] at inbox
    obtain ⟨g1, g2, g0⟩ := startRegs_get (BitVec.ofNat 64 (recField b 0 8)) (BitVec.ofNat 64 (recField b 8 8))
    rw [← g] at g1 g2 g0
    refine ⟨st, pc, inbox, status, g1, g2, g0, asid, cap, kid, live, binds, ?_, pat, evend, cevt, mem_startRecord ..⟩
    rw [startRecord, lrb_startTask, core_lrbClear]
  case refine_5 =>
    rw [recordArrival_fork hr hk, if_pos]
    simp [*]
  case refine_6 =>
    subst hxs
    rw [istloadCopy_record hr hk h1 hc]
    by_cases hl : ∃ l ∈ (List.range (recField b 8 2)).map (recField b 0 8 + ·), s.lockedLoc l = true
    · rw [readHome_locked hl, hlock hl]
    · have all_open : ∀ l ∈ (List.range (recField b 8 2)).map (recField b 0 8 + ·), s.lockedLoc l = false :=
        fun l hm => Bool.eq_false_iff.mpr fun h => hl ⟨l, hm, h⟩
      rw [readHome_open all_open, hopen all_open]
  case refine_7 => exact (msgAdmissionRefused_refuses hr hk h hc).trans (congrArg Host.Outcome.next (if_pos hd))
  case refine_8 =>
    refine ⟨_, _, msgAdmissionRefused_refuses hr hk h hc, congrArg State.refusals (refuseMsg_waits hd hf pc i a), rfl, rfl, rfl, rfl, rfl,
      rfl, rfl, rfl, rfl, ?_⟩
    rw [refuseMsg_waits hd hf, dropReq_frame]
    exact ⟨rfl, rfl⟩
  case refine_9 =>
    obtain ⟨_, rfl, st, fcode, code, detail, pc', next⟩ := takePosted_msg { dropReq s r with nextId := s.nextId + 1 } (x := msgRefusal s r pc i a) rfl rfl
    refine ⟨_, (msgAdmissionRefused_refuses hr hk h hc).trans (congrArg Host.Outcome.next (refuseMsg_freezes hd ha hf pc i a)), st, fcode, code, detail, pc',
      next.trans (pc_dropReq s r), ?_⟩
    rw [takePosted_frame, dropReq_frame]
    exact ⟨rfl, rfl⟩
  case refine_10 =>
    refine ⟨_, execHoldStoreIntake_hold hr hk, ?_⟩
    rw [dropReq_frame]
    refine ⟨rfl, rfl, _, rfl, rfl, ?_⟩
    change Option.isSome (if eventSignalled s _ then _ else _) = _
    cases eventSignalled s (recWevt b) <;> rfl
  case refine_11 =>
    refine (heldRelease_eq hh).trans (congrArg Host.Outcome.next (if_pos ?_))
    subst hkey
    simpa using hw
  case refine_12 =>
    subst hkey
    rw [heldRelease_eq hh, releaseHeld_turn hrel hfirst, if_pos (by simp [had])]
  case refine_13 =>
    subst hkey
    have room : ¬(recKind h.body = 0 && !inboxRoom s (recCore h.body) (recCtx h.body)) = true := by
      rcases hroom with hroom | hroom <;> simp [hroom]
    refine ⟨_, (heldRelease_eq hh).trans (congrArg Host.Outcome.next ((releaseHeld_turn hrel hfirst).trans
      ((if_neg (by simp [had])).trans ((if_neg room).trans (sendReq_uncounted _ rfl))))), rfl, rfl, _, rfl, rfl, rfl⟩
  case refine_14 =>
    subst hkey
    rw [heldRelease_eq hh, releaseHeld_turn hrel hfirst, if_neg (by simp [had]), if_pos (by simp [hk, hroom])]
  case refine_15 =>
    refine ⟨_, _, (outboundRecordSend_cons ho).trans (congrArg Host.Outcome.next ((if_neg (not_not.mpr hw)).trans (if_pos hroom))),
      outbound_popped .., rfl, rfl, rfl, rfl, rfl, rfl, rfl, rfl⟩
  case refine_16 =>
    exact ⟨_, _, (outboundRecordSend_cons ho).trans (congrArg Host.Outcome.next ((if_pos hw).trans (if_pos hroom))),
      outbound_popped .., rfl, rfl, rfl, rfl, rfl⟩
  case refine_17 => rw [outboundRecordSend_cons ho, if_neg (not_not.mpr hw), if_neg (by simp [hroom])]
  case refine_18 => rw [outboundRecordSend_cons ho, if_pos hw, if_neg (by simp [hroom])]
  case refine_19 =>
    refine congrArg Host.Outcome.next ?_
    simp only [ho]

end Sys2Proof.Laws
end

section
/-! PROOFS. The commands of `MSQCTL`, walks and invalidation (R95, R204, R205, R207, R430). -/

namespace Sys2Proof.Laws

open Sys2Proof Sys2Proof.Machine

@[simp] theorem stack_setStack_same (s : State) (k : Nat) (x : Stack) : (s.setStack k x).stack k = x := tget_tset_same ..

/-- A set that loses one of its elements. -/
theorem mem_filter_ne_iff {α : Type} [DecidableEq α] (u v : α) (l : List α) : v ∈ l.filter (· ≠ u) ↔ v ≠ u ∧ v ∈ l := by
  simp [and_comm]

/-! ### Commands (R207) -/

theorem msqDone_current {s : State} {st : Fin 16} {u : BitVec 24} {cmd : BitVec 3} {f : Stack → Stack} (h : (s.stack st.val).cmd = cmd)
    (hu : (s.stack st.val).cmdUnit = u) : msqDone s st u cmd f = s.setStack st.val { f (s.stack st.val) with cmd := 0 } :=
  if_pos (by simp [h, hu])

/-- A command that is not the one in progress, as the steps ask it. -/
theorem not_inProgress {x : Stack} {cmd : BitVec 3} {u : BitVec 24} (h : x.cmd ≠ cmd ∨ x.cmdUnit ≠ u) :
    ¬(decide (x.cmd = cmd) && decide (x.cmdUnit = u)) = true := by
  rcases h with h | h <;> simp [h]

theorem msqDone_other {s : State} {st : Fin 16} {u : BitVec 24} {cmd : BitVec 3} {f : Stack → Stack}
    (h : (s.stack st.val).cmd ≠ cmd ∨ (s.stack st.val).cmdUnit ≠ u) : msqDone s st u cmd f = s :=
  if_neg (not_inProgress h)

/-- What a command does to everything that is parked under the ids it names. -/
theorem modParked_eq (s : State) (ids : List Nat) (f : Req → Req) (g : Park → Park) : modParked s ids f g =
    { s with fabric := s.fabric.map fun r => if r.id ∈ ids then f r else r
             clusters := s.clusters.map fun c => (c.1, { c.2 with jobs := c.2.jobs.map fun j =>
               { j with parks := j.parks.map fun k => if k.id ∈ ids then g k else k } }) } := by
  simp only [modParked, List.contains_iff_mem]

/-- Counting an error each time keeps all but the unit's count, which saturates (R95). -/
theorem foldl_countUnc (l : List Nat) (s : State) (u : ErrUnit) : ∃ e, l.foldl (fun s _ => countUnc s u) s = { s with errUnc := e }
    ∧ (e.get (errIx u)).toNat = min (2 ^ 32 - 1) ((s.errUnc.get (errIx u)).toNat + l.length) := by
  induction l generalizing s with
  | nil => exact ⟨_, rfl, by have := (s.errUnc.get (errIx u)).isLt; simp only [List.length_nil]; omega⟩
  | cons _ l ih =>
    obtain ⟨e, eq, count⟩ := ih (countUnc s u)
    refine ⟨e, eq, ?_⟩
    have one : (countUnc s u).errUnc.get (errIx u) = inc32 (s.errUnc.get (errIx u)) 1 := get_set_same ..
    rw [count, one, toNat_inc32, List.length_cons]
    omega

/-- RELEASE of the command's unit (R207). -/
theorem msqRelease_current {s : State} {st : Fin 16} {u : BitVec 24} (h : (s.stack st.val).cmd = 2) (hu : (s.stack st.val).cmdUnit = u) :
    exec (.msqRelease st u) s = .next ((modParked s (parkedFor s st.val u) (fun r => { r with replayed := true }) fun k => { k with replay := true }).setStack
      st.val { unhold u (s.stack st.val) with cmd := if (parkedFor s st.val u).isEmpty then 0 else 2 }) :=
  congrArg Host.Outcome.next (if_pos (by simp [h, hu]))

/-- DROP of the command's unit (R207): each access it completes counts one uncorrectable error (log entry 29). -/
theorem msqDrop_current {s : State} {st : Fin 16} {u : BitVec 24} (h : (s.stack st.val).cmd = 3) (hu : (s.stack st.val).cmdUnit = u) :
    ∃ e, (e.get (errIx .dram)).toNat = min (2 ^ 32 - 1) ((s.errUnc.get (errIx .dram)).toNat + (parkedFor s st.val u).length)
      ∧ exec (.msqDrop st u) s = .next (State.setStack
        { modParked s (parkedFor s st.val u) (fun r => { r with performed := true, parked := false, val := 0, pois := true })
            (fun k => { k with drop := true }) with errUnc := e }
        st.val { unhold u (s.stack st.val) with queue := (s.stack st.val).queue.filter fun i => !(parkedFor s st.val u).contains i, cmd := 0 }) := by
  obtain ⟨e, eq, count⟩ := foldl_countUnc (parkedFor s st.val u)
    (modParked s (parkedFor s st.val u) (fun r => { r with performed := true, parked := false, val := 0, pois := true }) fun k => { k with drop := true }) .dram
  refine ⟨e, count, congrArg Host.Outcome.next ((if_pos (by simp [h, hu])).trans ?_)⟩
  exact (congrArg (fun t => msqDone t st u 3 _) eq).trans (msqDone_current h hu)

/-! ### The end of a release -/

/-- An access that leaves the queue of its stack (R207). -/
theorem unpark_parked {s : State} {r : Req} (h : r.parked = true) : unpark s r = dequeueUnit s r.id r.loc := if_pos (by simp [h])

theorem dequeueUnit_frame (s : State) (id loc : Nat) : dequeueUnit s id loc = { s with dram := (dequeueUnit s id loc).dram } := by
  simp only [dequeueUnit]
  split <;> rfl

theorem queue_dequeueUnit (s : State) (id loc : Nat) :
    ((dequeueUnit s id loc).stack (stackOf loc)).queue = nsDel (s.stack (stackOf loc)).queue id := by
  simp only [dequeueUnit]
  split <;> simp

theorem parkedAt_setStack (s : State) (k : Nat) (x : Stack) : parkedAt (s.setStack k x) = parkedAt s := rfl

/-- The last parked access of a unit that is no longer held ends the RELEASE (R207). -/
theorem dequeueUnit_last {s : State} {id loc : Nat} (hc : (s.stack (stackOf loc)).cmd = 2) (hu : (s.stack (stackOf loc)).cmdUnit = Machine.unitOf loc)
    (hp : parkedFor s (stackOf loc) (Machine.unitOf loc) = [id]) (hh : Machine.unitOf loc ∉ (s.stack (stackOf loc)).held) :
    ((dequeueUnit s id loc).stack (stackOf loc)).cmd = 0 := by
  have none_left : parkedFor (s.setStack (stackOf loc) { s.stack (stackOf loc) with queue := nsDel (s.stack (stackOf loc)).queue id }) (stackOf loc)
      (Machine.unitOf loc) = [] := by
    rw [parkedFor, stack_setStack_same, parkedAt_setStack]
    change ((s.stack (stackOf loc)).queue.filter _).filter _ = []
    rw [List.filter_comm]
    change (parkedFor s (stackOf loc) (Machine.unitOf loc)).filter _ = []
    simp [hp]
  simp only [dequeueUnit]
  rw [if_pos (by rw [stack_setStack_same, none_left]; simp [hc, hu, hh]), stack_setStack_same]

/-! ### Walks (R204, R205) -/

theorem lockAlarm_cases (s : State) (fw : Bool) (cl : Nat) (asid : BitVec 16) (vas : List Nat) :
    lockAlarm s fw cl asid vas = s ∨ lockAlarm s fw cl asid vas = raiseAlarm s 2 false := by
  unfold lockAlarm
  split_ifs
  · exact .inr rfl
  · exact .inl rfl

theorem tlbWalk_eq {key : Nat} (h : isTile key = true ∨ isLeaf key = true) (s : State) (va : Word) :
    exec (.tlbWalk key va) s = .next (tlbFills s (isFw key) (clusterOf key) (s.ctx key (s.core key).active).asid [va.toNat]) :=
  congrArg Host.Outcome.next (if_pos (by simpa using h))

/-- What one page fill does, by what the walk finds (R204). -/
theorem tlbFills_error {s : State} {fw : Bool} {cl va d : Nat} {asid : BitVec 16} (h : pageOf (lockAlarm s fw cl asid [va]) fw cl asid va = .error d) :
    tlbFills s fw cl asid [va] = lockAlarm s fw cl asid [va] := by
  simp only [tlbFills, List.foldl_cons, List.foldl_nil, h]

theorem tlbFills_ok {s : State} {fw : Bool} {cl va : Nat} {asid : BitVec 16} {e : TlbEnt}
    (h : pageOf (lockAlarm s fw cl asid [va]) fw cl asid va = .ok e) :
    tlbFills s fw cl asid [va] = tlbFill (lockAlarm s fw cl asid [va]) cl e := by
  simp only [tlbFills, List.foldl_cons, List.foldl_nil, h]

theorem tlbFill_new {s : State} {cl : Nat} {e : TlbEnt} (h : ((s.cluster cl).hit e.asid e.vbase).isSome = false) :
    ((tlbFill s cl e).cluster cl).tlb = e :: tlbRoom s.tick (s.cluster cl).tlb := by
  rw [tlbFill, cluster_modCluster_same, if_neg (by simp [h])]

/-! ### Invalidation (R430) -/

theorem tlbInvalidate_go {s : State} {cl : Nat} {v : Word} (h : v.getLsbD 0 = true) : exec (.tlbInvalidate cl v) s = .next
    ((writeTlbinv s cl v).modCluster cl fun c => { c with invGo := false, tlb := c.tlb.filter fun e => !(c.invAll || e.asid == c.invAsid) }) :=
  congrArg Host.Outcome.next (if_pos h)

/-- Settles O35: a command that is in progress is one update of its stack and of what is parked; a walk and an invalidation update one TLB. -/
theorem unitAndTranslationSteps : Obligations.UnitAndTranslationSteps := by
  refine ⟨fun s st u x ids hx hu hids => ⟨fun hc => ?_, fun hc => ?_, fun hc => ?_⟩, fun s st u h => congrArg Host.Outcome.next (msqDone_other h),
    fun s st u h => ?_, fun s st u h => ?_, fun s r x hx hp => ⟨?_, ?_, fun hc hu hl hh => ?_⟩,
    fun s key va asid u hk ha hu => ⟨fun d hd => ?_, fun e he hm => ?_⟩, fun s fw cl asid vas => rfl, fun s cl v h => ?_⟩
  case refine_1 =>
    subst hx
    refine ⟨_, congrArg Host.Outcome.next (msqDone_current hc hu), ?_⟩
    rw [stack_setStack_same]
    refine ⟨rfl, rfl, fun v => ?_, rfl, rfl, rfl⟩
    dsimp only
    split_ifs with held
    · rw [List.contains_iff_mem] at held
      exact ⟨.inr, fun h => h.elim (fun h => h ▸ held) id⟩
    · rw [List.mem_append, List.mem_singleton, or_comm]
  case refine_2 =>
    subst hx hids
    refine ⟨_, msqRelease_current hc hu, ?_⟩
    rw [stack_setStack_same, modParked_eq]
    refine ⟨?_, rfl, fun v => mem_filter_ne_iff .., fun v => mem_filter_ne_iff .., rfl, rfl, rfl⟩
    cases parkedFor s st.val u <;> simp
  case refine_3 =>
    subst hx hids
    obtain ⟨e, count, eq⟩ := msqDrop_current hc hu
    refine ⟨_, eq, ?_⟩
    rw [stack_setStack_same, modParked_eq]
    exact ⟨rfl, fun v => mem_filter_ne_iff .., fun v => mem_filter_ne_iff .., rfl, rfl, rfl, count, rfl⟩
  case refine_4 => exact congrArg Host.Outcome.next (if_neg (not_inProgress h))
  case refine_5 => exact congrArg Host.Outcome.next (if_neg (not_inProgress h))
  case refine_6 => rw [unpark_parked hp, dequeueUnit_frame]
  case refine_7 => rw [unpark_parked hp, queue_dequeueUnit, hx]
  case refine_8 =>
    subst hx
    rw [unpark_parked hp, dequeueUnit_last hc hu hl hh]
  case refine_9 =>
    subst ha hu
    rw [tlbWalk_eq hk, tlbFills_error hd]
  case refine_10 =>
    subst ha hu
    refine ⟨_, (tlbWalk_eq hk s va).trans (congrArg Host.Outcome.next (tlbFills_ok he)), (tlbFill_new hm).trans ?_, ?_⟩
    all_goals
      rcases lockAlarm_cases s (isFw key) (clusterOf key) (s.ctx key (s.core key).active).asid [va.toNat] with same | alarm
    · rw [same]
    · rw [alarm, raiseAlarm_eq s 2 false _ rfl]; rfl
    · rw [same]; exact ⟨rfl, rfl⟩
    · rw [alarm, raiseAlarm_eq s 2 false _ rfl]; exact ⟨rfl, rfl⟩
  case refine_11 =>
    refine ⟨_, tlbInvalidate_go h, ?_⟩
    rw [cluster_modCluster_same, writeTlbinv, cluster_modCluster_same]
    refine ⟨rfl, rfl, ofNat_bitsAt .., ?_, fun i hi => ?_, rfl, rfl⟩
    · simp only [ofNat_bitsAt]
    · rw [cluster_modCluster_other _ _ hi, cluster_modCluster_other _ _ hi]

end Sys2Proof.Laws
end

section
/-! PROOFS. The epilogue buffer's rows and an MMAR's tiles (R185, R233, R235, R393, R403). -/

namespace Sys2Proof.Laws

open Sys2Proof Sys2Proof.Machine

@[simp] theorem quad_modQuad_same (s : State) (k : Nat) (f : Quad → Quad) : (s.modQuad k f).quad k = f (s.quad k) := State.quad_setQuad_same ..

/-! ### An entry whose stores are acknowledged (R185) -/

theorem killpendApply_eq {s : State} {quad k : Nat} {e : Epi} (h : s.epiEntry quad k = some e) : exec (.killpendApply quad k) s = .next (if e.done then
    (killGranules s (quadCore quad e.pos) e.op.ctx (maskGranules e.kill)).modQuad quad fun q => { q with epi := q.epi.filter fun x => x.id ≠ k }
    else s) := by
  refine congrArg Host.Outcome.next ?_
  simp only [h]

/-! ### A row that faults (R233, R235) -/

/-- The lowest fields of a packet, whatever stands above them. -/
theorem packetOf_low (f : FaultInfo) {flags : Nat} (core pc insn npc : Nat) (opa opb : Word) (time : Nat) (hc : f.code < 2 ^ 8) (hf : flags < 2 ^ 8) :
    (packetOf f flags core pc insn npc opa opb time).toNat % 2 ^ 16 = f.code + flags * 2 ^ 8 := by
  rw [packetOf, BitVec.toNat_ofNat]
  omega

/-- The packet of an epilogue store names its code and has the EPI flag (R233). -/
theorem epiPacket_low (s : State) (key : Nat) (e : Epi) (f : FaultInfo) (hc : f.code < 2 ^ 8) :
    (epiPacket s key e f).getLsbD 9 = true ∧ (epiPacket s key e f).extractLsb' 0 8 = BitVec.ofNat 8 f.code := by
  have flags : 2 + (if e.op.ctx != (s.core key).active then 4 else 0) = 2 ∨ 2 + (if e.op.ctx != (s.core key).active then 4 else 0) = 6 := by
    split_ifs
    · exact .inr rfl
    · exact .inl rfl
  have low : (epiPacket s key e f).toNat % 2 ^ 16 = f.code + (2 + (if e.op.ctx != (s.core key).active then 4 else 0)) * 2 ^ 8 :=
    packetOf_low f _ _ _ _ _ _ _ hc (by omega)
  constructor
  · rw [BitVec.getLsbD, Nat.testBit_eq_decide_div_mod_eq, decide_eq_true_eq]
    omega
  · apply BitVec.eq_of_toNat_eq
    rw [BitVec.extractLsb'_toNat, Nat.shiftRight_eq_div_pow, BitVec.toNat_ofNat]
    omega

/-- The alarm of a row's walk touches no core, no quad and no byte (R88). -/
theorem epiAlarm_keeps (s : State) (quad : Nat) (e : Epi) (r : EpiRow) :
    (epiAlarm s quad e r).cores = s.cores ∧ (epiAlarm s quad e r).quads = s.quads ∧ (epiAlarm s quad e r).mem = s.mem := by
  have alarm : epiAlarm s quad e r = s ∨ epiAlarm s quad e r = raiseAlarm s 2 false := by
    simp only [epiAlarm]
    split
    · exact lockAlarm_cases ..
    · exact .inl rfl
  rcases alarm with same | raised
  · rw [same]; exact ⟨rfl, rfl, rfl⟩
  · rw [raised, raiseAlarm_eq s 2 false _ rfl]; exact ⟨rfl, rfl, rfl⟩

/-- An entry that is put back with rows to send stays in the buffer. -/
theorem putEpi_rows {s : State} {quad : Nat} {e : Epi} (h : e.rows ≠ []) :
    ((putEpi s quad e).quad quad).epi = (s.quad quad).epi.map fun x => if x.id = e.id then e else x := by
  rw [putEpi, quad_modQuad_same]
  refine List.filter_eq_self.mpr fun x hx => ?_
  obtain ⟨y, -, rfl⟩ := List.mem_map.mp hx
  split_ifs with same
  · simp [Epi.done, h]
  · simp [same]

theorem ctx_of_cores {s t : State} (h : t.cores = s.cores) (key : Nat) (n : Bool) : t.ctx key n = s.ctx key n := by
  simp only [State.ctx, State.core, h]

/-- What a context holds once one of its rows has faulted. -/
theorem ctx_parkEpi (s : State) (quad : Nat) (e : Epi) (f : FaultInfo) (key : Nat) (n : Bool) (hk : key = quadCore quad e.pos) (hn : n = e.op.ctx) :
    (parkEpi s quad e f).ctx key n =
      if canFreeze s key n then { s.ctx key n with
        st := .frozen, fcode := BitVec.ofNat 8 f.code, packet := epiPacket s key e f, blocked := max 1 (s.ctx key n).blocked, feArr := none
        parked := none, epip := true }
      else { s.ctx key n with packet := epiPacket s key e f, epip := true } := by
  subst hk hn
  have marked : ((putEpi s quad { e with parked := true }).modCtx (quadCore quad e.pos) e.op.ctx fun c => { c with epip := true }).ctx
      (quadCore quad e.pos) e.op.ctx = { s.ctx (quadCore quad e.pos) e.op.ctx with epip := true } := State.ctx_modCtx_same ..
  have asks : canFreeze ((putEpi s quad { e with parked := true }).modCtx (quadCore quad e.pos) e.op.ctx fun c => { c with epip := true })
      (quadCore quad e.pos) e.op.ctx = canFreeze s (quadCore quad e.pos) e.op.ctx := by
    rw [canFreeze, marked]; rfl
  simp only [parkEpi, asks]
  split_ifs
  · rw [ctx_freezeWith, marked]
  · rw [ctx_countPmc, ctx_modCore_of_keeps _ _ _ (by cases e.op.ctx <;> rfl), State.ctx_modCtx_same, marked]

theorem parkEpi_frame (s : State) (quad : Nat) (e : Epi) (f : FaultInfo) :
    parkEpi s quad e f = { putEpi s quad { e with parked := true } with cores := (parkEpi s quad e f).cores } := by
  simp only [parkEpi]
  split
  · rw [freezeWith_frame]; rfl
  · rfl

theorem pktOut_modCtx (s : State) (k : Nat) (n : Bool) (f : Ctx → Ctx) : ((s.modCtx k n f).core k).pktOut = (s.core k).pktOut := by
  rw [State.modCtx, State.setCtx, State.core_setCore_same]
  cases n <;> rfl

/-- The packet goes out although the context does not freeze (log entry 46). -/
theorem pktOut_parkEpi {s : State} {quad : Nat} {e : Epi} {f : FaultInfo} {key : Nat} (hk : key = quadCore quad e.pos)
    (h : canFreeze s key e.op.ctx = false) : ((parkEpi s quad e f).core key).pktOut = (s.core key).pktOut ++ [epiPacket s key e f] := by
  subst hk
  have marked : ((putEpi s quad { e with parked := true }).modCtx (quadCore quad e.pos) e.op.ctx fun c => { c with epip := true }).ctx
      (quadCore quad e.pos) e.op.ctx = { s.ctx (quadCore quad e.pos) e.op.ctx with epip := true } := State.ctx_modCtx_same ..
  have asks : ¬canFreeze ((putEpi s quad { e with parked := true }).modCtx (quadCore quad e.pos) e.op.ctx fun c => { c with epip := true })
      (quadCore quad e.pos) e.op.ctx = true := by
    rw [canFreeze, marked]; simpa [canFreeze] using h
  simp only [parkEpi]
  rw [if_neg asks]
  obtain ⟨v, w, counted⟩ := countPmc_core ((((putEpi s quad { e with parked := true }).modCtx (quadCore quad e.pos) e.op.ctx fun c =>
    { c with epip := true }).modCtx (quadCore quad e.pos) e.op.ctx fun c => { c with packet := epiPacket s (quadCore quad e.pos) e f }).modCore
      (quadCore quad e.pos) fun c => { c with pktOut := c.pktOut ++ [epiPacket s (quadCore quad e.pos) e f] }) (quadCore quad e.pos) (some e.op.ctx) 8 1
  rw [counted, State.core_modCore_same, pktOut_modCtx, pktOut_modCtx]
  rfl

/-- EPI_STORE_FAULT of an entry whose next row resolves: nothing (R235). -/
theorem epiStoreFault_resolves {s : State} {quad k : Nat} {e : Epi} {r : EpiRow} {rs : List EpiRow} {x : List Nat × List Nat}
    (h : s.epiEntry quad k = some e) (hr : e.rows = r :: rs) (hp : e.parked = false) (hb : rowsBefore s quad e = false)
    (hx : epiResolve s quad e r = .ok x) : exec (.epiStoreFault quad k) s = .next s := by
  refine congrArg Host.Outcome.next ?_
  simp only [h, hr, hp, hb, hx, Bool.or_self, Bool.false_eq_true, if_false]

/-- EPI_STORE_FAULT of an entry whose next row faults (R235, R242). -/
theorem epiStoreFault_faults {s : State} {quad k : Nat} {e : Epi} {r : EpiRow} {rs : List EpiRow} {f : FaultInfo}
    (h : s.epiEntry quad k = some e) (hr : e.rows = r :: rs) (hp : e.parked = false) (hb : rowsBefore s quad e = false)
    (he : epiResolve s quad e r = .error f) : exec (.epiStoreFault quad k) s = .next
      (if e.dead then advanceEpi (putEpi (epiAlarm s quad e r) quad { e with rows := rs }) quad else parkEpi (epiAlarm s quad e r) quad e f) := by
  refine congrArg Host.Outcome.next ?_
  simp only [h, hr, hp, hb, he, Bool.or_self, Bool.false_eq_true, if_false]

theorem epiStoreFault_idle {s : State} {quad k : Nat} {e : Epi} (h : s.epiEntry quad k = some e)
    (hi : e.rows = [] ∨ e.parked = true ∨ rowsBefore s quad e = true) : exec (.epiStoreFault quad k) s = .next s := by
  refine congrArg Host.Outcome.next ?_
  simp only [h]
  split
  · rfl
  next r rs hr => exact if_pos (by simpa [hr] using hi)

/-! ### An MMAR's tiles (R393) -/

/-- Without a partner's tile to take, nothing is taken. -/
theorem receiveTile_none {s : State} {key id : Nat} {a : Bool} {f : Flight} (hf : (s.core key).fly.find? (fun x => x.id == id) = some f)
    (h : (if a then f.needA else f.needB) = false ∨ tileFor s key f a = none) : receiveTile s key id a = s := by
  have nothing : (if (if a then f.needA else f.needB) then tileFor s key f a else none) = none := by
    rcases h with h | h <;> simp [h]
  simp only [receiveTile, hf, nothing]

/-- A partner's tile is taken (R393). -/
theorem receiveTile_some {s : State} {key id : Nat} {a : Bool} {f : Flight} {t : TorusTile} (hf : (s.core key).fly.find? (fun x => x.id == id) = some f)
    (hn : (if a then f.needA else f.needB) = true) (ht : tileFor s key f a = some t) : receiveTile s key id a =
      endFlights (if a && !f.dead then writeTileA (putFlight (s.modCluster (clusterOf key) fun c => { c with torus := c.torus.erase t }) key
          { f with needA := f.needA && !a, needB := f.needB && a, out := if a || f.dead then f.out else f.out ++ tileB key f.op t }) key f.op t
        else putFlight (s.modCluster (clusterOf key) fun c => { c with torus := c.torus.erase t }) key
          { f with needA := f.needA && !a, needB := f.needB && a, out := if a || f.dead then f.out else f.out ++ tileB key f.op t }) t.sender := by
  simp only [receiveTile, hf, hn, if_true, ht]

theorem tileFor_some {s : State} {key : Nat} {f : Flight} {a : Bool} {t : TorusTile} (h : tileFor s key f a = some t) :
    t ∈ (s.cluster (clusterOf key)).torus ∧ t.quad = quadOf key ∧ t.pos = posOf key ∧ t.isA = a ∧ t.mrseq = f.mrseq := by
  have asked := List.find?_some h
  simp only [Bool.and_eq_true, beq_iff_eq] at asked
  obtain ⟨⟨⟨hq, hp⟩, ha⟩, hm⟩ := asked
  exact ⟨List.mem_of_find?_eq_some h, hq, hp, ha, hm⟩

theorem flightDone_mmar (s : State) (key : Nat) {f : Flight} (h : isMmar f.op = true) : flightDone s key f =
    (!f.needA && !f.needB && f.out.isEmpty && !((s.cluster (clusterOf key)).torus.any fun t => t.src == f.id)) := by
  unfold isMmar at h
  split at h
  next heq => simp only [flightDone, heq]
  · cases h

theorem fly_flagCtx (s : State) (key : Nat) (n : Bool) (f : Nat) : ((flagCtx s key n f).core key).fly = (s.core key).fly := by
  unfold flagCtx
  split_ifs
  · rfl
  · rw [State.modCtx, State.setCtx, State.core_setCore_same]; cases n <;> rfl

theorem fly_endFlights (s : State) (key : Nat) : ((endFlights s key).core key).fly =
    (s.core key).fly.filter fun f => !((s.core key).fly.any fun d => flightDone s key d && d.id == f.id) := by
  have flags (l : List Flight) (u : State) : ((l.foldl (fun u f => if f.dead then u else flagCtx u key f.op.ctx (tileCols f.op f.got).2) u).core key).fly
      = (u.core key).fly := by
    induction l generalizing u with
    | nil => rfl
    | cons f l ih =>
      rw [List.foldl_cons, ih]
      split_ifs
      · rfl
      · exact fly_flagCtx ..
  rw [endFlights, flags, State.core_modCore_same]
  simp only [List.any_filter]

/-- Settles O38: a row's fault and an entry's end are updates of the buffer and of one context, and a tile moves from the torus to its flight. -/
theorem epilogueAndTorus : Obligations.EpilogueAndTorus := by
  refine ⟨fun s quad k e h => ⟨fun hd => ?_, fun hd => ?_, fun g => ?_⟩, fun s quad k e r rs f key n h hr hp hd hb he hkey hn hc => ?_,
    fun s quad k e h hi => epiStoreFault_idle h hi, fun s quad k e r rs f h hr hp hb => ⟨fun x hx => ?_, fun hd he => ?_⟩,
    fun s key n => rfl, fun s key id a f hf => ⟨fun h => receiveTile_none hf h, fun t u hn ht hu => ?_⟩, fun s key f a t h => tileFor_some h,
    fun s key f hm => ?_, fun s key _ => fly_endFlights s key⟩
  case refine_1 => rw [killpendApply_eq h, if_pos hd]
  case refine_2 => rw [killpendApply_eq h, if_neg (by simp [hd])]
  case refine_3 => simp [maskGranules]
  case refine_4 =>
    obtain ⟨cores, quads, mem⟩ := epiAlarm_keeps s quad e r
    have ctx (m : Bool) : (epiAlarm s quad e r).ctx key m = s.ctx key m := ctx_of_cores cores key m
    have asks : canFreeze (epiAlarm s quad e r) key n = canFreeze s key n := by rw [canFreeze, ctx, canFreeze]
    obtain ⟨flag, code⟩ := epiPacket_low (epiAlarm s quad e r) key e f hc
    refine ⟨parkEpi (epiAlarm s quad e r) quad e f, ?_, ?_, ?_, ?_⟩
    · rw [epiStoreFault_faults h hr hp hb he, if_neg (by simp [hd])]
    · intro frozen
      rw [ctx_parkEpi _ _ _ _ _ _ hkey hn, asks, if_pos frozen]
      exact ⟨rfl, rfl⟩
    · intro stays
      rw [ctx_parkEpi _ _ _ _ _ _ hkey hn, asks, if_neg (by simp [stays]), ctx, pktOut_parkEpi hkey (by rw [← hn, asks, stays])]
      simp only [State.core, cores, and_self]
    · have epi : ((parkEpi (epiAlarm s quad e r) quad e f).quad quad).epi = (s.quad quad).epi.map
          (fun x => if x.id = e.id then { e with parked := true } else x) := by
        rw [parkEpi_frame]
        exact (putEpi_rows (e := { e with parked := true }) (by simp [hr])).trans (by simp only [State.quad, quads])
      have bytes : (parkEpi (epiAlarm s quad e r) quad e f).mem = s.mem := by rw [parkEpi_frame]; exact mem
      rw [ctx_parkEpi _ _ _ _ _ _ hkey hn, ctx]
      cases canFreeze (epiAlarm s quad e r) key n
      · rw [if_neg Bool.false_ne_true]; exact ⟨rfl, rfl, rfl, rfl, flag, code, epi, bytes⟩
      · rw [if_pos rfl]; exact ⟨rfl, rfl, rfl, rfl, flag, code, epi, bytes⟩
  case refine_5 => exact epiStoreFault_resolves h hr hp hb hx
  case refine_6 =>
    rw [epiStoreFault_faults h hr hp hb he, if_pos hd]
  case refine_7 =>
    rw [receiveTile_some hf hn ht, hu]
    cases a <;> cases f.dead <;> rfl
  case refine_8 =>
    rw [flightDone_mmar s key hm]
    simp [and_assoc]

end Sys2Proof.Laws
end

section
/-! PROOFS. Loads and stores that complete (R94, R196, R201, R210 to R214, R278, R328). -/

namespace Sys2Proof.Laws

open Sys2Proof Sys2Proof.Machine

/-! ### Addresses and values -/

theorem addrPlus_eq (x : Word) {w : Nat} (v : BitVec w) : addrPlus x v.toInt = (x + v.signExtend 64).toNat := by
  rw [addrPlus, BitVec.ofInt_add, BitVec.ofInt_natCast, BitVec.ofNat_toNat, BitVec.setWidth_eq, BitVec.signExtend]

/-- The address of a memory form: the base plus the sign-extended offset (R278). -/
theorem addrPlus_offVal (x : Word) (off : Off) : addrPlus x (offVal off) = addressOf x off := by
  cases off <;> exact addrPlus_eq ..

theorem memAddr_ok {s s1 : State} {m : MemOp} {x : Word} (h : readSrc s m.base.r = .ok (x, s1)) : memAddr s m = .ok (addressOf x m.off, s1) := by
  simp only [memAddr, h, exec_bind_ok, addrPlus_offVal]
  rfl

theorem ldInfo_fst (k : LdKind) : (ldInfo k).1 = loadWidth k := by cases k <;> rfl

theorem stWidth_eq (k : StKind) : stWidth k = storeWidth k := by cases k <;> rfl

theorem sextNat_eq (w v : Nat) (h : v < 2 ^ w) : sextNat w v = (BitVec.ofNat w v).toInt := by
  rw [sextNat, BitVec.toInt_eq_toNat_cond, BitVec.toNat_ofNat, Nat.mod_eq_of_lt h]
  rcases w with _ | w
  · obtain rfl : v = 0 := by omega
    simp
  · rw [Nat.add_sub_cancel, Nat.pow_succ]
    split_ifs <;> omega

/-- The value of a load's bytes: zero- or sign-extended (R328). -/
theorem loadVal_eq (k : LdKind) {bs : List Byte} (h : bs.length ≤ loadWidth k) : loadVal k bs = loadedValue k bs := by
  have small : natOfBytes bs < 2 ^ (8 * loadWidth k) := (natOfBytes_lt bs).trans_le (Nat.pow_le_pow_right (by decide) (by omega))
  cases k <;> simp only [loadWidth, Nat.reduceMul] at small <;> simp only [loadVal, ldInfo, loadedValue, if_true, Bool.false_eq_true, if_false, Nat.reduceMul]
  case z8 => exact BitVec.eq_of_toNat_eq (by simp; omega)
  case z16 => exact BitVec.eq_of_toNat_eq (by simp; omega)
  case z32 => exact BitVec.eq_of_toNat_eq (by simp; omega)
  all_goals rw [sextNat_eq _ _ small, BitVec.signExtend]

/-! ### Where an operand's bytes lie (R195, R198) -/

theorem length_addrRange (a n : Nat) : (addrRange a n).length = n := by simp [addrRange]

/-- A map that may fail, done: each result is its element's. -/
theorem forall₂_of_mapM_some {α β : Type} {f : α → Option β} {as : List α} {bs : List β} (h : as.mapM f = some bs) :
    List.Forall₂ (fun a b => f a = some b) as bs := by
  induction as generalizing bs with
  | nil => cases h; exact .nil
  | cons a as ih =>
    rw [List.mapM_cons] at h
    cases ha : f a with
    | none => rw [ha] at h; cases h
    | some b =>
      cases hr : as.mapM f with
      | none => rw [ha, hr] at h; cases h
      | some rest => rw [ha, hr] at h; cases h; exact .cons ha (ih hr)

theorem forall₂_of_mapM_ok {ε α β : Type} {f : α → Except ε β} {as : List α} {bs : List β} (h : as.mapM f = .ok bs) :
    List.Forall₂ (fun a b => f a = .ok b) as bs := by
  induction as generalizing bs with
  | nil => cases h; exact .nil
  | cons a as ih =>
    rw [List.mapM_cons] at h
    cases ha : f a with
    | error e => rw [ha] at h; cases h
    | ok b =>
      cases hr : as.mapM f with
      | error e => rw [ha, hr] at h; cases h
      | ok rest => rw [ha, hr] at h; cases h; exact .cons ha (ih hr)

theorem length_xlate {s : State} {fw : Bool} {cl : Nat} {asid : BitVec 16} {u : PageUse} {vas : List Nat} {ls ms : List Nat}
    (h : xlate s fw cl asid u vas = .ok (ls, ms)) : ls.length = vas.length := by
  simp only [xlate, bind, Except.bind] at h
  split at h
  · cases h
  next es hes =>
    split at h
    · cases h
    split at h
    · cases h
    · cases h
      rw [List.length_map]
      exact (forall₂_of_mapM_ok hes).length_eq.symm

/-- An access that is not refused is resolved, and leaves its pages in the TLB (R204, R231). -/
theorem access_ok {s t : State} {sp : Space} {u : PageUse} {addr align n : Nat} {acc : Acc} (h : access s sp u addr align n = .ok (acc, t)) :
    resolve s s.focus s.cur.asid sp u addr align (addrRange addr n) = .ok acc ∧ t = translated s sp (addrRange addr n) := by
  unfold access at h
  simp only [checkedIn] at h
  split at h
  next acc' hr => cases h; exact ⟨hr, rfl⟩
  · cases h

theorem directByte_spm {key a l : Nat} (h : directByte key .spm a = some l) : l = locSpm key a ∧ a < spmSize key := by
  simp only [directByte] at h
  split at h
  next ha => cases h; exact ⟨rfl, ha⟩
  · cases h

theorem directByte_lane {key a l : Nat} (h : directByte key .lane a = some l) : l = locLane (quadOf key) a ∧ a < 0x40000 ∧ isTile key = true := by
  simp only [directByte] at h
  split at h
  next ha => cases h; simpa using ha
  · cases h

/-- What an access that is resolved has: a location for each byte, and of the own scratchpad or lanes their places (R195, R211). -/
theorem resolve_ok {s : State} {key : Nat} {asid : BitVec 16} {sp : Space} {u : PageUse} {addr align : Nat} {as : List Nat} {acc : Acc}
    (h : resolve s key asid sp u addr align as = .ok acc) : acc.locs.length = as.length ∧ acc.own = (sp == .spm || sp == .lane)
      ∧ (acc.own = true → List.Forall₂ (fun a l => directByte key sp a = some l) as acc.locs) := by
  by_cases hg : sp = .glb
  · subst hg
    simp only [resolve] at h
    split at h
    · cases h
    split at h
    · cases h
    next ls ms hx =>
      split at h
      · cases h
      · cases h; exact ⟨length_xlate hx, rfl, nofun⟩
  · simp only [resolve] at h
    split at h
    · cases h
    next ls hm =>
      split at h
      · cases h
      split at h
      · cases h
      split at h
      · cases h
      · cases h; exact ⟨(forall₂_of_mapM_some hm).length_eq.symm, rfl, fun _ => forall₂_of_mapM_some hm⟩

/-- The own scratchpad and lanes are no DRAM, which alone the lock covers (R88, R198). -/
theorem not_dram_of_own {key : Nat} {sp : Space} {as ls : List Nat} (hs : sp = .spm ∨ sp = .lane)
    (h : List.Forall₂ (fun a l => directByte key sp a = some l) as ls) : ∀ l ∈ ls, isDram l = false := by
  induction h with
  | nil => exact nofun
  | cons ha _ ih =>
    refine List.forall_mem_cons.mpr ⟨?_, ih⟩
    rcases hs with rfl | rfl
    · obtain ⟨rfl, -⟩ := directByte_spm ha
      exact decide_eq_false (by rw [locSpm]; split_ifs <;> omega)
    · obtain ⟨rfl, -⟩ := directByte_lane ha
      exact decide_eq_false (by rw [locLane]; omega)

theorem lockedLoc_of_not_dram (s : State) {l : Nat} (h : isDram l = false) : s.lockedLoc l = false := by
  simp [State.lockedLoc, h]

/-- A read of places that the lock does not cover, by any agent. -/
theorem readHome_unlocked {s : State} {fw : Bool} {ls : List Nat} (h : ∀ l ∈ ls, s.lockedLoc l = false) :
    readHome s fw ls = (ls.map s.byteAt, ls.any s.poisonAt, s) := by
  have none_locked : ls.any s.lockedLoc = false := List.any_eq_false.mpr fun l hl => by simp [h l hl]
  simp only [readHome, none_locked, Bool.and_false, Bool.false_or, Bool.false_eq_true, if_false]
  refine Prod.ext (List.map_congr_left fun l hl => ?_) rfl
  simp [h l hl]

theorem poisIf_eq_withPois (s : State) (b : Bool) : poisIf s s.focus s.act b = withPois s b := rfl

/-! ### LD and ST (R201, R210 to R214, R328) -/

theorem exec_ld (c : Com) (k : LdKind) (d : Dst) (m : MemOp) (s : State) : exec (.ld c k d m) s = issueFall .any c s (fun s => do
    let (a, s) ← memAddr s m
    memReady s
    let (acc, s) ← access s m.sel rdUse a (loadWidth k) (loadWidth k)
    if acc.own then
      let s ← ownBanks s false acc.locs
      let (bs, p, s) := readHome s (isFw s.focus) acc.locs
      let s := if m.lu then killWords s acc.locs else s
      writeDst (poisIf s s.focus s.act p) d (loadVal k bs)
    else loadBeyond s d k m.sel m.na acc) := by
  rw [← ldInfo_fst]
  rfl

theorem exec_st (c : Com) (k : StKind) (d : Src) (m : MemOp) (s : State) : exec (.st c k d m) s = issueFall .any c s (fun s => do
    let (a, s) ← memAddr s m
    let (v, s) ← readSrc s d
    memReady s
    let (acc, s) ← access s m.sel wrUse a (storeWidth k) (storeWidth k)
    storeBytes s acc (bytesOfNat (storeWidth k) v.toNat)) := by
  rw [← stWidth_eq]
  rfl

/-- A hit in the reuse buffer (R201). -/
theorem loadBeyond_hit {s t : State} {d : Dst} {k : LdKind} {sel : Space} {na : Bool} {acc : Acc} {l : LrbLine}
    (hb : s.linesBusy s.focus s.act [firstLoc acc / 64] = false)
    (hm : (!na && !(acc.ms.contains (firstLoc acc / 64)) && reusable (firstLoc acc) && (sel == .glb || sel == .cls || sel == .twr)) = true)
    (hl : s.me.heldLine (firstLoc acc) = some l) (ht : writeDst (withPois (countPmc (s.modMe fun k => lrbTouch k (firstLoc acc)) s.focus (some s.act) 11 1)
      (l.poisAt (firstLoc acc))) d (loadVal k ((l.bytes.drop (firstLoc acc % 64)).take acc.locs.length)) = .ok t) :
    loadBeyond s d k sel na acc = .ok t := by
  unfold loadBeyond
  change (waitFor (!s.linesBusy s.focus s.act [firstLoc acc / 64]) >>= _) = _
  rw [hb, Bool.not_false, waitFor_true, exec_bind_ok]
  change (match (if (!na && !(acc.ms.contains (firstLoc acc / 64)) && reusable (firstLoc acc) && (sel == .glb || sel == .cls || sel == .twr)) = true
    then s.me.heldLine (firstLoc acc) else none) with | some l => _ | none => _) = _
  rw [if_pos hm, hl]
  exact ht

/-- A request for what the reuse buffer does not give (R201, R214, R327). -/
theorem loadBeyond_sent {s s3 : State} {d : Dst} {k : LdKind} {sel : Space} {na may : Bool} {acc : Acc} {dst : ReqDst}
    (hb : s.linesBusy s.focus s.act [firstLoc acc / 64] = false)
    (hm : may = (!na && !(acc.ms.contains (firstLoc acc / 64)) && reusable (firstLoc acc) && (sel == .glb || sel == .cls || sel == .twr)))
    (hl : may = true → s.me.heldLine (firstLoc acc) = none) (hr : reserveDst s d k s.nextId = .ok (dst, s3)) :
    loadBeyond s d k sel na acc = .ok (sendReq (if may then countPmc s3 s3.focus (some s3.act) 12 1 else s3)
      { mkReq (if may then countPmc s3 s3.focus (some s3.act) 12 1 else s3) (.load acc.locs) (firstLoc acc) none with
        dst, ms := acc.ms.contains (firstLoc acc / 64), alloc := may, glb := sel == .glb }) := by
  have miss : (if may = true then s.me.heldLine (firstLoc acc) else none) = none := by
    cases may
    · rfl
    · exact hl rfl
  unfold loadBeyond
  change (waitFor (!s.linesBusy s.focus s.act [firstLoc acc / 64]) >>= _) = _
  rw [hb, Bool.not_false, waitFor_true, exec_bind_ok]
  change (match (if (!na && !(acc.ms.contains (firstLoc acc / 64)) && reusable (firstLoc acc) && (sel == .glb || sel == .cls || sel == .twr)) = true
    then s.me.heldLine (firstLoc acc) else none) with | some l => _ | none => _) = _
  rw [← hm, miss]
  dsimp only
  rw [hr, exec_bind_ok]
  subst hm
  rfl

/-- Settles O9: the operands' steps are those of the hypotheses, and what remains is the own access, the hit, the request or the posted write. -/
theorem loadAndStoreResults : Obligations.LoadAndStoreResults := by
  refine ⟨⟨fun s s1 s2 s3 t c k d m x acc hi hs h1 h2 h3 h4 h5 => ?_, fun s s1 s2 c k d m x acc hi h1 h2 h3 ho hb may hm => ⟨fun l t hy hl ht => ?_,
      fun dst s3 s4 hl hr h4 => ?_⟩⟩,
    fun s s1 s2 s3 c k d m x v acc hi h1 h2 h3 h4 => ⟨fun s4 ho hk => ?_, fun ho hr => ?_⟩⟩
  case refine_1 =>
    obtain ⟨hres, -⟩ := access_ok h3
    obtain ⟨hlen, hown, hplace⟩ := resolve_ok hres
    have own : acc.own = true := by rw [hown]; rcases hs with h | h <;> rw [h] <;> rfl
    have unlocked : ∀ l ∈ acc.locs, s3.lockedLoc l = false := fun l hl => lockedLoc_of_not_dram s3 (not_dram_of_own hs (hplace own) l hl)
    rw [← loadVal_eq k (by rw [List.length_map, hlen, length_addrRange])] at h5
    rw [exec_ld]
    refine issueFall_completes hi ?_
    simp only [memAddr_ok h1, exec_bind_ok, h2, h3, own, if_true, h4, readHome_unlocked unlocked, poisIf_eq_withPois, h5]
  case refine_2 =>
    obtain ⟨hres, -⟩ := access_ok h3
    obtain ⟨hlen, -, -⟩ := resolve_ok hres
    rw [exec_ld]
    refine issueFall_completes hi ?_
    rw [← loadVal_eq k (by rw [List.length_take, hlen, length_addrRange]; exact Nat.min_le_left ..)] at ht
    simp only [memAddr_ok h1, exec_bind_ok, h2, h3, ho, Bool.false_eq_true, if_false]
    exact loadBeyond_hit hb (hm ▸ hy) hl ht
  case refine_3 =>
    rw [exec_ld]
    refine issueFall_completes hi ?_
    simp only [memAddr_ok h1, exec_bind_ok, h2, h3, ho, Bool.false_eq_true, if_false]
    rw [loadBeyond_sent hb hm hl hr, h4]
    rfl
  case refine_4 =>
    rw [exec_st]
    refine issueFall_completes hi ?_
    simp only [memAddr_ok h1, exec_bind_ok, h2, h3, h4, storeBytes, ho, if_true, hk]
    rfl
  case refine_5 =>
    rw [exec_st]
    refine issueFall_completes hi ?_
    simp only [memAddr_ok h1, exec_bind_ok, h2, h3, h4, storeBytes, ho, Bool.false_eq_true, if_false, hr]
    rfl

end Sys2Proof.Laws
end

section
/-! PROOFS. Frames: what an instruction may change, as a relation that its steps keep (R94, R159, R203, R208). -/

namespace Sys2Proof.Laws

open Sys2Proof Sys2Proof.Machine

/-! ### What an instruction may change -/

/-- What an instruction may change beside its own core's queues, counters and buffers: bytes of memory, poison and live words, marks, tags, the alarm,
the queues of other cores, registers of its context, POIS in its `STATUS`, and the waits of monitored contexts. -/
structure Limits where
  mem : Nat → Prop
  writes : Prop
  live : Prop
  marks : Prop
  full : Prop
  alarm : Prop
  queues : Prop
  regs : Fin 48 → Prop
  pois : Prop
  notes : Prop

/-- A status word with POIS perhaps set (R94). -/
def PoisUp (a b : Word) : Prop := b = a ∨ b = a ||| 0x4000

theorem PoisUp.refl (a : Word) : PoisUp a a := .inl rfl

theorem PoisUp.trans {a b c : Word} (h : PoisUp a b) (k : PoisUp b c) : PoisUp a c := by
  rcases h with rfl | rfl <;> rcases k with rfl | rfl
  · exact .inl rfl
  · exact .inr rfl
  · exact .inr rfl
  · exact .inr (by rw [BitVec.or_assoc, BitVec.or_self])

/-- Only bit 14 may change, and no bit is cleared. -/
theorem PoisUp.bits {a b : Word} (h : PoisUp a b) : b &&& ~~~0x4000 = a &&& ~~~0x4000 ∧ a &&& ~~~b = 0 := by
  rcases h with rfl | rfl
  · exact ⟨rfl, BitVec.and_not_self ..⟩
  · constructor <;>
    · ext i
      simp only [BitVec.getElem_and, BitVec.getElem_or, BitVec.getElem_not]
      cases a[i] <;> simp

/-- How the wait and the status of a context may change: POIS may be set; a wait that a monitor notifies receives words (R343). -/
def Flagged (pois notes : Prop) (c d : Ctx) : Prop :=
  PoisUp c.status d.status ∧ ((d.wait = c.wait ∧ (¬pois → d.status = c.status))
    ∨ (notes ∧ ∃ l o g r ns x, x ≠ [] ∧ c.wait = .waitw l o g r ns ∧ d.wait = .waitw l o g r (ns ++ x)))

theorem Flagged.of_same {pois notes : Prop} {c d : Ctx} (hw : d.wait = c.wait) (hs : d.status = c.status) : Flagged pois notes c d :=
  ⟨.inl hs, .inl ⟨hw, fun _ => hs⟩⟩

theorem Flagged.trans {pois notes : Prop} {c d e : Ctx} (h : Flagged pois notes c d) (k : Flagged pois notes d e) : Flagged pois notes c e := by
  obtain ⟨hs, h⟩ := h
  obtain ⟨ks, k⟩ := k
  refine ⟨hs.trans ks, ?_⟩
  rcases h with ⟨hw, he⟩ | ⟨hn, l, o, g, r, ns, x, hx, hc, hd⟩
  · rcases k with ⟨kw, ke⟩ | ⟨kn, l, o, g, r, ns, x, hx, hc, hd⟩
    · exact .inl ⟨kw.trans hw, fun hp => (ke hp).trans (he hp)⟩
    · exact .inr ⟨kn, l, o, g, r, ns, x, hx, hw ▸ hc, hd⟩
  · rcases k with ⟨kw, -⟩ | ⟨-, l', o', g', r', ns', y, hy, hc', hd'⟩
    · exact .inr ⟨hn, l, o, g, r, ns, x, hx, hc, kw.trans hd⟩
    · obtain ⟨rfl, rfl, rfl, rfl, rfl⟩ := PWait.waitw.inj (hd.symm.trans hc')
      exact .inr ⟨hn, _, _, _, _, ns, x ++ y, by simp [hx], hc, by rw [hd', List.append_assoc]⟩

/-- A context that the instruction does not run in: its wait and its status alone (R343). -/
def Bystander (A : Limits) (c d : Ctx) : Prop := d = { c with wait := d.wait, status := d.status } ∧ Flagged False A.notes c d

theorem Bystander.refl (A : Limits) (c : Ctx) : Bystander A c c := ⟨rfl, .of_same rfl rfl⟩

theorem Bystander.trans {A : Limits} {c d e : Ctx} (h : Bystander A c d) (k : Bystander A d e) : Bystander A c e :=
  ⟨k.1.trans (by rw [h.1]), h.2.trans k.2⟩

/-- The context that the instruction runs in: what its issue, its queue operands, its wait and its fault change, its posted counts, the registers and
the status within the limits. -/
structure Runner (A : Limits) (c d : Ctx) : Prop where
  same : d = { c with
    pc := d.pc, loop := d.loop, loopStart := d.loopStart, loopLast := d.loopLast, q4 := d.q4, q5 := d.q5, q7 := d.q7, inbox := d.inbox
    inboxRead := d.inboxRead, st := d.st, fcode := d.fcode, packet := d.packet, blocked := d.blocked, feArr := d.feArr, parked := d.parked
    g := d.g, status := d.status, wait := d.wait, clu := d.clu, mod := d.mod, sys := d.sys }
  regs : ∀ r, ¬A.regs r → d.g.get r = c.g.get r
  flagged : Flagged A.pois A.notes c d

theorem Runner.refl (A : Limits) (c : Ctx) : Runner A c c := ⟨rfl, fun _ _ => rfl, .of_same rfl rfl⟩

theorem Runner.trans {A : Limits} {c d e : Ctx} (h : Runner A c d) (k : Runner A d e) : Runner A c e :=
  ⟨k.same.trans (by rw [h.same]), fun r hr => (k.regs r hr).trans (h.regs r hr), h.flagged.trans k.flagged⟩

/-- A context that stands by changes no more than the running one may. -/
theorem Bystander.runner {A : Limits} {c d : Ctx} (h : Bystander A c d) : Runner A c d := by
  obtain ⟨hd, hs, hf⟩ := h
  refine ⟨by rw [hd], fun r _ => by rw [hd], hs, ?_⟩
  exact hf.imp (fun ⟨hw, he⟩ => ⟨hw, fun _ => he not_false⟩) id

/-- One core; mine: the instruction runs in its context act. -/
structure CoreWithin (A : Limits) (mine : Prop) (act : Bool) (c d : Core) : Prop where
  active : d.active = c.active
  rdesc : d.rdesc = c.rdesc
  away : ¬mine → d = { c with c0 := d.c0, c1 := d.c1, q := d.q } ∧ (¬A.queues → d.q = c.q)
  other : ∀ b, ¬(mine ∧ b = act) → Bystander A (c.ctx b) (d.ctx b)
  cur : mine → Runner A (c.ctx act) (d.ctx act)

theorem CoreWithin.refl (A : Limits) (mine : Prop) (act : Bool) (c : Core) : CoreWithin A mine act c c :=
  ⟨rfl, rfl, fun _ => ⟨rfl, fun _ => rfl⟩, fun _ _ => .refl .., fun _ => .refl ..⟩

theorem CoreWithin.trans {A : Limits} {mine : Prop} {act : Bool} {c d e : Core} (h : CoreWithin A mine act c d) (k : CoreWithin A mine act d e) :
    CoreWithin A mine act c e where
  active := k.active.trans h.active
  rdesc := k.rdesc.trans h.rdesc
  away hm := ⟨(k.away hm).1.trans (by rw [(h.away hm).1]), fun hq => ((k.away hm).2 hq).trans ((h.away hm).2 hq)⟩
  other b hb := (h.other b hb).trans (k.other b hb)
  cur hm := (h.cur hm).trans (k.cur hm)

/-- A core whose contexts stay. -/
theorem CoreWithin.of_contexts {A : Limits} {mine : Prop} {act : Bool} {c d : Core} (h0 : d.c0 = c.c0) (h1 : d.c1 = c.c1) (ha : d.active = c.active)
    (hr : d.rdesc = c.rdesc) (haway : ¬mine → d = { c with q := d.q } ∧ (¬A.queues → d.q = c.q)) : CoreWithin A mine act c d := by
  have same (b : Bool) : d.ctx b = c.ctx b := by cases b <;> simp [Core.ctx, h0, h1]
  refine ⟨ha, hr, fun hm => ⟨(haway hm).1.trans (by rw [h0, h1]), (haway hm).2⟩, fun b _ => ?_, fun _ => ?_⟩
  · rw [same]; exact .refl ..
  · rw [same]; exact .refl ..

/-- A core of which one context changes. -/
theorem CoreWithin.setCtx {A : Limits} {mine : Prop} {act : Bool} (c : Core) {n : Bool} {x : Ctx} (hc : mine → n = act → Runner A (c.ctx n) x)
    (ho : ¬(mine ∧ n = act) → Bystander A (c.ctx n) x) : CoreWithin A mine act c (c.setCtx n x) := by
  have ctx (b : Bool) : (c.setCtx n x).ctx b = if b = n then x else c.ctx b := by cases b <;> cases n <;> rfl
  refine ⟨by cases n <;> rfl, by cases n <;> rfl, fun _ => ⟨by cases n <;> rfl, fun _ => by cases n <;> rfl⟩, fun b hb => ?_, fun hm => ?_⟩
  · rw [ctx]
    split_ifs with h
    · subst h; exact ho hb
    · exact .refl ..
  · rw [ctx]
    split_ifs with h
    · exact h ▸ hc hm h.symm
    · exact .refl ..

/-- The state within an instruction's limits. -/
structure Within (A : Limits) (s t : State) : Prop where
  same : t = { s with
    alarm := t.alarm, msix := t.msix, keysErased := t.keysErased, s1 := t.s1, s2 := t.s2, halted := t.halted, mem := t.mem, poison := t.poison
    spmLive := t.spmLive, marks := t.marks, full := t.full, cores := t.cores, clusters := t.clusters, fabric := t.fabric, nextId := t.nextId }
  tlb : ∀ k, t.cluster k = { s.cluster k with tlb := (t.cluster k).tlb }
  alarm : ¬A.alarm → keepAlarm s t = t
  mem : ∀ p, ¬A.mem p → t.mem.get p = s.mem.get p
  still : ¬A.writes → t.mem = s.mem
  live : ¬A.live → t.poison = s.poison ∧ t.spmLive = s.spmLive
  marks : ¬A.marks → t.marks = s.marks
  full : ¬A.full → t.full = s.full
  core : ∀ key, CoreWithin A (key = s.focus) s.act (s.core key) (t.core key)

theorem Within.refl (A : Limits) (s : State) : Within A s s :=
  ⟨rfl, fun _ => rfl, fun _ => rfl, fun _ _ => rfl, fun _ => rfl, fun _ => ⟨rfl, rfl⟩, fun _ => rfl, fun _ => rfl, fun _ => .refl ..⟩

theorem Within.focus {A : Limits} {s t : State} (h : Within A s t) : t.focus = s.focus := by rw [h.same]

theorem Within.act {A : Limits} {s t : State} (h : Within A s t) : t.act = s.act := by
  rw [State.act, State.me, h.focus, (h.core s.focus).active]; rfl

/-- Logical locations stay where they are: descriptors do not change (R200). -/
theorem Within.phys {A : Limits} {s t : State} (h : Within A s t) (l : Nat) : t.phys l = s.phys l := by
  simp only [State.phys, skewOf, spmDesc, (h.core _).rdesc]

theorem Within.trans {A : Limits} {s t u : State} (h : Within A s t) (k : Within A t u) : Within A s u where
  same := k.same.trans (by rw [h.same])
  tlb i := (k.tlb i).trans (by rw [h.tlb i])
  alarm ha := by
    have ht := h.alarm ha
    have hu := k.alarm ha
    rw [← hu, ← ht]
    rfl
  mem p hp := (k.mem p hp).trans (h.mem p hp)
  still hw := (k.still hw).trans (h.still hw)
  live hl := ⟨(k.live hl).1.trans (h.live hl).1, (k.live hl).2.trans (h.live hl).2⟩
  marks hm := (k.marks hm).trans (h.marks hm)
  full hf := (k.full hf).trans (h.full hf)
  core key := by
    have step := k.core key
    rw [h.focus, h.act] at step
    exact (h.core key).trans step

end Sys2Proof.Laws
end

section
/-! PROOFS. The steps of which loads and stores are made, each within its limits: operands, banks, translation, replies, issue and faults. -/

namespace Sys2Proof.Laws

open Sys2Proof Sys2Proof.Machine

variable {A : Limits} {s t : State}

/-! ### Cores -/

theorem within_setCore {key : Nat} {d : Core} (h : CoreWithin A (key = s.focus) s.act (s.core key) d) : Within A s (s.setCore key d) where
  same := rfl
  tlb _ := rfl
  alarm _ := rfl
  mem _ _ := rfl
  still _ := rfl
  live _ := ⟨rfl, rfl⟩
  marks _ := rfl
  full _ := rfl
  core k := by
    by_cases hk : k = key
    · subst hk; rwa [State.core_setCore_same]
    · rw [State.core_setCore_other _ _ hk]; exact .refl ..

/-- The executing core, but for its contexts, its descriptors and which context is active. -/
theorem within_modMe {k : Nat} {f : Core → Core} (hk : k = s.focus) (h0 : ∀ c, (f c).c0 = c.c0) (h1 : ∀ c, (f c).c1 = c.c1)
    (ha : ∀ c, (f c).active = c.active) (hr : ∀ c, (f c).rdesc = c.rdesc) : Within A s (s.modCore k f) :=
  within_setCore (.of_contexts (h0 _) (h1 _) (ha _) (hr _) fun hm => absurd hk hm)

theorem within_modCur {f : Ctx → Ctx} (h : ∀ c, Runner A c (f c)) : Within A s (s.modCur f) :=
  within_setCore (.setCtx _ (fun _ _ => h _) fun hn => absurd ⟨rfl, rfl⟩ hn)

theorem countPmc_eq (s : State) (k : Nat) (o : Option Bool) (ev n : Nat) :
    ∃ v w, countPmc s k o ev n = s.setCore k { s.core k with pmc := v, pmcsel := w } := by
  obtain ⟨v, w, h⟩ := countPmc_core s k o ev n
  refine ⟨v, w, ?_⟩
  rw [← h, countPmc, State.core_modCore_same]
  rfl

theorem within_countPmc {k : Nat} (hk : k = s.focus) (o : Option Bool) (ev n : Nat) : Within A s (countPmc s k o ev n) := by
  obtain ⟨v, w, h⟩ := countPmc_eq s k o ev n
  rw [h]
  exact within_setCore (.of_contexts rfl rfl rfl rfl fun hm => absurd hk hm)

/-- A bank that is touched (R188). -/
theorem touchBank_eq (c : Core) (b : BankOf) (k : Nat) : ∃ banks, touchBank c b k = { c with banks } := by
  unfold touchBank
  dsimp only
  split
  · exact ⟨_, rfl⟩
  · exact ⟨c.banks, rfl⟩
  · exact ⟨_, rfl⟩
  · exact ⟨_, rfl⟩

theorem within_touchBanks (b : BankOf) (ks : List Nat) : Within A s (touchBanks s s.focus b ks) := by
  have one (u : State) (k : Nat) : Within A u (if wakes (u.core u.focus) b k = true then
      countPmc (u.modCore u.focus fun c => touchBank c b k) u.focus none (if b == .spm then 7 else 6) 1 else u.modCore u.focus fun c => touchBank c b k) := by
    have touched : Within A u (u.modCore u.focus fun c => touchBank c b k) := by
      refine within_modMe rfl ?_ ?_ ?_ ?_ <;> intro c <;> obtain ⟨banks, h⟩ := touchBank_eq c b k <;> rw [h]
    split
    · exact touched.trans (within_countPmc rfl ..)
    · exact touched
  have all (u : State) (hu : u.focus = s.focus) : Within A u (touchBanks u s.focus b ks) := by
    induction ks generalizing u with
    | nil => exact .refl ..
    | cons k ks ih =>
      have step := one u k
      rw [hu] at step
      exact step.trans (ih _ (step.focus.trans hu))
  exact all s rfl

/-! ### The executing context -/

theorem within_modCtx {k : Nat} {n : Bool} {f : Ctx → Ctx} (hk : k = s.focus) (hn : n = s.act) (h : ∀ c, Runner A c (f c)) :
    Within A s (s.modCtx k n f) := by
  subst hk hn
  exact within_modCur h

/-- A notified context, whichever it is (R343). -/
theorem within_note (hA : A.notes) (k : Nat) (n : Bool) (v : Word) (p : Bool) : Within A s (s.modCtx k n fun c => c.note v p) := by
  have noted (c : Ctx) : Bystander A c (c.note v p) := by
    unfold Ctx.note
    split
    next l o g r ns hw =>
      refine ⟨rfl, ?_, .inr ⟨hA, l, o, g, r, ns, [v], by simp, hw, rfl⟩⟩
      dsimp only
      split_ifs
      · exact .inr rfl
      · exact .inl rfl
    · exact .refl ..
  exact within_setCore (.setCtx _ (fun _ _ => (noted _).runner) fun _ => noted _)

theorem within_poisIf {b : Bool} (h : b = true → A.pois) : Within A s (poisIf s s.focus s.act b) := by
  unfold poisIf
  split_ifs with hb
  · exact within_modCur fun c => ⟨rfl, fun _ _ => rfl, .inr rfl, .inl ⟨rfl, fun hp => absurd (h hb) hp⟩⟩
  · exact .refl ..

theorem within_writeG {n : Fin 48} (v : Word) (h : n ≠ 0 → A.regs n) : Within A s (s.modCur fun c => c.writeG n v) := by
  refine within_modCur fun c => ?_
  unfold Ctx.writeG
  split_ifs with hn
  · exact .refl ..
  · refine ⟨rfl, fun r hr => ?_, .of_same rfl rfl⟩
    have other : n.val ≠ r.val := fun he => hr (Fin.ext he ▸ h hn)
    simp [Vector.get_eq_getElem, other]

/-- The step to the successor, or to a loop's start (R268, R308). -/
theorem runner_retireAt (key : Nat) (c : Ctx) : Runner A c (retireAt s key c) := by
  unfold retireAt
  dsimp only
  split
  · split_ifs <;> exact ⟨rfl, fun _ _ => rfl, .of_same rfl rfl⟩
  · exact ⟨rfl, fun _ _ => rfl, .of_same rfl rfl⟩

theorem within_retire : Within A s (retire s) := within_modCur (runner_retireAt _)

theorem within_jumpTo (pc : BitVec 15) : Within A s (jumpTo s pc) := within_modCur fun _ => ⟨rfl, fun _ _ => rfl, .of_same rfl rfl⟩

theorem within_stay : Within A s (stay s) := within_modCur fun _ => ⟨rfl, fun _ _ => rfl, .of_same rfl rfl⟩

theorem within_stayBlocked : Within A s (stayBlocked s) := within_modCur fun _ => ⟨rfl, fun _ _ => rfl, .of_same rfl rfl⟩

/-- A context that freezes at its instruction (R232). -/
theorem within_freezeWith {k : Nat} {n : Bool} (hk : k = s.focus) (hn : n = s.act) (code : Nat) (pkt : Packet) :
    Within A s (freezeWith s k n code pkt) := by
  have frozen : Within A s (s.modCtx k n fun c =>
      { c with st := .frozen, fcode := BitVec.ofNat 8 code, packet := pkt, blocked := max 1 c.blocked, feArr := none, parked := none }) :=
    within_modCtx hk hn fun _ => ⟨rfl, fun _ _ => rfl, .of_same rfl rfl⟩
  have counted := frozen.trans (within_countPmc (hk.trans frozen.focus.symm) (some n) 8 1)
  simp only [freezeWith]
  split
  · exact counted.trans (within_modMe (hk.trans counted.focus.symm) (fun _ => rfl) (fun _ => rfl) (fun _ => rfl) fun _ => rfl)
  · exact counted

theorem within_takeFault {k : Nat} {n : Bool} (hk : k = s.focus) (hn : n = s.act) (f : FaultInfo) : Within A s (takeFault s k n f) := by
  have moved (pc : BitVec 15) : Within A s (s.modCtx k n fun c => { c with pc }) :=
    within_modCtx hk hn fun _ => ⟨rfl, fun _ _ => rfl, .of_same rfl rfl⟩
  exact (moved _).trans (within_freezeWith (hk.trans (moved _).focus.symm) (hn.trans (moved _).act.symm) ..)

/-! ### Operands (R165, R275, R327) -/

theorem within_readSrc {x : Src} {v : Word} (h : readSrc s x = .ok (v, t)) : Within A s t := by
  cases x with
  | g n =>
    simp only [readSrc] at h
    cases hb : s.regBusy n with
    | true => rw [hb] at h; exact nomatch h
    | false => rw [hb] at h; cases h; exact .refl ..
  | t n => cases h; exact .refl ..
  | q i =>
    simp only [readSrc] at h
    split at h
    · cases h; exact within_modMe rfl (fun _ => rfl) (fun _ => rfl) (fun _ => rfl) fun _ => rfl
    · exact nomatch h
  | q4 | q5 | q7 =>
    simp only [readSrc] at h
    split at h
    · cases h; exact within_modCur fun _ => ⟨rfl, fun _ _ => rfl, .of_same rfl rfl⟩
    · exact nomatch h
  | q6 =>
    simp only [readSrc] at h
    split at h
    · cases h
      refine within_modCur fun c => ?_
      split_ifs <;> exact ⟨rfl, fun _ _ => rfl, .of_same rfl rfl⟩
    · exact nomatch h

theorem within_pushQueue {k : Fin 4} {w : QWord} (hA : A.queues) (h : pushQueue s k w = .ok t) : Within A s t := by
  simp only [pushQueue] at h
  split at h
  · cases h
    exact within_setCore (.of_contexts rfl rfl rfl rfl fun _ => ⟨rfl, fun hq => absurd hA hq⟩)
  · exact nomatch h

theorem within_writeDst {d : Dst} {v : Word} (hq : A.queues) (hr : ∀ n, d = .g n → n ≠ 0 → A.regs n) (h : writeDst s d v = .ok t) : Within A s t := by
  cases d with
  | g n =>
    simp only [writeDst] at h
    cases hb : s.regBusy n with
    | true => rw [hb] at h; exact nomatch h
    | false => rw [hb] at h; cases h; exact within_writeG v (hr n rfl)
  | q k => exact within_pushQueue hq h

theorem within_reserveDst {d : Dst} {k : LdKind} {id : Nat} {r : ReqDst} (hq : A.queues) (h : reserveDst s d k id = .ok (r, t)) : Within A s t := by
  cases d with
  | g n =>
    simp only [reserveDst] at h
    cases hb : s.regBusy n with
    | true => rw [hb] at h; exact nomatch h
    | false => rw [hb] at h; cases h; exact .refl ..
  | q i =>
    simp only [reserveDst] at h
    cases hp : pushQueue s i (.due id) with
    | error e => rw [hp] at h; exact nomatch h
    | ok u => rw [hp] at h; cases h; exact within_pushQueue hq hp

/-! ### Requests (R214) -/

theorem within_fabric (f : List Req) (n : Nat) : Within A s { s with fabric := f, nextId := n } :=
  ⟨rfl, fun _ => rfl, fun _ => rfl, fun _ _ => rfl, fun _ => rfl, fun _ => ⟨rfl, rfl⟩, fun _ => rfl, fun _ => rfl, fun _ => .refl ..⟩

theorem runner_addCount (c : Ctx) (k : Cls) (n : Nat) : Runner A c (c.addCount k n) := by
  cases k <;> exact ⟨rfl, fun _ _ => rfl, .of_same rfl rfl⟩

theorem within_sendReq {r : Req} (hk : r.key = s.focus) (hn : r.ctx = s.act) : Within A s (sendReq s r) := by
  cases hc : r.cls with
  | none => rw [sendReq_uncounted s hc]; exact within_fabric ..
  | some k =>
    simp only [sendReq, hc]
    exact Within.trans (t := { s with fabric := _, nextId := _ }) (within_fabric ..) (within_modCtx hk hn fun c => runner_addCount c k 1)

theorem within_postWrites (ms : List Nat) (ps : List (Nat × Byte)) : Within A s (postWrites s ms ps).2 := by
  unfold postWrites postFor
  refine List.foldlRecOn (motive := fun (a : List Nat × State) => Within A s a.2) _ _ (.refl ..) fun a ha ln _ => ?_
  dsimp only
  exact ha.trans (within_sendReq ha.focus.symm ha.act.symm)

end Sys2Proof.Laws
end

section
/-! PROOFS. Translation and the changes of memory that loads and stores make, each within its limits (R88, R94, R182, R190, R203, R208). -/

namespace Sys2Proof.Laws

open Sys2Proof Sys2Proof.Machine

variable {A : Limits} {s t : State}

/-! ### Translation (R204) -/

theorem within_raiseAlarm (hA : A.alarm) (c : Nat) (must : Bool) : Within A s (raiseAlarm s c must) := by
  rw [raiseAlarm_eq s c must _ rfl]
  exact ⟨rfl, fun _ => rfl, fun h => absurd hA h, fun _ _ => rfl, fun _ => rfl, fun _ => ⟨rfl, rfl⟩, fun _ => rfl, fun _ => rfl, fun _ => .refl ..⟩

theorem within_lockAlarm {fw : Bool} {cl : Nat} {asid : BitVec 16} {vas : List Nat} (h : ∀ va, fw = false → walkLocked s asid va = true → A.alarm) :
    Within A s (lockAlarm s fw cl asid vas) := by
  unfold lockAlarm
  split
  next hl =>
    simp only [Bool.and_eq_true, Bool.not_eq_true', List.any_eq_true] at hl
    obtain ⟨hfw, va, -, -, hw⟩ := hl
    exact within_raiseAlarm (h va hfw hw) ..
  · exact .refl ..

theorem within_tlbFill (cl : Nat) (e : TlbEnt) : Within A s (tlbFill s cl e) where
  same := rfl
  tlb k := by
    unfold tlbFill
    by_cases hk : k = cl
    · subst hk
      rw [cluster_modCluster_same]
      split_ifs <;> rfl
    · rw [cluster_modCluster_other _ _ hk]
  alarm _ := rfl
  mem _ _ := rfl
  still _ := rfl
  live _ := ⟨rfl, rfl⟩
  marks _ := rfl
  full _ := rfl
  core _ := .refl ..

/-- What the translation of an access leaves behind (R88, R204). -/
theorem within_translated {sp : Space} {vas : List Nat} (h : ∀ asid va, isFw s.focus = false → walkLocked s asid va = true → A.alarm) :
    Within A s (translated s sp vas) := by
  unfold translated
  split
  · refine List.foldlRecOn (motive := Within A s) _ _ (within_lockAlarm (h _)) fun u hu va _ => ?_
    split
    · exact hu.trans (within_tlbFill ..)
    · exact hu
  · exact .refl ..

/-! ### Walks read what they read (R88, R205) -/

theorem byteAt_congr (hs : t = { s with cores := t.cores }) (hp : ∀ l, t.phys l = s.phys l) (l : Nat) : t.byteAt l = s.byteAt l := by
  simp only [State.byteAt, hp]
  rw [hs]

theorem readLE_congr (hs : t = { s with cores := t.cores }) (hp : ∀ l, t.phys l = s.phys l) (l n : Nat) : t.readLE l n = s.readLE l n := by
  simp only [State.readLE, byteAt_congr hs hp]

theorem walkLockedFrom_congr (hs : t = { s with cores := t.cores }) (hp : ∀ l, t.phys l = s.phys l) (va table : Nat)
    (ls : List (Nat × Nat × Option Nat × Nat)) : walkLockedFrom t va table ls = walkLockedFrom s va table ls := by
  have locked (l : Nat) : t.lockedLoc l = s.lockedLoc l := by rw [hs]; rfl
  induction ls generalizing table with
  | nil => rfl
  | cons x ls ih => simp only [walkLockedFrom, readLE_congr hs hp, locked, ih]

/-- A change of cores that moves no location changes no walk. -/
theorem walkLocked_congr (hs : t = { s with cores := t.cores }) (hp : ∀ l, t.phys l = s.phys l) (asid : BitVec 16) (va : Nat) :
    walkLocked t asid va = walkLocked s asid va := by
  have locked (l : Nat) : t.lockedLoc l = s.lockedLoc l := by rw [hs]; rfl
  have base : t.xlbase = s.xlbase := by rw [hs]
  simp only [walkLocked, readLE_congr hs hp, locked, base, walkLockedFrom_congr hs hp]

/-! ### Memory -/

/-- A write of memory, poison, live words and tags, within the bytes that may change. -/
theorem within_write {mem : Mem} {poison spmLive : List Nat} (hw : A.writes) (hl : A.live) (hm : ∀ p, ¬A.mem p → mem.get p = s.mem.get p) :
    Within A s { s with mem, poison, spmLive } :=
  ⟨rfl, fun _ => rfl, fun _ => rfl, hm, fun h => absurd hw h, fun h => absurd hl h, fun _ => rfl, fun _ => rfl, fun _ => .refl ..⟩

theorem within_full (hf : A.full) (full : List Nat) : Within A s { s with full } :=
  ⟨rfl, fun _ => rfl, fun _ => rfl, fun _ _ => rfl, fun _ => rfl, fun _ => ⟨rfl, rfl⟩, fun _ => rfl, fun h => absurd hf h, fun _ => .refl ..⟩

theorem within_put {a : Nat} (hw : A.writes) (ha : A.mem a) (b : Byte) : Within A s { s with mem := s.mem.put a b } :=
  ⟨rfl, fun _ => rfl, fun _ => rfl, fun _ hp => Mem.get_put_other _ _ fun he => hp (he ▸ ha), fun h => absurd hw h, fun _ => ⟨rfl, rfl⟩, fun _ => rfl,
    fun _ => rfl, fun _ => .refl ..⟩

/-- A killed word is one aligned word of 8 bytes (R190). -/
theorem within_killSpmWord {loc : Nat} (hw : A.writes) (hl : A.live) (hk : A.marks) (hf : A.full) (hm : ∀ p, s.phys loc / 8 = p / 8 → A.mem p) :
    Within A s (killSpmWord s loc) :=
  ⟨rfl, fun _ => rfl, fun _ => rfl, fun p hp => Mem.get_putN_other _ _ _ _ (by
      have other : s.phys loc / 8 ≠ p / 8 := fun he => hp (hm p he)
      simp only [List.length_replicate]
      omega), fun h => absurd hw h, fun h => absurd hl h, fun h => absurd hk h, fun h => absurd hf h, fun _ => .refl ..⟩

theorem within_killWords {ls : List Nat} (hw : A.writes) (hl : A.live) (hk : A.marks) (hf : A.full)
    (hm : ∀ l ∈ ls, ∀ p, s.phys l / 8 = p / 8 → A.mem p) : Within A s (killWords s ls) := by
  refine List.foldlRecOn (motive := Within A s) _ _ (.refl ..) fun u hu l hl' => ?_
  exact hu.trans (within_killSpmWord hw hl hk hf fun p hp => hm l hl' p (by rw [← hu.phys]; exact hp))

theorem within_putPhys {loc : Nat} {bs : List Byte} (hw : A.writes) (hm : ∀ i < bs.length, A.mem (s.phys (loc + i))) :
    Within A s (s.putPhys loc bs) := by
  induction bs generalizing s loc with
  | nil => exact .refl ..
  | cons b bs ih =>
    have first : Within A s { s with mem := s.mem.put (s.phys loc) b } := within_put hw (hm 0 (by simp)) b
    refine first.trans (ih fun i hi => ?_)
    rw [first.phys, Nat.add_assoc, Nat.add_comm 1]
    exact hm (i + 1) (by simpa using hi)

/-- The step of a sync word writes COUNT and GEN of a marked one (R203). -/
theorem within_syncStep {w : Nat} (hw : A.writes) (hm : w ∈ s.marks → ∀ i < 8, A.mem (s.phys (w * 16 + i))) : Within A s (syncStep s w) := by
  unfold syncStep
  dsimp only
  split
  next h =>
    simp only [Bool.and_eq_true, List.contains_iff_mem] at h
    refine within_putPhys hw fun i hi => hm h.1.1 i ?_
    simpa using hi
  · exact .refl ..

theorem within_notifyMonitors (hn : A.notes) (w : Nat) : Within A s (notifyMonitors s w) :=
  List.foldlRecOn (motive := Within A s) _ _ (.refl ..) fun _ hu _ _ => hu.trans (within_note hn ..)

theorem mem_foldl_nsAdd {α : Type} {f : α → Nat} {w : Nat} (l : List α) (acc : List Nat) (h : w ∈ l.foldl (fun l p => nsAdd l (f p)) acc) :
    w ∈ acc ∨ ∃ p ∈ l, w = f p := by
  induction l generalizing acc with
  | nil => exact .inl h
  | cons p l ih =>
    rcases ih _ h with h | ⟨q, hq, he⟩
    · rcases (mem_nsAdd ..).mp h with rfl | h
      · exact .inr ⟨p, List.mem_cons_self .., rfl⟩
      · exact .inl h
    · exact .inr ⟨q, List.mem_cons_of_mem _ hq, he⟩

/-- A write at its home changes the bytes that it names, and COUNT and GEN of the marked sync words they lie in (R203, R208). -/
theorem within_performWrite {fw : Bool} {ps : List (Nat × Byte)} (hl : ∀ p ∈ ps, s.lockedLoc p.1 = false) (hw : A.writes) (hv : A.live) (hn : A.notes)
    (hk : ¬A.marks) (hm : ∀ p, mayChange s (ps.map (·.1)) p → A.mem p) : Within A s (performWrite s fw ps) := by
  have none_locked : (ps.any fun p => s.lockedLoc p.1 && !fw) = false := List.any_eq_false.mpr fun p hp => by simp [hl p hp]
  unfold performWrite
  simp only [none_locked, Bool.false_eq_true, if_false]
  generalize hps : (ps.filter fun p => decide (p.1 < foreignBase) && !(s.lockedLoc p.1 && !fw)) = qs
  have sub : ∀ p ∈ qs, p ∈ ps := fun p hp => (List.mem_filter.mp (hps ▸ hp)).1
  have bytes : Within A s (qs.foldl (fun s p => { s with mem := s.mem.put (s.phys p.1) p.2 }) s) :=
    List.foldlRecOn (motive := Within A s) _ _ (.refl ..) fun u hu p hp =>
      hu.trans (within_put hw (hm _ (.inl ⟨p.1, List.mem_map_of_mem (sub p hp), hu.phys p.1⟩)) p.2)
  refine List.foldlRecOn (motive := Within A s) _ _ (bytes.trans (within_write hw hv fun _ _ => rfl)) fun u hu w hw' => ?_
  obtain hnil | ⟨p, hp, rfl⟩ := mem_foldl_nsAdd _ _ hw'
  · exact nomatch hnil
  have stepped : Within A u (syncStep u (markIx p.1)) := within_syncStep hw fun hmark i hi => by
    rw [hu.marks hk] at hmark
    exact hm _ (.inr ⟨p.1, List.mem_map_of_mem (sub p hp), i, hi, hmark, hu.phys _⟩)
  exact hu.trans (stepped.trans (within_notifyMonitors hn _))

/-! ### Attempts -/

/-- What an attempt that stops leaves behind is within the limits. -/
def StopWithin (A : Limits) (s : State) : Stop → Prop
  | .wait keep | .block keep | .raise _ keep => Within A s (keep s)

/-- An attempt that stops, stops within the limits. -/
def Halts {α : Type} (A : Limits) (s : State) (r : Exec α) : Prop := ∀ e, r = .error e → StopWithin A s e

/-- An attempt stops within the limits or ends within them. -/
def Attempt (A : Limits) (s : State) (r : Exec State) : Prop := Halts A s r ∧ ∀ t, r = .ok t → Within A s t

/-- A sequence that ends has ended its first part. -/
theorem exec_bind_eq_ok {α β : Type} {x : Exec α} {f : α → Exec β} {b : β} (h : x >>= f = .ok b) : ∃ a, x = .ok a ∧ f a = .ok b := by
  cases x with
  | ok a => exact ⟨a, rfl, h⟩
  | error e => cases h

theorem Attempt.bind {α : Type} {x : Exec α} {f : α → Exec State} (hx : Halts A s x) (hf : ∀ a, x = .ok a → Attempt A s (f a)) :
    Attempt A s (x >>= f) := by
  cases x with
  | ok a => exact hf a rfl
  | error e =>
    rw [exec_bind_error]
    exact ⟨fun e' he => hx e' (congrArg Except.error (Except.error.inj he)), fun _ ht => by cases ht⟩

theorem Halts.bind {α β : Type} {x : Exec α} {f : α → Exec β} (hx : Halts A s x) (hf : ∀ a, x = .ok a → Halts A s (f a)) : Halts A s (x >>= f) := by
  cases x with
  | ok a => exact hf a rfl
  | error e => exact fun e' he => hx e' (congrArg Except.error (Except.error.inj he))

theorem Halts.ok {α : Type} (a : α) : Halts A s (.ok a : Exec α) := nofun

theorem Attempt.ok (h : Within A s t) : Attempt A s (.ok t) := ⟨nofun, fun _ he => by cases he; exact h⟩

theorem stopWithin_id : StopWithin A s (.wait id) ∧ StopWithin A s (.block id) := ⟨Within.refl A s, Within.refl A s⟩

theorem halts_blocking {α : Type} : Halts A s (blocking : Exec α) := fun _ he => Except.error.inj he ▸ stopWithin_id.2

theorem halts_waitFor (b : Bool) : Halts A s (waitFor b) := by
  cases b
  · exact fun _ he => Except.error.inj he ▸ stopWithin_id.1
  · exact nofun

theorem halts_readSrc (u : State) (x : Src) : Halts A s (readSrc u x) := by
  cases x with
  | g n => exact .bind (halts_waitFor _) fun _ _ => .ok _
  | t n => exact .ok _
  | q | q4 | q5 | q6 | q7 =>
    simp only [readSrc]
    split
    · exact .ok _
    · exact halts_blocking

theorem halts_memAddr (u : State) (m : MemOp) : Halts A s (memAddr u m) := .bind (halts_readSrc u _) fun _ _ => .ok _

theorem halts_pushQueue (u : State) (k : Fin 4) (w : QWord) : Halts A s (pushQueue u k w) := by
  simp only [pushQueue]
  split
  · exact .ok _
  · exact halts_blocking

theorem attempt_writeDst {d : Dst} {v : Word} (hq : A.queues) (hr : ∀ n, d = .g n → n ≠ 0 → A.regs n) (h : Within A s t) :
    Attempt A s (writeDst t d v) := by
  refine ⟨?_, fun u hu => h.trans (within_writeDst hq hr hu)⟩
  cases d with
  | g n => exact .bind (halts_waitFor _) fun _ _ => .ok _
  | q k => exact halts_pushQueue _ _ _

theorem halts_reserveDst (u : State) (d : Dst) (k : LdKind) (id : Nat) : Halts A s (reserveDst u d k id) := by
  cases d with
  | g n => exact .bind (halts_waitFor _) fun _ _ => .ok _
  | q i => exact .bind (halts_pushQueue _ _ _) fun _ _ => .ok _

theorem halts_sendReady (u : State) (ls : List Nat) : Halts A s (sendReady u ls) := .bind (halts_waitFor _) fun _ _ => halts_waitFor _

/-- An access that waits for banks has begun their wakes (R188). -/
theorem halts_ownBanks (u : State) (w : Bool) (ls : List Nat) : Halts A s (ownBanks u w ls) := by
  unfold ownBanks needBanks
  dsimp only
  split
  · exact .ok _
  · exact fun e he => Except.error.inj he ▸ (within_touchBanks .. : Within A s (touchBanks s s.focus _ _))

theorem within_ownBanks {w : Bool} {ls : List Nat} (h : ownBanks s w ls = .ok t) : Within A s t := by
  unfold ownBanks needBanks at h
  dsimp only at h
  split at h
  · cases h; exact within_touchBanks ..
  · exact nomatch h

/-- An access that is refused has raised the alarm at most (R88). -/
theorem halts_access {u : State} {sp : Space} {p : PageUse} {a al n : Nat}
    (h : ∀ asid va, isFw u.focus = false → walkLocked s asid va = true → A.alarm) : Halts A s (access u sp p a al n) := by
  refine .bind ?_ fun _ _ => .ok _
  unfold checkedIn
  split
  · exact .ok _
  · refine fun e he => Except.error.inj he ▸ ?_
    change Within A s (if _ then _ else s)
    split
    · exact within_lockAlarm (h _)
    · exact .refl ..

/-- The end of an attempt (R153, R232, R268). -/
theorem within_settle {r : Exec (State × Flow)} (hh : Halts A s r) (ho : ∀ u f, r = .ok (u, f) → Within A s u) (h : settle s r = .next t) :
    Within A s t := by
  unfold settle at h
  split at h
  · cases h; exact (ho _ _ rfl).trans within_retire
  · cases h; exact (ho _ _ rfl).trans (within_jumpTo _)
  · cases h; exact ho _ _ rfl
  · cases h; exact Within.trans (hh _ rfl) within_stay
  · cases h; exact Within.trans (hh _ rfl) within_stayBlocked
  next f keep => cases h; exact Within.trans (hh _ rfl) (within_takeFault (hh (.raise f keep) rfl).focus.symm (hh (.raise f keep) rfl).act.symm f)

/-- An instruction whose meaning keeps within the limits does so however its attempt ends (R153, R216, R274). -/
theorem within_issueFall {w : Where} {c : Com} {m : State → Exec State} (hm : Attempt A s (m s)) (h : issueFall w c s m = .next t) : Within A s t := by
  unfold issueFall issue at h
  refine within_settle ?_ (fun u f hu => ?_) h
  · refine .bind ?_ fun _ _ => .bind ?_ fun _ _ => .bind (halts_waitFor _) fun _ _ => ?_
    · cases !s.feDue
      · exact halts_blocking
      · exact nofun
    · cases !w.ok s.focus
      · exact nofun
      · exact fun e he => Except.error.inj he ▸ (Within.refl A s : StopWithin A s (.raise fIllop id))
    · split
      · exact .ok _
      · exact .bind (halts_waitFor _) fun _ _ => .bind (.bind hm.1 fun _ _ => .ok _) fun _ _ => .ok _
  · obtain ⟨-, -, hu⟩ := exec_bind_eq_ok hu
    obtain ⟨-, -, hu⟩ := exec_bind_eq_ok hu
    obtain ⟨-, -, hu⟩ := exec_bind_eq_ok hu
    split at hu
    · cases hu; exact .refl ..
    · obtain ⟨-, -, hu⟩ := exec_bind_eq_ok hu
      obtain ⟨⟨v, _⟩, hv, hu⟩ := exec_bind_eq_ok hu
      obtain ⟨v, hr, hv⟩ := exec_bind_eq_ok hv
      cases hv
      cases hu
      exact (hm.2 v hr).trans (within_countPmc (hm.2 v hr).focus.symm ..)

end Sys2Proof.Laws
end

section
/-! PROOFS. What loads and stores leave as it is (R94, R201 to R203, R208, R211, R212, R214, R328, R330). -/

namespace Sys2Proof.Laws

open Sys2Proof Sys2Proof.Machine

variable {A : Limits} {s t : State}

/-! ### Limits -/

/-- A walk of an agent that is no firmware may read the locked range (R88). -/
def LockedWalk (s : State) : Prop := isFw s.focus = false ∧ ∃ asid va, walkLocked s asid va = true

/-- A load of n bytes: under LU on the own scratchpad it kills words; lde: it empties a tag. -/
def loadLimits (s : State) (m : MemOp) (n : Nat) (d : Dst) (lde : Prop) : Limits where
  mem p := m.lu = true ∧ ∃ acc, loadFrom s m n = some acc ∧ acc.own = true ∧ ∃ l ∈ acc.locs, s.phys l / 8 = p / 8
  writes := m.lu = true ∧ ∃ acc, loadFrom s m n = some acc ∧ acc.own = true
  live := m.lu = true
  marks := m.lu = true
  full := m.lu = true ∨ lde
  alarm := LockedWalk s
  queues := True
  regs r := d = .g r ∧ r ≠ 0
  pois := True
  notes := False

/-- A store of n bytes: to the own scratchpad or lanes it is performed at issue; tags: it fills a tag. -/
def storeLimits (s : State) (d : Src) (m : MemOp) (n : Nat) (tags : Prop) : Limits where
  mem p := ∃ acc, storeTo s d m n = some acc ∧ acc.own = true ∧ mayChange s acc.locs p
  writes := ∃ acc, storeTo s d m n = some acc ∧ acc.own = true
  live := True
  marks := False
  full := tags
  alarm := LockedWalk s
  queues := False
  regs _ := False
  pois := False
  notes := True

/-! ### Accesses -/

theorem onlyCores_readSrc {x : Src} {v : Word} (h : readSrc s x = .ok (v, t)) : t = { s with cores := t.cores } := by
  obtain ⟨cores, rfl⟩ := readSrc_frame h
  rfl

theorem halts_access_after {s1 : State} (hA : LockedWalk s → A.alarm) (h1 : Within A s s1) (sp : Space) (u : PageUse) (a al n : Nat) :
    Halts A s (access s1 sp u a al n) :=
  halts_access fun asid va hf hw => hA ⟨h1.focus ▸ hf, asid, va, hw⟩

theorem within_access_after {s1 s2 : State} {sp : Space} {u : PageUse} {a al n : Nat} {acc : Acc} (hA : LockedWalk s → A.alarm)
    (h1 : Within A s s1) (hs : s1 = { s with cores := s1.cores }) (h : access s1 sp u a al n = .ok (acc, s2)) : Within A s s2 := by
  obtain ⟨-, rfl⟩ := access_ok h
  refine h1.trans (within_translated fun asid va hf hw => hA ⟨h1.focus ▸ hf, asid, va, ?_⟩)
  rwa [walkLocked_congr hs h1.phys] at hw

/-- An own access lies where the lock does not reach (R88). -/
theorem unlocked_of_own {s1 s2 : State} {sp : Space} {u : PageUse} {a al n : Nat} {acc : Acc} (h : access s1 sp u a al n = .ok (acc, s2))
    (ho : acc.own = true) (v : State) : ∀ l ∈ acc.locs, v.lockedLoc l = false := by
  obtain ⟨hr, -⟩ := access_ok h
  obtain ⟨-, hown, hplace⟩ := resolve_ok hr
  have sel : sp = .spm ∨ sp = .lane := by
    rw [ho] at hown
    simpa using hown.symm
  exact fun l hl => lockedLoc_of_not_dram v (not_dram_of_own sel (hplace ho) l hl)

theorem memAddr_eq_ok {m : MemOp} {a : Nat} {s1 : State} (h : memAddr s m = .ok (a, s1)) :
    ∃ x, readSrc s m.base.r = .ok (x, s1) ∧ a = addressOf x m.off := by
  obtain ⟨⟨x, s'⟩, hx, h⟩ := exec_bind_eq_ok h
  cases h
  exact ⟨x, hx, addrPlus_offVal ..⟩

theorem loadFrom_some {m : MemOp} {x : Word} {s1 s2 : State} {n : Nat} {acc : Acc} (h1 : readSrc s m.base.r = .ok (x, s1))
    (h2 : access s1 m.sel rdUse (addressOf x m.off) n n = .ok (acc, s2)) : loadFrom s m n = some acc := by
  simp only [loadFrom, h1, h2]

theorem storeTo_some {d : Src} {m : MemOp} {x v : Word} {s1 s2 s3 : State} {n : Nat} {acc : Acc} (h1 : readSrc s m.base.r = .ok (x, s1))
    (h2 : readSrc s1 d = .ok (v, s2)) (h3 : access s2 m.sel wrUse (addressOf x m.off) n n = .ok (acc, s3)) : storeTo s d m n = some acc := by
  simp only [storeTo, h1, h2, h3]

/-! ### Loads -/

theorem keeps_lrbTouch (c : Core) (loc : Nat) : ∃ lrb, lrbTouch c loc = { c with lrb } := by
  unfold lrbTouch
  split
  · exact ⟨_, rfl⟩
  · exact ⟨c.lrb, rfl⟩

theorem within_lrbTouch (loc : Nat) : Within A s (s.modMe fun c => lrbTouch c loc) := by
  refine within_modMe rfl ?_ ?_ ?_ ?_ <;> intro c <;> obtain ⟨lrb, h⟩ := keeps_lrbTouch c loc <;> rw [h]

/-- A load that goes beyond the core writes a register or sends a request (R201, R327). -/
theorem attempt_loadBeyond {u : State} {d : Dst} (h : Within A s u) (hq : A.queues) (hp : A.pois) (hr : ∀ n, d = .g n → n ≠ 0 → A.regs n) (k : LdKind)
    (sel : Space) (na : Bool) (acc : Acc) : Attempt A s (loadBeyond u d k sel na acc) := by
  unfold loadBeyond
  refine .bind (halts_waitFor _) fun _ _ => ?_
  split
  next l _ =>
    have touched : Within A s (u.modMe fun c => lrbTouch c (acc.locs.headD 0)) := h.trans (within_lrbTouch _)
    have counted := touched.trans (within_countPmc (k := u.focus) (touched.focus.trans h.focus.symm).symm (some u.act) 11 1)
    exact attempt_writeDst hq hr (counted.trans (within_poisIf fun _ => hp))
  · refine .bind (halts_reserveDst _ _ _ _) fun ⟨dst, v⟩ hv => ?_
    have kept := h.trans (within_reserveDst hq hv)
    dsimp only
    split
    · have counted := kept.trans (within_countPmc (k := v.focus) rfl (some v.act) 12 1)
      exact .ok (counted.trans (within_sendReq rfl rfl))
    · exact .ok (kept.trans (within_sendReq rfl rfl))

/-- The words that an own load kills under LU are those that it reads. -/
theorem within_loaded {u : State} {m : MemOp} {n : Nat} {d : Dst} {lde : Prop} {acc : Acc} {ls : List Nat} (h : Within (loadLimits s m n d lde) s u)
    (hacc : loadFrom s m n = some acc) (ho : acc.own = true) (hls : ∀ l ∈ ls, l ∈ acc.locs) (hlu : m.lu = true) :
    Within (loadLimits s m n d lde) s (killWords u ls) :=
  h.trans (within_killWords ⟨hlu, acc, hacc, ho⟩ hlu hlu (.inl hlu) fun l hl p hp => ⟨hlu, acc, hacc, ho, l, hls l hl, by rwa [← h.phys]⟩)

theorem within_ld {c : Com} {k : LdKind} {d : Dst} {m : MemOp} {lde : Prop} (h : exec (.ld c k d m) s = .next t) :
    Within (loadLimits s m (loadWidth k) d lde) s t := by
  rw [exec_ld] at h
  refine within_issueFall ?_ h
  refine .bind (halts_memAddr _ _) fun ⟨a, s1⟩ ha => .bind (halts_waitFor _) fun _ _ => ?_
  obtain ⟨x, hx, rfl⟩ := memAddr_eq_ok ha
  have h1 : Within (loadLimits s m (loadWidth k) d lde) s s1 := within_readSrc hx
  refine .bind (halts_access_after id h1 _ _ _ _ _) fun ⟨acc, s2⟩ h2 => ?_
  have w2 : Within (loadLimits s m (loadWidth k) d lde) s s2 := within_access_after id h1 (onlyCores_readSrc hx) h2
  have regs : ∀ n, d = .g n → n ≠ 0 → (loadLimits s m (loadWidth k) d lde).regs n := fun _ hd hn => ⟨hd, hn⟩
  dsimp only
  split
  next ho =>
    refine .bind (halts_ownBanks _ _ _) fun s3 h3 => ?_
    have w3 := w2.trans (within_ownBanks h3)
    rw [readHome_unlocked (unlocked_of_own h2 ho s3)]
    dsimp only
    split
    next hlu => exact attempt_writeDst trivial regs ((within_loaded w3 (loadFrom_some hx h2) ho (fun _ => id) hlu).trans (within_poisIf fun _ => trivial))
    · exact attempt_writeDst trivial regs (w3.trans (within_poisIf fun _ => trivial))
  · exact attempt_loadBeyond w2 trivial trivial regs ..

/-! ### Full/empty forms (R202, R331) -/

/-- A form that waits has its place in the arrival order. -/
theorem within_arrived (n : Nat) (f : FeForm) (loc : Nat) :
    Within A s { s.modCur (fun c => { c with feArr := some (n, f, some loc) }) with nextId := max s.nextId (n + 1) } :=
  Within.trans (t := s.modCur fun c => { c with feArr := some (n, f, some loc) }) (within_modCur fun _ => ⟨rfl, fun _ _ => rfl, .of_same rfl rfl⟩)
    (within_fabric (s := s.modCur fun c => { c with feArr := some (n, f, some loc) }) s.fabric (max s.nextId (n + 1)))

/-- A form other than FESET.e whose turn has come (R202). -/
theorem feOwn_turn {f : FeForm} {loc : Nat} (hf : (f == .setE) = false) (h : feTurn s f loc = true) (v : Word) (lu : Bool) :
    feOwn s f loc v lu = (ownBanks s true [loc] >>= fun w => .ok (poisIf (feStep w f loc v lu).1 (feStep w f loc v lu).1.focus
      (feStep w f loc v lu).1.act (feStep w f loc v lu).2.2, (feStep w f loc v lu).2.1)) := by
  refine (if_pos h).trans ?_
  simp only [hf, Bool.false_eq_true, if_false]
  rfl

theorem feOwn_waits {f : FeForm} {loc : Nat} (h : ¬feTurn s f loc = true) (v : Word) (lu : Bool) : feOwn s f loc v lu =
    .error (.block fun w => { w.modCur fun c => { c with feArr := some (match s.cur.feArr with | some (n, _, _) => n | none => s.nextId, f, some loc) } with
      nextId := max w.nextId ((match s.cur.feArr with | some (n, _, _) => n | none => s.nextId) + 1) }) :=
  if_neg h

/-- A form on the own scratchpad waits for its turn and its bank, then takes its step. -/
theorem feOwn_within {u : State} {f : FeForm} {loc : Nat} {v : Word} {lu : Bool} (hf : (f == .setE) = false) (h : Within A s u)
    (hstep : ∀ w, Within A s w → Within A s (feStep w f loc v lu).1 ∧ ((feStep w f loc v lu).2.2 = true → A.pois)) :
    Halts A s (feOwn u f loc v lu) ∧ ∀ r, feOwn u f loc v lu = .ok r → Within A s r.1 := by
  by_cases turn : feTurn u f loc = true
  · rw [feOwn_turn hf turn]
    refine ⟨.bind (halts_ownBanks _ _ _) fun _ _ => .ok _, fun r hr => ?_⟩
    obtain ⟨w, hw, hr⟩ := exec_bind_eq_ok hr
    cases hr
    obtain ⟨stepped, pois⟩ := hstep w (h.trans (within_ownBanks hw))
    exact stepped.trans (within_poisIf pois)
  · rw [feOwn_waits turn]
    exact ⟨fun e he => Except.error.inj he ▸ (within_arrived .. : Within A s _), fun r hr => by cases hr⟩

/-- Through rmt: one request (R331). -/
theorem attempt_feRemote {u : State} (h : Within A s u) (f : FeForm) (loc : Nat) (v : Word) (dst : ReqDst) : Attempt A s (feRemote u f loc v dst) :=
  .bind (halts_sendReady _ _) fun _ _ => .ok (h.trans (within_sendReq rfl rfl))

/-- The first location of an access of 8 bytes. -/
theorem firstLoc_mem {s1 s2 : State} {sp : Space} {u : PageUse} {a al : Nat} {acc : Acc} (h : access s1 sp u a al 8 = .ok (acc, s2)) :
    firstLoc acc ∈ acc.locs := by
  obtain ⟨hr, -⟩ := access_ok h
  obtain ⟨hlen, -⟩ := resolve_ok hr
  rw [length_addrRange] at hlen
  cases hl : acc.locs with
  | nil => rw [hl] at hlen; exact nomatch hlen
  | cons l ls => rw [firstLoc, hl]; exact List.mem_cons_self ..

/-- The step of LDW or LDE: the tag that LDE empties, and under LU the word that it reads. -/
theorem within_feRead {u : State} {f : FeForm} {d : Dst} {m : MemOp} {lde : Prop} {acc : Acc} {v : Word} (hf : f = .ldw ∨ f = .lde ∧ lde)
    (h : Within (loadLimits s m 8 d lde) s u) (hacc : loadFrom s m 8 = some acc) (ho : acc.own = true) (hfirst : firstLoc acc ∈ acc.locs) :
    Within (loadLimits s m 8 d lde) s (feStep u f (firstLoc acc) v m.lu).1 := by
  have killed {w : State} (hw : Within (loadLimits s m 8 d lde) s w) :
      Within (loadLimits s m 8 d lde) s (if m.lu then killSpmWord w (firstLoc acc) else w) := by
    split
    next hlu => exact within_loaded (ls := [firstLoc acc]) hw hacc ho (by simpa using hfirst) hlu
    · exact hw
  rcases hf with rfl | ⟨rfl, hl⟩
  · exact killed h
  · exact killed (h.trans (within_full (Or.inr hl : (loadLimits s m 8 d lde).full) _))

/-- LDW and LDE. -/
theorem within_feLoad {c : Com} {f : FeForm} {d : Dst} {m : MemOp} {lde : Prop} (hf : f = .ldw ∨ f = .lde ∧ lde) (h : feLoad c f d m s = .next t) :
    Within (loadLimits s m 8 d lde) s t := by
  refine within_issueFall ?_ h
  refine .bind (halts_memAddr _ _) fun ⟨a, s1⟩ ha => .bind (halts_waitFor _) fun _ _ => ?_
  obtain ⟨x, hx, rfl⟩ := memAddr_eq_ok ha
  have h1 : Within (loadLimits s m 8 d lde) s s1 := within_readSrc hx
  refine .bind (halts_access_after id h1 _ _ _ _ _) fun ⟨acc, s2⟩ h2 => ?_
  have w2 : Within (loadLimits s m 8 d lde) s s2 := within_access_after id h1 (onlyCores_readSrc hx) h2
  dsimp only
  split
  next ho =>
    have stepped := feOwn_within (f := f) (loc := firstLoc acc) (v := 0) (lu := m.lu) (by rcases hf with rfl | ⟨rfl, -⟩ <;> rfl) w2
      fun w hw => ⟨within_feRead hf hw (loadFrom_some hx h2) ho (firstLoc_mem h2), fun _ => trivial⟩
    refine .bind stepped.1 fun ⟨s3, v⟩ h3 => attempt_writeDst trivial (fun _ hd hn => ⟨hd, hn⟩) (stepped.2 _ h3)
  · refine .bind (halts_sendReady _ _) fun _ _ => .bind (halts_reserveDst _ _ _ _) fun ⟨dst, s3⟩ h3 => ?_
    exact attempt_feRemote (w2.trans (within_reserveDst trivial h3)) ..

/-! ### Where an own word lies (R195, R211) -/

theorem resolve_aligned {key : Nat} {asid : BitVec 16} {sp : Space} {u : PageUse} {addr align : Nat} {as : List Nat} {acc : Acc}
    (h : resolve s key asid sp u addr align as = .ok acc) : addr % align = 0 := by
  unfold resolve at h
  by_contra hal
  split at h
  · rw [if_pos hal] at h; cases h
  · split at h
    · cases h
    · rw [if_pos hal] at h; cases h

theorem eq_map_of_forall₂ {α β : Type} {P : α → β → Prop} {f : α → β} {as : List α} {bs : List β} (h : List.Forall₂ P as bs)
    (hf : ∀ a ∈ as, ∀ b, P a b → b = f a) : bs = as.map f := by
  induction h with
  | nil => rfl
  | cons hab _ ih =>
    rw [List.map_cons, hf _ (List.mem_cons_self ..) _ hab, ih fun a ha => hf a (List.mem_cons_of_mem _ ha)]

/-- The bytes of an own word stand one after the other. -/
theorem locs_of_own_word {s1 s2 : State} {sp : Space} {u : PageUse} {a : Nat} {acc : Acc} (ha : a < 2 ^ 64)
    (h : access s1 sp u a 8 8 = .ok (acc, s2)) (ho : acc.own = true) : acc.locs = (List.range 8).map (firstLoc acc + ·) := by
  obtain ⟨hr, -⟩ := access_ok h
  obtain ⟨-, hown, hplace⟩ := resolve_ok hr
  have aligned := resolve_aligned hr
  have wraps (i : Nat) (hi : i ∈ List.range 8) : (a + i) % 2 ^ 64 = a + i := by
    have := List.mem_range.mp hi
    omega
  have places := List.forall₂_map_left_iff.mp (hplace ho)
  have sel : sp = .spm ∨ sp = .lane := by
    rw [ho] at hown
    simpa using hown.symm
  obtain ⟨base, locs⟩ : ∃ base, acc.locs = (List.range 8).map (base + ·) := by
    rcases sel with rfl | rfl
    · refine ⟨locSpm s1.focus a, eq_map_of_forall₂ places fun i hi b hb => ?_⟩
      rw [wraps i hi] at hb
      rw [(directByte_spm hb).1, locSpm, locSpm]
      split_ifs <;> omega
    · refine ⟨locLane (quadOf s1.focus) a, eq_map_of_forall₂ places fun i hi b hb => ?_⟩
      rw [wraps i hi] at hb
      rw [(directByte_lane hb).1, locLane, locLane]
      omega
  rw [firstLoc, locs]
  rfl

theorem addressOf_lt (x : Word) (off : Off) : addressOf x off < 2 ^ 64 := by
  cases off <;> exact BitVec.isLt _

theorem fst_pairsAt (loc : Nat) (bs : List Byte) : (pairsAt loc bs).map (·.1) = (List.range bs.length).map (loc + ·) := by
  have pairs : pairsAt loc bs = ((List.range bs.length).zip bs).map fun p => (loc + p.1, p.2) := by
    rw [pairsAt, List.zip, List.map_zipWith]
  rw [pairs, List.map_map]
  refine Eq.trans ?_ (congrArg (List.map (loc + ·)) (List.map_fst_zip (l₁ := List.range bs.length) (l₂ := bs) (by simp)))
  rw [List.map_map]
  rfl

/-! ### Stores -/

/-- A store that is performed at issue (R208, R211). -/
theorem within_storePerformed {u : State} {d : Src} {m : MemOp} {n : Nat} {tags : Prop} {acc : Acc} {ps : List (Nat × Byte)} (fw : Bool)
    (h : Within (storeLimits s d m n tags) s u) (hacc : storeTo s d m n = some acc) (ho : acc.own = true) (hl : ∀ l ∈ acc.locs, u.lockedLoc l = false)
    (hp : ps.map (·.1) = acc.locs) : Within (storeLimits s d m n tags) s (performWrite u fw ps) := by
  refine h.trans (within_performWrite (fun p hm => hl _ (hp ▸ List.mem_map_of_mem hm)) ⟨acc, hacc, ho⟩ trivial trivial not_false fun p hm => ?_)
  rw [hp] at hm
  simp only [mayChange, h.phys, h.marks not_false] at hm
  exact ⟨acc, hacc, ho, hm⟩

theorem within_lrbStore (ps : List (Nat × Byte)) : Within A s (s.modMe fun c => lrbStore c ps) :=
  within_modMe rfl (fun _ => rfl) (fun _ => rfl) (fun _ => rfl) fun _ => rfl

theorem within_st {c : Com} {k : StKind} {d : Src} {m : MemOp} {tags : Prop} (h : exec (.st c k d m) s = .next t) :
    Within (storeLimits s d m (storeWidth k) tags) s t := by
  rw [exec_st] at h
  refine within_issueFall ?_ h
  refine .bind (halts_memAddr _ _) fun ⟨a, s1⟩ ha => .bind (halts_readSrc _ _) fun ⟨v, s2⟩ hv => .bind (halts_waitFor _) fun _ _ => ?_
  obtain ⟨x, hx, rfl⟩ := memAddr_eq_ok ha
  have w1 : Within (storeLimits s d m (storeWidth k) tags) s s1 := within_readSrc hx
  have w2 := w1.trans (within_readSrc hv)
  have cores : s2 = { s with cores := s2.cores } := (onlyCores_readSrc hv).trans (by rw [onlyCores_readSrc hx])
  refine .bind (halts_access_after id w2 _ _ _ _ _) fun ⟨acc, s3⟩ h3 => ?_
  have w3 := within_access_after id w2 cores h3
  obtain ⟨hlen, -⟩ := resolve_ok (access_ok h3).1
  unfold storeBytes
  dsimp only
  split
  next ho =>
    refine .bind (halts_ownBanks _ _ _) fun s4 h4 => .ok ?_
    exact within_storePerformed _ (w3.trans (within_ownBanks h4)) (storeTo_some hx hv h3) ho (unlocked_of_own h3 ho s4)
      (List.map_fst_zip (by rw [hlen, length_addrRange, length_bytesOfNat]))
  · exact .bind (halts_sendReady _ _) fun _ _ => .ok ((w3.trans (within_lrbStore _)).trans (within_postWrites ..))

/-- STW and STF. -/
theorem within_feStore {c : Com} {f : FeForm} {d : Src} {m : MemOp} {tags : Prop} (ht : tags) (hf : f = .stw ∨ f = .stf)
    (h : feStore c f (some d) m s = .next t) : Within (storeLimits s d m 8 tags) s t := by
  refine within_issueFall ?_ h
  refine .bind (halts_memAddr _ _) fun ⟨a, s1⟩ ha => .bind (halts_readSrc _ _) fun ⟨v, s2⟩ hv => .bind (halts_waitFor _) fun _ _ => ?_
  obtain ⟨x, hx, rfl⟩ := memAddr_eq_ok ha
  have w1 : Within (storeLimits s d m 8 tags) s s1 := within_readSrc hx
  have w2 := w1.trans (within_readSrc hv)
  have cores : s2 = { s with cores := s2.cores } := (onlyCores_readSrc hv).trans (by rw [onlyCores_readSrc hx])
  refine .bind (halts_access_after id w2 _ _ _ _ _) fun ⟨acc, s3⟩ h3 => ?_
  have w3 := within_access_after id w2 cores h3
  dsimp only
  split
  next ho =>
    have stepped := feOwn_within (f := f) (loc := firstLoc acc) (v := v) (lu := false) (by rcases hf with rfl | rfl <;> rfl) w3 fun w hw => by
      have put := within_storePerformed (ps := pairsAt (firstLoc acc) (bytesOfNat 8 v.toNat)) true hw (storeTo_some hx hv h3) ho (unlocked_of_own h3 ho w)
        (by rw [fst_pairsAt, length_bytesOfNat, ← locs_of_own_word (addressOf_lt ..) h3 ho])
      have tagged := put.trans (within_full (ht : (storeLimits s d m 8 tags).full) (nsAdd w.full (w.phys (firstLoc acc) / 8)))
      rcases hf with rfl | rfl <;> exact ⟨tagged, nofun⟩
    exact .bind stepped.1 fun r hr => .ok (stepped.2 r hr)
  · exact attempt_feRemote w3 ..

/-! ### The frames -/

theorem Bystander.eq {c d : Ctx} (h : Bystander A c d) (hn : ¬A.notes) : d = c := by
  obtain ⟨hd, -, ⟨hw, hs⟩ | ⟨notes, -⟩⟩ := h
  · rw [hd, hw, hs not_false]
  · exact absurd notes hn

/-- A wait that has received nothing has brought no POIS (R343). -/
theorem Flagged.status_of_wait {notes : Prop} {c d : Ctx} (h : Flagged False notes c d) (hw : d.wait = c.wait) : d.status = c.status := by
  obtain ⟨-, ⟨-, hs⟩ | ⟨-, l, o, g, r, ns, x, hx, hc, hd⟩⟩ := h
  · exact hs not_false
  · have grown := hd.symm.trans (hw.trans hc)
    simp [hx] at grown

theorem Bystander.onlyNoted {c d : Ctx} (h : Bystander A c d) : onlyNoted c d := by
  obtain ⟨hd, hf⟩ := h
  obtain ⟨keeps, clears⟩ := hf.1.bits
  exact ⟨by rw [hd], keeps, clears, fun hw => by rw [hd, hw, hf.status_of_wait hw]⟩

/-- All but what a load or a store may change. -/
theorem Within.rest (h : Within A s t) : { keepAlarm s t with
    mem := s.mem, poison := s.poison, spmLive := s.spmLive, marks := s.marks, full := s.full, cores := s.cores, clusters := s.clusters
    fabric := s.fabric, nextId := s.nextId } = s := by
  rw [h.same]
  rfl

theorem Within.tlbOnly (h : Within A s t) (k : Nat) : { t.cluster k with tlb := (s.cluster k).tlb } = s.cluster k := by
  rw [h.tlb k]

theorem not_lockedWalk (h : isFw s.focus = true ∨ ∀ asid va, walkLocked s asid va = false) : ¬LockedWalk s := by
  rintro ⟨hf, asid, va, hw⟩
  rcases h with h | h
  · rw [h] at hf; cases hf
  · rw [h] at hw; cases hw

theorem Runner.sameCtx {c d : Ctx} (h : Runner A c d) :
    sameCtx c { d with g := c.g, status := c.status, clu := c.clu, mod := c.mod, sys := c.sys, wait := c.wait } := by
  rw [Sys2Proof.sameCtx, h.same]

/-- What a load's limits say, clause by clause. -/
theorem loadFrame {c : Com} {m : MemOp} {i : Instr} {n : Nat} {d : Dst}
    (h : Within (loadLimits s m n d (i = .lde c d m)) s t) :
    (∀ acc p, loadFrom s m n = some acc → (m.lu = false ∨ acc.own = false ∨ ∀ l ∈ acc.locs, s.phys l / 8 ≠ p / 8) → t.mem.get p = s.mem.get p)
    ∧ (loadFrom s m n = none → t.mem = s.mem)
    ∧ (m.lu = false → t.mem = s.mem ∧ t.poison = s.poison ∧ t.spmLive = s.spmLive ∧ t.marks = s.marks ∧ (i ≠ .lde c d m → t.full = s.full)) := by
  refine ⟨fun acc p hacc hp => h.mem p ?_, fun hnone => h.still ?_, fun hlu => ?_⟩
  · rintro ⟨hlu, acc', hacc', ho, l, hl, he⟩
    obtain rfl := Option.some.inj (hacc.symm.trans hacc')
    rcases hp with hp | hp | hp
    · rw [hp] at hlu; cases hlu
    · rw [hp] at ho; cases ho
    · exact hp l hl he
  · rintro ⟨-, acc, hacc, -⟩
    rw [hnone] at hacc; cases hacc
  · have noLu : ¬m.lu = true := by simp [hlu]
    obtain ⟨poison, live⟩ := h.live noLu
    exact ⟨h.still fun hw => noLu hw.1, poison, live, h.marks noLu, fun hi => h.full (not_or.mpr ⟨noLu, hi⟩)⟩

/-- What a store's limits say of memory and tags. -/
theorem storeFrame {d : Src} {m : MemOp} {n : Nat} {tags : Prop} (h : Within (storeLimits s d m n tags) s t) :
    (∀ acc p, storeTo s d m n = some acc → acc.own = true → ¬mayChange s acc.locs p → t.mem.get p = s.mem.get p)
    ∧ (∀ acc, storeTo s d m n = some acc → acc.own = false → t.mem = s.mem) ∧ (storeTo s d m n = none → t.mem = s.mem) := by
  refine ⟨fun acc p hacc _ hp => h.mem p ?_, fun acc hacc ho => h.still ?_, fun hnone => h.still ?_⟩
  · rintro ⟨acc', hacc', -, hm⟩
    obtain rfl := Option.some.inj (hacc.symm.trans hacc')
    exact hp hm
  · rintro ⟨acc', hacc', ho'⟩
    obtain rfl := Option.some.inj (hacc.symm.trans hacc')
    rw [ho] at ho'; cases ho'
  · rintro ⟨acc, hacc, -⟩
    rw [hnone] at hacc; cases hacc

theorem within_load {c : Com} {m : MemOp} {i : Instr} {n : Nat} {d : Dst}
    (hi : (∃ k, i = .ld c k d m ∧ n = loadWidth k) ∨ ((i = .ldw c d m ∨ i = .lde c d m) ∧ n = 8)) (h : exec i s = .next t) :
    Within (loadLimits s m n d (i = .lde c d m)) s t := by
  rcases hi with ⟨k, rfl, rfl⟩ | ⟨rfl | rfl, rfl⟩
  · exact within_ld h
  · exact within_feLoad (.inl rfl) h
  · exact within_feLoad (.inr ⟨rfl, rfl⟩) h

theorem within_store {c : Com} {m : MemOp} {i : Instr} {n : Nat} {d : Src}
    (hi : (∃ k, i = .st c k d m ∧ n = storeWidth k) ∨ ((i = .stw c d m ∨ i = .stf c d m) ∧ n = 8)) (h : exec i s = .next t) :
    Within (storeLimits s d m n (¬∃ k, i = .st c k d m)) s t := by
  rcases hi with ⟨k, rfl, rfl⟩ | ⟨rfl | rfl, rfl⟩
  · exact within_st h
  · exact within_feStore (by simp) (.inl rfl) h
  · exact within_feStore (by simp) (.inr rfl) h

/-- A load's own context: no wait changes, and of the registers only its destination. -/
theorem loadRunner {m : MemOp} {n : Nat} {d : Dst} {lde : Prop} {c e : Ctx} (h : Runner (loadLimits s m n d lde) c e) :
    sameCtx c { e with g := c.g, status := c.status, clu := c.clu, mod := c.mod, sys := c.sys }
    ∧ (∀ r : Fin 48, d ≠ .g r ∨ r = 0 → e.g.get r = c.g.get r) ∧ e.status &&& ~~~0x4000 = c.status &&& ~~~0x4000 ∧ c.status &&& ~~~e.status = 0 := by
  obtain ⟨-, ⟨wait, -⟩ | ⟨notes, -⟩⟩ := h.flagged
  · have same := h.sameCtx
    rw [← wait] at same
    exact ⟨same, fun r hr => h.regs r fun ⟨hd, hn⟩ => hr.elim (· hd) hn, h.flagged.1.bits⟩
  · exact notes.elim

/-- A store's own context: no register changes, and of wait and status what a monitor's notice brings. -/
theorem storeRunner {d : Src} {m : MemOp} {n : Nat} {tags : Prop} {c e : Ctx} (h : Runner (storeLimits s d m n tags) c e) :
    sameCtx c { e with clu := c.clu, mod := c.mod, sys := c.sys, wait := c.wait, status := c.status }
    ∧ e.status &&& ~~~0x4000 = c.status &&& ~~~0x4000 ∧ c.status &&& ~~~e.status = 0 ∧ (e.wait = c.wait → e.status = c.status) := by
  have regs : e.g = c.g := Vector.ext fun i hi => h.regs ⟨i, hi⟩ not_false
  have same := h.sameCtx
  rw [← regs] at same
  obtain ⟨keeps, clears⟩ := h.flagged.1.bits
  exact ⟨same, keeps, clears, h.flagged.status_of_wait⟩

/-- Settles O52: every step of a load and of a store keeps within its limits, and the limits say the frame. -/
theorem loadAndStoreFrames : Obligations.LoadAndStoreFrames := by
  refine ⟨fun c m i n d s t hi h => ?_, fun c m i n d s t hi h => ?_⟩
  · have w := within_load hi h
    obtain ⟨bytes, still, noLu⟩ := loadFrame w
    have others (key : Nat) (b : Bool) (hb : ¬(key = s.focus ∧ b = s.act)) : t.ctx key b = s.ctx key b := ((w.core key).other b hb).eq not_false
    refine ⟨bytes, still, noLu, w.rest, fun hw => w.alarm (not_lockedWalk hw), w.tlbOnly, fun key hk => ?_,
      others s.focus (!s.act) (by simp), fun e he => ?_⟩
    · have c0 : (t.core key).c0 = (s.core key).c0 := others key false (by simp [hk])
      have c1 : (t.core key).c1 = (s.core key).c1 := others key true (by simp [hk])
      have away := ((w.core key).away hk).1
      rwa [c0, c1] at away
    · subst he
      exact loadRunner ((w.core s.focus).cur rfl)
  · have w := within_store hi h
    obtain ⟨bytes, beyond, refused⟩ := storeFrame w
    have rest := w.rest
    rw [← w.marks not_false] at rest
    refine ⟨bytes, beyond, refused, fun hst => w.full (not_not.mpr hst), rest, fun hw => w.alarm (not_lockedWalk hw), w.tlbOnly, fun key b hb => ?_,
      fun key hk => ?_, fun e he => ?_⟩
    · exact ((w.core key).other b fun ⟨hk, ha⟩ => hb (by rw [hk, ha])).onlyNoted
    · obtain ⟨away, queues⟩ := (w.core key).away hk
      rw [away, queues not_false]
    · subst he
      exact storeRunner ((w.core s.focus).cur rfl)

end Sys2Proof.Laws
end

section
/-! PROOFS. Swaps, command links and fault packets (R97, R98, R163, R234, R243). -/

namespace Sys2Proof.Laws

open Sys2Proof Sys2Proof.Machine

/-! ### Swaps (R163, R164) -/

theorem execAutoSwap_begins {s : State} {key : Nat} (h : autoDue s key = true) : exec (.autoSwap key) s = .next (beginSwap s key) :=
  congrArg Host.Outcome.next (if_pos h)

theorem execAutoSwap_stays {s : State} {key : Nat} (h : autoDue s key = false) : exec (.autoSwap key) s = .next s :=
  congrArg Host.Outcome.next (if_neg (by simp [h]))

theorem execContextSwap_ends {s : State} {key : Nat} (hs : (s.core key).swapping = true) (hf : spillOn (s.core key) (!(s.core key).active) = false) :
    exec (.contextSwap key) s = .next (swapDone s key) :=
  congrArg Host.Outcome.next (if_pos (by simp [hs, hf]))

theorem execContextSwap_stays {s : State} {key : Nat} (h : (s.core key).swapping = false ∨ spillOn (s.core key) (!(s.core key).active) = true) :
    exec (.contextSwap key) s = .next s :=
  congrArg Host.Outcome.next (if_neg (by rcases h with h | h <;> simp [h]))

/-- The context that a swap takes out of the pipeline. -/
def swappedOut (x : Ctx) : Ctx := { x with st := if x.st == .running then .ready else x.st, blocked := 0, feArr := none, parked := none }

/-- The context that it brings in. -/
def swappedIn (x : Ctx) : Ctx := { x with st := if x.st == .ready then .running else x.st, blocked := if x.st == .frozen then 1 else 0 }

/-- A core after the exchange of its contexts. -/
def swappedCore (c : Core) : Core :=
  { (c.setCtx c.active (swappedOut (c.ctx c.active))).setCtx (!c.active) (swappedIn (c.ctx (!c.active))) with active := !c.active, swapping := false }

theorem ctx_swappedCore_in (c : Core) : (swappedCore c).ctx (!c.active) = swappedIn (c.ctx (!c.active)) := by
  rw [swappedCore]; cases c.active <;> rfl

theorem ctx_swappedCore_out (c : Core) : (swappedCore c).ctx c.active = swappedOut (c.ctx c.active) := by
  rw [swappedCore]; cases c.active <;> rfl

theorem st_swappedOut_idle (x : Ctx) : ((swappedOut x).st == .idle) = (x.st == .idle) := by
  cases h : x.st <;> simp [swappedOut, h]

theorem st_swappedIn_idle (x : Ctx) : ((swappedIn x).st == .idle) = (x.st == .idle) := by
  cases h : x.st <;> simp [swappedIn, h]

/-- The swap that an idle active context with an empty inbox offers to a shadow with work (R101, R175). -/
def offersSwap (c : Core) : Bool :=
  (c.ctx c.active).st == .idle && (c.ctx c.active).inbox.isEmpty && !(c.ctx (!c.active)).vac
    && ((c.ctx (!c.active)).st == .ready || ((c.ctx (!c.active)).st == .idle && !(c.ctx (!c.active)).inbox.isEmpty))

theorem core_offerSwap (s : State) (key : Nat) :
    (offerSwap s key).core key = { s.core key with swapping := offersSwap (s.core key) || (s.core key).swapping } := by
  change (if offersSwap (s.core key) then s.setCore key { s.core key with swapping := true } else s).core key = _
  split
  · next h => rw [State.core_setCore_same, h, Bool.true_or]
  · next h => rw [Bool.not_eq_true _ |>.mp h, Bool.false_or]

theorem core_offerSwap_other (s : State) {key k : Nat} (h : k ≠ key) : (offerSwap s key).core k = s.core k := by
  simp only [offerSwap]
  split
  · exact State.core_setCore_other _ _ h
  · rfl

/-- Nothing starts in a context that is not idle, or has no record. -/
theorem serveInbox_nothing {s : State} {key : Nat} {n : Bool} (h : (s.ctx key n).st ≠ .idle ∨ (s.ctx key n).inbox = []) : serveInbox s key n = s := by
  rcases h with h | h
  · exact serveInbox_busy h
  · simp only [serveInbox, h, ite_self]

/-- The state after the exchange, before the core is offered its next swap. -/
def exchanged (s : State) (key : Nat) : State := countPmc (s.setCore key (swappedCore (s.core key))) key (some (s.core key).active) 14 1

theorem core_exchanged (s : State) (key : Nat) : ∃ v w, (exchanged s key).core key = { swappedCore (s.core key) with pmc := v, pmcsel := w } := by
  obtain ⟨v, w, h⟩ := countPmc_core (s.setCore key (swappedCore (s.core key))) key (some (s.core key).active) 14 1
  exact ⟨v, w, by rw [exchanged, h, State.core_setCore_same]⟩

theorem ctx_exchanged (s : State) (key : Nat) (n : Bool) : (exchanged s key).ctx key n = (swappedCore (s.core key)).ctx n := by
  rw [exchanged, ctx_countPmc, State.ctx, State.core_setCore_same]

/-- A swap that brings in a context with nothing to start is the exchange, and the offer of the next swap where the context taken out is idle. -/
theorem swapDone_eq {s : State} {key : Nat} (h : ((s.core key).ctx (!(s.core key).active)).st ≠ .idle ∨ ((s.core key).ctx (!(s.core key).active)).inbox = []) :
    swapDone s key = if ((s.core key).ctx (s.core key).active).st == .idle then offerSwap (exchanged s key) key else exchanged s key := by
  have served : serveInbox (exchanged s key) key (!(s.core key).active) = exchanged s key := by
    refine serveInbox_nothing ?_
    rw [ctx_exchanged, ctx_swappedCore_in]
    refine h.imp_left fun hi => ?_
    rwa [← beq_eq_false_iff_ne, st_swappedIn_idle, beq_eq_false_iff_ne]
  change (if ((serveInbox (exchanged s key) key (!(s.core key).active)).ctx key (s.core key).active).st == .idle
    then offerSwap (serveInbox (exchanged s key) key (!(s.core key).active)) key else serveInbox (exchanged s key) key (!(s.core key).active)) = _
  rw [served, ctx_exchanged, ctx_swappedCore_out, st_swappedOut_idle]

/-- Whether the context taken out takes the pipeline back at once: it is idle and has a record, and the one brought in has no work. -/
def swapsBack (c : Core) : Bool :=
  (c.ctx c.active).st == .idle && (c.ctx (!c.active)).st == .idle && !(c.ctx c.active).vac && !(c.ctx c.active).inbox.isEmpty

/-- After the exchange of two contexts, the one brought in offers the next swap where it has no work and the one taken out has a record. -/
theorem offersSwap_exchanged {d : Core} {x y : Ctx} (hx : d.ctx d.active = swappedIn x) (hy : d.ctx (!d.active) = swappedOut y) (hi : y.st = .idle)
    (h : x.st ≠ .idle ∨ x.inbox = []) : offersSwap d = (x.st == .idle && !y.vac && !y.inbox.isEmpty) := by
  have idle : ((swappedOut y).st == .idle) = true := by rw [st_swappedOut_idle, hi]; rfl
  have unready : ((swappedOut y).st == .ready) = false := by rw [eq_of_beq idle]; rfl
  rw [offersSwap, hx, hy, st_swappedIn_idle, idle, unready]
  rcases h with h | h
  · simp [beq_eq_false_iff_ne.mpr h]
  · simp [swappedIn, swappedOut, h]

/-- The core after a swap. -/
theorem core_swapDone {s : State} {key : Nat} {c : Core} (hc : c = s.core key) (h : (c.ctx (!c.active)).st ≠ .idle ∨ (c.ctx (!c.active)).inbox = []) :
    ∃ v w, (swapDone s key).core key = { swappedCore c with pmc := v, pmcsel := w, swapping := swapsBack c } := by
  subst hc
  obtain ⟨v, w, core⟩ := core_exchanged s key
  refine ⟨v, w, ?_⟩
  rw [swapDone_eq h]
  split
  · next hi =>
    have offers := offersSwap_exchanged (d := (exchanged s key).core key) (by rw [core]; exact ctx_swappedCore_in _)
      (by rw [core]; exact (congrArg _ (Bool.not_not _)).trans (ctx_swappedCore_out _)) (eq_of_beq hi) h
    have back : swapsBack (s.core key) = offersSwap ((exchanged s key).core key) := by rw [offers, swapsBack, hi, Bool.true_and]
    rw [core_offerSwap, back, core]
    exact congrArg (fun b => { swappedCore (s.core key) with pmc := v, pmcsel := w, swapping := b }) (Bool.or_false _)
  · next hi =>
    have stays : swapsBack (s.core key) = false := by simp [swapsBack, hi]
    rw [core, stays]
    rfl

/-- What a swap leaves: every other core and all of memory. -/
theorem swapDone_frame {s : State} {key : Nat} (h : ((s.core key).ctx (!(s.core key).active)).st ≠ .idle ∨ ((s.core key).ctx (!(s.core key).active)).inbox = []) :
    (swapDone s key).mem = s.mem ∧ ∀ k, k ≠ key → (swapDone s key).core k = s.core k := by
  have away (k : Nat) (hk : k ≠ key) : (exchanged s key).core k = s.core k := by
    rw [exchanged, countPmc, State.modCore, State.core_setCore_other _ _ hk, State.core_setCore_other _ _ hk]
  rw [swapDone_eq h]
  split
  · exact ⟨mem_offerSwap .., fun k hk => (core_offerSwap_other _ hk).trans (away k hk)⟩
  · exact ⟨rfl, away⟩

/-- What the two contexts of a core keep through a swap. -/
theorem swappedCore_keeps (c : Core) (n : Bool) : ∃ st blocked feArr parked,
    (swappedCore c).ctx n = { c.ctx n with st, blocked, feArr, parked } := by
  by_cases hn : n = c.active
  · rw [hn, ctx_swappedCore_out]; exact ⟨_, _, _, _, rfl⟩
  · rw [Bool.eq_not.mpr hn, ctx_swappedCore_in]; exact ⟨_, _, _, _, rfl⟩

/-! ### Command links (R97, R98) -/

@[simp] theorem link_setLink_same (s : State) (l : Nat) (x : CmdLink) : (s.setLink l x).link l = x := tget_tset_same ..

theorem toNat_inc16 (c : BitVec 16) : (inc16 c).toNat = min (c.toNat + 1) 0xFFFF := by
  rw [inc16, BitVec.toNat_ofNat]; omega

/-- Where one side of a link holds nothing that it could send, its side stays. -/
theorem nothing_held {p : Nat} {α : Type} {held : List α} (h : p = 0 ∨ held = []) : min p held.length = 0 := by
  rcases h with h | h <;> simp [h]

/-- Permits and buffered messages stay as many together: k messages are taken, and d held ones go. -/
theorem permits_balance {α : Type} (p n d : Nat) (buf held : List α) (hd : d = min (p + min n buf.length) held.length) :
    p + min n buf.length - d + (buf.drop (min n buf.length) ++ held.take d).length = p + buf.length := by
  simp only [List.length_append, List.length_drop, List.length_take]
  omega

theorem drop_min_length {α : Type} (n : Nat) (l : List α) : l.drop (min n l.length) = l.drop n := by
  rcases Nat.le_total n l.length with h | h
  · rw [Nat.min_eq_left h]
  · rw [Nat.min_eq_right h, List.drop_length, List.drop_eq_nil_of_le h]

/-! ### Fault packets (R234) -/

theorem execFaultPacketArrive_cons {s : State} {key : Nat} {p : Packet} {ps : List Packet} (h : (s.core key).pktOut = p :: ps) :
    exec (.faultPacketArrive key) s = .next (if (s.cluster (clusterOf key)).faults.length < 64 then
      (s.modCore key fun c => { c with pktOut := ps }).modCluster (clusterOf key) fun c => { c with faults := c.faults ++ [p] } else s) := by
  change execFaultPacketArrive key s = _
  rw [execFaultPacketArrive, h]

/-- Settles O37: a swap is the exchange of two contexts and perhaps the offer of the next; a link's step changes its own entry, and a packet's its
core and its leaf's queue. -/
theorem swapsAndLinks : Obligations.SwapsAndLinks := by
  refine ⟨?begins, ?stays, ?idle, ?ends, ?held, ?message, ?permits, ?packet⟩
  case begins =>
    intro s key c hc ha hs hb hr hw
    subst hc
    refine execAutoSwap_begins ?_
    simp [autoDue, blockLimit, ha, hs, hr, hw]
    omega
  case stays =>
    intro s key h
    refine execAutoSwap_stays ?_
    rcases h with h | h | h | h
    · simp [autoDue, h]
    · simp [autoDue, h]
    · simp [autoDue, h]
    · have short : decide (blockLimit (s.core key) < ((s.core key).ctx (s.core key).active).blocked) = false := decide_eq_false (Nat.not_lt.mpr h)
      simp only [autoDue, short, Bool.and_false, Bool.false_and]
  case idle => exact fun s key h => execContextSwap_stays (.inl h)
  case ends =>
    intro s key c hc hs hf hi
    obtain ⟨v, w, core⟩ := core_swapDone hc hi
    have ctx (n : Bool) : (swapDone s key).ctx key n = (swappedCore c).ctx n := by rw [State.ctx, core]; cases n <;> rfl
    have brought := (ctx (!c.active)).trans (ctx_swappedCore_in c)
    have taken := (ctx c.active).trans (ctx_swappedCore_out c)
    subst hc
    obtain ⟨mem, other⟩ := swapDone_frame hi
    refine ⟨_, execContextSwap_ends hs hf, by rw [core]; rfl, mem, by rw [core]; rfl, ?_, ?_, ?_, ?_, fun n => ?_, other⟩
    · simp only [brought, swappedIn, beq_iff_eq]
    · simp only [brought, swappedIn, beq_iff_eq]
    · rw [taken]; rfl
    · simp only [taken, swappedOut, beq_iff_eq]
    · obtain ⟨st, blocked, feArr, parked, kept⟩ := swappedCore_keeps (s.core key) n
      rw [ctx, kept]
      exact ⟨rfl, rfl, rfl, rfl, rfl, rfl, rfl⟩
  case held => exact fun s key c hc _ hf => execContextSwap_stays (.inr (hc ▸ hf))
  case message =>
    intro s l m x hx
    subst hx
    refine ⟨fun hp hh => ⟨_, rfl, ?_, rfl, rfl⟩, fun hp hh => ⟨_, rfl, ?_, rfl, rfl⟩, fun h => ⟨_, rfl, ?_⟩, fun h => ⟨_, rfl, ?_⟩⟩
    · simp [hh, Nat.pos_iff_ne_zero.mp hp]
    · simp [hh, Nat.pos_iff_ne_zero.mp hp]
    · have waits : (decide ((s.link l).downPermits = 0) || !(s.link l).downHeld.isEmpty) = true := by simpa using h
      simp only [waits, if_true, link_setLink_same, toNat_inc16]
      exact ⟨trivial, trivial, trivial, trivial, rfl, rfl⟩
    · have waits : (decide ((s.link l).upPermits = 0) || !(s.link l).upHeld.isEmpty) = true := by simpa using h
      simp only [waits, if_true, Bool.false_eq_true, if_false, link_setLink_same, toNat_inc16]
      exact ⟨trivial, trivial, trivial, trivial, rfl, rfl⟩
  case permits =>
    intro s l n d x hx hdown hup
    subst hx
    refine ⟨fun hd => ⟨_, rfl, ?_⟩, fun hd => ⟨_, rfl, ?_⟩⟩
    · simp only [if_true, link_setLink_same, CmdLink.sendHeld, nothing_held hup, ← hd, List.take_zero, List.append_nil]
      exact ⟨by rw [drop_min_length], trivial, permits_balance _ _ _ _ _ hd, trivial, trivial, rfl⟩
    · simp only [Bool.false_eq_true, if_false, link_setLink_same, CmdLink.sendHeld, nothing_held hdown, ← hd, List.take_zero, List.append_nil]
      exact ⟨by rw [drop_min_length], trivial, permits_balance _ _ _ _ _ hd, trivial, trivial, rfl⟩
  case packet =>
    intro s key p ps h
    rw [execFaultPacketArrive_cons h]
    refine ⟨fun hl => ⟨_, rfl, ?_⟩, fun hl => congrArg _ (if_neg (Nat.not_lt.mpr hl))⟩
    rw [if_pos hl]
    have core : ((s.modCore key fun c => { c with pktOut := ps }).core key).pktOut = ps := congrArg Core.pktOut (State.core_modCore_same ..)
    refine ⟨core, congrArg Cluster.faults (cluster_modCluster_same ..), fun k hk => ?_, rfl⟩
    exact State.core_setCore_other _ _ hk

end Sys2Proof.Laws
end

section
/-! PROOFS. The weighted arbiter, and the grants that it decides (R114 to R118, R141, R387, R403, R413). -/

namespace Sys2Proof.Laws

open Sys2Proof Sys2Proof.Machine

/-! ### The decision (R117) -/

theorem satCr_bounds (x : Int) : -2047 ≤ satCr x ∧ satCr x ≤ 2047 := by
  rw [satCr]; omega

theorem satCr_within {x : Int} (h1 : -2047 ≤ x) (h2 : x ≤ 2047) : satCr x = x := by
  rw [satCr]; omega

/-- The candidates of positive weight. -/
def weighted (w : Nat → Nat) (cs : List Nat) : List Nat := cs.filter fun c => 0 < w c

theorem mem_weighted {w : Nat → Nat} {cs : List Nat} {c : Nat} : c ∈ weighted w cs ↔ c ∈ cs ∧ 0 < w c := by
  simp [weighted]

theorem weighted_eq_nil {w : Nat → Nat} {cs : List Nat} : weighted w cs = [] ↔ ∀ c ∈ cs, w c = 0 := by
  simp [weighted]

/-- The credits after every weighted candidate has gained its weight. -/
def gained (w : Nat → Nat) (cr : Nat → Int) (cs : List Nat) (c : Nat) : Int := if c ∈ cs ∧ 0 < w c then satCr (cr c + w c) else cr c

theorem gained_of_mem {w : Nat → Nat} {cr : Nat → Int} {cs : List Nat} {c : Nat} (h : c ∈ weighted w cs) : gained w cr cs c = satCr (cr c + w c) :=
  if_pos (mem_weighted.mp h)

/-- The first of the elements with the greatest value. -/
def firstMax (f : Nat → Int) (a : Nat) (l : List Nat) : Nat := l.foldl (fun b i => if f b < f i then i else b) a

/-- On a rising list it is an element of greatest value, the lowest among equals. -/
theorem firstMax_spec (f : Nat → Int) (a : Nat) (l : List Nat) (h : (a :: l).Pairwise (· < ·)) :
    firstMax f a l ∈ a :: l ∧ ∀ c ∈ a :: l, f c ≤ f (firstMax f a l) ∧ (f c = f (firstMax f a l) → firstMax f a l ≤ c) := by
  induction l generalizing a with
  | nil => simp [firstMax]
  | cons b l ih =>
    rw [List.pairwise_cons] at h
    obtain ⟨below, rising⟩ := h
    have hab : a < b := below b List.mem_cons_self
    by_cases hf : f a < f b
    · have step : firstMax f a (b :: l) = firstMax f b l := by simp [firstMax, hf]
      obtain ⟨mem, best⟩ := ih b rising
      rw [step]
      refine ⟨List.mem_cons_of_mem a mem, fun c hc => ?_⟩
      rcases List.mem_cons.mp hc with rfl | hc
      · have := (best b List.mem_cons_self).1
        exact ⟨by omega, fun he => by omega⟩
      · exact best c hc
    · have step : firstMax f a (b :: l) = firstMax f a l := by simp [firstMax, hf]
      obtain ⟨mem, best⟩ := ih a (List.pairwise_cons.mpr ⟨fun c hc => below c (List.mem_cons_of_mem b hc), (List.pairwise_cons.mp rising).2⟩)
      obtain ⟨most, least⟩ := best a List.mem_cons_self
      rw [step]
      refine ⟨?_, fun c hc => ?_⟩
      · rcases List.mem_cons.mp mem with h | h
        · rw [h]; exact List.mem_cons_self
        · exact List.mem_cons_of_mem a (List.mem_cons_of_mem b h)
      · rcases List.mem_cons.mp hc with rfl | hc
        · exact ⟨most, least⟩
        · rcases List.mem_cons.mp hc with rfl | hc
          · exact ⟨by omega, fun he => by have := least (by omega); omega⟩
          · exact best c (List.mem_cons_of_mem a hc)

/-- The positions in the order of turns after a last winner. -/
def turnsAfter (n last : Nat) : List Nat := (List.range n).map fun i => (last + 1 + i) % n

/-- The place of a position in that order. -/
theorem turn_of_place {n last i : Nat} (hl : last < n) (hi : i < n) : ((last + 1 + i) % n + n - last - 1) % n = i := by
  rcases Nat.lt_or_ge (last + 1 + i) n with h | h
  · rw [Nat.mod_eq_of_lt h, show last + 1 + i + n - last - 1 = i + n by omega, Nat.add_mod_right, Nat.mod_eq_of_lt hi]
  · rw [Nat.mod_eq_sub_mod h, Nat.mod_eq_of_lt (by omega : last + 1 + i - n < n), show last + 1 + i - n + n - last - 1 = i by omega, Nat.mod_eq_of_lt hi]

theorem place_of_turn {n last c : Nat} (hl : last < n) (hc : c < n) : (last + 1 + (c + n - last - 1) % n) % n = c := by
  rcases Nat.lt_or_ge last c with h | h
  · rw [show c + n - last - 1 = c - last - 1 + n by omega, Nat.add_mod_right, Nat.mod_eq_of_lt (by omega : c - last - 1 < n),
      show last + 1 + (c - last - 1) = c by omega, Nat.mod_eq_of_lt hc]
  · rw [Nat.mod_eq_of_lt (by omega : c + n - last - 1 < n), show last + 1 + (c + n - last - 1) = c + n by omega, Nat.add_mod_right, Nat.mod_eq_of_lt hc]

theorem mem_turnsAfter {n last c : Nat} (hl : last < n) (hc : c < n) : c ∈ turnsAfter n last :=
  List.mem_map.mpr ⟨(c + n - last - 1) % n, List.mem_range.mpr (Nat.mod_lt _ (by omega)), place_of_turn hl hc⟩

/-- The first candidate in the order of turns. -/
theorem find_turnsAfter {n last i : Nat} {cs : List Nat} (hc : ∀ c ∈ cs, c < n) (hl : last < n) (h : (turnsAfter n last).find? (cs.contains ·) = some i) :
    i ∈ cs ∧ ∀ c ∈ cs, (i + n - last - 1) % n ≤ (c + n - last - 1) % n := by
  obtain ⟨found, k, hk, rfl, before⟩ := List.find?_eq_some_iff_getElem.mp h
  have hn : k < n := by simpa [turnsAfter] using hk
  have turn (j : Nat) (hj : j < (turnsAfter n last).length) : (turnsAfter n last)[j] = (last + 1 + j) % n := by simp [turnsAfter]
  refine ⟨by simpa using found, fun c hm => ?_⟩
  rw [turn k hk, turn_of_place hl hn]
  refine Nat.not_lt.mp fun earlier => ?_
  have absent := before _ earlier
  rw [turn _ (Nat.lt_trans earlier hk), place_of_turn hl (hc c hm)] at absent
  simp [hm] at absent

/-- With a weighted candidate, the winner is the first of greatest credit, and pays. -/
theorem decideCr_weighted {n : Nat} {w : Nat → Nat} {cr : Nat → Int} {last : Nat} {cs : List Nat} {cost : Nat → Nat} {a : Nat} {l : List Nat}
    (h : weighted w cs = a :: l) : ∃ i, i = firstMax (gained w cr cs) a l ∧ decideCr n w cr last cs cost =
      some (i, fun c => if c = i then satCr (gained w cr cs i - ((weighted w cs).map w).sum * cost i) else gained w cr cs c, last) := by
  refine ⟨_, rfl, ?_⟩
  have hp : (cs.filter fun i => decide (0 < w i)) = a :: l := h
  have credit (i : Nat) : (if (a :: l).contains i then satCr (cr i + w i) else cr i) = gained w cr cs i := by
    simp only [gained, List.contains_iff_mem, ← h, mem_weighted]
  have first : (a :: l).foldl (fun b i => if gained w cr cs b < gained w cr cs i then i else b) a = firstMax (gained w cr cs) a l := by
    simp [firstMax]
  simp only [decideCr, hp, h, credit, first, List.isEmpty_cons, Bool.false_eq_true, if_false, List.headD_cons]

/-- With none, the winner is the next candidate in the order of turns, and no credit changes. -/
theorem decideCr_unweighted {n : Nat} {w : Nat → Nat} {cr : Nat → Int} {last : Nat} {cs : List Nat} {cost : Nat → Nat} (h : weighted w cs = []) :
    decideCr n w cr last cs cost = ((turnsAfter n last).find? (cs.contains ·)).map fun i => (i, cr, i) := by
  have hp : (cs.filter fun i => decide (0 < w i)) = [] := h
  simp only [decideCr, hp, List.isEmpty_nil, if_true, turnsAfter]

theorem decideCr_none {n : Nat} {w : Nat → Nat} {cr : Nat → Int} {last : Nat} {cs : List Nat} {cost : Nat → Nat} (hc : ∀ c ∈ cs, c < n) (hl : last < n) :
    decideCr n w cr last cs cost = none ↔ cs = [] := by
  rcases h : weighted w cs with _ | ⟨a, l⟩
  · rw [decideCr_unweighted h, Option.map_eq_none_iff, List.find?_eq_none]
    refine ⟨fun none => List.eq_nil_iff_forall_not_mem.mpr fun c hm => none c (mem_turnsAfter hl (hc c hm)) (by simpa using hm), fun e => by simp [e]⟩
  · obtain ⟨i, -, decided⟩ := decideCr_weighted (n := n) (cr := cr) (last := last) (cost := cost) h
    have some : a ∈ cs := (mem_weighted.mp (h ▸ List.mem_cons_self)).1
    exact ⟨fun none => by simp [decided] at none, fun e => by simp [e] at some⟩

/-- The arbiter's decision, in the words of R117. -/
theorem decideCr_decides {n : Nat} {w : Nat → Nat} {cr cr2 : Nat → Int} {last i last2 : Nat} {cs : List Nat} {cost : Nat → Nat} (hc : ∀ c ∈ cs, c < n)
    (hl : last < n) (hs : cs.Pairwise (· < ·)) (h : decideCr n w cr last cs cost = some (i, cr2, last2)) : i ∈ cs
    ∧ ((∃ c ∈ cs, 0 < w c) → 0 < w i ∧ last2 = last
      ∧ (∀ c ∈ cs, 0 < w c → satCr (cr c + w c) ≤ satCr (cr i + w i) ∧ (satCr (cr c + w c) = satCr (cr i + w i) → i ≤ c))
      ∧ cr2 i = satCr (satCr (cr i + w i) - ((cs.filter fun c => 0 < w c).map w).sum * cost i)
      ∧ (∀ c, c ≠ i → cr2 c = if c ∈ cs ∧ 0 < w c then satCr (cr c + w c) else cr c))
    ∧ ((∀ c ∈ cs, w c = 0) → cr2 = cr ∧ last2 = i ∧ ∀ c ∈ cs, (i + n - last - 1) % n ≤ (c + n - last - 1) % n) := by
  rcases hw : weighted w cs with _ | ⟨a, l⟩
  · have zero := weighted_eq_nil.mp hw
    rw [decideCr_unweighted hw, Option.map_eq_some_iff] at h
    obtain ⟨j, found, e⟩ := h
    obtain ⟨rfl, rfl, rfl⟩ : j = i ∧ cr = cr2 ∧ j = last2 := by simpa using e
    obtain ⟨mem, next⟩ := find_turnsAfter hc hl found
    exact ⟨mem, fun ⟨c, hm, hp⟩ => absurd (zero c hm) (by omega), fun _ => ⟨rfl, rfl, next⟩⟩
  · obtain ⟨j, first, decided⟩ := decideCr_weighted (n := n) (cr := cr) (last := last) (cost := cost) hw
    rw [decided] at h
    obtain ⟨rfl, rfl, rfl⟩ : j = i ∧ _ = cr2 ∧ last = last2 := by simpa only [Option.some.injEq, Prod.mk.injEq] using h
    obtain ⟨mem, best⟩ := firstMax_spec (gained w cr cs) a l (hw ▸ hs.sublist List.filter_sublist)
    rw [← first, ← hw] at mem best
    have pays : gained w cr cs j = satCr (cr j + w j) := gained_of_mem mem
    obtain ⟨candidate, positive⟩ := mem_weighted.mp mem
    refine ⟨candidate, fun _ => ⟨positive, rfl, fun c hm hp => ?_, ?_, fun c hn => if_neg hn⟩, fun zero => absurd (zero j candidate) (by omega)⟩
    · have hcw := mem_weighted.mpr ⟨hm, hp⟩
      have := best c hcw
      rwa [gained_of_mem hcw, pays] at this
    · rw [← pays]
      exact if_pos rfl

/-! ### The grants of a quad (R115 to R118, R141, R387, R403) -/

/-- The positions of a quad whose heads are candidates: for a lane group, or for the MXU. -/
def candidates (s : State) (quad : Nat) (m : Bool) : List Nat := (List.range 4).filter fun i => (candidate s (quad * 4 + i) m).isSome

theorem candidates_lt {s : State} {quad : Nat} {m : Bool} : ∀ i ∈ candidates s quad m, i < 4 :=
  fun _ h => List.mem_range.mp (List.mem_filter.mp h).1

/-- The decision on a lane group. -/
def laneDecision (s : State) (quad : Nat) : Option (Nat × (Nat → Int) × Nat) :=
  decideCr 4 (weightOf (s.quad quad)) (fun i => (s.quad quad).laneCr.get (Fin.ofNat 4 i)) (s.quad quad).laneLast.val (candidates s quad false) fun i =>
    match candidate s (quad * 4 + i) false with | some e => quarterCost e.op.instr | none => 1

/-- The decision on the MXU. -/
def mxuDecision (s : State) (quad : Nat) : Option (Nat × (Nat → Int) × Nat) :=
  decideCr 4 (weightOf (s.quad quad)) (fun i => (s.quad quad).mxuCr.get (Fin.ofNat 4 i)) (s.quad quad).mxuLast.val (candidates s quad true) fun i =>
    match candidate s (quad * 4 + i) true with | some e => mxuCost e.op | none => 1

theorem laneDecision_none {s : State} {quad : Nat} (h : candidates s quad false = []) : laneDecision s quad = none :=
  (decideCr_none candidates_lt (Fin.isLt _)).mpr h

theorem mxuDecision_none {s : State} {quad : Nat} (h : candidates s quad true = []) : mxuDecision s quad = none :=
  (decideCr_none candidates_lt (Fin.isLt _)).mpr h

/-- A lane group's arbiter after its decision: the winner's quarter is counted. -/
def laneWon (s : State) (quad i : Nat) (cr : Nat → Int) (last : Nat) (e : VEntry) : State :=
  countPmc (s.setQuad quad { s.quad quad with laneCr := crVec cr, laneLast := Fin.ofNat 4 last }) (quad * 4 + i) none 3 (quarterCost e.op.instr)

/-- The MXU's arbiter after its decision. -/
def mxuWon (s : State) (quad i : Nat) (cr : Nat → Int) (last : Nat) : State :=
  countPmc (s.setQuad quad { s.quad quad with mxuCr := crVec cr, mxuLast := Fin.ofNat 4 last }) (quad * 4 + i) none 4 1

section
variable {s u : State} {quad i last : Nat} {cr : Nat → Int} {e : VEntry}

theorem execLaneGroupGrant_withheld (hu : u = prelude s quad) (h : withheld u quad = true) : exec (.laneGroupGrant quad) s = .next u := by
  change Host.Outcome.next (grantLane s quad) = _
  rw [grantLane, ← hu, if_pos h]

/-- A cycle that is not withheld grants what the decision says. -/
theorem execLaneGroupGrant_decides (hu : u = prelude s quad) (h : withheld u quad = false) :
    exec (.laneGroupGrant quad) s = .next (match laneDecision u quad with
      | none => u
      | some (i, cr, last) =>
        match candidate u (quad * 4 + i) false with
        | none => u
        | some e =>
          if e.quarters + 1 < 4 then
            (laneWon u quad i cr last e).modCore (quad * 4 + i) fun c => { c with vq := { e with quarters := e.quarters + 1 } :: c.vq.drop 1 }
          else endVector ((laneWon u quad i cr last e).modCore (quad * 4 + i) fun c => { c with vq := c.vq.drop 1 }) (quad * 4 + i) e) := by
  change Host.Outcome.next (grantLane s quad) = _
  rw [grantLane, ← hu, if_neg (by simp [h])]
  rfl

theorem execLaneGroupGrant_idle (hu : u = prelude s quad) (h : withheld u quad = false) (hc : candidates u quad false = []) :
    exec (.laneGroupGrant quad) s = .next u := by
  rw [execLaneGroupGrant_decides hu h, laneDecision_none hc]

theorem execLaneGroupGrant_quarter (hu : u = prelude s quad) (h : withheld u quad = false) (hd : laneDecision u quad = some (i, cr, last))
    (he : candidate u (quad * 4 + i) false = some e) (hq : e.quarters < 3) : exec (.laneGroupGrant quad) s = .next
      ((laneWon u quad i cr last e).modCore (quad * 4 + i) fun c => { c with vq := { e with quarters := e.quarters + 1 } :: c.vq.drop 1 }) := by
  rw [execLaneGroupGrant_decides hu h, hd]
  simp only [he]
  rw [if_pos (by omega)]

theorem execLaneGroupGrant_last (hu : u = prelude s quad) (h : withheld u quad = false) (hd : laneDecision u quad = some (i, cr, last))
    (he : candidate u (quad * 4 + i) false = some e) (hq : 3 ≤ e.quarters) : exec (.laneGroupGrant quad) s = .next
      (endVector ((laneWon u quad i cr last e).modCore (quad * 4 + i) fun c => { c with vq := c.vq.drop 1 }) (quad * 4 + i) e) := by
  rw [execLaneGroupGrant_decides hu h, hd]
  simp only [he]
  rw [if_neg (by omega)]

theorem execMxuGrant_eq (hu : u = advanceEpi (prelude s quad) quad) : exec (.mxuGrant quad) s = .next (match mxuHead u quad with
    | some (key, e) => stepMatrix u quad key e
    | none =>
      if withheld u quad then u
      else
        match mxuDecision u quad with
        | none => u
        | some (i, cr, last) =>
          match candidate u (quad * 4 + i) true with
          | none => u
          | some e => stepMatrix (mxuWon u quad i cr last) quad (quad * 4 + i) e) := by
  change Host.Outcome.next (grantMxu s quad) = _
  unfold grantMxu
  rw [← hu]
  rfl

theorem execMxuGrant_goesOn {key : Nat} (hu : u = advanceEpi (prelude s quad) quad) (hh : mxuHead u quad = some (key, e)) :
    exec (.mxuGrant quad) s = .next (stepMatrix u quad key e) := by
  rw [execMxuGrant_eq hu, hh]

theorem execMxuGrant_withheld (hu : u = advanceEpi (prelude s quad) quad) (hh : mxuHead u quad = none) (h : withheld u quad = true) :
    exec (.mxuGrant quad) s = .next u := by
  simp only [execMxuGrant_eq hu, hh, h, if_true]

theorem execMxuGrant_decides (hu : u = advanceEpi (prelude s quad) quad) (hh : mxuHead u quad = none) (h : withheld u quad = false) :
    exec (.mxuGrant quad) s = .next (match mxuDecision u quad with
      | none => u
      | some (i, cr, last) =>
        match candidate u (quad * 4 + i) true with
        | none => u
        | some e => stepMatrix (mxuWon u quad i cr last) quad (quad * 4 + i) e) := by
  simp only [execMxuGrant_eq hu, hh, h, Bool.false_eq_true, if_false]

theorem execMxuGrant_idle (hu : u = advanceEpi (prelude s quad) quad) (hh : mxuHead u quad = none) (h : withheld u quad = false)
    (hc : candidates u quad true = []) : exec (.mxuGrant quad) s = .next u := by
  rw [execMxuGrant_decides hu hh h, mxuDecision_none hc]

theorem execMxuGrant_takes (hu : u = advanceEpi (prelude s quad) quad) (hh : mxuHead u quad = none) (h : withheld u quad = false)
    (hd : mxuDecision u quad = some (i, cr, last)) (he : candidate u (quad * 4 + i) true = some e) :
    exec (.mxuGrant quad) s = .next (stepMatrix (mxuWon u quad i cr last) quad (quad * 4 + i) e) := by
  rw [execMxuGrant_decides hu hh h, hd]
  simp only [he]

end

/-! ### Heads and what the MXU does with them -/

/-- The head of one core on which the MXU's decision has fallen. -/
theorem mxuHead_some {s : State} {quad key : Nat} {e : VEntry} (h : mxuHead s quad = some (key, e)) :
    key ∈ quadCores quad ∧ (s.core key).vq.head? = some e ∧ isMatrix e.op.instr = true ∧ (e.won = true ∨ e.quarters ≠ 0) := by
  obtain ⟨k, mem, found⟩ := List.exists_of_findSome?_eq_some h
  rcases hq : (s.core k).vq with _ | ⟨x, xs⟩
  · simp [hq] at found
  · simp only [hq, Option.ite_none_right_eq_some, Option.some.injEq, Prod.mk.injEq] at found
    obtain ⟨begun, rfl, rfl⟩ := found
    refine ⟨mem, by rw [hq]; rfl, by simpa using begun⟩

theorem quad_of_quadCores {quad key : Nat} (h : key ∈ quadCores quad) : key / 4 = quad := by
  obtain ⟨i, hi, rfl⟩ := List.mem_map.mp h
  have := List.mem_range.mp hi
  omega

theorem candidate_some {s : State} {key : Nat} {m : Bool} {e : VEntry} (h : candidate s key m = some e) :
    (s.core key).vq.head? = some e ∧ isMatrix e.op.instr = m ∧ (e.dead = true ∨ headReady s key e = true) := by
  rcases hq : (s.core key).vq with _ | ⟨x, xs⟩
  · simp [candidate, hq] at h
  · simp only [candidate, hq, Option.ite_none_right_eq_some, Option.some.injEq] at h
    obtain ⟨ready, rfl⟩ := h
    exact ⟨rfl, by simpa using ready⟩

section
variable {s u : State} {quad key : Nat} {e x : VEntry}

theorem stepMatrix_full (h : epiFull s quad e = true) : stepMatrix s quad key e = setHead s key { e with won := true } := if_pos h

theorem stepMatrix_noTile (h : epiFull s quad e = false) (hb : bLen e.op = 0) : stepMatrix s quad key e = takeMatrix s key e := by
  rw [stepMatrix, if_neg (by simp [h]), if_pos hb]

/-- A product reads pieces of its B tile, its first grant having begun it. -/
theorem stepMatrix_reads (h : epiFull s quad e = false) (hb : bLen e.op ≠ 0) (hx : (u, x) = if e.quarters = 0 then beginMatrix s key e else (s, e)) :
    stepMatrix s quad key e = if (readB u key x).btodo = [] then takeMatrix u key (readB u key x) else setHead u key (readB u key x) := by
  rw [stepMatrix, if_neg (by simp [h]), if_neg hb, ← hx]
  simp only [List.isEmpty_iff]

end

theorem withheld_iff (s : State) (quad : Nat) : withheld s quad = true ↔ levelOf s quad < 16 ∧ levelOf s quad ≤ (s.quad quad).rampPhase % 16 := by
  simp [withheld]

/-- Settles O36: the decision is `decideCr`'s, and a grant is one decision, one step of the head that it falls on. -/
theorem arbiterAndGrants : Obligations.ArbiterAndGrants := by
  refine ⟨⟨fun n w cr cr2 last i last2 cs cost hc hl hs h => decideCr_decides hc hl hs h, fun n w cr last cs cost hc hl => decideCr_none hc hl,
    fun x => ⟨(satCr_bounds x).1, (satCr_bounds x).2, satCr_within⟩⟩, ?lane, ?mxu, ?head, ?step, ?ramp, ?candidate, ?quadw, ?engshr⟩
  case lane =>
    rintro s u quad q hu hw rfl cs cost rfl rfl
    refine ⟨execLaneGroupGrant_idle hu hw, ?_⟩
    rintro i cr last key e hd rfl he v rfl
    exact ⟨execLaneGroupGrant_quarter hu hw hd he, execLaneGroupGrant_last hu hw hd he⟩
  case mxu =>
    rintro s u quad q hu rfl
    refine ⟨fun key e => execMxuGrant_goesOn hu, execMxuGrant_withheld hu, ?_⟩
    rintro hh hw cs cost rfl rfl
    refine ⟨execMxuGrant_idle hu hh hw, ?_⟩
    rintro i cr last key e hd rfl he
    exact execMxuGrant_takes hu hh hw hd he
  case head =>
    intro s quad key e h
    obtain ⟨mem, head⟩ := mxuHead_some h
    exact ⟨quad_of_quadCores mem, head⟩
  case step =>
    intro s quad key e
    refine ⟨stepMatrix_full, stepMatrix_noTile, ?_, rfl⟩
    rintro u x y hf hb begins goesOn rfl
    have reads := stepMatrix_reads (key := key) (u := u) (x := x) hf hb (by
      split
      · next h => exact begins h
      · next h => obtain ⟨rfl, rfl⟩ := goesOn h; rfl)
    exact ⟨fun h => reads.trans (if_pos h), fun h => reads.trans (if_neg h)⟩
  case ramp => exact fun s quad => ⟨execLaneGroupGrant_withheld rfl, withheld_iff s quad⟩
  case candidate => exact fun s key m e => candidate_some
  case quadw =>
    intro s quad v
    exact ⟨_, rfl, rfl, fun i => ⟨by simp [Vector.get_eq_getElem], by simp [Vector.get_eq_getElem]⟩, rfl, rfl, rfl⟩
  case engshr =>
    intro s tw v
    refine congrArg Host.Outcome.next ?_
    rw [writeEngshr, ofNat_bitsAt, ofNat_bitsAt]

end Sys2Proof.Laws
end

section
/-! PROOFS. A full/empty form that waits at its home with its place, while the next form of the word's own core arrives (R202, R331). -/

namespace Sys2Proof.Laws

open Sys2Proof Sys2Proof.Machine

/-- An LDW of core 1 that waits at the first word of core 0's scratchpad, its place 2 in the arrival order. -/
def placedLdw : Req := { id := 1, key := 1, ctx := false, kind := .fe .ldw (locSpm 0 0) 0, loc := locSpm 0 0, cls := some .clu, arr := some 2 }

/-- That request is under way, and `ldw g4, [g3 + 16]` is core 0's next instruction: it arrives at its word in the next turn that looks there. -/
def ownFormNext : State := { State.reset.withFetchWord 64 0x0000100010C40109 with fabric := [placedLdw], nextId := 3 }

/-- In the turn of the request, which must wait itself, that form arrives and takes a place. -/
theorem writePerform_ownFormNext : ∃ t, exec (.writePerform 1) ownFormNext = .next t ∧ t.nextId = 4 := ⟨_, rfl, by decide⟩

/-- Refutes O32: for a full/empty form that has its place already (`r.arr = some n`) the statement lets the turn start from `s`, where the model has
the next form of the word's own core arrive first (`noteArrival`, R331), as the statement itself says of a form without a place. In `ownFormNext` that
arrival takes the place 3, and the statement's next state has `nextId` 3 where the model's has 4. -/
theorem not_performingWrites : ¬ Obligations.PerformingWrites := by
  intro h
  obtain ⟨-, -, performed, -⟩ := h
  obtain ⟨-, -, -, fe⟩ := performed ownFormNext placedLdw rfl rfl rfl rfl rfl
  obtain ⟨waits, -, -⟩ := fe rfl .ldw (locSpm 0 0) 0 2 (putReq ownFormNext placedLdw) (noteArrival ownFormNext 0) placedLdw rfl
    (fun o d ho => by
      have place : spmOfLoc (locSpm 0 0) = some (0, 0) := by decide
      rw [place, Option.some.injEq, Prod.mk.injEq] at ho
      rw [← ho.1])
    (fun none => absurd none (by decide)) (.inl ⟨rfl, rfl, rfl⟩)
  have claimed : exec (.writePerform 1) ownFormNext = .next (putReq ownFormNext placedLdw) := waits (by decide)
  obtain ⟨t, steps, id⟩ := writePerform_ownFormNext
  have same : t = putReq ownFormNext placedLdw := Host.Outcome.next.inj (steps.symm.trans claimed)
  have before : (putReq ownFormNext placedLdw).nextId = 3 := rfl
  rw [same, before] at id
  exact absurd id (by decide)

end Sys2Proof.Laws
end

section
/-! PROOFS. Fetch faults, stopped clocks, predication and agents (R93, R229, R266 to R268, R274, R289). -/

namespace Sys2Proof.Laws

open Sys2Proof Sys2Proof.Machine

/-! ### How an instruction of a program is tried (R153, R274, R289) -/

/-- An attempt to issue: a remote full/empty form blocks its context (R331), and an agent that does not run the instruction raises ILLOP (R289). -/
def attempt (w : Where) (s : State) (k : Exec (State × Flow)) : Exec (State × Flow) := do
  blockFor (!s.feDue)
  raiseIf (!w.ok s.focus) fIllop
  k

/-- The same of an instruction that is predicated as a whole: with no bit of its predicate set it falls through (R274). -/
def attemptIf (w : Where) (c : Com) (s : State) (k : Exec (State × Flow)) : Exec (State × Flow) := attempt w s do
  waitFor (!s.predBusy c.pred.p)
  if s.predMask c.pred = 0 then return (s, .fall) else k

/-- What an instruction of a program does is an attempt to issue, predicated as a whole or not, on the agents that run it. -/
inductive Tried (s : State) (o : Host.Outcome State Fault Refusal) : Where → Option Com → Prop
  | whole {w : Where} {c : Com} (k : Exec (State × Flow)) (h : o = settle s (attemptIf w c s k)) : Tried s o w (some c)
  | always {w : Where} (k : Exec (State × Flow)) (h : o = settle s (attempt w s k)) : Tried s o w none

theorem exec_tried {i : Instr} {w : Where} (h : runsOn i = some w) (s : State) : Tried s (exec i s) w (wholePred i) := by
  cases i
  -- group 5
  case mbld | mma | mmaRa | mmar | mzero | mtld | mtldRb | mepi96 | mepi128 | macc => cases h; exact .whole _ rfl
  -- group 4
  case vld | vst | vldl | vstl | vgath | vscat | vadd | vsub | vmul | vmin | vmax | vabs | vneg | vfma | vand | vor | vxor | vandn | vshl
      | vshr | vsra | vcmp | vsel | vcvt | vbcast | vext | vred | vscan | vwadd | vwmul | vdot | vperm | vshuf | vslide | vpand | vpor
      | vpnot | vpcnt | vbs | vunbs | vrcp | vrsq | vexp2 => cases h; exact .always _ rfl
  -- the settings of views
  case vwsetReg | vwsetImm | vwadv | mbsetReg | mbsetImm => cases h; exact .always _ rfl
  -- scalar instructions
  case nop | br | brc | brz | brnz | brpAny | brpAll | call | callr | ret | jmpr | loop | end_ | trap | brk | add | sub | and | or | xor
      | andn | shl | shr | sra | rotl | min | max | minz | maxz | addi | andi | ori | xori | shli | shri | srai | mul | mulh | mulhz
      | div | divz | rem | remz | clz | ctz | popc | sext | zext | sel | setc | lea | bfx | bfi | ffma | fsqrt | fcvt | ld | st | ldw
      | lde | stw | stf | fesetE | fesetF | put | get | putsig | radd | bind | unbind | acq | rel | cntw | amo | amoCas | amofAdd | grpnew
      | grpinit | grpfree | join | leave | sync | sstep | swarm | waitw | waitg | qpoll | msg | srd | swr | tbr | pmcr | patr | patw
      | patwC | prevoke | swap | halt | li24 | li32 | li64 | fadd | fsub | fmul | fmin | fmax | fcmp | fence | stage | forkr | joinc
      | mwait | ldl | ldl2d | ldlz | ewait | ewaitN | rarm | rpourInt | rpourBs | rskim | rbcast | rstat | rdisarm | take | doneg | yieldt
      | bkwake | bkhold | bkoff | bkstat | spkill | dbgrd | dbgwr | resume | redir | kill | fwait => cases h; exact .whole _ rfl
  -- what remains are no instructions of a program
  all_goals exact nomatch h

theorem settle_attempt_elsewhere {w : Where} {s : State} (hf : s.feDue = false) (hw : w.ok s.focus = false) (k : Exec (State × Flow)) :
    settle s (attempt w s k) = .next (takeFault s s.focus s.act fIllop) := by
  rw [attempt, hf, hw]
  rfl

theorem settle_attemptIf_off {w : Where} {c : Com} {s : State} (hf : s.feDue = false) (hw : w.ok s.focus = true) (hb : s.predBusy c.pred.p = false)
    (hp : s.predMask c.pred = 0) (k : Exec (State × Flow)) : settle s (attemptIf w c s k) = .next (retire s) := by
  rw [attemptIf, attempt, hf, hw, hb, if_pos hp]
  rfl

/-- An instruction whose predicate is off moves the PC and does nothing else (R274). -/
theorem Tried.predicated_off {s : State} {o : Host.Outcome State Fault Refusal} {c : Com} {w : Where} (h : Tried s o w (some c))
    (hw : w.ok s.focus = true) (hf : s.feDue = false) (hb : s.predBusy c.pred.p = false) (hp : s.predMask c.pred = 0) : o = .next (retire s) := by
  cases h with
  | whole k h => rw [h, settle_attemptIf_off hf hw hb hp]

/-- One that its agent does not run raises ILLOP (R289). -/
theorem Tried.elsewhere {s : State} {o : Host.Outcome State Fault Refusal} {c : Option Com} {w : Where} (h : Tried s o w c) (hw : w.ok s.focus = false)
    (hf : s.feDue = false) : o = .next (takeFault s s.focus s.act fIllop) := by
  cases h with
  | whole k h => rw [h, attemptIf, settle_attempt_elsewhere hf hw]
  | always k h => rw [h, settle_attempt_elsewhere hf hw]

/-! ### The fetch (R266, R267, R289) -/

section
variable {s : State} {key len : Nat} {pc : BitVec 15}

theorem fetchAt_zeroed (hl : len = (s.byteAt (locIst key pc.toNat)).toNat % 4) (h : len = 0) :
    fetchAt s key pc = .run (.zeroedWordFetch (BitVec.ofNat 128 (s.insnAt key pc))) := if_pos (hl ▸ h)

theorem fetchAt_crossing (hl : len = (s.byteAt (locIst key pc.toNat)).toNat % 4) (h : len ≠ 0) (hx : 32 < pc.toNat % 32 + lenBytes len) :
    fetchAt s key pc = .crossing := by
  rw [fetchAt, ← hl, if_neg h, if_pos hx]

theorem fetchAt_undecoded {e : DecodeError} (hl : len = (s.byteAt (locIst key pc.toNat)).toNat % 4) (h : len ≠ 0)
    (hx : pc.toNat % 32 + lenBytes len ≤ 32) (he : decode (s.insnAt key pc) = .error e) :
    fetchAt s key pc = .run (.unassignedOpcode (BitVec.ofNat 128 (s.insnAt key pc))) := by
  rw [fetchAt, ← hl, if_neg h, if_neg (Nat.not_lt.mpr hx), he]

end

theorem runNext_run {u : State} {i : Instr} (hd : dueTake u = false) (h : fetchAt u u.focus u.cur.pc = .run i) : runNext u = exec i u := by
  rw [runNext, hd, h]
  rfl

theorem runNext_crossing {u : State} (hd : dueTake u = false) (h : fetchAt u u.focus u.cur.pc = .crossing) :
    runNext u = .next (takeFault u u.focus u.act (fIllfetch 1)) := by
  rw [runNext, hd, h]
  rfl

/-- An agent's turn, when it may issue and its clock runs. -/
theorem step_issue {s v u : State} {key : Nat} (hn : nextTurn s = (.issue key, v)) (hh : v.halted = false) (ha : isAgent key = true)
    (hu : u = focusOn v key) (hc : canIssue u = true) (hk : clockStopped u (clusterOf key) = false) : step s = runNext u := by
  rw [step, hn]
  unfold stepTurn
  rw [if_neg (by simp [hh])]
  simp only [stepIssue, ha, ← hu, hc, hk, if_true, Bool.not_false, Bool.and_self]

/-! ### A module whose clocks have stopped (R23, R90, R93) -/

theorem step_halted {s v : State} {t : Turn} (hn : nextTurn s = (t, v)) (hh : v.halted = true) : step s = stepHalted v t := by
  rw [step, hn]
  exact if_pos hh

theorem stepHalted_attest {v : State} (x : Word) : stepHalted v (.event (.attestRequest x)) =
    if v.keysErased then exec (.attestRequest x) v else .next v := rfl

theorem stepHalted_register {v : State} (off : Nat) (x : Word) : stepHalted v (.event (.registerWrite off x)) =
    if v.keysErased && off = 0x300020 then exec (.registerWrite off x) v else .next v := rfl

/-- Every turn but a reset, a write of the host's own memory and a request to the mailbox passes without an effect. -/
theorem stepHalted_passes {v : State} {t : Turn} (hr : t ≠ .event .moduleReset) (hs : ∀ a bs, t ≠ .hostStore a bs)
    (hm : v.keysErased = false ∨ ((∀ x, t ≠ .event (.attestRequest x)) ∧ ∀ x, t ≠ .event (.registerWrite 0x300020 x))) : stepHalted v t = .next v := by
  unfold stepHalted
  split
  · exact absurd rfl hr
  · next x =>
    have kept : v.keysErased = false := hm.resolve_right fun h => h.1 x rfl
    rw [if_neg (by simp [kept])]
  · next off x =>
    refine if_neg fun h => ?_
    obtain ⟨erased, rfl⟩ : v.keysErased = true ∧ off = 0x300020 := by simpa using h
    exact hm.elim (fun h => by simp [erased] at h) fun h => h.2 x rfl
  · next a bs => exact absurd rfl (hs a bs)
  · rfl

/-- Settles O3: a fetch gives one of three faults or an instruction, a stopped module takes three turns, and an instruction of a program is an attempt to
issue, which looks at its agent first and then at its predicate. -/
theorem issueChecksAndFetchFaults : Obligations.IssueChecksAndFetchFaults := by
  refine ⟨⟨?fetch, fun s raw => ⟨rfl, rfl⟩⟩, ?stopped, ?off, ?elsewhere⟩
  case fetch =>
    intro s v u key hn hh ha hu hc hk hd len hl
    rw [step_issue hn hh ha hu hc hk]
    exact ⟨fun h => runNext_run hd (fetchAt_zeroed hl h), fun h hx => runNext_crossing hd (fetchAt_crossing hl h hx),
      fun h hx e he => runNext_run hd (fetchAt_undecoded hl h hx he)⟩
  case stopped =>
    intro s v t hn hh
    rw [step_halted hn hh]
    refine ⟨?_, ?_, ?_, ?_, stepHalted_passes⟩
    · rintro rfl; rfl
    · rintro a bs rfl; rfl
    · rintro x rfl he; rw [stepHalted_attest, if_pos he]
    · rintro x rfl he; rw [stepHalted_register, if_pos (by simp [he])]
  case off => exact fun i s c w hc hr hw hf hb hp => (hc ▸ exec_tried hr s).predicated_off hw hf hb hp
  case elsewhere => exact fun i s w hr hw hf => (exec_tried hr s).elsewhere hw hf

end Sys2Proof.Laws
end

section
/-! PROOFS. The group instructions (R78, R172 to R174, R223, R230, R327, R345, R346): GRPNEW and JOIN ask for a reply, GRPINIT, GRPFREE and LEAVE post,
SYNC, SSTEP and WAITG wait for a release. -/

namespace Sys2Proof.Laws

open Sys2Proof Sys2Proof.Machine

/-! ### Attempts that wait -/

@[simp] theorem blockFor_true : blockFor true = .ok () := rfl

theorem issueFall_waits {w : Where} {c : Com} {s : State} {k : State → State} {m : State → Exec State} (h : Ready w c s)
    (hm : m s = .error (.wait k)) : issueFall w c s m = .next (stay (k s)) := by
  rw [issueFall, issue_ready h, hm]; rfl

theorem issueFall_blocks {w : Where} {c : Com} {s : State} {k : State → State} {m : State → Exec State} (h : Ready w c s)
    (hm : m s = .error (.block k)) : issueFall w c s m = .next (stayBlocked (k s)) := by
  rw [issueFall, issue_ready h, hm]; rfl

/-! ### The group that an instruction names (R345) -/

section
variable {s s1 : State} {a : Use Src} {off : BitVec 12} {x : Word} (hr : readSrc s a.r = .ok (x, s1))
include hr

theorem groupId_eq : groupId s a off = raiseIf (decide (0xFFF < x.toNat + off.toNat)) fGroup >>= fun _ => .ok (x.toNat + off.toNat, x, s1) := by
  rw [groupId, hr]; rfl

theorem groupId_names (hg : x.toNat + off.toNat ≤ 0xFFF) : groupId s a off = .ok (x.toNat + off.toNat, x, s1) := by
  rw [groupId_eq hr, decide_eq_false (Nat.not_lt.mpr hg), raiseIf_false, exec_bind_ok]

theorem groupId_above (hg : 0xFFF < x.toNat + off.toNat) : groupId s a off = .error (.raise fGroup id) := by
  rw [groupId_eq hr, decide_eq_true hg, raiseIf_true, exec_bind_error]

end

/-! ### GRPNEW and JOIN -/

section
variable {s t u : State} {c : Com} {d : Dst} {pre : State → Exec (GroupOpKind × Nat × Word × State)} (h : Ready .any c s) (here : s.cur.away = false)
include h here

theorem groupAsk_answered {v : Word} (ha : s.cur.ask = .answered v) :
    groupAsk c d pre s = .next (completed s (s.modCur fun k => { k with ask := .none })) :=
  issueFall_completes h (by simp only [here, ha, Bool.not_false, blockFor_true, exec_bind_ok]; rfl)

theorem groupAsk_refused (ha : s.cur.ask = .refused) :
    groupAsk c d pre s = .next (takeFault (s.modCur fun k => { k with ask := .none }) s.focus s.act fGroup) :=
  issueFall_raises (k := fun s => s.modCur fun k => { k with ask := .none }) h
    (by simp only [here, ha, Bool.not_false, blockFor_true, exec_bind_ok])

variable (ha : s.cur.ask = .none)
include ha

theorem groupAsk_raises {f : FaultInfo} (hp : pre s = .error (.raise f id)) : groupAsk c d pre s = .next (takeFault s s.focus s.act f) :=
  issueFall_raises (k := id) h (by simp only [here, ha, hp, Bool.not_false, blockFor_true, exec_bind_ok, exec_bind_error])

theorem groupAsk_posts {kind : GroupOpKind} {g : Nat} {opa : Word} (hp : pre s = .ok (kind, g, opa, t)) (hd : holdDst t d = .ok u) :
    groupAsk c d pre s = .next (stay (groupPost (u.modCur fun k => { k with ask := .sent }) kind g opa)) :=
  issueFall_waits (k := fun _ => groupPost (u.modCur fun k => { k with ask := .sent }) kind g opa) h
    (by simp only [here, ha, hp, hd, Bool.not_false, blockFor_true, exec_bind_ok])

end

/-! ### GRPINIT, GRPFREE and LEAVE -/

section
variable {s s1 : State} {c : Com} {kind : GroupOpKind} {cap : Bool} {a : Use Src} {off : BitVec 12} {x : Word} (h : Ready .any c s)
include h

theorem groupSend_unprivileged (hc : s.cur.cap.getLsbD capGrp = false) :
    groupSend c kind true a off s = .next (takeFault s s.focus s.act (fPriv capGrp)) :=
  issueFall_raises (k := id) h (by simp only [needCap_missing hc, if_true, exec_bind_error])

variable (hc : cap = true → s.cur.cap.getLsbD capGrp = true) (hr : readSrc s a.r = .ok (x, s1))
include hc hr

theorem groupSend_posts (hg : x.toNat + off.toNat ≤ 0xFFF) :
    groupSend c kind cap a off s = .next (completed s (groupPost s1 kind (x.toNat + off.toNat) x)) :=
  issueFall_completes h (by cases cap <;> simp [needCap_held, hc, groupId_names hr hg, pure, Except.pure])

theorem groupSend_above (hg : 0xFFF < x.toNat + off.toNat) : groupSend c kind cap a off s = .next (takeFault s s.focus s.act fGroup) :=
  issueFall_raises (k := id) h (by cases cap <;> simp [needCap_held, hc, groupId_above hr hg])

end

/-! ### SYNC, SSTEP and WAITG -/

section
variable {s s1 s2 : State} {c : Com} {kind : GroupOpKind} {d : Dst} {a : Use Src} {off : BitVec 12} {mk : Nat → PWait} {x : Word}
  (h : Ready .any c s) (here : s.cur.away = false)
include h here

theorem groupWait_released {g code : Nat} {b : Bool} (hw : s.cur.wait = .group g b (some code) ∨ s.cur.wait = .waitg g (some code)) :
    groupWait c kind d a off mk s = .next (completed s (endGroupWait s s.focus s.act g code)) :=
  issueFall_completes h (by
    rcases hw with hw | hw <;> simp only [here, hw, Bool.not_false, blockFor_true, exec_bind_ok] <;> rfl)

variable (hw : s.cur.wait = .none) (hr : readSrc s a.r = .ok (x, s1))
include hw hr

theorem groupWait_posts (hg : x.toNat + off.toNat ≤ 0xFFF) (hd : holdDst s1 d = .ok s2) : groupWait c kind d a off mk s =
    .next (stayBlocked (groupPost (s2.modCur fun k => { k with wait := mk (x.toNat + off.toNat) }) kind (x.toNat + off.toNat) x)) :=
  issueFall_blocks (k := fun _ => groupPost (s2.modCur fun k => { k with wait := mk (x.toNat + off.toNat) }) kind (x.toNat + off.toNat) x) h
    (by simp only [here, hw, groupId_names hr hg, hd, Bool.not_false, blockFor_true, exec_bind_ok])

theorem groupWait_above (hg : 0xFFF < x.toNat + off.toNat) : groupWait c kind d a off mk s = .next (takeFault s s.focus s.act fGroup) :=
  issueFall_raises (k := id) h (by simp only [here, hw, groupId_above hr hg, Bool.not_false, blockFor_true, exec_bind_ok, exec_bind_error])

end

/-! ### A refused JOIN (R13, R230, R327; log entry 16) -/

theorem refuseJoin_sent {s : State} {key : Nat} {n : Bool} (h : (s.ctx key n).ask = .sent) : refuseJoin s key n =
    settleAway (unpop (stripPlaces (s.modCtx key n fun k => { k with ask := .refused }) key [(s.ctx key n).due]) key n) key n :=
  if_neg (by simp [h])

/-- Giving a word back changes the queues of its context alone, and the word is no longer kept. -/
theorem ctx_unpop (s : State) (key : Nat) (n : Bool) : ∃ q4 q5 q7 inbox inboxRead,
    (unpop s key n).ctx key n = { s.ctx key n with q4, q5, q7, inbox, inboxRead, popped := none } := by
  unfold unpop
  split
  case h_1 =>
    rw [ctx_modCore_of_keeps _ _ _ (by cases n <;> rfl), State.ctx_modCtx_same]
    exact ⟨_, _, _, _, _, rfl⟩
  case h_5 =>
    rw [State.ctx_modCtx_same, State.ctx_modCtx_same]
    split <;> exact ⟨_, _, _, _, _, rfl⟩
  all_goals
    simp only [State.ctx_modCtx_same]
    exact ⟨_, _, _, _, _, rfl⟩

theorem popped_unpop (s : State) (key : Nat) (n : Bool) : ((unpop s key n).ctx key n).popped = none := by
  obtain ⟨_, _, _, _, _, h⟩ := ctx_unpop s key n
  rw [h]

section
variable {s : State} {key : Nat} {n : Bool} {w : Word} {r : Option Record}

theorem unpop_q4 (h : (s.ctx key n).popped = some (.q4, w, r)) : ((unpop s key n).ctx key n).q4 = w :: (s.ctx key n).q4 := by
  simp only [unpop, h, State.ctx_modCtx_same]

theorem unpop_q5 (h : (s.ctx key n).popped = some (.q5, w, r)) : ((unpop s key n).ctx key n).q5 = w :: (s.ctx key n).q5 := by
  simp only [unpop, h, State.ctx_modCtx_same]

theorem unpop_q7 (h : (s.ctx key n).popped = some (.q7, w, r)) : ((unpop s key n).ctx key n).q7 = w :: (s.ctx key n).q7 := by
  simp only [unpop, h, State.ctx_modCtx_same]

theorem unpop_q {i : Fin 4} (h : (s.ctx key n).popped = some (.q i, w, r)) : ((unpop s key n).core key).q.get i = .word w :: (s.core key).q.get i := by
  simp only [unpop, h, State.core_modCore_same, get_set_same, State.modCtx, State.setCtx, State.core_setCore_same, Core.setCtx_q]

theorem unpop_q6_within (h : (s.ctx key n).popped = some (.q6, w, none)) : ((unpop s key n).ctx key n).inboxRead = (s.ctx key n).inboxRead - 1 := by
  simp only [unpop, h, State.ctx_modCtx_same]

theorem unpop_q6_record {r : Record} (h : (s.ctx key n).popped = some (.q6, w, some r)) (hr : (s.ctx key n).inboxRead = 0) :
    ((unpop s key n).ctx key n).inbox = r :: (s.ctx key n).inbox ∧ ((unpop s key n).ctx key n).inboxRead = 7 := by
  simp only [unpop, h, State.ctx_modCtx_same, hr, if_true, and_self]

end

/-- A context that keeps no popped word. -/
theorem eq_of_popped_none {k : Ctx} (h : k.popped = none) : k = { k with popped := none } := by
  cases k; cases h; rfl

/-! ### The instructions -/

section
variable (c : Com) (d : Dst) (a : Use Src) (off : BitVec 12) (s : State)

theorem exec_grpnew : exec (.grpnew c d) s = groupAsk c d (fun s => do
    needCap s capGrp
    return (.new, 0, 0, s)) s := rfl

theorem exec_join : exec (.join c d a off) s = groupAsk c d (fun s => do
    let (g, v, t) ← groupId s a off
    return (.join, g, v, t.modCur fun k => { k with popped := s.cur.popOf a.r v })) s := rfl

theorem exec_grpinit : exec (.grpinit c a off) s = groupSend c .init true a off s := rfl
theorem exec_grpfree : exec (.grpfree c a off) s = groupSend c .free true a off s := rfl
theorem exec_leave : exec (.leave c a off) s = groupSend c .leave false a off s := rfl
theorem exec_sync : exec (.sync c d a off) s = groupWait c .sync d a off (fun g => .group g false none) s := rfl
theorem exec_sstep : exec (.sstep c d a off) s = groupWait c .sstep d a off (fun g => .group g true none) s := rfl
theorem exec_waitg : exec (.waitg c d a off) s = groupWait c .waitg d a off (fun g => .waitg g none) s := rfl

end

/-- Settles O15: a group instruction asks, posts or waits, and each of the three does the same for all its instructions. -/
theorem groupResults : Obligations.GroupResults := by
  simp only [Obligations.GroupResults, exec_grpnew, exec_join, exec_grpinit, exec_grpfree, exec_leave, exec_sync, exec_sstep, exec_waitg]
  refine ⟨fun s c d a off v h here ha => ⟨groupAsk_answered h here ha, groupAsk_answered h here ha⟩,
    fun s c d a off h here ha => groupAsk_refused h here ha, fun s key n h u hu => hu ▸ refuseJoin_sent h,
    fun s key n => ⟨eq_of_popped_none (popped_unpop s key n), fun w r => unpop_q4, fun w r => unpop_q5, fun w r => unpop_q7, fun i w r => unpop_q,
      fun w => unpop_q6_within, fun w r => unpop_q6_record⟩,
    fun s s1 c d h here ha hc hd => groupAsk_posts h here ha (by rw [needCap_held (b := capGrp) hc]; rfl) hd, fun s c d a off h hc => ⟨fun here ha => ?_, ?_, ?_⟩,
    ?names, fun s c d a off g code b h here hw t ht => ?_⟩
  · exact groupAsk_raises h here ha (by rw [needCap_missing (b := capGrp) hc]; rfl)
  · exact groupSend_unprivileged h hc
  · exact groupSend_unprivileged h hc
  case names =>
    rintro s s1 c d a off x h hr g rfl
    refine ⟨fun hg => ⟨fun hc => groupSend_posts h (fun _ => hc) hr hg, fun hc => groupSend_posts h (fun _ => hc) hr hg, groupSend_posts h nofun hr hg,
        fun here ha s2 hd => ?_, fun here hw s2 hd => ?_⟩,
      fun hg => ⟨groupSend_above h nofun hr hg, fun hc => ⟨groupSend_above h (fun _ => hc) hr hg, groupSend_above h (fun _ => hc) hr hg⟩,
        fun here ha => ?_, fun here hw => ?_⟩⟩
    · exact groupAsk_posts h here ha (by rw [groupId_names hr hg]; rfl) hd
    · exact ⟨groupWait_posts h here hw hr hg hd, groupWait_posts h here hw hr hg hd, groupWait_posts h here hw hr hg hd⟩
    · exact groupAsk_raises h here ha (by rw [groupId_above hr hg]; rfl)
    · exact ⟨groupWait_above h here hw hr hg, groupWait_above h here hw hr hg, groupWait_above h here hw hr hg⟩
  · subst ht
    exact ⟨groupWait_released h here hw, groupWait_released h here hw, groupWait_released h here hw⟩

end Sys2Proof.Laws
end

section
/-! PROOFS. Group operations at their controllers, releases, refusals and pod barriers (R139, R141 to R143, R172 to R174, R230, R345). -/

namespace Sys2Proof.Laws

open Sys2Proof Sys2Proof.Machine

/-! ### Contexts read back after a change of a queue -/

/-- A change of cores that keeps a context of each leaves that context, wherever the change is made. -/
theorem ctx_modCore_of_keeps_all (s : State) (j key : Nat) (n : Bool) {f : Core → Core} (h : ∀ c, (f c).ctx n = c.ctx n) :
    (s.modCore j f).ctx key n = s.ctx key n := by
  by_cases hj : key = j
  · subst hj
    exact ctx_modCore_of_keeps _ _ _ (h _)
  · rw [State.ctx, State.modCore, State.core_setCore_other _ _ hj, State.ctx]

theorem ctx_fillPlace (s : State) (j : Nat) (i : Fin 4) (id : Nat) (v : Word) (key : Nat) (n : Bool) : (fillPlace s j i id v).ctx key n = s.ctx key n :=
  ctx_modCore_of_keeps_all _ _ _ _ fun c => by cases n <;> rfl

theorem ctx_stripPlaces (s : State) (k : Nat) (ids : List Nat) (key : Nat) (n : Bool) : (stripPlaces s k ids).ctx key n = s.ctx key n :=
  List.foldlRecOn (motive := fun t => t.ctx key n = s.ctx key n) _ _ rfl fun t h j _ =>
    (ctx_modCore_of_keeps_all t j key n fun c => by cases n <;> rfl).trans h

theorem stripPlaces_frame (s : State) (k : Nat) (ids : List Nat) : ∃ cores, stripPlaces s k ids = { s with cores } := by
  refine List.foldlRecOn (motive := fun t : State => ∃ cores, t = { s with cores }) _ _ ⟨s.cores, rfl⟩ ?_
  rintro _ ⟨cores, rfl⟩ j -
  exact ⟨_, rfl⟩

theorem ctx_acquire (s : State) (k : Nat) (m : Bool) (osp : Osp) (obj : Word) (key : Nat) (n : Bool) :
    (acquire s k m osp obj).ctx key n = s.ctx key n :=
  ctx_modCore_of_keeps_all _ _ _ _ fun c => by cases n <;> rfl

/-! ### What the end of a wait changes (R174, R223, R327) -/

/-- An answer or a release changes the reuse buffers, the queues' places, and of its context the registers, the wait and the reply awaited. -/
structure Settled (key : Nat) (n : Bool) (s t : State) : Prop where
  state : t = { s with fabric := t.fabric, cores := t.cores }
  ctx : ∃ g wait ask popped, t.ctx key n = { s.ctx key n with g, wait, ask, popped }

namespace Settled

variable {key : Nat} {n : Bool} {s t u : State}

theorem refl (s : State) : Settled key n s s := ⟨rfl, _, _, _, _, rfl⟩

theorem trans (h : Settled key n s t) (k : Settled key n t u) : Settled key n s u where
  state := k.state.trans (by rw [h.state])
  ctx := by
    obtain ⟨_, _, _, _, ht⟩ := h.ctx
    obtain ⟨_, _, _, _, hu⟩ := k.ctx
    rw [ht] at hu
    exact ⟨_, _, _, _, hu⟩

theorem of_same (hs : t = { s with fabric := t.fabric, cores := t.cores }) (hc : t.ctx key n = s.ctx key n) : Settled key n s t :=
  ⟨hs, _, _, _, _, hc⟩

theorem modCtx {f : Ctx → Ctx} (hf : ∀ c, ∃ g wait ask popped, f c = { c with g, wait, ask, popped }) : Settled key n s (s.modCtx key n f) :=
  ⟨rfl, by rw [State.ctx_modCtx_same]; exact hf _⟩

theorem members (h : Settled key n s t) : (t.ctx key n).members = (s.ctx key n).members := by
  obtain ⟨_, _, _, _, ht⟩ := h.ctx
  rw [ht]

end Settled

theorem ctx_fillWait (s : State) (key : Nat) (n : Bool) (v : Word) : ∃ g, (fillWait s key n v).ctx key n = { s.ctx key n with g } := by
  unfold fillWait
  split
  · rw [State.ctx_modCtx_same, Ctx.writeG]
    split <;> exact ⟨_, rfl⟩
  · exact ⟨_, ctx_fillPlace ..⟩

theorem settled_fillWait (s : State) (key : Nat) (n : Bool) (v : Word) : Settled key n s (fillWait s key n v) where
  state := by
    unfold fillWait
    split <;> rfl
  ctx := (ctx_fillWait s key n v).imp fun _ h => ⟨_, _, _, h⟩

theorem settled_endGroupWait (s : State) (key : Nat) (n : Bool) (g code : Nat) : Settled key n s (endGroupWait s key n g code) := by
  have acquired : Settled key n s (acquire s key n .grp (BitVec.ofNat 64 g)) := .of_same rfl (ctx_acquire ..)
  exact (acquired.trans (settled_fillWait ..)).trans (.modCtx fun c => ⟨_, _, _, _, rfl⟩)

theorem settleAway_here {s : State} {key : Nat} {n : Bool} (h : (s.ctx key n).away = false) : settleAway s key n = s :=
  if_pos (by simp [h])

/-- The reply of an instruction that its context was redirected away from. -/
def settleReply (s : State) (key : Nat) (n : Bool) : State :=
  match (s.ctx key n).ask with
  | .cell _ v => (fillWait s key n v).modCtx key n fun c => { c with ask := .none }
  | .answered _ | .refused => s.modCtx key n fun c => { c with ask := .none }
  | _ => s

/-- A wait that is over ends before a reply is taken. -/
theorem settleAway_away {s : State} {key : Nat} {n : Bool} (h : (s.ctx key n).away = true) : settleAway s key n =
    match (s.ctx key n).wait with
    | .group g _ (some code) => endGroupWait s key n g code
    | .waitg g (some code) => endGroupWait s key n g code
    | .waitw _ _ _ (some v) _ => (fillWait s key n v).modCtx key n fun c => { c with wait := .none }
    | _ => settleReply s key n := by
  refine (if_neg (by simp [h])).trans ?_
  unfold settleReply
  generalize (s.ctx key n).wait = w, (s.ctx key n).ask = a
  rcases w with _ | ⟨_, _, _ | _⟩ | ⟨_, _, _, _ | _, _⟩ | ⟨_, _ | _⟩ <;> cases a <;> rfl

theorem settled_settleReply (s : State) (key : Nat) (n : Bool) : Settled key n s (settleReply s key n) := by
  unfold settleReply
  cases (s.ctx key n).ask with
  | none | sent => exact .refl s
  | answered v => exact .modCtx fun c => ⟨_, _, _, _, rfl⟩
  | refused => exact .modCtx fun c => ⟨_, _, _, _, rfl⟩
  | cell id v => exact (settled_fillWait ..).trans (.modCtx fun c => ⟨_, _, _, _, rfl⟩)

theorem settled_settleAway (s : State) (key : Nat) (n : Bool) : Settled key n s (settleAway s key n) := by
  cases h : (s.ctx key n).away with
  | false => rw [settleAway_here h]; exact .refl s
  | true =>
    rw [settleAway_away h]
    split
    · exact settled_endGroupWait ..
    · exact settled_endGroupWait ..
    · exact (settled_fillWait ..).trans (.modCtx fun c => ⟨_, _, _, _, rfl⟩)
    · exact settled_settleReply ..

theorem settled_answer (s : State) (o : GroupOp) (v : Word) : Settled o.key o.ctx s (Machine.answer s o v) := by
  unfold Machine.answer
  split
  · exact .refl s
  · exact ((settled_fillWait ..).trans (.modCtx fun c => ⟨_, _, _, _, rfl⟩)).trans (settled_settleAway ..)

/-- A context that awaits a reply has been redirected away from the instruction exactly when it stands elsewhere. -/
theorem away_of_asks {c : Ctx} (h : c.ask ≠ .none) : c.away = (c.waitPc != c.pc) := by
  simp [Ctx.away, h]

/-- The reply to an instruction that its context still stands at. -/
theorem ask_answer {s : State} {o : GroupOp} (v : Word) (hd : o.dead = false) (ha : (s.ctx o.key o.ctx).ask = .sent)
    (here : (s.ctx o.key o.ctx).away = false) : ((Machine.answer s o v).ctx o.key o.ctx).ask = .answered v := by
  obtain ⟨g, hg⟩ := ctx_fillWait s o.key o.ctx v
  have told : ((fillWait s o.key o.ctx v).modCtx o.key o.ctx fun c => { c with ask := .answered v, popped := none }).ctx o.key o.ctx =
      { s.ctx o.key o.ctx with g, ask := .answered v, popped := none } := by rw [State.ctx_modCtx_same, hg]
  have stays := here
  rw [away_of_asks (by simp [ha])] at stays
  rw [Machine.answer, if_neg (by simp [hd, ha]), settleAway_here, told]
  rw [told, away_of_asks (by simp), stays]

theorem Settled.group {key : Nat} {n : Bool} {s t : State} (h : Settled key n s t) (g : Nat) : t.group g = s.group g := by
  rw [h.state]; rfl

/-! ### Releases that are sent (R139, R172) -/

@[simp] theorem group_setGroup_same (s : State) (g : Nat) (x : Group) : (s.setGroup g x).group g = x := tget_tset_same ..

/-- The release that a waiter of a group is sent, as the i-th id. -/
def releaseOf (s : State) (g code : Nat) (at_ : Option Nat) (pod : Bool) (w : Waiter) (i : Nat) : Release :=
  { id := i, key := w.key, ctx := w.ctx, code, sstep := at_.isSome
    at_ := match at_ with | some t0 => t0 + meshCol w.key * s.staggerOf (groupTower g) | none => 0
    rstep := s.rstepOf (groupTower g), batch := s.nextId, col := meshCol w.key, pod, area := w.area }

/-- The releases that the waiters of a group are sent, in the order in which they came. -/
def releasesOf (s : State) (g code : Nat) (at_ : Option Nat) (pod : Bool) : List Release :=
  ((s.group g).waiters.zipIdx s.nextId).map fun p => releaseOf s g code at_ pod p.1 p.2

/-- One release after the other, of the batch that began at id b. -/
def sendRelease (b g code : Nat) (at_ : Option Nat) (pod : Bool) (s : State) (w : Waiter) : State :=
  { s with nextId := s.nextId + 1, releases := s.releases ++ [{ releaseOf s g code at_ pod w s.nextId with batch := b }] }

theorem foldl_sendRelease (s : State) (g code : Nat) (at_ : Option Nat) (pod : Bool) (ws : List Waiter) (i : Nat) (rs : List Release) :
    ws.foldl (sendRelease s.nextId g code at_ pod) { s with nextId := i, releases := rs } =
      { s with nextId := i + ws.length, releases := rs ++ (ws.zipIdx i).map fun p => releaseOf s g code at_ pod p.1 p.2 } := by
  induction ws generalizing i rs with
  | nil => simp
  | cons w ws ih =>
    refine (ih (i + 1) (rs ++ [releaseOf s g code at_ pod w i])).trans ?_
    simp [Nat.add_assoc, Nat.add_comm 1]

theorem releaseAll_eq (s : State) (g code : Nat) (at_ : Option Nat) (pod : Bool) : releaseAll s g code at_ pod =
    { s with nextId := s.nextId + (s.group g).waiters.length, releases := s.releases ++ releasesOf s g code at_ pod }.setGroup g
      { s.group g with waiters := [] } :=
  congrArg (fun t : State => t.setGroup g { t.group g with waiters := [] }) (foldl_sendRelease s g code at_ pod (s.group g).waiters s.nextId s.releases)

/-- What does not depend on a release's id follows from the waiters. -/
theorem map_append_releasesOf {β : Type} {f : Release → β} {k : Waiter → β} {s : State} {g code : Nat} {at_ : Option Nat} {pod : Bool} {rs : List Release}
    (h : ∀ w i, f (releaseOf s g code at_ pod w i) = k w) :
    (rs ++ releasesOf s g code at_ pod).map f = rs.map f ++ (s.group g).waiters.map k := by
  rw [List.map_append, releasesOf, List.map_map]
  calc _ = rs.map f ++ ((s.group g).waiters.zipIdx s.nextId).map (k ∘ Prod.fst) := congrArg _ (List.map_congr_left fun p _ => h ..)
    _ = _ := by rw [← List.map_map, List.zipIdx_map_fst]

/-- The waiters of a group are released, and the group goes on changed. -/
def releaseThen (s : State) (g code : Nat) (at_ : Option Nat) (pod : Bool) (f : Group → Group) : State :=
  (releaseAll s g code at_ pod).setGroup g (f ((releaseAll s g code at_ pod).group g))

theorem releaseThen_result (s : State) (g code : Nat) (at_ : Option Nat) (pod : Bool) (f : Group → Group) : ∃ nextId groups,
    releaseThen s g code at_ pod f = { s with nextId, groups, releases := s.releases ++ releasesOf s g code at_ pod }
    ∧ tget {} groups g = f { s.group g with waiters := [] } := by
  refine ⟨s.nextId + (s.group g).waiters.length, tset (releaseAll s g code at_ pod).groups g (f { s.group g with waiters := [] }), ?_, tget_tset_same ..⟩
  rw [releaseThen, releaseAll_eq, group_setGroup_same]
  rfl

/-! ### A phase that completes (R139, R143, R172) -/

/-- A group between two phases. -/
def phaseOver (x : Machine.Group) : Machine.Group := { x with a := 0, kind := .none }

section
variable {s : State} {g : Nat} (hk : (s.group g).kind ≠ .none) (ha : (s.group g).a = (s.group g).m)
include hk ha

theorem groupComplete_eq : groupComplete s g =
    if (s.group g).kind = .sstep ∧ s.podEn = true ∧ s.feat 6 = true ∧ s.podg.toNat = g then s.setGroup g { s.group g with podArrived := true }
    else releaseThen s g 0 (if (s.group g).kind == .sstep then some (s.tb + 64) else none) false phaseOver := by
  refine (if_pos (by simp [hk, ha])).trans (if_congr ?_ rfl rfl)
  simp [and_assoc]

theorem groupComplete_sync (h : (s.group g).kind = .sync) : groupComplete s g = releaseThen s g 0 none false phaseOver := by
  rw [groupComplete_eq hk ha, h, if_neg (by simp)]
  rfl

theorem groupComplete_sstep (h : (s.group g).kind = .sstep) (hp : ¬(s.podEn = true ∧ s.feat 6 = true ∧ s.podg.toNat = g)) :
    groupComplete s g = releaseThen s g 0 (some (s.tb + 64)) false phaseOver := by
  rw [groupComplete_eq hk ha, if_neg fun c => hp c.2, h]
  rfl

theorem groupComplete_pod (h : (s.group g).kind = .sstep) (he : s.podEn = true) (hf : s.feat 6 = true) (hg : s.podg.toNat = g) :
    groupComplete s g = s.setGroup g { s.group g with podArrived := true } := by
  rw [groupComplete_eq hk ha, if_pos ⟨h, he, hf, hg⟩]

end

/-! ### Operations at their controller (R172, R345) -/

/-- The operation has left the fabric. -/
def withoutOp (s : State) (o : GroupOp) : State := { s with groupOps := s.groupOps.filter fun x => x.id ≠ o.id }

/-- Entry i of the context's table holds the group's present epoch. -/
def entered (s : State) (o : GroupOp) (i : Nat) (c : Ctx) : Ctx :=
  { c with members := c.members.set (Fin.ofNat 4 i) (some (o.gid, (s.group o.gid).epoch)) }

/-- The context has entered the group by entry i of its table. -/
def joined (s : State) (o : GroupOp) (i : Nat) : State :=
  ((withoutOp s o).modCtx o.key o.ctx (entered s o i)).setGroup o.gid { s.group o.gid with m := (s.group o.gid).m + 1 }

theorem ctx_joined (s : State) (o : GroupOp) (i : Nat) : (joined s o i).ctx o.key o.ctx = entered s o i (s.ctx o.key o.ctx) :=
  State.ctx_modCtx_same (withoutOp s o) o.key o.ctx (entered s o i)

section
variable {s : State} {o : GroupOp}

theorem groupApply_refused (hn : o.kind ≠ .new) (h : (s.group o.gid).opened = false ∨ (s.group o.gid).asid ≠ o.asid) :
    groupApply s o = refuseGroup (withoutOp s o) o := by
  have closed : ((s.group o.gid).opened && (s.group o.gid).asid == o.asid) = false := by
    rcases h with h | h <;> simp [h]
  unfold groupApply
  cases hk : o.kind with
  | new => exact absurd hk hn
  | join => exact if_pos (congrArg (!·) closed)
  | leave => exact if_neg fun h => Bool.eq_false_iff.mp closed ((Bool.and_eq_true _ _).mp h).1
  | sync => exact if_neg (Bool.eq_false_iff.mp closed)
  | sstep => exact if_neg (Bool.eq_false_iff.mp closed)
  | waitg => exact if_neg (Bool.eq_false_iff.mp closed)
  | init => exact if_neg (Bool.eq_false_iff.mp closed)
  | free => exact if_neg (Bool.eq_false_iff.mp closed)

variable (ho : (s.group o.gid).opened = true) (hs : (s.group o.gid).asid = o.asid)

theorem serves (ho : (s.group o.gid).opened = true) (hs : (s.group o.gid).asid = o.asid) :
    ((s.group o.gid).opened && (s.group o.gid).asid == o.asid) = true := by
  simp [ho, hs]

include ho hs

theorem groupApply_joins {i : Nat} (hk : o.kind = .join) (hm : isMember s o.key o.ctx o.gid = false)
    (hi : (s.ctx o.key o.ctx).members.toList.findIdx? (entryFree s) = some i) :
    groupApply s o = Machine.answer (joined s o i) o (BitVec.ofNat 64 ((s.group o.gid).m + 1)) := by
  unfold groupApply
  simp only [hk]
  refine (if_neg (Bool.eq_false_iff.mp (congrArg (!·) (serves ho hs)))).trans ((if_neg (Bool.eq_false_iff.mp hm)).trans ?_)
  split
  · next h => exact nomatch hi.symm.trans h
  · next h => cases hi.symm.trans h; rfl

theorem groupApply_arrives {ph : PhaseKind} (hk : (o.kind = .sync ∧ ph = .sync) ∨ (o.kind = .sstep ∧ ph = .sstep))
    (hm : isMember s o.key o.ctx o.gid = true) (hp : (s.group o.gid).kind = .none ∨ (s.group o.gid).kind = ph) : groupApply s o =
      groupComplete ((withoutOp s o).setGroup o.gid { s.group o.gid with
        kind := ph, a := (s.group o.gid).a + 1, waiters := (s.group o.gid).waiters ++ [waiterOf o.key o.ctx false] }) o.gid := by
  have taken : (!isMember s o.key o.ctx o.gid || ((s.group o.gid).kind != .none && (s.group o.gid).kind != ph)) = false := by
    rcases hp with hp | hp <;> simp [hm, hp]
  unfold groupApply
  rcases hk with ⟨hk, rfl⟩ | ⟨hk, rfl⟩ <;> simp only [hk] <;> exact (if_pos (serves ho hs)).trans (if_neg (Bool.eq_false_iff.mp taken))

theorem groupApply_leaves (hk : o.kind = .leave) (hm : isMember s o.key o.ctx o.gid = true) :
    groupApply s o = groupLeave (withoutOp s o) o.key o.ctx o.gid := by
  unfold groupApply
  simp only [hk]
  exact if_pos ((Bool.and_eq_true _ _).mpr ⟨serves ho hs, hm⟩)

theorem groupApply_waits (hk : o.kind = .waitg) : groupApply s o =
    (withoutOp s o).setGroup o.gid { s.group o.gid with waiters := (s.group o.gid).waiters ++ [waiterOf o.key o.ctx true] } := by
  unfold groupApply
  simp only [hk]
  exact if_pos (serves ho hs)

/-- GRPINIT and GRPFREE: every waiter is released, and a new epoch begins. -/
theorem groupApply_resets {code : Nat} {b : Bool} (hk : (o.kind = .init ∧ code = 1 ∧ b = true) ∨ (o.kind = .free ∧ code = 2 ∧ b = false)) :
    groupApply s o = releaseThen (withoutOp s o) o.gid code none false fun x =>
      { x with epoch := (s.group o.gid).epoch + 1, m := 0, a := 0, kind := .none, opened := b, podArrived := false } := by
  unfold groupApply
  rcases hk with ⟨hk, rfl, rfl⟩ | ⟨hk, rfl, rfl⟩ <;> simp only [hk] <;> exact if_pos (serves ho hs)

end

/-! ### Releases that come (R139, R141, R174) -/

/-- The release has left the fabric. -/
def withoutRelease (s : State) (r : Release) : State := { s with releases := s.releases.filter fun x => x.id ≠ r.id }

/-- A context whose group wait has its code. -/
def coded (code : Nat) (c : Ctx) : Ctx :=
  match c.wait with
  | .group g st none => { c with wait := .group g st (some code) }
  | .waitg g none => { c with wait := .waitg g (some code) }
  | _ => c

theorem away_coded (code : Nat) (c : Ctx) : (coded code c).away = c.away := by
  unfold coded
  split
  · next h => simp only [Ctx.away, h]; rfl
  · next h => simp only [Ctx.away, h]; rfl
  · rfl

theorem giveRelease_saved {s : State} {r : Release} {b : Nat} (h : r.area = some b) : giveRelease s r = releaseSaved (withoutRelease s r) b r.code := by
  unfold giveRelease
  simp only [h]
  rfl

theorem giveRelease_present {s : State} {r : Release} (h : r.area = none) :
    giveRelease s r = settleAway ((withoutRelease s r).modCtx r.key r.ctx (coded r.code)) r.key r.ctx := by
  unfold giveRelease
  simp only [h]
  rfl

/-- A context that still stands at its wait goes on by itself. -/
theorem giveRelease_here {s : State} {r : Release} (h : r.area = none) (here : (s.ctx r.key r.ctx).away = false) :
    giveRelease s r = (withoutRelease s r).modCtx r.key r.ctx (coded r.code) := by
  rw [giveRelease_present h]
  exact settleAway_here ((congrArg Ctx.away (State.ctx_modCtx_same ..)).trans ((away_coded ..).trans here))

/-! ### Writes keep the releases under way -/

theorem releases_putPhys (s : State) (loc : Nat) (bs : List Byte) : (s.putPhys loc bs).releases = s.releases := by
  induction bs generalizing s loc with
  | nil => rfl
  | cons b bs ih => exact ih ..

theorem releases_syncStep (s : State) (w : Nat) : (syncStep s w).releases = s.releases := by
  simp only [syncStep]
  split
  · exact releases_putPhys ..
  · rfl

theorem releases_notifyMonitors (s : State) (w : Nat) : (notifyMonitors s w).releases = s.releases :=
  List.foldlRecOn (motive := fun t : State => t.releases = s.releases) _ _ rfl fun _ h _ _ => h

theorem releases_performWrite (s : State) (fw : Bool) (ps : List (Nat × Byte)) : (performWrite s fw ps).releases = s.releases := by
  have bytes (u : State) (qs : List (Nat × Byte)) : (qs.foldl (fun (t : State) p => { t with mem := t.mem.put (t.phys p.1) p.2 }) u).releases = u.releases :=
    List.foldlRecOn (motive := fun t : State => t.releases = u.releases) _ _ rfl fun _ h _ _ => h
  have alarmed (b : Bool) : (if b then raiseAlarm s 2 false else s).releases = s.releases := by
    split
    · rw [raiseAlarm_eq s 2 false _ rfl]
    · rfl
  refine List.foldlRecOn (motive := fun t : State => t.releases = s.releases) _ _ ((bytes _ _).trans (alarmed _)) fun t h w _ => ?_
  rw [releases_notifyMonitors, releases_syncStep, h]

theorem releases_giveRelease (s : State) (r : Release) : (giveRelease s r).releases = s.releases.filter fun x => x.id ≠ r.id := by
  cases h : r.area with
  | some b => rw [giveRelease_saved h]; exact releases_performWrite ..
  | none => rw [giveRelease_present h, (settled_settleAway ..).state]; rfl

/-- What a release of its column does to one that is still due (R139). -/
def drawn (s : State) (r x : Release) : Release :=
  if x.batch = r.batch ∧ x.sstep = true ∧ x.col = r.col ∧ x.by_ = none then { x with by_ := some (s.tb + 8) } else x

theorem releaseMember_eq (s : State) (r : Release) : releaseMember s r =
    startRamp { giveRelease s r with releases := (s.releases.filter fun x => x.id ≠ r.id).map (drawn s r) } r.key r.rstep := by
  rw [releaseMember, releases_giveRelease]
  refine congrArg (fun f => startRamp { giveRelease s r with releases := List.map f _ } r.key r.rstep) (funext fun x => ?_)
  exact if_congr (by simp [and_assoc]) rfl rfl

theorem execSstepRelease_due {s : State} {r : Release} (hr : (s.releases.find? fun x => x.id == r.id && x.sstep) = some r) (ht : r.at_ ≤ s.tb + 8)
    (hc : (s.cluster (clusterOf r.key)).switchUntil = none) : exec (.sstepRelease r.id) s = .next (releaseMember s r) := by
  refine congrArg Host.Outcome.next ?_
  simp only [hr]
  exact if_pos (by simp [ht, memberHeld, hc])

theorem execSstepRelease_waits {s : State} {r : Release} (hr : (s.releases.find? fun x => x.id == r.id && x.sstep) = some r)
    (h : s.tb + 8 < r.at_ ∨ (s.cluster (clusterOf r.key)).switchUntil ≠ none) : exec (.sstepRelease r.id) s = .next s := by
  refine congrArg Host.Outcome.next ?_
  simp only [hr]
  refine if_neg ?_
  rcases h with h | h
  · simp [Nat.not_le.mpr h]
  · simp [memberHeld, h]

theorem quad_startRamp {key : Nat} {v : BitVec 8} (s : State) (hk : isTile key = true) (hv : v ≠ 0) : (startRamp s key v).quad (quadOf key) =
    { s.quad (quadOf key) with level := 1, rampStep := v.toNat, rampPhase := 0, rampLeft := 16 * v.toNat } := by
  rw [startRamp, if_pos (by rw [hk, bne_iff_ne.mpr hv]; rfl), quad_modQuad_same]

/-! ### Refusals that return (R230, R345) -/

/-- The refusal has been given. -/
def withoutRefusal (s : State) (r : PostRefusal) : State := { s with refusals := s.refusals.filter fun x => x.id ≠ r.id }

section
variable {s : State} {r : PostRefusal} (hr : (s.refusals.find? fun x => x.id == r.id) = some r)
include hr

theorem execGroupRefusalReturn_waits (h : r.area ≠ none ∨ (r.posted = true ∧ canFreeze s r.key r.ctx = false)) :
    exec (.groupRefusalReturn r.id) s = .next s := by
  refine congrArg Host.Outcome.next ?_
  simp only [hr]
  refine if_pos ?_
  rcases h with h | ⟨hp, hf⟩
  · simp [Option.isSome_iff_ne_none, h]
  · simp [hp, hf]

theorem execGroupRefusalReturn_gives (ha : r.area = none) (h : r.posted = false ∨ canFreeze s r.key r.ctx = true) :
    exec (.groupRefusalReturn r.id) s = .next (giveRefusal s r) := by
  refine congrArg Host.Outcome.next ?_
  simp only [hr]
  refine if_neg ?_
  rcases h with h | h <;> simp [ha, h]

end

theorem giveRefusal_join {s : State} {r : PostRefusal} (h : r.posted = false) : giveRefusal s r = refuseJoin (withoutRefusal s r) r.key r.ctx :=
  if_pos (by simp [h])

/-- A context as a posted operation's refusal finds it: a refused arrival waits no longer, and gives up the place reserved for D. -/
def arrivalEnded (s : State) (r : PostRefusal) (arrival : Bool) : State :=
  if arrival then stripPlaces (s.modCtx r.key r.ctx fun c => { c with wait := .none }) r.key [(s.ctx r.key r.ctx).due] else s

theorem giveRefusal_posted {s : State} {r : PostRefusal} (h : r.posted = true) :
    ∃ arrival, giveRefusal s r = takePosted (arrivalEnded (withoutRefusal s r) r arrival) r :=
  ⟨_, if_neg (by simp [h])⟩

theorem arrivalEnded_frame (s : State) (r : PostRefusal) (arrival : Bool) : ∃ cores, arrivalEnded s r arrival = { s with cores } := by
  cases arrival with
  | false => exact ⟨s.cores, rfl⟩
  | true =>
    obtain ⟨cores, h⟩ := stripPlaces_frame (s.modCtx r.key r.ctx fun c => { c with wait := .none }) r.key [(s.ctx r.key r.ctx).due]
    exact ⟨cores, h⟩

theorem ctx_arrivalEnded (s : State) (r : PostRefusal) (arrival : Bool) :
    ∃ wait, (arrivalEnded s r arrival).ctx r.key r.ctx = { s.ctx r.key r.ctx with wait } := by
  cases arrival with
  | false => exact ⟨_, rfl⟩
  | true => exact ⟨_, (ctx_stripPlaces ..).trans (State.ctx_modCtx_same ..)⟩

/-- What a context that a posted operation's refusal freezes holds (R230, R232; log entry 32). -/
theorem ctx_takePosted (s : State) (r : PostRefusal) : ((takePosted s r).ctx r.key r.ctx).st = .frozen
    ∧ ((takePosted s r).ctx r.key r.ctx).fcode = r.code ∧ ((takePosted s r).ctx r.key r.ctx).pc = (s.ctx r.key r.ctx).pc
    ∧ ((takePosted s r).ctx r.key r.ctx).g = (s.ctx r.key r.ctx).g := by
  rw [takePosted, ctx_freezeWith]
  exact ⟨rfl, (BitVec.ofNat_toNat ..).trans (BitVec.setWidth_eq _), rfl, rfl⟩

/-- The refusal of a posted operation freezes its context and leaves its PC and its registers. -/
theorem giveRefusal_freezes {s : State} {r : PostRefusal} (h : r.posted = true) :
    giveRefusal s r = { withoutRefusal s r with cores := (giveRefusal s r).cores }
    ∧ ((giveRefusal s r).ctx r.key r.ctx).st = .frozen ∧ ((giveRefusal s r).ctx r.key r.ctx).fcode = r.code
    ∧ ((giveRefusal s r).ctx r.key r.ctx).pc = (s.ctx r.key r.ctx).pc ∧ ((giveRefusal s r).ctx r.key r.ctx).g = (s.ctx r.key r.ctx).g := by
  obtain ⟨arrival, frozen⟩ := giveRefusal_posted (s := s) h
  obtain ⟨cores, frame⟩ := arrivalEnded_frame (withoutRefusal s r) r arrival
  obtain ⟨wait, ctx⟩ := ctx_arrivalEnded (withoutRefusal s r) r arrival
  obtain ⟨st, code, pc, g⟩ := ctx_takePosted (arrivalEnded (withoutRefusal s r) r arrival) r
  rw [ctx] at pc g
  rw [frozen]
  refine ⟨?_, st, code, pc, g⟩
  rw [takePosted_frame, frame]

/-- A JOIN whose context still stands at it is refused, and nothing else ends. -/
theorem refuseJoin_here {s : State} {key : Nat} {n : Bool} (ha : (s.ctx key n).ask = .sent) (here : (s.ctx key n).away = false) :
    ((refuseJoin s key n).ctx key n).ask = .refused ∧ ((refuseJoin s key n).ctx key n).st = (s.ctx key n).st := by
  obtain ⟨_, _, _, _, _, told⟩ := ctx_unpop (stripPlaces (s.modCtx key n fun k => { k with ask := .refused }) key [(s.ctx key n).due]) key n
  rw [ctx_stripPlaces, State.ctx_modCtx_same] at told
  rw [away_of_asks (by simp [ha])] at here
  rw [refuseJoin_sent ha, settleAway_here, told]
  · exact ⟨rfl, rfl⟩
  · rw [told, away_of_asks (by simp)]
    exact here

/-! ### The census of a pod barrier (R143) -/

theorem podHere_iff (s : State) : podHere s = true ↔ (s.group s.podg.toNat).podArrived = true ∧ ∀ r ∈ s.releases, r.pod = false := by
  simp [podHere]

/-- What port 0 reads on the members' wavelengths. -/
def censusReads (s : State) (x : Port) (row : List Int) : List (Option Nat) :=
  (List.range 32).map fun i => x.sense (row.getD i 0) (if podHere s = true ∧ x.writable = true ∧ x.litAt i = true ∧ x.spos.toNat = i then 1 else 0)

theorem censusLight_member (s : State) (x : Port) {i : Nat} (h : i < 32) : censusLight s x i =
    if podHere s = true ∧ x.writable = true ∧ x.litAt i = true ∧ x.spos.toNat = i then 1 else 0 := by
  have ck : i ≠ 66 := by omega
  have ct : i ≠ 67 := by omega
  rw [censusLight, if_neg ck, beq_eq_false_iff_ne.mpr ct, Bool.false_or, Bool.toNat, Bool.cond_eq_ite]
  exact if_congr (by simp [and_assoc, eq_comm (a := i)]) rfl rfl

theorem take_readSlot_census (s : State) (x : Port) (row : List Int) : (x.readSlot row (censusLight s x)).take 32 = censusReads s x row := by
  rw [Port.readSlot, ← List.map_take, List.take_range]
  exact List.map_congr_left fun i hi => by rw [censusLight_member s x (List.mem_range.mp hi)]

/-- A census that reads exactly the members of a pod barrier at which this module has arrived. -/
def CensusMet (s : State) (x : Port) (row : List Int) : Prop :=
  (∀ r ∈ censusReads s x row, r = some 0 ∨ r = some 1) ∧ (censusReads s x row).count (some 1) = s.podMemb.toNat ∧ podHere s = true

/-- Port 0 after the slot of a census. -/
def censusPort (s : State) (x : Port) (row : List Int) : Port :=
  let e := slotErrs (x.readSlot row (censusLight s x)) censusExpect
  { x.countErrs (e.1, e.2 + if s.podMemb.toNat < (censusReads s x row).count (some 1) then 1 else 0) with idle := x.idle + 1, seen := [] }

/-- A count of at most 1 is 0 or 1. -/
theorem all_clean_iff (l : List (Option Nat)) :
    (l.all fun r => match r with | some n => decide (n ≤ 1) | none => false) = true ↔ ∀ r ∈ l, r = some 0 ∨ r = some 1 := by
  rw [List.all_eq_true]
  refine forall₂_congr fun r _ => ?_
  cases r with
  | none => simp
  | some n => simp; omega

section
variable {s : State} {row : List Int} {x : Port} (hx : x = (s.port 0).settleIdle) (hi : x.inCycle = true) (hb : barrierCycle s 0 = true)
  (h0 : x.idle % 32 = 0) (hs : x.seen.length < 32)
include hx hi hb h0 hs

theorem execPodBarrierCensus_eq [Decidable (CensusMet s x row)] : exec (.podBarrierCensus row) s =
    .next (if CensusMet s x row then podComplete (s.setPort 0 (censusPort s x row)) else s.setPort 0 (censusPort s x row)) := by
  subst hx
  refine congrArg Host.Outcome.next ((if_neg (by simp [hi, hb, h0, hs])).trans ?_)
  simp only [take_readSlot_census, ← List.count_eq_length_filter, idle_countErrs]
  refine if_congr ?_ rfl rfl
  rw [Bool.and_eq_true, Bool.and_eq_true, decide_eq_true_eq, and_assoc]
  exact and_congr (all_clean_iff _) Iff.rfl

end

/-- The pod barrier completes: the waiters of its group are released as of an SSTEP, PODSTAG later (R143, R144). -/
theorem podComplete_eq (s : State) : podComplete s = releaseThen s s.podg.toNat 0 (some (s.tb + 200 + s.podstag.toNat)) true fun x =>
    { x with a := 0, kind := .none, podArrived := false } := rfl

theorem execGroupOpApply_found {s : State} {o : GroupOp} (h : (s.groupOps.find? fun x => x.id == o.id) = some o) :
    exec (.groupOpApply o.id) s = .next (if opFirst s o = true then groupApply s o else s) := by
  refine congrArg Host.Outcome.next ?_
  simp only [h]

theorem execGroupRelease_found {s : State} {r : Release} (h : (s.releases.find? fun x => x.id == r.id && !x.sstep) = some r) :
    exec (.groupRelease r.id) s = .next (giveRelease s r) := by
  refine congrArg Host.Outcome.next ?_
  simp only [h]

/-- Settles O28: an operation is one of the cases of its controller, a release goes to every waiter in the same way, and what ends a wait changes the
contexts alone. -/
theorem groupSteps : Obligations.GroupSteps := by
  refine ⟨fun s o h => ⟨fun hf => ?_, fun hf => ?_⟩, ?known, fun s o hn h => groupApply_refused hn h, ?phases, fun s r h => execGroupRelease_found h,
    fun s r h => ⟨fun ht hc => ?_, execSstepRelease_waits h⟩, fun s r g st ha here => ?_, fun s r b h => giveRelease_saved h,
    fun s key v hk hv => ?_, podHere_iff, fun s r h => ⟨fun hp ha hf => ?_, ?_, ?_, ?_⟩, ?census⟩
  · rw [execGroupOpApply_found h, if_pos hf]
  · rw [execGroupOpApply_found h, if_neg (Bool.eq_false_iff.mp hf)]
  case known =>
    rintro s o x rfl u rfl ho hs
    refine ⟨?joins, fun ph hk hm hp => groupApply_arrives ho hs hk hm hp, fun hk hm => groupApply_leaves ho hs hk hm, fun hk => groupApply_waits ho hs hk,
      ?resets⟩
    case joins =>
      rintro k i hk hm hi rfl
      have told := settled_answer (joined s o i) o (BitVec.ofNat 64 ((s.group o.gid).m + 1))
      have group : (Machine.answer (joined s o i) o (BitVec.ofNat 64 ((s.group o.gid).m + 1))).group o.gid =
          { s.group o.gid with m := (s.group o.gid).m + 1 } := (told.group _).trans (group_setGroup_same ..)
      refine ⟨_, groupApply_joins ho hs hk hm hi, told.members.trans (congrArg Ctx.members (ctx_joined ..)), congrArg Machine.Group.m group,
        (congrArg Machine.Group.a group :), ?_, fun hd here ha => ?_⟩
      · rw [told.state]; rfl
      · exact ask_answer _ hd ((congrArg Ctx.ask (ctx_joined ..)).trans ha) ((congrArg Ctx.away (ctx_joined ..)).trans here)
    case resets =>
      intro hk
      have reset := groupApply_resets ho hs (code := if o.kind = .init then 1 else 2) (b := decide (o.kind = .init))
        (by rcases hk with hk | hk <;> simp [hk])
      obtain ⟨nextId, groups, frame, group⟩ := releaseThen_result (withoutOp s o) o.gid (if o.kind = .init then 1 else 2) none false fun x =>
        { x with epoch := (s.group o.gid).epoch + 1, m := 0, a := 0, kind := .none, opened := decide (o.kind = .init), podArrived := false }
      refine ⟨_, reset.trans frame, congrArg Machine.Group.epoch group, congrArg Machine.Group.m group, congrArg Machine.Group.a group,
        congrArg Machine.Group.waiters group, congrArg Machine.Group.kind group, ?_, rfl, rfl, ?_⟩
      · exact (congrArg (·.opened = true) group).to_iff.trans decide_eq_true_iff
      · exact map_append_releasesOf fun _ _ => rfl
  case phases =>
    rintro s g x rfl hk ha
    refine ⟨fun h => ?_, fun h hp => ?_, groupComplete_pod hk ha⟩
    · obtain ⟨nextId, groups, frame, group⟩ := releaseThen_result s g 0 none false phaseOver
      exact ⟨_, (groupComplete_sync hk ha h).trans frame, congrArg Machine.Group.a group, congrArg Machine.Group.kind group,
        congrArg Machine.Group.waiters group, (congrArg Machine.Group.m group :),
        map_append_releasesOf fun _ _ => rfl, rfl⟩
    · obtain ⟨nextId, groups, frame, group⟩ := releaseThen_result s g 0 (some (s.tb + 64)) false phaseOver
      exact ⟨_, (groupComplete_sstep hk ha h hp).trans frame, congrArg Machine.Group.a group, congrArg Machine.Group.kind group, rfl,
        map_append_releasesOf fun _ _ => rfl⟩
  · exact (execSstepRelease_due h ht hc).trans (congrArg Host.Outcome.next (releaseMember_eq s r))
  · rw [giveRelease_here ha here, State.ctx_modCtx_same]
    refine ⟨fun h => ?_, fun h => ?_, rfl, rfl⟩
    · have waits : ((withoutRelease s r).ctx r.key r.ctx).wait = .group g st none := h
      simp only [coded, waits]
    · have waits : ((withoutRelease s r).ctx r.key r.ctx).wait = .waitg g none := h
      simp only [coded, waits]
  · exact ⟨_, quad_startRamp s hk hv, rfl, rfl, rfl, rfl, rfl⟩
  · obtain ⟨frame, st, code, pc, g⟩ := giveRefusal_freezes (s := s) hp
    exact ⟨_, execGroupRefusalReturn_gives h ha (.inr hf), st, code, pc, g, by rw [frame]; rfl, by rw [frame]; rfl⟩
  · exact fun hp hf => execGroupRefusalReturn_waits h (.inr ⟨hp, hf⟩)
  · exact fun ha => execGroupRefusalReturn_waits h (.inl ha)
  · intro hp ha here hs
    exact ⟨_, (execGroupRefusalReturn_gives h ha (.inl hp)).trans (congrArg Host.Outcome.next (giveRefusal_join hp)), refuseJoin_here hs here⟩
  case census =>
    rintro s row x g reads hx rfl hi hb h0 hs rfl
    classical
    have census := execPodBarrierCensus_eq hx hi hb h0 hs (row := row)
    refine ⟨fun bars count here => ?_, fun h => ?_⟩
    · obtain ⟨nextId, groups, frame, group⟩ := releaseThen_result (s.setPort 0 (censusPort s x row)) s.podg.toNat 0
        (some (s.tb + 200 + s.podstag.toNat)) true fun x => { x with a := 0, kind := .none, podArrived := false }
      rw [if_pos ⟨bars, count, here⟩] at census
      refine ⟨_, census.trans (congrArg Host.Outcome.next ((podComplete_eq _).trans frame)), ?_, congrArg Machine.Group.podArrived group,
        congrArg Machine.Group.a group, congrArg Machine.Group.kind group, rfl,
        map_append_releasesOf fun _ _ => rfl⟩
      exact congrArg Port.idle (port_setPort_same s 0 (censusPort s x row))
    · rw [if_neg] at census
      · exact ⟨_, census, congrArg Port.idle (port_setPort_same s 0 (censusPort s x row)), rfl, rfl, rfl⟩
      · rintro ⟨bars, count, here⟩
        rcases h with ⟨r, hr, h0, h1⟩ | h | h
        · exact (bars r hr).elim h0 h1
        · exact h count
        · exact Bool.eq_false_iff.mp h here

end Sys2Proof.Laws
end

section
/-! PROOFS. Class S operands: what reading a source gives and takes, and what writing a destination changes (R152, R166 to R168, R275, R279). -/

namespace Sys2Proof.Laws

open Sys2Proof Sys2Proof.Machine

variable {s : State}

/-- A change of the executing context that gives the same for the context as it stands is the same change. -/
theorem modCur_congr {f g : Ctx → Ctx} (h : f s.cur = g s.cur) : s.modCur f = s.modCur g :=
  congrArg (s.setCtx s.focus s.act) h

/-! ### Sources -/

theorem readSrc_g {n : Fin 48} (h : s.regBusy n = false) : readSrc s (.g n) = .ok (s.cur.readG n, s) := by
  simp only [readSrc, h]
  rfl

theorem readSrc_g_busy {n : Fin 48} (h : s.regBusy n = true) : readSrc s (.g n) = .error (.wait id) := by
  simp only [readSrc, h]
  rfl

theorem readSrc_q_blocks {i : Fin 4} {id : Nat} {ws : List QWord} (h : s.me.q.get i = [] ∨ s.me.q.get i = .due id :: ws) :
    readSrc s (.q i) = blocking := by
  rcases h with h | h <;> simp only [readSrc, h]

/-- The inbox's next word is taken, with its record if it is the last. -/
theorem readSrc_q6 {r : Record} {rs : List Record} {f : Ctx → Ctx} (h : s.cur.inbox = r :: rs)
    (hf : (if s.cur.inboxRead = 7 then { s.cur with inbox := rs, inboxRead := 0 } else { s.cur with inboxRead := s.cur.inboxRead + 1 }) = f s.cur) :
    readSrc s .q6 = .ok (r.extractLsb' (64 * s.cur.inboxRead) 64, s.modCur f) := by
  simp only [readSrc, h]
  rw [← Nat.shiftRight_eq_div_pow, modCur_congr hf]
  rfl

/-! ### What an operand's reading leaves -/

/-- No limits but those of an instruction's own core and context: no memory, no register, no status, no other context. -/
def noLimits : Limits where
  mem _ := False
  writes := False
  live := False
  marks := False
  full := False
  alarm := False
  queues := False
  regs _ := False
  pois := False
  notes := False

theorem Within.runner {A : Limits} {s t : State} (h : Within A s t) : Runner A s.cur t.cur := by
  have cur := (h.core s.focus).cur rfl
  rw [State.cur, State.cur, h.focus, h.act]
  exact cur

/-- The views stand as they are while an operand is read. -/
theorem view_readSrc {s t : State} {x : Src} {v : Word} (h : readSrc s x = .ok (v, t)) (n : Fin 16) : t.view n = s.view n := by
  have kept : Runner noLimits s.cur t.cur := (within_readSrc h).runner
  rw [State.view, State.view, kept.same]

/-! ### Destinations -/

theorem writeDst_g {n : Fin 48} (h : s.regBusy n = false) (v : Word) : writeDst s (.g n) v = .ok (s.modCur fun c => c.writeG n v) := by
  simp only [writeDst, h]
  rfl

theorem writeDst_g_busy {n : Fin 48} (h : s.regBusy n = true) (v : Word) : writeDst s (.g n) v = .error (.wait id) := by
  simp only [writeDst, h]
  rfl

theorem writeG_of_ne_zero (c : Ctx) {n : Fin 48} (hn : n ≠ 0) (v : Word) : c.writeG n v = { c with g := c.g.set n v } := if_neg hn

/-- The places that a queue of a core has lost: its words, and what waiting JOINs of its contexts hold of it (log entry 16). -/
def queueLoad (s : State) (key : Nat) (i : Fin 4) : Nat :=
  ((s.core key).q.get i).length + (s.ctx key false).heldOf (.q i) + (s.ctx key true).heldOf (.q i)

theorem queueTarget_tile {key : Nat} (h : isTile key = true) (k : Fin 4) : queueTarget key k = (key / 4 * 4 + k.val, Fin.ofNat 4 key) := if_pos h

theorem writeDst_q {k i : Fin 4} {key : Nat} (hq : queueTarget s.focus k = (key, i)) (h : queueLoad s key i < 8) (v : Word) :
    writeDst s (.q k) v = .ok (s.modCore key fun c => { c with q := c.q.set i (c.q.get i ++ [.word v]) }) := by
  simp only [writeDst, pushQueue, hq]
  exact if_pos h

theorem writeDst_q_full {k i : Fin 4} {key : Nat} (hq : queueTarget s.focus k = (key, i)) (h : 8 ≤ queueLoad s key i) (v : Word) :
    writeDst s (.q k) v = blocking := by
  simp only [writeDst, pushQueue, hq]
  exact if_neg (Nat.not_lt.mpr h)

/-- Settles O5: each source and each destination is one case of `readSrc` or `writeDst`. -/
theorem operandForms : Obligations.OperandForms := by
  refine ⟨fun s => ⟨readSrc_g rfl, fun n hn hb => ?register, fun n hb => ⟨_, readSrc_g_busy hb⟩, fun n => rfl, fun i w ws h => ?q,
      fun i id ws h => ⟨_, readSrc_q_blocks h⟩, fun w ws h => ?q4, fun w ws h => ?q5, fun w ws h => ?q7, fun h => ?empty4, fun h => ?empty5,
      fun h => ?empty7, fun h => ?empty6, fun r rs h hr => ?within, fun r rs h hr => ?last⟩,
    fun s v => ⟨writeDst_g rfl v, fun n hn hb => ?write, fun n hb => ⟨_, writeDst_g_busy hb v⟩, ?push, fun n => ?read⟩⟩
  case register => rw [readSrc_g hb, Ctx.readG, if_neg hn]
  case within => exact readSrc_q6 h (if_neg (by omega))
  case last =>
    have read := readSrc_q6 (f := fun c => { c with inbox := rs, inboxRead := 0 }) h (if_pos hr)
    rwa [hr] at read
  case write => rw [writeDst_g hb, funext fun c => writeG_of_ne_zero c hn v]
  case push =>
    rintro k ht key i rfl rfl
    exact ⟨fun room => writeDst_q (queueTarget_tile ht k) room v, fun full => ⟨_, writeDst_q_full (queueTarget_tile ht k) full v⟩⟩
  case read => rw [State.cur_modCur, get_set_same]
  case q | q4 | q5 | q7 => simp only [readSrc, h]
  case empty4 | empty5 | empty7 | empty6 => exact ⟨.block id, by simp only [readSrc, h]; rfl⟩

end Sys2Proof.Laws
end

section
/-! PROOFS. Pushes to the vector and matrix queue that complete (R153, R154, R184, R231, R274, R355, R366). -/

namespace Sys2Proof.Laws

open Sys2Proof Sys2Proof.Machine

/-! ### The checks of a push -/

theorem raiseOpt_none : raiseOpt none = .ok () := rfl

/-- Among granules that are all set in a map, none is dead. -/
theorem lowestDead_eq_none {m : BitVec 1024} {gs : List Nat} (h : ∀ g ∈ gs, m.getLsbD g = true) : lowestDead m gs = none :=
  List.foldlRecOn (motive := fun d => d = none) _ _ rfl fun d hd g hg => by rw [if_pos (h g hg), hd]

/-- What `ViewsOk` asks is what the checks ask, in their order (R231). -/
theorem checkViews_ok {s : State} {o : VOp} (h : ViewsOk s o) : checkViews s o = .ok () := by
  obtain ⟨format, views, bview, settled, live⟩ := h
  unfold checkViews
  simp only [format, views, settled, lowestDead_eq_none live, Bool.not_true, Bool.not_false, raiseIf_false, raiseOpt_none, waitFor_true, exec_bind_ok,
    Option.map_none]
  split
  next hb => rw [bview hb]; rfl
  · rfl

/-- No MMAR holds back an instruction that reads no granule (R393). -/
theorem mmarPending_nil (s : State) (key : Nat) (n : Bool) : mmarPending s key n [] = false := by
  have none_read (gs : List Nat) : gs.any ([] : List Nat).contains = false := List.any_eq_false.mpr fun _ _ => by simp
  simp only [mmarPending, none_read, Bool.and_false, Bool.or_eq_false_iff, List.any_eq_false]
  constructor <;> intro x _ <;> split <;> simp

/-- An instruction that names no view has only its format to check. -/
theorem viewsOk_of_no_views {s : State} {o : VOp} (hf : formatOk o = true) (hu : usesOf o = []) (hb : usesB o = false) : ViewsOk s o := by
  have reads : readsOf o = [] := by rw [readsOf, hu]; rfl
  exact ⟨hf, by rw [hu]; rfl, fun h => absurd h (by simp [hb]), by rw [reads]; exact mmarPending_nil .., by rw [reads]; exact nofun⟩

/-- A push whose operands are captured and whose checks pass enters the queue (R153). -/
theorem pushV_completes {p : Pred} {wt : Fin 4} {i : Instr} {s t : State} {o : VOp} {fill : VOp → State → Exec (VOp × State)} (h : ReadyV p wt s)
    (hf : fill (captured s i p) s = .ok (o, t)) (ho : ViewsOk t o) : pushV p wt i s fill = .next (retire (pushEntry t o)) := by
  refine issueV_completes h ?_
  change fill (captured s i p) s >>= _ = _
  rw [hf, exec_bind_ok]
  change checkViews t o >>= _ = _
  rw [checkViews_ok ho]
  rfl

/-! ### The shapes of a push -/

theorem pushDAB_of {i : Com → Fin 16 → Use (Fin 16) → Use (Fin 16) → Instr}
    (h : ∀ c d a b s, exec (i c d a b) s = pushVVV c (i c d a b) d a b s) : PushDAB i := by
  rintro s c d a b hr o rfl ho
  rw [h]
  exact pushV_completes hr rfl ho

theorem pushDA_of {i : Com → Fin 16 → Use (Fin 16) → Instr} (h : ∀ c d a s, exec (i c d a) s = pushVV c (i c d a) d a s) : PushDA i := by
  rintro s c d a hr o rfl ho
  rw [h]
  exact pushV_completes hr rfl ho

/-! ### The instructions that capture in a way of their own -/

section
variable (s : State) (c : Com) (wt : Fin 4) (ty : Ty) (d : Fin 16) (p : Fin 8) (a b z : Use (Fin 16)) (u v : Use (Fin 8))

theorem exec_vfma (x : VX) : exec (.vfma c ty d a b z x) s = pushV c.pred c.wt (.vfma c ty d a b z x) s fun o s =>
    .ok ({ o with vd := s.view d, va := s.view a.r, vb := s.view b.r, vc := s.view z.r }, s) := rfl

theorem exec_vcmp (cond : Cond) : exec (.vcmp c cond ty p a b) s = pushV c.pred c.wt (.vcmp c cond ty p a b) s fun o s =>
    .ok ({ o with va := s.view a.r, vb := s.view b.r }, s) := rfl

theorem exec_vsel : exec (.vsel c ty d a b u) s = pushV c.pred c.wt (.vsel c ty d a b u) s fun o s => do
    waitFor (!s.predBusy u.r)
    return ({ o with vd := s.view d, va := s.view a.r, vb := s.view b.r, pa := s.cur.readP u.r }, s) := rfl

theorem exec_vbcast (x : Use Src) : exec (.vbcast c ty d x) s = pushV c.pred c.wt (.vbcast c ty d x) s fun o s => do
    let (w, s) ← readSrc s x.r
    return ({ o with vd := s.view d, sa := w }, s) := rfl

theorem exec_vext (idx : BitVec 9) : exec (.vext wt ty a idx) s = pushV { neg := false, p := 0 } wt (.vext wt ty a idx) s fun o s =>
    .ok ({ o with va := s.view a.r }, s) := rfl

theorem exec_vred (op : RedOp) (r : Rnd) : exec (.vred c op ty a r) s = pushV c.pred c.wt (.vred c op ty a r) s fun o s =>
    .ok ({ o with va := s.view a.r }, s) := rfl

theorem exec_vbs (w16 : Bool) (r : Rnd) : exec (.vbs wt ty d a w16 r) s = pushV { neg := false, p := 0 } wt (.vbs wt ty d a w16 r) s fun o s =>
    .ok ({ o with vd := s.view d, va := s.view a.r }, s) := rfl

theorem exec_vpand : exec (.vpand c ty p u v) s = pushV c.pred c.wt (.vpand c ty p u v) s fun o s => do
    waitFor (!s.predBusy u.r && !s.predBusy v.r)
    return (predOperands o s u.r v.r, s) := rfl

theorem exec_vpor : exec (.vpor c ty p u v) s = pushV c.pred c.wt (.vpor c ty p u v) s fun o s => do
    waitFor (!s.predBusy u.r && !s.predBusy v.r)
    return (predOperands o s u.r v.r, s) := rfl

theorem exec_vpnot : exec (.vpnot c ty p u) s = pushV c.pred c.wt (.vpnot c ty p u) s fun o s => do
    waitFor (!s.predBusy u.r)
    return (predOperands o s u.r u.r, s) := rfl

theorem exec_vpcnt : exec (.vpcnt c ty u) s = pushV c.pred c.wt (.vpcnt c ty u) s fun o s => do
    waitFor (!s.predBusy u.r)
    return (predOperands o s u.r u.r, s) := rfl

end

/-- Settles O18: each instruction is one push, which captures what the statement names. -/
theorem vectorPushes : Obligations.VectorPushes := by
  refine ⟨fun ty x => ⟨pushDAB_of fun _ _ _ _ _ => rfl, pushDAB_of fun _ _ _ _ _ => rfl, pushDAB_of fun _ _ _ _ _ => rfl, pushDAB_of fun _ _ _ _ _ => rfl,
      fun part wb => ⟨pushDAB_of fun _ _ _ _ _ => rfl, pushDAB_of fun _ _ _ _ _ => rfl⟩, fun src part => pushDA_of fun _ _ _ _ => rfl,
      fun op => pushDA_of fun _ _ _ _ => rfl⟩,
    fun ty => ⟨pushDAB_of fun _ _ _ _ _ => rfl, pushDAB_of fun _ _ _ _ _ => rfl, pushDAB_of fun _ _ _ _ _ => rfl, pushDAB_of fun _ _ _ _ _ => rfl,
      pushDAB_of fun _ _ _ _ _ => rfl, pushDAB_of fun _ _ _ _ _ => rfl, pushDAB_of fun _ _ _ _ _ => rfl, pushDAB_of fun _ _ _ _ _ => rfl,
      pushDAB_of fun _ _ _ _ _ => rfl, pushDAB_of fun _ _ _ _ _ => rfl, fun mode => pushDAB_of fun _ _ _ _ _ => rfl,
      fun n => pushDAB_of fun _ _ _ _ _ => rfl⟩,
    fun ty b => ⟨pushDA_of fun _ _ _ _ => rfl, pushDA_of fun _ _ _ _ => rfl, pushDA_of fun _ _ _ _ => rfl⟩,
    fun ty r => ⟨pushDA_of fun _ _ _ _ => rfl, pushDA_of fun _ _ _ _ => rfl, pushDA_of fun _ _ _ _ => rfl⟩,
    ?vfma, ?vcmp, ?vsel, ?vbcast, ?vext, ?vred, ?vbs, ?vpand, ?vpnot⟩
  case vfma => rintro s c ty d a b z x h o rfl ho; rw [exec_vfma]; exact pushV_completes h rfl ho
  case vcmp => rintro s c cond ty d a b h o rfl ho; rw [exec_vcmp]; exact pushV_completes h rfl ho
  case vsel =>
    rintro s c ty d a b x h hp o rfl ho
    rw [exec_vsel]
    exact pushV_completes h (by rw [hp]; rfl) ho
  case vbcast =>
    rintro s s1 c ty d a x h hr o rfl ho
    rw [exec_vbcast]
    exact pushV_completes h (by rw [hr, exec_bind_ok]; dsimp only; rw [view_readSrc hr]; rfl) ho
  case vext => rintro s wt ty a idx h o rfl ho; rw [exec_vext]; exact pushV_completes h rfl ho
  case vred => rintro s c op ty a r h o rfl ho; rw [exec_vred]; exact pushV_completes h rfl ho
  case vbs => rintro s wt ty d a w16 r h o rfl ho; rw [exec_vbs]; exact pushV_completes h rfl ho
  case vpand =>
    rintro s c ty d a b h ha hb rfl
    rw [exec_vpand, exec_vpor]
    exact ⟨pushV_completes h (by rw [ha, hb]; rfl) (viewsOk_of_no_views rfl rfl rfl), pushV_completes h (by rw [ha, hb]; rfl) (viewsOk_of_no_views rfl rfl rfl)⟩
  case vpnot =>
    rintro s c ty d a h ha rfl
    rw [exec_vpnot, exec_vpcnt]
    exact ⟨pushV_completes h (by rw [ha]; rfl) (viewsOk_of_no_views rfl rfl rfl), pushV_completes h (by rw [ha]; rfl) (viewsOk_of_no_views rfl rfl rfl)⟩

end Sys2Proof.Laws
end

section
/-! PROOFS. FORKR, JOINC, QPOLL and MSG that complete or wait (R110 to R112, R166, R347 to R350). -/

namespace Sys2Proof.Laws

open Sys2Proof Sys2Proof.Machine

/-- A code address keeps bits [14:2] (R269). -/
theorem and_codeMask (x : BitVec 15) : x &&& 0x7FFC = BitVec.ofNat 15 (x.toNat / 4 * 4) := by
  have shifted : BitVec.ofNat 15 (x.toNat / 4 * 4) = (x >>> 2) <<< 2 := by
    apply BitVec.eq_of_toNat_eq
    simp [Nat.shiftRight_eq_div_pow, Nat.shiftLeft_eq]
  have mask : ∀ i : Fin 15, (0x7FFC : BitVec 15)[i.val] = decide (2 ≤ i.val) := by decide
  rw [shifted]
  ext i hi
  rw [BitVec.getElem_and, mask ⟨i, hi⟩]
  by_cases h : i < 2
  · simp [h]
  · simp [h, show 2 ≤ i by omega, show 2 + (i - 2) = i by omega, BitVec.getLsbD_eq_getElem hi]

theorem exec_forkr (c : Com) (sc : Scope) (d : Dst) (a b : Use Src) (x : Src) (drop : BitVec 6) (qm1 : BitVec 16) (lim : BitVec 14)
    (entry cont : BitVec 15) (s : State) : exec (.forkr c sc d a b x drop qm1 lim entry cont) s = execForkr c sc d a b x drop qm1 lim entry cont s := rfl

theorem exec_joinc (c : Com) (a : Use Src) (off : BitVec 24) (s : State) : exec (.joinc c a off) s = execJoinc c a off s := rfl

theorem exec_qpoll (c : Com) (d : Dst) (k : Fin 8) (s : State) : exec (.qpoll c d k) s = execQpoll c d k s := rfl

theorem exec_msg (c : Com) (a : Use Src) (off : BitVec 32) (s : State) : exec (.msg c a off) s = execMsg c a off s := rfl

theorem issue_waits {w : Where} {c : Com} {s : State} {k : State → State} {m : State → Exec (State × Flow)} (h : Ready w c s)
    (hm : m s = .error (.wait k)) : issue w c s m = .next (stay (k s)) := by
  rw [issue_ready h, hm]; rfl

/-! ### The steps of END (R112, R161) -/

section
variable {u : State}

/-- The event waits for the posted counts. -/
theorem endTail_waits {pat : Bool} (he : u.cur.task.evend = true) (hz : countsZero u.cur = false) : endTail u pat = .error (.wait fun _ => u) := by
  simp only [endTail, he, hz, Bool.not_false, Bool.and_self, if_true]

theorem endTail_signals (he : u.cur.task.evend = true) (hz : countsZero u.cur = true) :
    endTail u false = .ok (retireCtx (signalEvent u u.cur.task.cevt) (signalEvent u u.cur.task.cevt).focus (signalEvent u u.cur.task.cevt).act, .placed) := by
  simp only [endTail, he, hz, Bool.not_true, Bool.and_false, Bool.false_eq_true, if_false, if_true]

theorem endTail_retires (he : u.cur.task.evend = false) : endTail u false = .ok (retireCtx u u.focus u.act, .placed) := by
  simp only [endTail, he, Bool.false_and, Bool.false_eq_true, if_false]

variable (ends : u.cur.ending = .none ∨ u.cur.ending = .join)
include ends

theorem endSteps_waits {viaJoin : Bool} (hw : workDone u u.focus u.act = false) : endSteps u viaJoin = .error (.wait id) := by
  rcases ends with h | h <;> simp only [endSteps, h, hw] <;> rfl

/-- Where there is no implied DONEG, the groups are left and the event and the end follow. -/
theorem endSteps_leaves {viaJoin : Bool} (hw : workDone u u.focus u.act = true) (hp : (u.cur.task.pat && !viaJoin) = false) :
    endSteps u viaJoin = endTail ((leaveAll (dropWait u u.focus u.act) u.focus u.act).modCur fun k =>
      { k with ending := if viaJoin then .joinLeft else .left }) false := by
  rcases ends with h | h <;> simp only [endSteps, h, hw, hp] <;> rfl

end

/-! ### FORKR (R347) -/

section
variable {s : State} {c : Com} {sc : Scope} {d : Dst} {a b : Use Src} {x : Src} {drop : BitVec 6} {qm1 : BitVec 16} {lim : BitVec 14}
  {entry cont : BitVec 15} (h : Ready .tile c s) (here : s.cur.away = false)
include h here

/-- The cell's write has been acknowledged. -/
theorem forkr_completes {id : Nat} {n : Word} (ha : s.cur.ask = .cell id n) (hf : ∀ r ∈ s.fabric, r.id ≠ id) :
    exec (.forkr c sc d a b x drop qm1 lim entry cont) s = .next (completed s ((fillDst s d n).modCur fun k => { k with ask := .none })) := by
  have acknowledged : (s.fabric.any fun r => r.id == id) = false := List.any_eq_false.mpr fun r hr => by simpa using hf r hr
  rw [exec_forkr, execForkr]
  refine issueFall_completes h ?_
  simp only [here, ha, acknowledged, Bool.not_false, blockFor_true, waitFor_true, exec_bind_ok]
  rfl

/-- The recruits are reserved, the cell's write and the starts are sent. -/
theorem forkr_sends {s1 s2 s3 s4 s5 : State} {t arg cell : Word} {acc : Acc} {chunks : Nat} (ha : s.cur.ask = .none)
    (h1 : readSrc s a.r = .ok (t, s1)) (h2 : readSrc s1 b.r = .ok (arg, s2)) (h3 : readSrc s2 x = .ok (cell, s3)) (hm : memReady s3 = .ok ())
    (h4 : access s3 .cls wrUse cell.toNat 16 16 = .ok (acc, s4)) (hr : sendReady s4 [firstLoc acc] = .ok ()) (h5 : holdDst s4 d = .ok s5)
    (hc : chunks = (t.toNat % 2 ^ 32 + qm1.toNat) / (qm1.toNat + 1)) :
    exec (.forkr c sc d a b x drop qm1 lim entry cont) s = .next (stay (fork s5
      ((available s5 s5.focus s5.act sc).take (if lim = 0 then chunks else min chunks lim.toNat))
      (t.toNat % 2 ^ 32) (qm1.toNat + 1) chunks arg cell.toNat (firstLoc acc) entry cont drop)) := by
  subst hc
  rw [exec_forkr, execForkr]
  refine issueFall_waits (k := fun _ => _) h ?_
  simp only [firstLoc] at hr
  simp only [here, ha, read2, h1, h2, h3, hm, h4, hr, h5, Bool.not_false, blockFor_true, exec_bind_ok, pure_bind]
  rfl

end

/-! ### JOINC (R112, R348) -/

/-- The state in which the context that is not the last of its fork begins to end. -/
def joinEnding (s : State) : State := (s.modCur fun k => { k with ask := .none }).modCur fun k => { k with ending := .join }

theorem ending_joinEnding (s : State) : (joinEnding s).cur.ending = .join := by rw [joinEnding, State.cur_modCur]

section
variable {s : State} {c : Com} {a : Use Src} {off : BitVec 24} (h : Ready .tile c s) (here : s.cur.away = false)
include h here

theorem joinc_sends {s1 s2 : State} {v : Word} {acc : Acc} (he : s.cur.ending = .none) (h1 : readSrc s a.r = .ok (v, s1)) (hw : s1.wtMet 2 = true)
    (hm : memReady s1 = .ok ()) (h2 : access s1 .cls rwUse (addressOf v (.imm24 off)) 16 16 = .ok (acc, s2)) (hr : sendReady s2 [firstLoc acc] = .ok ()) :
    exec (.joinc c a off) s = .next (stay ((sendReq s2
      (reqOf s2.focus s2.act (.join (firstLoc acc)) (firstLoc acc) (some (classOf s2.focus (firstLoc acc))))).modCur fun k =>
        { k with ending := .joinSent s2.nextId (firstLoc acc), ask := .sent, waitPc := k.pc })) := by
  rw [exec_joinc, execJoinc]
  refine issue_waits (k := fun _ => _) h ?_
  rw [addressOf, ← addrPlus_eq] at h2
  simp only [firstLoc] at hr
  simp only [here, he, h1, hw, hm, h2, hr, Bool.not_false, blockFor_true, waitFor_true, exec_bind_ok]
  rfl

/-- The decrement's answer is there, and the context is the last (bit 63) or another. -/
theorem joinc_continues {id loc cl cell : Nat} {v : Word} (he : s.cur.ending = .joinSent id loc) (hl : clsOfLoc loc = some (cl, cell))
    (ha : s.cur.ask = .answered v) (hv : v.getLsbD 63 = true) :
    exec (.joinc c a off) s = .next (wentTo s (lrbClear ((s.modCur fun k => { k with ask := .none }).modCur fun k =>
      { k with t := k.t.set 2 (BitVec.ofNat 64 cell), ending := .none }) s.focus) (BitVec.ofNat 15 (v.toNat % 2 ^ 15 / 4 * 4))) := by
  have pc : v.setWidth 15 &&& 0x7FFC = BitVec.ofNat 15 (v.toNat % 2 ^ 15 / 4 * 4) := by
    rw [and_codeMask, BitVec.toNat_setWidth]
  rw [← pc]
  rw [exec_joinc, execJoinc]
  refine issue_jumps h ?_
  simp only [here, he, ha, hl, hv, Bool.not_false, blockFor_true, exec_bind_ok, if_true]
  rfl

/-- The decrement's answer names another context: its task ends by the steps of END. -/
theorem joinc_waitsBy {id loc : Nat} {v : Word} {k : State → State} (he : s.cur.ending = .joinSent id loc) (ha : s.cur.ask = .answered v)
    (hv : v.getLsbD 63 = false) (hk : endSteps (joinEnding s) true = .error (.wait k)) :
    exec (.joinc c a off) s = .next (stay (k (joinEnding s))) := by
  rw [exec_joinc, execJoinc]
  refine issue_waits (k := fun _ => _) h ?_
  simp only [here, he, ha, hv, Bool.not_false, blockFor_true, exec_bind_ok, Bool.false_eq_true, if_false]
  rw [joinEnding] at hk
  rw [hk]
  rfl

theorem joinc_endsBy {id loc : Nat} {v : Word} {z : State} (he : s.cur.ending = .joinSent id loc) (ha : s.cur.ask = .answered v)
    (hv : v.getLsbD 63 = false) (hk : endSteps (joinEnding s) true = .ok (z, .placed)) :
    exec (.joinc c a off) s = .next (countPmc z s.focus (some s.act) 2 1) := by
  rw [exec_joinc, execJoinc]
  refine issue_placed h ?_
  simp only [here, he, ha, hv, Bool.not_false, blockFor_true, exec_bind_ok, Bool.false_eq_true, if_false]
  rw [joinEnding] at hk
  rw [hk]

end

/-! ### QPOLL (R349) -/

theorem exec_qpoll_front (c : Com) (d : Dst) (k : Fin 4) (s : State) : exec (.qpoll c d (Fin.ofNat 8 k.val)) s =
    issueFall .any c s fun s => writeDst s d (BitVec.ofNat 64 (readyWords (s.me.q.get k))) :=
  match k with
  | 0 | 1 | 2 | 3 => rfl

/-! ### MSG (R350) -/

/-- A record within the sender's capabilities, of its ASID and to its cluster or with CAP.SND, has no PRIV. -/
theorem msgPriv_none {s : State} {r : Record} (hcap : recCap r &&& ~~~s.cur.cap = 0) (hasid : recAsid r = s.cur.asid)
    (hto : clusterOf (recCore r) = s.myCluster ∨ s.cur.cap.getLsbD 5 = true) : msgPriv s r = none := by
  have within : (List.range 32).find? (fun i => (recCap r &&& ~~~s.cur.cap).getLsbD i) = none := by simp [hcap]
  rw [msgPriv, within]
  rcases hto with h | h <;> simp [hasid, h]

theorem msg_completes {s s1 s2 s3 : State} {c : Com} {a : Use Src} {off : BitVec 32} {x : Word} {acc : Acc} {r : Record} (h : Ready .any c s)
    (room : s.me.outbound.length < 2) (h1 : readSrc s a.r = .ok (x, s1)) (hm : memReady s1 = .ok ())
    (h2 : access s1 .spm rdUse (addressOf x (.imm32 off)) 64 64 = .ok (acc, s2)) (h3 : ownBanks s2 false acc.locs = .ok s3)
    (clean : acc.locs.any s3.poisonAt = false) (hr : r = BitVec.ofNat 512 (natOfBytes (acc.locs.map s3.byteAt)))
    (good : msgBad r = false) (tile : isTile (recCore r) = true) (hcap : recCap r &&& ~~~s.cur.cap = 0) (hasid : recAsid r = s.cur.asid)
    (hto : clusterOf (recCore r) = s.myCluster ∨ s.cur.cap.getLsbD 5 = true) :
    exec (.msg c a off) s = .next (completed s (({ s3 with nextId := s3.nextId + 1 } : State).modMe fun k =>
      { k with outbound := k.outbound ++ [{ id := s3.nextId, body := r, pc := s3.cur.pc, insn := BitVec.ofNat 128 (s3.insnAt s3.focus s3.cur.pc)
                                            opa := x, ctx := s3.act }] })) := by
  obtain ⟨resolved, after⟩ := access_ok h2
  have kept : Within { noLimits with alarm := True } s s3 := by
    rw [after] at h3
    exact ((within_readSrc h1).trans (within_translated fun _ _ _ _ => trivial)).trans (within_ownBanks h3)
  have cap : s3.cur.cap = s.cur.cap := by rw [kept.runner.same]
  have asid : s3.cur.asid = s.cur.asid := by rw [kept.runner.same]
  have cluster : s3.myCluster = s.myCluster := by rw [State.myCluster, State.myCluster, kept.focus]
  have own : acc.own = true := (resolve_ok resolved).2.1
  have priv : msgPriv s3 r = none := msgPriv_none (cap ▸ hcap) (asid ▸ hasid) (by rwa [cap, cluster])
  have read : readHome s3 (isFw s3.focus) acc.locs = (acc.locs.map s3.byteAt, acc.locs.any s3.poisonAt, s3) :=
    readHome_unlocked (unlocked_of_own h2 own s3)
  rw [exec_msg, execMsg]
  refine issueFall_completes h ?_
  rw [addressOf, ← addrPlus_eq] at h2
  simp only [room, decide_true, waitFor_true, h1, hm, h2, h3, exec_bind_ok, read, ← hr, good, raiseIf_false,
    priv, raiseOpt_none, tile, Bool.not_true, clean]
  rfl

/-- Settles O16: FORKR and JOINC by the stage their reply has reached, a JOINC that ends through the steps of END, QPOLL and MSG at once. -/
theorem forkJoinQueueAndMessageResults : Obligations.ForkJoinQueueAndMessageResults := by
  refine ⟨⟨?forks, ?sends, ?joinSends, ?goesOn, ?ends⟩, ?polls, ?messages⟩
  case forks =>
    intro s c sc d a b x drop qm1 lim entry cont id n h here ha hf
    exact forkr_completes h here ha hf
  case sends =>
    intro s s1 s2 s3 s4 s5 c sc d a b x drop qm1 lim entry cont t arg cell acc chunks h here ha h1 h2 h3 hm h4 hr h5 hc
    exact forkr_sends h here ha h1 h2 h3 hm h4 hr h5 hc
  case joinSends =>
    intro s s1 s2 c a off v acc h here he h1 hw hm h2 hr
    exact joinc_sends h here he h1 hw hm h2 hr
  case goesOn =>
    intro s c a off id loc cl cell v h here he hl ha hv
    exact joinc_continues h here he hl ha hv
  case ends =>
    rintro s u w c a off id loc v h here he ha hv rfl rfl
    have ends := ending_joinEnding s
    refine ⟨fun hd => joinc_waitsBy h here he ha hv (endSteps_waits (.inr ends) hd), fun hd => ?_⟩
    have leaves := endSteps_leaves (u := joinEnding s) (.inr ends) (viaJoin := true) hd (Bool.and_false _)
    refine ⟨fun hev hz => joinc_waitsBy h here he ha hv (leaves.trans (endTail_waits hev hz)),
      fun hev hz => joinc_endsBy h here he ha hv (leaves.trans (endTail_signals hev hz)),
      fun hev => joinc_endsBy h here he ha hv (leaves.trans (endTail_retires hev))⟩
  case polls =>
    intro s c d h
    refine ⟨fun k t hw => ?_, fun t hw => ?_, fun t hw => ?_, fun t hw => ?_, fun t hw => ?_⟩
    · rw [exec_qpoll_front]
      exact issueFall_completes h hw
    all_goals
      rw [exec_qpoll, execQpoll]
      exact issueFall_completes h hw
  case messages =>
    intro s s1 s2 s3 c a off x acc r h room h1 hm h2 h3 clean hr good tile hcap hasid hto
    exact msg_completes h room h1 hm h2 h3 clean hr good tile hcap hasid hto

end Sys2Proof.Laws
end

section
/-! PROOFS. END, SWAP, HALT and the bank instructions that complete (R130, R161 to R163, R187 to R191, R242, R427, R428, R434, R435). -/

namespace Sys2Proof.Laws

open Sys2Proof Sys2Proof.Machine

theorem exec_end (c : Com) (s : State) : exec (.end_ c) s = issue .any c s fun s => endSteps s false := rfl

theorem exec_swap (c : Com) (s : State) : exec (.swap c) s = execSwap c s := rfl

theorem exec_halt (c : Com) (s : State) : exec (.halt c) s = execHalt c s := rfl

theorem exec_bkwake (c : Com) (a : Use Src) (k : BankSel) (s : State) : exec (.bkwake c a k) s = execBkwake c a k s := rfl

theorem exec_bkhold (c : Com) (a : Use Src) (k : BankSel) (s : State) : exec (.bkhold c a k) s = execBkhold c a k s := rfl

theorem exec_bkoff (c : Com) (a : Use Src) (k : BankSel) (s : State) : exec (.bkoff c a k) s = execBkoff c a k s := rfl

theorem exec_bkstat (c : Com) (d : Dst) (k : BankSel) (s : State) : exec (.bkstat c d k) s = execBkstat c d k s := rfl

theorem exec_spkill (c : Com) (d : Src) (a : Use Src) (off : Off) (s : State) : exec (.spkill c d a off) s = execSpkill c d a off s := rfl

variable {s s1 s2 : State} {c : Com}

/-! ### END (R130, R161) -/

theorem impliedTake_tile {key : Nat} {n : Bool} {u : State} {t : Vector Word 4} (ht : takeTile s key n = .tile u t) (ha : takeAhead s key n = false) :
    impliedTake s key n = .ok (nextTile u key n t) := by
  simp only [impliedTake, takeNow, ht, ha, Bool.false_eq_true, if_false]

theorem impliedTake_none {key : Nat} {n rev : Bool} (ht : takeTile s key n = .none rev) : impliedTake s key n = .ok (retireCtx s key n) := by
  simp only [impliedTake, takeNow, ht]

/-- The tile's task has ended, and the implied TAKE follows. -/
theorem endTail_takes {z : State} (he : s.cur.task.evend = false) (ht : impliedTake (tileEnded s) (tileEnded s).focus (tileEnded s).act = .ok z) :
    endTail s true = .ok (z, .placed) := by
  rw [tileEnded] at ht
  simp only [endTail, he, Bool.false_and, Bool.false_eq_true, if_false, if_true, ht]

/-- The implied TAKE again, of a task whose end has come that far. -/
theorem endSteps_takes {z : State} {viaJoin : Bool} (he : s.cur.ending = .take) (ht : impliedTake s s.focus s.act = .ok z) :
    endSteps s viaJoin = .ok (z, .placed) := by
  simp only [endSteps, he, ht]
  rfl

/-- A pattern task's granules are DONE before its groups are left. -/
theorem endSteps_marksDone {u : State} (he : s.cur.ending = .none) (hp : s.cur.task.pat = true) (hw : workDone s s.focus s.act = true)
    (hr : s.wtMet 3 = true) (hu : u = (match s.cur.claim with | some x => leaveClaim s s.focus s.act x.mask gDone | none => s)) :
    endSteps s false = endTail ((leaveAll (dropWait u u.focus u.act) u.focus u.act).modCur fun k => { k with ending := .left }) true := by
  simp only [endSteps, he, hp, hw, hr]
  cases hc : s.cur.claim <;> rw [hc] at hu <;> subst hu <;> rfl

/-! ### The banks that an instruction names (R427) -/

theorem bankOfSel_readSrc {x : Src} {v : Word} (h : readSrc s x = .ok (v, s1)) (k : BankSel) : bankOfSel s1 k = bankOfSel s k := by
  have act : s1.act = s.act := (within_readSrc h : Within noLimits s s1).act
  cases k
  · exact congrArg rsBank act
  · rfl

section
variable (h : Ready .tile c s) {a : Use Src} {m : Word} (h1 : readSrc s a.r = .ok (m, s1)) (k : BankSel)
include h h1

theorem bkwake_completes : exec (.bkwake c a k) s = .next (completed s (touchBanks s1 s.focus (bankOfSel s k) ((bankBits m).filter fun i =>
    (s1.me.bank (bankOfSel s k) i).st == .retain || (s1.me.bank (bankOfSel s k) i).st == .off))) := by
  have focus : s1.focus = s.focus := (within_readSrc h1 : Within noLimits s s1).focus
  rw [exec_bkwake, execBkwake]
  refine issueFall_completes h ?_
  simp only [h1, exec_bind_ok, focus, bankOfSel_readSrc h1 k]
  rfl

theorem bkhold_completes : exec (.bkhold c a k) s = .next (completed s (s1.modMe fun x =>
    (bankBits m).foldl (fun x i => holdBank x (bankOfSel s k) i) x)) := by
  rw [exec_bkhold, execBkhold]
  refine issueFall_completes h ?_
  simp only [h1, exec_bind_ok, bankOfSel_readSrc h1 k]
  rfl

theorem bkoff_completes (hb : ∀ i ∈ bankBits m, bankBusy s k i = false) :
    exec (.bkoff c a k) s = .next (completed s ((bankBits m).foldl (fun u i => offBank u u.focus (bankOfSel u k) i) s1)) := by
  have free : (bankBits m).any (bankBusy s k) = false := List.any_eq_false.mpr fun i hi => by simp [hb i hi]
  rw [exec_bkoff, execBkoff]
  refine issueFall_completes h ?_
  simp only [h1, free, Bool.not_false, blockFor_true, exec_bind_ok]
  rfl

end

/-! ### SPKILL (R191, R428) -/

section
variable (h : Ready .tile c s) {d : Src} {a : Use Src} {off : Off} {x n : Word} (h1 : readSrc s a.r = .ok (x, s1)) (h2 : readSrc s1 d = .ok (n, s2))
  (hm : memReady s2 = .ok ())
include h h1 h2 hm

theorem spkill_completes (hs : addressOf x off + n.toNat ≤ spmSize s.focus) (ha : addressOf x off % 8 = 0) (hn : n.toNat % 8 = 0) :
    exec (.spkill c d a off) s = .next (completed s
      (killWords s2 ((List.range (n.toNat / 8)).map fun i => locSpm s.focus (addressOf x off + 8 * i)))) := by
  have focus : s2.focus = s.focus := ((within_readSrc h1 : Within noLimits s s1).trans (within_readSrc h2)).focus
  rw [exec_spkill, execSpkill]
  refine issueFall_completes h ?_
  simp only [h1, h2, hm, exec_bind_ok, addrPlus_offVal, focus, decide_eq_false (Nat.not_lt.mpr hs), ha, hn, raiseIf_false, bne_self_eq_false, Bool.or_self]
  rfl

theorem spkill_raises (hs : spmSize s.focus < addressOf x off + n.toNat) :
    exec (.spkill c d a off) s = .next (takeFault s s.focus s.act (fBound (addressOf x off) 1)) := by
  have focus : s2.focus = s.focus := ((within_readSrc h1 : Within noLimits s s1).trans (within_readSrc h2)).focus
  rw [exec_spkill, execSpkill]
  refine issueFall_raises (k := id) h ?_
  simp only [h1, h2, hm, exec_bind_ok, addrPlus_offVal, focus, decide_eq_true hs, raiseIf_true, exec_bind_error]

end

/-- Settles O23: END by how far its steps have come, the bank instructions by what reading their source leaves. -/
theorem taskAndBankResults : Obligations.TaskAndBankResults := by
  refine ⟨⟨?ends, ?takesAgain, ?tileEnds, ?swapsAndHalts⟩, ?banks, ?stat, ?kills⟩
  case ends =>
    intro s u c h he hp hd hu
    have leaves : endSteps s false = endTail u false := hu ▸ endSteps_leaves (.inl he) (viaJoin := false) hd (by rw [hp]; rfl)
    refine ⟨fun hev => ?_, fun hev h1 h2 h3 v hv => ?_⟩
    · exact exec_end c s ▸ issue_placed h (leaves.trans (endTail_retires hev))
    · subst hv
      exact exec_end c s ▸ issue_placed h (leaves.trans (endTail_signals hev (by simp only [countsZero, h1, h2, h3]; rfl)))
  case takesAgain =>
    intro s u c h he
    refine ⟨fun t ht ha => ?_, fun rev ht => ?_⟩
    · exact exec_end c s ▸ issue_placed h (endSteps_takes he (impliedTake_tile ht ha))
    · exact exec_end c s ▸ issue_placed h (endSteps_takes he (impliedTake_none ht))
  case tileEnds =>
    rintro s u v z c h he hp hd hr hu rfl hev rfl
    have done := endSteps_marksDone he hp hd hr hu
    refine ⟨fun w t ht ha => ?_, fun rev ht => ?_⟩
    · exact exec_end c s ▸ issue_placed h (done.trans (endTail_takes hev (impliedTake_tile ht ha)))
    · exact exec_end c s ▸ issue_placed h (done.trans (endTail_takes hev (impliedTake_none ht)))
  case swapsAndHalts =>
    intro s c h
    refine ⟨fun hs => ?_, fun hs => ?_, fun ht => ?_, fun ht => ?_⟩
    · rw [exec_swap, execSwap]
      exact issueFall_completes h (by rw [hs]; rfl)
    · rw [exec_swap, execSwap]
      exact issueFall_completes h (by rw [hs]; rfl)
    · rw [exec_halt, execHalt]
      exact issue_placed h (by rw [ht]; rfl)
    · rw [exec_halt, execHalt]
      exact issue_completes h (by rw [ht]; rfl)
  case banks =>
    rintro s s1 c a k m h h1 b ks rfl rfl
    exact ⟨bkwake_completes h h1 k, bkhold_completes h h1 k, bkoff_completes h h1 k⟩
  case stat =>
    intro s t c d k h hw
    rw [exec_bkstat, execBkstat]
    exact issueFall_completes h hw
  case kills =>
    intro s s1 s2 c d a off x n h h1 h2 hm
    exact ⟨spkill_completes h h1 h2 hm, spkill_raises h h1 h2 hm⟩

end Sys2Proof.Laws
end

section
/-! PROOFS. The flags that the floating-point operations give: none but SATF, NV, DZ, OF, UF and NX (R159, R255, R261). -/

namespace Sys2Proof.Laws

open Sys2Proof Sys2Proof.Machine

/-- Flags that a float instruction may set. -/
def FloatFlags (n : Nat) : Prop := BitVec.ofNat 64 n &&& ~~~0x20F8 = 0

theorem floatFlags_zero : FloatFlags 0 := by unfold FloatFlags; decide

theorem floatFlags_nv : FloatFlags flNV := by unfold FloatFlags; decide

theorem floatFlags_nvSatf : FloatFlags (flNV + flSATF) := by unfold FloatFlags; decide

theorem floatFlags_ite {b : Prop} [Decidable b] {x y : Nat} (hx : FloatFlags x) (hy : FloatFlags y) : FloatFlags (if b then x else y) := by
  split <;> assumption

theorem floatFlags_snd_ite {α : Type} {b : Prop} [Decidable b] {x y : α × Nat} (hx : FloatFlags x.2) (hy : FloatFlags y.2) :
    FloatFlags (if b then x else y).2 := by
  split <;> assumption

theorem floatFlags_or {x y : Nat} (hx : FloatFlags x) (hy : FloatFlags y) : FloatFlags (x ||| y) := by
  have hor : BitVec.ofNat 64 (x ||| y) = BitVec.ofNat 64 x ||| BitVec.ofNat 64 y := BitVec.ofNat_or
  rw [FloatFlags, hor, BitVec.and_comm, BitVec.and_or_distrib_left, BitVec.and_comm _ (BitVec.ofNat 64 x), BitVec.and_comm _ (BitVec.ofNat 64 y), hx, hy]
  rfl

/-- NX with UF of a result that is tiny and inexact. -/
theorem floatFlags_inexact (inexact tiny : Bool) :
    FloatFlags ((if inexact then flNX else 0) + if tiny && inexact then flUF else 0) := by
  unfold FloatFlags
  cases inexact <;> cases tiny <;> decide

theorem floatFlags_overflow : FloatFlags (flOF + flNX) := by unfold FloatFlags; decide

/-! ### Rounding (R254 to R256) -/

variable {fr : Nat} {rm : Rm}

theorem floatFlags_roundTo (neg : Bool) (m : Nat) (e : Int) : FloatFlags (roundTo fr rm neg m e).2 := by
  unfold roundTo
  dsimp only
  split
  · exact floatFlags_zero
  split
  all_goals
    split
    · exact floatFlags_inexact ..
    split
    · exact floatFlags_overflow
    · exact floatFlags_inexact ..

theorem floatFlags_roundInt (v e : Int) (z : Bool) : FloatFlags (roundInt fr rm v e z).2 := by
  unfold roundInt
  split
  · exact floatFlags_zero
  · exact floatFlags_roundTo ..

theorem floatFlags_addFin (n1 : Bool) (m1 : Nat) (e1 : Int) (n2 : Bool) (m2 : Nat) (e2 : Int) : FloatFlags (addFin fr rm n1 m1 e1 n2 m2 e2).2 :=
  floatFlags_roundInt ..

theorem floatFlags_roundSticky (neg : Bool) (q : Nat) (e : Int) (exact : Bool) : FloatFlags (roundSticky fr rm neg q e exact).2 := by
  unfold roundSticky
  split <;> exact floatFlags_roundTo ..

theorem floatFlags_sigFlag (xs : List Nat) : FloatFlags (sigFlag fr xs) := floatFlags_ite floatFlags_nv floatFlags_zero

/-! ### Arithmetic (R322 to R324) -/

theorem floatFlags_fpAdd (a b : Nat) : FloatFlags (fpAdd fr rm a b).2 := by
  unfold fpAdd
  split
  · exact floatFlags_sigFlag _
  split
  · exact floatFlags_addFin ..
  · split
    · exact floatFlags_zero
    · exact floatFlags_nv
  all_goals exact floatFlags_zero

theorem floatFlags_fpSub (a b : Nat) : FloatFlags (fpSub fr rm a b).2 := by
  unfold fpSub
  split
  · exact floatFlags_sigFlag _
  · exact floatFlags_fpAdd ..

theorem floatFlags_fpMul (a b : Nat) : FloatFlags (fpMul fr rm a b).2 := by
  unfold fpMul
  split
  · exact floatFlags_sigFlag _
  split
  · exact floatFlags_roundTo ..
  · exact floatFlags_nv
  · exact floatFlags_nv
  all_goals exact floatFlags_zero

theorem floatFlags_fpFma (a b c : Nat) : FloatFlags (fpFma fr rm a b c).2 := by
  unfold fpFma
  extract_lets x y z zeroInf sgn pn
  clear_value pn zeroInf x y z
  split
  · exact floatFlags_or (floatFlags_sigFlag _) (floatFlags_ite floatFlags_nv floatFlags_zero)
  split
  · exact floatFlags_nv
  split
  · exact floatFlags_addFin ..
  · exact floatFlags_zero
  · split
    · split
      · exact floatFlags_zero
      · exact floatFlags_nv
    · exact floatFlags_zero

theorem floatFlags_fpMinMax (isMax : Bool) (a b : Nat) : FloatFlags (fpMinMax fr isMax a b).2 := by
  unfold fpMinMax
  dsimp only
  split_ifs <;> exact floatFlags_sigFlag _

theorem floatFlags_fpCmp (k : Cond) (a b : Nat) : FloatFlags (fpCmp fr k a b).2 := by
  unfold fpCmp
  split
  · split
    · exact floatFlags_sigFlag _
    · exact floatFlags_sigFlag _
    · exact floatFlags_nv
  · exact floatFlags_zero

theorem floatFlags_fpSqrt (a : Nat) : FloatFlags (fpSqrt fr rm a).2 := by
  unfold fpSqrt
  split
  · exact floatFlags_ite floatFlags_nv floatFlags_zero
  · exact floatFlags_zero
  · exact floatFlags_nv
  · split
    · exact floatFlags_zero
    split
    · exact floatFlags_nv
    · exact floatFlags_roundSticky ..

/-! ### Conversion (R261, R325) -/

theorem floatFlags_f32ToBf (a : Nat) : FloatFlags (f32ToBf rm a).2 := by
  unfold f32ToBf
  split
  · exact floatFlags_ite floatFlags_nv floatFlags_zero
  · exact floatFlags_zero
  · exact floatFlags_roundTo ..

theorem floatFlags_bfToF32 (a : Nat) : FloatFlags (bfToF32 a).2 := by
  unfold bfToF32
  split
  · exact floatFlags_ite floatFlags_nv floatFlags_zero
  · exact floatFlags_zero

theorem floatFlags_fvToInt (lo hi : Int) (x : FV) : FloatFlags (fvToInt rm lo hi x).2 := by
  have nx : FloatFlags flNX := by unfold FloatFlags; decide
  unfold fvToInt
  split
  · exact floatFlags_nvSatf
  · exact floatFlags_nvSatf
  · dsimp only
    split
    · exact floatFlags_nvSatf
    · exact floatFlags_ite nx floatFlags_zero

theorem floatFlags_encodeT (n : Nat) (x : FV) : FloatFlags (encodeT n x).2 := by
  have saturated (same beyond : Bool) : FloatFlags ((if same then 0 else flNX) + if beyond then flSATF else 0) := by
    unfold FloatFlags
    cases same <;> cases beyond <;> decide
  unfold encodeT
  split
  · exact floatFlags_ite floatFlags_nv floatFlags_zero
  · exact saturated false true
  · split
    · exact floatFlags_zero
    · exact saturated ..

theorem floatFlags_intResult (t : Ty) (sat : Bool) (v : Int) : FloatFlags (intResult t sat v).2 := by
  have satf : FloatFlags flSATF := by unfold FloatFlags; decide
  unfold intResult
  split
  · exact floatFlags_ite satf floatFlags_zero
  · exact floatFlags_zero

theorem floatFlags_convert (src dst : Ty) (sat : Bool) (bits : Nat) : FloatFlags (convert src dst rm sat bits).2 := by
  unfold convert
  split
  · exact floatFlags_zero
  split
  · exact floatFlags_intResult ..
  split
  · split
    · exact floatFlags_bfToF32 _
    · split
      · exact floatFlags_roundTo ..
      · exact floatFlags_zero
    · split
      · exact floatFlags_roundTo ..
      · exact floatFlags_zero
    · exact floatFlags_roundInt ..
  · split
    · exact floatFlags_f32ToBf _
    · split
      · exact floatFlags_roundTo ..
      · exact floatFlags_zero
    · split
      · exact floatFlags_roundTo ..
      · exact floatFlags_zero
    · exact floatFlags_roundInt ..
  · exact floatFlags_snd_ite (floatFlags_or (floatFlags_roundInt ..) (floatFlags_encodeT ..)) (floatFlags_encodeT ..)
  · exact floatFlags_snd_ite (floatFlags_or (floatFlags_roundInt ..) (floatFlags_encodeT ..)) (floatFlags_encodeT ..)
  · exact floatFlags_fvToInt ..

theorem floatFlags_fcvtVal (cv : FCvt) (a : Word) : FloatFlags (fcvtVal cv rm a).2 := by
  cases cv <;> exact floatFlags_convert (rm := rm) ..

end Sys2Proof.Laws
end

section
/-! PROOFS. What a scalar instruction without a memory operand may change, as a relation that its steps keep (R153, R154, R166, R232). -/

namespace Sys2Proof.Laws

open Sys2Proof Sys2Proof.Machine

/-! ### The relation -/

/-- A status word with flags of fl perhaps set (R303). -/
def FlagsUp (fl a b : Word) : Prop := ∃ f, f &&& ~~~fl = 0 ∧ b = a ||| f

theorem FlagsUp.refl (fl a : Word) : FlagsUp fl a a := ⟨0, by simp, by simp⟩

theorem FlagsUp.trans {fl a b c : Word} (h : FlagsUp fl a b) (k : FlagsUp fl b c) : FlagsUp fl a c := by
  obtain ⟨f, hf, rfl⟩ := h
  obtain ⟨g, hg, rfl⟩ := k
  refine ⟨f ||| g, ?_, BitVec.or_assoc ..⟩
  rw [BitVec.and_comm, BitVec.and_or_distrib_left, BitVec.and_comm _ f, BitVec.and_comm _ g, hf, hg]
  rfl

/-- Only bits of fl may change, and no bit is cleared. -/
theorem FlagsUp.bits {fl a b : Word} (h : FlagsUp fl a b) : b &&& ~~~fl = a &&& ~~~fl ∧ a &&& ~~~b = 0 := by
  obtain ⟨f, hf, rfl⟩ := h
  constructor
  · rw [BitVec.and_comm, BitVec.and_or_distrib_left, BitVec.and_comm _ f, hf, BitVec.and_comm]
    exact BitVec.or_zero
  · ext i
    simp only [BitVec.getElem_and, BitVec.getElem_or, BitVec.getElem_not]
    cases a[i] <;> simp

/-- The executing context: its issue, its loop, its queue operands and its fault, the registers of ds and the status bits of fl. -/
structure CtxConfined (ds : List Dst) (fl : Word) (c d : Ctx) : Prop where
  same : d = { c with
    pc := d.pc, loop := d.loop, loopStart := d.loopStart, loopLast := d.loopLast, q4 := d.q4, q5 := d.q5, q7 := d.q7, inbox := d.inbox
    inboxRead := d.inboxRead, st := d.st, fcode := d.fcode, packet := d.packet, blocked := d.blocked, feArr := d.feArr, parked := d.parked
    g := d.g, status := d.status }
  regs : ∀ n, Dst.g n ∉ ds ∨ n = 0 → d.g.get n = c.g.get n
  flags : FlagsUp fl c.status d.status

/-- One core; mine: the instruction runs in its context act. -/
structure CoreConfined (ds : List Dst) (fl : Word) (mine : Prop) (act : Bool) (c d : Core) : Prop where
  away : ¬mine → d = { c with q := d.q } ∧ ((∀ k, Dst.q k ∉ ds) → d = c)
  own : mine → d = { c with c0 := d.c0, c1 := d.c1, q := d.q, pmc := d.pmc, pmcsel := d.pmcsel, pktOut := d.pktOut }
  other : mine → d.ctx (!act) = c.ctx (!act)
  cur : mine → CtxConfined ds fl (c.ctx act) (d.ctx act)

/-- The cores alone change, each as far as a scalar instruction with the destinations ds and the flags fl changes it. -/
structure Confined (ds : List Dst) (fl : Word) (s t : State) : Prop where
  same : t = { s with cores := t.cores }
  core : ∀ key, CoreConfined ds fl (key = s.focus) s.act (s.core key) (t.core key)

variable {ds : List Dst} {fl : Word}

theorem CtxConfined.refl (c : Ctx) : CtxConfined ds fl c c := ⟨rfl, fun _ _ => rfl, .refl ..⟩

theorem CtxConfined.trans {c d e : Ctx} (h : CtxConfined ds fl c d) (k : CtxConfined ds fl d e) : CtxConfined ds fl c e :=
  ⟨k.same.trans (by rw [h.same]), fun n hn => (k.regs n hn).trans (h.regs n hn), h.flags.trans k.flags⟩

/-- A step that touches no register and no status. -/
theorem CtxConfined.of_same {c d : Ctx} (h : d = { c with
    pc := d.pc, loop := d.loop, loopStart := d.loopStart, loopLast := d.loopLast, q4 := d.q4, q5 := d.q5, q7 := d.q7, inbox := d.inbox
    inboxRead := d.inboxRead, st := d.st, fcode := d.fcode, packet := d.packet, blocked := d.blocked, feArr := d.feArr, parked := d.parked }) :
    CtxConfined ds fl c d := by
  rw [h]
  exact ⟨rfl, fun _ _ => rfl, .refl ..⟩

theorem CoreConfined.refl (mine : Prop) (act : Bool) (c : Core) : CoreConfined ds fl mine act c c :=
  ⟨fun _ => ⟨rfl, fun _ => rfl⟩, fun _ => rfl, fun _ => rfl, fun _ => .refl _⟩

theorem CoreConfined.trans {mine : Prop} {act : Bool} {c d e : Core} (h : CoreConfined ds fl mine act c d) (k : CoreConfined ds fl mine act d e) :
    CoreConfined ds fl mine act c e where
  away hm := ⟨(k.away hm).1.trans (by rw [(h.away hm).1]), fun hq => ((k.away hm).2 hq).trans ((h.away hm).2 hq)⟩
  own hm := (k.own hm).trans (by rw [h.own hm])
  other hm := (k.other hm).trans (h.other hm)
  cur hm := (h.cur hm).trans (k.cur hm)

/-- Neither which context is active nor a descriptor changes. -/
theorem CoreConfined.config {mine : Prop} {act : Bool} {c d : Core} (h : CoreConfined ds fl mine act c d) : d.active = c.active ∧ d.rdesc = c.rdesc := by
  by_cases hm : mine
  · rw [h.own hm]; exact ⟨rfl, rfl⟩
  · rw [(h.away hm).1]; exact ⟨rfl, rfl⟩

variable {s t : State}

theorem Confined.refl (s : State) : Confined ds fl s s := ⟨rfl, fun _ => .refl ..⟩

theorem Confined.focus (h : Confined ds fl s t) : t.focus = s.focus := by rw [h.same]

theorem Confined.act (h : Confined ds fl s t) : t.act = s.act := by
  rw [State.act, State.me, h.focus, (h.core s.focus).config.1]; rfl

theorem Confined.phys (h : Confined ds fl s t) (l : Nat) : t.phys l = s.phys l := by
  simp only [State.phys, skewOf, spmDesc, (h.core _).config.2]

theorem Confined.trans {u : State} (h : Confined ds fl s t) (k : Confined ds fl t u) : Confined ds fl s u where
  same := k.same.trans (by rw [h.same])
  core key := by
    have step := k.core key
    rw [h.focus, h.act] at step
    exact (h.core key).trans step

/-! ### Steps -/

theorem confined_setCore {key : Nat} {d : Core} (h : CoreConfined ds fl (key = s.focus) s.act (s.core key) d) : Confined ds fl s (s.setCore key d) where
  same := rfl
  core k := by
    by_cases hk : k = key
    · subst hk; rwa [State.core_setCore_same]
    · rw [State.core_setCore_other _ _ hk]; exact .refl ..

theorem confined_modCur {f : Ctx → Ctx} (h : ∀ c, CtxConfined ds fl c (f c)) : Confined ds fl s (s.modCur f) := by
  refine confined_setCore ⟨fun hm => absurd rfl hm, fun _ => ?_, fun _ => ?_, fun _ => ?_⟩
  · cases s.act <;> rfl
  · cases s.act <;> rfl
  · rw [Core.ctx_setCtx_same]
    exact h _

/-- The executing core, but for its contexts. -/
theorem confined_modMe {k : Nat} {f : Core → Core} (hk : k = s.focus)
    (h : ∀ c, f c = { c with q := (f c).q, pmc := (f c).pmc, pmcsel := (f c).pmcsel, pktOut := (f c).pktOut }) : Confined ds fl s (s.modCore k f) := by
  refine confined_setCore ⟨fun hm => absurd hk hm, fun _ => ?_, fun _ => ?_, fun _ => ?_⟩
  · rw [h]
  · rw [h]; cases s.act <;> rfl
  · rw [h]; cases s.act <;> exact .refl _

theorem confined_countPmc {k : Nat} (hk : k = s.focus) (o : Option Bool) (ev n : Nat) : Confined ds fl s (countPmc s k o ev n) := by
  obtain ⟨v, w, h⟩ := countPmc_eq s k o ev n
  rw [h]
  exact confined_modMe (f := fun c => { c with pmc := v, pmcsel := w }) hk fun _ => rfl

/-- A write of g0 is ignored, of another register of ds takes the value (R275). -/
theorem confined_writeG {n : Fin 48} (v : Word) (hn : Dst.g n ∈ ds) : Confined ds fl s (s.modCur fun c => c.writeG n v) := by
  refine confined_modCur fun c => ?_
  unfold Ctx.writeG
  split_ifs with h0
  · exact .refl _
  · refine ⟨rfl, fun r hr => ?_, .refl ..⟩
    have other : n.val ≠ r.val := fun he => by
      obtain rfl := Fin.ext he
      exact hr.elim (absurd hn) h0
    simp [Vector.get_eq_getElem, other]

theorem confined_orFlags {f : Nat} (hf : BitVec.ofNat 64 f &&& ~~~fl = 0) : Confined ds fl s (s.modCur fun c => c.orFlags f) :=
  confined_modCur fun _ => ⟨rfl, fun _ _ => rfl, _, hf, rfl⟩

theorem confined_retire : Confined ds fl s (retire s) := by
  refine confined_modCur fun c => ?_
  unfold retireAt
  dsimp only
  split
  · split_ifs <;> exact .of_same rfl
  · exact .of_same rfl

theorem confined_jumpTo (pc : BitVec 15) : Confined ds fl s (jumpTo s pc) := confined_modCur fun _ => .of_same rfl

theorem confined_stay : Confined ds fl s (stay s) := confined_modCur fun _ => .of_same rfl

theorem confined_stayBlocked : Confined ds fl s (stayBlocked s) := confined_modCur fun _ => .of_same rfl

theorem confined_modCtx {k : Nat} {n : Bool} {f : Ctx → Ctx} (hk : k = s.focus) (hn : n = s.act) (h : ∀ c, CtxConfined ds fl c (f c)) :
    Confined ds fl s (s.modCtx k n f) := by
  subst hk hn
  exact confined_modCur h

theorem confined_freezeWith {k : Nat} {n : Bool} (hk : k = s.focus) (hn : n = s.act) (code : Nat) (pkt : Packet) :
    Confined ds fl s (freezeWith s k n code pkt) := by
  have frozen : Confined ds fl s (s.modCtx k n fun c =>
      { c with st := .frozen, fcode := BitVec.ofNat 8 code, packet := pkt, blocked := max 1 c.blocked, feArr := none, parked := none }) :=
    confined_modCtx hk hn fun _ => .of_same rfl
  have counted := frozen.trans (confined_countPmc (hk.trans frozen.focus.symm) (some n) 8 1)
  simp only [freezeWith]
  split
  · exact counted.trans (confined_modMe (hk.trans counted.focus.symm) fun _ => rfl)
  · exact counted

/-- A fault freezes the context at its instruction, or past it (R232). -/
theorem confined_takeFault (f : FaultInfo) : Confined ds fl s (takeFault s s.focus s.act f) := by
  have moved (pc : BitVec 15) : Confined ds fl s (s.modCtx s.focus s.act fun c => { c with pc }) :=
    confined_modCtx rfl rfl fun _ => .of_same rfl
  exact (moved _).trans (confined_freezeWith (moved _).focus.symm (moved _).act.symm ..)

/-! ### Attempts -/

/-- What an attempt that stops leaves of s satisfies R. -/
def Stop.Leaves (R : State → Prop) (s : State) : Stop → Prop
  | .wait keep | .block keep | .raise _ keep => R (keep s)

/-- An attempt from s that stops and leaves what R says, or ends with what P says. -/
def Ends {α : Type} (R : State → Prop) (s : State) (P : α → Prop) : Exec α → Prop
  | .ok a => P a
  | .error e => Stop.Leaves R s e

section
variable {α β : Type} {R : State → Prop} {P : α → Prop}

theorem Ends.bind {Q : β → Prop} {x : Exec α} {f : α → Exec β} (hx : Ends R s P x) (hf : ∀ a, P a → Ends R s Q (f a)) : Ends R s Q (x >>= f) := by
  cases x with
  | ok a => exact hf a hx
  | error e => exact hx

theorem Ends.mono {Q : α → Prop} {x : Exec α} (hx : Ends R s P x) (h : ∀ a, P a → Q a) : Ends R s Q x := by
  cases x with
  | ok a => exact h a hx
  | error e => exact hx

theorem Ends.ok {a : α} (h : P a) : Ends R s P (.ok a) := h

variable (hR : R s)
include hR

theorem ends_blocking : Ends R s P blocking := hR

theorem ends_raise (f : FaultInfo) : Ends R s P (raise f) := hR

theorem ends_waitFor (b : Bool) : Ends R s (fun _ => True) (waitFor b) := by
  cases b
  · exact hR
  · exact trivial

theorem ends_blockFor (b : Bool) : Ends R s (fun _ => b = true) (blockFor b) := by
  cases b
  · exact hR
  · exact (rfl : true = true)

theorem ends_raiseIf (b : Bool) (f : FaultInfo) : Ends R s (fun _ => True) (raiseIf b f) := by
  cases b
  · exact trivial
  · exact hR

theorem ends_raiseOpt (f : Option FaultInfo) : Ends R s (fun _ => True) (raiseOpt f) := by
  cases f
  · exact trivial
  · exact hR

end

/-- Nothing has changed. -/
def Stays (s u : State) : Prop := u = s

theorem Stays.self (s : State) : Stays s s := rfl

/-! ### Operands (R165, R275) -/

theorem ends_readSrc_from {R : State → Prop} (hR : R s) (u : State) (x : Src) :
    Ends R s (fun r : Word × State => Confined ds fl u r.2) (readSrc u x) := by
  have read {w : Word} {t : State} (h : Confined ds fl u t) : Ends R s (fun r : Word × State => Confined ds fl u r.2) (.ok (w, t)) := h
  cases x with
  | g n => exact .bind (ends_waitFor hR _) fun _ _ => .refl u
  | t n => exact .refl u
  | q i =>
    simp only [readSrc]
    split
    · exact read (confined_modMe rfl fun _ => rfl)
    · exact ends_blocking hR
  | q4 | q5 | q7 =>
    simp only [readSrc]
    split
    · exact read (confined_modCur fun _ => .of_same rfl)
    · exact ends_blocking hR
  | q6 =>
    simp only [readSrc]
    split
    · refine read (confined_modCur fun c => ?_)
      split_ifs <;> exact .of_same rfl
    · exact ends_blocking hR

variable {u : State} (hu : Confined ds fl s u)
include hu

theorem ends_readSrc (x : Src) : Ends (Stays s) s (fun r : Word × State => Confined ds fl s r.2) (readSrc u x) :=
  (ends_readSrc_from (.self s) u x).mono fun _ h => hu.trans h

theorem ends_read2 (x y : Src) : Ends (Stays s) s (fun r : Word × Word × State => Confined ds fl s r.2.2) (read2 u x y) :=
  .bind (ends_readSrc hu x) fun _ h => .bind (ends_readSrc h y) fun _ k => k

theorem ends_pushQueue {k : Fin 4} (w : QWord) (hk : Dst.q k ∈ ds) : Ends (Stays s) s (Confined ds fl s) (pushQueue u k w) := by
  unfold pushQueue
  dsimp only
  split
  · refine hu.trans (confined_setCore ⟨fun _ => ⟨rfl, fun h => absurd hk (h k)⟩, fun _ => rfl, fun _ => ?_, fun _ => ?_⟩)
    · cases u.act <;> rfl
    · cases u.act <;> exact .refl _
  · exact rfl

theorem ends_writeDst {d : Dst} (v : Word) (hd : d ∈ ds) : Ends (Stays s) s (Confined ds fl s) (writeDst u d v) := by
  cases d with
  | g n => exact .bind (ends_waitFor (.self s) _) fun _ _ => hu.trans (confined_writeG v hd)
  | q k => exact ends_pushQueue hu _ hd

theorem ends_writeFlags {d : Dst} {r : Nat × Nat} (hr : BitVec.ofNat 64 r.2 &&& ~~~fl = 0) (hd : d ∈ ds) :
    Ends (Stays s) s (Confined ds fl s) (writeFlags u d r) :=
  ends_writeDst (hu.trans (confined_orFlags hr)) _ hd

/-! ### Issue (R153, R216, R268, R274) -/

omit hu in
theorem confined_settle {r : Exec (State × Flow)} (hr : Ends (Stays s) s (fun x => Confined ds fl s x.1) r) (h : settle s r = .next t) : Confined ds fl s t := by
  unfold settle at h
  split at h <;> cases h
  · exact hr.trans confined_retire
  · exact hr.trans (confined_jumpTo _)
  · exact hr
  · rw [show Stays s _ from hr]; exact confined_stay
  · rw [show Stays s _ from hr]; exact confined_stayBlocked
  · rw [show Stays s _ from hr]; exact confined_takeFault _

omit hu in
theorem confined_issue {w : Where} {c : Com} {m : State → Exec (State × Flow)} (hm : Ends (Stays s) s (fun x => Confined ds fl s x.1) (m s))
    (h : issue w c s m = .next t) : Confined ds fl s t := by
  refine confined_settle ?_ h
  refine .bind (ends_blockFor (.self s) _) fun _ _ => .bind (ends_raiseIf (.self s) _ _) fun _ _ => .bind (ends_waitFor (.self s) _) fun _ _ => ?_
  split
  · exact .refl _
  · refine .bind (ends_waitFor (.self s) _) fun _ _ => .bind hm fun (v, f) hv => ?_
    have kept : Confined ds fl s v := hv
    have counted : Confined ds fl s (countPmc v s.focus (some s.act) 2 1) := kept.trans (confined_countPmc kept.focus.symm ..)
    exact counted

omit hu in
theorem confined_issueFall {w : Where} {c : Com} {m : State → Exec State} (hm : Ends (Stays s) s (Confined ds fl s) (m s))
    (h : issueFall w c s m = .next t) : Confined ds fl s t :=
  confined_issue (Ends.bind (Q := fun x : State × Flow => Confined ds fl s x.1) hm fun _ hx => .ok hx) h

end Sys2Proof.Laws
end

section
/-! PROOFS. What the scalar instructions without a memory operand leave as it is (R154, R159, R303 to R325). -/

namespace Sys2Proof.Laws

open Sys2Proof Sys2Proof.Machine

variable {s t : State} {c : Com} {d : Dst} {a b x : Use Src} {ds : List Dst} {fl : Word}

/-! ### Results of sources (R312 to R320) -/

theorem confined_alu2 {f : Word → Word → Word} (hd : d ∈ ds) (h : alu2 c d a b f s = .next t) : Confined ds fl s t :=
  confined_issueFall (.bind (ends_read2 (.refl s) ..) fun _ hu => ends_writeDst hu _ hd) h

theorem confined_alu1 {f : Word → Word} (hd : d ∈ ds) (h : alu1 c d a f s = .next t) : Confined ds fl s t :=
  confined_issueFall (.bind (ends_readSrc (.refl s) _) fun _ hu => ends_writeDst hu _ hd) h

theorem confined_alu0 {v : Word} (hd : d ∈ ds) (h : alu0 c d v s = .next t) : Confined ds fl s t :=
  confined_issueFall (ends_writeDst (.refl s) _ hd) h

theorem confined_sel (hd : d ∈ ds) (h : execSel c d a b x s = .next t) : Confined ds fl s t :=
  confined_issueFall (.bind (ends_readSrc (.refl s) _) fun _ hu => .bind (ends_read2 hu ..) fun _ hv => ends_writeDst hv _ hd) h

theorem confined_bfi {n : Fin 48} {pos : Fin 64} {len : Fin 128} (hd : Dst.g n ∈ ds) (h : execBfi c n a pos len s = .next t) : Confined ds fl s t :=
  confined_issueFall (.bind (ends_readSrc (.refl s) _) fun _ hu => .bind (ends_readSrc hu _) fun _ hv => ends_writeDst hv _ hd) h

/-! ### Transfers of control (R304 to R310) -/

theorem ends_ok_flow {f : Machine.Flow} (h : Confined ds fl s t) : Ends (Stays s) s (fun r : State × Machine.Flow => Confined ds fl s r.1) (.ok (t, f)) := h

theorem ends_linkTo {u : State} (hu : Confined ds fl s u) (pc : BitVec 15) (hd : Dst.g 47 ∈ ds) :
    Ends (Stays s) s (fun r : State × Flow => Confined ds fl s r.1) (linkTo u pc) :=
  .bind (ends_writeDst hu _ hd) fun _ hv => hv

/-- A source is read, and a transfer decided. -/
theorem confined_readGo {r : Src} {k : Word → State → State × Flow} (hk : ∀ v u, (k v u).1 = u)
    (h : issue .any c s (fun s => do
      let (v, u) ← readSrc s r
      return k v u) = .next t) : Confined ds fl s t := by
  refine confined_issue (.bind (P := fun r : Word × State => Confined ds fl s r.2) (ends_readSrc (.refl s) _) fun (v, u) hu => ?_) h
  change Confined ds fl s (k v u).1
  rwa [hk]

theorem confined_brz {imm : BitVec 24} (h : execBrz c a imm s = .next t) : Confined ds fl s t :=
  confined_readGo (k := fun v u => branchIf u (v == 0) imm) (fun _ _ => rfl) h

theorem confined_brnz {imm : BitVec 24} (h : execBrnz c a imm s = .next t) : Confined ds fl s t :=
  confined_readGo (k := fun v u => branchIf u (v != 0) imm) (fun _ _ => rfl) h

theorem confined_ret (h : execRet c s = .next t) : Confined ds fl s t :=
  confined_readGo (k := fun v u => (u, .jump (codeAddr v))) (fun _ _ => rfl) h

theorem confined_jmpr (h : execJmpr c a s = .next t) : Confined ds fl s t :=
  confined_readGo (k := fun v u => (u, .jump (codeAddr v))) (fun _ _ => rfl) h

theorem confined_brc {cond : Cond} {imm : BitVec 24} (h : execBrc c cond a b imm s = .next t) : Confined ds fl s t := by
  refine confined_issue (.bind (P := fun r : Word × Word × State => Confined ds fl s r.2.2) (ends_read2 (.refl s) ..) fun (v, w, u) hu => ?_) h
  exact hu

theorem confined_br {imm : BitVec 24} (h : execBr c imm s = .next t) : Confined ds fl s t := by
  refine confined_issue ?_ h
  exact .refl s

theorem confined_brp {p : Fin 8} {k : State → Bool} {imm : BitVec 24}
    (h : issue .any c s (fun s => do
      waitFor (!s.predBusy p)
      return branchIf s (k s) imm) = .next t) : Confined ds fl s t := by
  refine confined_issue (.bind (ends_waitFor (.self s) _) fun _ _ => ?_) h
  exact .refl s

theorem confined_loop {imm : BitVec 24} (h : execLoop c a imm s = .next t) : Confined ds fl s t := by
  refine confined_issue (.bind (P := fun r : Word × State => Confined ds fl s r.2) (ends_readSrc (.refl s) _) fun (v, u) hu => ?_) h
  have kept : Confined ds fl s u := hu
  dsimp only
  split
  · exact kept
  · exact ends_ok_flow (kept.trans (confined_modCur fun _ => .of_same rfl))

/-! ### Results with flags (R321 to R325) -/

theorem confined_fop2 {rm : Ctx → Rm} {f : Rm → Nat → Nat → Nat × Nat} (hf : ∀ m x y, FloatFlags (f m x y).2) (hd : d ∈ ds)
    (h : fop2 c rm d a b f s = .next t) : Confined ds 0x20F8 s t :=
  confined_issueFall (.bind (ends_read2 (.refl s) ..) fun _ hu => ends_writeFlags hu (hf ..) hd) h

theorem confined_ffma {r : Rnd} (hd : d ∈ ds) (h : execFfma c r d a b x s = .next t) : Confined ds 0x20F8 s t :=
  confined_issueFall (.bind (ends_read2 (.refl s) ..) fun _ hu => .bind (ends_readSrc hu _) fun _ hv => ends_writeFlags hv (floatFlags_fpFma ..) hd) h

theorem confined_fsqrt {f : FForm} (hd : d ∈ ds) (h : execFsqrt c f d a s = .next t) : Confined ds 0x20F8 s t :=
  confined_issueFall (.bind (ends_readSrc (.refl s) _) fun _ hu => ends_writeFlags hu (floatFlags_fpSqrt _) hd) h

theorem confined_fcvt {cv : FCvt} {f : FForm} (hd : d ∈ ds) (h : execFcvt c cv f d a s = .next t) : Confined ds 0x20F8 s t :=
  confined_issueFall (.bind (ends_readSrc (.refl s) _) fun _ hu => ends_writeFlags hu (floatFlags_fcvtVal ..) hd) h

/-! ### All of them -/

theorem confined_scalar {i : Instr} (hd : scalarDst i = some ds) (h : exec i s = .next t) : Confined ds (scalarFlags i) s t := by
  cases i
  case add | sub | and | or | xor | andn | shl | shr | sra | rotl | min | max | minz | maxz | mul | mulh | mulhz | div | divz | rem | remz
      | setc | lea =>
    cases hd
    unfold exec at h
    exact confined_alu2 (.head _) h
  case addi | andi | ori | xori | shli | shri | srai | clz | ctz | popc | sext | zext | bfx =>
    cases hd
    unfold exec at h
    exact confined_alu1 (.head _) h
  case li24 | li32 | li64 =>
    cases hd
    unfold exec at h
    exact confined_alu0 (.head _) h
  case sel =>
    cases hd
    unfold exec at h
    exact confined_sel (.head _) h
  case bfi =>
    cases hd
    unfold exec at h
    exact confined_bfi (.head _) h
  case fadd =>
    cases hd
    unfold exec at h
    exact confined_fop2 (fun _ => floatFlags_fpAdd) (.head _) h
  case fsub =>
    cases hd
    unfold exec at h
    exact confined_fop2 (fun _ => floatFlags_fpSub) (.head _) h
  case fmul =>
    cases hd
    unfold exec at h
    exact confined_fop2 (fun _ => floatFlags_fpMul) (.head _) h
  case fmin =>
    cases hd
    unfold exec at h
    exact confined_fop2 (fun _ => floatFlags_fpMinMax _) (.head _) h
  case fmax =>
    cases hd
    unfold exec at h
    exact confined_fop2 (fun _ => floatFlags_fpMinMax _) (.head _) h
  case fcmp =>
    cases hd
    unfold exec at h
    exact confined_fop2 (fun _ => floatFlags_fpCmp _) (.head _) h
  case ffma =>
    cases hd
    unfold exec at h
    exact confined_ffma (.head _) h
  case fsqrt =>
    cases hd
    unfold exec at h
    exact confined_fsqrt (.head _) h
  case fcvt =>
    cases hd
    unfold exec at h
    exact confined_fcvt (.head _) h
  case call c imm =>
    cases hd
    unfold exec at h
    exact confined_issue (ends_linkTo (.refl s) _ (.head _)) h
  case callr c a =>
    cases hd
    unfold exec at h
    exact confined_issue (.bind (ends_readSrc (.refl s) _) fun _ hu => ends_linkTo hu _ (.head _)) h
  case nop c l =>
    cases hd
    unfold exec at h
    exact confined_issueFall (.ok (.refl s)) h
  case br =>
    cases hd
    unfold exec at h
    exact confined_br h
  case brc =>
    cases hd
    unfold exec at h
    exact confined_brc h
  case brz =>
    cases hd
    unfold exec at h
    exact confined_brz h
  case brnz =>
    cases hd
    unfold exec at h
    exact confined_brnz h
  case ret =>
    cases hd
    unfold exec at h
    exact confined_ret h
  case jmpr =>
    cases hd
    unfold exec at h
    exact confined_jmpr h
  case brpAny | brpAll =>
    cases hd
    unfold exec at h
    exact confined_brp h
  case loop => cases hd; exact confined_loop h
  case trap c code =>
    cases hd
    unfold exec at h
    exact confined_issue (ends_raise (.self s) _) h
  case brk c =>
    cases hd
    unfold exec at h
    exact confined_issue (ends_raise (.self s) _) h
  all_goals exact nomatch hd

/-- Settles O51: every scalar instruction confines itself to its destinations and flags, and the relation says what that leaves. -/
theorem scalarFrames : Obligations.ScalarFrames := by
  intro i ds s t hd h
  have kept := confined_scalar hd h
  have own := (kept.core s.focus).own rfl
  have cur := (kept.core s.focus).cur rfl
  refine ⟨?_, byteAt_congr kept.same kept.phys, fun key hk => (kept.core key).away hk, ?_, (kept.core s.focus).other rfl, ?_⟩
  · rw [kept.same]
  · rw [sameCore, own]
    rfl
  · rintro d rfl
    refine ⟨?_, cur.regs, cur.flags.bits⟩
    rw [sameCtx, State.ctx, cur.same]
    rfl

end Sys2Proof.Laws
end

section
/-! PROOFS. What a push to the vector and matrix queue may change, as a relation that its steps keep (R88, R153, R186, R188, R204). -/

namespace Sys2Proof.Laws

open Sys2Proof Sys2Proof.Machine

/-! ### The relation -/

/-- A push changes nothing but its own core's queues, buffers and banks, the TLB, requests, and the alarm where L holds. -/
def pushLimits (L : Prop) : Limits := { noLimits with alarm := L }

/-- Within the limits of a push: the queue has its entries and os behind them, and the posted counts stay. -/
structure Staged (L : Prop) (os : List VOp) (s t : State) : Prop where
  within : Within (pushLimits L) s t
  ops : (t.core s.focus).vq.map (·.op) = (s.core s.focus).vq.map (·.op) ++ os
  counts : (t.ctx s.focus s.act).clu = s.cur.clu ∧ (t.ctx s.focus s.act).mod = s.cur.mod ∧ (t.ctx s.focus s.act).sys = s.cur.sys

variable {L : Prop} {os : List VOp} {s t u : State}

theorem Staged.focus (h : Staged L os s t) : t.focus = s.focus := h.within.focus

theorem Staged.act (h : Staged L os s t) : t.act = s.act := h.within.act

theorem Staged.refl (s : State) : Staged L [] s s := ⟨.refl .., (List.append_nil _).symm, rfl, rfl, rfl⟩

theorem Staged.trans {os' : List VOp} (h : Staged L os s t) (k : Staged L os' t u) : Staged L (os ++ os') s u := by
  obtain ⟨hw, ho, hclu, hmod, hsys⟩ := h
  obtain ⟨kw, ko, kclu, kmod, ksys⟩ := k
  rw [State.cur, hw.focus, hw.act] at kclu kmod ksys
  rw [hw.focus] at ko
  exact ⟨hw.trans kw, by rw [ko, ho, List.append_assoc], kclu.trans hclu, kmod.trans hmod, ksys.trans hsys⟩

/-- A step after a push, or before one. -/
theorem Staged.then (h : Staged L os s t) (k : Staged L [] t u) : Staged L os s u := by
  have both := h.trans k
  rwa [List.append_nil] at both

/-! ### Steps -/

/-- What a scalar step without a destination changes. -/
theorem Confined.staged (hw : Within (pushLimits L) s t) (h : Confined [] 0 s t) : Staged L [] s t := by
  have own := (h.core s.focus).own rfl
  have cur := ((h.core s.focus).cur rfl).same
  refine ⟨hw, by rw [own, List.append_nil], ?_⟩
  rw [State.ctx, cur]
  exact ⟨rfl, rfl, rfl⟩

/-- A step outside the cores. -/
theorem staged_of_cores (hw : Within (pushLimits L) s t) (h : t.cores = s.cores) : Staged L [] s t := by
  have core (k : Nat) : t.core k = s.core k := by rw [State.core, h]; rfl
  refine ⟨hw, by rw [core, List.append_nil], ?_⟩
  rw [State.ctx, core]
  exact ⟨rfl, rfl, rfl⟩

/-- The executing core, but for its contexts, its descriptors and which context is active. -/
theorem staged_modMe {k : Nat} {f : Core → Core} (hk : k = s.focus) (h0 : ∀ c, (f c).c0 = c.c0) (h1 : ∀ c, (f c).c1 = c.c1)
    (ha : ∀ c, (f c).active = c.active) (hr : ∀ c, (f c).rdesc = c.rdesc)
    (ho : (f (s.core k)).vq.map (·.op) = (s.core k).vq.map (·.op) ++ os) : Staged L os s (s.modCore k f) := by
  refine ⟨within_modMe hk h0 h1 ha hr, ?_, ?_⟩
  · rw [← hk, State.core_modCore_same, ho]
  · have kept (b : Bool) : (f (s.core s.focus)).ctx b = (s.core s.focus).ctx b := by
      cases b
      · exact h0 _
      · exact h1 _
    rw [State.ctx, ← hk, State.core_modCore_same, hk, kept]
    exact ⟨rfl, rfl, rfl⟩

theorem staged_countPmc {k : Nat} (hk : k = s.focus) (o : Option Bool) (ev n : Nat) : Staged L [] s (countPmc s k o ev n) :=
  (confined_countPmc hk o ev n).staged (within_countPmc hk o ev n)

theorem staged_touchBanks {key : Nat} (hk : key = s.focus) (b : BankOf) (ks : List Nat) : Staged L [] s (touchBanks s key b ks) := by
  induction ks generalizing s with
  | nil => exact .refl s
  | cons k ks ih =>
    have touched : Staged L [] s (s.modCore key fun c => touchBank c b k) := by
      refine staged_modMe hk ?_ ?_ ?_ ?_ ?_
      case refine_5 => obtain ⟨banks, h⟩ := touchBank_eq (s.core key) b k; rw [h, List.append_nil]
      all_goals intro c; obtain ⟨banks, h⟩ := touchBank_eq c b k; rw [h]
    have step : Staged L [] s (if wakes (s.core key) b k = true then
        countPmc (s.modCore key fun c => touchBank c b k) key none (if b == .spm then 7 else 6) 1 else s.modCore key fun c => touchBank c b k) := by
      split
      · exact touched.then (staged_countPmc (hk.trans touched.focus.symm) ..)
      · exact touched
    exact step.then (ih (hk.trans step.focus.symm))

/-! ### Walks (R88, R204) -/

theorem cores_lockAlarm (s : State) (fw : Bool) (cl : Nat) (asid : BitVec 16) (vas : List Nat) : (lockAlarm s fw cl asid vas).cores = s.cores := by
  rcases lockAlarm_cases s fw cl asid vas with h | h
  · rw [h]
  · rw [h, raiseAlarm_eq s 2 false _ rfl]

theorem cores_translated (s : State) (sp : Space) (vas : List Nat) : (translated s sp vas).cores = s.cores := by
  unfold translated
  split
  · refine List.foldlRecOn (motive := fun u : State => u.cores = s.cores) _ _ (cores_lockAlarm ..) fun u hu va _ => ?_
    split
    · exact hu
    · exact hu
  · rfl

/-- The bytes stay as they are where memory, poison and the places of bytes do. -/
theorem Staged.byteAt (h : Staged L os s t) (l : Nat) : t.byteAt l = s.byteAt l := by
  have tick : t.tick = s.tick := by rw [h.within.same]
  simp only [State.byteAt, h.within.phys, h.within.still not_false, (h.within.live not_false).1, tick]

/-- A walk finds the same entries. -/
theorem Staged.walkLocked (h : Staged L os s t) (asid : BitVec 16) (va : Nat) : walkLocked t asid va = walkLocked s asid va := by
  have locked (l : Nat) : t.lockedLoc l = s.lockedLoc l := by rw [h.within.same]; rfl
  have base : t.xlbase = s.xlbase := by rw [h.within.same]
  have word (l n : Nat) : t.readLE l n = s.readLE l n := by simp only [State.readLE, h.byteAt]
  have below (table : Nat) (ls : List (Nat × Nat × Option Nat × Nat)) : walkLockedFrom t va table ls = walkLockedFrom s va table ls := by
    induction ls generalizing table with
    | nil => rfl
    | cons x ls ih => simp only [walkLockedFrom, word, locked, ih]
  simp only [Machine.walkLocked, base, word, locked, below]

theorem staged_translated (h : Staged (LockedWalk s) os s u) (sp : Space) (vas : List Nat) : Staged (LockedWalk s) [] u (translated u sp vas) :=
  staged_of_cores (within_translated fun asid va hf hw => ⟨h.focus ▸ hf, asid, va, h.walkLocked asid va ▸ hw⟩) (cores_translated ..)

/-- A check of addresses that fails has raised the alarm at most. -/
theorem ends_checkedIn {α : Type} (h : u.focus = s.focus) (sp : Space) (vas : List Nat) (r : Except FaultInfo α) :
    Ends (Staged (LockedWalk s) [] s) s (fun _ => True) (checkedIn u sp vas r) := by
  cases r with
  | ok a => exact trivial
  | error f =>
    change Staged (LockedWalk s) [] s (if _ then _ else s)
    split
    · exact staged_of_cores (within_lockAlarm fun va hf hw => ⟨h ▸ hf, _, va, hw⟩) (cores_lockAlarm ..)
    · exact .refl s

/-! ### Reads of the register store (R186, R188) -/

theorem staged_startReads {key : Nat} (hk : key = s.focus) (n : Bool) (gs : List Nat) : Staged L [] s (startReads s key n gs) := by
  unfold startReads
  dsimp only
  have entered (f : Core → List Nat) : Staged L [] s (s.modCore key fun c => { c with staged := f c }) :=
    staged_modMe hk (fun _ => rfl) (fun _ => rfl) (fun _ => rfl) (fun _ => rfl) (List.append_nil _).symm
  exact (entered _).then (staged_touchBanks (hk.trans (entered _).focus.symm) ..)

theorem staged_startEntries {key : Nat} (hk : key = s.focus) (before es : List VEntry) : Staged L [] s (startEntries key before es s) := by
  induction es generalizing s before with
  | nil => exact .refl s
  | cons e es ih =>
    have step : Staged L [] s (if (readsOf e.op).any (s.awaited key e.op.ctx before).contains then s
        else startReads s key e.op.ctx (readsOf e.op)) := by
      split
      · exact .refl s
      · exact staged_startReads hk ..
    exact step.then (ih (hk.trans step.focus.symm) _)

theorem ends_needBanks (b : BankOf) (ks : List Nat) : Ends (Staged L [] s) s (Staged L [] u) (needBanks u b ks) := by
  unfold needBanks
  dsimp only
  split
  · exact staged_touchBanks rfl b ks
  · exact (staged_touchBanks rfl b ks : Staged L [] s (touchBanks s s.focus b ks))

/-! ### The push (R153, R186) -/

/-- The entry stands behind the others, and the reads of the first entries begin. -/
theorem staged_pushEntry (s : State) (o : VOp) : Staged L [o] s (pushEntry s o) := by
  have pushed : Staged L [o] s (s.modMe fun c =>
      { c with vq := c.vq ++ [{ op := o, depth := prefetchDepth c, seqSet := if isMmar o then c.mrset else none }]
               mrset := if isMmar o then none else c.mrset }) :=
    staged_modMe rfl (fun _ => rfl) (fun _ => rfl) (fun _ => rfl) (fun _ => rfl) (by simp)
  exact pushed.then (staged_startEntries pushed.focus.symm ..)

end Sys2Proof.Laws
end

section
/-! PROOFS. What the pushes to the vector and matrix queue leave as it is (R153, R154, R353, R355, R360 to R404). -/

namespace Sys2Proof.Laws

open Sys2Proof Sys2Proof.Machine

variable {i : Instr} {s t u : State} {o : VOp}

/-! ### A push -/

/-- What comes before an instruction enters the queue. -/
abbrev Before (s u : State) : Prop := Staged (LockedWalk s) [] s u

/-- The instruction is not in the queue yet, or stands last, for its context. -/
def Pushed (i : Instr) (s t : State) : Prop :=
  Before s t ∨ ∃ o : VOp, o.instr = i ∧ o.ctx = s.act ∧ s.me.vq.length < 16 ∧ Staged (LockedWalk s) [o] s t

/-- An instruction captured, and the state after its operands have been read. -/
def Captured (i : Instr) (s : State) (r : VOp × State) : Prop := r.1.instr = i ∧ r.1.ctx = s.act ∧ Before s r.2

theorem Pushed.then (h : Pushed i s t) (k : Staged (LockedWalk s) [] t u) : Pushed i s u := by
  obtain h | ⟨o, hi, hc, hr, h⟩ := h
  · exact .inl (h.then k)
  · exact .inr ⟨o, hi, hc, hr, h.then k⟩

theorem pushed_pushEntry (hr : s.me.vq.length < 16) (h : Captured i s (o, u)) : Pushed i s (pushEntry u o) := by
  obtain ⟨hi, hc, hu⟩ := h
  exact .inr ⟨o, hi, hc, hr, hu.trans (staged_pushEntry u o)⟩

/-! ### Issue (R153, R232, R274, R352, R387) -/

theorem pushed_settle {r : Exec (State × Machine.Flow)} (hr : Ends (Before s) s (fun x => Pushed i s x.1) r) (h : settle s r = .next t) :
    Pushed i s t := by
  unfold settle at h
  split at h <;> cases h
  · exact Pushed.then hr (confined_retire.staged within_retire)
  · exact Pushed.then hr ((confined_jumpTo _).staged (within_jumpTo _))
  · exact hr
  · exact .inl (Staged.then hr (confined_stay.staged within_stay))
  · exact .inl (Staged.then hr (confined_stayBlocked.staged within_stayBlocked))
  next f keep =>
    have kept : Before s (keep s) := hr
    have faulted : Staged (LockedWalk s) [] (keep s) (takeFault (keep s) (keep s).focus (keep s).act f) :=
      (confined_takeFault f).staged (within_takeFault rfl rfl f)
    rw [kept.focus, kept.act] at faulted
    exact .inl (kept.then faulted)

theorem pushed_issueV {p : Pred} {wt : Fin 4} {m : Mask → State → Exec State}
    (hm : s.me.vq.length < 16 → Ends (Before s) s (Pushed i s) (m (s.predMask p) s)) (h : issueV p wt s m = .next t) : Pushed i s t := by
  have here : Before s s := .refl s
  refine pushed_settle ?_ h
  refine .bind (ends_blockFor here _) fun _ _ => .bind (ends_raiseIf here _ _) fun _ _ => .bind (ends_waitFor here _) fun _ _ =>
    .bind (ends_waitFor here _) fun _ _ => .bind (ends_blockFor here _) fun _ hr => .bind (hm (of_decide_eq_true hr)) fun _ hx => hx

theorem pushed_issueM {c : Com} {m : State → Exec State}
    (hm : s.me.vq.length < 16 → Ends (Before s) s (Pushed i s) (m s)) (h : issueM c s m = .next t) : Pushed i s t := by
  have here : Before s s := .refl s
  refine pushed_settle ?_ h
  refine .bind (ends_blockFor here _) fun _ _ => .bind (ends_raiseIf here _ _) fun _ _ => .bind (ends_waitFor here _) fun _ _ => ?_
  split
  · exact .inl here
  · exact .bind (ends_waitFor here _) fun _ _ => .bind (ends_blockFor here _) fun _ hr => .bind (hm (of_decide_eq_true hr)) fun _ hx => hx

/-! ### The parts of a push -/

theorem ends_checkViews (s u : State) (o : VOp) : Ends (Before s) s (fun _ => True) (checkViews u o) := by
  have here : Before s s := .refl s
  have live : Ends (Before s) s (fun _ => True) (do
      waitFor (!mmarPending u u.focus u.act (readsOf o))
      raiseOpt ((lowestDead (progReadable u u.focus u.act) (readsOf o)).map fDead)) :=
    .bind (ends_waitFor here _) fun _ _ => ends_raiseOpt here _
  refine .bind (ends_raiseIf here _ _) fun _ _ => .bind (ends_raiseOpt here _) fun _ _ => ?_
  split
  · exact .bind (ends_raiseOpt here _) fun _ _ => live
  · exact live

theorem ends_read (hu : Before s u) (x : Src) : Ends (Before s) s (fun r : Word × State => Before s r.2) (readSrc u x) := by
  have kept : Ends (Before s) s (fun r : Word × State => Confined [] 0 u r.2) (readSrc u x) := ends_readSrc_from (.refl s) u x
  cases h : readSrc u x with
  | ok r =>
    rw [h] at kept
    exact hu.then (Confined.staged (within_readSrc h) kept)
  | error e =>
    rw [h] at kept
    exact kept

theorem ends_memAddr32 (hu : Before s u) (m : MemOp32) : Ends (Before s) s (fun r : Nat × State => Before s r.2) (memAddr32 u m) :=
  .bind (ends_read hu _) fun _ hv => hv

theorem ends_indexElems (hu : Before s u) (w : Word) : Ends (Before s) s (fun r : List Int × State => Before s r.2) (indexElems u w) :=
  .bind (ends_waitFor (.refl s) _) fun _ _ => .bind (ends_needBanks ..) fun _ hv => hu.then hv

section
variable (h : Captured i s (o, u)) (sp : Space)
include h

theorem captured_translated (ms : List Nat) (ps : List (Nat × Nat)) (vas : List Nat) :
    Captured i s ({ o with mem := ps, ms }, translated u sp vas) := by
  obtain ⟨hi, hc, hu⟩ := h
  exact ⟨hi, hc, hu.then (staged_translated hu sp vas)⟩

theorem ends_imageMem (p : PageUse) (al a : Nat) (places : List Nat) : Ends (Before s) s (Captured i s) (imageMem u o sp p al a places) := by
  unfold imageMem
  split
  · exact h
  · exact .bind (ends_raiseOpt (.refl s) _) fun _ _ => .bind (ends_checkedIn h.2.2.focus ..) fun _ _ => captured_translated h ..

theorem ends_elementMem (p : PageUse) (al : Nat) (es : List (Nat × List Nat)) : Ends (Before s) s (Captured i s) (elementMem u o sp p al es) :=
  .bind (ends_checkedIn h.2.2.focus ..) fun _ _ => captured_translated h ..

theorem ends_tileMem (al a pitch : Nat) (pas : List (Nat × Nat)) : Ends (Before s) s (Captured i s) (tileMem u o sp al a pitch pas) :=
  .bind (ends_raiseOpt (.refl s) _) fun _ _ => .bind (ends_checkedIn h.2.2.focus ..) fun _ _ => captured_translated h ..

end

/-- What is captured is checked and enters the queue. -/
theorem ends_checkedPush (hr : s.me.vq.length < 16) (h : Captured i s (o, u)) : Ends (Before s) s (Pushed i s) (do
    checkViews u o
    return pushEntry u o) :=
  .bind (ends_checkViews ..) fun _ _ => pushed_pushEntry hr h

end Sys2Proof.Laws
end

section
/-! PROOFS. The tile reads that a push begins (R392), and the frame of every push (R355, R387). -/

namespace Sys2Proof.Laws

open Sys2Proof Sys2Proof.Machine

variable {L : Prop} {i : Instr} {s t u : State} {o : VOp} {c : Com}

/-! ### Tile reads (R392) -/

theorem map_lset {α β : Type} {f : α → β} {l : List α} {k : Nat} {x y : α} (hk : l[k]? = some x) (hf : f y = f x) : (lset l k y).map f = l.map f := by
  induction l generalizing k with
  | nil => rfl
  | cons a l ih =>
    cases k with
    | zero =>
      obtain rfl := Option.some.inj hk
      simp only [lset, List.map_cons, hf]
    | succ k => simp only [lset, List.map_cons, ih hk]

/-- The entry whose tile reads are due is an MMA.RA, at its place in the queue. -/
theorem tileDue_some {key k : Nat} {e : VEntry} (h : tileDue s key = some (e, k)) : isMmaRa e = true ∧ (s.core key).vq[k]? = some e := by
  have due := List.find?_some h
  simp only [Bool.and_assoc, Bool.and_eq_true] at due
  obtain ⟨j, hj, he⟩ := List.getElem_of_mem (List.mem_of_find?_eq_some h)
  rw [List.getElem_zip, List.getElem_range] at he
  cases he
  exact ⟨due.1, List.getElem?_eq_getElem _⟩

/-- An MMA.RA allocates no line and hits none: its reads are requests, which no posted count covers. -/
theorem startLoads_of_na {key id : Nat} (h : opNa o.instr = true) : ∃ f n, (startLoads s key o id).1 = { s with fabric := f, nextId := n } := by
  unfold startLoads
  simp only [h, Bool.not_true, Bool.false_and, Bool.false_eq_true, if_false]
  refine List.foldlRecOn (motive := fun a : State × Flight => ∃ f n, a.1 = { s with fabric := f, nextId := n }) _ _ ⟨_, _, rfl⟩ ?_
  rintro a ⟨f, n, ha⟩ ln -
  rw [sendReq_uncounted _ rfl, ha]
  exact ⟨_, _, rfl⟩

theorem staged_startTiles {key : Nat} (hk : key = s.focus) (n : Nat) : Staged L [] s (startTiles s key n) := by
  induction n generalizing s with
  | zero => exact .refl s
  | succ n ih =>
    unfold startTiles
    split
    · exact .refl s
    next e k hd =>
      obtain ⟨hra, hat⟩ := tileDue_some hd
      have na : opNa e.op.instr = true := by
        unfold isMmaRa at hra
        split at hra
        next hi => rw [hi]; rfl
        · cases hra
      obtain ⟨f, m, hf⟩ := startLoads_of_na (s := { s with nextId := s.nextId + 1 }) (key := key) (id := s.nextId) na
      dsimp only
      rw [hf]
      have sent : Staged L [] s { s with fabric := f, nextId := m } := staged_of_cores (within_fabric f m) rfl
      have same (id : Nat) : (lset (s.core key).vq k { e with tile := some id }).map (·.op) = (s.core key).vq.map (·.op) ++ [] := by
        rw [List.append_nil]
        exact map_lset hat rfl
      have marked (fl : List Flight) (id : Nat) : Staged L [] { s with fabric := f, nextId := m }
          (({ s with fabric := f, nextId := m } : State).modCore key fun c =>
            { c with fly := c.fly ++ fl, vq := lset c.vq k { e with tile := some id } }) :=
        staged_modMe hk (fun _ => rfl) (fun _ => rfl) (fun _ => rfl) (fun _ => rfl) (same id)
      have step (fl : List Flight) (id : Nat) := sent.then (marked fl id)
      exact (step _ _).then (ih (hk.trans (step _ _).focus.symm))

/-! ### Forms whose operands are captured at once (R355, R390) -/

theorem pushed_pushV {p : Pred} {wt : Fin 4} {fill : VOp → State → Exec (VOp × State)}
    (hf : ∀ o, o.instr = i → o.ctx = s.act → Ends (Before s) s (Captured i s) (fill o s)) (h : pushV p wt i s fill = .next t) : Pushed i s t :=
  pushed_issueV (fun hr => .bind (hf _ rfl rfl) fun _ ho => ends_checkedPush hr ho) h

theorem pushed_pushM {fill : VOp → State → Exec (VOp × State)}
    (hf : ∀ o, o.instr = i → o.ctx = s.act → Ends (Before s) s (Captured i s) (fill o s)) (h : pushM c i s fill = .next t) : Pushed i s t :=
  pushed_issueM (fun hr => .bind (hf _ rfl rfl) fun _ ho => ends_checkedPush hr ho) h

theorem captured_at (hi : o.instr = i) (hc : o.ctx = s.act) (hu : Before s u) : Ends (Before s) s (Captured i s) (.ok (o, u)) := ⟨hi, hc, hu⟩

/-- The operands are captured and nothing is read. -/
theorem ends_captured (hi : o.instr = i) (hc : o.ctx = s.act) : Ends (Before s) s (Captured i s) (.ok (o, s)) := captured_at hi hc (.refl s)

theorem pushed_pushVVV {d : Fin 16} {a b : Use (Fin 16)} (h : pushVVV c i d a b s = .next t) : Pushed i s t :=
  pushed_pushV (fun _ hi hc => ends_captured hi hc) h

theorem pushed_pushVV {d : Fin 16} {a : Use (Fin 16)} (h : pushVV c i d a s = .next t) : Pushed i s t :=
  pushed_pushV (fun _ hi hc => ends_captured hi hc) h

theorem pushed_vbcast {ty : Ty} {d : Fin 16} {a : Use Src} (h : execVbcast c ty d a s = .next t) : Pushed (.vbcast c ty d a) s t :=
  pushed_pushV (fun _ hi hc => .bind (ends_read (.refl s) _) fun (_, _) hu => captured_at hi hc hu) h

/-! ### Memory forms (R360 to R365, R392, R398 to R403) -/

theorem captured_of (hu : Before s u) (hi : o.instr = i) (hc : o.ctx = u.act) : Captured i s (o, u) := ⟨hi, hc.trans hu.act, hu⟩

theorem ends_pushEntry (hr : s.me.vq.length < 16) (h : Captured i s (o, u)) : Ends (Before s) s (Pushed i s) (.ok (pushEntry u o)) :=
  pushed_pushEntry hr h

theorem pushed_vldst {ty : Ty} {d : Fin 16} {m : MemOp32} {p : PageUse} (h : vldst c i ty d m p s = .next t) : Pushed i s t := by
  refine pushed_issueV (fun hr => .bind (ends_memAddr32 (.refl s) m) fun (_, _) hu => ?_) h
  refine .bind (ends_checkViews ..) fun _ _ => .bind (ends_imageMem (captured_of hu rfl rfl) ..) fun (_, _) ho => ?_
  exact ends_pushEntry hr ho

theorem pushed_vlane {ty : Ty} {d : Fin 16} {a : Use Src} {off : BitVec 32} {idx : Option (Use (Fin 16))} (h : vlane c i ty d a off idx s = .next t) :
    Pushed i s t := by
  have here : Before s s := .refl s
  refine pushed_issueV (fun hr => .bind (ends_read here _) fun (_, _) hu => .bind (ends_checkViews ..) fun _ _ => ?_) h
  cases idx with
  | none =>
    refine .bind (P := fun r : List Int × State => Before s r.2) hu fun (_, _) hv =>
      .bind (ends_raiseOpt here _) fun _ _ => .bind (ends_raiseOpt here _) fun _ _ => ?_
    exact ends_pushEntry hr ⟨rfl, hu.act, hv⟩
  | some x =>
    refine .bind (ends_indexElems hu _) fun (_, _) hv => .bind (ends_raiseOpt here _) fun _ _ => .bind (ends_raiseOpt here _) fun _ _ => ?_
    exact ends_pushEntry hr ⟨rfl, hu.act, hv⟩

theorem pushed_vindexed {ty : Ty} {d : Fin 16} {m : MemOp32} {x : Use (Fin 16)} {sc : Fin 4} {p : PageUse} (h : vindexed c i ty d m x sc p s = .next t) :
    Pushed i s t := by
  refine pushed_issueV (fun hr => .bind (ends_memAddr32 (.refl s) m) fun (_, _) hu => .bind (ends_checkViews ..) fun _ _ => ?_) h
  refine .bind (ends_indexElems hu _) fun (_, _) hv => .bind (ends_elementMem ⟨rfl, hu.act, hv⟩ ..) fun (_, _) ho => ?_
  exact ends_pushEntry hr ho

theorem pushed_pushMepi {ty : Ty} {acc : Use (Fin 16)} {base : Src} {sel : Space} {off : Int} {pitch : Nat} {cols : Option (Fin 16)}
    (h : pushMepi c i ty acc base sel off pitch cols s = .next t) : Pushed i s t := by
  refine pushed_issueM (fun hr => .bind (ends_read (.refl s) _) fun (_, _) hu => ?_) h
  refine .bind (ends_checkViews ..) fun _ _ => .bind (ends_raiseIf (.refl s) _ _) fun _ _ => ?_
  exact ends_pushEntry hr (captured_of hu rfl rfl)

theorem pushed_mmaRa {ty : MmaTy} {d : Fin 16} {a : Use Src} {b : Fin 16} {ov : Bool} {shape : Fin 16} {sp : Space}
    (h : execMmaRa c ty d a b ov shape sp s = .next t) : Pushed (.mmaRa c ty d a b ov shape sp) s t := by
  refine pushed_issueM (fun hr => .bind (ends_read (.refl s) _) fun (_, _) hu => ?_) h
  refine .bind (ends_checkViews ..) fun _ _ => .bind (ends_tileMem (captured_of hu rfl rfl) ..) fun (_, _) ho => ?_
  exact (pushed_pushEntry hr ho).then (staged_startTiles rfl 8)

/-- MBLD, MTLD and MTLD.RB. -/
theorem pushed_tileLoad {ty : Ty} {m : MemOp32} {x : Src} {rb hi : Bool} {fill : VOp → State → VOp} {dest : VOp → Word}
    (hf : ∀ o u, (fill o u).instr = o.instr ∧ (fill o u).ctx = o.ctx) (h : tileLoad c i ty m x rb hi s fill dest = .next t) : Pushed i s t := by
  have here : Before s s := .refl s
  refine pushed_issueM (fun hr => .bind (ends_memAddr32 here m) fun (_, _) hu => .bind (ends_read hu _) fun (_, v) hv => ?_) h
  obtain ⟨hinstr, hctx⟩ := hf (baseOp v i (v.predMask c.pred)) v
  iterate 10 refine .bind (ends_raiseIf here _ _) fun _ _ => ?_
  refine .bind (ends_checkViews ..) fun _ _ => .bind (ends_tileMem (i := i) ?captured ..) fun (_, _) ho => ends_pushEntry hr ho
  exact ⟨hinstr, hctx.trans hv.act, hv⟩

/-! ### All of them -/

theorem pushed_exec (hp : isPush i = true) (h : exec i s = .next t) : Pushed i s t := by
  cases i
  case vadd | vsub | vmul | vmin | vmax | vand | vor | vxor | vandn | vshl | vshr | vsra | vwadd | vwmul | vdot | vperm | vshuf | vslide =>
    unfold exec at h
    exact pushed_pushVVV h
  case vabs | vneg | vcvt | vscan | vunbs | vrcp | vrsq | vexp2 =>
    unfold exec at h
    exact pushed_pushVV h
  case vfma | vcmp | vext | vred | vbs =>
    unfold exec at h
    exact pushed_pushV (fun _ hi hc => ends_captured hi hc) h
  case vsel | vpand | vpor | vpnot | vpcnt =>
    unfold exec at h
    refine pushed_pushV (fun _ hi hc => .bind (ends_waitFor (.refl s) _) fun _ _ => ?_) h
    exact ends_captured hi hc
  case vbcast =>
    unfold exec at h
    exact pushed_vbcast h
  case vld | vst =>
    unfold exec at h
    exact pushed_vldst h
  case vldl | vstl =>
    unfold exec at h
    exact pushed_vlane h
  case vgath | vscat =>
    unfold exec at h
    exact pushed_vindexed h
  case mma | mmar | mzero | macc =>
    unfold exec at h
    exact pushed_pushM (fun _ hi hc => ends_captured hi hc) h
  case mmaRa =>
    unfold exec at h
    exact pushed_mmaRa h
  case mbld | mtld | mtldRb =>
    unfold exec at h
    refine pushed_tileLoad ?_ h
    exact fun _ _ => ⟨rfl, rfl⟩
  case mepi96 | mepi128 =>
    unfold exec at h
    exact pushed_pushMepi h
  all_goals exact nomatch hp

/-! ### The frame -/

/-- Where neither a register nor a status may change and the posted counts stay, the context is the same but for its issue and its fault. -/
theorem sameCtx_of_runner {A : Limits} {c d : Ctx} (h : Runner A c d) (hr : ∀ r, ¬A.regs r) (hp : ¬A.pois) (hn : ¬A.notes)
    (hc : d.clu = c.clu ∧ d.mod = c.mod ∧ d.sys = c.sys) : sameCtx c d := by
  obtain ⟨hclu, hmod, hsys⟩ := hc
  have hg : d.g = c.g := Vector.ext fun k hk => h.regs ⟨k, hk⟩ (hr _)
  obtain ⟨-, ⟨hw, hs⟩ | ⟨notes, -⟩⟩ := h.flagged
  · have same := h.sameCtx
    rw [← hg, ← hs hp, ← hclu, ← hmod, ← hsys, ← hw] at same
    exact same
  · exact absurd notes hn

/-- What a step within the limits of a push leaves as it is. -/
theorem Staged.frame {os : List VOp} (h : Staged (LockedWalk s) os s t) :
    { keepAlarm s t with cores := s.cores, clusters := s.clusters, fabric := s.fabric, nextId := s.nextId } = s
    ∧ (isFw s.focus = true ∨ (∀ asid va, Machine.walkLocked s asid va = false) → keepAlarm s t = t)
    ∧ (∀ key, key ≠ s.focus → t.core key = s.core key)
    ∧ sameCtx s.cur (t.ctx s.focus s.act) ∧ t.ctx s.focus (!s.act) = s.ctx s.focus (!s.act) := by
  have within := h.within
  refine ⟨?_, fun hw => within.alarm (not_lockedWalk hw), fun key hk => ?_, ?_, ?_⟩
  · have rest := within.rest
    rw [← within.still not_false, ← (within.live not_false).1, ← (within.live not_false).2, ← within.marks not_false, ← within.full not_false] at rest
    exact rest
  · have core := within.core key
    obtain ⟨hd, hq⟩ := core.away hk
    have ctx (b : Bool) : (t.core key).ctx b = (s.core key).ctx b := (core.other b fun hm => hk hm.1).eq not_false
    have h0 : (t.core key).c0 = (s.core key).c0 := ctx false
    have h1 : (t.core key).c1 = (s.core key).c1 := ctx true
    rw [hd, h0, h1, hq not_false]
  · exact sameCtx_of_runner ((within.core s.focus).cur rfl) (fun _ => not_false) not_false not_false h.counts
  · exact ((within.core s.focus).other (!s.act) (by simp)).eq not_false

/-- Settles O54: every push ends before its entry stands, or with that one entry behind the others. -/
theorem pushFrames : Obligations.PushFrames := by
  intro i s t hp h
  obtain staged | ⟨o, hi, hc, hr, staged⟩ := pushed_exec hp h
  · obtain ⟨rest, alarm, away, cur, other⟩ := staged.frame
    exact ⟨rest, staged.byteAt, alarm, staged.within.tlbOnly, away, cur, other, .inl (staged.ops.trans (List.append_nil _))⟩
  · obtain ⟨rest, alarm, away, cur, other⟩ := staged.frame
    exact ⟨rest, staged.byteAt, alarm, staged.within.tlbOnly, away, cur, other, .inr ⟨o, hi, hc, staged.ops, hr⟩⟩

end Sys2Proof.Laws
end

section
/-! PROOFS. SPILL and RESTORE of a context (R193, R194, R239, R243 to R246): what the commands answer, what the end of a SPILL leaves, and what an
area gives back. -/

namespace Sys2Proof.Laws

open Sys2Proof Sys2Proof.Machine

variable {s t u : State} {key b : Nat} {n : Bool}

/-! ### The banks that the engine accesses (R187, R188) -/

/-- An access to banks changes no more of its core than them and the counters (R188, R433). -/
theorem core_touchBanks (s : State) (key : Nat) (x : BankOf) (ks : List Nat) :
    ∃ banks pmc pmcsel, (touchBanks s key x ks).core key = { s.core key with banks, pmc, pmcsel } := by
  refine List.foldlRecOn (motive := fun t : State => ∃ banks pmc pmcsel, t.core key = { s.core key with banks, pmc, pmcsel }) _ _ ⟨_, _, _, rfl⟩ ?_
  rintro t ⟨banks, pmc, pmcsel, ht⟩ k -
  obtain ⟨after, touched⟩ := touchBank_eq (t.core key) x k
  have core : (t.modCore key fun c => touchBank c x k).core key = { s.core key with banks := after, pmc, pmcsel } := by
    rw [State.core_modCore_same, touched, ht]
  dsimp only
  split
  · obtain ⟨v, w, counted⟩ := countPmc_core (t.modCore key fun c => touchBank c x k) key none (if x == .spm then 7 else 6) 1
    exact ⟨after, v, w, by rw [counted, core]⟩
  · exact ⟨after, pmc, pmcsel, core⟩

theorem saveBase_touchBanks (s : State) (key : Nat) (x : BankOf) (ks : List Nat) (n : Bool) :
    saveBase (touchBanks s key x ks) key n = saveBase s key n := by
  obtain ⟨_, _, _, core⟩ := core_touchBanks s key x ks
  rw [saveBase, saveBase, core]

theorem engineBanks_eq (s : State) (key : Nat) (n : Bool) (gs : List Nat) : engineBanks s key n gs =
    (touchBanks s key (rsBank n) (granBanks gs), banksFull ((touchBanks s key (rsBank n) (granBanks gs)).core key) (rsBank n) (granBanks gs)) := rfl

/-! ### What is written to the area (R208, R244, R245) -/

/-- A state that differs by bytes written, errors counted and changes of cores. -/
structure Stored (s t : State) : Prop where
  same : t = { s with mem := t.mem, poison := t.poison, spmLive := t.spmLive, errUnc := t.errUnc, cores := t.cores }

namespace Stored

theorem refl (s : State) : Stored s s := ⟨rfl⟩

theorem trans (h : Stored s t) (k : Stored t u) : Stored s u := ⟨k.same.trans (by rw [h.same])⟩

theorem foldl {α : Type} {f : State → α → State} (h : ∀ s a, Stored s (f s a)) (l : List α) (s : State) : Stored s (l.foldl f s) :=
  List.foldlRecOn l f (refl s) fun t stored a _ => stored.trans (h t a)

theorem ite {c : Prop} [Decidable c] (h : Stored s t) (k : Stored s u) : Stored s (if c then t else u) := by
  split
  · exact h
  · exact k

theorem fabric (h : Stored s t) : t.fabric = s.fabric := by rw [h.same]

theorem releases (h : Stored s t) : t.releases = s.releases := by rw [h.same]

theorem monitors (h : Stored s t) : t.monitors = s.monitors := by rw [h.same]

end Stored

theorem stored_touchBanks (s : State) (key : Nat) (x : BankOf) (ks : List Nat) : Stored s (touchBanks s key x ks) := by
  refine .foldl (fun s k => ?_) ks s
  have touched : Stored s (s.modCore key fun c => touchBank c x k) := ⟨rfl⟩
  exact .ite (touched.trans ⟨rfl⟩) touched

/-- The engine's accesses to banks leave what is under way and the place of the area. -/
theorem engineBanks_stored {gs : List Nat} {full : Bool} (h : engineBanks s key n gs = (u, full)) : Stored s u ∧ saveBase u key n = saveBase s key n := by
  obtain ⟨rfl, -⟩ := Prod.mk.inj h
  exact ⟨stored_touchBanks .., saveBase_touchBanks ..⟩

theorem stored_putPhys (s : State) (loc : Nat) (bs : List Byte) : Stored s (s.putPhys loc bs) := by
  induction bs generalizing s loc with
  | nil => exact .refl s
  | cons b bs ih => exact .trans (t := { s with mem := s.mem.put (s.phys loc) b }) ⟨rfl⟩ (ih _ (loc + 1))

theorem stored_syncStep (s : State) (w : Nat) : Stored s (syncStep s w) := .ite (stored_putPhys ..) (.refl s)

theorem stored_notifyMonitors (s : State) (w : Nat) : Stored s (notifyMonitors s w) := by
  refine .foldl (fun s m => ?_) _ s
  exact ⟨rfl⟩

/-- A write by firmware raises no alarm (R88). -/
theorem stored_performWrite (s : State) (ps : List (Nat × Byte)) : Stored s (performWrite s true ps) := by
  have unlocked : (ps.any fun p => s.lockedLoc p.1 && !true) = false := by simp
  unfold performWrite
  simp only [unlocked, Bool.false_eq_true, if_false]
  have bytes (s : State) (qs : List (Nat × Byte)) : Stored s (qs.foldl (fun s p => { s with mem := s.mem.put (s.phys p.1) p.2 }) s) :=
    .foldl (fun _ _ => ⟨rfl⟩) qs s
  have marked (s : State) (poison spmLive : List Nat) : Stored s { s with poison, spmLive } := ⟨rfl⟩
  have stepped (s : State) (sw : List Nat) : Stored s (sw.foldl (fun s w => notifyMonitors (syncStep s w) w) s) :=
    .foldl (fun s w => (stored_syncStep s w).trans (stored_notifyMonitors ..)) sw s
  exact (bytes ..).trans ((marked ..).trans (stepped ..))

theorem stored_putArea (s : State) (b : Nat) (bs : List Byte) : Stored s (putArea s b bs) := .foldl stored_performWrite _ s

/-! ### What is under way for the context (R244) -/

/-- The tag of something under way, if it is this context's and in no area yet. -/
theorem tag_eq (key b : Nat) (n : Bool) (k : Nat) (c : Bool) (a : Option Nat) :
    (if k == key then (if c == n && a.isNone then (c, some b) else (c, a)) else (c, a))
      = if k = key ∧ c = n ∧ a = none then (c, some b) else (c, a) := by
  by_cases hk : k = key <;> by_cases hc : c = n <;> cases a <;> simp [hk, hc]

theorem tagArea_fabric (s : State) (key b : Nat) (n : Bool) : (tagArea s key n b).fabric =
    s.fabric.map fun r => if r.key = key ∧ r.ctx = n ∧ r.area = none then { r with area := some b } else r := by
  refine List.map_congr_left fun r _ => ?_
  dsimp only
  rw [tag_eq]
  split <;> rfl

theorem tagArea_releases (s : State) (key b : Nat) (n : Bool) : (tagArea s key n b).releases =
    s.releases.map fun r => if r.key = key ∧ r.ctx = n ∧ r.area = none then { r with area := some b } else r := by
  refine List.map_congr_left fun r _ => ?_
  dsimp only
  rw [tag_eq]
  split <;> rfl

theorem ctx_tagArea (s : State) (key b : Nat) (n m : Bool) : (tagArea s key n b).ctx key m = s.ctx key m := by
  unfold tagArea retag
  extract_lets who wtr grp rl rf jb pr fb og ep elsewhere
  have kept : (elsewhere.modCore key fun c => { c with outbound := c.outbound.map og }).ctx key m = elsewhere.ctx key m :=
    ctx_modCore_of_keeps _ _ _ (by cases m <;> rfl)
  exact kept

/-- What a slot holds when its context has been spilled (R244). -/
def vacated (active : Bool) (c : Ctx) : Ctx :=
  { c with st := .frozen, vac := true, inbox := [], inboxRead := 0, q4 := [], q5 := [], q7 := [], claim := none, wait := .none, ask := .none
           ending := .none, feArr := none, parked := none, popped := none, blocked := if active then max 1 c.blocked else 0 }

/-- The end of a SPILL: after the writes to the area, the store dies, what is under way takes the area, and the slot becomes vacant. -/
theorem spillEnd_eq (s : State) (key : Nat) (n : Bool) : ∃ t active entry, Stored s t ∧ spillEnd s key n =
    ((tagArea (killStore { t with monitors := t.monitors.filter fun m => !(m.2.1 == key && m.2.2 == n) } key n) key n (saveBase s key n)).modCtx key n
      (vacated active)).modCore key fun k => { k with spill := .none, shelf := tset k.shelf (saveBase s key n) entry } := by
  have counted (s : State) (l : List Nat) : Stored s (l.foldl (fun s _ => countUnc s .regStore) s) := .foldl (fun _ _ => ⟨rfl⟩) l s
  have jobs (s : State) (l : List (Job × Nat)) (b : Nat) :
      Stored s (l.foldl (fun s p => putArea s (b + 2048 + 64 * p.2) (jobRecord p.1)) s) := .foldl (fun _ _ => stored_putArea ..) l s
  unfold spillEnd
  extract_lets c b js regs errs withJobs withStore withImages withRecord withErrs wait silent tagged slot
  refine ⟨withErrs, n == (tagged.core key).active, { c with wait, place := placeOf key n }, ?_, rfl⟩
  exact (jobs ..).trans ((stored_putArea ..).trans ((stored_putArea ..).trans ((stored_putArea ..).trans (counted ..))))

/-! ### FREEZE and SPILL (R239, R244) -/

theorem execCorectlFreeze_freezes (hc : (s.ctx key n).st = .running ∨ (s.ctx key n).st = .ready) (hv : (s.ctx key n).vac = false) :
    exec (.corectlFreeze key n) s = .next (s.modCtx key n fun c =>
      { c with st := .frozen, fcode := 0, blocked := max 1 c.blocked, feArr := none, parked := none }) :=
  congrArg Host.Outcome.next (if_pos (by simpa [canFreeze, hv] using hc))

theorem execCorectlFreeze_refused (h : (s.ctx key n).st ≠ .running ∧ (s.ctx key n).st ≠ .ready ∨ (s.ctx key n).vac = true) :
    exec (.corectlFreeze key n) s = .next (refuseCtl s key) := by
  refine congrArg Host.Outcome.next (if_neg ?_)
  rcases h with ⟨hr, hy⟩ | hv
  · simp [canFreeze, hr, hy]
  · simp [hv]

/-- A SPILL that begins stops the context's unfinished jobs at their burst boundary (R244). -/
theorem execCorectlSpill_begins (hr : (s.ctx key n).st ≠ .running) (hi : (s.ctx key n).st ≠ .idle) (hv : (s.ctx key n).vac = false)
    (hk : (s.ctx key n).killing = false) (hs : (s.core key).spill = .none) (ha : areaOk s (saveBase s key n) = true) :
    exec (.corectlSpill key n) s = .next ((s.modCore key fun c => { c with spill := .spill n }).modCluster (clusterOf key) fun c =>
      { c with jobs := c.jobs.map fun j => if unfinished key n j then { j with stopped := true } else j }) :=
  congrArg Host.Outcome.next (if_neg (by simp [hr, hi, hv, hk, hs, ha]))

/-- What refuses a SPILL; a KILL under way is the model's own (log entry 22). -/
theorem execCorectlSpill_refused (h : (s.ctx key n).st = .running ∨ (s.ctx key n).st = .idle ∨ (s.ctx key n).vac = true ∨ (s.ctx key n).killing = true
      ∨ (s.core key).spill ≠ .none ∨ areaOk s (saveBase s key n) = false) :
    exec (.corectlSpill key n) s = .next (refuseCtl s key) :=
  congrArg Host.Outcome.next (if_pos (by simpa [or_assoc] using h))

/-! ### The end of a SPILL (R244) -/

/-- With its work done, a SPILL reads the saved granules, and ends once their banks are FULL (R188, R244). -/
theorem execSpillComplete_eq {full : Bool} (hs : (s.core key).spill = .spill n)
    (hb : engineBanks s key n (savedGranules (s.ctx key n)) = (u, full)) :
    exec (.spillComplete key) s = .next (if spillReady s key n then (if full then spillEnd u key n else u) else s) := by
  refine congrArg Host.Outcome.next ?_
  simp only [hs, hb]

theorem execSpillComplete_waits (hs : (s.core key).spill = .spill n) (hr : spillReady s key n = false) : exec (.spillComplete key) s = .next s := by
  rw [execSpillComplete_eq hs rfl, hr]
  rfl

theorem execSpillComplete_reads (hs : (s.core key).spill = .spill n) (hr : spillReady s key n = true)
    (hb : engineBanks s key n (savedGranules (s.ctx key n)) = (u, false)) : exec (.spillComplete key) s = .next u := by
  rw [execSpillComplete_eq hs hb, hr]
  rfl

theorem execSpillComplete_ends (hs : (s.core key).spill = .spill n) (hr : spillReady s key n = true)
    (hb : engineBanks s key n (savedGranules (s.ctx key n)) = (u, true)) : exec (.spillComplete key) s = .next (spillEnd u key n) := by
  rw [execSpillComplete_eq hs hb, hr]
  rfl

theorem ctx_spillEnd (s : State) (key : Nat) (n : Bool) :
    ∃ (active : Bool) (c : Ctx), (spillEnd s key n).ctx key n = vacated active c ∧ c.live = 0 := by
  obtain ⟨t, active, entry, -, ended⟩ := spillEnd_eq s key n
  have kept := ctx_tagArea (killStore { t with monitors := t.monitors.filter fun m => !(m.2.1 == key && m.2.2 == n) } key n) key (saveBase s key n) n n
  refine ⟨active, _, ?_, congrArg Ctx.live (kept.trans (ctx_killStore ..))⟩
  rw [ended, ctx_modCore_of_keeps _ _ _ (by cases n <;> rfl), State.ctx_modCtx_same]

theorem spill_spillEnd (s : State) (key : Nat) (n : Bool) : ((spillEnd s key n).core key).spill = .none := by
  obtain ⟨t, active, entry, -, ended⟩ := spillEnd_eq s key n
  rw [ended, State.core_modCore_same]

/-- Requests and releases under way carry the save area from now on (log entry 22), and the context's monitors are gone. -/
theorem spillEnd_traffic (s : State) (key : Nat) (n : Bool) :
    (spillEnd s key n).fabric = s.fabric.map (fun r =>
      if r.key = key ∧ r.ctx = n ∧ r.area = none then { r with area := some (saveBase s key n) } else r)
    ∧ (spillEnd s key n).releases = s.releases.map (fun r =>
      if r.key = key ∧ r.ctx = n ∧ r.area = none then { r with area := some (saveBase s key n) } else r)
    ∧ (spillEnd s key n).monitors = s.monitors.filter fun m => !(m.2.1 == key && m.2.2 == n) := by
  obtain ⟨t, active, entry, stored, ended⟩ := spillEnd_eq s key n
  rw [ended, ← stored.fabric, ← stored.releases, ← stored.monitors]
  simp only [State.modCore_fabric, State.modCtx_fabric, State.modCore_releases, State.modCtx_releases, tagArea_fabric, tagArea_releases]
  exact ⟨rfl, rfl, rfl⟩

/-! ### RESTORE (R246) -/

theorem core_modCtx_same (s : State) (k : Nat) (n : Bool) (f : Ctx → Ctx) : (s.modCtx k n f).core k = (s.core k).setCtx n (f (s.ctx k n)) :=
  State.core_setCore_same ..

/-- What refuses a RESTORE (R246). -/
def RestoreBarred (s : State) (key : Nat) (n : Bool) : Prop :=
  (s.core key).spill ≠ .none
  ∨ ((s.ctx key n).vac = false ∧ ((s.ctx key n).st ≠ .idle ∨ (s.ctx key n).inbox ≠ []))
  ∨ s.readLE (saveBase s key n + 0x190) 8 % 2 ^ 13 ≠ key
  ∨ (savedCtx s (saveBase s key n) ≠ n
    ∧ ((s.ctx key (savedCtx s (saveBase s key n))).vac = false ∨ s.readLE (saveBase s key n + 0x280) 8 / 8 % 2 = 1))
  ∨ 8 < s.readLE (saveBase s key n + 3896) 8 % 16 + (s.ctx key n).inbox.length
  ∨ (s.readLE (saveBase s key n + 0x280) 8 % 8 ≠ 3 ∧ s.readLE (saveBase s key n + 0x280) 8 % 8 ≠ 4)
  ∨ ∃ i < 16, recordJob s key (saveBase s key n) i = some none

theorem execCorectlRestore_cases (s : State) (key : Nat) (n : Bool) :
    (RestoreBarred s key n → exec (.corectlRestore key n) s = .next (refuseCtl s key))
    ∧ (¬RestoreBarred s key n → exec (.corectlRestore key n) s = .next
      ((s.modCore key fun c => { c with spill := .restore n }).modCtx key n fun c => { c with st := .frozen, vac := true })) := by
  have exec_eq : exec (.corectlRestore key n) s = .next (ctlRestore s key n) := rfl
  rw [exec_eq]
  unfold ctlRestore
  extract_lets c b m st bad
  have taken : (c.vac || c.st == .idle && c.inbox.isEmpty) = false ↔ c.vac = false ∧ (c.st ≠ .idle ∨ c.inbox ≠ []) := by
    simp [Classical.or_iff_not_imp_left]
  have regroup {x1 x2 x3 x4 x5 x6 x7 x8 m : Prop} : (((((((x1 ∨ x2) ∨ x3) ∨ x6) ∨ x5 ∧ m) ∨ x7) ∨ m ∧ x4) ∨ x8) ↔
      x1 ∨ x2 ∨ x3 ∨ m ∧ (x4 ∨ x5) ∨ x7 ∨ x6 ∨ x8 := by
    rw [and_or_left, and_comm (a := x5)]
    ac_nf
  have test : bad = true ↔ RestoreBarred s key n := by
    simp only [bad, RestoreBarred, Bool.or_eq_true, Bool.and_eq_true, decide_eq_true_eq, bne_iff_ne, Bool.not_eq_true', List.any_eq_true,
      List.mem_range, beq_iff_eq, taken]
    exact regroup
  exact ⟨fun h => congrArg Host.Outcome.next (if_pos (test.mpr h)), fun h => congrArg Host.Outcome.next (if_neg (mt test.mp h))⟩

/-! ### The end of a RESTORE (R194, R246) -/

/-- A RESTORE ends once the banks of the record's granules are FULL (R188, R194). -/
theorem execRestoreComplete_eq {full : Bool} (hs : (s.core key).spill = .restore n)
    (hb : engineBanks s key n (recordGranules s (saveBase s key n)) = (u, full)) :
    exec (.restoreComplete key) s = .next (if full then restoreEnd u key n else u) := by
  refine congrArg Host.Outcome.next ?_
  simp only [hs, hb]

theorem vector_get_ofFn {α : Type} {m : Nat} (f : Fin m → α) (k : Fin m) : (Vector.ofFn f).get k = f k := by
  rw [Vector.get_eq_getElem, Vector.getElem_ofFn]

/-- STATE of a saved word (R237). -/
theorem bitsAt_state (x : Nat) : bitsAt (BitVec.ofNat 64 x) 0 3 = x % 8 := by
  simp only [bitsAt, BitVec.toNat_ofNat]
  omega

/-- The context that an area gives a slot (R194, R245, R246). -/
theorem savedContext_fields {old slot c : Ctx} {act : Bool} (h : c = savedContext s key b n old slot act) :
    (∀ k : Fin 48, c.g.get k = BitVec.ofNat 64 (s.readLE (b + 8 * k.val) 8))
    ∧ (∀ k : Fin 8, c.p.get k = BitVec.ofNat 256 (s.readLE (b + 0x300 + 32 * k.val) 32))
    ∧ (∀ k : Fin 4, c.t.get k = BitVec.ofNat 64 (s.readLE (b + 0x1C0 + 8 * k.val) 8)) ∧ c.pc = BitVec.ofNat 15 (s.readLE (b + 0x180) 8)
    ∧ c.cap = BitVec.ofNat 32 (s.readLE (b + 0x198) 8)
    ∧ c.st = (if s.readLE (b + 0x280) 8 % 8 = 3 then (if act then .running else .ready) else .frozen)
    ∧ (c.blocked ≠ 0 ↔ act = true ∧ s.readLE (b + 0x280) 8 % 8 ≠ 3) := by
  subst h
  refine ⟨vector_get_ofFn fun k => BitVec.ofNat 64 (s.readLE (b + 8 * k.val) 8), vector_get_ofFn fun k => BitVec.ofNat 256 (s.readLE (b + 0x300 + 32 * k.val) 32),
    fun k => ?_, ?_, ?_, ?_, ?_⟩
  · rw [Nat.add_assoc]
    exact vector_get_ofFn (fun k : Fin 4 => BitVec.ofNat 64 (s.readLE (b + (0x1C0 + 8 * k.val)) 8)) k
  · rw [← BitVec.setWidth_ofNat_of_le (w := 64) (by decide)]
    rfl
  · rw [← BitVec.setWidth_ofNat_of_le (w := 64) (by decide)]
    rfl
  · exact if_congr (by rw [bitsAt_state]) rfl rfl
  · have blocked : (savedContext s key b n old slot act).blocked = if act && decide (s.readLE (b + 0x280) 8 % 8 ≠ 3) then 1 else 0 :=
      if_congr (by rw [bitsAt_state]) rfl rfl
    rw [blocked]
    simp

/-- Settles O41: each command by its test, and each end by what the engine reads, writes and leaves; that a KILL under way refuses a SPILL and that
requests and releases carry the save area are the model's own (log entry 22). -/
theorem spillSteps : Obligations.SpillSteps := by
  refine ⟨fun s key => rfl, ?freeze, ?spill, ?spillEnd, ?none, ?restore, ?refused, ?restoreEnd, engineBanks_eq, ?saved⟩
  case freeze =>
    rintro s key n c rfl
    exact ⟨execCorectlFreeze_freezes, execCorectlFreeze_refused⟩
  case spill =>
    rintro s key n c rfl
    refine ⟨fun hr hi hv hk hs ha => ⟨_, execCorectlSpill_begins hr hi hv hk hs ha, ?_, ?_, rfl, rfl, ?_⟩, execCorectlSpill_refused⟩
    · exact congrArg Core.spill (State.core_modCore_same s key fun c => { c with spill := .spill n })
    · exact ctx_modCore_of_keeps s key n (f := fun c => { c with spill := .spill n }) (by cases n <;> rfl)
    · exact congrArg Cluster.jobs (cluster_modCluster_same ..)
  case spillEnd =>
    rintro s key n c rfl hs
    refine ⟨fun u hr hb => execSpillComplete_reads hs hr hb, fun u hr hb => ⟨_, execSpillComplete_ends hs hr hb, ?_⟩, execSpillComplete_waits hs⟩
    obtain ⟨stored, base⟩ := engineBanks_stored hb
    obtain ⟨active, c, slot, dead⟩ := ctx_spillEnd u key n
    obtain ⟨fabric, releases, monitors⟩ := spillEnd_traffic u key n
    rw [base, stored.fabric] at fabric
    rw [base, stored.releases] at releases
    rw [stored.monitors] at monitors
    rw [slot]
    refine ⟨spill_spillEnd .., rfl, rfl, rfl, rfl, rfl, rfl, dead, rfl, rfl, fabric, releases, fun m => ?_⟩
    simp [monitors, imp_iff_not_or]
  case none =>
    intro s key hs
    refine ⟨congrArg Host.Outcome.next ?_, congrArg Host.Outcome.next ?_⟩ <;>
    simp only [hs]
  case restore =>
    rintro s key n c b rfl rfl hs hv hk hm hst hi hj
    have free : ¬RestoreBarred s key n := by
      rintro (h | ⟨taken, h⟩ | h | ⟨away, h⟩ | h | ⟨notReady, notFrozen⟩ | ⟨i, hlt, h⟩)
      · exact h hs
      · obtain hv | ⟨idle, empty⟩ := hv
        · exact Bool.false_ne_true (taken.symm.trans hv)
        · exact h.elim (· idle) (· empty)
      · exact h hk
      · obtain ⟨vacant, clear⟩ := hm.resolve_left away
        exact h.elim (fun h => Bool.false_ne_true (h.symm.trans vacant)) fun h => absurd (clear.symm.trans h) (by decide)
      · exact absurd hi (Nat.not_le.mpr h)
      · exact hst.elim notReady notFrozen
      · exact hj i hlt h
    refine ⟨_, (execCorectlRestore_cases s key n).2 free, ?_, ?_, ?_, ?_, rfl⟩
    · rw [core_modCtx_same, Core.setCtx_spill, State.core_modCore_same]
    · rw [State.ctx_modCtx_same]
    · rw [State.ctx_modCtx_same]
    · rw [core_modCtx_same, Core.setCtx_ctlErr, State.core_modCore_same]
  case refused =>
    rintro s key n b rfl h
    exact (execCorectlRestore_cases s key n).1 h
  case restoreEnd =>
    intro s key n hs u
    exact ⟨fun hb => (execRestoreComplete_eq hs hb).trans (congrArg _ (if_pos rfl)),
      fun hb => (execRestoreComplete_eq hs hb).trans (congrArg _ (if_neg Bool.false_ne_true))⟩
  case saved =>
    intro s key b n act old slot c h
    obtain ⟨g, p, t, pc, cap, st, blocked⟩ := savedContext_fields h
    subst h
    exact ⟨g, p, pc, rfl, cap, t, rfl, rfl, rfl, rfl, rfl, rfl, st, blocked⟩

end Sys2Proof.Laws
end

section
/-! PROOFS. The full/empty forms that complete (R202, R330, R331). -/

namespace Sys2Proof.Laws

open Sys2Proof Sys2Proof.Machine

/-! ### The forms as attempts -/

section
variable {s s1 s2 : State} {c : Com} {m : MemOp} {x : Word} {acc : Acc}

/-- LDW or LDE whose word is found (R330): its step at the own word, or its request. -/
theorem feLoad_resolved (f : FeForm) (d : Dst) (hi : Ready .any c s) (h1 : readSrc s m.base.r = .ok (x, s1)) (h2 : memReady s1 = .ok ())
    (h3 : access s1 m.sel rdUse (addressOf x m.off) 8 8 = .ok (acc, s2)) {t : State}
    (ht : (if acc.own then feOwn s2 f (firstLoc acc) 0 m.lu >>= fun r => writeDst r.1 d r.2
      else sendReady s2 [firstLoc acc] >>= fun _ => reserveDst s2 d .d64 s2.nextId >>= fun r => feRemote r.2 f (firstLoc acc) 0 r.1) = .ok t) :
    feLoad c f d m s = .next (completed s t) := by
  refine issueFall_completes hi ?_
  simp only [memAddr_ok h1, exec_bind_ok, h2, h3]
  exact ht

/-- STW or STF whose word is found (R330). -/
theorem feStore_resolved (f : FeForm) {d : Src} {v : Word} {s3 : State} (hi : Ready .any c s) (h1 : readSrc s m.base.r = .ok (x, s1))
    (hv : readSrc s1 d = .ok (v, s2)) (h2 : memReady s2 = .ok ()) (h3 : access s2 m.sel wrUse (addressOf x m.off) 8 8 = .ok (acc, s3)) {t : State}
    (ht : (if acc.own then feOwn s3 f (firstLoc acc) v false >>= fun r => .ok r.1 else feRemote s3 f (firstLoc acc) v .none) = .ok t) :
    feStore c f (some d) m s = .next (completed s t) := by
  refine issueFall_completes hi ?_
  simp only [memAddr_ok h1, exec_bind_ok, hv, h2, h3]
  exact ht

/-- FESET whose word is found (R330). -/
theorem feSet_resolved (f : FeForm) (hi : Ready .any c s) (h1 : readSrc s m.base.r = .ok (x, s1)) (h2 : memReady s1 = .ok ())
    (h3 : access s1 m.sel wrUse (addressOf x m.off) 8 8 = .ok (acc, s2)) {t : State}
    (ht : (if acc.own then feOwn s2 f (firstLoc acc) 0 false >>= fun r => .ok r.1 else feRemote s2 f (firstLoc acc) 0 .none) = .ok t) :
    feStore c f none m s = .next (completed s t) := by
  refine issueFall_completes hi ?_
  simp only [memAddr_ok h1, pure, Except.pure, exec_bind_ok, h2, h3]
  exact ht

end

section
variable {s w : State} {f : FeForm} {loc : Nat}

/-- At its own word, with its bank FULL, a form whose turn has come takes its step (R188, R202). -/
theorem feOwn_steps (hf : (f == .setE) = false) (ht : feTurn s f loc = true) (hb : ownBanks s true [loc] = .ok w) (v : Word) (lu : Bool) :
    feOwn s f loc v lu = .ok (withPois (feStep w f loc v lu).1 (feStep w f loc v lu).2.2, (feStep w f loc v lu).2.1) := by
  rw [feOwn_turn hf ht, hb]
  rfl

/-- FESET.e needs no bank (R330). -/
theorem feOwn_empties (v : Word) (lu : Bool) :
    feOwn s .setE loc v lu = .ok ({ s with full := nsDel s.full (s.phys loc / 8) }, 0) := by
  simp only [feOwn, feReady, if_true]
  rfl

theorem feRemote_sends (h : sendReady s [loc] = .ok ()) (v : Word) (dst : ReqDst) : feRemote s f loc v dst = .ok (sendReq s
    { reqOf s.focus s.act (.fe f loc v) loc (some (classOf s.focus loc)) with dst }) := by
  simp only [feRemote, h, exec_bind_ok]
  rfl

end

/-- Settles O10: the word is found as the hypotheses say, and what remains is the step at the own word or the request. -/
theorem fullEmptyResults : Obligations.FullEmptyResults := by
  refine ⟨fun s s1 s2 s3 t c d m x acc hi h1 h2 h3 ho hb => ⟨fun turn ht => ?ldw, ?lde⟩,
    fun s s1 s2 s3 s4 c d m x v acc hi h1 hv h2 h3 ho hb t ht => ⟨fun turn => ?stw, fun turn => ?stf⟩,
    fun s s1 s2 c m x acc hi h1 h2 h3 ho => ⟨fun _ => ?setE, fun s3 turn hb => ?setF⟩,
    fun s s1 s2 s3 c d m x acc dst hi h1 h2 h3 ho hs hr hs3 => ⟨?ldwSent, ?ldeSent⟩,
    fun s s1 s2 s3 c d m x v acc hi h1 hv h2 h3 ho hs => ⟨?stwSent, ?stfSent⟩,
    fun s s1 s2 c m x acc hi h1 h2 h3 ho hs => ⟨?setESent, ?setFSent⟩⟩
  case ldw =>
    refine feLoad_resolved .ldw d hi h1 h2 h3 ?_
    rw [if_pos ho, feOwn_steps rfl turn hb]
    exact ht
  case lde =>
    rintro turn s4 rfl ht
    refine feLoad_resolved .lde d hi h1 h2 h3 ?_
    rw [if_pos ho, feOwn_steps rfl turn hb]
    exact ht
  case stw =>
    refine feStore_resolved .stw hi h1 hv h2 h3 ?_
    rw [if_pos ho, feOwn_steps rfl turn hb, ht]
    rfl
  case stf =>
    refine feStore_resolved .stf hi h1 hv h2 h3 ?_
    rw [if_pos ho, feOwn_steps rfl turn hb, ht]
    rfl
  case setE =>
    refine feSet_resolved .setE hi h1 h2 h3 ?_
    rw [if_pos ho, feOwn_empties]
    rfl
  case setF =>
    refine feSet_resolved .setF hi h1 h2 h3 ?_
    rw [if_pos ho, feOwn_steps rfl turn hb]
    rfl
  case ldwSent | ldeSent =>
    refine feLoad_resolved _ d hi h1 h2 h3 ?_
    simp only [ho, Bool.false_eq_true, if_false, hs, hr, exec_bind_ok]
    exact feRemote_sends hs3 ..
  case stwSent | stfSent =>
    refine feStore_resolved _ hi h1 hv h2 h3 ?_
    simp only [ho, Bool.false_eq_true, if_false]
    exact feRemote_sends hs ..
  case setESent | setFSent =>
    refine feSet_resolved _ hi h1 h2 h3 ?_
    simp only [ho, Bool.false_eq_true, if_false]
    exact feRemote_sends hs ..

end Sys2Proof.Laws
end

section
/-! PROOFS. Atomics (R207, R208, R339 to R341). -/

namespace Sys2Proof.Laws

open Sys2Proof Sys2Proof.Machine

theorem memAddr32_ok {s s1 : State} {m : MemOp32} {x : Word} (h : readSrc s m.base.r = .ok (x, s1)) :
    memAddr32 s m = .ok (addressOf x (.imm32 m.off), s1) := by
  simp only [memAddr32, h, exec_bind_ok, addrPlus_eq]
  rfl

/-! ### The step of an atomic at its word (R340, R341) -/

/-- The word that an AMO leaves, in the word's own width. -/
theorem amoNew_eq (op : AmoOp) {w old : Nat} (h : old < 2 ^ w) (x : Nat) :
    amoNew op w old x = (amoResult op (BitVec.ofNat w old) (BitVec.ofNat w x)).toNat := by
  have hx : x % 2 ^ w < 2 ^ w := Nat.mod_lt _ (Nat.two_pow_pos w)
  have ho : (BitVec.ofNat w old).toNat = old := by rw [BitVec.toNat_ofNat, Nat.mod_eq_of_lt h]
  have hv : (BitVec.ofNat w x).toNat = x % 2 ^ w := BitVec.toNat_ofNat ..
  have hs : sextNat w (x % 2 ^ w) = (BitVec.ofNat w x).toInt := by
    rw [sextNat_eq w _ hx]
    exact congrArg BitVec.toInt (BitVec.eq_of_toNat_eq (by simp))
  cases op
  case add => simp [amoNew, amoResult, ho]
  case min | max =>
    simp only [amoNew, amoResult, decide_eq_true_eq, hs, sextNat_eq w old h]
    split_ifs <;> simp only [ho, hv]
  all_goals simp only [amoNew, amoResult, BitVec.toNat_and, BitVec.toNat_or, BitVec.toNat_xor, apply_ite BitVec.toNat, ho, hv]

theorem readLE_lt (s : State) (loc n : Nat) : s.readLE loc n < 2 ^ (8 * n) :=
  (natOfBytes_lt _).trans_eq (by rw [List.length_map, List.length_range])

section
variable {s : State} {loc : Nat} (clean : s.poisonAt loc = false) (unlocked : s.lockedLoc loc = false)

include unlocked in
theorem readHome_here (fw : Bool) : (readHome s fw [loc]).2.2 = s := by
  rw [readHome_unlocked (by simpa using unlocked)]

section
include clean unlocked

theorem amoStep_double (fw : Bool) (op : AmoOp) (x : Word) : amoStep s fw op true loc x =
    { st := performWrite s fw (pairsAt loc (bytesOfNat 8 (amoResult op (BitVec.ofNat 64 (s.readLE loc 8)) x).toNat))
      val := BitVec.ofNat 64 (s.readLE loc 8) } := by
  simp only [amoStep, clean, unlocked, Bool.false_or, Bool.false_and, Bool.false_eq_true, if_false, if_true, Bool.not_true,
    amoNew_eq op (readLE_lt s loc 8), BitVec.ofNat_toNat, BitVec.setWidth_eq]

theorem amoStep_single (fw : Bool) (op : AmoOp) (x : Word) : amoStep s fw op false loc x =
    { st := performWrite s fw (pairsAt loc (bytesOfNat 4 (amoResult op (BitVec.ofNat 32 (s.readLE loc 4)) (x.setWidth 32)).toNat))
      val := if op = .min ∨ op = .max then (BitVec.ofNat 32 (s.readLE loc 4)).signExtend 64 else (BitVec.ofNat 32 (s.readLE loc 4)).setWidth 64 } := by
  have small := readLE_lt s loc 4
  have low : (BitVec.ofNat 32 (s.readLE loc 4)).setWidth 64 = BitVec.ofNat 64 (s.readLE loc 4) := BitVec.eq_of_toNat_eq (by simp; omega)
  simp only [amoStep, clean, unlocked, Bool.false_or, Bool.false_and, Bool.false_eq_true, if_false, Bool.not_false, Bool.true_and,
    Bool.or_eq_true, beq_iff_eq, amoNew_eq op small, BitVec.ofNat_toNat, low, sextNat_eq 32 _ small]
  rfl

theorem casStep_clean (fw w64 : Bool) (x n : Word) {k : Nat} (hk : k = if w64 then 8 else 4) : casStep s fw w64 loc x n =
    { st := if s.readLE loc k = x.toNat % 2 ^ (8 * k) then performWrite s fw (pairsAt loc (bytesOfNat k n.toNat)) else s
      val := BitVec.ofNat 64 (s.readLE loc k) } := by
  subst hk
  simp only [casStep, clean, unlocked, Bool.false_or, Bool.false_and, Bool.false_eq_true, if_false]

theorem amofStep_clean (fw : Bool) (x : BitVec 32) : amofStep s fw loc x =
    { st := performWrite s fw (pairsAt loc (bytesOfNat 4 (fpAdd 23 .rne (s.readLE loc 4) x.toNat).1))
      val := BitVec.ofNat 64 (s.readLE loc 4), flags := (fpAdd 23 .rne (s.readLE loc 4) x.toNat).2 } := by
  simp only [amofStep, clean, unlocked, Bool.false_or, Bool.false_and, Bool.false_eq_true, if_false]

end

variable (poisoned : s.poisonAt loc = true)
include poisoned unlocked

/-- An atomic on a poisoned word gives zero and leaves it (R94, R340). -/
theorem amoStep_poisoned (fw : Bool) (op : AmoOp) (w64 : Bool) (x : Word) : amoStep s fw op w64 loc x = { st := s, val := 0, pois := true } := by
  simp only [amoStep, poisoned, Bool.true_or, if_true, readHome_here unlocked]

theorem casStep_poisoned (fw w64 : Bool) (x n : Word) : casStep s fw w64 loc x n = { st := s, val := 0, pois := true } := by
  simp only [casStep, poisoned, Bool.true_or, if_true, readHome_here unlocked]

theorem amofStep_poisoned (fw : Bool) (x : BitVec 32) : amofStep s fw loc x = { st := s, val := 0, pois := true } := by
  simp only [amofStep, poisoned, Bool.true_or, if_true, readHome_here unlocked]

end

/-! ### An atomic on resolved bytes (R214, R327) -/

section
variable {s w u : State} {d : Dst} {acc : Acc} {kind : ReqKind}

/-- On the own scratchpad an atomic takes its step at issue. -/
theorem atomOp_here (ho : acc.own = true) (hn : needsOf kind = ([firstLoc acc], [])) (hb : ownBanks s true [firstLoc acc] = .ok w) {r : AtomRes}
    (hr : atomStep w (isFw w.focus) kind = some r) : atomOp s d acc kind =
      writeDst (poisIf (if r.flags = 0 then r.st else r.st.modCur fun c => c.orFlags r.flags) w.focus w.act r.pois) d r.val := by
  have banks : ownBanksRw s [firstLoc acc] [] = .ok w := by
    rw [← hb, ownBanksRw, ownBanks]
    exact congrArg (fun l : List (Nat × Nat) => needBanks s .spm (l.map (·.2)).dedup) (List.append_nil _)
  simp only [atomOp, ho, if_true, hn, banks, exec_bind_ok, hr]

/-- Beyond the core an atomic is one request of the class of its home, whose reply writes D. -/
theorem atomOp_sent (ho : acc.own = false) (hs : sendReady s [firstLoc acc] = .ok ()) {dst : ReqDst} (hd : reserveDst s d .d64 s.nextId = .ok (dst, w)) :
    atomOp s d acc kind = .ok (sendReq w { reqOf w.focus w.act kind (firstLoc acc) (some (classOf w.focus (firstLoc acc))) with
      dst, ms := acc.ms.contains (firstLoc acc / 64) }) := by
  simp only [atomOp, ho, Bool.false_eq_true, if_false, show sendReady s [acc.locs.headD 0] = .ok () from hs, hd, exec_bind_ok]
  rfl

end

/-! ### The forms as attempts -/

section
variable {s s1 s2 s3 s4 t : State} {c : Com} {d : Dst} {m : MemOp32} {a v u : Word} {acc : Acc} {k : Nat}
  (hi : Ready .any c s) (ha : readSrc s m.base.r = .ok (a, s1))
include hi ha

theorem amo_resolved {op : AmoOp} {w64 : Bool} {x : Src} (hv : readSrc s1 x = .ok (v, s2)) (hm : memReady s2 = .ok ()) (hk : k = if w64 then 8 else 4)
    (h : access s2 m.sel rwUse (addressOf a (.imm32 m.off)) k k = .ok (acc, s3)) (ht : atomOp s3 d acc (.amo op w64 (firstLoc acc) v) = .ok t) :
    exec (.amo c op w64 d m x) s = .next (completed s t) := by
  subst hk
  change execAmo c op w64 d m x s = _
  refine issueFall_completes hi ?_
  simp only [memAddr32_ok ha, exec_bind_ok, hv, hm, h]
  exact ht

theorem amoCas_resolved {w64 : Bool} {x n : Src} (hv : readSrc s1 x = .ok (v, s2)) (hu : readSrc s2 n = .ok (u, s3)) (hm : memReady s3 = .ok ())
    (hk : k = if w64 then 8 else 4) (h : access s3 m.sel rwUse (addressOf a (.imm32 m.off)) k k = .ok (acc, s4))
    (ht : atomOp s4 d acc (.cas w64 (firstLoc acc) v u) = .ok t) : exec (.amoCas c w64 d m x n) s = .next (completed s t) := by
  subst hk
  change execAmoCas c w64 d m x n s = _
  refine issueFall_completes hi ?_
  simp only [memAddr32_ok ha, exec_bind_ok, hv, hu, hm, h]
  exact ht

theorem amofAdd_resolved {x : Use Src} (hv : readSrc s1 x.r = .ok (v, s2)) (hm : memReady s2 = .ok ())
    (h : access s2 m.sel rwUse (addressOf a (.imm32 m.off)) 4 4 = .ok (acc, s3))
    (ht : atomOp s3 d acc (.amof (firstLoc acc) (v.setWidth 32)) = .ok t) : exec (.amofAdd c d m x) s = .next (completed s t) := by
  change execAmofAdd c d m x s = _
  refine issueFall_completes hi ?_
  simp only [memAddr32_ok ha, exec_bind_ok, hv, hm, h]
  exact ht

end

/-- The word of an operand of at least one byte is one of its places. -/
theorem firstLoc_mem_of_pos {s1 s2 : State} {sp : Space} {u : PageUse} {a al n : Nat} {acc : Acc} (hn : 0 < n) (h : access s1 sp u a al n = .ok (acc, s2)) :
    firstLoc acc ∈ acc.locs := by
  obtain ⟨hr, -⟩ := access_ok h
  obtain ⟨hlen, -⟩ := resolve_ok hr
  rw [length_addrRange] at hlen
  cases hl : acc.locs with
  | nil => rw [hl] at hlen; exact absurd hlen (by simpa using hn.ne)
  | cons l ls => rw [firstLoc, hl]; exact List.mem_cons_self ..

/-- The own word of an access lies outside the locked range. -/
theorem own_word_unlocked {s1 s2 : State} {sp : Space} {u : PageUse} {a al n : Nat} {acc : Acc} (hn : 0 < n) (h : access s1 sp u a al n = .ok (acc, s2))
    (ho : acc.own = true) (w : State) : w.lockedLoc (firstLoc acc) = false :=
  unlocked_of_own h ho w _ (firstLoc_mem_of_pos hn h)

theorem wordWidth_pos {w64 : Bool} {k : Nat} (hk : k = if w64 then 8 else 4) : 0 < k := by
  cases w64 <;> exact hk ▸ by decide

/-- Settles O13: on the own scratchpad the word is unlocked and its bank FULL, so what remains is the atomic's step there; else it is the request. -/
theorem atomicResults : Obligations.AtomicResults := by
  refine ⟨?amo64, ?amo32, ?cas, ?amof, ?amoPois, ?casPois, ?amofPois, ?amoSent, ?casSent, ?amofSent⟩
  case amo64 =>
    rintro s s1 s2 s3 s4 t c op d m x a v acc o hi ha hv hm h ho hb clean rfl ht
    refine amo_resolved hi ha hv hm (if_pos rfl).symm h ((atomOp_here ho rfl hb rfl).trans ?_)
    rw [amoStep_double clean (own_word_unlocked (by decide) h ho s4)]
    exact ht
  case amo32 =>
    rintro s s1 s2 s3 s4 t c op d m x a v acc o hi ha hv hm h ho hb clean rfl ht
    refine amo_resolved hi ha hv hm (if_neg Bool.false_ne_true).symm h ((atomOp_here ho rfl hb rfl).trans ?_)
    rw [amoStep_single clean (own_word_unlocked (by decide) h ho s4)]
    exact ht
  case cas =>
    rintro s s1 s2 s3 s4 s5 t c w64 d m x n a v u acc k o hi ha hv hu hm hk h ho hb clean rfl ht
    refine amoCas_resolved hi ha hv hu hm hk h ((atomOp_here ho rfl hb rfl).trans ?_)
    rw [casStep_clean clean (own_word_unlocked (wordWidth_pos hk) h ho s5) _ _ _ _ hk]
    exact ht
  case amof =>
    rintro s s1 s2 s3 s4 s5 t c d m x a v acc o hi ha hv hm h ho hb clean rfl rfl ht
    refine amofAdd_resolved hi ha hv hm h ((atomOp_here ho rfl hb rfl).trans ?_)
    rw [amofStep_clean clean (own_word_unlocked (by decide) h ho s4)]
    exact ht
  case amoPois =>
    rintro s s1 s2 s3 s4 t c op w64 d m x a v acc k hi ha hv hm hk h ho hb poisoned ht
    refine amo_resolved hi ha hv hm hk h ((atomOp_here ho rfl hb rfl).trans ?_)
    rw [amoStep_poisoned (own_word_unlocked (wordWidth_pos hk) h ho s4) poisoned]
    exact ht
  case casPois =>
    rintro s s1 s2 s3 s4 s5 t c w64 d m x n a v u acc k hi ha hv hu hm hk h ho hb poisoned ht
    refine amoCas_resolved hi ha hv hu hm hk h ((atomOp_here ho rfl hb rfl).trans ?_)
    rw [casStep_poisoned (own_word_unlocked (wordWidth_pos hk) h ho s5) poisoned]
    exact ht
  case amofPois =>
    rintro s s1 s2 s3 s4 t c d m x a v acc hi ha hv hm h ho hb poisoned ht
    refine amofAdd_resolved hi ha hv hm h ((atomOp_here ho rfl hb rfl).trans ?_)
    rw [amofStep_poisoned (own_word_unlocked (by decide) h ho s4) poisoned]
    exact ht
  case amoSent =>
    rintro s s1 s2 s3 s4 c op w64 d m x a v acc k dst hi ha hv hm hk h ho hs hd
    exact amo_resolved hi ha hv hm hk h (atomOp_sent ho hs hd)
  case casSent =>
    rintro s s1 s2 s3 s4 s5 c w64 d m x n a v u acc k dst hi ha hv hu hm hk h ho hs hd
    exact amoCas_resolved hi ha hv hu hm hk h (atomOp_sent ho hs hd)
  case amofSent =>
    rintro s s1 s2 s3 s4 c d m x a v acc dst hi ha hv hm h ho hs hd
    exact amofAdd_resolved hi ha hv hm h (atomOp_sent ho hs hd)

end Sys2Proof.Laws
end

section
/-! PROOFS. SWARM and WAITW (R203, R204, R342, R343). -/

namespace Sys2Proof.Laws

open Sys2Proof Sys2Proof.Machine

/-! ### Sync-word operands (R203, R231) -/

theorem syncWord_ok {s : State} {sp : Space} {u : PageUse} {a : Nat} {acc : Acc} (h : syncWord s sp u a = .ok acc) :
    resolve s s.focus s.cur.asid sp u a 16 (addrRange a 16) = .ok acc := by
  unfold syncWord at h
  split at h
  · cases h
  next acc' hr =>
    split at h
    · cases h; exact hr
    · cases h

theorem syncAccess_ok {s t : State} {sp : Space} {u : PageUse} {a : Nat} {acc : Acc} (h : syncAccess s sp u a = .ok (acc, t)) :
    resolve s s.focus s.cur.asid sp u a 16 (addrRange a 16) = .ok acc ∧ t = translated s sp (addrRange a 16) := by
  obtain ⟨acc', hc, h⟩ := exec_bind_eq_ok h
  cases h
  refine ⟨syncWord_ok ?_, rfl⟩
  unfold checkedIn at hc
  split at hc
  next hr => cases hc; exact hr
  · cases hc

/-- The bytes of an own aligned word stand one after the other. -/
theorem locs_of_own_aligned {s : State} {key : Nat} {asid : BitVec 16} {sp : Space} {u : PageUse} {a n : Nat} {acc : Acc} (hn : n = 4 ∨ n = 8 ∨ n = 16)
    (ha : a < 2 ^ 64) (h : resolve s key asid sp u a n (addrRange a n) = .ok acc) (ho : acc.own = true) :
    acc.locs = (List.range n).map (firstLoc acc + ·) := by
  obtain ⟨-, hown, hplace⟩ := resolve_ok h
  have aligned := resolve_aligned h
  have wraps (i : Nat) (hi : i ∈ List.range n) : (a + i) % 2 ^ 64 = a + i := by
    have := List.mem_range.mp hi
    rcases hn with rfl | rfl | rfl <;> omega
  have places := List.forall₂_map_left_iff.mp (hplace ho)
  have sel : sp = .spm ∨ sp = .lane := by
    rw [ho] at hown
    simpa using hown.symm
  obtain ⟨base, locs⟩ : ∃ base, acc.locs = (List.range n).map (base + ·) := by
    rcases sel with rfl | rfl
    · refine ⟨locSpm key a, eq_map_of_forall₂ places fun i hi b hb => ?_⟩
      rw [wraps i hi] at hb
      rw [(directByte_spm hb).1, locSpm, locSpm]
      split_ifs <;> omega
    · refine ⟨locLane (quadOf key) a, eq_map_of_forall₂ places fun i hi b hb => ?_⟩
      rw [wraps i hi] at hb
      rw [(directByte_lane hb).1, locLane, locLane]
      omega
  rw [firstLoc, locs]
  rcases hn with rfl | rfl | rfl <;> rfl

theorem unlocked_of_resolved {s : State} {key : Nat} {asid : BitVec 16} {sp : Space} {u : PageUse} {addr al : Nat} {as : List Nat} {acc : Acc}
    (h : resolve s key asid sp u addr al as = .ok acc) (ho : acc.own = true) (v : State) : ∀ l ∈ acc.locs, v.lockedLoc l = false := by
  obtain ⟨-, hown, hplace⟩ := resolve_ok h
  have sel : sp = .spm ∨ sp = .lane := by
    rw [ho] at hown
    simpa using hown.symm
  exact fun l hl => lockedLoc_of_not_dram v (not_dram_of_own sel (hplace ho) l hl)

/-- No byte of an own sync word is locked. -/
theorem own_sync_unlocked {s t : State} {sp : Space} {u : PageUse} {a : Nat} {acc : Acc} (ha : a < 2 ^ 64) (h : syncAccess s sp u a = .ok (acc, t))
    (ho : acc.own = true) (v : State) {i : Nat} (hi : i < 16) : v.lockedLoc (firstLoc acc + i) = false := by
  obtain ⟨hr, -⟩ := syncAccess_ok h
  refine unlocked_of_resolved hr ho v _ ?_
  rw [locs_of_own_aligned (.inr (.inr rfl)) ha hr ho]
  exact List.mem_map.mpr ⟨i, List.mem_range.mpr hi, rfl⟩

/-! ### SWARM (R342) -/

/-- The limits of a write of memory at a home: its bytes, and what monitors bring (R203, R208). -/
def memoryLimits : Limits := { noLimits with mem := fun _ => True, writes := True, live := True, notes := True }

/-- SWARM leaves which context executes. -/
theorem swarmStep_seat {s : State} {loc : Nat} (hl : ∀ i < 6, s.lockedLoc (loc + 8 + i) = false) (t : BitVec 48) :
    (swarmStep s loc t).1.focus = s.focus ∧ (swarmStep s loc t).1.act = s.act := by
  have stored (u : State) (hu : ∀ l, u.lockedLoc l = s.lockedLoc l) :
      Within memoryLimits u (performWrite u true (pairsAt (loc + 8) (bytesOfNat 6 t.toNat))) := by
    refine within_performWrite (fun p hp => ?_) trivial trivial trivial not_false fun _ _ => trivial
    have place := List.mem_map_of_mem (f := Prod.fst) hp
    rw [fst_pairsAt, length_bytesOfNat] at place
    obtain ⟨i, hi, hp⟩ := List.mem_map.mp place
    rw [hu, ← hp]
    exact hl i (List.mem_range.mp hi)
  unfold swarmStep
  by_cases ht : t = 0
  · simp only [ht, if_true]
    have w := stored s fun _ => rfl
    rw [ht] at w
    exact ⟨w.focus, w.act⟩
  · simp only [ht, if_false]
    have w := stored (setMark s loc) fun _ => rfl
    exact ⟨w.focus, w.act⟩

section
variable {s s1 s2 s3 t : State} {c : Com} {d : Dst} {m : MemOp32} {x : Use Src} {a v : Word} {acc : Acc} (hi : Ready .any c s)
  (ha : readSrc s m.base.r = .ok (a, s1)) (hv : readSrc s1 x.r = .ok (v, s2)) (hm : memReady s2 = .ok ())
include hi ha hv hm

theorem swarm_resolved (h : syncAccess s2 m.sel rwUse (addressOf a (.imm32 m.off)) = .ok (acc, s3))
    (ht : atomOp s3 d acc (.swarm (firstLoc acc) (v.setWidth 48)) = .ok t) : exec (.swarm c d m x) s = .next (completed s t) := by
  change execSwarm c d m x s = _
  refine issueFall_completes hi ?_
  simp only [memAddr32_ok ha, exec_bind_ok, hv, hm, h]
  exact ht

end

theorem atomOp_swarm {s w : State} {d : Dst} {acc : Acc} {t : BitVec 48} (ho : acc.own = true)
    (hb : ownBanksRw s [firstLoc acc + 8] [firstLoc acc] = .ok w)
    (hw : (swarmStep w (firstLoc acc) t).1.focus = w.focus ∧ (swarmStep w (firstLoc acc) t).1.act = w.act) :
    atomOp s d acc (.swarm (firstLoc acc) t) =
      writeDst (withPois (swarmStep w (firstLoc acc) t).1 (swarmStep w (firstLoc acc) t).2.2) d (swarmStep w (firstLoc acc) t).2.1 := by
  rw [← poisIf_eq_withPois, hw.1, hw.2]
  simp only [atomOp, ho, if_true, needsOf, hb, exec_bind_ok, atomStep]

/-! ### WAITW (R343, R344) -/

theorem ofNat_addressOf (x : Word) (v : BitVec 32) : BitVec.ofNat 64 (addressOf x (.imm32 v)) = x + v.signExtend 64 := by
  rw [addressOf, BitVec.ofNat_toNat, BitVec.setWidth_eq]

theorem issueFall_congr {w : Where} {c : Com} {s : State} {m m' : State → Exec State} (h : m s = m' s) : issueFall w c s m = issueFall w c s m' := by
  simp only [issueFall, issue, h]

/-- How WAITW ends once its own word's first read is evaluated. -/
def waitwEnds (d : Dst) (t : State) : Exec State :=
  match t.cur.wait with
  | .waitw _ _ _ (some v) _ => .ok ((fillDst t d v).modCur fun c => { c with wait := .none })
  | _ => .error (.block fun _ => t)

/-- The wait of WAITW on a word (R343). -/
def waitwOn (loc : Nat) (o g : Word) : Ctx → Ctx := fun c => { c with wait := .waitw loc o (g.setWidth 16) none [] }

section
variable {s s1 s2 s3 s4 s5 : State} {c : Com} {d : Dst} {m : MemOp32} {x : Use Src} {a v : Word} {acc : Acc} (hi : Ready .any c s)
  (haway : s.cur.away = false)
include hi haway

/-- A notification has satisfied the condition (R343). -/
theorem waitw_notified {l : Nat} {o : Word} {g : BitVec 16} {ns : List Word} (hw : s.cur.wait = .waitw l o g (some v) ns) :
    exec (.waitw c d m x) s = .next (completed s ((fillDst s d v).modCur fun k => { k with wait := .none })) := by
  change execWaitw c d m x s = _
  refine issueFall_completes hi ?_
  simp only [haway, Bool.not_false, blockFor_true, exec_bind_ok, hw]
  rfl

variable (hw : s.cur.wait = .none) (ha : readSrc s m.base.r = .ok (a, s1)) (hv : readSrc s1 x.r = .ok (v, s2)) (hm : memReady s2 = .ok ())
  (h : syncAccess s2 m.sel rdUse (addressOf a (.imm32 m.off)) = .ok (acc, s3))
include hw ha hv hm h

omit hi in
/-- WAITW on the own scratchpad, up to the evaluation of its first read. -/
theorem waitw_here (ho : acc.own = true) (hb : ownBanks s3 false [firstLoc acc] = .ok s4) (hd : holdDst s4 d = .ok s5) {t : State}
    (ht : t = evalMonitor (armStep (s5.modCur (waitwOn (firstLoc acc) (a + m.off.signExtend 64) v)) s5.focus s5.act (firstLoc acc)) s5.focus s5.act) :
    exec (.waitw c d m x) s = issueFall .any c s fun _ => waitwEnds d t := by
  change execWaitw c d m x s = _
  rw [← State.act_modCur s5 (waitwOn (firstLoc acc) (a + m.off.signExtend 64) v)] at ht
  subst ht
  refine issueFall_congr ?_
  simp only [haway, Bool.not_false, blockFor_true, exec_bind_ok, hw, memAddr32_ok ha, hv, hm, h, ho, Bool.true_or, waitFor_true, if_true,
    show ownBanks s3 false [acc.locs.headD 0] = .ok s4 from hb, hd]
  rw [ofNat_addressOf]
  rfl

/-- WAITW beyond the core sends the request that arms its monitor, and waits (R344). -/
theorem waitw_sent (ho : acc.own = false) (hb : s3.linesBusy s3.focus s3.act [firstLoc acc / 64] = false) (hd : holdDst s3 d = .ok s4) {u : State}
    (hu : u = s4.modCur (waitwOn (firstLoc acc) (a + m.off.signExtend 64) v)) :
    exec (.waitw c d m x) s = .next (stayBlocked (sendReq u
      { reqOf u.focus u.act (.arm (firstLoc acc) (v.setWidth 16)) (firstLoc acc) none with ms := acc.ms.contains (firstLoc acc / 64) })) := by
  change execWaitw c d m x s = _
  subst hu
  refine issueFall_blocks (k := fun _ => sendReq (s4.modCur (waitwOn (firstLoc acc) (a + m.off.signExtend 64) v)) _) hi ?_
  simp only [haway, Bool.not_false, blockFor_true, exec_bind_ok, hw, memAddr32_ok ha, hv, hm, h, ho, Bool.false_or,
    show s3.linesBusy s3.focus s3.act [lineOf (acc.locs.headD 0)] = false from hb, waitFor_true, Bool.false_eq_true, if_false, pure, Except.pure, hd]
  rw [ofNat_addressOf]
  rfl

end

/-- Settles O14: SWARM is an atomic on the own word or a request; WAITW is its notice, its first read evaluated, or its arming request. -/
theorem syncWordResults : Obligations.SyncWordResults := by
  refine ⟨?swarm, ?swarmSent, ?notified, ?waitw, ?waitwSent⟩
  case swarm =>
    rintro s s1 s2 s3 s4 t c d m x a v acc hi ha hv hm h ho hb r rfl ht
    refine swarm_resolved hi ha hv hm h ((atomOp_swarm ho hb (swarmStep_seat (fun i hlt => ?_) _)).trans ht)
    rw [Nat.add_assoc]
    exact own_sync_unlocked (addressOf_lt ..) h ho s4 (by omega)
  case swarmSent =>
    intro s s1 s2 s3 s4 c d m x a v acc dst hi ha hv hm h ho hs hd
    exact swarm_resolved hi ha hv hm h (atomOp_sent ho hs hd)
  case notified =>
    intro s c d m x l o g v ns hi haway hw
    exact waitw_notified hi haway hw
  case waitw =>
    intro s s1 s2 s3 s4 s5 t c d m x a v acc hi haway hw ha hv hm h ho hb hd ht
    rw [waitw_here haway hw ha hv hm h ho hb hd ht]
    refine ⟨fun l o g w ns hsome => issueFall_completes hi ?_, fun l o g ns hnone => issueFall_blocks (k := fun _ => t) hi ?_⟩
    · rw [waitwEnds, hsome]
    · rw [waitwEnds, hnone]
  case waitwSent =>
    intro s s1 s2 s3 s4 c d m x a v acc hi haway hw ha hv hm h ho hb hd u hu
    exact waitw_sent hi haway hw ha hv hm h ho hb hd hu

end Sys2Proof.Laws
end

section
/-! PROOFS. Replies, acknowledgements and the evaluation of a monitor's notices (R201, R207, R214, R327, R331, R343, R348). -/

namespace Sys2Proof.Laws

open Sys2Proof Sys2Proof.Machine

section
variable {s : State} {r : Req}

theorem exec_loadReply (hr : s.req r.id = some r) : exec (.loadReply r.id) s = .next (replyStep s r) := by
  change execLoadReply r.id s = _
  rw [execLoadReply, hr]

theorem exec_writeAck (hr : s.req r.id = some r) : exec (.writeAck r.id) s = .next (ackStep s r) := by
  change execWriteAck r.id s = _
  rw [execWriteAck, hr]

theorem replyStep_load {ls : List Nat} (hk : r.kind = .load ls) : replyStep s r = replyLoad s r ls := by
  rw [replyStep, hk]

theorem homeStep_performed (hp : r.performed = true) : homeStep s r = s := by
  simp only [homeStep, hp, Bool.true_or, if_true]

/-! ### Loads (R209, R327) -/

/-- Any load but that of a GET hands over its bytes and is answered. -/
theorem finishLoad_delivers (hd : ∀ base, r.dst ≠ .spm base) (ls : List Nat) (bs : List Byte) (p : Bool) :
    finishLoad s r ls bs p = dropReq (deliverBytes s r ls bs p) r := by
  unfold finishLoad
  split
  next base h => exact absurd h (hd base)
  · rfl

section
variable {ls : List Nat} {now rest : List (List (Nat × Unit))} {locs : List Nat} {u v : State} (hp : r.performed = false) (hg : msGate s r = .go)
  (hpick : pick s.tick (splitPieces ((ls.filter fun l => !(r.got.any fun p => p.1 == l)).map fun l => (l, ()))) = (now, rest))
  (hl : locs = now.flatten.map (·.1))
include hp hg hpick hl

/-- A turn of a load waits for the banks of its piece (R188). -/
theorem replyLoad_waits (hu : homeBanks s false locs = (u, false)) : replyLoad s r ls = u := by
  subst hl
  simp only [replyLoad, hp, hg, hpick, hu, Bool.false_eq_true, if_false, Bool.not_false, if_true]

/-- A turn of a load reads its piece; with the last it has all its bytes. -/
theorem replyLoad_reads {bs : List Byte} {p : Bool} {q : Req} (hu : homeBanks s false locs = (u, true)) (hr : readHome u (isFw r.key) locs = (bs, p, v))
    (hq : q = { r with got := r.got ++ locs.zip bs, pois := r.pois || p }) : replyLoad s r ls = if rest.isEmpty then
      finishLoad (keepLine (unpark v q) q) q ls (ls.map fun l => ((q.got.find? fun p => p.1 == l).map (·.2)).getD 0) q.pois else putReq v q := by
  subst hl hq
  simp only [replyLoad, hp, hg, hpick, hu, hr, Bool.false_eq_true, if_false, Bool.not_true]

end

theorem replyLoad_starts {ls : List Nat} (hk : r.kind = .load ls) (hr : s.req r.id = some r) : exec (.loadReply r.id) s = .next (replyLoad s r ls) := by
  rw [exec_loadReply hr, replyStep_load hk]

/-! ### Answers that are fixed when the request is performed (R331, R340, R348) -/

theorem replyStep_value (hr : s.req r.id = some r) (hp : r.performed = true) (hk : (∃ op w l x, r.kind = .amo op w l x)
    ∨ (∃ w l x n, r.kind = .cas w l x n) ∨ (∃ l x, r.kind = .amof l x) ∨ (∃ l x, r.kind = .swarm l x)
    ∨ ∃ f l x, r.kind = .fe f l x ∧ (f = .ldw ∨ f = .lde)) : replyStep s r = replyValue s r := by
  rcases hk with ⟨op, w, l, x, hk⟩ | ⟨w, l, x, n, hk⟩ | ⟨l, x, hk⟩ | ⟨l, x, hk⟩ | ⟨f, l, x, hk, rfl | rfl⟩ <;>
    simp only [replyStep, hk, homeStep_performed hp, hr, hp, if_true]

section
variable {l : Nat} (hk : r.kind = .join l) (hr : s.req r.id = some r) (hp : r.performed = true)
include hk hr hp

theorem replyStep_join_answers {m : Nat} (hd : r.dead = false) (he : (s.ctx r.key r.ctx).ending = .joinSent r.id m) : replyStep s r =
    dropReq ((poisIf s r.key r.ctx r.pois).modCtx r.key r.ctx fun c => { c with ask := .answered r.val }) r := by
  simp only [replyStep, hk, homeStep_performed hp, hr, hp, he, hd, beq_self_eq_true, Bool.not_true, Bool.or_self, Bool.false_eq_true, if_false]

/-- A task that has ended, or that waits for no such reply, receives nothing. -/
theorem replyStep_join_drops (h : r.dead = true ∨ ∀ m, (s.ctx r.key r.ctx).ending ≠ .joinSent r.id m) : replyStep s r = dropReq s r := by
  simp only [replyStep, hk, homeStep_performed hp, hr, hp, Bool.not_true, Bool.false_eq_true, if_false]
  refine if_pos ?_
  rcases h with h | h
  · rw [h, Bool.true_or]
  · split
    next id m he =>
      have other : id ≠ r.id := fun hid => h m (hid ▸ he)
      simp [other]
    · exact Bool.or_true _

end

theorem replyStep_arm {l : Nat} {g : BitVec 16} (hk : r.kind = .arm l g) : replyStep s r =
    if (homeBanks s false [l]).2 = true then
      if r.dead = true then dropReq (homeBanks s false [l]).1 r else dropReq (armStep (homeBanks s false [l]).1 r.key r.ctx l) r
    else (homeBanks s false [l]).1 := by
  simp only [replyStep, hk, needsOf, homeBanks, Bool.false_eq_true, if_false]
  cases (homeBanksRw s [] [l]).2 <;> rfl

/-! ### What a reply writes (R94, R327) -/

theorem deliverBytes_reg {n : Fin 48} {k : LdKind} (hd : r.dst = .reg (.g n) k) (ls : List Nat) (bs : List Byte) (p : Bool) : deliverBytes s r ls bs p =
    if r.dead then s else (poisIf s r.key r.ctx p).modCtx r.key r.ctx fun c => c.writeG n (loadVal k bs) := by
  simp only [deliverBytes, deliver, hd, dstKind]
  cases r.dead
  · simp
  · simp [poisIf]

theorem deliverBytes_reg_live {n : Fin 48} {k : LdKind} (hd : r.dst = .reg (.g n) k) (hlive : r.dead = false) (hn : n ≠ 0) (ls : List Nat) (bs : List Byte)
    (p : Bool) : deliverBytes s r ls bs p =
      (poisIf s r.key r.ctx p).modCtx r.key r.ctx fun c => { c with g := c.g.set n (loadVal k bs) } := by
  have written : (fun c : Ctx => c.writeG n (loadVal k bs)) = fun c => { c with g := c.g.set n (loadVal k bs) } :=
    funext fun c => writeG_of_ne_zero c hn _
  rw [deliverBytes_reg hd, if_neg (by simp [hlive]), written]

/-! ### The count that a reply leaves (R214) -/

theorem dropReq_counted {k : Cls} (h : r.cls = some k) : (dropReq s r).ctx r.key r.ctx = (s.ctx r.key r.ctx).subCount k := by
  simp only [dropReq, h]
  exact State.ctx_modCtx_same { s with fabric := s.fabric.filter fun x => x.id ≠ r.id } r.key r.ctx fun c => c.subCount k

theorem dropReq_uncounted (h : r.cls = none) : (dropReq s r).cores = s.cores := by
  simp only [dropReq, h]

theorem ackStep_acked (hk : isAcked r.kind = true) (hp : r.performed = true) (hd : ∀ q id, r.dst ≠ .epi q id) : ackStep s r = dropReq s r := by
  simp only [ackStep, hk, hp, Bool.not_true, Bool.or_self, Bool.false_eq_true, if_false]

theorem ackStep_stays (h : isAcked r.kind = false ∨ r.performed = false) : ackStep s r = s := by
  rcases h with h | h <;> simp [ackStep, h]

end

/-! ### A monitor's notices (R343) -/

section
variable {s : State} {key : Nat} {n : Bool} {l : Nat} {o : Word} {g : BitVec 16} {ns : List Word} (hw : (s.ctx key n).wait = .waitw l o g none ns)
include hw

/-- The first notice that satisfies the condition removes the monitor. -/
theorem evalMonitor_met {v : Word} (hv : ns.find? (fun v => genReached v g) = some v) : evalMonitor s key n =
    { s.modCtx key n (fun c => { c with wait := .waitw l o g (some v) [] }) with
      monitors := s.monitors.filter fun m => !(m.2.1 == key && m.2.2 == n) } := by
  simp only [evalMonitor, hw, hv]

theorem evalMonitor_unmet (hv : ns.find? (fun v => genReached v g) = none) : evalMonitor s key n =
    s.modCtx key n fun c => { c with wait := .waitw l o g none [] } := by
  simp only [evalMonitor, hw, hv]

theorem ctx_evalMonitor_met {v : Word} (hv : ns.find? (fun v => genReached v g) = some v) :
    (evalMonitor s key n).ctx key n = { s.ctx key n with wait := .waitw l o g (some v) [] } := by
  rw [evalMonitor_met hw hv]
  exact State.ctx_modCtx_same s key n fun c => { c with wait := .waitw l o g (some v) [] }

theorem ctx_evalMonitor_unmet (hv : ns.find? (fun v => genReached v g) = none) :
    (evalMonitor s key n).ctx key n = { s.ctx key n with wait := .waitw l o g none [] } := by
  rw [evalMonitor_unmet hw hv, State.ctx_modCtx_same]

/-- A context that has changed no more than what its wait has received still stands at its instruction. -/
theorem away_of_waitw (haway : (s.ctx key n).away = false) (x : Option Word) (ms : List Word) :
    Ctx.away { s.ctx key n with wait := .waitw l o g x ms } = false := by
  rw [Ctx.away, hw] at haway
  exact haway

theorem exec_monitorNotify (hl : l < foreignBase) (haway : (s.ctx key n).away = false) :
    exec (.monitorNotify key n) s = .next (evalMonitor s key n) := by
  change execMonitorNotify key n s = _
  have near : decide (foreignBase ≤ l) = false := decide_eq_false (Nat.not_le.mpr hl)
  simp only [execMonitorNotify, hw, near, Bool.false_and, Bool.false_eq_true, if_false]
  refine congrArg _ (settleAway_here ?_)
  cases hv : ns.find? (fun v => genReached v g) with
  | some v =>
    rw [ctx_evalMonitor_met hw hv]
    exact away_of_waitw hw haway _ _
  | none =>
    rw [ctx_evalMonitor_unmet hw hv]
    exact away_of_waitw hw haway _ _

end

theorem genReached_iff (v : Word) (g : BitVec 16) : genReached v g = true ↔ (v.extractLsb' 48 16 - g).toNat < 2 ^ 15 := by
  have top : BitVec.ofNat 16 (v.toNat / 2 ^ 48) = v.extractLsb' 48 16 :=
    BitVec.eq_of_toNat_eq (by rw [BitVec.extractLsb'_toNat, Nat.shiftRight_eq_div_pow, BitVec.toNat_ofNat])
  rw [genReached, decide_eq_true_eq, top]

/-- Settles O33: each clause is the equation of its step, of the reply, the acknowledgement or the notice that it speaks of. -/
theorem replies : Obligations.Replies := by
  refine ⟨?load, ?dropped, ?value, ?join, ?arm, ?reg, ?get, ?dead, ?acked, ?notAcked, ?drop, ?notify, genReached_iff⟩
  case load =>
    intro s r ls hr hk hp
    rw [replyLoad_starts hk hr]
    refine ⟨fun hg => ?_, fun err hg => ?_, fun now rest locs hg hpick hl => ?_⟩
    · simp only [replyLoad, hp, hg, Bool.false_eq_true, if_false]
    · simp only [replyLoad, hp, hg, Bool.false_eq_true, if_false]
    · refine ⟨fun u hu => congrArg _ (replyLoad_waits hp hg hpick hl hu), fun u bs p v q hu hread hq => ?_⟩
      rw [replyLoad_reads hp hg hpick hl hu hread hq]
      refine ⟨fun hrest => congrArg _ (if_neg (by simpa using hrest)), fun all hall hrest => ?_⟩
      have ends : rest.isEmpty = true := List.isEmpty_iff.mpr hrest
      have dst : q.dst = r.dst := by rw [hq]
      rw [if_pos ends, ← hall]
      exact ⟨fun hd => congrArg _ (finishLoad_delivers (by rwa [dst]) ..), fun _ _ => rfl⟩
  case dropped =>
    intro s r ls hr hk hd hp
    rw [replyLoad_starts hk hr, replyLoad, if_pos hp, finishLoad_delivers hd]
  case value =>
    intro s r hr hp hk
    rw [exec_loadReply hr, replyStep_value hr hp hk]
  case join =>
    intro s r l hr hk hp
    rw [exec_loadReply hr]
    exact ⟨fun m hd he => congrArg _ (replyStep_join_answers hk hr hp hd he), fun h => congrArg _ (replyStep_join_drops hk hr hp h)⟩
  case arm =>
    intro s r l g hr hk
    rw [exec_loadReply hr, replyStep_arm hk]
    refine ⟨fun u hu => ?_, fun u hu => ?_⟩ <;> rw [hu] <;> simp
  case reg =>
    intro s r n k ls bs hd hlive hn
    have clean := deliverBytes_reg_live (s := s) hd hlive hn ls bs false
    have poisoned := deliverBytes_reg_live (s := s) hd hlive hn ls bs true
    refine ⟨?_, ?_, ?_, ?_⟩
    · rw [clean, State.ctx_modCtx_same]
      rfl
    · rw [clean]
      rfl
    · rw [poisoned, State.ctx_modCtx_same, poisIf, if_pos rfl, State.ctx_modCtx_same]
      rfl
    · rw [poisoned, State.ctx_modCtx_same, poisIf, if_pos rfl, State.ctx_modCtx_same]
      rfl
  case get =>
    intro s t r q base ls bs p hd hq ht
    have stored : finishLoad s r ls bs p = match t.req r.id with
        | some x => if x.performed then dropReq t x else t
        | none => t := by
      rw [ht, hq, finishLoad, hd] <;> rfl
    exact ⟨fun x hx => by rw [stored, hx], fun hx => by rw [stored, hx]⟩
  case dead =>
    intro s r n k ls bs p hd hdead
    rw [deliverBytes_reg hd, if_pos hdead]
  case acked =>
    intro s r hr hk hp hd
    rw [exec_writeAck hr, ackStep_acked hk hp hd]
  case notAcked =>
    intro s r hr h
    rw [exec_writeAck hr, ackStep_stays h]
  case drop =>
    intro s r
    refine ⟨congrArg State.fabric (dropReq_frame s r), (congrArg State.mem (dropReq_frame s r) :), fun h => ?_, fun h => ?_, fun h => ?_, dropReq_uncounted⟩
    · rw [dropReq_counted h]
      exact ⟨rfl, rfl⟩
    · rw [dropReq_counted h]
      rfl
    · rw [dropReq_counted h]
      rfl
  case notify =>
    intro s key n l o g ns hl haway hw
    refine ⟨_, exec_monitorNotify hw hl haway, ?_⟩
    cases hv : ns.find? (fun v => genReached v g) with
    | some v =>
      have waits := congrArg Ctx.wait (ctx_evalMonitor_met hw hv)
      have gone : (evalMonitor s key n).monitors = s.monitors.filter fun m => !(m.2.1 == key && m.2.2 == n) := by rw [evalMonitor_met hw hv]
      refine ⟨by rw [evalMonitor_met hw hv]; rfl, fun v' hv' => ?_, fun hnone => ?_⟩
      · obtain rfl := Option.some.inj hv'
        refine ⟨waits, fun m => ?_⟩
        rw [gone, List.mem_filter, Bool.not_eq_true', ← Bool.not_eq_true, Bool.and_eq_true, beq_iff_eq, beq_iff_eq]
      · have met := List.find?_some hv
        exact absurd (hnone v (List.mem_of_find?_eq_some hv)) (by simp [met])
    | none =>
      have waits := congrArg Ctx.wait (ctx_evalMonitor_unmet hw hv)
      rw [evalMonitor_unmet hw hv] at waits ⊢
      exact ⟨rfl, nofun, fun _ => ⟨waits, rfl⟩⟩

end Sys2Proof.Laws
end

section
/-! PROOFS. Memory reads as it was written, equal memories are one, and a sync word's step leaves COUNT below TARGET (R91, R203, R208). -/

namespace Sys2Proof.Laws

open Sys2Proof Sys2Proof.Machine

/-! ### The canonical form (R91) -/

/-- In a canonical list no byte listed is zero, and the addresses rise. -/
theorem memWf_head {c : Host.Cell} {l : List Host.Cell} (h : memWf (c :: l) = true) : c.2 ≠ 0 ∧ ∀ d ∈ l, c.1 < d.1 := by
  induction l generalizing c with
  | nil => exact ⟨by simpa [memWf] using h, nofun⟩
  | cons d l ih =>
    obtain ⟨-, above⟩ := ih (memWf_tail h)
    simp only [memWf, Bool.and_eq_true, bne_iff_ne, decide_eq_true_eq] at h
    obtain ⟨⟨hc, hd⟩, -⟩ := h
    exact ⟨hc, List.forall_mem_cons.mpr ⟨hd, fun e he => hd.trans (above e he)⟩⟩

theorem cellsGet_unlisted {l : List Host.Cell} {a : Nat} (h : ∀ d ∈ l, d.1 ≠ a) : cellsGet l a = 0 := by
  induction l with
  | nil => rfl
  | cons d l ih =>
    obtain ⟨hd, hl⟩ := List.forall_mem_cons.mp h
    exact (if_neg hd).trans (ih hl)

theorem cellsGet_head (d : Host.Cell) (l : List Host.Cell) : cellsGet (d :: l) d.1 = d.2 := if_pos rfl

/-- A canonical list that reads zero below another's first address does not begin there. -/
theorem cells_head_le {c d : Host.Cell} {l l2 : List Host.Cell} (hl : memWf (c :: l) = true) (hl2 : memWf (d :: l2) = true)
    (h : ∀ a, cellsGet (c :: l) a = cellsGet (d :: l2) a) : d.1 ≤ c.1 := by
  by_contra below
  obtain ⟨hc, -⟩ := memWf_head hl
  obtain ⟨-, above⟩ := memWf_head hl2
  refine hc ((cellsGet_head c l).symm.trans ((h c.1).trans (cellsGet_unlisted (List.forall_mem_cons.mpr ⟨by omega, fun e he => ?_⟩))))
  have := above e he
  omega

/-- Canonical lists that read alike are equal. -/
theorem cells_ext {l l2 : List Host.Cell} (hl : memWf l = true) (hl2 : memWf l2 = true) (h : ∀ a, cellsGet l a = cellsGet l2 a) : l = l2 := by
  induction l generalizing l2 with
  | nil =>
    cases l2 with
    | nil => rfl
    | cons d l2 => exact absurd ((cellsGet_head d l2).symm.trans (h d.1).symm) (memWf_head hl2).1
  | cons c l ih =>
    cases l2 with
    | nil => exact absurd ((cellsGet_head c l).symm.trans (h c.1)) (memWf_head hl).1
    | cons d l2 =>
      have key : c.1 = d.1 := le_antisymm (cells_head_le hl2 hl fun a => (h a).symm) (cells_head_le hl hl2 h)
      have val : c.2 = d.2 := by rw [← cellsGet_head c l, ← cellsGet_head d l2, h, key]
      obtain ⟨-, above⟩ := memWf_head hl
      obtain ⟨-, above2⟩ := memWf_head hl2
      obtain rfl : c = d := Prod.ext key val
      refine congrArg (c :: ·) (ih (memWf_tail hl) (memWf_tail hl2) fun a => ?_)
      by_cases ha : c.1 = a
      · rw [cellsGet_unlisted fun e he => by have := above e he; omega, cellsGet_unlisted fun e he => by have := above2 e he; omega]
      · have tails := h a
        rwa [cellsGet, cellsGet, if_neg ha, if_neg ha] at tails

/-- Two memories that read alike are equal. -/
theorem Mem.ext_get {m m2 : Mem} (h : ∀ a, m.get a = m2.get a) : m = m2 := by
  obtain ⟨cells, wf⟩ := m
  obtain ⟨cells2, wf2⟩ := m2
  obtain rfl := cells_ext wf wf2 h
  rfl

/-! ### Runs of bytes -/

theorem Mem.putN_append (m : Mem) (a : Nat) (as bs : List Byte) : m.putN a (as ++ bs) = (m.putN a as).putN (a + as.length) bs := by
  induction as generalizing m a with
  | nil => rfl
  | cons b as ih =>
    rw [List.cons_append, Mem.putN, ih, List.length_cons, Nat.add_right_comm, Nat.add_assoc]
    rfl

theorem Mem.getN_putN_apart (m : Mem) {a b n : Nat} (bs : List Byte) (h : b + n ≤ a ∨ a + bs.length ≤ b) : (m.putN a bs).getN b n = m.getN b n := by
  refine List.map_congr_left fun i hi => Mem.get_putN_other m a bs (b + i) ?_
  have := List.mem_range.mp hi
  omega

/-- Bytes written one by one at distinct places are all there, and no other byte changes. -/
theorem Mem.get_foldl_put {α : Type} (at_ : α → Nat) (val : α → Byte) (ps : List α) (m : Mem) :
    (∀ a, (∀ p ∈ ps, a ≠ at_ p) → (ps.foldl (fun m p => m.put (at_ p) (val p)) m).get a = m.get a)
    ∧ (ps.Pairwise (fun p q => at_ p ≠ at_ q) → ∀ p ∈ ps, (ps.foldl (fun m p => m.put (at_ p) (val p)) m).get (at_ p) = val p) := by
  induction ps generalizing m with
  | nil => exact ⟨fun _ _ => rfl, fun _ => nofun⟩
  | cons p ps ih =>
    obtain ⟨others, placed⟩ := ih (m.put (at_ p) (val p))
    refine ⟨fun a ha => ?_, fun hd => ?_⟩
    · obtain ⟨hp, hps⟩ := List.forall_mem_cons.mp ha
      exact (others a hps).trans (Mem.get_put_other m _ hp)
    · obtain ⟨hp, hps⟩ := List.pairwise_cons.mp hd
      exact List.forall_mem_cons.mpr ⟨(others _ hp).trans (Mem.get_put_same ..), placed hps⟩

/-! ### Writes at a home (R203, R208) -/

/-- The step of an unmarked word, or of one whose TARGET is zero, does nothing. -/
theorem syncStep_idle {s : State} {w : Nat} (h : w ∉ s.marks ∨ s.syncTarget (w * 16) = 0) : syncStep s w = s := by
  refine if_neg ?_
  rcases h with h | h <;> simp [h]

theorem notifyMonitors_cores (s : State) (w : Nat) : notifyMonitors s w = { s with cores := (notifyMonitors s w).cores } :=
  List.foldlRecOn (motive := fun u : State => u = { s with cores := u.cores }) _ _ rfl fun u hu m _ => by rw [hu]; rfl

/-- A firmware's write to unmarked words leaves its bytes. -/
theorem mem_performWrite_unmarked {s : State} {ps : List (Nat × Byte)} (hb : ∀ p ∈ ps, p.1 < foreignBase) (hm : ∀ p ∈ ps, p.1 / 16 ∉ s.marks) :
    (performWrite s true ps).mem = ps.foldl (fun m p => m.put (s.phys p.1) p.2) s.mem := by
  have unlocked : (ps.any fun p => s.lockedLoc p.1 && !true) = false := by simp
  have all : (ps.filter fun p => decide (p.1 < foreignBase) && !(s.lockedLoc p.1 && !true)) = ps :=
    List.filter_eq_self.mpr fun p hp => by simp [hb p hp]
  have bytes (qs : List (Nat × Byte)) (m : Mem) : qs.foldl (fun s p => { s with mem := s.mem.put (s.phys p.1) p.2 }) { s with mem := m } =
      { s with mem := qs.foldl (fun m p => m.put (s.phys p.1) p.2) m } := by
    induction qs generalizing m with
    | nil => rfl
    | cons q qs ih => exact ih _
  unfold performWrite
  simp only [unlocked, Bool.false_eq_true, if_false, all]
  rw [show ps.foldl (fun s p => { s with mem := s.mem.put (s.phys p.1) p.2 }) s = _ from bytes ps s.mem]
  refine (List.foldlRecOn (motive := fun u : State =>
    u.mem = ps.foldl (fun m p => m.put (s.phys p.1) p.2) s.mem ∧ u.marks = s.marks) _ _ ?_ fun u hu w hw => ?_).1
  · exact ⟨rfl, rfl⟩
  obtain hnil | ⟨p, hp, rfl⟩ := mem_foldl_nsAdd _ _ hw
  · exact nomatch hnil
  · rw [syncStep_idle (.inl (hu.2 ▸ hm p hp)), notifyMonitors_cores]
    exact hu

/-! ### The step of a marked sync word (R203) -/

/-- A sync word that stands in memory where it is named, unpoisoned. -/
structure PlainWord (s : State) (w : Nat) : Prop where
  own : w * 16 + 16 ≤ foreignBase
  place : ∀ j < 16, s.phys (w * 16 + j) = w * 16 + j
  clean : ∀ j < 2, w * 2 + j ∉ s.poison

theorem PlainWord.readLE {s : State} {w : Nat} (h : PlainWord s w) {i n : Nat} (hi : i + n ≤ 16) : s.readLE (w * 16 + i) n = s.mem.getLE (w * 16 + i) n := by
  refine congrArg natOfBytes (List.map_congr_left fun j hj => ?_)
  have hn := List.mem_range.mp hj
  have own := h.own
  have place := h.place (i + j) (by omega)
  have clean := h.clean ((i + j) / 8) (by omega)
  rw [Nat.add_assoc, State.byteAt, if_neg (by omega), place, if_neg]
  rw [List.contains_iff_mem, show (w * 16 + (i + j)) / 8 = w * 2 + (i + j) / 8 by omega]
  exact clean

theorem PlainWord.withMem {s : State} {w : Nat} (h : PlainWord s w) (mem : Mem) : PlainWord { s with mem } w := ⟨h.own, h.place, h.clean⟩

theorem putPhys_eq_putN {s : State} {loc : Nat} {bs : List Byte} (h : ∀ i < bs.length, s.phys (loc + i) = loc + i) :
    s.putPhys loc bs = { s with mem := s.mem.putN loc bs } := by
  induction bs generalizing s loc with
  | nil => rfl
  | cons b bs ih =>
    have first : s.phys loc = loc := h 0 (Nat.succ_pos _)
    rw [State.putPhys, first, ih fun i hi => ?_]
    · rfl
    · have next := h (i + 1) (Nat.succ_lt_succ hi)
      rwa [Nat.add_comm i, ← Nat.add_assoc] at next

/-- The bytes that the step of R203 writes: COUNT modulo TARGET, and GEN advanced by the quotient. -/
def steppedBytes (s : State) (w : Nat) : List Byte :=
  bytesOfNat 6 (s.syncCount (w * 16) % s.syncTarget (w * 16)) ++ bytesOfNat 2 ((s.syncGen (w * 16) + s.syncCount (w * 16) / s.syncTarget (w * 16)) % 2 ^ 16)

theorem syncStep_full {s : State} {w : Nat} (h : PlainWord s w) (hm : w ∈ s.marks) (ht : s.syncTarget (w * 16) ≠ 0)
    (hc : s.syncTarget (w * 16) ≤ s.syncCount (w * 16)) : syncStep s w = { s with mem := s.mem.putN (w * 16) (steppedBytes s w) } := by
  have steps : (s.marks.contains w && decide (0 < s.syncTarget (w * 16)) && decide (s.syncTarget (w * 16) ≤ s.syncCount (w * 16))) = true := by
    simp [hm, hc, Nat.pos_of_ne_zero ht]
  refine (if_pos steps).trans (putPhys_eq_putN fun i hi => h.place i ?_)
  simp only [List.length_append, length_bytesOfNat] at hi
  omega

theorem syncStep_short {s : State} {w : Nat} (hc : s.syncCount (w * 16) < s.syncTarget (w * 16)) : syncStep s w = s := by
  refine if_neg ?_
  simp [hc]

/-- The step of a marked word with a TARGET leaves COUNT below it, GEN advanced once for each TARGET taken, and TARGET and all other bytes as they are. -/
theorem syncStep_fields {s t : State} {w : Nat} (h : PlainWord s w) (hm : w ∈ s.marks) (ht : s.syncTarget (w * 16) ≠ 0) (hst : t = syncStep s w) :
    t.syncCount (w * 16) = s.syncCount (w * 16) % s.syncTarget (w * 16)
    ∧ t.syncGen (w * 16) = (s.syncGen (w * 16) + s.syncCount (w * 16) / s.syncTarget (w * 16)) % 2 ^ 16
    ∧ t.syncTarget (w * 16) = s.syncTarget (w * 16) ∧ (∀ a, (a < w * 16 ∨ w * 16 + 8 ≤ a) → t.mem.get a = s.mem.get a) := by
  have count : s.syncCount (w * 16) < 256 ^ 6 := readLE_lt s (w * 16) 6
  by_cases hc : s.syncTarget (w * 16) ≤ s.syncCount (w * 16)
  · rw [syncStep_full h hm ht hc, steppedBytes, Mem.putN_append] at hst
    have plain : PlainWord t w := hst ▸ h.withMem _
    have below := Nat.mod_lt (s.syncCount (w * 16)) (Nat.pos_of_ne_zero ht)
    have mem := congrArg State.mem hst
    have low : t.mem.getN (w * 16) 6 = bytesOfNat 6 (s.syncCount (w * 16) % s.syncTarget (w * 16)) := by
      rw [mem, Mem.getN_putN_apart _ _ (.inl (by simp))]
      exact (congrArg _ (length_bytesOfNat 6 _).symm).trans (getN_putN_same ..)
    have high : t.mem.getN (w * 16 + 6) 2 = bytesOfNat 2 ((s.syncGen (w * 16) + s.syncCount (w * 16) / s.syncTarget (w * 16)) % 2 ^ 16) := by
      rw [mem, length_bytesOfNat]
      exact (congrArg _ (length_bytesOfNat 2 _).symm).trans (getN_putN_same ..)
    refine ⟨?_, ?_, ?_, fun a ha => ?_⟩
    · rw [State.syncCount, ← Nat.add_zero (w * 16), plain.readLE (by decide), Nat.add_zero, Mem.getLE, low, natOfBytes_bytesOfNat, Nat.mod_eq_of_lt]
      exact (below.trans_le hc).trans count
    · rw [State.syncGen, plain.readLE (by decide), Mem.getLE, high, natOfBytes_bytesOfNat]
      exact Nat.mod_mod ..
    · rw [State.syncTarget, State.syncTarget, plain.readLE (by decide), h.readLE (by decide), Mem.getLE, Mem.getLE, mem,
        Mem.getN_putN_apart _ _ (.inr (by simp)), Mem.getN_putN_apart _ _ (.inr (by simp))]
    · rw [mem, Mem.get_putN_other _ _ _ _ (by simp; omega), Mem.get_putN_other _ _ _ _ (by simp; omega)]
  · obtain rfl : t = s := hst.trans (syncStep_short (Nat.lt_of_not_le hc))
    have gen : t.syncGen (w * 16) < 2 ^ 16 := readLE_lt t (w * 16 + 6) 2
    rw [Nat.mod_eq_of_lt (Nat.lt_of_not_le hc), Nat.div_eq_of_lt (Nat.lt_of_not_le hc), Nat.add_zero, Nat.mod_eq_of_lt gen]
    exact ⟨rfl, rfl, rfl, fun _ _ => rfl⟩

/-- Settles O55: a write changes the cell that it names; canonical lists are determined by what they read; and a sync word's step, of bytes that stand
where they are named, is arithmetic on its three fields. -/
theorem memoryAndSyncWords : Obligations.MemoryAndSyncWords := by
  refine ⟨?byte, fun m m2 h => Mem.ext_get h, ?table, ?home, ?step, fun s w h => syncStep_idle h⟩
  case byte =>
    intro m a a2 b
    split_ifs with h
    · rw [h, Mem.get_put_same]
    · exact Mem.get_put_other m b h
  case table =>
    intro α d x l k k2
    split_ifs with h
    · rw [h, tget_tset_same]
    · exact tget_tset_other d l x h
  case home =>
    rintro s t ps rfl hd hb hm
    obtain ⟨others, placed⟩ := Mem.get_foldl_put (fun p : Nat × Byte => s.phys p.1) (·.2) ps s.mem
    have kept := (stored_performWrite s ps).same
    rw [mem_performWrite_unmarked hb hm]
    exact ⟨placed hd, others, (congrArg State.full kept :), (congrArg State.marks kept :), (congrArg State.fabric kept :)⟩
  case step =>
    intro s t w hst hm hf hplace hclean ht
    exact syncStep_fields ⟨hf, hplace, hclean⟩ hm ht hst

end Sys2Proof.Laws
end

section
/-! PROOFS. A burst that reads, of a job that is not the one its scheduler holds (R410). -/

namespace Sys2Proof.Laws

open Sys2Proof Sys2Proof.Machine

/-- A job of 8 bytes in a burst, with one piece still to be read. -/
def heldJob : Job where
  id := 1
  kind := .ldl
  key := 0
  ctx := false
  asid := 0
  rd := none
  wr := none
  edges := []
  src := 0
  dst := 0
  ssp := .spm
  dsp := .spm
  block := 0
  opx := 0
  evt := 0
  sync := 0
  ysp := .none
  syncLoc := 0
  jobid := 0
  len := 8
  todo := [[(0, 0)]]

/-- A module whose first cluster holds that job. -/
def holdingJob : State := State.reset.modCluster 0 fun c => { c with jobs := [heldJob] }

/-- Another job by the same id, with two pieces, both of them read. -/
def otherJob : Job := { heldJob with todo := [[], []] }

/-- The scheduler's job with room for as many pieces as the other one has. -/
def withTwoPlaces : State := modJob holdingJob 0 1 fun y => { y with out := [[], []] }

/-- What is left to write of the jobs of the first cluster, in pieces. -/
def piecesOut (s : State) : List Nat := (s.cluster 0).jobs.map fun y => y.out.length

theorem burst_otherJob : piecesOut (burst holdingJob 0 otherJob) = [1] := by decide

/-- Refutes O39: in the clause of a burst that still reads, nothing says that the job is the one which the scheduler holds by its id. The model makes room
for the pieces of the held job, the clause for those of the job that it is given: with one piece there and two here they differ. -/
theorem not_engineSteps : ¬ Obligations.EngineSteps := by
  rintro ⟨-, -, -, -, -, -, -, -, -, -, -, -, -, -, reads, -⟩
  have held : ((withTwoPlaces.cluster 0).jobs.find? fun y => y.id == otherJob.id) = some { heldJob with out := [[], []] } := by decide
  obtain ⟨stays, -⟩ := reads holdingJob withTwoPlaces withTwoPlaces 0 otherJob _ rfl nofun rfl rfl held
  have out := congrArg piecesOut (stays rfl)
  rw [burst_otherJob] at out
  exact absurd out (by decide)

end Sys2Proof.Laws
end

section
/-! PROOFS. What an update may change, as a relation that its steps keep: beside its limits single marks, single tags and flags (R202, R203, R303). -/

namespace Sys2Proof.Laws

open Sys2Proof Sys2Proof.Machine

/-! ### The relation -/

/-- What an update may change: bytes, marks and tags one by one, registers, the flags of an addition beside POIS, and the alarm. -/
structure Touch where
  bytes : Nat → Prop
  mark : Nat → Prop
  tag : Nat → Prop
  regs : Fin 48 → Prop
  flags : Word
  pois : 0x4000 &&& ~~~flags = 0
  walk : Prop

/-- What the steps of an update that change no mark and no tag keep within. -/
def Touch.limits (U : Touch) : Limits where
  mem := U.bytes
  writes := True
  live := True
  marks := False
  full := False
  alarm := U.walk
  queues := True
  regs := U.regs
  pois := True
  notes := True

/-- The executing context of an update. -/
structure Handled (U : Touch) (c d : Ctx) : Prop where
  same : d = { c with
    pc := d.pc, loop := d.loop, loopStart := d.loopStart, loopLast := d.loopLast, q4 := d.q4, q5 := d.q5, q7 := d.q7, inbox := d.inbox
    inboxRead := d.inboxRead, st := d.st, fcode := d.fcode, packet := d.packet, blocked := d.blocked, feArr := d.feArr, parked := d.parked
    g := d.g, status := d.status, wait := d.wait, clu := d.clu, mod := d.mod, sys := d.sys }
  regs : ∀ r, ¬U.regs r → d.g.get r = c.g.get r
  flags : FlagsUp U.flags c.status d.status

/-- The state as far as an update changes it. -/
structure Updated (U : Touch) (s t : State) : Prop where
  same : t = { s with
    alarm := t.alarm, msix := t.msix, keysErased := t.keysErased, s1 := t.s1, s2 := t.s2, halted := t.halted, mem := t.mem, poison := t.poison
    spmLive := t.spmLive, marks := t.marks, full := t.full, cores := t.cores, clusters := t.clusters, fabric := t.fabric, nextId := t.nextId }
  tlb : ∀ k, t.cluster k = { s.cluster k with tlb := (t.cluster k).tlb }
  alarm : ¬U.walk → keepAlarm s t = t
  mem : ∀ p, ¬U.bytes p → t.mem.get p = s.mem.get p
  marks : ∀ w, ¬U.mark w → (w ∈ t.marks ↔ w ∈ s.marks)
  full : ∀ w, ¬U.tag w → (w ∈ t.full ↔ w ∈ s.full)
  active : ∀ key, (t.core key).active = (s.core key).active
  rdesc : ∀ key, (t.core key).rdesc = (s.core key).rdesc
  away : ∀ key, key ≠ s.focus → t.core key = { s.core key with c0 := (t.core key).c0, c1 := (t.core key).c1, q := (t.core key).q }
  other : ∀ key b, ¬(key = s.focus ∧ b = s.act) → Bystander U.limits (s.ctx key b) (t.ctx key b)
  cur : Handled U (s.ctx s.focus s.act) (t.ctx s.focus s.act)

variable {U : Touch} {s t u : State}

theorem PoisUp.flagsUp {fl a b : Word} (h : PoisUp a b) (hf : 0x4000 &&& ~~~fl = 0) : FlagsUp fl a b := by
  rcases h with rfl | rfl
  · exact .refl ..
  · exact ⟨_, hf, rfl⟩

theorem Handled.refl (c : Ctx) : Handled U c c := ⟨rfl, fun _ _ => rfl, .refl ..⟩

theorem Handled.trans {c d e : Ctx} (h : Handled U c d) (k : Handled U d e) : Handled U c e :=
  ⟨k.same.trans (by rw [h.same]), fun r hr => (k.regs r hr).trans (h.regs r hr), h.flags.trans k.flags⟩

theorem Handled.of_runner {c d : Ctx} (h : Runner U.limits c d) : Handled U c d := ⟨h.same, h.regs, h.flagged.1.flagsUp U.pois⟩

namespace Updated

theorem focus (h : Updated U s t) : t.focus = s.focus := by rw [h.same]

theorem act (h : Updated U s t) : t.act = s.act := by
  rw [State.act, State.me, h.focus, h.active]; rfl

/-- Logical locations stay where they are: descriptors do not change (R200). -/
theorem phys (h : Updated U s t) (l : Nat) : t.phys l = s.phys l := by
  simp only [State.phys, skewOf, spmDesc, h.rdesc]

theorem trans (h : Updated U s t) (k : Updated U t u) : Updated U s u where
  same := k.same.trans (by rw [h.same])
  tlb i := (k.tlb i).trans (by rw [h.tlb i])
  alarm ha := by
    have ht := h.alarm ha
    have hu := k.alarm ha
    rw [← hu, ← ht]
    rfl
  mem p hp := (k.mem p hp).trans (h.mem p hp)
  marks w hw := (k.marks w hw).trans (h.marks w hw)
  full w hw := (k.full w hw).trans (h.full w hw)
  active key := (k.active key).trans (h.active key)
  rdesc key := (k.rdesc key).trans (h.rdesc key)
  away key hk := (k.away key (by rwa [h.focus])).trans (by rw [h.away key hk])
  other key b hb := (h.other key b hb).trans (k.other key b (by rwa [h.focus, h.act]))
  cur := by
    have step := k.cur
    rw [h.focus, h.act] at step
    exact h.cur.trans step

/-- A step that changes no mark and no tag. -/
theorem of_within (h : Within U.limits s t) : Updated U s t where
  same := h.same
  tlb := h.tlb
  alarm := h.alarm
  mem := h.mem
  marks w _ := by rw [h.marks not_false]
  full w _ := by rw [h.full not_false]
  active key := (h.core key).active
  rdesc key := (h.core key).rdesc
  away key hk := ((h.core key).away hk).1
  other key b hb := (h.core key).other b hb
  cur := .of_runner ((h.core s.focus).cur rfl)

theorem refl (U : Touch) (s : State) : Updated U s s := of_within (.refl ..)

theorem of_marks_full {marks full : List Nat} (hm : ∀ w, ¬U.mark w → (w ∈ marks ↔ w ∈ s.marks)) (hf : ∀ w, ¬U.tag w → (w ∈ full ↔ w ∈ s.full)) :
    Updated U s { s with marks, full } where
  same := rfl
  tlb _ := rfl
  alarm _ := rfl
  mem _ _ := rfl
  marks := hm
  full := hf
  active _ := rfl
  rdesc _ := rfl
  away _ _ := rfl
  other _ _ _ := .refl ..
  cur := .refl _

/-- The flags of an addition (R303, R341). -/
theorem of_flags {f : Nat} (hf : BitVec.ofNat 64 f &&& ~~~U.flags = 0) : Updated U s (s.modCur fun c => c.orFlags f) := by
  have h : Confined [] U.flags s (s.modCur fun c => c.orFlags f) := confined_orFlags hf
  have stays (key : Nat) (hk : key ≠ s.focus) : (s.modCur fun c => c.orFlags f).core key = s.core key := State.core_setCore_other s _ hk
  have own : (s.modCur fun c => c.orFlags f).ctx s.focus s.act = (s.ctx s.focus s.act).orFlags f := State.ctx_modCtx_same ..
  refine ⟨rfl, fun _ => rfl, fun _ => rfl, fun _ _ => rfl, fun _ _ => .rfl, fun _ _ => .rfl, fun key => (h.core key).config.1, fun key => (h.core key).config.2,
    fun key hk => by rw [stays key hk], fun key b hb => ?_, ?_⟩
  · by_cases hk : key = s.focus
    · subst hk
      obtain rfl : b = !s.act := Bool.eq_not.mpr fun e => hb ⟨rfl, e⟩
      have shadow : (s.modCur fun c => c.orFlags f).ctx s.focus (!s.act) = s.ctx s.focus (!s.act) := State.ctx_modCtx_shadow ..
      rw [shadow]
      exact .refl ..
    · have core : (s.modCur fun c => c.orFlags f).ctx key b = s.ctx key b := congrArg (Core.ctx · b) (stays key hk)
      rw [core]
      exact .refl ..
  · rw [own]
    exact ⟨rfl, fun _ _ => rfl, _, hf, rfl⟩

end Updated

/-! ### Marks and tags, one by one (R202, R203) -/

theorem updated_setMark {loc : Nat} (h : U.mark (loc / 16)) : Updated U s (setMark s loc) :=
  .of_marks_full (full := s.full) (fun _ hw => (mem_nsAdd ..).trans (or_iff_right fun e => hw (e ▸ h))) fun _ _ => .rfl

theorem updated_clearMark {loc : Nat} (h : U.mark (loc / 16)) : Updated U s { s with marks := nsDel s.marks (markIx loc) } :=
  .of_marks_full (full := s.full) (fun _ hw => (mem_filter_ne_iff ..).trans (and_iff_right fun e => hw (e ▸ h))) fun _ _ => .rfl

theorem updated_empties {w : Nat} (h : U.tag w) : Updated U s { s with full := nsDel s.full w } :=
  .of_marks_full (marks := s.marks) (fun _ _ => .rfl) fun _ hx => (mem_filter_ne_iff ..).trans (and_iff_right fun e => hx (e ▸ h))

theorem updated_fills {w : Nat} (h : U.tag w) : Updated U s { s with full := nsAdd s.full w } :=
  .of_marks_full (marks := s.marks) (fun _ _ => .rfl) fun _ hx => (mem_nsAdd ..).trans (or_iff_right fun e => hx (e ▸ h))

/-! ### Writes at a home (R203, R208) -/

theorem updated_performWrite {fw : Bool} {ps : List (Nat × Byte)} (hl : ∀ p ∈ ps, s.lockedLoc p.1 = false)
    (hm : ∀ p, mayChange s (ps.map (·.1)) p → U.bytes p) : Updated U s (performWrite s fw ps) :=
  .of_within (within_performWrite hl trivial trivial trivial not_false hm)

theorem updated_liven (w : Nat) : Updated U s (s.liven w) :=
  .of_within (within_write (mem := s.mem) (poison := s.poison) trivial trivial fun _ _ => rfl)

/-- SWARM changes TARGET, COUNT and GEN of its word, and the word's mark (R342). -/
theorem updated_swarmStep {loc : Nat} {x : BitVec 48} (ha : loc % 16 = 0) (hl : ∀ i < 16, s.lockedLoc (loc + i) = false) (hk : U.mark (loc / 16))
    (hb : ∀ i < 14, U.bytes (s.phys (loc + i))) : Updated U s (swarmStep s loc x).1 := by
  have stored {v : State} (hv : Updated U s v) (hlock : ∀ l, v.lockedLoc l = s.lockedLoc l) (t : BitVec 48) :
      Updated U s (performWrite v true (pairsAt (loc + 8) (bytesOfNat 6 t.toNat))) := by
    have places : (pairsAt (loc + 8) (bytesOfNat 6 t.toNat)).map (·.1) = (List.range 6).map (loc + 8 + ·) := by rw [fst_pairsAt, length_bytesOfNat]
    have place {l : Nat} (h : l ∈ (List.range 6).map (loc + 8 + ·)) : ∃ i < 6, l = loc + (8 + i) := by
      obtain ⟨i, hi, rfl⟩ := List.mem_map.mp h
      exact ⟨i, List.mem_range.mp hi, Nat.add_assoc ..⟩
    refine hv.trans (updated_performWrite (fun p hp => ?_) fun p hp => ?_)
    · obtain ⟨i, hi, e⟩ := place (places ▸ List.mem_map_of_mem hp)
      rw [hlock, e]
      exact hl _ (by omega)
    · rw [places] at hp
      rcases hp with ⟨l, h, rfl⟩ | ⟨l, h, i, hi, -, rfl⟩
      · obtain ⟨i, hi, rfl⟩ := place h
        rw [hv.phys]
        exact hb _ (by omega)
      · obtain ⟨j, hj, rfl⟩ := place h
        rw [hv.phys, show (loc + (8 + j)) / 16 * 16 + i = loc + i by omega]
        exact hb _ (by omega)
  unfold swarmStep
  by_cases hx : x = 0
  · simp only [hx, if_true]
    exact (stored (.refl U s) (fun _ => rfl) 0).trans (updated_clearMark hk)
  · simp only [hx, if_false]
    exact stored (updated_setMark hk) (fun _ => rfl) x

/-- An addition to a sync word changes its COUNT and GEN, and its mark (R203, R334). -/
theorem updated_syncAdd {loc n : Nat} (ha : loc % 16 = 0) (hk : U.mark (loc / 16)) (hb : ∀ i < 8, U.bytes (s.phys (loc + i))) :
    Updated U s (syncAdd s loc n false) := by
  have marked : Updated U s (setMark s loc) := updated_setMark hk
  have added : Updated U s ((setMark s loc).putPhys loc (bytesOfNat 6 (((setMark s loc).syncCount loc + n) % 2 ^ 48))) := by
    refine marked.trans (.of_within (within_putPhys trivial fun i hi => ?_))
    rw [marked.phys]
    rw [length_bytesOfNat] at hi
    exact hb i (by omega)
  have lives (v : State) (c : Prop) [Decidable c] (w : Nat) : Updated U v (if c then v.liven w else v) := by
    split
    · exact updated_liven w
    · exact .refl U v
  have stepped {v : State} (hv : Updated U s v) : Updated U s (notifyMonitors (syncStep v (markIx loc)) (markIx loc)) := by
    refine (hv.trans (.of_within (within_syncStep trivial fun _ i hi => ?_))).trans (.of_within (within_notifyMonitors trivial _))
    rw [hv.phys, show markIx loc * 16 + i = loc + i by rw [markIx]; omega]
    exact hb i hi
  unfold syncAdd
  simp only [Bool.false_and, Bool.false_eq_true, if_false]
  exact stepped (added.trans (lives ..))

/-! ### Attempts and issue (R153, R216, R232, R268) -/

/-- A step that stops within the limits, and what follows it. -/
theorem ends_step {α β : Type} {x : Exec α} {f : α → Exec β} {Q : β → Prop} (hx : Halts U.limits s x)
    (hf : ∀ a, x = .ok a → Ends (Updated U s) s Q (f a)) : Ends (Updated U s) s Q (x >>= f) := by
  cases x with
  | ok a => exact hf a rfl
  | error e =>
    have stop := hx e rfl
    cases e <;> exact Updated.of_within stop

theorem ends_attempt {x : Exec State} (h : Attempt U.limits s x) : Ends (Updated U s) s (Updated U s) x := by
  cases x with
  | ok a => exact Updated.of_within (h.2 a rfl)
  | error e =>
    have stop := h.1 e rfl
    cases e <;> exact Updated.of_within stop

theorem ends_writeResult {d : Dst} (h : Updated U s u) (hr : ∀ n, d = .g n → n ≠ 0 → U.regs n) (v : Word) :
    Ends (Updated U s) s (Updated U s) (writeDst u d v) := by
  cases hw : writeDst u d v with
  | ok a => exact h.trans (.of_within (within_writeDst trivial hr hw))
  | error e =>
    have stop : Halts U.limits s (writeDst u d v) := by
      cases d with
      | g n => exact .bind (halts_waitFor _) fun _ _ => .ok _
      | q k => exact halts_pushQueue _ _ _
    have left := stop e hw
    cases e <;> exact Updated.of_within left

theorem updated_settle {r : Exec (State × Flow)} (hr : Ends (Updated U s) s (fun x => Updated U s x.1) r) (h : settle s r = .next t) : Updated U s t := by
  unfold settle at h
  split at h <;> cases h
  · exact Updated.trans hr (.of_within within_retire)
  · exact Updated.trans hr (.of_within (within_jumpTo _))
  · exact hr
  · exact Updated.trans hr (.of_within within_stay)
  · exact Updated.trans hr (.of_within within_stayBlocked)
  next f keep =>
    have stopped : Updated U s (keep s) := hr
    exact stopped.trans (.of_within (within_takeFault stopped.focus.symm stopped.act.symm f))

theorem updated_issueFall {w : Where} {c : Com} {m : State → Exec State} (hm : Ends (Updated U s) s (Updated U s) (m s))
    (h : issueFall w c s m = .next t) : Updated U s t := by
  have start : Updated U s s := .refl U s
  have unchanged : Ends (Updated U s) s (fun x : State × Flow => Updated U s x.1) (.ok (s, .fall)) := start
  refine updated_settle ?_ h
  refine .bind (ends_blockFor start _) fun _ _ => .bind (ends_raiseIf start _ _) fun _ _ => .bind (ends_waitFor start _) fun _ _ => ?_
  split
  · exact unchanged
  · refine .bind (ends_waitFor start _) fun _ _ =>
      .bind (Ends.bind (Q := fun x : State × Flow => Updated U s x.1) hm fun _ hx => .ok hx) fun (v, f) hv => ?_
    have ended : Updated U s v := hv
    have counted : Updated U s (countPmc v s.focus (some s.act) 2 1) := ended.trans (.of_within (within_countPmc ended.focus.symm ..))
    exact counted

end Sys2Proof.Laws
end

section
/-! PROOFS. What atomics, SWARM, RADD, FESET and block transfers leave as it is (R202, R203, R330 to R334, R339 to R342). -/

namespace Sys2Proof.Laws

open Sys2Proof Sys2Proof.Machine

/-! ### What each of them may change -/

/-- The word that an update changes, where it lies in the own scratchpad or lanes. -/
def OwnWord (s : State) (i : Instr) (acc : Acc) : Prop := updateTo s i = some acc ∧ acc.own = true

/-- The bits of `STATUS` that an update may set. -/
def updateFlags : Instr → Word
  | .amofAdd .. => 0x60F8
  | _ => 0x4000

/-- What an update may change. -/
def touchOf (s : State) (i : Instr) : Touch where
  bytes p := ∃ acc, OwnWord s i acc ∧ updateBytes s acc p i
  mark w := ∃ acc, OwnWord s i acc ∧ ((∃ c d m x, i = .swarm c d m x) ∨ ∃ c d m, i = .radd c d m) ∧ w = firstLoc acc / 16
  tag w := ∃ acc, OwnWord s i acc ∧ (∃ c m, i = .fesetE c m ∨ i = .fesetF c m) ∧ w = s.phys (firstLoc acc) / 8
  regs r := updateDst i = some (.g r) ∧ r ≠ 0
  flags := updateFlags i
  pois := by
    unfold updateFlags
    split <;> decide
  walk := LockedWalk s

/-! ### Operands, and the words that they name -/

section
variable {A : Limits} {s u v t : State}

/-- Operands have been read from s, and nothing else done. -/
structure Reading (A : Limits) (s u : State) : Prop where
  within : Within A s u
  cores : u = { s with cores := u.cores }

theorem Reading.refl (A : Limits) (s : State) : Reading A s s := ⟨.refl .., rfl⟩

theorem Reading.next {x : Src} {w : Word} (h : Reading A s u) (hr : readSrc u x = .ok (w, t)) : Reading A s t :=
  ⟨h.within.trans (within_readSrc hr), (onlyCores_readSrc hr).trans (by rw [h.cores])⟩

theorem halts_memAddr32 (u : State) (m : MemOp32) : Halts A s (memAddr32 u m) := .bind (halts_readSrc u _) fun _ _ => .ok _

theorem memAddr32_eq_ok {m : MemOp32} {a : Nat} (h : memAddr32 s m = .ok (a, u)) :
    ∃ x, readSrc s m.base.r = .ok (x, u) ∧ a = addressOf x (.imm32 m.off) := by
  obtain ⟨⟨x, s'⟩, hx, h⟩ := exec_bind_eq_ok h
  cases h
  exact ⟨x, hx, addrPlus_eq ..⟩

/-- A check that fails has raised the alarm at most (R88). -/
theorem halts_checkedIn {α : Type} (hA : LockedWalk s → A.alarm) (hf : u.focus = s.focus) (sp : Space) (vas : List Nat) (r : Except FaultInfo α) :
    Halts A s (checkedIn u sp vas r) := by
  unfold checkedIn
  split
  · exact .ok _
  · refine fun e he => Except.error.inj he ▸ ?_
    change Within A s (if _ then _ else s)
    split
    · exact within_lockAlarm fun va hfw hw => hA ⟨hf ▸ hfw, _, va, hw⟩
    · exact .refl ..

theorem checkedIn_eq_ok {α : Type} {sp : Space} {vas : List Nat} {r : Except FaultInfo α} {a : α} (h : checkedIn u sp vas r = .ok a) : r = .ok a := by
  unfold checkedIn at h
  split at h
  · cases h; rfl
  · cases h

theorem halts_checked {α : Type} (r : Except FaultInfo α) : Halts A s (checked r) := by
  unfold checked
  split
  · exact .ok _
  · exact fun e he => Except.error.inj he ▸ (Within.refl A s : StopWithin A s (.raise _ id))

theorem Reading.translated (hA : LockedWalk s → A.alarm) (h : Reading A s u) (sp : Space) (vas : List Nat) : Within A s (translated u sp vas) := by
  refine h.within.trans (within_translated fun asid va hf hw => hA ⟨h.within.focus ▸ hf, asid, va, ?_⟩)
  rwa [walkLocked_congr h.cores h.within.phys] at hw

theorem halts_syncAccess (hA : LockedWalk s → A.alarm) (hf : u.focus = s.focus) (sp : Space) (p : PageUse) (a : Nat) : Halts A s (syncAccess u sp p a) :=
  .bind (halts_checkedIn hA hf sp (addrRange a 16) _) fun _ _ => .ok _

theorem halts_ownBanksRw (u : State) (ws rs : List Nat) : Halts A s (ownBanksRw u ws rs) := by
  unfold ownBanksRw needBanks
  dsimp only
  split
  · exact .ok _
  · exact fun e he => Except.error.inj he ▸ (within_touchBanks .. : Within A s (touchBanks s s.focus _ _))

theorem within_ownBanksRw {ws rs : List Nat} (h : ownBanksRw s ws rs = .ok t) : Within A s t := by
  unfold ownBanksRw needBanks at h
  dsimp only at h
  split at h
  · cases h; exact within_touchBanks ..
  · exact nomatch h

end

/-- An own word of n bytes: they stand one after the other from an aligned place, where the lock does not reach (R88, R195, R211). -/
structure Placed (n : Nat) (acc : Acc) : Prop where
  locs : acc.locs = (List.range n).map (firstLoc acc + ·)
  open_ : ∀ v : State, ∀ i < n, v.lockedLoc (firstLoc acc + i) = false
  aligned : firstLoc acc % n = 0

theorem placed_of_resolved {s : State} {key : Nat} {asid : BitVec 16} {sp : Space} {u : PageUse} {a n : Nat} {acc : Acc} (hn : n = 4 ∨ n = 8 ∨ n = 16)
    (ha : a < 2 ^ 64) (h : resolve s key asid sp u a n (addrRange a n) = .ok acc) (ho : acc.own = true) : Placed n acc := by
  have locs := locs_of_own_aligned hn ha h ho
  refine ⟨locs, fun v i hi => unlocked_of_resolved h ho v _ ?_, ?_⟩
  · rw [locs]
    exact List.mem_map_of_mem (List.mem_range.mpr hi)
  · obtain ⟨-, hown, hplace⟩ := resolve_ok h
    have sel : sp = .spm ∨ sp = .lane := by
      rw [ho] at hown
      simpa using hown.symm
    have aligned := resolve_aligned h
    have pos : 0 < n := by omega
    have first : directByte key sp a = some (firstLoc acc) := by
      obtain ⟨k, rfl⟩ := Nat.exists_eq_succ_of_ne_zero pos.ne'
      have places := hplace ho
      rw [locs, addrRange, List.range_succ_eq_map, List.map_cons, List.map_cons] at places
      have head := (List.forall₂_cons.mp places).1
      rwa [Nat.add_zero, Nat.add_zero, Nat.mod_eq_of_lt ha] at head
    rcases sel with rfl | rfl
    · rw [(directByte_spm first).1, locSpm]
      rcases hn with rfl | rfl | rfl <;> split_ifs <;> omega
    · rw [(directByte_lane first).1, locLane]
      rcases hn with rfl | rfl | rfl <;> omega

variable {s t u v : State} {i : Instr}

/-! ### Atomics (R339 to R341) -/

/-- An atomic leaves its word, or writes it. -/
def StepsWord (v : State) (fw : Bool) (loc n : Nat) (r : AtomRes) : Prop :=
  r.st = v ∨ ∃ bs : List Byte, bs.length = n ∧ r.st = performWrite v fw (pairsAt loc bs)

section
variable {loc : Nat} (hl : v.lockedLoc loc = false) (fw : Bool)
include hl

/-- A poisoned word stays, and so does one that is locked to the agent. -/
theorem stepsWord_of_ite {n : Nat} {q r : AtomRes} {c : Prop} [Decidable c] (hq : q.st = (readHome v fw [loc]).2.2)
    (hr : StepsWord v fw loc n r) : StepsWord v fw loc n (if c then q else r) := by
  split
  · exact .inl (hq.trans (readHome_here hl fw))
  · exact hr

theorem amoStep_stepsWord (op : AmoOp) (w64 : Bool) (x : Word) : StepsWord v fw loc (if w64 then 8 else 4) (amoStep v fw op w64 loc x) :=
  stepsWord_of_ite hl fw rfl (.inr ⟨_, length_bytesOfNat .., rfl⟩)

theorem casStep_stepsWord (w64 : Bool) (x n : Word) : StepsWord v fw loc (if w64 then 8 else 4) (casStep v fw w64 loc x n) := by
  refine stepsWord_of_ite hl fw rfl ?_
  by_cases same : v.readLE loc (if w64 then 8 else 4) = x.toNat % 2 ^ (8 * if w64 then 8 else 4)
  · exact .inr ⟨_, length_bytesOfNat .., if_pos same⟩
  · exact .inl (if_neg same)

theorem amofStep_stepsWord (x : BitVec 32) : StepsWord v fw loc 4 (amofStep v fw loc x) :=
  stepsWord_of_ite hl fw rfl (.inr ⟨_, length_bytesOfNat .., rfl⟩)

end

theorem amofStep_flags (v : State) (fw : Bool) (loc : Nat) (x : BitVec 32) : BitVec.ofNat 64 (amofStep v fw loc x).flags &&& ~~~0x60F8 = 0 := by
  unfold amofStep
  dsimp only
  split
  · exact BitVec.zero_and
  · have flags : BitVec.ofNat 64 (fpAdd 23 .rne (v.readLE loc 4) x.toNat).2 &&& ~~~0x20F8 = 0 := floatFlags_fpAdd ..
    have wider : ~~~(0x60F8 : Word) = ~~~0x20F8 &&& ~~~0x4000 := by decide
    rw [wider, ← BitVec.and_assoc, flags]
    exact BitVec.zero_and

/-- The word that an atomic writes, with COUNT and GEN of the marked sync word it lies in (R203). -/
theorem StepsWord.updated {U : Touch} {fw : Bool} {n : Nat} {acc : Acc} {r : AtomRes} (h : StepsWord v fw (firstLoc acc) n r) (hv : Within U.limits s v)
    (hp : Placed n acc) (hb : ∀ p, mayChange s acc.locs p → U.bytes p) : Updated U s r.st := by
  rcases h with h | ⟨bs, hbs, h⟩ <;> rw [h]
  · exact .of_within hv
  · have places : (pairsAt (firstLoc acc) bs).map (·.1) = acc.locs := by rw [fst_pairsAt, hbs, hp.locs]
    refine (Updated.of_within hv).trans (updated_performWrite (fun p hm => ?_) fun p hm => hb p ?_)
    · have place := List.mem_map_of_mem (f := Prod.fst) hm
      rw [places, hp.locs] at place
      obtain ⟨i, hi, e⟩ := List.mem_map.mp place
      exact e ▸ hp.open_ v i (List.mem_range.mp hi)
    · rw [places] at hm
      simpa only [mayChange, hv.phys, hv.marks not_false] using hm

/-- An atomic on resolved bytes (R214, R327). -/
theorem ends_atomOp {U : Touch} {d : Dst} {acc : Acc} {kind : ReqKind} (hu : Within U.limits s u) (hr : ∀ n, d = .g n → n ≠ 0 → U.regs n)
    (hstep : acc.own = true → ∀ v r, Within U.limits s v → atomStep v (isFw v.focus) kind = some r →
      Updated U s r.st ∧ BitVec.ofNat 64 r.flags &&& ~~~U.flags = 0) : Ends (Updated U s) s (Updated U s) (atomOp u d acc kind) := by
  unfold atomOp
  dsimp only
  split
  next ho =>
    refine ends_step (halts_ownBanksRw _ _ _) fun v hv => ?_
    have banks := hu.trans (within_ownBanksRw hv)
    split
    next r hs =>
      obtain ⟨stepped, flags⟩ := hstep ho v r banks hs
      have flagged : Updated U s (if r.flags = 0 then r.st else r.st.modCur fun c => c.orFlags r.flags) := by
        split
        · exact stepped
        · exact stepped.trans (.of_flags flags)
      refine ends_writeResult ?_ hr _
      rw [banks.focus, banks.act, ← flagged.focus, ← flagged.act]
      exact flagged.trans (.of_within (within_poisIf fun _ => trivial))
    · exact Ends.ok (Updated.of_within banks)
  · refine ends_step (halts_sendReady _ _) fun _ _ => ends_step (halts_reserveDst _ _ _ _) fun ⟨dst, v⟩ hv => ?_
    exact Ends.ok (Updated.of_within ((hu.trans (within_reserveDst trivial hv)).trans (within_sendReq rfl rfl)))

/-- The destination of an update is the register that it may change. -/
theorem touchOf_regs {d : Dst} (hd : updateDst i = some d) (n : Fin 48) (hn : d = .g n) (h0 : n ≠ 0) : (touchOf s i).regs n := ⟨hn ▸ hd, h0⟩

theorem amoStep_flags (v : State) (fw : Bool) (op : AmoOp) (w64 : Bool) (loc : Nat) (x : Word) : (amoStep v fw op w64 loc x).flags = 0 := by
  unfold amoStep
  dsimp only
  split <;> rfl

theorem casStep_flags (v : State) (fw w64 : Bool) (loc : Nat) (x n : Word) : (casStep v fw w64 loc x n).flags = 0 := by
  unfold casStep
  dsimp only
  split <;> rfl

theorem no_flags {n : Nat} (h : n = 0) (fl : Word) : BitVec.ofNat 64 n &&& ~~~fl = 0 := by
  rw [h]
  exact BitVec.zero_and

section
variable {c : Com} {d : Dst} {m : MemOp32}

/-- An atomic on n bytes, once its operands are read. -/
theorem ends_atomic {sel : Space} {n a : Nat} {kind : Nat → ReqKind} (hw : n = 4 ∨ n = 8) (ha : a < 2 ^ 64) (hu : Reading (touchOf s i).limits s u)
    (hd : updateDst i = some d)
    (hto : ∀ acc t, access u sel rwUse a n n = .ok (acc, t) → updateTo s i = some acc) (hb : ∀ acc p, mayChange s acc.locs p → updateBytes s acc p i)
    (hstep : ∀ loc v r, v.lockedLoc loc = false → atomStep v (isFw v.focus) (kind loc) = some r →
      StepsWord v (isFw v.focus) loc n r ∧ BitVec.ofNat 64 r.flags &&& ~~~updateFlags i = 0) :
    Ends (Updated (touchOf s i) s) s (Updated (touchOf s i) s) (access u sel rwUse a n n >>= fun r => atomOp r.2 d r.1 (kind (r.1.locs.headD 0))) := by
  refine ends_step (halts_access_after id hu.within _ _ _ _ _) fun ⟨acc, v⟩ h => ?_
  refine ends_atomOp (within_access_after id hu.within hu.cores h) (touchOf_regs hd) fun ho x r hx hr => ?_
  have placed : Placed n acc := placed_of_resolved (hw.imp_right .inl) ha (access_ok h).1 ho
  obtain ⟨steps, flags⟩ := hstep _ x r (placed.open_ x 0 (by omega)) hr
  exact ⟨steps.updated hx placed fun p hp => ⟨acc, ⟨hto acc v h, ho⟩, hb acc p hp⟩, flags⟩

theorem wordWidth_cases (w64 : Bool) : (if w64 then 8 else 4) = 4 ∨ (if w64 then 8 else 4) = 8 := by
  cases w64
  · exact .inl rfl
  · exact .inr rfl

theorem updated_amo {op : AmoOp} {w64 : Bool} {x : Src} (h : exec (.amo c op w64 d m x) s = .next t) :
    Updated (touchOf s (.amo c op w64 d m x)) s t := by
  change execAmo c op w64 d m x s = _ at h
  refine updated_issueFall ?_ h
  refine ends_step (halts_memAddr32 _ _) fun ⟨a, s1⟩ ha => ends_step (halts_readSrc _ _) fun ⟨y, s2⟩ hy => ends_step (halts_waitFor _) fun _ _ => ?_
  obtain ⟨b, hb, rfl⟩ := memAddr32_eq_ok ha
  refine ends_atomic (kind := fun l => .amo op w64 l y) (wordWidth_cases w64) (addressOf_lt ..) (((Reading.refl _ s).next hb).next hy) rfl
    (fun acc v hv => ?_) (fun _ _ hp => hp) fun l v r hl hr => ?_
  · simp only [updateTo, accessAfter, readAll, hb, hy, hv]
  · cases hr
    exact ⟨amoStep_stepsWord hl .., no_flags (amoStep_flags ..) _⟩

theorem updated_amoCas {w64 : Bool} {x n : Src} (h : exec (.amoCas c w64 d m x n) s = .next t) :
    Updated (touchOf s (.amoCas c w64 d m x n)) s t := by
  change execAmoCas c w64 d m x n s = _ at h
  refine updated_issueFall ?_ h
  refine ends_step (halts_memAddr32 _ _) fun ⟨a, s1⟩ ha => ends_step (halts_readSrc _ _) fun ⟨y, s2⟩ hy => ends_step (halts_readSrc _ _) fun ⟨z, s3⟩ hz =>
    ends_step (halts_waitFor _) fun _ _ => ?_
  obtain ⟨b, hb, rfl⟩ := memAddr32_eq_ok ha
  refine ends_atomic (kind := fun l => .cas w64 l y z) (wordWidth_cases w64) (addressOf_lt ..) ((((Reading.refl _ s).next hb).next hy).next hz) rfl
    (fun acc v hv => ?_) (fun _ _ hp => hp) fun l v r hl hr => ?_
  · simp only [updateTo, accessAfter, readAll, hb, hy, hz, hv]
  · cases hr
    exact ⟨casStep_stepsWord hl .., no_flags (casStep_flags ..) _⟩

theorem updated_amofAdd {x : Use Src} (h : exec (.amofAdd c d m x) s = .next t) : Updated (touchOf s (.amofAdd c d m x)) s t := by
  change execAmofAdd c d m x s = _ at h
  refine updated_issueFall ?_ h
  refine ends_step (halts_memAddr32 _ _) fun ⟨a, s1⟩ ha => ends_step (halts_readSrc _ _) fun ⟨y, s2⟩ hy => ends_step (halts_waitFor _) fun _ _ => ?_
  obtain ⟨b, hb, rfl⟩ := memAddr32_eq_ok ha
  refine ends_atomic (kind := fun l => .amof l (y.setWidth 32)) (.inl rfl) (addressOf_lt ..) (((Reading.refl _ s).next hb).next hy) rfl
    (fun acc v hv => ?_) (fun _ _ hp => hp) fun l v r hl hr => ?_
  · simp only [updateTo, accessAfter, readAll, hb, hy, hv]
  · cases hr
    exact ⟨amofStep_stepsWord hl .., amofStep_flags ..⟩

/-! ### Sync words (R334, R342) -/

theorem updated_swarm {x : Use Src} (h : exec (.swarm c d m x) s = .next t) : Updated (touchOf s (.swarm c d m x)) s t := by
  change execSwarm c d m x s = _ at h
  refine updated_issueFall ?_ h
  refine ends_step (halts_memAddr32 _ _) fun ⟨a, s1⟩ ha => ends_step (halts_readSrc _ _) fun ⟨y, s2⟩ hy => ends_step (halts_waitFor _) fun _ _ => ?_
  obtain ⟨b, hb, rfl⟩ := memAddr32_eq_ok ha
  have read : Reading (touchOf s (.swarm c d m x)).limits s s2 := ((Reading.refl _ s).next hb).next hy
  refine ends_step (halts_syncAccess id read.within.focus _ _ _) fun ⟨acc, s3⟩ h3 => ?_
  obtain ⟨resolved, rfl⟩ := syncAccess_ok h3
  refine ends_atomOp (read.translated id _ _) (touchOf_regs rfl) fun ho v r hv hr => ?_
  cases hr
  have placed : Placed 16 acc := placed_of_resolved (.inr (.inr rfl)) (addressOf_lt ..) resolved ho
  have own : OwnWord s (.swarm c d m x) acc := ⟨by simp only [updateTo, accessAfter, readAll, hb, hy, h3], ho⟩
  refine ⟨(Updated.of_within hv).trans (updated_swarmStep placed.aligned (placed.open_ v) ⟨acc, own, .inl ⟨_, _, _, _, rfl⟩, rfl⟩ fun i hi => ?_), no_flags rfl _⟩
  exact ⟨acc, own, i, hi, hv.phys _⟩

theorem updated_radd {d : Src} {m : MemOp} (h : exec (.radd c d m) s = .next t) : Updated (touchOf s (.radd c d m)) s t := by
  change execRadd c d m s = _ at h
  refine updated_issueFall ?_ h
  refine ends_step (halts_memAddr _ _) fun ⟨a, s1⟩ ha => ends_step (halts_readSrc _ _) fun ⟨y, s2⟩ hy => ends_step (halts_waitFor _) fun _ _ => ?_
  obtain ⟨b, hb, rfl⟩ := memAddr_eq_ok ha
  have read : Reading (touchOf s (.radd c d m)).limits s s2 := ((Reading.refl _ s).next hb).next hy
  refine ends_step (halts_checkedIn id read.within.focus _ _ _) fun acc h3 => ?_
  have within := read.translated id m.sel (addrRange (addressOf b m.off) 16)
  dsimp only
  split
  next ho =>
    have placed : Placed 16 acc := placed_of_resolved (.inr (.inr rfl)) (addressOf_lt ..) (syncWord_ok (checkedIn_eq_ok h3)) ho
    have own : OwnWord s (.radd c d m) acc := ⟨by simp only [updateTo, accessAfter, readAll, hb, hy, syncAccess, h3, exec_bind_ok, pure, Except.pure], ho⟩
    refine ends_step (halts_ownBanksRw _ _ _) fun v hv => ?_
    have banks := within.trans (within_ownBanksRw hv)
    refine Ends.ok ((Updated.of_within banks).trans (updated_syncAdd placed.aligned ⟨acc, own, .inr ⟨_, _, _, rfl⟩, rfl⟩ fun i hi => ?_))
    exact ⟨acc, own, i, hi, banks.phys _⟩
  · refine ends_step (halts_sendReady _ _) fun _ _ => Ends.ok ?_
    exact Updated.of_within (within.trans (within_sendReq rfl rfl))

end

/-! ### FESET (R202, R330) -/

theorem updated_feset {c : Com} {f : FeForm} {m : MemOp} (hf : (i = .fesetE c m ∧ f = .setE) ∨ (i = .fesetF c m ∧ f = .setF))
    (h : feStore c f none m s = .next t) : Updated (touchOf s i) s t := by
  have word {b : Word} {u v : State} {acc : Acc} (hb : readSrc s m.base.r = .ok (b, u)) (h : access u m.sel wrUse (addressOf b m.off) 8 8 = .ok (acc, v)) :
      updateTo s i = some acc := by
    rcases hf with ⟨rfl, -⟩ | ⟨rfl, -⟩ <;> simp only [updateTo, accessAfter, readAll, hb, h]
  have sets : ∃ c m, i = .fesetE c m ∨ i = .fesetF c m := hf.elim (fun h => ⟨c, m, .inl h.1⟩) fun h => ⟨c, m, .inr h.1⟩
  refine updated_issueFall ?_ h
  refine ends_step (halts_memAddr _ _) fun ⟨a, s1⟩ ha => ends_step (.ok _) fun ⟨y, s2⟩ hy => ends_step (halts_waitFor _) fun _ _ => ?_
  obtain ⟨b, hb, rfl⟩ := memAddr_eq_ok ha
  cases hy
  have read : Reading (touchOf s i).limits s s1 := (Reading.refl _ s).next hb
  refine ends_step (halts_access_after id read.within _ _ _ _ _) fun ⟨acc, s3⟩ h3 => ?_
  have within := within_access_after id read.within read.cores h3
  dsimp only
  split
  next ho =>
    have tag (v : State) (hv : Within (touchOf s i).limits s v) : (touchOf s i).tag (v.phys (firstLoc acc) / 8) :=
      ⟨acc, ⟨word hb h3, ho⟩, sets, by rw [hv.phys]⟩
    rcases hf with ⟨-, rfl⟩ | ⟨-, rfl⟩
    · rw [feOwn_empties]
      exact Ends.ok ((Updated.of_within within).trans (updated_empties (tag s3 within)))
    · rw [feOwn_turn rfl rfl]
      refine .bind (P := fun r => Updated (touchOf s i) s r.1) (ends_step (halts_ownBanks _ _ _) fun v hv => ?_) fun r hr => Ends.ok hr
      have banks := within.trans (within_ownBanks hv)
      have filled := ((Updated.of_within banks).trans (updated_liven (v.phys (acc.locs.headD 0) / 8))).trans (updated_fills (tag v banks))
      exact Ends.ok filled
  · exact ends_attempt (attempt_feRemote within ..)

/-! ### Block transfers (R332, R333) -/

theorem transferRanges_ok {loc rem n : Nat} {sel : Space} {p : PageUse} {extra : Option FaultInfo} {a b : Acc}
    (h : transferRanges u loc rem sel n p extra = .ok (a, b)) : resolve u u.focus u.cur.asid .spm rdUse loc 8 (addrRange loc n) = .ok a := by
  unfold transferRanges at h
  dsimp only at h
  split at h
  next hl _ _ => cases h; exact hl
  · cases h
  · cases h

section
variable {A : Limits}

/-- The local range of a PUT is read; a poisoned word sets POIS (R94). -/
theorem putSource_within (hp : A.pois) {locs : List Nat} (hl : ∀ v : State, ∀ l ∈ locs, v.lockedLoc l = false) (hu : Within A s u) :
    Halts A s (putSource u locs) ∧ ∀ r, putSource u locs = .ok r → Within A s r.2 := by
  refine ⟨.bind (halts_ownBanks _ _ _) fun _ _ => .ok _, fun r hr => ?_⟩
  obtain ⟨v, hv, hr⟩ := exec_bind_eq_ok hr
  rw [readHome_unlocked (hl v)] at hr
  cases hr
  exact (hu.trans (within_ownBanks hv)).trans (within_poisIf fun _ => hp)

end

theorem unlocked_of_transfer {loc rem n : Nat} {sel : Space} {p : PageUse} {extra : Option FaultInfo} {a b : Acc}
    (h : transferRanges u loc rem sel n p extra = .ok (a, b)) : ∀ v : State, ∀ l ∈ a.locs, v.lockedLoc l = false := by
  have resolved := transferRanges_ok h
  obtain ⟨-, own, -⟩ := resolve_ok resolved
  exact fun v => unlocked_of_resolved resolved own v

section
variable {c : Com} {d a : Src} {sel : Space} {len : BitVec 32}

theorem updated_put (h : exec (.put c d a sel len) s = .next t) : Updated (touchOf s (.put c d a sel len)) s t := by
  change execPut c d a sel len s = _ at h
  refine updated_issueFall ?_ h
  refine ends_step (halts_readSrc _ _) fun ⟨r, s1⟩ hr => ends_step (halts_readSrc _ _) fun ⟨l, s2⟩ hl => ends_step (halts_waitFor _) fun _ _ => ?_
  have read : Reading (touchOf s (.put c d a sel len)).limits s s2 := ((Reading.refl _ s).next hr).next hl
  refine ends_step (halts_checkedIn id read.within.focus _ _ _) fun ⟨src, dst⟩ hc => ends_step (halts_sendReady _ _) fun _ _ => ?_
  have source := putSource_within trivial (unlocked_of_transfer (checkedIn_eq_ok hc)) (read.translated id sel (addrRange r.toNat len.toNat))
  exact ends_step source.1 fun ⟨bs, v⟩ hv => Ends.ok (Updated.of_within ((source.2 _ hv).trans (within_postWrites ..)))

theorem updated_get (h : exec (.get c d a sel len) s = .next t) : Updated (touchOf s (.get c d a sel len)) s t := by
  change execGet c d a sel len s = _ at h
  refine updated_issueFall ?_ h
  refine ends_step (halts_readSrc _ _) fun ⟨r, s1⟩ hr => ends_step (halts_readSrc _ _) fun ⟨l, s2⟩ hl => ends_step (halts_waitFor _) fun _ _ => ?_
  have read : Reading (touchOf s (.get c d a sel len)).limits s s2 := ((Reading.refl _ s).next hr).next hl
  refine ends_step (halts_checkedIn id read.within.focus _ _ _) fun ⟨dst, src⟩ hc => ends_step (halts_sendReady _ _) fun _ _ => Ends.ok ?_
  refine .of_within (List.foldlRecOn (motive := Within (touchOf s (.get c d a sel len)).limits s) _ _ (read.translated id ..) fun u hu run _ => ?_)
  exact hu.trans (within_sendReq rfl rfl)

theorem updated_putsig {x : Src} {ssp : Space} (h : exec (.putsig c d a x sel ssp len) s = .next t) :
    Updated (touchOf s (.putsig c d a x sel ssp len)) s t := by
  change execPutsig c d a x sel ssp len s = _ at h
  refine updated_issueFall ?_ h
  refine ends_step (halts_readSrc _ _) fun ⟨r, s1⟩ hr => ends_step (halts_readSrc _ _) fun ⟨y, s2⟩ hy => ends_step (halts_readSrc _ _) fun ⟨l, s3⟩ hl =>
    ends_step (halts_waitFor _) fun _ _ => ?_
  have read : Reading (touchOf s (.putsig c d a x sel ssp len)).limits s s3 := (((Reading.refl _ s).next hr).next hy).next hl
  refine ends_step (halts_checkedIn id read.within.focus _ _ _) fun ⟨src, dst⟩ hc => ends_step (halts_checked _) fun sync _ =>
    ends_step (halts_waitFor _) fun _ _ => ends_step (halts_waitFor _) fun _ _ => ?_
  have source := putSource_within trivial (unlocked_of_transfer (checkedIn_eq_ok hc)) (read.translated id .glb
    ((if sel == .glb then addrRange r.toNat len.toNat else []) ++ (if ssp == .glb then addrRange y.toNat 16 else [])))
  refine ends_step source.1 fun ⟨bs, v⟩ hv => Ends.ok (Updated.of_within ?_)
  exact ((source.2 _ hv).trans (within_postWrites ..)).trans (within_sendReq rfl rfl)

end

/-! ### The frames -/

/-- Every update keeps within what it may change. -/
theorem updated_update (hi : isUpdate i = true) (h : exec i s = .next t) : Updated (touchOf s i) s t := by
  cases i
  case amo => exact updated_amo h
  case amoCas => exact updated_amoCas h
  case amofAdd => exact updated_amofAdd h
  case swarm => exact updated_swarm h
  case radd => exact updated_radd h
  case fesetE => exact updated_feset (.inl ⟨rfl, rfl⟩) h
  case fesetF => exact updated_feset (.inr ⟨rfl, rfl⟩) h
  case put => exact updated_put h
  case get => exact updated_get h
  case putsig => exact updated_putsig h
  all_goals cases hi

/-- Settles O53: every update keeps within what touchOf lists, and the list says the frame. -/
theorem updateFrames : Obligations.UpdateFrames := by
  rintro i s t hi h own rfl
  have w := updated_update hi h
  have bits := w.cur.flags.bits
  refine ⟨fun p hp => w.mem p ?_, fun x hx => w.marks x ?_, fun x hx => w.full x ?_, ?_, fun hw => w.alarm (not_lockedWalk hw), fun k => ?_, fun key b hb => ?_,
    fun key hk => ?_, ?_⟩
  · rintro ⟨acc, word, hb⟩
    exact hp acc word hb
  · rintro ⟨acc, word, marks, rfl⟩
    exact hx acc word marks rfl
  · rintro ⟨acc, word, sets, rfl⟩
    exact hx acc word sets rfl
  · rw [w.same]
    rfl
  · rw [w.tlb k]
  · exact (w.other key b fun ⟨hk, ha⟩ => hb (by rw [hk, ha])).onlyNoted
  · rw [w.away key hk]
  · rintro e rfl
    refine ⟨?_, fun r hr => w.cur.regs r fun ⟨hd, hn⟩ => hr.elim (· hd) hn, ?_, bits.2⟩
    · rw [Sys2Proof.sameCtx, w.cur.same]
      rfl
    · rintro k rfl
      exact bits.1

end Sys2Proof.Laws
end

section
/-! PROOFS. The fences and CNTW (R217, R337). -/

namespace Sys2Proof.Laws

open Sys2Proof Sys2Proof.Machine

variable {s t : State}

/-- An attempt that changes nothing but waits for one condition. -/
theorem issueFall_waitFor {w : Where} {c : Com} (h : Ready w c s) (b : Bool) :
    issueFall w c s (fun u => waitFor b >>= fun _ => .ok u) = if b then .next (completed s s) else .next (stay s) := by
  cases b
  · exact issueFall_waits (k := id) h rfl
  · exact issueFall_completes h rfl

/-- An instruction that is ready but for its WT wait stays before it (R216). -/
theorem issue_unwaited {w : Where} {p : Pred} {wt : Fin 4} {m : State → Exec (State × Flow)} (h : Ready w { pred := p, wt := 0 } s)
    (hw : s.wtMet wt = false) : issue w { pred := p, wt } s m = .next (stay s) := by
  obtain ⟨agent, unblocked, settled, holds, -⟩ := h
  simp only [issue, agent, unblocked, settled, if_neg holds, hw, Bool.not_true, Bool.not_false, blockFor_true, raiseIf_false, waitFor_true, exec_bind_ok]
  rfl

theorem exec_nop (c : Com) (l : NopLen) : exec (.nop c l) s = issueFall .any c s .ok := rfl

theorem fence_waits {p : Pred} (sc : Cls) (h : Ready .any { pred := p, wt := 0 } s) :
    exec (.fence p sc) s = if s.wtMet (wtOf sc) then .next (completed s s) else .next (stay s) :=
  issueFall_waitFor h _

/-- NOP makes its WT wait and nothing else (R216, R304). -/
theorem nop_waits {p : Pred} {wt : Fin 4} {l : NopLen} (h : Ready .any { pred := p, wt := 0 } s) :
    exec (.nop { pred := p, wt } l) s = if s.wtMet wt then .next (completed s s) else .next (stay s) := by
  rw [exec_nop]
  cases hw : s.wtMet wt
  · exact issue_unwaited h hw
  · exact issueFall_completes ⟨h.agent, h.unblocked, h.settled, h.holds, hw⟩ rfl

/-- Settles O59: a fence's scope names the WT code whose wait it makes, and CNTW's wait is for its one count. -/
theorem fencesAndCountWaits : Obligations.FencesAndCountWaits := by
  refine ⟨fun s p sc wt hsc h => ?_, fun s c k n h => ?_⟩
  · have code : wtOf sc = wt := by rcases hsc with ⟨rfl, rfl⟩ | ⟨rfl, rfl⟩ | ⟨rfl, rfl⟩ <;> rfl
    rw [nop_waits h, ← code]
    exact ⟨fence_waits sc h, fence_waits sc h⟩
  · exact (issueFall_waitFor h _).trans (by simp only [decide_eq_true_eq])

end Sys2Proof.Laws
end

section
/-! PROOFS. What stands while operands are read, and BIND, UNBIND, ACQ, REL and STAGE (R219 to R223, R335, R336, R338). -/

namespace Sys2Proof.Laws

open Sys2Proof Sys2Proof.Machine

variable {s s1 s2 : State}

/-! ### What stands while operands are read (R165) -/

theorem Reading.binds {A : Limits} {u : State} (h : Reading A s u) : u.cur.binds = s.cur.binds := by rw [h.within.runner.same]

theorem reading_one {x : Src} {v : Word} (h : readSrc s x = .ok (v, s1)) : Reading noLimits s s1 := (Reading.refl ..).next h

/-! ### Bindings (R219, R335) -/

/-- BIND whose operands are read: an entry that is there changes nothing, a full table raises, and else the entry is put last. -/
theorem execBind_of_reads {c : Com} {d : Src} {a : Use Src} {sizeM1 : BitVec 40} {rsp : Space} {osp : Osp} {o b : Word}
    (h1 : readSrc s a.r = .ok (o, s1)) (h2 : readSrc s1 d = .ok (b, s2)) {e : Binding}
    (he : e = { obj := o, osp, rsp, base := BitVec.ofNat 64 (b.toNat % 2 ^ 57), sizeM1 }) :
    exec (.bind c d a sizeM1 rsp osp) s = issueFall .any c s fun _ =>
      if e ∈ s.cur.binds then .ok s2
      else raiseIf (decide (8 ≤ s.cur.binds.length)) (fBound 0 0) >>= fun _ => .ok (s2.modCur fun k => { k with binds := k.binds ++ [e] }) := by
  subst he
  change execBind c d a sizeM1 rsp osp s = _
  refine issueFall_congr ?_
  simp only [h1, h2, exec_bind_ok, ((reading_one h1).next h2).binds, List.contains_iff_mem]
  rfl

section
variable {c : Com} {a : Use Src} {osp : Osp} {o : Word} (h : Ready .any c s) (h1 : readSrc s a.r = .ok (o, s1))
include h h1

theorem unbind_completes : exec (.unbind c a osp) s = .next (completed s
    (s1.modCur fun k => { k with binds := k.binds.filter fun e => !(e.osp == osp && e.obj == o) })) := by
  change execUnbind c a osp s = _
  exact issueFall_completes h (by rw [h1]; rfl)

variable (hv : s1.vecMemPending s1.focus s1.act = false)
include hv

theorem acq_completes : exec (.acq c a osp) s = .next (completed s (acquire s1 s1.focus s1.act osp o)) := by
  change execAcq c a osp s = _
  exact issueFall_completes h (by simp only [h1, hv, exec_bind_ok, Bool.not_false, waitFor_true]; rfl)

theorem rel_completes (hw : s1.wtMet (relScope s1.focus (s1.cur.binds.filter fun e => e.osp == osp && e.obj == o)) = true) :
    exec (.rel c a osp) s = .next (completed s s1) := by
  change execRel c a osp s = _
  exact issueFall_completes h (by simp only [h1, hv, hw, exec_bind_ok, Bool.not_false, waitFor_true]; rfl)

end

/-! ### STAGE (R338) -/

theorem stage_insane {c : Com} {a : Fin 16} (h : Ready .tile c s) (hv : viewSane (s.cur.vw.get a) = false) :
    exec (.stage c a) s = .next (completed s s) := by
  change execStage c a s = _
  exact issueFall_completes h (if_neg (by rw [hv]; exact Bool.false_ne_true))

/-- The reads of the readable granules start, and then they enter the buffer in order. -/
theorem stage_sane {c : Com} {a : Fin 16} (h : Ready .tile c s) (hv : viewSane (s.cur.vw.get a) = true) {gs : List Nat}
    (hg : gs = (rangeGranules (viewRows (s.cur.vw.get a) 256)).filter fun g => g < 1024 && s.cur.readable.getLsbD g) :
    exec (.stage c a) s = .next (completed s ((startReads s s.focus s.act gs).modMe fun k =>
      { k with staged := (gs.foldl (fun l g => stagedIx (startReads s s.focus s.act gs).act g
          :: l.filter (· ≠ stagedIx (startReads s s.focus s.act gs).act g)) k.staged).take 64 })) := by
  subst hg
  change execStage c a s = _
  exact issueFall_completes h (if_pos hv)

/-- Settles O12: each instruction's effect is what its operands, the bindings and the view give it. -/
theorem bindingAndStageResults : Obligations.BindingAndStageResults := by
  refine ⟨fun s s1 s2 c d a sizeM1 rsp osp o b h h1 h2 e he => ?bind,
    fun s s1 c a osp o h h1 => ⟨unbind_completes h h1, acq_completes h h1, rel_completes h h1⟩,
    fun s c a h => ⟨stage_insane h, fun hv gs hg => stage_sane h hv hg⟩⟩
  rw [execBind_of_reads h1 h2 he]
  refine ⟨fun mem => ?held, fun new room => ?entered, fun new full => ?full⟩
  case held => exact issueFall_completes h (if_pos mem)
  case entered => exact issueFall_completes h (by rw [if_neg new, decide_eq_false (Nat.not_le.mpr room)]; rfl)
  case full => exact issueFall_raises (k := id) h (by rw [if_neg new, decide_eq_true full]; rfl)

end Sys2Proof.Laws
end

section
/-! PROOFS. Ladle jobs and EWAIT (R226, R408 to R411, R414). -/

namespace Sys2Proof.Laws

open Sys2Proof Sys2Proof.Machine

variable {s u t : State}

/-! ### What stands while operands are read and a destination is written (R165) -/

section
variable {A : Limits} (h : Reading A s u)
include h

theorem Reading.myCluster : u.myCluster = s.myCluster := congrArg clusterOf h.within.focus

theorem Reading.asid : u.cur.asid = s.cur.asid := by rw [h.within.runner.same]

theorem Reading.port (p : Fin 8) : u.port p = s.port p := by rw [h.cores]; rfl

theorem Reading.jobs : jobsOf u u.focus u.act = jobsOf s s.focus s.act := by
  rw [h.within.focus, h.within.act, h.cores]
  rfl

end

/-- A destination's write may change the queue or the register that it names. -/
def dstLimits : Limits := { noLimits with queues := True, regs := fun _ => True }

theorem act_writeDst {d : Dst} {v : Word} (h : writeDst s d v = .ok u) : u.act = s.act :=
  (within_writeDst (A := dstLimits) trivial (fun _ _ _ => trivial) h).act

theorem asid_writeDst {d : Dst} {v : Word} (h : writeDst s d v = .ok u) : u.cur.asid = s.cur.asid := by
  rw [(within_writeDst (A := dstLimits) trivial (fun _ _ _ => trivial) h).runner.same]

theorem read2_ok {a b : Src} {x y : Word} (h1 : readSrc s a = .ok (x, u)) (h2 : readSrc u b = .ok (y, t)) : read2 s a b = .ok (x, y, t) := by
  simp only [read2, h1, h2, exec_bind_ok]
  rfl

/-! ### Checks that pass, and translation (R204, R231) -/

@[simp] theorem checked_ok {α : Type} (a : α) : checked (.ok a) = .ok a := rfl

theorem firstFault_cons_ok {α : Type} (a : α) (fs : List (Option FaultInfo)) : firstFault (errOf (.ok a) :: fs) = firstFault fs := rfl

theorem firstFault_nil : firstFault [] = none := rfl

theorem translated_glb {as : BitVec 16} (h : s.cur.asid = as) (vas : List Nat) :
    translated s .glb vas = tlbFills s (isFw s.focus) s.myCluster as vas := by
  subst h
  rfl

theorem asid_holdJob (j : Job) : (holdJob s j).cur.asid = s.cur.asid := rfl

/-! ### A job's start (R408, R409) -/

/-- A Ladle job whose waits are met and whose checks pass is handed over. -/
theorem startLadle_starts {d : Dst} {src : Option Space} {dsp : Space} {ysp : SyncSp} {q5 : Bool} {a b x : Word} {h : LadleShape}
    (hs : LadleStarts s d src dsp ysp q5 a b x h t) : startLadle s d src dsp ysp q5 a b x h = .ok t := by
  obtain ⟨vectors, mine, held, rps, wps, at_, u, id, hr, hw, hy, rfl, hd, rfl⟩ := hs
  have number : jobIdOf s.focus s.act s.cur.task.jseq = BitVec.ofNat 64 (s.focus % 64 * 2 ^ 17 + s.act.toNat * 2 ^ 16 + s.cur.task.jseq.toNat) := rfl
  have asid (j : Job) : (holdJob u j).cur.asid = s.cur.asid := (asid_holdJob j).trans (asid_writeDst hd)
  -- LDLZ has no source and reads no range; the others check theirs
  cases src <;> dsimp only at hr
  all_goals simp only [startLadle, vectors, hr, hw, hy, firstFault_cons_ok, firstFault_nil, pure, Except.pure, checked_ok, mine, held, decide_true,
    Bool.and_self, number, hd, exec_bind_ok, Bool.not_false, waitFor_true, act_writeDst hd, translated_glb (asid _), beq_iff_eq]

section
variable {s1 s2 s3 : State} {c : Com} {o : LadleOp} {a b x : Word} (h : Ready .tile c s) (h1 : readSrc s o.a.r = .ok (a, s1))
  (h2 : readSrc s1 o.b.r = .ok (b, s2)) (h3 : readSrc s2 o.c = .ok (x, s3))
include h h1 h2 h3

theorem ldl_completes {len : BitVec 32} {evt : BitVec 16} (hs : LadleStarts s3 o.d (some o.ssp) o.dsp o.ysp o.q5 a b x
      { kind := .ldl, rlen := len.toNat, wlen := len.toNat, len := len.toNat, block := len.setWidth 64, evt } t) :
    exec (.ldl c o len evt) s = .next (completed s t) := by
  change execLdl c o len evt s = _
  refine issueFall_completes h ?_
  simp only [read2_ok h1 h2, h3, exec_bind_ok]
  exact startLadle_starts hs

theorem ldl2d_completes {rowlen nrows spitch dpitch : BitVec 16} (hs : LadleStarts s3 o.d (some o.ssp) o.dsp o.ysp o.q5 a b x
      { kind := .ldl2d, rlen := (nrows.toNat - 1) * spitch.toNat * 8 + rowlen.toNat, wlen := (nrows.toNat - 1) * dpitch.toNat * 8 + rowlen.toNat
        len := rowlen.toNat * nrows.toNat
        block := BitVec.ofNat 64 (rowlen.toNat + nrows.toNat * 2 ^ 16 + spitch.toNat * 2 ^ 32 + dpitch.toNat * 2 ^ 48), evt := 0 } t) :
    exec (.ldl2d c o rowlen nrows spitch dpitch) s = .next (completed s t) := by
  change execLdl2d c o rowlen nrows spitch dpitch s = _
  refine issueFall_completes h ?_
  simp only [read2_ok h1 h2, h3, exec_bind_ok]
  exact startLadle_starts hs

end

theorem ldlz_completes {s1 s2 : State} {c : Com} {d : Dst} {b : Use Src} {x : Src} {dsp : Space} {ysp : SyncSp} {q5 : Bool} {len : BitVec 32} {bv xv : Word}
    (h : Ready .tile c s) (h1 : readSrc s b.r = .ok (bv, s1)) (h2 : readSrc s1 x = .ok (xv, s2))
    (hs : LadleStarts s2 d none dsp ysp q5 0 bv xv
      { kind := .ldlz, rlen := 0, wlen := len.toNat, len := len.toNat, block := len.setWidth 64, evt := 0 } t) :
    exec (.ldlz c d b x dsp ysp q5 len) s = .next (completed s t) := by
  change execLdlz c d b x dsp ysp q5 len s = _
  refine issueFall_completes h ?_
  simp only [h1, h2, exec_bind_ok]
  exact startLadle_starts hs

/-! ### EWAIT (R414) -/

/-- No job of the context has the number that A names: the wait is met. -/
theorem ewait_completes {s1 : State} {c : Com} {a : Use Src} {x : Word} (h : Ready .tile c s) (h1 : readSrc s a.r = .ok (x, s1))
    (done : ∀ j ∈ jobsOf s s.focus s.act, j.jobid.toNat % 2 ^ 23 ≠ x.toNat % 2 ^ 23) : exec (.ewait c a) s = .next (completed s s1) := by
  have none : ((jobsOf s1 s1.focus s1.act).any fun j => j.jobid.toNat % 2 ^ 23 == x.toNat % 2 ^ 23) = false := by
    rw [(reading_one h1).jobs, List.any_eq_false]
    exact fun j hj he => done j hj (beq_iff_eq.mp he)
  change execEwait c a s = _
  exact issueFall_completes h (by simp only [h1, exec_bind_ok, none, Bool.not_false, blockFor_true]; rfl)

theorem ewaitN_completes {c : Com} {n : BitVec 5} (h : Ready .tile c s) (few : (jobsOf s s.focus s.act).length ≤ n.toNat) :
    exec (.ewaitN c n) s = .next (completed s s) := by
  change execEwaitN c n s = _
  exact issueFall_completes h (by rw [decide_eq_true few]; rfl)

end Sys2Proof.Laws
end

section
/-! PROOFS. The Runner instructions (R415 to R422). -/

namespace Sys2Proof.Laws

open Sys2Proof Sys2Proof.Machine

variable {s : State} {c : Com}

/-! ### CAP.RUN (R78) -/

/-- A Runner instruction that needs `CAP.RUN` checks it before all else. -/
theorem needCap_raises {b : Nat} {m : State → Exec State} (h : Ready .tile c s) (hc : s.cur.cap.getLsbD b = false) :
    issueFall .tile c s (fun s => needCap s b >>= fun _ => m s) = .next (takeFault s s.focus s.act { code := 4, detail := b }) :=
  issueFall_raises (k := id) h (by rw [needCap_missing hc]; rfl)

section
variable (h : Ready .tile c s) (hc : s.cur.cap.getLsbD 1 = false)
include h hc

theorem rarm_privileged (port : Fin 8) : exec (.rarm c port) s = .next (takeFault s s.focus s.act { code := 4, detail := 1 }) := by
  change execRarm c port s = _
  exact needCap_raises h hc

theorem rdisarm_privileged (port : Fin 8) (grp : Fin 64) :
    exec (.rdisarm c port grp) s = .next (takeFault s s.focus s.act { code := 4, detail := 1 }) := by
  change execRdisarm c port grp s = _
  exact needCap_raises h hc

theorem startPour_privileged (o : PourOp) (kind : PourKind) :
    startPour c o kind s = .next (takeFault s s.focus s.act { code := 4, detail := 1 }) :=
  needCap_raises h hc

end

/-! ### Pours (R416 to R420) -/

/-- The instruction that starts a pour of each kind. -/
theorem exec_pour {o : PourOp} {kind : PourKind} {i : Instr} (hi : (∃ ty, kind = .int ty ∧ i = .rpourInt c o ty) ∨ (∃ b, kind = .bs b ∧ i = .rpourBs c o b)
    ∨ (kind = .skim ∧ i = .rskim c o) ∨ (∃ r, kind = .bcast r ∧ i = .rbcast c o r)) : exec i s = startPour c o kind s := by
  rcases hi with ⟨ty, rfl, rfl⟩ | ⟨b, rfl, rfl⟩ | ⟨rfl, rfl⟩ | ⟨r, rfl, rfl⟩ <;> rfl

/-- The lowest field of a word, as SEQ of a pour's SEQEV (R416). -/
theorem bitsAt_low (x : Word) (n : Nat) : bitsAt x 0 n = x.toNat % 2 ^ n := by rw [bitsAt, Nat.pow_zero, Nat.div_one]

/-- A field above, as EVT of a pour's SEQEV (R416). -/
theorem ofNat_bitsAt_div (x : Word) (lo n : Nat) : BitVec.ofNat n (bitsAt x lo n) = BitVec.ofNat n (x.toNat / 2 ^ lo) := by
  rw [ofNat_bitsAt, ← Nat.shiftRight_eq_div_pow]
  rfl

section
variable (j : Job) (p : Fin 8) (f : Port → Port)

theorem act_holdJob : (holdJob s j).act = s.act := rfl

theorem myCluster_holdJob : (holdJob s j).myCluster = s.myCluster := rfl

/-- Neither the hand-over nor the entry at the port touches a context. -/
theorem asid_pourHeld : ((holdJob s j).modPort p f).cur.asid = s.cur.asid := rfl

end

/-! ### RARM, RDISARM and RSTAT (R415, R421, R422) -/

section
variable {port : Fin 8} (h : Ready .tile c s)
include h

section
variable (hc : s.cur.cap.getLsbD 1 = true)
include hc

theorem rarm_enabled (he : (s.port port).en = true) : exec (.rarm c port) s = .next (completed s (wakeAll s port)) := by
  change execRarm c port s = _
  exact issueFall_completes h (by simp only [needCap_held hc, capRun, he, Bool.not_true, raiseIf_false, exec_bind_ok]; rfl)

theorem rarm_disabled (he : (s.port port).en = false) : exec (.rarm c port) s = .next (takeFault s s.focus s.act fRunner) := by
  change execRarm c port s = _
  exact issueFall_raises (k := id) h (by simp only [needCap_held hc, capRun, he, Bool.not_false, raiseIf_true, exec_bind_ok]; rfl)

theorem rdisarm_completes (grp : Fin 64) : exec (.rdisarm c port grp) s = .next (completed s (s.modPort port fun x =>
    if (x.group grp).valid then disarm x fun q => q.grp == grp else x)) := by
  change execRdisarm c port grp s = _
  exact issueFall_completes h (by simp only [needCap_held hc, capRun, exec_bind_ok]; rfl)

end

theorem rstat_completes {d : Dst} {grp : Fin 64} {t : State} (hd : writeDst s d (rstatWord (s.port port) grp) = .ok t) :
    exec (.rstat c d port grp) s = .next (completed s t) := by
  change execRstat c d port grp s = _
  exact issueFall_completes h hd

end

/-- Settles O20: a job starts as LadleStarts says, the waits are for the jobs of the context, and each Runner instruction follows its checks. -/
theorem ladleAndRunnerResults : Obligations.LadleAndRunnerResults := by
  refine ⟨⟨fun s s1 s2 s3 t c o a b x h h1 h2 h3 => ⟨fun len evt => ldl_completes h h1 h2 h3, fun rowlen nrows spitch dpitch => ldl2d_completes h h1 h2 h3⟩,
      fun s s1 s2 t c d b x dsp ysp q5 len bv xv => ldlz_completes, fun s s1 c a x => ewait_completes, fun s c n => ewaitN_completes⟩,
    fun s s1 s2 s3 s4 c o dst sync se src rps wps at_ kind i hi h hc h1 h2 h3 h4 vectors rlen hrlen hr hw hy hst accepted held u hu => ?pour,
    fun s c port h hc => ⟨rarm_enabled h hc, rarm_disabled h hc, rdisarm_completes h hc⟩, fun s t c d port grp h hd => rstat_completes h hd,
    fun s c o port grp h hc u hu => ?privileged⟩
  case pour =>
    rw [exec_pour hi]
    refine issueFall_completes h ?_
    have read : Reading noLimits s s4 := (((reading_one h1).next h2).next h3).next h4
    subst hu hrlen
    rw [← translated_glb ((asid_pourHeld ..).trans read.asid)]
    simp only [read.within.focus, read.within.act, read.asid, read.myCluster] at vectors hr hw held
    -- the operands, and the wait of R213
    simp only [needCap_held hc, capRun, read2_ok h1 h2, h3, h4, exec_bind_ok, read.within.focus, read.within.act, read.asid, read.myCluster, read.port, vectors,
      Bool.not_false, waitFor_true]
    -- the checks, and the room at the scheduler
    simp only [hr, hw, hy, hst, firstFault_cons_ok, firstFault_nil, checked_ok, pure, Except.pure, exec_bind_ok, bitsAt_low, accepted, raiseIf_false, held,
      decide_true, waitFor_true]
    -- the hand-over
    simp only [ofNat_bitsAt_div, act_holdJob, myCluster_holdJob, read.within.act, read.myCluster, Bool.and_eq_true, beq_iff_eq, decide_eq_true_eq]
  case privileged =>
    subst hu
    have pour := startPour_privileged h hc o
    exact ⟨rarm_privileged h hc port, rdisarm_privileged h hc port grp, pour .skim, fun ty => pour (.int ty), fun b => pour (.bs b),
      fun r => pour (.bcast r)⟩

end Sys2Proof.Laws
end

section
/-! PROOFS. The fields of an encoded word and the codes of its operands, written and read back (R266 to R279). -/

namespace Sys2Proof.Laws

open Sys2Proof

/-! ### Fields of a word (R270, R271) -/

/-- What a word with this length code has room for above bit 63 (R266). -/
def upLimit (len : Nat) : Nat := if len = 3 then 2 ^ 64 else if len = 2 then 2 ^ 32 else 1

@[simp] theorem upLimit_1 : upLimit 1 = 1 := rfl
@[simp] theorem upLimit_2 : upLimit 2 = 4294967296 := rfl
@[simp] theorem upLimit_3 : upLimit 3 = 18446744073709551616 := rfl
@[simp] theorem upLimit_pos (len : Nat) : 0 < upLimit len := by unfold upLimit; split_ifs <;> decide

/-- Fields that have their places in a word (R270, R271). -/
structure Fits (r : Raw) : Prop where
  len : 0 < r.len ∧ r.len < 4
  op : r.op < 256
  pred : r.pred < 16
  wt : r.wt < 4
  d : r.d < 64
  a : r.a < 64
  b : r.b < 64
  la : r.la ≤ 1
  lb : r.lb ≤ 1
  fn : r.fn < 16
  x24 : r.x24 < 2 ^ 24
  hi : r.hi < upLimit r.len

@[simp] theorem fits_iff (len op pred wt d a b la lb fn x24 hi : Nat) : Fits ⟨len, op, pred, wt, d, a, b, la, lb, fn, x24, hi⟩ ↔
    (0 < len ∧ len < 4) ∧ op < 256 ∧ pred < 16 ∧ wt < 4 ∧ d < 64 ∧ a < 64 ∧ b < 64 ∧ la ≤ 1 ∧ lb ≤ 1 ∧ fn < 16
      ∧ x24 < 16777216 ∧ hi < upLimit len :=
  ⟨fun ⟨h1, h2, h3, h4, h5, h6, h7, h8, h9, h10, h11, h12⟩ => ⟨h1, h2, h3, h4, h5, h6, h7, h8, h9, h10, h11, h12⟩,
    fun ⟨h1, h2, h3, h4, h5, h6, h7, h8, h9, h10, h11, h12⟩ => ⟨h1, h2, h3, h4, h5, h6, h7, h8, h9, h10, h11, h12⟩⟩

theorem len_toNat {r : Raw} (h : Fits r) : r.toNat % 4 = r.len := by
  have := h.len.2
  simp only [Raw.toNat]
  omega

/-- Fields come back out of their word. -/
theorem rawOfNat_toNat {r : Raw} (h : Fits r) : rawOfNat r.toNat = r := by
  have low := len_toNat h
  obtain ⟨hlen, hop, hpred, hwt, hd, ha, hb, hla, hlb, hfn, hx, hhi⟩ := h
  have up : r.toNat / 2 ^ 64 = r.hi := by simp only [Raw.toNat]; omega
  have hhi' : r.hi % (if r.len = 3 then 2 ^ 64 else if r.len = 2 then 2 ^ 32 else 1) = r.hi := Nat.mod_eq_of_lt hhi
  simp only [rawOfNat, low, up, hhi']
  obtain ⟨len, op, pred, wt, d, a, b, la, lb, fn, x24, hi⟩ := r
  simp only [Raw.toNat, Raw.mk.injEq, true_and, and_true] at *
  refine ⟨?_, ?_, ?_, ?_, ?_, ?_, ?_, ?_, ?_, ?_⟩ <;> omega

/-- The bytes of a word's length are what its fields hold. -/
theorem toNat_rawOfNat {w : Nat} (h : w % 4 ≠ 0) : (rawOfNat w).toNat = w % 2 ^ (8 * lenBytes (w % 4)) := by
  have : w % 4 = 1 ∨ w % 4 = 2 ∨ w % 4 = 3 := by omega
  obtain h | h | h := this
  all_goals
    simp only [rawOfNat, Raw.toNat, lenBytes, h]
    norm_num
    omega

/-! ### Codes -/

@[simp] theorem flag_toNat (b : Bool) : flag b.toNat = b := by cases b <;> rfl

@[simp] theorem decFin_val {k : Nat} (n : Fin k) : decFin k n.val = .ok n := dif_pos n.isLt

@[simp] theorem decDst_encDst (d : Dst) : decDst (encDst d) = .ok d := by
  cases d with
  | g n => exact dif_pos n.isLt
  | q n => revert n; decide

@[simp] theorem decSrc_encSrc (x : Src) : decSrc (encSrc x) = .ok x := by
  cases x with
  | g n => exact dif_pos n.isLt
  | q n | t n => revert n; decide
  | _ => rfl

@[simp] theorem decOsp_encOsp (o : Osp) : decOsp (encOsp o) = .ok o := by cases o <;> rfl

@[simp] theorem decName_ty (t : Ty) (e : DecodeError) : decName tyNames t.ctorIdx e = .ok t := by cases t <;> rfl
@[simp] theorem decName_space (x : Space) (e : DecodeError) : decName spaceNames x.ctorIdx e = .ok x := by cases x <;> rfl
@[simp] theorem decName_mma (t : MmaTy) (e : DecodeError) : decName mmaNames t.ctorIdx e = .ok t := by cases t <;> rfl
@[simp] theorem decName_cond (k : Cond) (e : DecodeError) : decName condNames k.ctorIdx e = .ok k := by cases k <;> rfl
@[simp] theorem decName_ld (k : LdKind) (e : DecodeError) : decName ldNames k.ctorIdx e = .ok k := by cases k <;> rfl
@[simp] theorem decName_st (k : StKind) (e : DecodeError) : decName stNames k.ctorIdx e = .ok k := by cases k <;> rfl
@[simp] theorem decName_cvt (k : FCvt) (e : DecodeError) : decName cvtNames k.ctorIdx e = .ok k := by cases k <;> rfl
@[simp] theorem decName_amo (k : AmoOp) (e : DecodeError) : decName amoNames k.ctorIdx e = .ok k := by cases k <;> rfl
@[simp] theorem decName_cls (k : Cls) (e : DecodeError) : decName clsNames k.ctorIdx e = .ok k := by cases k <;> rfl
@[simp] theorem decName_scope (k : Scope) (e : DecodeError) : decName scopeNames k.ctorIdx e = .ok k := by cases k <;> rfl
@[simp] theorem decName_red (k : RedOp) (e : DecodeError) : decName redNames k.ctorIdx e = .ok k := by cases k <;> rfl
@[simp] theorem decName_scan (k : ScanOp) (e : DecodeError) : decName scanNames k.ctorIdx e = .ok k := by cases k <;> rfl
@[simp] theorem decName_pourSp (k : PourSp) (e : DecodeError) : decName pourSpNames k.ctorIdx e = .ok k := by cases k <;> rfl
@[simp] theorem decName_syncSp (k : SyncSp) (e : DecodeError) : decName syncSpNames k.ctorIdx e = .ok k := by cases k <;> rfl
@[simp] theorem rmNames_ctorIdx (m : Rm) : rmNames[m.ctorIdx]?.getD .rne = m := by cases m <;> rfl
@[simp] theorem shufNames_ctorIdx (m : ShufMode) : shufNames[m.ctorIdx % 4]?.getD .lo = m := by cases m <;> rfl
@[simp] theorem bankNames_ctorIdx (k : BankSel) : bankNames[k.ctorIdx % 2]?.getD .rs = k := by cases k <;> rfl

/-! ### Codes keep within their fields -/

@[simp] theorem encSrc_lt (x : Src) : encSrc x < 64 := by cases x <;> simp only [encSrc] <;> omega
@[simp] theorem encDst_lt (d : Dst) : encDst d < 64 := by cases d <;> simp only [encDst] <;> omega
@[simp] theorem head_lt (p : Pred) : p.neg.toNat * 8 + p.p.val < 16 := by
  have := p.neg.toNat_le
  omega
@[simp] theorem fin_lt {n m : Nat} (v : Fin n) (h : n ≤ m) : v.val < m := v.val_lt_of_le h
@[simp] theorem bits_lt {n m : Nat} (v : BitVec n) (h : 2 ^ n ≤ m) : v.toNat < m := v.isLt.trans_le h
@[simp] theorem flag_le (b : Bool) : b.toNat ≤ 1 := b.toNat_le
@[simp] theorem flag_lt (b : Bool) {m : Nat} (h : 2 ≤ m) : b.toNat < m := b.toNat_lt.trans_le h
@[simp] theorem ctorIdx_bank_lt (k : BankSel) : k.ctorIdx < 16777216 := by cases k <;> decide
@[simp] theorem lenOff_pos (o : Off) : 0 < o.len := by cases o <;> simp [Off.len]
@[simp] theorem lenForm_pos (f : FForm) : 0 < f.len := by cases f <;> simp [FForm.len]
@[simp] theorem lenOff_lt (o : Off) : o.len < 4 := by cases o <;> simp [Off.len]
@[simp] theorem lenForm_lt (f : FForm) : f.len < 4 := by cases f <;> simp [FForm.len]
@[simp] theorem encOsp_lt (o : Osp) : encOsp o < 8 := by cases o <;> decide
@[simp] theorem encOsp_lt' (o : Osp) : encOsp o < 16777216 := (encOsp_lt o).trans (by decide)
@[simp] theorem ctorIdx_ty_lt (t : Ty) : t.ctorIdx < 16 := by cases t <;> decide
@[simp] theorem ctorIdx_rm_lt (m : Rm) : m.ctorIdx < 4 := by cases m <;> decide
@[simp] theorem ctorIdx_cond_lt (k : Cond) : k.ctorIdx < 16 := by cases k <;> decide
@[simp] theorem ctorIdx_ld_lt (k : LdKind) : k.ctorIdx < 16 := by cases k <;> decide
@[simp] theorem ctorIdx_st_lt (k : StKind) : k.ctorIdx < 16 := by cases k <;> decide
@[simp] theorem ctorIdx_cvt_lt (k : FCvt) : k.ctorIdx < 16 := by cases k <;> decide
@[simp] theorem ctorIdx_amo_lt (k : AmoOp) : k.ctorIdx < 16 := by cases k <;> decide
/-- FN 9 of the AMO opcode is the compare-and-swap (R340). -/
theorem ctorIdx_amo_ne (k : AmoOp) : k.ctorIdx ≠ 9 := by cases k <;> decide
@[simp] theorem ctorIdx_mma_lt (t : MmaTy) : t.ctorIdx < 16 := by cases t <;> decide
@[simp] theorem ctorIdx_cls_lt (k : Cls) : k.ctorIdx < 16 := by cases k <;> decide
@[simp] theorem ctorIdx_cls_succ_lt (k : Cls) : k.ctorIdx + 1 < 16 := by cases k <;> decide
@[simp] theorem ctorIdx_scope_lt (k : Scope) : k.ctorIdx < 4 := by cases k <;> decide
@[simp] theorem ctorIdx_red_lt (k : RedOp) : k.ctorIdx < 16 := by cases k <;> decide
@[simp] theorem ctorIdx_scan_lt (k : ScanOp) : k.ctorIdx < 16 := by cases k <;> decide
@[simp] theorem ctorIdx_shuf_lt (k : ShufMode) : k.ctorIdx < 4 := by cases k <;> decide
@[simp] theorem ctorIdx_space_lt (x : Space) : x.ctorIdx < 8 := by cases x <;> decide
@[simp] theorem ctorIdx_space_lt64 (x : Space) : x.ctorIdx < 64 := (ctorIdx_space_lt x).trans (by decide)
@[simp] theorem ctorIdx_pourSp_le (k : PourSp) : k.ctorIdx ≤ 1 := by cases k <;> decide
@[simp] theorem ctorIdx_syncSp_lt (k : SyncSp) : k.ctorIdx < 4 := by cases k <;> decide

/-! ### Operands -/

@[simp] theorem useS_enc (u : Use Src) : useS (encSrc u.r) u.last.toNat = .ok u := by
  simp only [useS, decSrc_encSrc, flag_toNat]; rfl
@[simp] theorem useN_val {k : Nat} (u : Use (Fin k)) : useN k u.r.val u.last.toNat = .ok u := by
  simp only [useN, decFin_val, flag_toNat]; rfl

/-- PRED is read back, whatever the other fields (R274). -/
@[simp] theorem pred_comOf (p : Pred) (len op wt d a b la lb fn x24 hi : Nat) :
    (comOf ⟨len, op, p.neg.toNat * 8 + p.p.val, wt, d, a, b, la, lb, fn, x24, hi⟩).pred = p := by
  have codes : ∀ (neg : Bool) (p : Fin 8), decide ((neg.toNat * 8 + p.val) / 8 = 1) = neg ∧ Fin.ofNat 8 (neg.toNat * 8 + p.val) = p := by decide
  obtain ⟨neg, p⟩ := p
  rw [comOf, (codes neg p).1, (codes neg p).2]
@[simp] theorem wt_comOf (wt : Fin 4) (len op pred d a b la lb fn x24 hi : Nat) :
    (comOf ⟨len, op, pred, wt.val, d, a, b, la, lb, fn, x24, hi⟩).wt = wt := by
  simp [comOf]

@[simp] theorem comOf_head (c : Com) (len op d a b la lb fn x24 hi : Nat) :
    comOf ⟨len, op, c.pred.neg.toNat * 8 + c.pred.p.val, c.wt.val, d, a, b, la, lb, fn, x24, hi⟩ = c :=
  congrArg₂ Com.mk (pred_comOf ..) (wt_comOf (pred := c.pred.neg.toNat * 8 + c.pred.p.val) ..)

/-- The fields of EXT24 come back out of it (R272). -/
@[simp] theorem extOfNat_toNat {c lc ro rmo ty sat opx : Nat} (hc : c < 64) (hlc : lc ≤ 1) (hro : ro ≤ 1) (hrmo : rmo < 4) (hty : ty < 16)
    (hsat : sat ≤ 1) (hopx : opx < 512) : extOfNat (Ext.toNat ⟨c, lc, ro, rmo, ty, sat, opx⟩) = ⟨c, lc, ro, rmo, ty, sat, opx⟩ := by
  simp only [Ext.toNat, extOfNat, Ext.mk.injEq]
  refine ⟨?_, ?_, ?_, ?_, ?_, ?_, ?_⟩ <;> omega

@[simp] theorem ext_toNat_lt {c lc ro rmo ty sat opx : Nat} (hc : c < 64) (hlc : lc ≤ 1) (hro : ro ≤ 1) (hrmo : rmo < 4) (hty : ty < 16)
    (hsat : sat ≤ 1) (hopx : opx < 512) : Ext.toNat ⟨c, lc, ro, rmo, ty, sat, opx⟩ < 16777216 := by
  simp only [Ext.toNat]
  omega

@[simp] theorem encSel_lt (x : Space) (lu na : Bool) : encSel x lu na < 64 := by
  have := ctorIdx_space_lt x
  have := lu.toNat_le
  have := na.toNat_le
  simp only [encSel]
  omega

theorem mem_fields (x : Space) (lu na : Bool) :
    encSel x lu na % 8 = x.ctorIdx ∧ encSel x lu na / 8 % 2 = lu.toNat ∧ encSel x lu na / 16 % 2 = na.toNat := by
  have := ctorIdx_space_lt x
  have := lu.toNat_lt
  have := na.toNat_lt
  simp only [encSel]
  omega

/-! ### What an encoding's parts write, field by field -/

@[simp] theorem rawOf_eq (c : Com) (len op fn : Nat) :
    rawOf c len op fn = ⟨len, op, c.pred.neg.toNat * 8 + c.pred.p.val, c.wt.val, 0, 0, 0, 0, 0, fn, 0, 0⟩ := rfl
@[simp] theorem rawWt_eq (wt : Fin 4) (len op fn : Nat) : rawWt wt len op fn = ⟨len, op, 0, wt.val, 0, 0, 0, 0, 0, fn, 0, 0⟩ := rfl

section
variable (len op pred wt d a b la lb fn x24 hi : Nat)

@[simp] theorem sA_eq (u : Use Src) :
    (⟨len, op, pred, wt, d, a, b, la, lb, fn, x24, hi⟩ : Raw).sA u = ⟨len, op, pred, wt, d, encSrc u.r, b, u.last.toNat, lb, fn, x24, hi⟩ := rfl
@[simp] theorem sB_eq (u : Use Src) :
    (⟨len, op, pred, wt, d, a, b, la, lb, fn, x24, hi⟩ : Raw).sB u = ⟨len, op, pred, wt, d, a, encSrc u.r, la, u.last.toNat, fn, x24, hi⟩ := rfl
@[simp] theorem nA_eq {k : Nat} (u : Use (Fin k)) :
    (⟨len, op, pred, wt, d, a, b, la, lb, fn, x24, hi⟩ : Raw).nA u = ⟨len, op, pred, wt, d, u.r.val, b, u.last.toNat, lb, fn, x24, hi⟩ := rfl
@[simp] theorem nB_eq {k : Nat} (u : Use (Fin k)) :
    (⟨len, op, pred, wt, d, a, b, la, lb, fn, x24, hi⟩ : Raw).nB u = ⟨len, op, pred, wt, d, a, u.r.val, la, u.last.toNat, fn, x24, hi⟩ := rfl
@[simp] theorem dD_eq (x : Dst) :
    (⟨len, op, pred, wt, d, a, b, la, lb, fn, x24, hi⟩ : Raw).dD x = ⟨len, op, pred, wt, encDst x, a, b, la, lb, fn, x24, hi⟩ := rfl
@[simp] theorem dS_eq (x : Src) :
    (⟨len, op, pred, wt, d, a, b, la, lb, fn, x24, hi⟩ : Raw).dS x = ⟨len, op, pred, wt, encSrc x, a, b, la, lb, fn, x24, hi⟩ := rfl
@[simp] theorem dN_eq {k : Nat} (x : Fin k) :
    (⟨len, op, pred, wt, d, a, b, la, lb, fn, x24, hi⟩ : Raw).dN x = ⟨len, op, pred, wt, x.val, a, b, la, lb, fn, x24, hi⟩ := rfl
@[simp] theorem imm_eq (n : Nat) :
    (⟨len, op, pred, wt, d, a, b, la, lb, fn, x24, hi⟩ : Raw).imm n = ⟨len, op, pred, wt, d, a, b, la, lb, fn, n, hi⟩ := rfl
@[simp] theorem ext_eq (e : Ext) :
    (⟨len, op, pred, wt, d, a, b, la, lb, fn, x24, hi⟩ : Raw).ext e = ⟨len, op, pred, wt, d, a, b, la, lb, fn, e.toNat, hi⟩ := rfl
@[simp] theorem up_eq (n : Nat) :
    (⟨len, op, pred, wt, d, a, b, la, lb, fn, x24, hi⟩ : Raw).up n = ⟨len, op, pred, wt, d, a, b, la, lb, fn, x24, n⟩ := rfl
@[simp] theorem off_imm24 (v : BitVec 24) :
    (⟨len, op, pred, wt, d, a, b, la, lb, fn, x24, hi⟩ : Raw).off (.imm24 v) = ⟨len, op, pred, wt, d, a, b, la, lb, fn, v.toNat, hi⟩ := rfl
@[simp] theorem off_imm32 (v : BitVec 32) :
    (⟨len, op, pred, wt, d, a, b, la, lb, fn, x24, hi⟩ : Raw).off (.imm32 v) = ⟨len, op, pred, wt, d, a, b, la, lb, fn, x24, v.toNat⟩ := rfl

end

@[simp] theorem pure_ok {α : Type} (a : α) : (pure a : Except DecodeError α) = .ok a := rfl
@[simp] theorem decode_bind_ok {α β : Type} (a : α) (f : α → Except DecodeError β) : (Except.ok a : Except DecodeError α) >>= f = f a := rfl

/-! ### Offsets and memory operands (R278) -/

section
variable (r : Raw) (o : Off) (m : MemOp)

@[simp] theorem len_off : (r.off o).len = r.len := by cases o <;> rfl
@[simp] theorem op_off : (r.off o).op = r.op := by cases o <;> rfl
@[simp] theorem fn_off : (r.off o).fn = r.fn := by cases o <;> rfl
@[simp] theorem d_off : (r.off o).d = r.d := by cases o <;> rfl
@[simp] theorem comOf_off : comOf (r.off o) = comOf r := by cases o <;> rfl
@[simp] theorem a_off : (r.off o).a = r.a := by cases o <;> rfl
@[simp] theorem la_off : (r.off o).la = r.la := by cases o <;> rfl
@[simp] theorem b_off : (r.off o).b = r.b := by cases o <;> rfl
@[simp] theorem lb_off : (r.off o).lb = r.lb := by cases o <;> rfl
@[simp] theorem fOff_off (h : r.len = o.len) : fOff (r.off o) = .ok o := by
  cases o <;> simp_all [fOff, Raw.off, Off.len, imm24]

@[simp] theorem len_mem : (r.mem m).len = r.len := len_off ..
@[simp] theorem op_mem : (r.mem m).op = r.op := op_off ..
@[simp] theorem fn_mem : (r.mem m).fn = r.fn := fn_off ..
@[simp] theorem d_mem : (r.mem m).d = r.d := d_off ..
@[simp] theorem comOf_mem : comOf (r.mem m) = comOf r := comOf_off ..

theorem b_mem : (r.mem m).b = encSel m.sel m.lu m.na := by
  rw [Raw.mem]
  cases m.off <;> rfl

@[simp] theorem fits_off (h : Fits r) (hl : r.len = o.len) : Fits (r.off o) := by
  obtain ⟨len, op, pred, wt, d, a, b, la, lb, fn, x24, hi⟩ := r
  cases o <;> simp_all [Off.len, upLimit]

@[simp] theorem fMem_mem (h : r.len = m.off.len) : fMem (r.mem m) = .ok m := by
  obtain ⟨hs, hlu, hna⟩ := mem_fields m.sel m.lu m.na
  have ha : fA (r.mem m) = .ok m.base := by simp [fA, Raw.mem, Raw.sA]
  have ho : fOff (r.mem m) = .ok m.off := fOff_off _ _ h
  simp [fMem, b_mem, hs, hlu, hna, ha, ho]

@[simp] theorem fits_mem (h : Fits r) (hl : r.len = m.off.len) : Fits (r.mem m) := by
  obtain ⟨len, op, pred, wt, d, a, b, la, lb, fn, x24, hi⟩ := r
  refine fits_off _ _ ?_ hl
  simp_all

end

@[simp] theorem mem32_eq (len op pred wt d a b la lb fn x24 hi : Nat) (m : MemOp32) :
    (⟨len, op, pred, wt, d, a, b, la, lb, fn, x24, hi⟩ : Raw).mem32 m =
      ⟨len, op, pred, wt, d, encSrc m.base.r, encSel m.sel m.lu m.na, m.base.last.toNat, lb, fn, x24, m.off.toNat⟩ := rfl

theorem fMem32_placed {off : Nat} (len op pred wt d lb fn x24 hi : Nat) (m : MemOp32) (h : off % 2 ^ 32 = m.off.toNat) :
    fMem32 ⟨len, op, pred, wt, d, encSrc m.base.r, encSel m.sel m.lu m.na, m.base.last.toNat, lb, fn, x24, hi⟩ off = .ok m := by
  obtain ⟨hs, hlu, hna⟩ := mem_fields m.sel m.lu m.na
  have ho : BitVec.ofNat 32 off = m.off := BitVec.eq_of_toNat_eq h
  simp [fMem32, fA, hs, hlu, hna, ho]

@[simp] theorem fMem32_mem32 (len op pred wt d lb fn x24 hi : Nat) (m : MemOp32) :
    fMem32 ⟨len, op, pred, wt, d, encSrc m.base.r, encSel m.sel m.lu m.na, m.base.last.toNat, lb, fn, x24, hi⟩ m.off.toNat = .ok m :=
  fMem32_placed _ _ _ _ _ _ _ _ _ _ (Nat.mod_eq_of_lt m.off.isLt)

/-! ### EXT24 (R272) -/

@[simp] theorem extTy_eq (t : Ty) : extTy t = ⟨0, 0, 0, 0, t.ctorIdx, 0, 0⟩ := rfl

section
variable (c lc ro rmo ty sat opx : Nat)

@[simp] theorem ext_rnd (r : Rnd) : (⟨c, lc, ro, rmo, ty, sat, opx⟩ : Ext).rnd r = ⟨c, lc, r.ro.toNat, r.rmo.ctorIdx, ty, sat, opx⟩ := rfl
@[simp] theorem ext_vx (x : VX) :
    (⟨c, lc, ro, rmo, ty, sat, opx⟩ : Ext).vx x = ⟨c, lc, x.rnd.ro.toNat, x.rnd.rmo.ctorIdx, ty, x.sat.toNat, opx⟩ := rfl
@[simp] theorem ext_cS (u : Use Src) : (⟨c, lc, ro, rmo, ty, sat, opx⟩ : Ext).cS u = ⟨encSrc u.r, u.last.toNat, ro, rmo, ty, sat, opx⟩ := rfl
@[simp] theorem ext_cN {k : Nat} (u : Use (Fin k)) : (⟨c, lc, ro, rmo, ty, sat, opx⟩ : Ext).cN u = ⟨u.r.val, u.last.toNat, ro, rmo, ty, sat, opx⟩ := rfl

end

/-- The length and the override of a scalar float form are read back (R321). -/
theorem fForm_ext (f : FForm) (op pred wt d a b la lb fn hi : Nat) :
    fForm ⟨f.len, op, pred, wt, d, a, b, la, lb, fn, f.ext.toNat, hi⟩ = f := by
  cases f with
  | short => rfl
  | long r => simp [fForm, FForm.len, FForm.ext, fRnd, fX]

@[simp] theorem formExt_lt (f : FForm) : f.ext.toNat < 16777216 := by
  cases f <;> simp [FForm.ext]

theorem ofNat_packed {w n : Nat} {v : BitVec w} (h : n % 2 ^ w = v.toNat) : BitVec.ofNat w n = v := BitVec.eq_of_toNat_eq h

theorem finOfNat_packed {k n : Nat} [NeZero k] {v : Fin k} (h : n % k = v.val) : Fin.ofNat k n = v := Fin.ext h

/-- What a pour's word holds above bit 63 (R416). -/
def pourUp (o : PourOp) (ty form root : Nat) : Nat :=
  o.count.toNat + o.grp.val * 2 ^ 32 + o.port.val * 2 ^ 38 + ty * 2 ^ 41 + form * 2 ^ 44 + root * 2 ^ 45

theorem encPour_eq (c : Com) (op fn : Nat) (o : PourOp) (ty form root : Nat) : encPour c op fn o ty form root =
    ⟨3, op, c.pred.neg.toNat * 8 + c.pred.p.val, c.wt.val, encSrc o.src, encSrc o.dst.r, encSrc o.sync.r, o.dst.last.toNat, o.sync.last.toNat, fn,
      Ext.toNat ⟨encSrc o.seqev.r, o.seqev.last.toNat, 0, 0, 0, 0, o.ssp.ctorIdx + o.dsp.ctorIdx * 2 + o.ysp.ctorIdx * 4 + o.q7.toNat * 16⟩,
      pourUp o ty form root⟩ := rfl

theorem pourOpx_lt (o : PourOp) : o.ssp.ctorIdx + o.dsp.ctorIdx * 2 + o.ysp.ctorIdx * 4 + o.q7.toNat * 16 < 512 := by
  have := ctorIdx_pourSp_le o.ssp
  have := ctorIdx_pourSp_le o.dsp
  have := ctorIdx_syncSp_lt o.ysp
  have := o.q7.toNat_le
  omega

/-- The operands of a pour are read back (R416). -/
theorem fPour_enc (c : Com) (op fn : Nat) (o : PourOp) (ty form root : Nat) : fPour (encPour c op fn o ty form root) = .ok o := by
  have := ctorIdx_pourSp_le o.ssp
  have := ctorIdx_pourSp_le o.dsp
  have := ctorIdx_syncSp_lt o.ysp
  have := o.q7.toNat_le
  have hs : (o.ssp.ctorIdx + o.dsp.ctorIdx * 2 + o.ysp.ctorIdx * 4 + o.q7.toNat * 16) % 2 = o.ssp.ctorIdx := by omega
  have hd : (o.ssp.ctorIdx + o.dsp.ctorIdx * 2 + o.ysp.ctorIdx * 4 + o.q7.toNat * 16) / 2 % 2 = o.dsp.ctorIdx := by omega
  have hy : (o.ssp.ctorIdx + o.dsp.ctorIdx * 2 + o.ysp.ctorIdx * 4 + o.q7.toNat * 16) / 4 % 4 = o.ysp.ctorIdx := by omega
  have hq : (o.ssp.ctorIdx + o.dsp.ctorIdx * 2 + o.ysp.ctorIdx * 4 + o.q7.toNat * 16) / 16 % 2 = o.q7.toNat := by omega
  have hc : BitVec.ofNat 32 (pourUp o ty form root) = o.count := ofNat_packed (by unfold pourUp; omega)
  have hg : Fin.ofNat 64 (pourUp o ty form root / 2 ^ 32) = o.grp := finOfNat_packed (by unfold pourUp; omega)
  have hp : Fin.ofNat 8 (pourUp o ty form root / 2 ^ 38) = o.port := finOfNat_packed (by unfold pourUp; omega)
  simp [encPour_eq, fPour, fA, fB, fC, fX, pourOpx_lt, hs, hd, hy, hq, hc, hg, hp, -Fin.ofNat_eq_cast, -Nat.reducePow]

theorem ladleOpx_lt (o : LadleOp) : o.ssp.ctorIdx + o.dsp.ctorIdx * 8 + o.ysp.ctorIdx * 64 + o.q5.toNat * 256 < 512 := by
  have := ctorIdx_space_lt o.ssp
  have := ctorIdx_space_lt o.dsp
  have := ctorIdx_syncSp_lt o.ysp
  have := o.q5.toNat_le
  omega

/-- The operands of LDL and LDL2D are read back (R408). -/
theorem fLadle_enc (o : LadleOp) (len op pred wt fn hi : Nat) : fLadle ⟨len, op, pred, wt, encDst o.d, encSrc o.a.r, encSrc o.b.r, o.a.last.toNat,
    o.b.last.toNat, fn, Ext.toNat { c := encSrc o.c, opx := o.ssp.ctorIdx + o.dsp.ctorIdx * 8 + o.ysp.ctorIdx * 64 + o.q5.toNat * 256 }, hi⟩ = .ok o := by
  have := ctorIdx_space_lt o.ssp
  have := ctorIdx_space_lt o.dsp
  have := ctorIdx_syncSp_lt o.ysp
  have := o.q5.toNat_lt
  have hs : (o.ssp.ctorIdx + o.dsp.ctorIdx * 8 + o.ysp.ctorIdx * 64 + o.q5.toNat * 256) % 8 = o.ssp.ctorIdx := by omega
  have hd : (o.ssp.ctorIdx + o.dsp.ctorIdx * 8 + o.ysp.ctorIdx * 64 + o.q5.toNat * 256) / 8 % 8 = o.dsp.ctorIdx := by omega
  have hy : (o.ssp.ctorIdx + o.dsp.ctorIdx * 8 + o.ysp.ctorIdx * 64 + o.q5.toNat * 256) / 64 % 4 = o.ysp.ctorIdx := by omega
  have hq : (o.ssp.ctorIdx + o.dsp.ctorIdx * 8 + o.ysp.ctorIdx * 64 + o.q5.toNat * 256) / 256 = o.q5.toNat := by omega
  simp [fLadle, fA, fB, fX, ladleOpx_lt, hs, hd, hy, hq]

end Sys2Proof.Laws
end

section
/-! PROOFS. Decode and encode agree for every instruction and every word (R270 to R289). -/

namespace Sys2Proof.Laws

open Sys2Proof

/-- The fields that encode an instruction build it. -/
theorem build_encodeRaw {i : Instr} {r : Raw} (h : encodeRaw i = some r) : build r = .ok i := by
  cases i
  -- group 0
  case nop c l => cases l <;> cases h <;> simp [build, build0]
  case br | brc | brz | brnz | brpAny | brpAll | call | callr | ret | jmpr | loop | end_ | trap | brk =>
    cases h; simp [build, build0, encSI, fA, fB, imm24]
  -- group 1
  case add | sub | and | or | xor | andn | shl | shr | sra | rotl | min | max | minz | maxz | mul | mulh | mulhz | div | divz | rem | remz | fmin | fmax
      | setc | fcmp =>
    cases h; simp [build, build1, encSSS, bSSS, fA, fB]
  case addi | andi | ori | xori | shli | shri | srai | clz | ctz | popc | sext | zext =>
    cases h; simp [build, build1, encSSI, bSS, fA, imm24]
  case li24 | li64 => cases h; simp [build, build1, imm24]
  case li32 => cases h; simp [build, build1, fX]
  case sel | ffma =>
    cases h
    simp [build, build1, encSSS, fA, fB, fC, fRnd, fX]
  case lea => cases h; simp [build, build1, fA, fB]
  case bfx c d a p l | bfi c d a p l =>
    have hp : Fin.ofNat 64 (p.val + l.val * 64) = p := finOfNat_packed (by omega)
    have hl : Fin.ofNat 128 ((p.val + l.val * 64) / 64) = l := finOfNat_packed (by omega)
    cases h; simp [build, build1, encSSI, bSS, fA, hp, hl, -Fin.ofNat_eq_cast]
  case fadd | fsub | fmul => cases h; simp [build, build1, encSSS, bSSS, fA, fB, fForm_ext]
  case fsqrt | fcvt => cases h; simp [build, build1, encSSI, bSS, fA, fForm_ext]
  -- group 2
  case ld | st | ldw | lde | stw | stf | radd | fesetE | fesetF => cases h; simp [build, build2]
  case put | get => cases h; simp [build, build2, Nat.mod_eq_of_lt]
  case unbind | acq | rel => cases h; simp [build, build2, encSI, fA, Nat.mod_eq_of_lt]
  case fence => cases h; simp [build, build2]
  case cntw | stage => cases h; simp [build, build2]
  case putsig c d a x s y l =>
    have := ctorIdx_space_lt y
    have hl : BitVec.ofNat 32 (l.toNat + y.ctorIdx * 2 ^ 32) = l := ofNat_packed (by omega)
    have hy : (l.toNat + y.ctorIdx * 2 ^ 32) / 2 ^ 32 % 8 = y.ctorIdx := by omega
    cases h; simp [build, build2, fX, hl, hy, Nat.mod_eq_of_lt, -Nat.reducePow]
  case bind c d a n rs os =>
    have := ctorIdx_space_lt rs
    have := encOsp_lt os
    have hn : BitVec.ofNat 40 (n.toNat + rs.ctorIdx * 2 ^ 40 + encOsp os * 2 ^ 43) = n := ofNat_packed (by omega)
    have hr : (n.toNat + rs.ctorIdx * 2 ^ 40 + encOsp os * 2 ^ 43) / 2 ^ 40 % 8 = rs.ctorIdx := by omega
    have ho : (n.toNat + rs.ctorIdx * 2 ^ 40 + encOsp os * 2 ^ 43) / 2 ^ 43 % 8 = encOsp os := by omega
    cases h; simp [build, build2, fA, hn, hr, ho, -Nat.reducePow]
  -- group 3
  case amo c o w d m x =>
    have hw : (4 + w.toNat * 2) / 2 % 2 = w.toNat := by cases w <;> rfl
    have ht : 4 + w.toNat * 2 < 16 := by cases w <;> decide
    cases h; simp [build, build3, fX, hw, ht, ctorIdx_amo_ne]
  case amoCas c w d m x n =>
    have := encSrc_lt n
    have hw : (4 + w.toNat * 2) / 2 % 2 = w.toNat := by cases w <;> rfl
    have ht : 4 + w.toNat * 2 < 16 := by cases w <;> decide
    have hn : (encSrc n + m.off.toNat * 2 ^ 32) % 64 = encSrc n := by omega
    have hm : (encSrc n + m.off.toNat * 2 ^ 32) / 2 ^ 32 % 2 ^ 32 = m.off.toNat := by omega
    cases h; simp [build, build3, fX, hw, ht, hn, fMem32_placed _ _ _ _ _ _ _ _ _ _ hm, -Nat.reducePow]
  case amofAdd | swarm | waitw =>
    cases h; simp [build, build3, fC, fX]
  case grpnew | qpoll => cases h; simp [build, build3]
  case grpinit | grpfree | leave => cases h; simp [build, build3, encSI, fA]
  case join | sync | sstep | waitg => cases h; simp [build, build3, encSSI, bSS, fA]
  case joinc | msg => cases h; simp [build, build3, encSI, fA, imm24]
  case forkr c sc d a b x dr q lim en co =>
    have := ctorIdx_scope_lt sc
    let n := q.toNat + lim.toNat * 2 ^ 16 + sc.ctorIdx * 2 ^ 30 + en.toNat * 2 ^ 32 + co.toNat * 2 ^ 48
    have hd : dr.toNat < 512 := by omega
    have hq : BitVec.ofNat 16 n = q := ofNat_packed (by omega)
    have hl : BitVec.ofNat 14 (n / 2 ^ 16) = lim := ofNat_packed (by omega)
    have hs : n / 2 ^ 30 % 4 = sc.ctorIdx := by omega
    have he : BitVec.ofNat 15 (n / 2 ^ 32) = en := ofNat_packed (by omega)
    have hc : BitVec.ofNat 15 (n / 2 ^ 48) = co := ofNat_packed (by omega)
    have hn : q.toNat + lim.toNat * 2 ^ 16 + sc.ctorIdx * 2 ^ 30 + en.toNat * 2 ^ 32 + co.toNat * 2 ^ 48 = n := rfl
    cases h; simp [build, build3, encSSS, fA, fB, fX, hd, hn, hq, hl, hs, he, hc, -Nat.reducePow]
  -- group 4
  case vwsetReg | vwsetImm | vwadv => cases h; simp [build, build4, fA]
  case vld | vst => cases h; simp [build, build4, encVM, fTy, fX]
  case vldl c t d a o x | vstl c t d a o x =>
    cases x <;> cases h <;> simp [build, build4, extIdx, fA, vC, fTy, fX]
  case vgath c t d m x s | vscat c t d m x s =>
    have hs : s.val < 512 := by omega
    cases h; simp [build, build4, encVM, vC, fTy, fX, hs]
  case vadd | vsub | vmul | vmin | vmax | vand | vor | vxor | vandn | vshl | vshr | vsra | vdot | vperm =>
    cases h; simp [build, build4, encVVV, bVVV, vA, vB, fTy, fVX, fRnd, fX]
  case vabs | vneg | vrcp | vrsq | vexp2 | vscan | vred =>
    cases h; simp [build, build4, encVV, bVV, vA, fTy, fVX, fRnd, fX]
  case vfma | vsel =>
    cases h; simp [build, build4, encVVV, vA, vB, vC, fTy, fVX, fRnd, fX]
  case vcmp | vbcast => cases h; simp [build, build4, fA, vA, vB, fTy, fX]
  case vpand | vpor | vpnot | vpcnt => cases h; simp [build, build4, fTy, fX]
  case vcvt c t d a s p x =>
    have := ctorIdx_ty_lt s
    have hx : s.ctorIdx + p.val * 16 < 512 := by omega
    have hs : (s.ctorIdx + p.val * 16) % 16 = s.ctorIdx := by omega
    have hp : Fin.ofNat 16 ((s.ctorIdx + p.val * 16) / 16) = p := finOfNat_packed (by omega)
    cases h
    simp [build, build4, encVV, vA, fTy, fVX, fRnd, fX, hx, hs, hp,
      -Fin.ofNat_eq_cast]
  case vext w t a n =>
    have hn : n.toNat < 512 := n.isLt
    cases h; simp [build, build4, vA, fTy, fX, hn]
  case vwadd c t d a b p w x | vwmul c t d a b p w x =>
    have hx : p.toNat + w.toNat * 2 < 512 ∧ (p.toNat + w.toNat * 2) % 2 = p.toNat ∧ (p.toNat + w.toNat * 2) / 2 % 2 = w.toNat := by
      cases p <;> cases w <;> decide
    cases h
    simp [build, build4, encVVV, bVVV, vA, vB, fTy, fVX, fRnd, fX, hx]
  case vshuf c t d a b m =>
    have hm : m.ctorIdx < 512 := (ctorIdx_shuf_lt m).trans (by decide)
    cases h
    simp [build, build4, encVVV, bVVV, vA, vB, fTy, fX, hm]
  case vslide c t d a b n =>
    have hn : n.toNat < 512 := n.isLt
    cases h; simp [build, build4, encVVV, bVVV, vA, vB, fTy, fX, hn]
  case vbs w t d a b r =>
    have hb : b.toNat < 512 ∧ b.toNat % 2 = b.toNat := by cases b <;> decide
    cases h
    simp [build, build4, vA, fTy, fRnd, fX, hb]
  case vunbs c t d a b =>
    have hb : b.toNat < 512 ∧ b.toNat % 2 = b.toNat := by cases b <;> decide
    cases h; simp [build, build4, encVV, bVV, vA, fTy, fX, hb]
  -- group 5
  case mbsetReg | mbsetImm => cases h; simp [build, build5]
  case mbld c t d m x =>
    have hx : x.opx.toNat < 512 := by omega
    cases h; simp [build, build5, encVM, fC, fTy, fX, hx]
  case mma c t d a b ov bs | mmar c t d a b ov bs =>
    have ho : ov.toNat < 512 ∧ ov.toNat + 2 < 512 ∧ ov.toNat / 2 % 2 ≠ 1 ∧ (ov.toNat / 2 + 1) % 2 = 1 ∧ ov.toNat % 2 = ov.toNat ∧
      (ov.toNat + 2) % 2 = ov.toNat := by cases ov <;> decide
    cases bs <;> cases h <;> simp [build, build5, extMma, vA, vC, fX, ho]
  case mmaRa c t d a b ov sh sp =>
    have := ctorIdx_space_lt sp
    have := ov.toNat_lt
    have hx : ov.toNat + sp.ctorIdx * 4 < 512 := by omega
    have ho : (ov.toNat + sp.ctorIdx * 4) % 2 = ov.toNat := by omega
    have hs : (ov.toNat + sp.ctorIdx * 4) / 4 % 8 = sp.ctorIdx := by omega
    have hc : sh.val < 64 := by omega
    cases h; simp [build, build5, fA, fX, hx, ho, hs, hc]
  case mzero | mwait => cases h; simp [build, build5, fTy, fX]
  case mtld c t d m x ev hi | mtldRb c t d m x ev hi =>
    have := hi.toNat_lt
    have hx : ev.val + hi.toNat * 16 < 512 := by omega
    have he : Fin.ofNat 16 (ev.val + hi.toNat * 16) = ev := finOfNat_packed (by omega)
    have hh : (ev.val + hi.toNat * 16) / 16 % 2 = hi.toNat := by omega
    cases h; simp [build, build5, encVM, fC, fTy, fX, hx, he, hh, -Fin.ofNat_eq_cast]
  case mepi96 c t acc base sel o cols r =>
    have hs : encSel sel false false % 8 = sel.ctorIdx := (mem_fields sel false false).1
    cases cols <;> cases h <;>
      simp [build, build5, encMepi, fA, vC, fTy, fRnd, fX, hs]
  case mepi128 c t acc base sel sc pi cols r =>
    have hs : encSel sel false false % 8 = sel.ctorIdx := (mem_fields sel false false).1
    have hsc : BitVec.ofNat 32 (sc.toNat + pi.toNat * 2 ^ 32) = sc := ofNat_packed (by omega)
    have hpi : BitVec.ofNat 20 ((sc.toNat + pi.toNat * 2 ^ 32) / 2 ^ 32) = pi := ofNat_packed (by omega)
    cases cols <;> cases h <;>
      simp [build, build5, encMepi, fA, vC, fTy, fRnd, fX, hs, hsc, hpi,
        -Nat.reducePow]
  case macc => cases h; simp [build, build5, encVV, bVV, vA, fTy, fX]
  -- group 6
  case ldl c o l e =>
    have hl : BitVec.ofNat 32 (l.toNat + e.toNat * 2 ^ 32) = l := ofNat_packed (by omega)
    have he : BitVec.ofNat 16 ((l.toNat + e.toNat * 2 ^ 32) / 2 ^ 32) = e := ofNat_packed (by omega)
    cases h; simp [build, build6, encLadle, fLadle_enc, hl, he, -Nat.reducePow]
  case ldl2d c o rl nr sp dp =>
    have hrl : BitVec.ofNat 16 (rl.toNat + nr.toNat * 2 ^ 16 + sp.toNat * 2 ^ 32 + dp.toNat * 2 ^ 48) = rl := ofNat_packed (by omega)
    have hnr : BitVec.ofNat 16 ((rl.toNat + nr.toNat * 2 ^ 16 + sp.toNat * 2 ^ 32 + dp.toNat * 2 ^ 48) / 2 ^ 16) = nr := ofNat_packed (by omega)
    have hsp : BitVec.ofNat 16 ((rl.toNat + nr.toNat * 2 ^ 16 + sp.toNat * 2 ^ 32 + dp.toNat * 2 ^ 48) / 2 ^ 32) = sp := ofNat_packed (by omega)
    have hdp : BitVec.ofNat 16 ((rl.toNat + nr.toNat * 2 ^ 16 + sp.toNat * 2 ^ 32 + dp.toNat * 2 ^ 48) / 2 ^ 48) = dp := ofNat_packed (by omega)
    cases h; simp [build, build6, encLadle, fLadle_enc, hrl, hnr, hsp, hdp, -Nat.reducePow]
  case ldlz c d b x dsp ysp q5 l =>
    have := ctorIdx_space_lt dsp
    have := ctorIdx_syncSp_lt ysp
    have := q5.toNat_lt
    have hx : dsp.ctorIdx * 8 + ysp.ctorIdx * 64 + q5.toNat * 256 < 512 := by omega
    have hd : (dsp.ctorIdx * 8 + ysp.ctorIdx * 64 + q5.toNat * 256) / 8 % 8 = dsp.ctorIdx := by omega
    have hy : (dsp.ctorIdx * 8 + ysp.ctorIdx * 64 + q5.toNat * 256) / 64 % 4 = ysp.ctorIdx := by omega
    have hq : (dsp.ctorIdx * 8 + ysp.ctorIdx * 64 + q5.toNat * 256) / 256 = q5.toNat := by omega
    cases h; simp [build, build6, fB, fX, hx, hd, hy, hq]
  case ewait | ewaitN | rarm => cases h; simp [build, build6, encSI, fA]
  case rpourInt c o ty =>
    have ht : BitVec.ofNat 3 (pourUp o ty.toNat 0 0 / 2 ^ 41) = ty := ofNat_packed (by unfold pourUp; omega)
    cases h
    simp only [build, build6, fPour_enc]
    simp [encPour_eq, ht, -Nat.reducePow]
  case rpourBs c o b =>
    have := b.toNat_le
    have hb : pourUp o 6 b.toNat 0 / 2 ^ 44 % 2 = b.toNat := by unfold pourUp; omega
    cases h
    simp only [build, build6, fPour_enc]
    simp [encPour_eq, hb, -Nat.reducePow]
  case rskim c o =>
    cases h
    simp only [build, build6, fPour_enc]
    simp [encPour_eq]
  case rbcast c o n =>
    have hn : Fin.ofNat 32 (pourUp o 4 0 n.val / 2 ^ 45) = n := finOfNat_packed (by unfold pourUp; omega)
    cases h
    simp only [build, build6, fPour_enc]
    simp [encPour_eq, hn, -Fin.ofNat_eq_cast, -Nat.reducePow]
  case rstat c d p g | rdisarm c p g =>
    have hp : Fin.ofNat 8 (p.val + g.val * 8) = p := finOfNat_packed (by omega)
    have hg : Fin.ofNat 64 ((p.val + g.val * 8) / 8) = g := finOfNat_packed (by omega)
    cases h; simp [build, build6, hp, hg, -Fin.ofNat_eq_cast]
  -- group 7
  case srd | swr | tbr | take | doneg | yieldt | swap | halt => cases h; simp [build, build7, encSI, fA]
  case pmcr c d a k clr =>
    have := clr.toNat_lt
    have hk : Fin.ofNat 8 (k.val + clr.toNat * 8) = k := finOfNat_packed (by omega)
    have hc : (k.val + clr.toNat * 8) / 8 % 2 = clr.toNat := by omega
    cases h; simp [build, build7, encSSI, bSS, fA, hk, hc, -Fin.ofNat_eq_cast]
  case patr c d s n sh =>
    have := sh.toNat_lt
    have hs : Fin.ofNat 4 (s.val + n.val * 4 + sh.toNat * 64) = s := finOfNat_packed (by omega)
    have hn : Fin.ofNat 16 ((s.val + n.val * 4 + sh.toNat * 64) / 4) = n := finOfNat_packed (by omega)
    have hh : (s.val + n.val * 4 + sh.toNat * 64) / 64 % 2 = sh.toNat := by omega
    cases h; simp [build, build7, hs, hn, hh, -Fin.ofNat_eq_cast]
  case patw c s n a | patwC c s n a =>
    have hs : Fin.ofNat 4 (s.val + n.val * 4) = s := finOfNat_packed (by omega)
    have hn : Fin.ofNat 16 ((s.val + n.val * 4) / 4) = n := finOfNat_packed (by omega)
    cases h; simp [build, build7, encSI, fA, hs, hn, -Fin.ofNat_eq_cast]
  case prevoke => cases h; simp [build, build7, encSI, fA]
  case bkwake | bkhold | bkoff | bkstat => cases h; simp [build, build7, encSI, fA]
  case spkill => cases h; simp [build, build7, fA]
  case dbgrd | resume | kill | fwait | dbgwr => cases h; simp [build, build7, encSSI, bSS, fA, imm24]
  case redir c d a b dr =>
    have hd : dr.toNat % 2 = dr.toNat := by cases dr <;> rfl
    cases h; simp [build, build7, encSSS, bSSS, fA, fB, hd]
  all_goals exact nomatch h

theorem pourUp_lt (o : PourOp) {ty form root : Nat} (ht : ty < 8) (hf : form ≤ 1) (hr : root < 32) :
    pourUp o ty form root < 18446744073709551616 := by
  unfold pourUp
  omega

/-- They have their places in a word. -/
theorem fits_encodeRaw {i : Instr} {r : Raw} (h : encodeRaw i = some r) : Fits r := by
  cases i
  case nop c l => cases l <;> cases h <;> simp
  case br | brc | brz | brnz | brpAny | brpAll | call | callr | ret | jmpr | loop | end_ | trap | brk => cases h; simp [encSI]
  -- group 1
  case add | sub | and | or | xor | andn | shl | shr | sra | rotl | min | max | minz | maxz | mul | mulh | mulhz | div | divz | rem | remz
      | fmin | fmax | setc | fcmp | sel | ffma | lea | fadd | fsub | fmul => cases h; simp [encSSS]
  case addi | andi | ori | xori | shli | shri | srai | clz | ctz | popc | sext | zext | fsqrt | fcvt => cases h; simp [encSSI]
  case li24 | li32 | li64 => cases h; simp
  case bfx c d a p l | bfi c d a p l => cases h; simp [encSSI]; omega
  case ld | st | ldw | lde | stw | stf | radd | fesetE | fesetF | put | get | fence | cntw | stage => cases h; simp
  case unbind | acq | rel => cases h; simp [encSI]
  case putsig c d a x s y l =>
    have := ctorIdx_space_lt y
    cases h; simp; omega
  case bind c d a n rs os =>
    have := ctorIdx_space_lt rs
    have := encOsp_lt os
    cases h; simp; omega
  -- group 3
  case amo c o w d m x =>
    have hw : 4 + w.toNat * 2 < 16 := by cases w <;> decide
    cases h; simp [hw]
  case amoCas c w d m x n =>
    have := encSrc_lt n
    have hw : 4 + w.toNat * 2 < 16 := by cases w <;> decide
    cases h; simp [hw]; omega
  case amofAdd | swarm | waitw | grpnew | qpoll => cases h; simp
  case grpinit | grpfree | leave | joinc | msg => cases h; simp [encSI]
  case join | sync | sstep | waitg => cases h; simp [encSSI]
  case forkr c sc d a b x dr q lim en co =>
    have := ctorIdx_scope_lt sc
    cases h; simp [encSSS]; omega
  -- group 4
  case vwsetReg | vwsetImm | vwadv | vcmp | vbcast | vred | vpand | vpor | vpnot | vpcnt => cases h; simp
  case vld | vst => cases h; simp [encVM]
  case vldl c t d a o x | vstl c t d a o x => cases x <;> cases h <;> simp [extIdx]
  case vgath | vscat => cases h; simp [encVM]
  case vadd | vsub | vmul | vmin | vmax | vand | vor | vxor | vandn | vshl | vshr | vsra | vdot | vperm | vfma | vsel => cases h; simp [encVVV]
  case vabs | vneg | vrcp | vrsq | vexp2 | vscan => cases h; simp [encVV]
  case vcvt c t d a s p x =>
    have := ctorIdx_ty_lt s
    cases h; simp [encVV, show s.ctorIdx + p.val * 16 < 512 by omega]
  case vext => cases h; simp
  case vwadd c t d a b p w x | vwmul c t d a b p w x =>
    have hx : p.toNat + w.toNat * 2 < 512 := by cases p <;> cases w <;> decide
    cases h; simp [encVVV, hx]
  case vshuf c t d a b m =>
    have hm : m.ctorIdx < 512 := (ctorIdx_shuf_lt m).trans (by decide)
    cases h; simp [encVVV, hm]
  case vslide => cases h; simp [encVVV]
  case vbs | vunbs => cases h; simp [encVV]
  -- group 5
  case mbsetReg | mbsetImm | mzero | mwait => cases h; simp
  case mbld => cases h; simp [encVM]
  case mma c t d a b ov bs | mmar c t d a b ov bs =>
    have ho : ov.toNat + 2 < 512 := by cases ov <;> decide
    cases bs <;> cases h <;> simp [extMma, ho]
  case mmaRa c t d a b ov sh sp =>
    have := ctorIdx_space_lt sp
    have := ov.toNat_le
    cases h; simp [show ov.toNat + sp.ctorIdx * 4 < 512 by omega]
  case mtld c t d m x ev hi | mtldRb c t d m x ev hi =>
    have := hi.toNat_le
    cases h; simp [encVM, show ev.val + hi.toNat * 16 < 512 by omega]
  case mepi96 c t acc base sel o cols r => cases cols <;> cases h <;> simp [encMepi]
  case mepi128 c t acc base sel sc pi cols r => cases cols <;> cases h <;> simp [encMepi] <;> omega
  case macc => cases h; simp [encVV]
  -- group 6
  case ldl => cases h; simp [encLadle, ladleOpx_lt]; omega
  case ldl2d => cases h; simp [encLadle, ladleOpx_lt]; omega
  case ldlz c d b x dsp ysp q5 l =>
    have := ctorIdx_space_lt dsp
    have := ctorIdx_syncSp_lt ysp
    have := q5.toNat_le
    cases h; simp [show dsp.ctorIdx * 8 + ysp.ctorIdx * 64 + q5.toNat * 256 < 512 by omega]
  case ewait | ewaitN | rarm => cases h; simp [encSI]
  case rpourInt | rpourBs | rskim | rbcast => cases h; simp [encPour_eq, pourOpx_lt, pourUp_lt]
  case rstat | rdisarm => cases h; simp; omega
  -- group 7
  case srd | swr | tbr | take | doneg | yieldt | swap | halt | prevoke | bkwake | bkhold | bkoff | bkstat | spkill | dbgwr => cases h; simp [encSI]
  case pmcr c d a k clr => have := clr.toNat_le; cases h; simp [encSSI]; omega
  case patr c d s n sh => have := sh.toNat_le; cases h; simp; omega
  case patw | patwC => cases h; simp [encSI]; omega
  case dbgrd | resume | kill | fwait => cases h; simp [encSSI]
  case redir => cases h; simp [encSSS]
  all_goals exact nomatch h

/-! ### Decode and encode -/

theorem encode_eq_some {i : Instr} {w : Nat} (h : encode i = some w) : i.wf = true ∧ ∃ r, encodeRaw i = some r ∧ w = r.toNat := by
  unfold encode at h
  split at h
  · next hw =>
    obtain ⟨r, hr, rfl⟩ := Option.map_eq_some_iff.mp h
    exact ⟨hw, r, hr, rfl⟩
  · exact nomatch h

/-- What the decoder accepts: an instruction that the fields build, that is well-formed, and that is encoded by these very fields (R279, R289). -/
theorem decodeRaw_eq_ok {r : Raw} {i : Instr} : decodeRaw r = .ok i ↔ r.len ≠ 0 ∧ build r = .ok i ∧ i.wf = true ∧ encodeRaw i = some r := by
  unfold decodeRaw
  by_cases hl : r.len = 0
  · simp [hl]
  · cases hb : build r with
    | error e => simp [hl, bind, Except.bind]
    | ok j =>
      by_cases hj : j.wf = true ∧ encodeRaw j = some r
      · simp [hl, hj]
        rintro rfl
        exact hj
      · simp only [hl, decode_bind_ok, if_false, Bool.and_eq_true, beq_iff_eq, if_neg hj, reduceCtorEq, false_iff]
        rintro ⟨-, hi, hw, he⟩
        cases hi
        exact hj ⟨hw, he⟩

theorem decode_toNat {i : Instr} {r : Raw} (h : encodeRaw i = some r) (hw : i.wf = true) : decode r.toNat = .ok i := by
  rw [decode, rawOfNat_toNat (fits_encodeRaw h)]
  exact decodeRaw_eq_ok.mpr ⟨(fits_encodeRaw h).len.1.ne', build_encodeRaw h, hw, h⟩

theorem encode_of_decode {w : Nat} {i : Instr} (h : decode w = .ok i) : encode i = some (w % 2 ^ (8 * i.size)) := by
  obtain ⟨hl, -, hw, hr⟩ := decodeRaw_eq_ok.mp h
  have hs : i.size = lenBytes (w % 4) := by rw [Instr.size, hr]; rfl
  rw [encode, if_pos hw, hr, hs]
  exact congrArg some (toNat_rawOfNat hl)

/-- Settles O46: an encoding fits its word and builds its instruction again, and the decoder accepts a word only when the instruction that it builds has the
word's own fields. -/
theorem decodeEncode : Obligations.DecodeEncode := by
  refine ⟨fun i w h => ?_, fun w i h => encode_of_decode h⟩
  obtain ⟨hw, r, hr, rfl⟩ := encode_eq_some h
  exact decode_toNat hr hw

end Sys2Proof.Laws
end

section
/-! PROOFS. The step of a turn and words written out (R153, R268, R270). -/

namespace Sys2Proof.Laws

open Sys2Proof Sys2Proof.Machine

/-! ### The step that a turn takes (R153) -/

/-- The bytes at the PC are a whole instruction of one fetch block: it runs (R267, R270). -/
theorem fetchAt_decoded {s : State} {key len : Nat} {pc : BitVec 15} {i : Instr} (hl : len = (s.byteAt (locIst key pc.toNat)).toNat % 4) (h : len ≠ 0)
    (hx : pc.toNat % 32 + lenBytes len ≤ 32) (hi : decode (s.insnAt key pc) = .ok i) : fetchAt s key pc = .run i := by
  rw [fetchAt, ← hl, if_neg h, if_neg (Nat.not_lt.mpr hx), hi]

theorem stepEvent_runs {v : State} {i : Instr} (hi : isStep i = true) (hc : awaitsClock v i = false) (hn : namesAgents i = true) :
    stepEvent v i = exec i v := by
  rw [stepEvent, hi, hc, hn]
  rfl

/-- A turn of another agent, while the module's clocks run. -/
theorem step_event {s v : State} {i : Instr} (hn : nextTurn s = (.event i, v)) (hh : v.halted = false) : step s = stepEvent v i := by
  rw [step, hn]
  unfold stepTurn
  rw [if_neg (by simp [hh])]

theorem nextTurn_agenda {s : State} {t : Turn} {ts : List Turn} (h : s.agenda = t :: ts) :
    nextTurn s = (t, { s with agenda := ts, tick := s.tick + 1 }) := by
  rw [nextTurn, h]

/-- Settles O1: each clause is the equation of the turn that it names. -/
theorem stepRunsDecoded : Obligations.StepRunsDecoded := by
  unfold Obligations.StepRunsDecoded
  refine ⟨?_, ?_, fun s t ts => nextTurn_agenda⟩
  · intro s v u key i hn hh ha hu hc hk hd len hl h0 hx hi
    rw [step_issue hn hh ha hu hc hk, runNext_run hd (fetchAt_decoded hl h0 hx hi)]
  · intro s v i hn hh hi hc hm
    rw [step_event hn hh, stepEvent_runs hi hc hm]

/-! ### Words written out (R270, R279) -/

/-- Settles O47: the decoder is evaluated on each word. -/
theorem decodeWords : Obligations.DecodeWords := by
  unfold Obligations.DecodeWords
  refine ⟨?_, ?_, rfl, ⟨_, rfl⟩, ⟨_, rfl⟩, ⟨_, rfl⟩, ⟨_, rfl⟩⟩
  · rintro com rfl
    decide
  · rintro com rfl
    decide

end Sys2Proof.Laws
end

section
/-! PROOFS. Faults taken and left, and their packets (R229, R230, R232 to R234, R241). -/

namespace Sys2Proof.Laws

open Sys2Proof Sys2Proof.Machine

/-! ### A context freezes (R232) -/

/-- What freezing a context leaves of its core: the packet is its context's last and, of a tile core, on its way to the leaf. -/
theorem core_freezeWith (s : State) (k : Nat) (n : Bool) (code : Nat) (pkt : Packet) :
    ∃ v w, (freezeWith s k n code pkt).core k = { (s.core k).setCtx n { s.ctx k n with
        st := .frozen, fcode := BitVec.ofNat 8 code, packet := pkt, blocked := max 1 (s.ctx k n).blocked, feArr := none, parked := none } with
      pmc := v, pmcsel := w, pktOut := if isTile k then (s.core k).pktOut ++ [pkt] else (s.core k).pktOut } := by
  obtain ⟨v, w, counted⟩ := countPmc_core (s.modCtx k n fun c => { c with
    st := .frozen, fcode := BitVec.ofNat 8 code, packet := pkt, blocked := max 1 c.blocked, feArr := none, parked := none }) k (some n) 8 1
  rw [core_modCtx_same] at counted
  refine ⟨v, w, ?_⟩
  simp only [freezeWith]
  split
  · rw [State.core_modCore_same, counted]
    cases n <;> rfl
  · rw [counted]
    cases n <;> rfl

theorem core_countPmc_other {s : State} {k k2 : Nat} (h : k2 ≠ k) (o : Option Bool) (ev n : Nat) : (countPmc s k o ev n).core k2 = s.core k2 := by
  obtain ⟨v, w, counted⟩ := countPmc_eq s k o ev n
  rw [counted, State.core_setCore_other _ _ h]

theorem core_modCore_other {s : State} {k k2 : Nat} (h : k2 ≠ k) (f : Core → Core) : (s.modCore k f).core k2 = s.core k2 :=
  State.core_setCore_other _ _ h

theorem core_modCtx_other {s : State} {k k2 : Nat} (h : k2 ≠ k) (n : Bool) (f : Ctx → Ctx) : (s.modCtx k n f).core k2 = s.core k2 :=
  State.core_setCore_other _ _ h

theorem core_freezeWith_other {s : State} {k k2 : Nat} (h : k2 ≠ k) (n : Bool) (code : Nat) (pkt : Packet) :
    (freezeWith s k n code pkt).core k2 = s.core k2 := by
  simp only [freezeWith]
  split <;> simp only [core_modCore_other h, core_countPmc_other h, core_modCtx_other h]

/-- Where a fault leaves its context's PC: at the instruction, or at its successor after TRAP and BRK (R232). -/
def faultPc (s : State) (key : Nat) (n : Bool) (f : FaultInfo) : BitVec 15 :=
  if f.code = 13 ∨ f.code = 14 then nextPc (s.ctx key n).pc (s.lenAt key (s.ctx key n).pc) else (s.ctx key n).pc

/-- The packet of a fault (R233). -/
def faultPacket (s : State) (key : Nat) (n : Bool) (f : FaultInfo) : Packet :=
  packetOf f (if n != (s.core key).active then 4 else 0) (packetCore key n) (s.ctx key n).pc.toNat (s.insnAt key (s.ctx key n).pc)
    (faultPc s key n f).toNat (packetVal (s.ctx key n) (operandsOf (s.insnAt key (s.ctx key n).pc)).1)
    (packetVal (s.ctx key n) (operandsOf (s.insnAt key (s.ctx key n).pc)).2) (s.tbOf (clusterOf key))

theorem takeFault_eq (s : State) (key : Nat) (n : Bool) (f : FaultInfo) : takeFault s key n f =
    freezeWith (s.modCtx key n fun c => { c with pc := faultPc s key n f }) key n f.code (faultPacket s key n f) := by
  simp only [takeFault, faultPacket, faultPc, Bool.or_eq_true, decide_eq_true_eq]

/-- The context that a fault freezes. -/
theorem ctx_takeFault (s : State) (key : Nat) (n : Bool) (f : FaultInfo) : (takeFault s key n f).ctx key n = { s.ctx key n with
    pc := faultPc s key n f, st := .frozen, fcode := BitVec.ofNat 8 f.code, packet := faultPacket s key n f
    blocked := max 1 (s.ctx key n).blocked, feArr := none, parked := none } := by
  rw [takeFault_eq, ctx_freezeWith, State.ctx_modCtx_same]

/-- The core of a context that a fault freezes. -/
theorem core_takeFault (s : State) (key : Nat) (n : Bool) (f : FaultInfo) :
    ∃ v w, (takeFault s key n f).core key = { (s.core key).setCtx n ((takeFault s key n f).ctx key n) with
      pmc := v, pmcsel := w, pktOut := if isTile key then (s.core key).pktOut ++ [faultPacket s key n f] else (s.core key).pktOut } := by
  obtain ⟨v, w, h⟩ := core_freezeWith (s.modCtx key n fun c => { c with pc := faultPc s key n f }) key n f.code (faultPacket s key n f)
  refine ⟨v, w, ?_⟩
  rw [ctx_takeFault, takeFault_eq, h, core_modCtx_same, State.ctx_modCtx_same]
  cases n <;> rfl

theorem core_takeFault_other {s : State} {key k : Nat} (h : k ≠ key) (n : Bool) (f : FaultInfo) : (takeFault s key n f).core k = s.core k := by
  rw [takeFault_eq, core_freezeWith_other h, core_modCtx_other h]

theorem takeFault_frame (s : State) (key : Nat) (n : Bool) (f : FaultInfo) :
    takeFault s key n f = { s with cores := (takeFault s key n f).cores } := by
  rw [takeFault_eq, freezeWith_frame]
  rfl

/-! ### The packet's fields (R233) -/

/-- A field of a packet, from the bits that its sum has there. -/
theorem extract_ofNat {p : Packet} {lo n v : Nat} (h : p.toNat / 2 ^ lo % 2 ^ n = v % 2 ^ n) : p.extractLsb' lo n = BitVec.ofNat n v := by
  apply BitVec.eq_of_toNat_eq
  rw [BitVec.extractLsb'_toNat, Nat.shiftRight_eq_div_pow, h, BitVec.toNat_ofNat]

theorem insnAt_lt (s : State) (key : Nat) (pc : BitVec 15) : s.insnAt key pc < 2 ^ 128 := by
  have wide (k : Nat) : 8 * lenBytes (k % 4) ≤ 128 := by
    rw [lenBytes]
    omega
  simp only [State.insnAt]
  split
  · exact (readLE_lt ..).trans (by decide)
  · refine (natOfBytes_lt _).trans_le (Nat.pow_le_pow_right (by decide) ?_)
    rw [List.length_map, List.length_range]
    exact wide _

theorem packetCore_eq (key : Nat) (n : Bool) : packetCore key n = n.toNat * 2 ^ 13 + key % 2 ^ 13 := by
  have := n.toNat_lt
  rw [packetCore, placeOf, BitVec.toNat_ofNat]
  omega

section
variable (s : State) (key : Nat) (n : Bool) {f : FaultInfo} (hc : f.code < 2 ^ 8) (hs : f.space < 2 ^ 8) (hd : f.detail < 2 ^ 24)
include hc hs hd

/-- Each field of a fault's packet, where the fault's own fields fit theirs. -/
theorem faultPacket_fields (p : Packet) (hp : p = faultPacket s key n f) :
    p.extractLsb' 0 8 = BitVec.ofNat 8 f.code ∧ p.extractLsb' 16 13 = BitVec.ofNat 13 key ∧ p.extractLsb' 29 3 = BitVec.ofNat 3 n.toNat
    ∧ p.extractLsb' 32 32 = (s.ctx key n).pc.setWidth 32 ∧ p.extractLsb' 64 128 = BitVec.ofNat 128 (s.insnAt key (s.ctx key n).pc)
    ∧ p.extractLsb' 192 64 = BitVec.ofNat 64 f.addr ∧ p.extractLsb' 256 8 = BitVec.ofNat 8 f.space ∧ p.extractLsb' 264 24 = BitVec.ofNat 24 f.detail
    ∧ p.extractLsb' 288 32 = (faultPc s key n f).setWidth 32 ∧ p.extractLsb' 448 64 = BitVec.ofNat 64 (s.tbOf (clusterOf key)) := by
  subst hp
  have hn := n.toNat_lt
  have hpc := (s.ctx key n).pc.isLt
  have hnpc := (faultPc s key n f).isLt
  have hi := insnAt_lt s key (s.ctx key n).pc
  have hflags : (if n != (s.core key).active then 4 else 0) < 2 ^ 8 := by split_ifs <;> decide
  have pcs (pc : BitVec 15) : pc.setWidth 32 = BitVec.ofNat 32 pc.toNat := (BitVec.ofNat_toNat ..).symm
  have ha := (packetVal (s.ctx key n) (operandsOf (s.insnAt key (s.ctx key n).pc)).1).isLt
  have hb := (packetVal (s.ctx key n) (operandsOf (s.insnAt key (s.ctx key n).pc)).2).isLt
  rw [pcs, pcs]
  refine ⟨extract_ofNat ?_, extract_ofNat ?_, extract_ofNat ?_, extract_ofNat ?_, extract_ofNat ?_, extract_ofNat ?_, extract_ofNat ?_,
    extract_ofNat ?_, extract_ofNat ?_, extract_ofNat ?_⟩
  all_goals
    rw [faultPacket, packetOf, packetCore_eq, BitVec.toNat_ofNat]
    omega

end

/-! ### A context goes on (R241) -/

theorem unfreeze_frame (s : State) (key : Nat) (n : Bool) : unfreeze s key n = { s with cores := (unfreeze s key n).cores } := rfl

theorem core_unfreeze_other {s : State} {key k : Nat} (h : k ≠ key) (n : Bool) : (unfreeze s key n).core k = s.core k := core_modCtx_other h ..

theorem ctx_unfreeze (s : State) (key : Nat) (n : Bool) : ∃ task, (unfreeze s key n).ctx key n = { s.ctx key n with
    st := if n = (s.core key).active then .running else .ready, fcode := 0, blocked := 0, task } := by
  simp only [unfreeze, State.ctx_modCtx_same, beq_iff_eq]
  exact ⟨_, rfl⟩

theorem canResume_iff (s : State) (key : Nat) (n : Bool) : canResume s key n = true ↔ (s.ctx key n).st = .frozen ∧ (s.ctx key n).vac = false := by
  simp [canResume]

/-- Settles O4: a fault is one change of a context and its packet, and RESUME and REDIR are one change back. -/
theorem takingAndLeavingAFault : Obligations.TakingAndLeavingAFault := by
  unfold Obligations.TakingAndLeavingAFault
  refine ⟨?taken, ?left, canResume_iff, fun s key n pc h => ?elsewhere, fun s key n => ?there⟩
  case taken =>
    rintro s t key n f rfl
    obtain ⟨v, w, own⟩ := core_takeFault s key n f
    have other : (takeFault s key n f).ctx key (!n) = s.ctx key (!n) := by
      rw [State.ctx, own]
      cases n <;> rfl
    have kept := takeFault_frame s key n f
    refine ⟨?_, ?_, ?pc, ?_, ?_, ?_, ?_, ?_, ?_, ?_, other, fun k h => core_takeFault_other h n f, by rw [kept], by rw [kept], ?queues, ?vectors,
      ?active, ?sent, fun hc hs hd p hp => ?fields⟩
    case queues | vectors | active =>
      rw [own]
      cases n <;> rfl
    case sent => rw [own, ctx_takeFault]
    case fields =>
      rw [ctx_takeFault] at hp ⊢
      exact faultPacket_fields s key n hc hs hd p hp
    case pc => rw [ctx_takeFault, faultPc]
    all_goals rw [ctx_takeFault]
  case left =>
    rintro s key n t rfl
    obtain ⟨task, own⟩ := ctx_unfreeze s key n
    have kept := unfreeze_frame s key n
    rw [own]
    exact ⟨rfl, rfl, rfl, rfl, rfl, rfl, rfl, State.ctx_modCtx_shadow .., fun k h => core_unfreeze_other h n, by rw [kept]⟩
  case elsewhere =>
    simp only [redirCtx, if_neg h]
    rfl
  case there =>
    simp only [redirCtx, if_true]
    rfl

end Sys2Proof.Laws
end

section
/-! PROOFS. Branches, calls, the hardware loop, TRAP and BRK (R301, R304 to R311). -/

namespace Sys2Proof.Laws

open Sys2Proof Sys2Proof.Machine

/-! ### What stands while an operand is read (R165) -/

/-- A change of the executing core that keeps its contexts keeps the executing context. -/
theorem cur_modMe {s : State} {f : Core → Core} (h : ∀ n, (f s.me).ctx n = s.me.ctx n) (ha : (f s.me).active = s.me.active) : (s.modMe f).cur = s.cur := by
  change ((s.modCore s.focus f).core s.focus).ctx ((s.modCore s.focus f).core s.focus).active = _
  rw [State.core_modCore_same]
  exact (h _).trans (congrArg _ ha)

section
variable {s t : State} {x : Src} {v : Word} (h : readSrc s x = .ok (v, t))
include h

theorem frame_readSrc : t = { s with cores := t.cores } := by
  obtain ⟨cores, rfl⟩ := readSrc_frame h
  rfl

/-- Reading an operand changes no more of its context than the queue it pops. -/
theorem cur_readSrc : ∃ q4 q5 q7 inbox n, t.cur = { s.cur with q4, q5, q7, inbox, inboxRead := n } := by
  have same : ∃ q4 q5 q7 inbox n, s.cur = { s.cur with q4, q5, q7, inbox, inboxRead := n } := ⟨_, _, _, _, _, rfl⟩
  cases x with
  | g n =>
    simp only [readSrc] at h
    cases hb : s.regBusy n with
    | true => rw [hb] at h; exact nomatch h
    | false => rw [hb] at h; cases h; exact same
  | t n => cases h; exact same
  | q i =>
    simp only [readSrc] at h
    split at h
    · cases h
      rw [cur_modMe (fun n => by cases n <;> rfl) rfl]
      exact same
    · exact nomatch h
  | q4 | q5 | q7 =>
    simp only [readSrc] at h
    split at h
    · cases h
      rw [State.cur_modCur]
      exact ⟨_, _, _, _, _, rfl⟩
    · exact nomatch h
  | q6 =>
    simp only [readSrc] at h
    split at h
    · cases h
      rw [State.cur_modCur]
      split_ifs
      · exact ⟨_, _, _, _, _, rfl⟩
      · exact ⟨_, _, _, _, _, rfl⟩
    · exact nomatch h

theorem focus_readSrc : t.focus = s.focus := by rw [frame_readSrc h]

theorem pc_readSrc : t.cur.pc = s.cur.pc := by
  obtain ⟨_, _, _, _, _, same⟩ := cur_readSrc h
  rw [same]

theorem byteAt_readSrc (l : Nat) : t.byteAt l = s.byteAt l := byteAt_congr (frame_readSrc h) (within_readSrc (A := noLimits) h).phys l

theorem succPc_readSrc : t.succPc = s.succPc := by
  simp only [State.succPc, State.lenAt, pc_readSrc h, focus_readSrc h, byteAt_readSrc h]

theorem loopSkip_readSrc (l : BitVec 15) : loopSkip t l = loopSkip s l := by
  simp only [loopSkip, focus_readSrc h, byteAt_readSrc h]

end

/-- Reading a register pops nothing. -/
theorem readSrc_g_state {s t : State} {n : Fin 48} {v : Word} (h : readSrc s (.g n) = .ok (v, t)) : t = s := by
  simp only [readSrc] at h
  cases hb : s.regBusy n with
  | true => rw [hb] at h; exact nomatch h
  | false => rw [hb] at h; cases h; rfl

/-! ### Targets (R269, R306) -/

theorem target_eq (s : State) (imm : BitVec 24) : target s.cur.pc imm = branchTarget s imm := by
  have hi := BitVec.toInt_lt (x := imm)
  have lo := BitVec.le_toInt (x := imm)
  have wide : (imm.signExtend 32).toNat = (imm.toInt % 2 ^ 32).toNat := by rw [BitVec.signExtend, BitVec.toNat_ofInt]; rfl
  apply BitVec.eq_of_toNat_eq
  rw [target, branchTarget, BitVec.toNat_add, BitVec.toNat_setWidth, BitVec.toNat_shiftLeft, wide, BitVec.toNat_ofInt, Nat.shiftLeft_eq]
  omega

theorem codeAddr_eq (x : Word) : codeAddr x = BitVec.ofNat 15 (x.toNat / 4 * 4) := by
  rw [codeAddr, and_codeMask, BitVec.toNat_setWidth]
  apply BitVec.eq_of_toNat_eq
  rw [BitVec.toNat_ofNat, BitVec.toNat_ofNat]
  omega

/-! ### Transfers of control (R304 to R307) -/

/-- A transfer that its condition decides. -/
theorem issue_branches {s t : State} {c : Com} {b : Bool} {imm : BitVec 24} {m : State → Exec (State × Flow)} (h : Ready .any c s)
    (hpc : t.cur.pc = s.cur.pc) (hm : m s = .ok (branchIf t b imm)) :
    issue .any c s m = .next (if b then wentTo s t (branchTarget s imm) else completed s t) := by
  rw [branchIf, hpc, target_eq] at hm
  cases b with
  | true => exact issue_jumps h hm
  | false => exact issue_completes h hm

theorem linkTo_ok {s t : State} {pc : BitVec 15} (hw : writeDst s (.g 47) (s.succPc.setWidth 64) = .ok t) : linkTo s pc = .ok (t, .jump pc) := by
  rw [linkTo, hw]
  rfl

section
variable {s s1 t : State} {c : Com} {a : Use Src} {imm : BitVec 24} {x : Word} (h : Ready .any c s)
include h

theorem br_goes : exec (.br c imm) s = .next (wentTo s s (branchTarget s imm)) := by
  change execBr c imm s = _
  exact issue_branches (b := true) h rfl rfl

theorem brc_goes {s2 : State} {cond : Cond} {b : Use Src} {y : Word} (h1 : readSrc s a.r = .ok (x, s1)) (h2 : readSrc s1 b.r = .ok (y, s2)) :
    exec (.brc c cond a b imm) s = .next (if condHolds cond x y then wentTo s s2 (branchTarget s imm) else completed s s2) := by
  change execBrc c cond a b imm s = _
  refine issue_branches h ((pc_readSrc h2).trans (pc_readSrc h1)) ?_
  rw [read2_ok h1 h2]
  rfl

theorem brz_goes (h1 : readSrc s a.r = .ok (x, s1)) :
    exec (.brz c a imm) s = .next (if x = 0 then wentTo s s1 (branchTarget s imm) else completed s s1) := by
  change execBrz c a imm s = _
  rw [execBrz, issue_branches h (pc_readSrc h1) (b := x == 0) (by rw [h1]; rfl)]
  simp only [beq_iff_eq]

theorem brnz_goes (h1 : readSrc s a.r = .ok (x, s1)) :
    exec (.brnz c a imm) s = .next (if x = 0 then completed s s1 else wentTo s s1 (branchTarget s imm)) := by
  change execBrnz c a imm s = _
  rw [execBrnz, issue_branches h (pc_readSrc h1) (b := x != 0) (by rw [h1]; rfl)]
  simp only [bne_iff_ne, ite_not]

theorem call_goes (hw : writeDst s (.g 47) (s.succPc.setWidth 64) = .ok t) :
    exec (.call c imm) s = .next (wentTo s t (branchTarget s imm)) := by
  change execCall c imm s = _
  rw [← target_eq]
  exact issue_jumps h (linkTo_ok hw)

theorem callr_goes (h1 : readSrc s a.r = .ok (x, s1)) (hw : writeDst s1 (.g 47) (s.succPc.setWidth 64) = .ok t) :
    exec (.callr c a) s = .next (wentTo s t (BitVec.ofNat 15 (x.toNat / 4 * 4))) := by
  change execCallr c a s = _
  rw [← succPc_readSrc h1] at hw
  rw [← codeAddr_eq]
  exact issue_jumps h (by rw [h1]; exact linkTo_ok hw)

theorem ret_goes (h1 : readSrc s (.g 47) = .ok (x, s1)) : exec (.ret c) s = .next (wentTo s s (BitVec.ofNat 15 (x.toNat / 4 * 4))) := by
  change execRet c s = _
  obtain rfl := readSrc_g_state h1
  rw [← codeAddr_eq]
  exact issue_jumps h (by rw [h1]; rfl)

theorem jmpr_goes (h1 : readSrc s a.r = .ok (x, s1)) : exec (.jmpr c a) s = .next (wentTo s s1 (BitVec.ofNat 15 (x.toNat / 4 * 4))) := by
  change execJmpr c a s = _
  rw [← codeAddr_eq]
  exact issue_jumps h (by rw [h1]; rfl)

/-- LOOP takes its count and starts at its successor. -/
theorem loop_starts (h1 : readSrc s a.r = .ok (x, s1)) (hx : x.toNat % 2 ^ 32 ≠ 0) :
    exec (.loop c a imm) s = .next (wentTo s (s1.modCur fun k =>
      { k with loop := some { count := x.setWidth 32, start := s.succPc, last := branchTarget s imm }
               loopStart := s.succPc, loopLast := branchTarget s imm }) s.succPc) := by
  change execLoop c a imm s = _
  have counts : ¬ x.setWidth 32 = 0 := fun e => hx (by rw [← BitVec.toNat_setWidth, e]; rfl)
  refine issue_jumps h ?_
  rw [h1, exec_bind_ok]
  dsimp only
  rw [if_neg counts, pc_readSrc h1, succPc_readSrc h1, target_eq]
  rfl

/-- LOOP with count 0 goes past its end. -/
theorem loop_skips (h1 : readSrc s a.r = .ok (x, s1)) (hx : x.toNat % 2 ^ 32 = 0) :
    exec (.loop c a imm) s = .next (wentTo s s1 (loopSkip s (branchTarget s imm))) := by
  change execLoop c a imm s = _
  have none : x.setWidth 32 = 0 := BitVec.eq_of_toNat_eq (by rw [BitVec.toNat_setWidth, hx]; rfl)
  refine issue_jumps h ?_
  rw [h1, exec_bind_ok]
  dsimp only
  rw [if_pos none, pc_readSrc h1, target_eq, loopSkip_readSrc h1]
  rfl

theorem trap_raises (code : BitVec 8) : exec (.trap c code) s = .next (takeFault s s.focus s.act { code := 13, detail := code.toNat }) := by
  change execTrap c code s = _
  exact issue_raises (k := id) h rfl

theorem brk_raises : exec (.brk c) s = .next (takeFault s s.focus s.act { code := 14 }) := by
  change execBrk c s = _
  exact issue_raises (k := id) h rfl

end

/-- Settles O8: each instruction's transfer, from what it reads. -/
theorem controlResults : Obligations.ControlResults := by
  unfold Obligations.ControlResults
  refine ⟨fun s c l h => issueFall_completes h rfl, fun s c imm h => br_goes h, fun s s1 s2 c cond a b imm x y h h1 h2 => brc_goes h h1 h2,
    fun s s1 c a imm x h h1 => ⟨brz_goes h h1, brnz_goes h h1⟩, fun s c a imm h hb => ⟨?any, ?all⟩, fun s t c imm h hw => call_goes h hw,
    fun s s1 t c a x h h1 hw => callr_goes h h1 hw, fun s s1 c x h h1 => ret_goes h h1, fun s s1 c a x h h1 => jmpr_goes h h1,
    fun s s1 c a imm x h h1 => ⟨loop_starts h h1, loop_skips h h1⟩, fun s c code h => ⟨trap_raises h code, brk_raises h⟩⟩
  case any =>
    change execBrpAny c a imm s = _
    rw [execBrpAny, issue_branches h rfl (b := s.cur.readP a.r != 0) (by rw [hb]; rfl)]
    simp only [bne_iff_ne, ite_not]
  case all =>
    change execBrpAll c a imm s = _
    rw [execBrpAll, issue_branches h rfl (b := s.cur.readP a.r == BitVec.allOnes 256) (by rw [hb]; rfl)]
    simp only [beq_iff_eq]

/-! ### TRAP and BRK (R310) -/

/-- A word whose fields are not those of what they name does not decode (R279). -/
theorem decode_error_of_build {w : Nat} {i : Instr} (hb : build (rawOfNat w) = .ok i) (hr : encodeRaw i ≠ some (rawOfNat w)) :
    ∃ e, decode w = .error e := by
  cases hd : decode w with
  | error e => exact ⟨e, rfl⟩
  | ok j =>
    obtain ⟨-, hj, -, hw⟩ := decodeRaw_eq_ok.mp hd
    rw [hb] at hj
    cases hj
    exact absurd hw hr

/-- The fields of a TRAP's word: its code stands alone above its head. -/
theorem encode_trap {c : Com} {code : BitVec 8} {w : Nat} (h : encode (.trap c code) = some w) :
    w < 2 ^ 64 ∧ w / 2 ^ 40 = code.toNat ∧ w % 4 = 1 ∧ w / 4 % 256 = 0x0C := by
  obtain ⟨-, r, hr, rfl⟩ := encode_eq_some h
  cases hr
  have := head_lt c.pred
  have := code.isLt
  simp only [Raw.toNat, Raw.imm, rawOf]
  omega

theorem encode_brk {c : Com} {w : Nat} (h : encode (.brk c) = some w) : w < 2 ^ 64 ∧ w / 2 ^ 40 = 0 ∧ w % 4 = 1 ∧ w / 4 % 256 = 0x0D := by
  obtain ⟨-, r, hr, rfl⟩ := encode_eq_some h
  cases hr
  have := head_lt c.pred
  simp only [Raw.toNat, rawOf]
  omega

theorem build_trap {r : Raw} (h : r.op = 0x0C) : build r = .ok (.trap (comOf r) (BitVec.ofNat 8 r.x24)) := by
  simp only [build, build0, h]

theorem build_brk {r : Raw} (h : r.op = 0x0D) : build r = .ok (.brk (comOf r)) := by
  simp only [build, build0, h]

/-- A word with TRAP's opcode and another length, or with a bit above its code, does not decode. -/
theorem decode_trap_error {w : Nat} (hop : w / 4 % 256 = 0x0C) (h : w % 4 ≠ 1 ∨ w / 2 ^ 48 % 2 ^ 16 ≠ 0) : ∃ e, decode w = .error e := by
  refine decode_error_of_build (build_trap hop) fun hr => ?_
  have hlen : 1 = w % 4 := congrArg Raw.len (Option.some.inj hr)
  have hx : (BitVec.ofNat 8 (w / 2 ^ 40 % 2 ^ 24)).toNat = w / 2 ^ 40 % 2 ^ 24 := congrArg Raw.x24 (Option.some.inj hr)
  rw [BitVec.toNat_ofNat] at hx
  omega

theorem decode_brk_error {w : Nat} (hop : w / 4 % 256 = 0x0D) (h : w % 4 ≠ 1 ∨ w / 2 ^ 40 % 2 ^ 24 ≠ 0) : ∃ e, decode w = .error e := by
  refine decode_error_of_build (build_brk hop) fun hr => ?_
  have hlen : 1 = w % 4 := congrArg Raw.len (Option.some.inj hr)
  have hx : 0 = w / 2 ^ 40 % 2 ^ 24 := congrArg Raw.x24 (Option.some.inj hr)
  omega

/-- What one of the two leaves: its context frozen at its successor with its packet, and all else as it was. -/
theorem trapOrBreak_leaves (s : State) {f : FaultInfo} (hf : f.code = 13 ∨ f.code = 14) (hd : f.detail < 2 ^ 24) (hs : f.space = 0) (t : State)
    (ht : t = takeFault s s.focus s.act f) :
    (t.ctx s.focus s.act).st = .frozen ∧ (t.ctx s.focus s.act).fcode = BitVec.ofNat 8 f.code
      ∧ (t.ctx s.focus s.act).pc = s.succPc ∧ ((t.ctx s.focus s.act).packet).extractLsb' 0 8 = BitVec.ofNat 8 f.code
      ∧ ((t.ctx s.focus s.act).packet).extractLsb' 264 24 = BitVec.ofNat 24 f.detail
      ∧ ((t.ctx s.focus s.act).packet).extractLsb' 288 32 = s.succPc.setWidth 32
      ∧ ((unfreeze t s.focus s.act).ctx s.focus s.act).pc = s.succPc ∧ ((unfreeze t s.focus s.act).ctx s.focus s.act).st = .running
      ∧ { t with cores := s.cores } = s ∧ (∀ key, key ≠ s.focus → t.core key = s.core key)
      ∧ sameCore s.me (t.core s.focus) ∧ t.ctx s.focus (!s.act) = s.ctx s.focus (!s.act) ∧ sameCtx s.cur (t.ctx s.focus s.act) := by
  subst ht
  obtain ⟨code, -, -, -, -, -, -, detail, npc, -⟩ := faultPacket_fields s s.focus s.act (f := f) (by omega) (by omega) hd _ rfl
  obtain ⟨v, w, own⟩ := core_takeFault s s.focus s.act f
  obtain ⟨task, back⟩ := ctx_unfreeze (takeFault s s.focus s.act f) s.focus s.act
  have pc : faultPc s s.focus s.act f = s.succPc := if_pos hf
  have active : ((takeFault s s.focus s.act f).core s.focus).active = s.act := by
    have same (x : Ctx) : ((s.core s.focus).setCtx s.act x).active = (s.core s.focus).active := by cases s.act <;> rfl
    rw [own]
    exact same _
  have kept := takeFault_frame s s.focus s.act f
  rw [pc] at npc
  rw [back, active, if_pos rfl, ctx_takeFault]
  refine ⟨rfl, rfl, pc, code, detail, npc, pc, rfl, by rw [kept], fun key h => core_takeFault_other h .., ?core, ?shadow, rfl⟩
  case core =>
    rw [own, sameCore]
    cases s.act <;> rfl
  case shadow =>
    rw [State.ctx, own]
    cases s.act <;> rfl

/-- Settles O60: the words by their fields, and the two faults by what taking a fault leaves. -/
theorem trapAndBreak : Obligations.TrapAndBreak := by
  unfold Obligations.TrapAndBreak
  refine ⟨fun c code w => ⟨encode_trap, encode_brk⟩, fun w => ⟨decode_trap_error, decode_brk_error⟩, ?_⟩
  rintro s c i code detail h (⟨imm, rfl, rfl, rfl⟩ | ⟨rfl, rfl, rfl⟩)
  · exact ⟨_, trap_raises h imm, trapOrBreak_leaves s (f := { code := 13, detail := imm.toNat }) (.inl rfl) (imm.isLt.trans (by decide)) rfl _ rfl⟩
  · exact ⟨_, brk_raises h, trapOrBreak_leaves s (f := { code := 14 }) (.inr rfl) (by decide) rfl _ rfl⟩

end Sys2Proof.Laws
end

section
/-! PROOFS. The integer instructions' results (R252, R312 to R320). -/

namespace Sys2Proof.Laws

open Sys2Proof Sys2Proof.Machine

/-! ### The three shapes -/

/-- An instruction that is alu2 of a function completes with it. -/
theorem binary_of_alu2 {i : Com → Dst → Use Src → Use Src → Instr} {f : Word → Word → Word}
    (hi : ∀ c d a b s, exec (i c d a b) s = alu2 c d a b f s) : Binary i f := by
  intro s s1 s2 t c d a b x y h h1 h2 hw
  rw [hi]
  refine issueFall_completes h ?_
  rw [read2_ok h1 h2, exec_bind_ok]
  exact hw

theorem unary_of_alu1 {i : Com → Dst → Use Src → Instr} {f : Word → Word} (hi : ∀ c d a s, exec (i c d a) s = alu1 c d a f s) : Unary i f := by
  intro s s1 t c d a x h h1 hw
  rw [hi]
  refine issueFall_completes h ?_
  rw [h1, exec_bind_ok]
  exact hw

theorem constant_of_alu0 {i : Com → Dst → Instr} {v : Word} (hi : ∀ c d s, exec (i c d) s = alu0 c d v s) : Constant i v := by
  intro s t c d h hw
  rw [hi]
  exact issueFall_completes h hw

/-! ### Bit counts (R315) -/

/-- Counting leading zeros finds the first one from the top. -/
theorem clzN_eq (n v : Nat) : clzN n v = ((List.range n).find? fun i => v.testBit (n - 1 - i)).getD n := by
  induction n with
  | zero => rfl
  | succ n ih =>
    rw [clzN, List.range_succ_eq_map, List.find?_cons, List.find?_map]
    cases h : v.testBit n with
    | true => simp [h]
    | false =>
      have shift : ((fun i => v.testBit (n + 1 - 1 - i)) ∘ Nat.succ) = fun i => v.testBit (n - 1 - i) := by
        funext i
        rw [Function.comp_apply, show n + 1 - 1 - (i + 1) = n - 1 - i by omega]
      rw [shift, ih]
      cases (List.range n).find? fun i => v.testBit (n - 1 - i) <;> simp [h]

theorem ctzN_eq (n v : Nat) : ctzN n v = ((List.range n).find? fun i => v.testBit i).getD n := by
  induction n generalizing v with
  | zero => rfl
  | succ n ih =>
    rw [ctzN, List.range_succ_eq_map, List.find?_cons, List.find?_map]
    by_cases h : v % 2 = 1
    · simp [h, Nat.testBit_zero]
    · have shift : ((fun i => v.testBit i) ∘ Nat.succ) = fun i => (v / 2).testBit i := by
        funext i
        rw [Function.comp_apply, Nat.testBit_succ]
      rw [shift, if_neg h, ih]
      cases (List.range n).find? fun i => (v / 2).testBit i <;> simp [h, Nat.testBit_zero]

theorem popN_eq (n v : Nat) : popN n v = ((List.range n).filter fun i => v.testBit i).length := by
  induction n generalizing v with
  | zero => rfl
  | succ n ih =>
    have shift : ((fun i => v.testBit i) ∘ Nat.succ) = fun i => (v / 2).testBit i := by
      funext i
      rw [Function.comp_apply, Nat.testBit_succ]
    rw [popN, List.range_succ_eq_map, List.filter_cons, List.filter_map, shift, ih]
    by_cases h : v % 2 = 1
    · simp [h, Nat.testBit_zero, Nat.add_comm]
    · simp [Nat.testBit_zero, Nat.mod_two_ne_one.mp h]

/-! ### Extensions and fields (R315, R319, R320) -/

theorem sextW_eq (x : Word) (n : Nat) : sextW x n = (x.setWidth n).signExtend 64 := by
  have low : sextNat n x.toNat = sextNat n (x.toNat % 2 ^ n) := by simp only [sextNat, Nat.mod_mod]
  rw [sextW, low, sextNat_eq _ _ (Nat.mod_lt _ (by positivity)), BitVec.signExtend, ← BitVec.toNat_setWidth, BitVec.ofNat_toNat, BitVec.setWidth_eq]

theorem zextW_eq (x : Word) (n : Nat) : zextW x n = (x.setWidth n).setWidth 64 := by
  rw [zextW, ← BitVec.toNat_setWidth, BitVec.ofNat_toNat]

/-- A field inserted, bit by bit. -/
theorem getLsbD_insertBits (y x : Word) (pos len : Nat) {i : Nat} (hi : i < 64) :
    (insertBits y x pos len).getLsbD i = if pos ≤ i ∧ i < pos + len then x.getLsbD (i - pos) else y.getLsbD i := by
  have low : y.toNat % 2 ^ pos < 2 ^ pos := Nat.mod_lt _ (by positivity)
  have field : x.toNat % 2 ^ len < 2 ^ len := Nat.mod_lt _ (by positivity)
  have shape : y.toNat % 2 ^ pos + x.toNat % 2 ^ len * 2 ^ pos + y.toNat / 2 ^ (pos + len) * 2 ^ (pos + len)
      = 2 ^ pos * (2 ^ len * (y.toNat / 2 ^ (pos + len)) + x.toNat % 2 ^ len) + y.toNat % 2 ^ pos := by
    rw [Nat.pow_add]
    ring
  rw [insertBits, shape, BitVec.getLsbD_ofNat, Nat.testBit_two_pow_mul_add _ low, Nat.testBit_two_pow_mul_add _ field, Nat.testBit_mod_two_pow,
    Nat.testBit_mod_two_pow, Nat.testBit_div_two_pow]
  by_cases h1 : i < pos
  · simp [hi, h1, BitVec.getLsbD]
  · by_cases h2 : i < pos + len
    · simp [hi, h1, h2, BitVec.getLsbD, show i - pos < len by omega, Nat.not_lt.mp h1]
    · simp [hi, h1, h2, BitVec.getLsbD, show ¬ i - pos < len by omega, show i - pos - len + (pos + len) = i by omega]

theorem offVal_imm24 (v : BitVec 24) : BitVec.ofInt 64 (offVal (.imm24 v)) = v.signExtend 64 := rfl

theorem offVal_imm32 (v : BitVec 32) : BitVec.ofInt 64 (offVal (.imm32 v)) = v.signExtend 64 := rfl

/-! ### The obligation's parts -/

theorem sel_completes {s s1 s2 s3 t : State} {c : Com} {d : Dst} {a b x : Use Src} {u v z : Word} (h : Ready .any c s)
    (h1 : readSrc s x.r = .ok (z, s1)) (h2 : readSrc s1 a.r = .ok (u, s2)) (h3 : readSrc s2 b.r = .ok (v, s3))
    (hw : writeDst s3 d (if z = 0 then v else u) = .ok t) : exec (.sel c d a b x) s = .next (completed s t) := by
  change execSel c d a b x s = _
  refine issueFall_completes h ?_
  rw [h1, exec_bind_ok]
  dsimp only
  rw [read2_ok h2 h3, exec_bind_ok]
  simpa only [bne_iff_ne, ite_not] using hw

theorem bfi_completes {s s1 s2 t : State} {c : Com} {d : Fin 48} {a : Use Src} {pos : Fin 64} {len : Fin 128} {x y v : Word} (h : Ready .any c s)
    (h1 : readSrc s a.r = .ok (x, s1)) (h2 : readSrc s1 (.g d) = .ok (y, s2))
    (hv : ∀ i < 64, v.getLsbD i = if pos.val ≤ i ∧ i < pos.val + len.val then x.getLsbD (i - pos.val) else y.getLsbD i)
    (hw : writeDst s2 (.g d) v = .ok t) : exec (.bfi c d a pos len) s = .next (completed s t) := by
  change execBfi c d a pos len s = _
  obtain rfl : v = insertBits y x pos.val len.val :=
    BitVec.eq_of_getLsbD_eq fun i hi => (hv i hi).trans (getLsbD_insertBits y x pos.val len.val hi).symm
  refine issueFall_completes h ?_
  rw [h1, exec_bind_ok]
  dsimp only
  rw [h2, exec_bind_ok]
  exact hw

/-- The two-source forms (R252, R312, R314): each is alu2 of its function. -/
theorem integerBinary :
    Binary .add (fun x y => x + y) ∧ Binary .sub (fun x y => x - y) ∧ Binary .and (fun x y => x &&& y) ∧ Binary .or (fun x y => x ||| y)
    ∧ Binary .xor (fun x y => x ^^^ y) ∧ Binary .andn (fun x y => x &&& ~~~y)
    ∧ Binary .shl (fun x y => x <<< (y.toNat % 64)) ∧ Binary .shr (fun x y => x >>> (y.toNat % 64))
    ∧ Binary .sra (fun x y => x.sshiftRight (y.toNat % 64)) ∧ Binary .rotl (fun x y => x.rotateLeft (y.toNat % 64))
    ∧ Binary .min minS ∧ Binary .max maxS ∧ Binary .minz minU ∧ Binary .maxz maxU ∧ Binary .mul (fun x y => x * y)
    ∧ Binary .mulh mulHigh ∧ Binary .mulhz mulHighZ ∧ Binary .div divS ∧ Binary .divz divU ∧ Binary .rem remS ∧ Binary .remz remU := by
  refine ⟨?_, ?_, ?_, ?_, ?_, ?_, ?_, ?_, ?_, ?_, ?_, ?_, ?_, ?_, ?_, ?_, ?_, ?_, ?_, ?_, ?_⟩
  all_goals exact binary_of_alu2 fun _ _ _ _ _ => rfl

/-- The forms with an immediate (R313, R318). -/
theorem integerImmediate (imm : BitVec 24) :
    Unary (fun c d a => .addi c d a imm) (fun x => x + imm.signExtend 64) ∧ Unary (fun c d a => .andi c d a imm) (fun x => x &&& imm.signExtend 64)
    ∧ Unary (fun c d a => .ori c d a imm) (fun x => x ||| imm.signExtend 64) ∧ Unary (fun c d a => .xori c d a imm) (fun x => x ^^^ imm.signExtend 64)
    ∧ Constant (fun c d => .li24 c d imm) (imm.signExtend 64) := by
  refine ⟨?_, ?_, ?_, ?_, constant_of_alu0 fun _ _ _ => rfl⟩
  all_goals exact unary_of_alu1 fun _ _ _ _ => rfl

/-- SETC under each condition (R317). -/
theorem integerSetc :
    Binary (fun c d a b => .setc c .eq d a b) (fun x y => if x = y then 1 else 0)
    ∧ Binary (fun c d a b => .setc c .ne d a b) (fun x y => if x = y then 0 else 1)
    ∧ Binary (fun c d a b => .setc c .lt d a b) (fun x y => if x.toInt < y.toInt then 1 else 0)
    ∧ Binary (fun c d a b => .setc c .ge d a b) (fun x y => if x.toInt < y.toInt then 0 else 1)
    ∧ Binary (fun c d a b => .setc c .le d a b) (fun x y => if y.toInt < x.toInt then 0 else 1)
    ∧ Binary (fun c d a b => .setc c .gt d a b) (fun x y => if y.toInt < x.toInt then 1 else 0)
    ∧ Binary (fun c d a b => .setc c .ltz d a b) (fun x y => if x.toNat < y.toNat then 1 else 0)
    ∧ Binary (fun c d a b => .setc c .gez d a b) (fun x y => if x.toNat < y.toNat then 0 else 1)
    ∧ Binary (fun c d a b => .setc c .lez d a b) (fun x y => if y.toNat < x.toNat then 0 else 1)
    ∧ Binary (fun c d a b => .setc c .gtz d a b) (fun x y => if y.toNat < x.toNat then 1 else 0) := by
  have setc (k : Cond) {g : Word → Word → Word} (hg : (fun x y => if condHolds k x y then 1 else 0) = g) :
      Binary (fun c d a b => .setc c k d a b) g := hg ▸ binary_of_alu2 fun _ _ _ _ _ => rfl
  refine ⟨setc .eq ?_, setc .ne ?_, setc .lt ?_, setc .ge ?_, setc .le ?_, setc .gt ?_, setc .ltz ?_, setc .gez ?_, setc .lez ?_, setc .gtz ?_⟩
  all_goals
    funext x y
    simp only [condHolds, beq_iff_eq, bne_iff_ne, decide_eq_true_eq, ne_eq, ← not_lt, ite_not]

/-- Settles O6: the three shapes of the integer instructions, each with its function, and the two forms of their own shape. -/
theorem integerResults : Obligations.IntegerResults := by
  unfold Obligations.IntegerResults
  obtain ⟨eq, ne, lt, ge, le, gt, ltz, gez, lez, gtz⟩ := integerSetc
  refine ⟨integerBinary, integerImmediate, fun n => ⟨?_, ?_, ?_⟩, ?clz, ?ctz, ?popc, fun n => ⟨?sext, ?zext⟩,
    fun s s1 s2 s3 t c d a b x u v z h h1 h2 h3 hw => sel_completes h h1 h2 h3 hw, eq, ne, lt, ge, le, gt, ltz, gez, lez, gtz,
    fun imm => ⟨constant_of_alu0 fun _ _ _ => rfl, constant_of_alu0 fun _ _ _ => rfl⟩, fun imm => constant_of_alu0 fun _ _ _ => rfl,
    fun sc v => binary_of_alu2 fun _ _ _ _ _ => rfl, fun sc v => binary_of_alu2 fun _ _ _ _ _ => rfl, fun pos len _ => ?bfx,
    fun s s1 s2 t c d a pos len x y v h _ h1 h2 hv hw => bfi_completes h h1 h2 hv hw⟩
  case clz =>
    simp only [BitVec.getLsbD, ← clzN_eq 64]
    exact unary_of_alu1 fun _ _ _ _ => rfl
  case ctz =>
    simp only [BitVec.getLsbD, ← ctzN_eq 64]
    exact unary_of_alu1 fun _ _ _ _ => rfl
  case popc =>
    simp only [BitVec.getLsbD, ← popN_eq 64]
    exact unary_of_alu1 fun _ _ _ _ => rfl
  case sext =>
    simp only [← sextW_eq]
    exact unary_of_alu1 fun _ _ _ _ => rfl
  case zext | bfx =>
    simp only [← zextW_eq]
    exact unary_of_alu1 fun _ _ _ _ => rfl
  all_goals exact unary_of_alu1 fun _ _ _ _ => rfl

end Sys2Proof.Laws
end

section
/-! PROOFS. The FP32 scalar instructions' results (R255, R256, R261, R303, R321 to R325). -/

namespace Sys2Proof.Laws

open Sys2Proof Sys2Proof.Machine

/-- An instruction that is fop2 of a function completes with its result and its flags. -/
theorem floatBinary_of_fop2 {i : Com → Dst → Use Src → Use Src → Instr} {rm : Ctx → Rm} {f : Rm → Nat → Nat → Nat × Nat}
    (hi : ∀ c d a b s, exec (i c d a b) s = fop2 c rm d a b f s) : FloatBinary i rm f := by
  intro s s1 s2 t c d a b x y h h1 h2 hw
  rw [hi]
  refine issueFall_completes h ?_
  simp only [read2_ok h1 h2, exec_bind_ok]
  exact hw

/-- The same of one that reads one source. -/
theorem floatUnary_of_reads {i : Com → Dst → Use Src → Instr} {rm : Ctx → Rm} {f : Rm → Word → Nat × Nat}
    (hi : ∀ c d a s, exec (i c d a) s = issueFall .any c s fun s => do
      let m := rm s.cur
      let (x, s) ← readSrc s a.r
      writeFlags s d (f m x)) : FloatUnary i rm f := by
  intro s s1 t c d a x h h1 hw
  rw [hi]
  refine issueFall_completes h ?_
  simp only [h1, exec_bind_ok]
  exact hw

theorem fsqrt_unary (f : FForm) : FloatUnary (fun c d a => .fsqrt c f d a) (formRm f) (fun m x => fpSqrt 23 m (lo32 x)) :=
  floatUnary_of_reads fun _ _ _ _ => rfl

theorem fcvt_unary (cv : FCvt) (f : FForm) : FloatUnary (fun c d a => .fcvt c cv f d a) (formRm f) (fun m x => fcvtVal cv m x) :=
  floatUnary_of_reads fun _ _ _ _ => rfl

/-- FFMA reads its three sources in order. -/
theorem ffma_completes {s s1 s2 s3 t : State} {c : Com} {r : Rnd} {d : Dst} {a b x : Use Src} {u v w : Word} (h : Ready .any c s)
    (h1 : readSrc s a.r = .ok (u, s1)) (h2 : readSrc s1 b.r = .ok (v, s2)) (h3 : readSrc s2 x.r = .ok (w, s3))
    (hw : writeFlags s3 d (fpFma 23 (rmOf r s.cur.rm) (lo32 u) (lo32 v) (lo32 w)) = .ok t) :
    exec (.ffma c r d a b x) s = .next (completed s t) := by
  change execFfma c r d a b x s = _
  refine issueFall_completes h ?_
  simp only [read2_ok h1 h2, h3, exec_bind_ok]
  exact hw

/-- Settles O7: each instruction is one of the float shapes, with its function and its rounding mode. -/
theorem floatResults : Obligations.FloatResults := by
  unfold Obligations.FloatResults
  refine ⟨fun f => ⟨?_, ?_, ?_, fsqrt_unary f⟩, ?_, ?_, fun cond => ?_, fcvt_unary,
    fun s s1 s2 s3 t c r d a b x u v w h h1 h2 h3 hw => ffma_completes h h1 h2 h3 hw⟩
  all_goals exact floatBinary_of_fop2 fun _ _ _ _ _ => rfl

end Sys2Proof.Laws
end

section
/-! PROOFS. TAKE, DONEG, YIELDT, PATR, PATW, PATW.c and PREVOKE (R128 to R135, R423 to R426). -/

namespace Sys2Proof.Laws

open Sys2Proof Sys2Proof.Machine

/-! ### What stands while an operand is read (R165) -/

section
variable {s t : State} {x : Src} {v : Word} (h : readSrc s x = .ok (v, t))
include h

theorem act_readSrc : t.act = s.act := (within_readSrc (A := noLimits) h).act

theorem myCluster_readSrc : t.myCluster = s.myCluster := congrArg clusterOf (focus_readSrc h)

theorem maskOk_readSrc (m : Word) : maskOk t.cur m = maskOk s.cur m := by
  obtain ⟨_, _, _, _, _, same⟩ := cur_readSrc h
  rw [same]
  rfl

end

/-! ### TAKE (R128, R129, R423) -/

section
variable {s u : State} {c : Com} {t : Vector Word 4} (h : Ready .tile c s)
include h

theorem take_tile (ht : takeTile s s.focus s.act = .tile u t) (ha : takeAhead s s.focus s.act = false) :
    exec (.take c) s = .next (completed s (giveTile u u.focus u.act t)) := by
  change execTake c s = _
  refine issueFall_completes h ?_
  simp only [takeStep, takeNow, ht, ha, Bool.false_eq_true, if_false]

theorem take_none {rev : Bool} (ht : takeTile s s.focus s.act = .none rev) :
    exec (.take c) s = .next (completed s (giveTile s s.focus s.act (noneDesc rev))) := by
  change execTake c s = _
  refine issueFall_completes h ?_
  simp only [takeStep, takeNow, ht]

theorem take_behind (ht : takeTile s s.focus s.act = .tile u t) (ha : takeAhead s s.focus s.act = true) :
    exec (.take c) s = .next (stayBlocked s) := by
  change execTake c s = _
  refine issueFall_blocks (k := id) h ?_
  simp only [takeStep, takeNow, ht, ha, if_true]
  rfl

theorem take_faults (ht : takeTile s s.focus s.act = .fault) : exec (.take c) s = .next (takeFault s s.focus s.act fPattern) := by
  change execTake c s = _
  refine issueFall_raises (k := id) h ?_
  simp only [takeStep, takeNow, ht]
  rfl

theorem take_parks (ht : takeTile s s.focus s.act = .park) :
    exec (.take c) s = .next (stayBlocked (s.modCur fun k => { k with parked := some false })) := by
  change execTake c s = _
  refine issueFall_blocks (k := fun s => s.modCur fun k => { k with parked := some false }) h ?_
  simp only [takeStep, takeNow, ht]

theorem take_waits (ht : takeTile s s.focus s.act = .wait) : exec (.take c) s = .next (stayBlocked s) := by
  change execTake c s = _
  refine issueFall_blocks (k := id) h ?_
  simp only [takeStep, takeNow, ht]
  rfl

end

/-! ### DONEG and YIELDT (R131, R132) -/

section
variable {s s1 : State} {c : Com} {a : Use Src} {m : Word} (h : Ready .tile c s) (h1 : readSrc s a.r = .ok (m, s1))
include h h1

theorem doneg_completes (hm : maskOk s.cur m = true) (hw : s1.wtMet 3 = true) :
    exec (.doneg c a) s = .next (completed s (leaveClaim s1 s.focus s.act m gDone)) := by
  change execDoneg c a s = _
  refine issueFall_completes h ?_
  simp only [h1, exec_bind_ok, maskOk_readSrc h1, hm, hw, Bool.not_true, raiseIf_false, waitFor_true, focus_readSrc h1, act_readSrc h1]
  rfl

theorem yieldt_completes (hm : maskOk s.cur m = true) : exec (.yieldt c a) s = .next (completed s (leaveClaim s1 s.focus s.act m gFree)) := by
  change execYieldt c a s = _
  refine issueFall_completes h ?_
  simp only [h1, exec_bind_ok, maskOk_readSrc h1, hm, Bool.not_true, raiseIf_false, focus_readSrc h1, act_readSrc h1]
  rfl

theorem doneg_faults (hm : maskOk s.cur m = false) : exec (.doneg c a) s = .next (takeFault s s.focus s.act fPattern) := by
  change execDoneg c a s = _
  refine issueFall_raises (k := id) h ?_
  simp only [h1, exec_bind_ok, maskOk_readSrc h1, hm, Bool.not_false, raiseIf_true, exec_bind_error]

theorem yieldt_faults (hm : maskOk s.cur m = false) : exec (.yieldt c a) s = .next (takeFault s s.focus s.act fPattern) := by
  change execYieldt c a s = _
  refine issueFall_raises (k := id) h ?_
  simp only [h1, exec_bind_ok, maskOk_readSrc h1, hm, Bool.not_false, raiseIf_true, exec_bind_error]

end

/-! ### PATR, PATW and PREVOKE (R119, R133, R135, R425, R426) -/

section
variable {s s1 t : State} {c : Com} {slot : Fin 4} {reg : Fin 16} {sh : Bool} {d : Dst} {a : Use Src} {v : Word} (h : Ready .any c s)
include h

theorem patr_completes (hp : patRead (s.slot s.myCluster slot) reg sh = some v) (hw : writeDst s d v = .ok t) :
    exec (.patr c d slot reg sh) s = .next (completed s t) := by
  change execPatr c d slot reg sh s = _
  refine issueFall_completes h ?_
  simp only [hp, hw]

theorem patr_faults (hp : patRead (s.slot s.myCluster slot) reg sh = none) :
    exec (.patr c d slot reg sh) s = .next (takeFault s s.focus s.act fPattern) := by
  change execPatr c d slot reg sh s = _
  refine issueFall_raises (k := id) h ?_
  simp only [hp]
  rfl

theorem patwStep_done {commit : Bool} (h1 : readSrc s a.r = .ok (v, s1)) (hc : s.cur.cap.getLsbD 0 = true)
    (hp : patWrite s1 s.myCluster slot reg v commit = .done t) :
    issueFall .any c s (fun s => patwStep s slot reg a commit) = .next (completed s t) := by
  refine issueFall_completes h ?_
  rw [← myCluster_readSrc h1] at hp
  simp only [patwStep, capPat, needCap_held hc, exec_bind_ok, h1, hp]
  rfl

theorem patw_completes (h1 : readSrc s a.r = .ok (v, s1)) (hc : s.cur.cap.getLsbD 0 = true)
    (hp : patWrite s1 s.myCluster slot reg v false = .done t) : exec (.patw c slot reg a) s = .next (completed s t) := by
  change execPatw c slot reg a s = _
  exact patwStep_done h h1 hc hp

theorem patwC_completes (h1 : readSrc s a.r = .ok (v, s1)) (hc : s.cur.cap.getLsbD 0 = true)
    (hp : patWrite s1 s.myCluster slot reg v true = .done t) : exec (.patwC c slot reg a) s = .next (completed s t) := by
  change execPatwC c slot reg a s = _
  exact patwStep_done h h1 hc hp

theorem prevoke_completes (h1 : readSrc s a.r = .ok (v, s1)) (hc : s.cur.cap.getLsbD 0 = true) :
    exec (.prevoke c slot a) s = .next (completed s (revoke s1 s.myCluster slot v)) := by
  change execPrevoke c slot a s = _
  refine issueFall_completes h ?_
  simp only [capPat, needCap_held hc, exec_bind_ok, h1, ← myCluster_readSrc h1]
  rfl

/-- Without CAP.PAT nothing is written or revoked. -/
theorem pattern_uncapped (hc : s.cur.cap.getLsbD 0 = false) : exec (.patw c slot reg a) s = .next (takeFault s s.focus s.act (fPriv 0))
    ∧ exec (.patwC c slot reg a) s = .next (takeFault s s.focus s.act (fPriv 0))
    ∧ exec (.prevoke c slot a) s = .next (takeFault s s.focus s.act (fPriv 0)) := by
  change execPatw c slot reg a s = _ ∧ execPatwC c slot reg a s = _ ∧ execPrevoke c slot a s = _
  have stops {m : State → Exec State} (hm : m s = .error (.raise (fPriv 0) id)) :
    issueFall .any c s m = .next (takeFault s s.focus s.act (fPriv 0)) := issueFall_raises (k := id) h hm
  refine ⟨stops ?_, stops ?_, stops ?_⟩
  all_goals simp only [patwStep, capPat, needCap_missing hc, exec_bind_error]

end

/-- Settles O22: each instruction is one step of the pattern unit, given what the unit answers. -/
theorem patternResults : Obligations.PatternResults := by
  unfold Obligations.PatternResults
  refine ⟨fun s c h => ⟨fun u t => take_tile h, fun rev => take_none h, fun u t => take_behind h, take_faults h, take_parks h, take_waits h⟩,
    fun s s1 c a m h h1 => ⟨fun hm => ⟨doneg_completes h h1 hm, yieldt_completes h h1 hm⟩, fun hm => ⟨doneg_faults h h1 hm, yieldt_faults h h1 hm⟩⟩,
    fun s c d slot reg sh h => ⟨fun v t => patr_completes h, patr_faults h⟩, fun s s1 c slot reg a v h h1 => ⟨fun hc => ?held, ?missing⟩⟩
  case held => exact ⟨fun t => patw_completes h h1 hc, fun t => patwC_completes h h1 hc, prevoke_completes h h1 hc⟩
  case missing =>
    rintro hc u rfl
    exact pattern_uncapped h hc

end Sys2Proof.Laws
end

section
/-! PROOFS. DBGRD, DBGWR, RESUME, REDIR, KILL and FWAIT (R233 to R237, R240 to R242, R436, R437). -/

namespace Sys2Proof.Laws

open Sys2Proof Sys2Proof.Machine

/-! ### Supervision instructions and debug addresses (R236, R436) -/

theorem superv_completes {s t : State} {c : Com} {m : State → Exec State} (h : Ready .leaf c s) (hf : s.focus ≠ 0x20000) (hm : m s = .ok t) :
    superv c s m = .next (completed s t) := by
  have leaf : (s.focus == globalKey) = false := beq_false_of_ne hf
  refine issueFall_completes h ?_
  simp only [leaf, raiseIf_false, exec_bind_ok, hm]

/-- A debug address that is in its range. -/
theorem debugAddr_ok {s s1 : State} {a : Use Src} {x : Word} (h1 : readSrc s a.r = .ok (x, s1)) (hx : x.toNat < 2 ^ 24) :
    debugAddr s a = .ok (x.toNat, coreAt s.myCluster (x.toNat / 2 ^ 18), x.getLsbD 17, s1) := by
  have core : bitsAt x 18 6 = x.toNat / 2 ^ 18 := by
    rw [bitsAt]
    omega
  simp only [debugAddr, h1, exec_bind_ok, decide_eq_false (Nat.not_le.mpr hx), raiseIf_false, core, myCluster_readSrc h1]
  rfl

/-- Bit 16 of a debug address is the register store's. -/
theorem store_of_bit16 {x : Word} (h : x.getLsbD 16 = true) : x.toNat / 2 ^ 16 % 2 = 1 := by
  rwa [BitVec.getLsbD, Nat.testBit_eq_decide_div_mod_eq, decide_eq_true_eq] at h

theorem map_of_bit16 {x : Word} (h : x.getLsbD 16 = false) : ¬ x.toNat / 2 ^ 16 % 2 = 1 := by
  rwa [BitVec.getLsbD, Nat.testBit_eq_decide_div_mod_eq, decide_eq_false_iff_not] at h

/-! ### DBGRD (R236, R237, R240) -/

/-- What DBGRD does with an aligned address of a context: it reads its store or the debug map. -/
def debugRead (s : State) (d : Dst) (x key : Nat) (n : Bool) : Exec State :=
  let o := x % 2 ^ 16
  let away := (s.ctx key n).st == .frozen
  if x / 2 ^ 16 % 2 = 1 then
    if away && (s.ctx key n).live.getLsbD (o / 64) then do
      let s ← debugBanks s key n [o / 64]
      writeDst s d (BitVec.ofNat 64 (s.readLE (locRs key n o) 8))
    else writeDst s d 0
  else if 0x800 ≤ o then writeDst s d 0
  else if 0x700 ≤ o then writeDst s d (coreWord (s.core key) o)
  else writeDst s d (if away then mapWord s key n o else 0)

theorem execDbgrd_eq (c : Com) (d : Dst) (a : Use Src) (s : State) : execDbgrd c d a s = (superv c s fun s => do
    let (x, key, n, s) ← debugAddr s a
    raiseIf (x % 8 ≠ 0) (fAlign x 0)
    debugRead s d x key n) := rfl

section
variable {s u : State} {d : Dst} {x key o : Nat} {n : Bool} (ho : o = x % 2 ^ 16)
include ho

theorem debugRead_map (hx : ¬ x / 2 ^ 16 % 2 = 1) (h : o < 0x700) :
    debugRead s d x key n = writeDst s d (if (s.ctx key n).st = .frozen then mapWord s key n o else 0) := by
  subst ho
  simp only [debugRead, hx, if_false, Nat.not_le.mpr h, Nat.not_le.mpr (h.trans (by decide : 0x700 < 0x800)), beq_iff_eq]

theorem debugRead_core (hx : ¬ x / 2 ^ 16 % 2 = 1) (h : 0x700 ≤ o) (h' : o < 0x800) :
    debugRead s d x key n = writeDst s d (coreWord (s.core key) o) := by
  subst ho
  simp only [debugRead, hx, if_false, h, Nat.not_le.mpr h', if_true]

theorem debugRead_beyond (hx : ¬ x / 2 ^ 16 % 2 = 1) (h : 0x800 ≤ o) : debugRead s d x key n = writeDst s d 0 := by
  subst ho
  simp only [debugRead, hx, if_false, h, if_true]

theorem debugRead_dead (hx : x / 2 ^ 16 % 2 = 1) (h : (s.ctx key n).st ≠ .frozen ∨ (s.ctx key n).live.getLsbD (o / 64) = false) :
    debugRead s d x key n = writeDst s d 0 := by
  subst ho
  have dead : ((s.ctx key n).st == .frozen && (s.ctx key n).live.getLsbD (x % 2 ^ 16 / 64)) = false := by
    rw [Bool.and_eq_false_iff, beq_eq_false_iff_ne]
    exact h
  simp only [debugRead, hx, if_true, dead, Bool.false_eq_true, if_false]

theorem debugRead_live (hx : x / 2 ^ 16 % 2 = 1) (hs : (s.ctx key n).st = .frozen) (hl : (s.ctx key n).live.getLsbD (o / 64) = true)
    (hb : debugBanks s key n [o / 64] = .ok u) :
    debugRead s d x key n = writeDst u d (BitVec.ofNat 64 (u.readLE (locRs key n o) 8)) := by
  subst ho
  simp only [debugRead, hx, if_true, hs, hl, beq_self_eq_true, Bool.and_self, hb, exec_bind_ok]

end

/-! ### DBGWR (R236, R237, R240) -/

/-- What DBGWR does with an aligned address of a context and a value. -/
def debugWrite (s : State) (v : Word) (x key : Nat) (n : Bool) : Exec State :=
  let o := x % 2 ^ 16
  let away := (s.ctx key n).st == .frozen
  if x / 2 ^ 16 % 2 = 1 then
    if away && !(s.ctx key n).pend.getLsbD (o / 64) then do
      let s ← debugBanks s key n [o / 64]
      return writeStore s key n ((List.range 8).zipWith (fun i b => (o + i, b)) (bytesOfNat 8 v.toNat))
    else return s
  else if 0x800 ≤ o then return s
  else if 0x700 ≤ o then do
    waitFor (o ≠ 0x708 || !((s.ctx key false).killing || (s.ctx key true).killing))
    return coreWrite s key o v
  else if away then do
    let s ← debugBanks s key n (if 0x400 ≤ o && o < 0x480 then bornGranules s key n ((o - 0x400) / 8) v else [])
    return mapWrite s key n o v
  else return s

theorem execDbgwr_eq (c : Com) (d : Src) (a : Use Src) (s : State) : execDbgwr c d a s = (superv c s fun s => do
    let (x, key, n, s) ← debugAddr s a
    let (v, s) ← readSrc s d
    raiseIf (x % 8 ≠ 0) (fAlign x 0)
    debugWrite s v x key n) := rfl

/-- No bank is named, and the leaf waits for none. -/
theorem debugBanks_nil (s : State) (key : Nat) (n : Bool) : debugBanks s key n [] = .ok s := rfl

section
variable {s u : State} {v : Word} {x key o : Nat} {n : Bool} (ho : o = x % 2 ^ 16)
include ho

theorem debugWrite_running (hx : ¬ x / 2 ^ 16 % 2 = 1) (h : o < 0x700) (hs : (s.ctx key n).st ≠ .frozen) : debugWrite s v x key n = .ok s := by
  subst ho
  simp only [debugWrite, hx, if_false, Nat.not_le.mpr h, Nat.not_le.mpr (h.trans (by decide : 0x700 < 0x800)), beq_iff_eq, hs]
  rfl

theorem debugWrite_map (hx : ¬ x / 2 ^ 16 % 2 = 1) (h : o < 0x700) (hs : (s.ctx key n).st = .frozen) {gs : List Nat}
    (hg : gs = if 0x400 ≤ o ∧ o < 0x480 then bornGranules s key n ((o - 0x400) / 8) v else []) (hb : debugBanks s key n gs = .ok u) :
    debugWrite s v x key n = .ok (mapWrite u key n o v) := by
  subst ho hg
  simp only [debugWrite, hx, if_false, Nat.not_le.mpr h, Nat.not_le.mpr (h.trans (by decide : 0x700 < 0x800)), hs, beq_self_eq_true, if_true,
    Bool.and_eq_true, decide_eq_true_eq, hb, exec_bind_ok]
  rfl

theorem debugWrite_core (hx : ¬ x / 2 ^ 16 % 2 = 1) (h : 0x700 ≤ o) (h' : o < 0x800)
    (hk : o = 0x708 → (s.ctx key false).killing = false ∧ (s.ctx key true).killing = false) :
    debugWrite s v x key n = .ok (coreWrite s key o v) := by
  subst ho
  have free : (decide (x % 2 ^ 16 ≠ 0x708) || !((s.ctx key false).killing || (s.ctx key true).killing)) = true := by
    by_cases at708 : x % 2 ^ 16 = 0x708
    · obtain ⟨k0, k1⟩ := hk at708
      rw [k0, k1]
      exact Bool.or_true _
    · rw [decide_eq_true at708, Bool.true_or]
  simp only [debugWrite, hx, if_false, h, Nat.not_le.mpr h', if_true, free, waitFor_true, exec_bind_ok]
  rfl

theorem debugWrite_beyond (hx : ¬ x / 2 ^ 16 % 2 = 1) (h : 0x800 ≤ o) : debugWrite s v x key n = .ok s := by
  subst ho
  simp only [debugWrite, hx, if_false, h, if_true]
  rfl

theorem debugWrite_ignored (hx : x / 2 ^ 16 % 2 = 1) (h : (s.ctx key n).st ≠ .frozen ∨ (s.ctx key n).pend.getLsbD (o / 64) = true) :
    debugWrite s v x key n = .ok s := by
  subst ho
  have ignored : ((s.ctx key n).st == .frozen && !(s.ctx key n).pend.getLsbD (x % 2 ^ 16 / 64)) = false := by
    rw [Bool.and_eq_false_iff, beq_eq_false_iff_ne, Bool.not_eq_false']
    exact h
  simp only [debugWrite, hx, if_true, ignored, Bool.false_eq_true, if_false]
  rfl

theorem debugWrite_store (hx : x / 2 ^ 16 % 2 = 1) (hs : (s.ctx key n).st = .frozen) (hp : (s.ctx key n).pend.getLsbD (o / 64) = false)
    (hb : debugBanks s key n [o / 64] = .ok u) :
    debugWrite s v x key n = .ok (writeStore u key n ((List.range 8).zipWith (fun i b => (o + i, b)) (bytesOfNat 8 v.toNat))) := by
  subst ho
  simp only [debugWrite, hx, if_true, hs, hp, beq_self_eq_true, Bool.not_false, Bool.and_self, hb, exec_bind_ok]
  rfl

end

/-! ### Commands (R241, R242) -/

/-- A command that waits for nothing acts where it is allowed, and else is refused. -/
theorem command_ok {s t : State} {key : Nat} {n kill allowed : Bool} {f : State → State} {d : Dst} (hk : (s.ctx key n).killing = false)
    (hs : spillOn (s.core key) n = false ∨ (kill = true ∧ (s.core key).spill = .spill n))
    (hw : (if allowed then writeDst (noteCmd (f s) false) d 0 else writeDst (noteCmd s true) d 1) = .ok t) :
    command s d key n kill allowed f = .ok t := by
  have free : (spillOn (s.core key) n && !(kill && (s.core key).spill == .spill n)) = false := by
    rcases hs with off | ⟨hkill, on⟩
    · rw [off, Bool.false_and]
    · rw [hkill, on, beq_self_eq_true, Bool.and_self, Bool.not_true, Bool.and_false]
  simp only [command, hk, free, Bool.not_false, Bool.and_self, waitFor_true, exec_bind_ok]
  exact hw

section
variable {s s1 t : State} {c : Com} {a : Use Src} {x : Word} (h : Ready .leaf c s) (hf : s.focus ≠ 0x20000)
  (h1 : readSrc s a.r = .ok (x, s1)) (hx : x.toNat < 2 ^ 24) {key : Nat} {n : Bool} (hk : key = coreAt s.myCluster (x.toNat / 2 ^ 18))
  (hn : n = x.getLsbD 17)
include h hf h1 hx hk hn

theorem dbgrd_completes {d : Dst} (h8 : x.toNat % 8 = 0) (hr : debugRead s1 d x.toNat key n = .ok t) :
    exec (.dbgrd c d a) s = .next (completed s t) := by
  change execDbgrd c d a s = _
  subst hk hn
  rw [execDbgrd_eq]
  refine superv_completes h hf ?_
  simp only [debugAddr_ok h1 hx, exec_bind_ok, h8, ne_eq, not_true, decide_false, raiseIf_false, hr]

theorem dbgwr_completes {d : Src} {v : Word} {s2 : State} (h8 : x.toNat % 8 = 0) (h2 : readSrc s1 d = .ok (v, s2))
    (hr : debugWrite s2 v x.toNat key n = .ok t) : exec (.dbgwr c d a) s = .next (completed s t) := by
  change execDbgwr c d a s = _
  subst hk hn
  rw [execDbgwr_eq]
  refine superv_completes h hf ?_
  simp only [debugAddr_ok h1 hx, exec_bind_ok, h2, h8, ne_eq, not_true, decide_false, raiseIf_false, hr]

theorem resume_completes {d : Dst} (hc : command s1 d key n false (canResume s1 key n) (fun s => resumeCtx s key n) = .ok t) :
    exec (.resume c d a) s = .next (completed s t) := by
  change execResume c d a s = _
  subst hk hn
  refine superv_completes h hf ?_
  simp only [debugAddr_ok h1 hx, exec_bind_ok, hc]

theorem kill_completes {d : Dst}
    (hc : command s1 d key n true ((s1.ctx key n).st != .idle && !(s1.ctx key n).vac) (fun s => killCtx s key n) = .ok t) :
    exec (.kill c d a) s = .next (completed s t) := by
  change execKill c d a s = _
  subst hk hn
  refine superv_completes h hf ?_
  simp only [debugAddr_ok h1 hx, exec_bind_ok, hc]

theorem redir_completes {d : Dst} {b : Use Src} {y : Word} {drop : Bool} {s2 : State} (h2 : readSrc s1 b.r = .ok (y, s2))
    (hc : command s2 d key n false (canResume s2 key n) (fun s => redirCtx s key n (BitVec.ofNat 15 (y.toNat / 4 * 4)) drop) = .ok t) :
    exec (.redir c d a b drop) s = .next (completed s t) := by
  change execRedir c d a b drop s = _
  subst hk hn
  rw [← codeAddr_eq] at hc
  refine superv_completes h hf ?_
  simp only [debugAddr_ok h1 hx, exec_bind_ok, h2, hc]

end

/-! ### FWAIT (R437) -/

theorem fwait_completes {s s1 t : State} {c : Com} {d : Dst} {a : Use Src} {off : BitVec 24} {x : Word} {p : Packet} {rest : List Packet} {at_ : Nat}
    (h : Ready .leaf c s) (hf : s.focus ≠ 0x20000) (h1 : readSrc s a.r = .ok (x, s1)) (hr : memReady s1 = .ok ()) (ha : at_ = addressOf x (.imm24 off))
    (hb : at_ + 64 ≤ 0x10000) (h64 : at_ % 64 = 0) (hq : (s1.cluster s.myCluster).faults = p :: rest)
    (hw : writeDst (performWrite (s1.modCluster s.myCluster fun k => { k with faults := rest }) true
      (pairsAt (locSpm s.focus at_) (bytesOfNat 64 p.toNat))) d (BitVec.ofNat 64 rest.length) = .ok t) :
    exec (.fwait c d a off) s = .next (completed s t) := by
  change execFwait c d a off s = _
  have here : addrPlus x off.toInt = at_ := ha ▸ addrPlus_eq x off
  have focus (f : Cluster → Cluster) : (s1.modCluster s.myCluster f).focus = s.focus := (focus_readSrc h1 : s1.focus = s.focus)
  refine superv_completes h hf ?_
  simp only [h1, exec_bind_ok, hr, here, decide_eq_false (Nat.not_lt.mpr hb), h64, ne_eq, not_true, decide_false, raiseIf_false,
    myCluster_readSrc h1, hq, focus, hw]

/-- Settles O24: each instruction with its debug address, and what it does there. -/
theorem supervisionResults : Obligations.SupervisionResults := by
  unfold Obligations.SupervisionResults
  refine ⟨fun s s1 c a x h hf h1 hx key n o hk hn ho => ⟨fun d t h8 => ?dbgrd, fun d v s2 h8 h2 => ?dbgwr, fun d t hkill hs => ?resume,
    fun d t hkill hs => ?kill, fun d b y drop s2 t h2 hkill hs => ?redir⟩,
    fun s s1 t c d a off x p rest h hf h1 hr at_ ha hb h64 hq hw => fwait_completes h hf h1 hr ha hb h64 hq hw⟩
  case dbgrd =>
    have reads := dbgrd_completes (d := d) (t := t) h hf h1 hx hk hn h8
    refine ⟨fun hb hl hw => reads ?_, fun hb hl hl' hw => reads ?_, fun hb hl hw => reads ?_, fun hb hd hw => reads ?_,
      fun hb hst hlive u hu hw => reads ?_⟩
    · exact (debugRead_map ho (map_of_bit16 hb) hl).trans hw
    · exact (debugRead_core ho (map_of_bit16 hb) hl hl').trans hw
    · exact (debugRead_beyond ho (map_of_bit16 hb) hl).trans hw
    · exact (debugRead_dead ho (store_of_bit16 hb) hd).trans hw
    · exact (debugRead_live ho (store_of_bit16 hb) hst hlive hu).trans hw
  case dbgwr =>
    have writes {u : State} := dbgwr_completes (t := u) h hf h1 hx hk hn h8 h2
    refine ⟨fun hb hl => ⟨fun hst => writes ?_, fun hst hout => writes ?_, fun hst hl' hh u hu => writes ?_⟩, fun hb hl hl' hkill => writes ?_,
      fun hb hl => writes ?_, fun hb hi => writes ?_, fun hb hst hp u hu => writes ?_⟩
    · exact debugWrite_running ho (map_of_bit16 hb) hl hst
    · exact debugWrite_map ho (map_of_bit16 hb) hl hst (if_neg (by omega)).symm (debugBanks_nil ..)
    · exact debugWrite_map ho (map_of_bit16 hb) hl hst (if_pos ⟨hl', hh⟩).symm hu
    · exact debugWrite_core ho (map_of_bit16 hb) hl hl' hkill
    · exact debugWrite_beyond ho (map_of_bit16 hb) hl
    · exact debugWrite_ignored ho (store_of_bit16 hb) hi
    · exact debugWrite_store ho (store_of_bit16 hb) hst hp hu
  case resume =>
    have acts := resume_completes (d := d) (t := t) h hf h1 hx hk hn
    exact ⟨fun allowed hw => acts (command_ok hkill (.inl hs) (by rwa [if_pos allowed])),
      fun refused hw => acts (command_ok hkill (.inl hs) (by rwa [refused, if_neg Bool.false_ne_true]))⟩
  case kill =>
    have acts := kill_completes (d := d) (t := t) h hf h1 hx hk hn
    have may : spillOn (s1.core key) n = false ∨ (true = true ∧ (s1.core key).spill = .spill n) := hs.imp_right fun on => ⟨rfl, on⟩
    refine ⟨fun busy there hw => acts (command_ok hkill may ?_), fun away hw => acts (command_ok hkill may ?_)⟩
    · rwa [if_pos (by simp [busy, there])]
    · have refused : ((s1.ctx key n).st != .idle && !(s1.ctx key n).vac) = false := by
        rcases away with idle | vac
        · rw [idle, bne_self_eq_false, Bool.false_and]
        · rw [vac, Bool.not_true, Bool.and_false]
      rwa [refused, if_neg Bool.false_ne_true]
  case redir =>
    have acts := redir_completes (d := d) (t := t) (drop := drop) h hf h1 hx hk hn h2
    exact ⟨fun allowed hw => acts (command_ok hkill (.inl hs) (by rwa [if_pos allowed])),
      fun refused hw => acts (command_ok hkill (.inl hs) (by rwa [refused, if_neg Bool.false_ne_true]))⟩

end Sys2Proof.Laws
end

section
/-! PROOFS. PUT, GET, PUTSIG and RADD (R332 to R334). -/

namespace Sys2Proof.Laws

open Sys2Proof Sys2Proof.Machine

/-! ### Ranges and the local source (R231, R333) -/

theorem transferRanges_both {s : State} {loc rem n : Nat} {sel : Space} {u : PageUse} {a b : Acc}
    (ha : resolve s s.focus s.cur.asid .spm rdUse loc 8 (addrRange loc n) = .ok a)
    (hb : resolve s s.focus s.cur.asid sel u rem 8 (addrRange rem n) = .ok b) : transferRanges s loc rem sel n u none = .ok (a, b) := by
  simp only [transferRanges, ha, hb]
  rfl

theorem errOf_ok {α : Type} (a : α) : errOf (.ok a) = none := rfl

/-- A check that passes. -/
theorem checkedIn_ok {α : Type} (s : State) (sp : Space) (vas : List Nat) (a : α) : checkedIn s sp vas (.ok a) = .ok a := rfl

/-- The bytes of a local range, with POIS where one of its words is poisoned (log entry 15). -/
theorem putSource_ok {s t v : State} {as : BitVec 16} {key al addr : Nat} {p : PageUse} {xs : List Nat} {acc : Acc}
    (hr : resolve s key as .spm p addr al xs = .ok acc) (hb : ownBanks t false acc.locs = .ok v) :
    putSource t acc.locs = .ok (acc.locs.map v.byteAt, withPois v (acc.locs.any v.poisonAt)) := by
  obtain ⟨-, own, -⟩ := resolve_ok hr
  simp only [putSource, hb, exec_bind_ok, readHome_unlocked (unlocked_of_resolved hr own v), poisIf_eq_withPois]
  rfl

section
variable {s s1 s2 s3 : State} {c : Com} {d a : Src} {sel : Space} {len : BitVec 32} {r l : Word} {src dst : Acc} (h : Ready .any c s)
  (h1 : readSrc s a = .ok (r, s1)) (h2 : readSrc s1 d = .ok (l, s2)) (hm : memReady s2 = .ok ())
include h h1 h2 hm

theorem put_completes {u : State} (hsrc : resolve s2 s2.focus s2.cur.asid .spm rdUse l.toNat 8 (addrRange l.toNat len.toNat) = .ok src)
    (hdst : resolve s2 s2.focus s2.cur.asid sel wrUse r.toNat 8 (addrRange r.toNat len.toNat) = .ok dst)
    (hu : u = translated s2 sel (addrRange r.toNat len.toNat)) (hr : sendReady u dst.locs = .ok ()) (hb : ownBanks u false src.locs = .ok s3) :
    exec (.put c d a sel len) s = .next (completed s
      (postWrites (withPois s3 (src.locs.any s3.poisonAt)) dst.ms (dst.locs.zip (src.locs.map s3.byteAt))).2) := by
  change execPut c d a sel len s = _
  subst hu
  refine issueFall_completes h ?_
  simp only [h1, h2, hm, exec_bind_ok, transferRanges_both hsrc hdst, checkedIn_ok, hr, putSource_ok hsrc hb]
  rfl

theorem get_completes {v : State} (hdst : resolve s2 s2.focus s2.cur.asid .spm rdUse l.toNat 8 (addrRange l.toNat len.toNat) = .ok dst)
    (hsrc : resolve s2 s2.focus s2.cur.asid sel rdUse r.toNat 8 (addrRange r.toNat len.toNat) = .ok src)
    (hv : v = translated s2 sel (addrRange r.toNat len.toNat)) (hr : sendReady v src.locs = .ok ()) :
    exec (.get c d a sel len) s = .next (completed s ((splitRuns (src.locs.zip dst.locs)).foldl (fun (u : State) run =>
      sendReq u { reqOf u.focus u.act (.load (run.map (·.1))) (run.headD (0, 0)).1 (some (classOf u.focus (run.headD (0, 0)).1)) with
        dst := .spm (run.headD (0, 0)).2, ms := src.ms.contains ((run.headD (0, 0)).1 / 64) }) v)) := by
  change execGet c d a sel len s = _
  subst hv
  refine issueFall_completes h ?_
  simp only [h1, h2, hm, exec_bind_ok, transferRanges_both hdst hsrc, checkedIn_ok, hr]
  rfl

end

/-- PUTSIG: the data writes, and then the addition, which waits for them. -/
theorem putsig_completes {s s1 s2 s3 s4 u : State} {c : Com} {d a x : Src} {sel ssp : Space} {len : BitVec 32} {r y l : Word} {src dst sync : Acc}
    {vas : List Nat} {p : List Nat × State} (h : Ready .any c s)
    (h1 : readSrc s a = .ok (r, s1)) (h2 : readSrc s1 x = .ok (y, s2)) (h3 : readSrc s2 d = .ok (l, s3)) (hm : memReady s3 = .ok ())
    (hsrc : resolve s3 s3.focus s3.cur.asid .spm rdUse l.toNat 8 (addrRange l.toNat len.toNat) = .ok src)
    (hdst : resolve s3 s3.focus s3.cur.asid sel wrUse r.toNat 8 (addrRange r.toNat len.toNat) = .ok dst)
    (hsync : syncWord s3 ssp wrUse y.toNat = .ok sync)
    (hvas : vas = (if sel = .glb then addrRange r.toNat len.toNat else []) ++ (if ssp = .glb then addrRange y.toNat 16 else []))
    (hu : u = tlbFills s3 (isFw s3.focus) s3.myCluster s3.cur.asid vas)
    (hl : u.linesBusy u.focus u.act (firstLoc sync / 64 :: linesOf dst.locs) = false)
    (hroom : roomFor u (firstLoc sync :: (linesOf dst.locs).map (· * 64)) = true) (hb : ownBanks u false src.locs = .ok s4)
    (hp : p = postWrites (withPois s4 (src.locs.any s4.poisonAt)) dst.ms (dst.locs.zip (src.locs.map s4.byteAt))) :
    exec (.putsig c d a x sel ssp len) s = .next (completed s (sendReq p.2
      { reqOf p.2.focus p.2.act (.syncAdd (firstLoc sync) len.toNat) (firstLoc sync) (some (classOf p.2.focus (firstLoc sync))) with after := p.1 })) := by
  change execPutsig c d a x sel ssp len s = _
  rw [← translated_glb rfl] at hu
  subst hu hp hvas
  rw [firstLoc] at hl hroom
  refine issueFall_completes h ?_
  simp only [h1, h2, h3, hm, exec_bind_ok, hsync, beq_iff_eq, errOf_ok, transferRanges_both hsrc hdst, checkedIn_ok, checked_ok, lineOf, hl, hroom,
    Bool.not_false, waitFor_true, putSource_ok hsrc hb]
  rfl

/-! ### RADD (R334) -/

section
variable {s s1 s2 u : State} {c : Com} {d : Src} {m : MemOp} {x v : Word} {acc : Acc} (h : Ready .any c s) (h1 : readSrc s m.base.r = .ok (x, s1))
  (h2 : readSrc s1 d = .ok (v, s2)) (hm : memReady s2 = .ok ()) (hw : syncWord s2 m.sel wrUse (addressOf x m.off) = .ok acc)
  (hu : u = translated s2 m.sel (addrRange (addressOf x m.off) 16))
include h h1 h2 hm hw hu

/-- A sync word of the own scratchpad takes its step at issue. -/
theorem radd_own {s3 : State} (ho : acc.own = true) (hb : ownBanksRw u [firstLoc acc] [firstLoc acc + 8] = .ok s3) :
    exec (.radd c d m) s = .next (completed s (syncAdd s3 (firstLoc acc) (v.toNat % 2 ^ 48) false)) := by
  change execRadd c d m s = _
  subst hu
  rw [firstLoc] at hb ⊢
  refine issueFall_completes h ?_
  simp only [memAddr_ok h1, h2, hm, exec_bind_ok, hw, checkedIn_ok, ho, if_true, syncNeeds, Bool.false_eq_true, if_false, hb]
  rfl

/-- One beyond the core is one counted request. -/
theorem radd_sent (ho : acc.own = false) (hr : sendReady u [firstLoc acc] = .ok ()) :
    exec (.radd c d m) s = .next (completed s (sendReq u
      (reqOf u.focus u.act (.syncAdd (firstLoc acc) (v.toNat % 2 ^ 48)) (firstLoc acc) (some (classOf u.focus (firstLoc acc)))))) := by
  change execRadd c d m s = _
  subst hu
  rw [firstLoc] at hr ⊢
  refine issueFall_completes h ?_
  simp only [memAddr_ok h1, h2, hm, exec_bind_ok, hw, checkedIn_ok, ho, Bool.false_eq_true, if_false, hr]
  rfl

end

/-- Settles O11: the operands' steps are those of the hypotheses, and what remains is what each instruction sends. -/
theorem blockTransferResults : Obligations.BlockTransferResults := by
  unfold Obligations.BlockTransferResults
  refine ⟨fun s s1 s2 s3 c d a sel len r l src dst h h1 h2 hm hsrc hdst u hu hr hb => put_completes h h1 h2 hm hsrc hdst hu hr hb,
    fun s s1 s2 c d a sel len r l src dst h h1 h2 hm hdst hsrc v hv hr => get_completes h h1 h2 hm hdst hsrc hv hr, ?_,
    fun s s1 s2 c d m x v acc h h1 h2 hm hw u hu => ⟨fun s3 ho hb => radd_own h h1 h2 hm hw hu ho hb, fun ho hr => radd_sent h h1 h2 hm hw hu ho hr⟩⟩
  intro s s1 s2 s3 s4 c d a x sel ssp len r y l src dst sync h h1 h2 h3 hm hsrc hdst hsync u hu hl hroom hb p hp
  exact putsig_completes h h1 h2 h3 hm hsrc hdst hsync rfl hu hl hroom hb hp

end Sys2Proof.Laws
end

section
/-! PROOFS. View set-up and the vector instructions that access memory (R353, R355, R358 to R365, R397). -/

namespace Sys2Proof.Laws

open Sys2Proof Sys2Proof.Machine

/-! ### What stands while an operand is read (R165) -/

section
variable {s t : State} {x : Src} {v : Word} (h : readSrc s x = .ok (v, t))
include h

theorem rdesc_readSrc : t.me.rdesc = s.me.rdesc := by
  rw [State.me, State.me, focus_readSrc h]
  exact ((within_readSrc (A := noLimits) h).core s.focus).rdesc

theorem bview_readSrc (n : Fin 16) : t.bview n = s.bview n := by
  rw [State.bview, State.bview, focus_readSrc h, frame_readSrc h]
  rfl

theorem view_of_readSrc (n : Fin 16) : t.view n = s.cur.vw.get n := view_readSrc h n

/-- What a push captures of its context does not change while an operand is read. -/
theorem baseOp_readSrc (i : Instr) (p : Pred) : baseOp t i (s.predMask p) = captured s i p := by
  obtain ⟨_, _, _, _, _, same⟩ := cur_readSrc h
  rw [baseOp, captured, act_readSrc h, same]
  rfl

end

/-! ### View set-up (R358, R359, R397) -/

/-- BASE alone is replaced, bit by bit. -/
theorem getLsbD_withBase (w : Word) (b : Nat) {i : Nat} (hi : i < 64) :
    (withBase w b).getLsbD i = if 6 ≤ i ∧ i < 16 then (BitVec.ofNat 10 b).getLsbD (i - 6) else w.getLsbD i := by
  have mask : (0xFFC0 : Word).getLsbD i = (decide (6 ≤ i) && decide (i - 6 < 10)) := by
    change (BitVec.ofNat 64 0xFFC0).getLsbD i = _
    rw [BitVec.getLsbD_ofNat, show (0xFFC0 : Nat) = (2 ^ 10 - 1) <<< 6 by decide, Nat.testBit_shiftLeft, Nat.testBit_two_pow_sub_one, decide_eq_true hi,
      Bool.true_and]
  have field : (b % 1024 * 64).testBit i = (decide (6 ≤ i) && (decide (i - 6 < 10) && b.testBit (i - 6))) := by
    rw [show b % 1024 * 64 = (b % 2 ^ 10) <<< 6 by norm_num [Nat.shiftLeft_eq], Nat.testBit_shiftLeft, Nat.testBit_mod_two_pow]
  rw [withBase, BitVec.getLsbD_or, BitVec.getLsbD_and, BitVec.getLsbD_not, mask, BitVec.getLsbD_ofNat, BitVec.getLsbD_ofNat, field]
  by_cases h6 : 6 ≤ i
  · by_cases h16 : i < 16
    · simp [hi, h6, h16, show i - 6 < 10 by omega]
    · simp [hi, h6, h16, show ¬ i - 6 < 10 by omega]
  · simp [hi, h6]

section
variable {s s1 : State} {wt : Fin 4} {d : Fin 16} {x imm : Word} (h : Ready .tile { pred := { neg := false, p := 0 }, wt } s)
include h

theorem vwsetReg_completes {a : Src} (h1 : readSrc s a = .ok (x, s1)) :
    exec (.vwsetReg wt d a) s = .next (completed s (s1.modCur fun k => { k with vw := k.vw.set d (x &&& 0x000003FCFFE0FFC0) })) := by
  change execVwsetReg wt d a s = _
  exact issueFall_completes h (by rw [h1]; rfl)

theorem mbsetReg_completes {a : Src} (h1 : readSrc s a = .ok (x, s1)) :
    exec (.mbsetReg wt d a) s = .next (completed s (s1.modQuad (quadOf s.focus) fun q => { q with bv := q.bv.set d (x &&& 0x000002FC000001FF) })) := by
  change execMbsetReg wt d a s = _
  rw [← focus_readSrc h1]
  exact issueFall_completes h (by rw [h1]; rfl)

theorem vwsetImm_completes :
    exec (.vwsetImm wt d imm) s = .next (completed s (s.modCur fun k => { k with vw := k.vw.set d (imm &&& 0x000003FCFFE0FFC0) })) := by
  change execVwsetImm wt d imm s = _
  exact issueFall_completes h rfl

theorem mbsetImm_completes :
    exec (.mbsetImm wt d imm) s = .next (completed s (s.modQuad (quadOf s.focus) fun q => { q with bv := q.bv.set d (imm &&& 0x000002FC000001FF) })) := by
  change execMbsetImm wt d imm s = _
  exact issueFall_completes h rfl

theorem vwadv_completes {a : Use Src} {v : Word} (h1 : readSrc s a.r = .ok (x, s1))
    (hv : ∀ i < 64, v.getLsbD i =
      if 6 ≤ i ∧ i < 16 then (BitVec.ofNat 10 (viewBase (s.cur.vw.get d) + x.toNat)).getLsbD (i - 6) else (s.cur.vw.get d).getLsbD i) :
    exec (.vwadv wt d a) s = .next (completed s (s1.modCur fun k => { k with vw := k.vw.set d v })) := by
  change execVwadv wt d a s = _
  have sum : BitVec.ofNat 10 (viewBase (s.cur.vw.get d) + x.toNat % 1024) = BitVec.ofNat 10 (viewBase (s.cur.vw.get d) + x.toNat) := by
    apply BitVec.eq_of_toNat_eq
    rw [BitVec.toNat_ofNat, BitVec.toNat_ofNat]
    omega
  obtain rfl : v = withBase (s.cur.vw.get d) (viewBase (s.cur.vw.get d) + x.toNat % 1024) :=
    BitVec.eq_of_getLsbD_eq fun i hi => by rw [hv i hi, getLsbD_withBase _ _ hi, sum]
  refine issueFall_completes h ?_
  rw [h1, exec_bind_ok, ← view_of_readSrc h1]
  rfl

end

/-! ### Images, lanes and elements (R353, R360 to R365) -/

/-- A contiguous image whose address is fixed and checked at the push. -/
theorem vldst_completes {s s1 s2 : State} {c : Com} {i : Instr} {ty : Ty} {d : Fin 16} {m : MemOp32} {u : PageUse} {x : Word} {v o : VOp}
    (h : ReadyV c.pred c.wt s) (h1 : readSrc s m.base.r = .ok (x, s1)) (hv : v = { captured s i c.pred with vd := s.cur.vw.get d })
    (hc : ViewsOk s1 v) (hm : imageMem s1 v m.sel u (viewAlign v ty) (addressOf x (.imm32 m.off)) (imagePlaces v ty) = .ok (o, s2)) :
    vldst c i ty d m u s = .next (retire (pushEntry s2 o)) := by
  subst hv
  refine issueV_completes h ?_
  simp only [memAddr32_ok h1, exec_bind_ok, baseOp_readSrc h1, view_of_readSrc h1, checkViews_ok hc, hm]
  rfl

theorem firstFault_none {fs : List (Option FaultInfo)} (h : ∀ f ∈ fs, f = none) : firstFault fs = none :=
  List.foldlRecOn (motive := fun b => b = none) _ _ rfl fun b hb f hf => by rw [hb, h f hf]

/-- Checks that every lane passes. -/
theorem firstFault_map {α : Type} {es : List α} {ok : α → Prop} [DecidablePred ok] (f : α → FaultInfo) (h : ∀ e ∈ es, ok e) :
    firstFault (es.map fun e => if ok e then none else some (f e)) = none :=
  firstFault_none fun g hg => by
    obtain ⟨e, he, rfl⟩ := List.mem_map.mp hg
    exact if_pos (h e he)

theorem focus_indexElems {s t : State} {w : Word} {ix : List Int} (h : indexElems s w = .ok (ix, t)) : t.focus = s.focus := by
  have kept := ends_indexElems (s := s) (u := s) (.refl s) w
  rw [h] at kept
  exact Staged.focus kept

/-- Each lane at its own offset, within its slice and aligned. -/
theorem vlane_completes {s s1 s2 : State} {c : Com} {i : Instr} {ty : Ty} {d : Fin 16} {a : Use Src} {off : BitVec 32} {idx : Option (Use (Fin 16))}
    {x w : Word} {ix : List Int} {ls : List (Nat × Nat × List Nat)} {pairs : List (Nat × Nat)} {v : VOp} (h : ReadyV c.pred c.wt s)
    (h1 : readSrc s a.r = .ok (x, s1)) (hw : w = (match idx with | some u => s.cur.vw.get u.r | none => 0))
    (hx : (match idx with | some _ => indexElems s1 w | none => .ok ([], s1)) = .ok (ix, s2)) (hls : ls = laneAccesses (s.predMask c.pred) ty x off ix)
    (hin : ∀ e ∈ ls, e.2.1 < 4096 ∧ e.2.1 % 4 = 0)
    (hp : pairs = ls.flatMap fun e => e.2.2.map fun j => (j, locLane (quadOf s.focus) (e.1 * 4096 + e.2.1 + j % 4)))
    (hv : v = { captured s i c.pred with vd := s.cur.vw.get d, vc := w }) (hc : ViewsOk s1 v) :
    vlane c i ty d a off idx s = .next (retire (pushEntry s2 { v with mem := pairs })) := by
  have bounds := firstFault_map (ok := fun e : Nat × Nat × List Nat => e.2.1 < 4096) (fun e => fBound e.2.1 4) fun e he => (hin e he).1
  have aligns := firstFault_map (ok := fun e : Nat × Nat × List Nat => e.2.1 % 4 = 0) (fun e => fAlign e.2.1 4) fun e he => (hin e he).2
  have focus : s2.focus = s.focus := by
    cases idx with
    | none => cases hx; exact focus_readSrc h1
    | some u => exact (focus_indexElems hx).trans (focus_readSrc h1)
  rw [hls, laneAccesses, addressOf, ← addrPlus_eq] at bounds aligns hp
  subst hv hw
  have checked := checkViews_ok hc
  refine issueV_completes h ?_
  simp only [h1, exec_bind_ok, baseOp_readSrc h1, view_of_readSrc h1]
  cases idx with
  | none =>
    cases hx
    dsimp only at checked
    simp only [checked, exec_bind_ok, pure_bind, bounds, aligns, raiseOpt_none, exec_bind_ok, focus, ← hp]
    rfl
  | some u =>
    dsimp only at hx checked
    simp only [checked, hx, bounds, aligns, raiseOpt_none, exec_bind_ok, focus, ← hp]
    rfl

/-- Each active element at its own address, resolved and checked at the push. -/
theorem vindexed_completes {s s1 s2 s3 : State} {c : Com} {i : Instr} {ty : Ty} {d : Fin 16} {m : MemOp32} {n : Use (Fin 16)} {sc : Fin 4} {u : PageUse}
    {x : Word} {ix : List Int} {v o : VOp} (h : ReadyV c.pred c.wt s) (h1 : readSrc s m.base.r = .ok (x, s1))
    (hx : indexElems s1 (s.cur.vw.get n.r) = .ok (ix, s2))
    (hv : v = { captured s i c.pred with vd := s.cur.vw.get d, vc := s.cur.vw.get n.r }) (hc : ViewsOk s1 v)
    (hm : elementMem s2 v m.sel u (tyBytes ty) (elementAccesses (s.predMask c.pred) ty x m.off ix sc) = .ok (o, s3)) :
    vindexed c i ty d m n sc u s = .next (retire (pushEntry s3 o)) := by
  subst hv
  rw [elementAccesses] at hm
  refine issueV_completes h ?_
  simp only [memAddr32_ok h1, exec_bind_ok, baseOp_readSrc h1, view_of_readSrc h1, checkViews_ok hc, hx, hm]
  rfl

/-- Settles O17: view set-up writes its register, and each access is fixed and checked before its push. -/
theorem viewAndVectorMemoryResults : Obligations.ViewAndVectorMemoryResults := by
  unfold Obligations.ViewAndVectorMemoryResults
  refine ⟨⟨fun s s1 wt d a x h h1 => ⟨vwsetReg_completes h h1, mbsetReg_completes h h1⟩,
      fun s wt d imm h => ⟨vwsetImm_completes h, mbsetImm_completes h⟩, fun s s1 wt d a x v h h1 hv => vwadv_completes h h1 hv⟩,
    ?images, ?lanes, ?elements⟩
  case images =>
    intro s s1 s2 c ty d m x o h h1
    refine ⟨fun v hv hc hm => ?_, fun v hv hc hm => ?_⟩
    · change execVld c ty d m s = _
      exact vldst_completes h h1 hv hc hm
    · change execVst c ty d m s = _
      exact vldst_completes h h1 hv hc hm
  case lanes =>
    intro s s1 s2 c ty d a off idx x ix ls h h1 w hw hx hls hin pairs hp
    refine ⟨fun v hv hc => ?_, fun v hv hc => ?_⟩
    · change execVldl c ty d a off idx s = _
      exact vlane_completes h h1 hw hx hls hin hp hv hc
    · change execVstl c ty d a off idx s = _
      exact vlane_completes h h1 hw hx hls hin hp hv hc
  case elements =>
    intro s s1 s2 s3 c ty d m n sc x ix o h h1 hx
    refine ⟨fun v hv hc hm => ?_, fun v hv hc hm => ?_⟩
    · change execVgath c ty d m n sc s = _
      exact vindexed_completes h h1 hx hv hc hm
    · change execVscat c ty d m n sc s = _
      exact vindexed_completes h h1 hx hv hc hm

end Sys2Proof.Laws
end

section
/-! PROOFS. The pushes of group 5, and MWAIT (R387, R388, R390 to R404). -/

namespace Sys2Proof.Laws

open Sys2Proof Sys2Proof.Machine

section
variable {s t : State} {x : Src} {v : Word} (h : readSrc s x = .ok (v, t))
include h

theorem predMask_readSrc (p : Pred) : t.predMask p = s.predMask p := by
  obtain ⟨_, _, _, _, _, same⟩ := cur_readSrc h
  simp only [State.predMask, same]
  rfl

/-- The tile loads look at the same descriptors after their operands are read (R199). -/
theorem descAt_readSrc (sp : Space) (a : Nat) : descAt t.me sp a = descAt s.me sp a := by
  simp only [descAt, rdesc_readSrc h]

theorem bsaxOf_readSrc (k : Option Nat) : bsaxOf t.me k = bsaxOf s.me k := by
  cases k <;> simp only [bsaxOf, rdesc_readSrc h]

end

/-- A push whose operands are captured and whose checks pass enters the queue (R387). -/
theorem pushM_completes {c : Com} {i : Instr} {s : State} {o : VOp} {fill : VOp → State → Exec (VOp × State)} (h : ReadyM c s)
    (hf : fill (captured s i c.pred) s = .ok (o, s)) (ho : ViewsOk s o) : pushM c i s fill = .next (retire (pushEntry s o)) := by
  refine issueM_completes h ?_
  change fill (captured s i c.pred) s >>= _ = _
  rw [hf, exec_bind_ok]
  dsimp only
  rw [checkViews_ok ho]
  rfl

theorem issueM_raises {c : Com} {s : State} {f : FaultInfo} {m : State → Exec State} (h : ReadyM c s) (hm : m s = .error (.raise f id)) :
    issueM c s m = .next (takeFault s s.focus s.act f) := by
  obtain ⟨⟨agent, unblocked, settled, waited, room⟩, holds⟩ := h
  replace holds : ¬ s.predMask c.pred = 0#256 := holds
  unfold issueM
  simp [blockFor, raiseIf, waitFor, vqRoom, agent, unblocked, settled, waited, room, holds, hm, settle, bind, Except.bind]

/-! ### MMA.RA and MEPI (R392, R401) -/

theorem mmaRa_completes {s s1 s2 : State} {c : Com} {ty : MmaTy} {d : Fin 16} {a : Use Src} {b : Fin 16} {ov : Bool} {shape : Fin 16} {sp : Space}
    {x : Word} {v o : VOp} {n : Nat} (h : ReadyM c s) (h1 : readSrc s a.r = .ok (x, s1))
    (hv : v = { captured s (.mmaRa c ty d a b ov shape sp) c.pred with
      vd := s.cur.vw.get d, vc := s.cur.vw.get shape, bv := (s.quad (quadOf s.focus)).bv.get b, sa := x }) (hc : ViewsOk s1 v)
    (hn : n = 32 * (if ty = .t6 then viewK v.vc * 3 / 4 else viewK v.vc))
    (hm : tileMem s1 v sp 32 x.toNat 0 ((List.range n).map fun i => (i, (x.toNat + i) % 2 ^ 64)) = .ok (o, s2)) :
    exec (.mmaRa c ty d a b ov shape sp) s = .next (retire (startTiles (pushEntry s2 o) s2.focus 8)) := by
  change execMmaRa c ty d a b ov shape sp s = _
  have bview : s1.bview b = (s.quad (quadOf s.focus)).bv.get b := bview_readSrc h1 b
  subst hv hn
  refine issueM_completes h ?_
  simp only [h1, exec_bind_ok, predMask_readSrc h1, baseOp_readSrc h1, view_of_readSrc h1, bview, checkViews_ok hc, hm,
    (staged_pushEntry (L := False) s2 o).focus]
  rfl

/-- MEPI, whose address and pitch are aligned. -/
theorem pushMepi_completes {s s1 : State} {c : Com} {i : Instr} {ty : Ty} {acc : Use (Fin 16)} {base : Src} {sel : Space} {off : Int} {pitch p a : Nat}
    {cols : Option (Fin 16)} {x wd : Word} {o : VOp} (h : ReadyM c s) (h1 : readSrc s base = .ok (x, s1))
    (hw : wd = (match cols with | some d => s.cur.vw.get d | none => 0)) (ha : a = addrPlus x off)
    (hp : p = if pitch = 0 then rowBytes ty else pitch) (ha8 : a % 8 = 0) (hp8 : p % 8 = 0)
    (ho : o = { captured s i c.pred with vc := s.cur.vw.get acc.r, vd := wd, sa := BitVec.ofNat 64 a, sc := BitVec.ofNat 64 p }) (hc : ViewsOk s1 o) :
    pushMepi c i ty acc base sel off pitch cols s = .next (retire (pushEntry s1 o)) := by
  have aligned : (decide (a % 8 ≠ 0) || decide (p % 8 ≠ 0)) = false := by simp [ha8, hp8]
  have checked := checkViews_ok hc
  subst ho hw
  rw [ha, hp] at aligned checked ⊢
  refine issueM_completes h ?_
  simp only [h1, exec_bind_ok, predMask_readSrc h1, baseOp_readSrc h1, view_of_readSrc h1, aligned, raiseIf_false]
  cases cols
  all_goals
    dsimp only at checked
    simp only [checked, exec_bind_ok]
    rfl

/-! ### Tile loads (R398 to R400) -/

/-- The tile loads, each with its spare bits: OPX of an MBLD (R399). -/
inductive TileInstr : Instr → BitVec 5 → Prop
  | mbld (c : Com) (ty : Ty) (d : Fin 16) (m : MemOp32) (y : TilePitch) : TileInstr (.mbld c ty d m y) y.opx
  | mtld (c : Com) (ty : Ty) (d : Fin 16) (m : MemOp32) (x : Use Src) (ev : Fin 16) (hi : Bool) : TileInstr (.mtld c ty d m x ev hi) 0
  | mtldRb (c : Com) (ty : Ty) (d : Fin 16) (m : MemOp32) (x : Use Src) (ev : Fin 16) (hi : Bool) : TileInstr (.mtldRb c ty d m x ev hi) 0

/-- What a tile load asks of its suffixes, its type, its pitch and its destination view before its image is looked at (R398 to R400). -/
structure TileForm (spare : BitVec 5) (ty : Ty) (rb hi : Bool) (bsax blk pitch : Nat) (o : VOp) (w : Word) : Prop where
  legal : blk ≠ 0 → spare.extractLsb' 0 4 = 0
  operand : operandTy ty = true
  blocked : rb = true → bsax ≠ 0
  reblocked : bsax = 1 → rb = true
  high : hi = true → blk = 2
  wide : blk ≠ 0 → ty = .i8 ∧ 64 ≤ viewK w
  exponents : blk = 1 → usesB o = true → bvBse w = true
  pitched : leastPitch ty blk ≤ pitch
  plain : spare.getLsbD 4 = false

/-- A tile load whose form, image and views pass its checks enters the queue with its bytes resolved. -/
theorem tileLoad_completes {s s1 s2 s3 : State} {c : Com} {i : Instr} {spare : BitVec 5} {ty : Ty} {m : MemOp32} {x : Src} {rb hi : Bool} {a p : Word}
    {at_ bsax blk : Nat} {fill : VOp → State → VOp} {dest : VOp → Word} {w : Word} {v o : VOp} (h : ReadyM c s) (ht : TileInstr i spare)
    (h1 : readSrc s m.base.r = .ok (a, s1)) (h2 : readSrc s1 x = .ok (p, s2)) (ha : at_ = addressOf a (.imm32 m.off))
    (hb : bsax = bsaxOf s.me (descAt s.me m.sel at_)) (hk : blk = if bsax = 2 then 1 else if bsax = 1 ∧ rb = true then 2 else 0)
    (hv : v = { fill (captured s i c.pred) s2 with sa := BitVec.ofNat 64 at_, sc := p, blk }) (hw : dest v = w)
    (form : TileForm spare ty rb hi bsax blk p.toNat v w)
    (himg : ∀ q ∈ tileImage ty blk (keOf ty (viewK w)) at_ p.toNat, descAt s.me m.sel q.2 = descAt s.me m.sel at_) (hc : ViewsOk s2 v)
    (hm : tileMem s2 v m.sel 8 at_ p.toNat (tileImage ty blk (keOf ty (viewK w)) at_ p.toNat) = .ok (o, s3)) :
    tileLoad c i ty m x rb hi s fill dest = .next (retire (pushEntry s3 o)) := by
  subst hw
  obtain ⟨legal, operand, blocked, reblocked, high, wide, exponents, pitched, plain⟩ := form
  have legal' : (decide (blk ≠ 0) && decide (spare.extractLsb' 0 4 ≠ 0)) = false := by
    by_cases hz : blk = 0
    · simp [hz]
    · simp [legal hz]
  have blocked' : (rb && decide (bsax = 0)) = false := by
    cases rb
    · rfl
    · simp [blocked rfl]
  have reblocked' : (decide (bsax = 1) && !rb) = false := by
    by_cases h1 : bsax = 1
    · simp [reblocked h1]
    · simp [h1]
  have high' : (hi && decide (blk ≠ 2)) = false := by
    cases hi
    · rfl
    · simp [high rfl]
  have wide' : (decide (blk ≠ 0) && (ty != .i8 || decide (viewK (dest v) < 64))) = false := by
    by_cases hz : blk = 0
    · simp [hz]
    · obtain ⟨hty, hw⟩ := wide hz
      simp [hty, Nat.not_lt.mpr hw]
  have exponents' : (decide (blk = 1) && usesB v && !bvBse (dest v)) = false := by
    by_cases hb1 : blk = 1
    · cases hu : usesB v
      · simp
      · simp [exponents hb1 hu]
    · simp [hb1]
  have image' : ((tileImage ty blk (keOf ty (viewK (dest v))) at_ p.toNat).any fun q => descAt s.me m.sel q.2 != descAt s.me m.sel at_) = false :=
    List.any_eq_false.mpr fun q hq => by simp [himg q hq]
  have kind : (if bsax = 2 then 1 else if (decide (bsax = 1) && rb) = true then 2 else 0) = blk := by
    rw [hk]
    simp only [Bool.and_eq_true, decide_eq_true_eq]
  have mask : s2.predMask c.pred = s.predMask c.pred := (predMask_readSrc h2 _).trans (predMask_readSrc h1 _)
  have base : baseOp s2 i (s.predMask c.pred) = captured s i c.pred := by
    rw [← predMask_readSrc h1, baseOp_readSrc h2]
    change baseOp s1 i (s1.predMask c.pred) = _
    rw [predMask_readSrc h1, baseOp_readSrc h1]
  have desc (sp : Space) (b : Nat) : descAt s2.me sp b = descAt s.me sp b := (descAt_readSrc h2 ..).trans (descAt_readSrc h1 ..)
  have bs (k : Option Nat) : bsaxOf s2.me k = bsaxOf s.me k := (bsaxOf_readSrc h2 _).trans (bsaxOf_readSrc h1 _)
  subst hv
  refine issueM_completes h ?_
  cases ht
  all_goals
    simp only [memAddr32_ok h1, h2, exec_bind_ok, ← ha, desc, bs, ← hb, kind, mask, base, legal', operand, Bool.not_true, blocked', reblocked', high',
      wide', exponents', decide_eq_false (Nat.not_lt.mpr pitched), plain, image', raiseIf_false, checkViews_ok hc, hm]
    rfl

/-- A check of one code before the same fault changes nothing. -/
theorem raiseIf_same (b : Bool) (f : FaultInfo) {α : Type} : (raiseIf b f >>= fun _ => (.error (.raise f id) : Exec α)) = .error (.raise f id) := by
  cases b <;> rfl

section
variable {s s1 s2 : State} {c : Com} {ty : Ty} {d : Fin 16} {m : MemOp32} {y : TilePitch} {x : Src} {a p : Word} {at_ bsax : Nat}
  {fill : VOp → State → VOp} {dest : VOp → Word}

/-- OPX[4] of an MBLD that is not of a block-scaled copy: FORMAT, whichever of its rules comes first (R399). -/
theorem mbld_format (h : ReadyM c s) (h1 : readSrc s m.base.r = .ok (a, s1)) (h2 : readSrc s1 x = .ok (p, s2)) (ha : at_ = addressOf a (.imm32 m.off))
    (hb : bsax = bsaxOf s.me (descAt s.me m.sel at_)) (hx : y.opx.getLsbD 4 = true) (h2b : bsax ≠ 2) :
    tileLoad c (.mbld c ty d m y) ty m x false false s fill dest = .next (takeFault s s.focus s.act fFormat) := by
  have desc (sp : Space) (b : Nat) : descAt s2.me sp b = descAt s.me sp b := (descAt_readSrc h2 ..).trans (descAt_readSrc h1 ..)
  have bs (k : Option Nat) : bsaxOf s2.me k = bsaxOf s.me k := (bsaxOf_readSrc h2 _).trans (bsaxOf_readSrc h1 _)
  refine issueM_raises h ?_
  simp only [memAddr32_ok h1, h2, exec_bind_ok, ← ha, desc, bs, ← hb, h2b, hx, reduceIte, Bool.and_false, Bool.false_eq_true, ne_eq, not_true_eq_false,
    decide_false, Bool.false_and, raiseIf_false, raiseIf_true, exec_bind_error, raiseIf_same]

/-- A bit of OPX[3:0] in an MBLD of a block-scaled copy: ILLOP (R399, log entry 48). -/
theorem mbld_illop (h : ReadyM c s) (h1 : readSrc s m.base.r = .ok (a, s1)) (h2 : readSrc s1 x = .ok (p, s2)) (ha : at_ = addressOf a (.imm32 m.off))
    (hb : bsax = bsaxOf s.me (descAt s.me m.sel at_)) (hx : y.opx.extractLsb' 0 4 ≠ 0) (h2b : bsax = 2) :
    tileLoad c (.mbld c ty d m y) ty m x false false s fill dest = .next (takeFault s s.focus s.act fIllop) := by
  have desc (sp : Space) (b : Nat) : descAt s2.me sp b = descAt s.me sp b := (descAt_readSrc h2 ..).trans (descAt_readSrc h1 ..)
  have bs (k : Option Nat) : bsaxOf s2.me k = bsaxOf s.me k := (bsaxOf_readSrc h2 _).trans (bsaxOf_readSrc h1 _)
  refine issueM_raises h ?_
  simp only [memAddr32_ok h1, h2, exec_bind_ok, ← ha, desc, bs, ← hb, h2b, reduceIte, ne_eq, one_ne_zero, not_false_eq_true, decide_true, Bool.true_and,
    decide_eq_true hx, raiseIf_true, exec_bind_error]

end

section
variable {s s1 s2 s3 : State} {c : Com} {ty : Ty} {d : Fin 16} {m : MemOp32} {x : Use Src} {a p w : Word} {at_ bsax : Nat} {v o : VOp}

theorem mbld_completes {y : TilePitch} (h : ReadyM c s) (h1 : readSrc s m.base.r = .ok (a, s1)) (h2 : readSrc s1 y.p.r = .ok (p, s2))
    (ha : at_ = addressOf a (.imm32 m.off)) (hb : bsax = bsaxOf s.me (descAt s.me m.sel at_)) (hty : operandTy ty = true)
    (hx : y.opx.getLsbD 4 = false) (hw : w = (s.quad (quadOf s.focus)).bv.get d) (hne : bsax ≠ 1)
    (hbs : bsax = 2 → ty = .i8 ∧ 64 ≤ viewK w ∧ bvBse w = true ∧ y.opx.extractLsb' 0 4 = 0)
    (hv : v = { captured s (.mbld c ty d m y) c.pred with bv := w, sa := BitVec.ofNat 64 at_, sc := p, blk := if bsax = 2 then 1 else 0 })
    (hp : leastPitch ty v.blk ≤ p.toNat)
    (himg : ∀ q ∈ tileImage ty v.blk (keOf ty (viewK w)) at_ p.toNat, descAt s.me m.sel q.2 = descAt s.me m.sel at_) (hc : ViewsOk s2 v)
    (hm : tileMem s2 v m.sel 8 at_ p.toNat (tileImage ty v.blk (keOf ty (viewK w)) at_ p.toNat) = .ok (o, s3)) :
    exec (.mbld c ty d m y) s = .next (retire (pushEntry s3 o)) := by
  change execMbld c ty d m y s = _
  have bview : s2.bview d = w := (bview_readSrc h2 d).trans ((bview_readSrc h1 d).trans hw.symm)
  have blk : v.blk = if bsax = 2 then 1 else 0 := by rw [hv]
  have dest : v.bv = w := by rw [hv]
  have full : bsax = 2 ∨ v.blk = 0 := by
    rw [blk]
    by_cases h2 : bsax = 2 <;> simp [h2]
  have scaled (hz : v.blk ≠ 0) : bsax = 2 := full.resolve_right hz
  refine tileLoad_completes (fill := fun o s => { o with bv := s.bview d }) (dest := (·.bv)) h (.mbld c ty d m y) h1 h2 ha hb (blk := v.blk)
    (by simp [blk]) (by rw [bview, blk]; exact hv) dest ?_ himg hc hm
  refine ⟨fun hz => (hbs (scaled hz)).2.2.2, hty, nofun, fun h1 => absurd h1 hne, nofun, fun hz => ?_, fun hz _ => ?_, hp, hx⟩
  · exact ⟨(hbs (scaled hz)).1, (hbs (scaled hz)).2.1⟩
  · exact (hbs (scaled (by omega))).2.2.1

theorem mtld_completes {ev : Fin 16} {hi : Bool} (h : ReadyM c s) (h1 : readSrc s m.base.r = .ok (a, s1)) (h2 : readSrc s1 x.r = .ok (p, s2))
    (ha : at_ = addressOf a (.imm32 m.off)) (hb : bsax = bsaxOf s.me (descAt s.me m.sel at_)) (hty : operandTy ty = true)
    (hw : w = s.cur.vw.get d) (hne : bsax ≠ 1) (hhi : hi = false) (hbs : bsax = 2 → ty = .i8 ∧ 64 ≤ viewK w)
    (hv : v = { captured s (.mtld c ty d m x ev hi) c.pred with
      vd := w, vb := s.cur.vw.get ev, sa := BitVec.ofNat 64 at_, sc := p, blk := if bsax = 2 then 1 else 0 })
    (hp : leastPitch ty v.blk ≤ p.toNat)
    (himg : ∀ q ∈ tileImage ty v.blk (keOf ty (viewK w)) at_ p.toNat, descAt s.me m.sel q.2 = descAt s.me m.sel at_) (hc : ViewsOk s2 v)
    (hm : tileMem s2 v m.sel 8 at_ p.toNat (tileImage ty v.blk (keOf ty (viewK w)) at_ p.toNat) = .ok (o, s3)) :
    exec (.mtld c ty d m x ev hi) s = .next (retire (pushEntry s3 o)) := by
  change execMtld c ty d m x ev hi s = _
  have view (k : Fin 16) : s2.view k = s.cur.vw.get k := (view_readSrc h2 k).trans (view_of_readSrc h1 k)
  have blk : v.blk = if bsax = 2 then 1 else 0 := by rw [hv]
  have dest : v.vd = w := by rw [hv]
  have instr : usesB v = false := by rw [hv]; rfl
  have full : bsax = 2 ∨ v.blk = 0 := by
    rw [blk]
    by_cases h2 : bsax = 2 <;> simp [h2]
  refine tileLoad_completes (fill := fun o s => { o with vd := s.view d, vb := s.view ev }) (dest := (·.vd)) h (.mtld c ty d m x ev hi) h1 h2 ha hb
    (blk := v.blk) (by simp [blk]) (by rw [view, view, blk, ← hw]; exact hv) dest ?_ himg hc hm
  refine ⟨fun _ => rfl, hty, nofun, fun h1 => absurd h1 hne, fun ht => ?_, fun hz => hbs (full.resolve_right hz), fun _ hu => ?_, hp, rfl⟩
  · rw [hhi] at ht
    cases ht
  · rw [instr] at hu
    cases hu

theorem mtldRb_completes {ev : Fin 16} {hi : Bool} (h : ReadyM c s) (h1 : readSrc s m.base.r = .ok (a, s1)) (h2 : readSrc s1 x.r = .ok (p, s2))
    (ha : at_ = addressOf a (.imm32 m.off)) (hb : bsax = bsaxOf s.me (descAt s.me m.sel at_)) (hty : operandTy ty = true)
    (hw : w = s.cur.vw.get d) (hbs : bsax = 1 ∨ bsax = 2) (hhi : hi = true → bsax = 1) (hi8 : ty = .i8) (hk : 64 ≤ viewK w)
    (hv : v = { captured s (.mtldRb c ty d m x ev hi) c.pred with
      vd := w, vb := s.cur.vw.get ev, sa := BitVec.ofNat 64 at_, sc := p, blk := if bsax = 2 then 1 else 2 })
    (hp : leastPitch ty v.blk ≤ p.toNat)
    (himg : ∀ q ∈ tileImage ty v.blk (keOf ty (viewK w)) at_ p.toNat, descAt s.me m.sel q.2 = descAt s.me m.sel at_) (hc : ViewsOk s2 v)
    (hm : tileMem s2 v m.sel 8 at_ p.toNat (tileImage ty v.blk (keOf ty (viewK w)) at_ p.toNat) = .ok (o, s3)) :
    exec (.mtldRb c ty d m x ev hi) s = .next (retire (pushEntry s3 o)) := by
  change execMtldRb c ty d m x ev hi s = _
  have view (k : Fin 16) : s2.view k = s.cur.vw.get k := (view_readSrc h2 k).trans (view_of_readSrc h1 k)
  have blk : v.blk = if bsax = 2 then 1 else 2 := by rw [hv]
  have dest : v.vd = w := by rw [hv]
  have instr : usesB v = false := by rw [hv]; rfl
  refine tileLoad_completes (fill := fun o s => { o with vd := s.view d, vb := s.view ev }) (dest := (·.vd)) h (.mtldRb c ty d m x ev hi) h1 h2 ha hb
    (blk := v.blk) ?_ (by rw [view, view, blk, ← hw]; exact hv) dest ?_ himg hc hm
  · obtain h1 | h2 := hbs
    · simp [blk, h1]
    · simp [blk, h2]
  · refine ⟨fun _ => rfl, hty, fun _ => by omega, fun _ => rfl, fun ht => ?_, fun _ => ⟨hi8, hk⟩, fun _ hu => ?_, hp, rfl⟩
    · rw [blk, hhi ht]
      rfl
    · rw [instr] at hu
      cases hu

end

/-- Settles O19: each push captures what it names, a tile load once its form and its image pass their checks. -/
theorem matrixPushes : Obligations.MatrixPushes := by
  unfold Obligations.MatrixPushes
  refine ⟨?mma, ?acc, ?ra, ?tiles, ?mepi, fun s c h hb => ?wait⟩
  case mma =>
    intro s c ty d a b ov bs h
    refine ⟨?_, ?_⟩
    · rintro o rfl ho
      change execMma c ty d a b ov bs s = _
      exact pushM_completes h rfl ho
    · rintro o rfl ho
      change execMmar c ty d a b ov bs s = _
      exact pushM_completes h rfl ho
  case acc =>
    intro s c ty d h
    refine ⟨?_, ?_⟩
    · rintro o rfl ho
      change execMzero c ty d s = _
      exact pushM_completes h rfl ho
    · rintro a sat o rfl ho
      change execMacc c ty d a sat s = _
      exact pushM_completes h rfl ho
  case ra =>
    intro s s1 s2 c ty d a b ov shape sp x o n h h1 v hv hc hn hm
    exact mmaRa_completes h h1 hv hc hn hm
  case tiles =>
    intro s s1 s2 s3 c ty d m x a p o w h h1 h2 at_ ha bsax hb hty
    refine ⟨fun v y hy hx hw hne hbs hv hp himg hc hm => ?mbld, fun y hy hx hne => ?format, fun y hy hx h2b => ?illop,
      fun v ev hi hw hne hhi hbs hv hp himg hc hm => mtld_completes h h1 h2 ha hb hty hw hne hhi hbs hv hp himg hc hm,
      fun v ev hi hw hbs hhi hi8 hk hv hp himg hc hm => mtldRb_completes h h1 h2 ha hb hty hw hbs hhi hi8 hk hv hp himg hc hm⟩
    case mbld =>
      subst hy
      exact mbld_completes h h1 h2 ha hb hty hx hw hne hbs hv hp himg hc hm
    case format =>
      subst hy
      change execMbld c ty d m y s = _
      exact mbld_format h h1 h2 ha hb hx hne
    case illop =>
      subst hy
      change execMbld c ty d m y s = _
      exact mbld_illop h h1 h2 ha hb hx h2b
  case mepi =>
    intro s s1 c ty acc base sel cols r x h h1 wd hw
    refine ⟨fun off o ha8 hp8 ho hc => ?_, fun scale pitch p o hp ha8 hp8 ho hc => ?_⟩
    · change execMepi96 c ty acc base sel off cols r s = _
      exact pushMepi_completes h h1 hw (addrPlus_eq ..).symm rfl ha8 hp8 ho hc
    · change execMepi128 c ty acc base sel scale pitch cols r s = _
      have same : x.toNat = addrPlus x 0 := by simp [addrPlus]
      refine pushMepi_completes h h1 hw same ?_ ha8 hp8 (by rw [BitVec.ofNat_toNat, BitVec.setWidth_eq]; exact ho) hc
      rw [hp]
      simp only [← BitVec.toNat_inj]
      rfl
  case wait =>
    change execMwait c s = _
    exact issueFall_completes h (by rw [hb]; rfl)

end Sys2Proof.Laws
end

section
/-! PROOFS. What vector instructions write: elements as lists, results kept of active elements, and the integer operations (R250, R251, R351 to R353,
R366 to R369). -/

namespace Sys2Proof.Laws

open Sys2Proof Sys2Proof.Machine

/-! ### Lists of elements (R351) -/

/-- A list that holds m pieces of k is cut where the pieces begin, when the fuel or the list ends with them. -/
theorem pieces_eq {α : Type} {k : Nat} (hk : 0 < k) (m f : Nat) (l : List α) (hl : k * m ≤ l.length) (hf : m ≤ f) (he : f = m ∨ l.length = k * m) :
    pieces k f l = (List.range m).map fun i => (l.drop (k * i)).take k := by
  induction m generalizing f l with
  | zero =>
    obtain rfl | he := he
    · rfl
    · rw [Nat.mul_zero, List.length_eq_zero_iff] at he
      subst he
      cases f <;> rfl
  | succ m ih =>
    obtain ⟨f, rfl⟩ : ∃ g, f = g + 1 := ⟨f - 1, by omega⟩
    rw [Nat.mul_succ] at hl he
    have full : l.isEmpty = false := by
      rw [List.isEmpty_eq_false_iff_exists_mem]
      exact List.exists_mem_of_length_pos (by omega)
    rw [pieces, full, if_neg (by simp), ih f _ (by rw [List.length_drop]; omega) (by omega) (by rw [List.length_drop]; omega), List.range_succ_eq_map,
      List.map_cons, List.map_map, Nat.mul_zero, List.drop_zero]
    congr 1
    refine List.map_congr_left fun i _ => ?_
    rw [Function.comp_apply, List.drop_drop, Nat.mul_succ, Nat.add_comm]

theorem tyBytes_pos {t : Ty} (ht : t ≠ .i4) : 0 < tyBytes t := by
  cases t <;> simp [tyBytes, tyBits] at ht ⊢

theorem tyBytes_mul_count {t : Ty} (ht : t ≠ .i4) : tyBytes t * t.count = 256 := by
  cases t <;> simp [tyBytes, tyBits, Ty.count] at ht ⊢

theorem eight_mul_tyBytes {t : Ty} (ht : t ≠ .i4) : 8 * tyBytes t = tyBits t := by
  cases t <;> simp [tyBytes, tyBits] at ht ⊢

/-- The elements that 256 bytes hold. -/
theorem elems_eq {t : Ty} (ht : t ≠ .i4) {bs : List Byte} (hb : bs.length = 256) :
    elems t bs = (List.range t.count).map fun i => natOfBytes ((bs.drop (tyBytes t * i)).take (tyBytes t)) := by
  have many : t.count ≤ bs.length := by
    rw [hb, ← tyBytes_mul_count ht]
    exact Nat.le_mul_of_pos_left _ (tyBytes_pos ht)
  have whole : bs.length = tyBytes t * t.count := hb.trans (tyBytes_mul_count ht).symm
  rw [elems, if_neg ht, pieces_eq (tyBytes_pos ht) t.count _ _ whole.ge many (.inr whole), List.map_map]
  rfl

theorem length_elems (t : Ty) {bs : List Byte} (hb : bs.length = 256) : (elems t bs).length = t.count := by
  by_cases ht : t = .i4
  · subst ht
    simp only [elems, if_true, List.length_flatMap, List.length_cons, List.length_nil, List.map_const', List.sum_replicate, hb]
    rfl
  · simp [elems_eq ht hb]

theorem elems_lt (t : Ty) {bs : List Byte} (hb : bs.length = 256) {x : Nat} (hx : x ∈ elems t bs) : x < 2 ^ tyBits t := by
  by_cases ht : t = .i4
  · subst ht
    simp only [elems, if_true, List.mem_flatMap, List.mem_cons, List.not_mem_nil, or_false] at hx
    obtain ⟨b, -, rfl | rfl⟩ := hx <;> have := b.isLt <;> simp only [tyBits] <;> omega
  · rw [elems_eq ht hb, List.mem_map] at hx
    obtain ⟨i, -, rfl⟩ := hx
    refine (natOfBytes_lt _).trans_le (Nat.pow_le_pow_right (by decide) ?_)
    rw [List.length_take, ← eight_mul_tyBytes ht]
    omega

/-- A list of n is read off its places. -/
theorem eq_map_getD {n : Nat} {l : List Nat} (h : l.length = n) : l = (List.range n).map fun j => l.getD j 0 := by
  subst h
  refine List.ext_getElem (by simp) fun i hi _ => ?_
  simp [List.getElem?_eq_getElem hi]

section
variable (s : State) (key : Nat) (n : Bool) (w : Word) (t : Ty)

theorem length_readStore (offs : List Nat) : (readStore s key n offs).1.length = offs.length := List.length_map ..

theorem length_viewBytes (a k : Nat) : (readStore s key n (rangeOffs [(a, k)])).1.length = k := by
  simp [length_readStore, rangeOffs]

@[simp] theorem length_viewElems : (viewElems s key n w t).length = t.count := length_elems t (length_viewBytes ..)

theorem viewElems_lt (j : Nat) : (viewElems s key n w t).getD j 0 < 2 ^ tyBits t := by
  rcases Nat.lt_or_ge j (viewElems s key n w t).length with h | h
  · rw [List.getD_eq_getElem _ _ h]
    exact elems_lt t (length_viewBytes ..) (List.getElem_mem h)
  · rw [List.getD_eq_default _ _ h]
    positivity

end

/-! ### Results by place -/

section
variable {a b c : List Nat} {n : Nat} (ha : a.length = n) (hb : b.length = n) (hc : c.length = n)

include ha in
theorem map1_eq (f : Nat → ElemRes) : map1 f a = (List.range n).map fun j => some (f (a.getD j 0)) := by
  conv_lhs => rw [map1, eq_map_getD ha, List.map_map]
  rfl

include ha hb in
theorem map2_eq (f : Nat → Nat → ElemRes) : map2 f a b = (List.range n).map fun j => some (f (a.getD j 0) (b.getD j 0)) := by
  conv_lhs => rw [map2, eq_map_getD ha, eq_map_getD hb, List.zip_map', List.map_map]
  rfl

include ha hb hc in
theorem map3_eq (f : Nat → Nat → Nat → ElemRes) :
    map3 f a b c = (List.range n).map fun j => some (f (a.getD j 0) (b.getD j 0) (c.getD j 0)) := by
  conv_lhs => rw [map3, eq_map_getD ha, eq_map_getD hb, eq_map_getD hc, List.zip_map', List.zip_map', List.map_map]
  rfl

end

theorem zip_range_map {α : Type} (n : Nat) (g : Nat → α) : ((List.range n).map g).zip (List.range n) = (List.range n).map fun i => (g i, i) := by
  conv_lhs => rw [← List.map_id (List.range n), List.map_map, List.zip_map']
  rfl

/-- Of results by place, those of the active elements are kept, with their flags (R352). -/
theorem collect_eq (mask : Mask) (t : Ty) (n : Nat) (g : Nat → Option ElemRes) : collect mask t ((List.range n).map g)
    = { out := (List.range n).map fun i => if active mask t i then (g i).map (·.1) else none
        flags := (List.range n).foldl (fun f i => if active mask t i then f ||| ((g i).map (·.2)).getD 0 else f) 0 } := by
  rw [collect]
  simp only [List.length_map, List.length_range, zip_range_map, List.map_map, List.foldl_map, Function.comp_def, VRes.mk.injEq]
  refine ⟨List.map_congr_left fun i _ => by split <;> rfl, ?_⟩
  congr 1
  funext f i
  cases active mask t i
  · simp
  · cases g i <;> simp

/-- An instruction with results by element writes them (R353). -/
theorem runVector_of_result {s : State} {key : Nat} {o : VOp} {t : Ty} {r : VRes}
    (h : vecResult (poisIf s key o.ctx (readPoison s key o)) key o = some (t, r)) :
    runVector s key o = finishWrite (poisIf s key o.ctx (readPoison s key o)) key o (placeRes o.vd t r.out) r.flags := by
  unfold runVector
  dsimp only
  split
  case h_15 => rw [h]
  all_goals
    rename_i hi
    simp only [vecResult, hi, reduceCtorEq] at h

theorem givesElements_of_result {s : State} {key : Nat} {o : VOp} {t : Ty} {g : Nat → Option (Nat × Nat)}
    (h : vecResult (poisIf s key o.ctx (readPoison s key o)) key o = some (t, collect o.mask t ((List.range t.count).map g))) :
    GivesElements s key o t g := by
  rw [collect_eq] at h
  have writes := runVector_of_result h
  exact writes

theorem writesElements_of_gives {s : State} {key : Nat} {o : VOp} {t : Ty} {f : Nat → Nat} {g : Nat → Nat × Nat}
    (h : GivesElements s key o t fun j => some (g j)) (hg : ∀ j, (g j).1 = f j) : WritesElements s key o t f := by
  refine ⟨_, _, h, by simp, fun i hi => ?_⟩
  simp [List.getElem?_range hi, hg]

section
variable {s u : State} {key : Nat} {o : VOp} {t : Ty} {x y z : Word} (hu : u = poisIf s key o.ctx (readPoison s key o))
include hu

theorem gives_map1 {f : Nat → ElemRes} (h : vecResult u key o = some (t, collect o.mask t (map1 f (viewElems u key o.ctx x t)))) :
    GivesElements s key o t fun j => some (f ((viewElems u key o.ctx x t).getD j 0)) := by
  rw [map1_eq (length_viewElems ..)] at h
  subst hu
  exact givesElements_of_result h

theorem gives_map2 {f : Nat → Nat → ElemRes}
    (h : vecResult u key o = some (t, collect o.mask t (map2 f (viewElems u key o.ctx x t) (viewElems u key o.ctx y t)))) :
    GivesElements s key o t fun j => some (f ((viewElems u key o.ctx x t).getD j 0) ((viewElems u key o.ctx y t).getD j 0)) := by
  rw [map2_eq (length_viewElems ..) (length_viewElems ..)] at h
  subst hu
  exact givesElements_of_result h

theorem gives_map3 {f : Nat → Nat → Nat → ElemRes} (h : vecResult u key o
      = some (t, collect o.mask t (map3 f (viewElems u key o.ctx x t) (viewElems u key o.ctx y t) (viewElems u key o.ctx z t)))) :
    GivesElements s key o t fun j =>
      some (f ((viewElems u key o.ctx x t).getD j 0) ((viewElems u key o.ctx y t).getD j 0) ((viewElems u key o.ctx z t).getD j 0)) := by
  rw [map3_eq (length_viewElems ..) (length_viewElems ..) (length_viewElems ..)] at h
  subst hu
  exact givesElements_of_result h

theorem writes_map1 {f : Nat → ElemRes} {e : Nat → Nat} (h : vecResult u key o = some (t, collect o.mask t (map1 f (viewElems u key o.ctx x t))))
    (he : ∀ j, (f ((viewElems u key o.ctx x t).getD j 0)).1 = e j) : WritesElements s key o t e :=
  writesElements_of_gives (gives_map1 hu h) he

theorem writes_map2 {f : Nat → Nat → ElemRes} {e : Nat → Nat}
    (h : vecResult u key o = some (t, collect o.mask t (map2 f (viewElems u key o.ctx x t) (viewElems u key o.ctx y t))))
    (he : ∀ j, (f ((viewElems u key o.ctx x t).getD j 0) ((viewElems u key o.ctx y t).getD j 0)).1 = e j) : WritesElements s key o t e :=
  writesElements_of_gives (gives_map2 hu h) he

theorem writes_map3 {f : Nat → Nat → Nat → ElemRes} {e : Nat → Nat} (h : vecResult u key o
      = some (t, collect o.mask t (map3 f (viewElems u key o.ctx x t) (viewElems u key o.ctx y t) (viewElems u key o.ctx z t))))
    (he : ∀ j, (f ((viewElems u key o.ctx x t).getD j 0) ((viewElems u key o.ctx y t).getD j 0) ((viewElems u key o.ctx z t).getD j 0)).1 = e j) :
    WritesElements s key o t e :=
  writesElements_of_gives (gives_map3 hu h) he

end

/-! ### Integer results (R250, R251) -/

theorem sextNat_eq_signedOf (w x : Nat) : sextNat w x = signedOf w x := by
  rw [sextNat, signedOf]
  rcases Nat.lt_or_ge (x % 2 ^ w) (2 ^ (w - 1)) with h | h
  · rw [if_neg (Nat.not_le.mpr h), if_pos h]
  · rw [if_pos h, if_neg (Nat.not_lt.mpr h)]

theorem intOf_of_lt {t : Ty} {x : Nat} (h : x < 2 ^ tyBits t) : intOf t x = if tySigned t then signedOf (tyBits t) x else (x : Int) := by
  rw [intOf, sextNat_eq_signedOf, Nat.mod_eq_of_lt h]

theorem tyMin_le_tyMax (t : Ty) : tyMin t ≤ tyMax t := by
  cases t <;> decide

theorem satInt_fst {v lo hi : Int} (h : lo ≤ hi) : (satInt v lo hi).1 = max lo (min hi v) := by
  rw [satInt]
  split
  · omega
  · split <;> omega

/-- An exact integer result is wrapped or saturated (R251). -/
theorem intResult_fst (t : Ty) (sat : Bool) (v : Int) : (intResult t sat v).1 = elementOf t sat v := by
  cases sat
  · simp [intResult, elementOf, bitsOf]
  · simp [intResult, elementOf, bitsOf, satInt_fst (tyMin_le_tyMax t)]

/-- Settles O56: each of these instructions has its results by element, which its grant writes where they are active. -/
theorem integerElements : Obligations.IntegerElements := by
  unfold Obligations.IntegerElements
  intro s key o c t d a b z x u el v ht hu hel hv
  have el_eq (w : Word) (j : Nat) : (viewElems u key o.ctx w t).getD j 0 = el w j := by rw [hel]
  have value (w : Word) (j : Nat) : intOf t (el w j) = v w j := by
    rw [hv]
    exact intOf_of_lt (by rw [hel]; exact viewElems_lt ..)
  refine ⟨fun hi => ?vadd, fun hi => ?vsub, fun hi => ?vmul, fun hi => ?vfma, fun hi => ?vmin, fun hi => ?vmax, fun hi => ?vabs, fun hi => ?vneg,
    fun hi => ?vand, fun hi => ?vor, fun hi => ?vxor, fun hi => ?vandn, fun hi => ?vshl, fun hi => ?vshr, fun hi => ?vsra⟩
  case vadd =>
    refine writes_map2 (x := o.va) (y := o.vb) (f := arith2 .add t x.sat (rmOf x.rnd o.rm)) hu (by simp only [vecResult, hi]) fun j => ?_
    simp only [el_eq, arith2, ht, if_true, intResult_fst, value]
  case vsub =>
    refine writes_map2 (x := o.va) (y := o.vb) (f := arith2 .sub t x.sat (rmOf x.rnd o.rm)) hu (by simp only [vecResult, hi]) fun j => ?_
    simp only [el_eq, arith2, ht, if_true, intResult_fst, value]
  case vmul =>
    refine writes_map2 (x := o.va) (y := o.vb) (f := arith2 .mul t x.sat (rmOf x.rnd o.rm)) hu (by simp only [vecResult, hi]) fun j => ?_
    simp only [el_eq, arith2, ht, if_true, intResult_fst, value]
  case vfma =>
    refine writes_map3 (x := o.va) (y := o.vb) (z := o.vc) (f := fmaElem t x.sat (rmOf x.rnd o.rm)) hu (by simp only [vecResult, hi]) fun j => ?_
    simp only [el_eq, fmaElem, ht, if_true, intResult_fst, value]
  case vmin =>
    refine writes_map2 (x := o.va) (y := o.vb) (f := arith2 .min t false (rmOf { ro := false, rmo := .rne } o.rm)) hu
      (by simp only [vecResult, hi]) fun j => ?_
    simp only [el_eq, arith2, ht, if_true, value]
    split <;> rfl
  case vmax =>
    refine writes_map2 (x := o.va) (y := o.vb) (f := arith2 .max t false (rmOf { ro := false, rmo := .rne } o.rm)) hu
      (by simp only [vecResult, hi]) fun j => ?_
    simp only [el_eq, arith2, ht, if_true, value]
    split <;> rfl
  case vabs =>
    refine writes_map1 (x := o.va) (f := absElem t x.sat) hu (by simp only [vecResult, hi]) fun j => ?_
    simp only [el_eq, absElem, ht, if_true, value]
    split
    · exact intResult_fst ..
    · rfl
  case vneg =>
    refine writes_map1 (x := o.va) (f := negElem t x.sat) hu (by simp only [vecResult, hi]) fun j => ?_
    simp only [el_eq, negElem, ht, if_true, intResult_fst, value]
  case vand =>
    refine writes_map2 (x := o.va) (y := o.vb) (f := fun x y => (x &&& y, 0)) hu (by simp only [vecResult, hi]) fun j => ?_
    simp only [el_eq]
  case vor =>
    refine writes_map2 (x := o.va) (y := o.vb) (f := fun x y => (x ||| y, 0)) hu (by simp only [vecResult, hi]) fun j => ?_
    simp only [el_eq]
  case vxor =>
    refine writes_map2 (x := o.va) (y := o.vb) (f := fun x y => (x ^^^ y, 0)) hu (by simp only [vecResult, hi]) fun j => ?_
    simp only [el_eq]
  case vandn =>
    refine writes_map2 (x := o.va) (y := o.vb) (f := fun x y => (x &&& (2 ^ tyBits t - 1 - y), 0)) hu (by simp only [vecResult, hi]) fun j => ?_
    simp only [el_eq]
  case vshl =>
    refine writes_map2 (x := o.va) (y := o.vb) (f := shiftElem .shl t) hu (by simp only [vecResult, hi]) fun j => ?_
    simp only [el_eq, shiftElem]
  case vshr =>
    refine writes_map2 (x := o.va) (y := o.vb) (f := shiftElem .shr t) hu (by simp only [vecResult, hi]) fun j => ?_
    simp only [el_eq, shiftElem]
  case vsra =>
    refine writes_map2 (x := o.va) (y := o.vb) (f := shiftElem .sra t) hu (by simp only [vecResult, hi]) fun j => ?_
    simp only [el_eq, shiftElem, sextNat_eq_signedOf]
    rfl

end Sys2Proof.Laws
end

section
/-! PROOFS. The other vector instructions: floating point, selection, conversion, widening, dot products, prefixes, permutes, block images, predicates
and the words for q4 (R366, R370 to R383). -/

namespace Sys2Proof.Laws

open Sys2Proof Sys2Proof.Machine

/-! ### Element functions -/

section
variable {t : Ty} (ht : t.isInt = false) (sat : Bool) (rm : Rm)
include ht

theorem arith2_add_fp : arith2 .add t sat rm = fpAdd (fractionOf t) rm := by
  funext a b
  simp [arith2, ht, fractionOf, frOf]

theorem arith2_sub_fp : arith2 .sub t sat rm = fpSub (fractionOf t) rm := by
  funext a b
  simp [arith2, ht, fractionOf, frOf]

theorem arith2_mul_fp : arith2 .mul t sat rm = fpMul (fractionOf t) rm := by
  funext a b
  simp [arith2, ht, fractionOf, frOf]

theorem arith2_min_fp : arith2 .min t sat rm = fpMinMax (fractionOf t) false := by
  funext a b
  simp [arith2, ht, fractionOf, frOf]

theorem arith2_max_fp : arith2 .max t sat rm = fpMinMax (fractionOf t) true := by
  funext a b
  simp [arith2, ht, fractionOf, frOf]

theorem fmaElem_fp : fmaElem t sat rm = fpFma (fractionOf t) rm := by
  funext a b c
  simp [fmaElem, ht, fractionOf, frOf]

theorem absElem_fp : absElem t sat = fun a => (fpAbs (fractionOf t) a, 0) := by
  funext a
  simp [absElem, ht, fractionOf, frOf]

theorem negElem_fp : negElem t sat = fun a => (fpNeg (fractionOf t) a, 0) := by
  funext a
  simp [negElem, ht, fractionOf, frOf]

end

theorem bcastVal_eq (t : Ty) (a : Word) : bcastVal t a = a.toNat % 2 ^ (if t = .t6 then 6 else tyBits t) := by
  rw [bcastVal]
  split <;> rfl

/-- VCVT takes the elements that its PART names (R373). -/
theorem cvtIndex_eq (nd ns part j : Nat) : cvtIndex nd ns part j
    = if ns < nd then (if part * ns ≤ j ∧ j < (part + 1) * ns then some (j - part * ns) else none) else some (if nd < ns then part * nd + j else j) := by
  rw [cvtIndex, Nat.add_one_mul]
  simp only [Bool.and_eq_true, decide_eq_true_eq]
  split
  · rfl
  · split <;> rfl

theorem wideElem_fp {t : Ty} (ht : t.isInt = false) (mul : Bool) (w : Ty) (wb sat : Bool) (rm : Rm) (a b : Nat) : wideElem mul t w wb sat rm a b
    = if mul then fpMul 23 rm (if wb then a else a * 2 ^ 16) (b * 2 ^ 16) else fpAdd 23 rm (if wb then a else a * 2 ^ 16) (b * 2 ^ 16) := by
  rw [wideElem, if_neg (by simp [ht])]

/-- The running results of VSCAN (R378): what stands before element j. -/
def scanBefore (f : Nat → Nat → Nat × Nat) (on : Nat → Bool) (v : Nat → Nat) (z j : Nat) : Nat :=
  (List.range j).foldl (fun q i => if on i then (f q (v i)).1 else q) z

theorem scanBefore_succ (f : Nat → Nat → Nat × Nat) (on : Nat → Bool) (v : Nat → Nat) (z j : Nat) :
    scanBefore f on v z (j + 1) = if on j then (f (scanBefore f on v z j) (v j)).1 else scanBefore f on v z j := by
  simp [scanBefore, List.range_succ]

theorem scan_foldl (f : Nat → Nat → Nat × Nat) (on : Nat → Bool) (v : Nat → Nat) (z n : Nat) :
    (List.range n).foldl (fun (q : Nat × List (Option Nat) × Nat) i =>
      if on i then ((f q.1 (v i)).1, some (f q.1 (v i)).1 :: q.2.1, q.2.2 ||| (f q.1 (v i)).2) else (q.1, none :: q.2.1, q.2.2)) (z, [], 0)
    = (scanBefore f on v z n, ((List.range n).map fun i => if on i then some (f (scanBefore f on v z i) (v i)).1 else none).reverse,
        (List.range n).foldl (fun g i => if on i then g ||| (f (scanBefore f on v z i) (v i)).2 else g) 0) := by
  induction n with
  | zero => rfl
  | succ n ih =>
    rw [List.range_succ, List.foldl_append, ih, List.map_append, List.foldl_append, scanBefore_succ]
    simp only [List.foldl_cons, List.foldl_nil, List.map_cons, List.map_nil, List.reverse_append, List.reverse_singleton, List.singleton_append]
    cases on n <;> rfl

theorem zip_range_getD {n : Nat} {a : List Nat} (ha : a.length = n) : a.zip (List.range a.length) = (List.range n).map fun i => (a.getD i 0, i) := by
  rw [ha]
  conv_lhs => rw [eq_map_getD ha, zip_range_map]

/-- The operation of VSCAN, as one of R366. -/
def scanArith : ScanOp → ArithOp
  | .add => .add
  | .max => .max

/-- What VSCAN begins with: the identity of its operation (R378). -/
def scanUnit (op : ScanOp) (t : Ty) : Nat :=
  match op, t.isInt with
  | .add, true => 0
  | .max, true => (tyMin t % 2 ^ tyBits t).toNat
  | .add, false => zeroBits (fractionOf t) true
  | .max, false => infBits (fractionOf t) true

theorem scanAll_foldl {n : Nat} {a : List Nat} (ha : a.length = n) (op : ScanOp) (t : Ty) (sat : Bool) (rm : Rm) (mask : Mask)
    {f : Nat → Nat → Nat × Nat} (hf : f = arith2 (scanArith op) t sat rm) {q : Nat × List (Option Nat) × Nat}
    (hq : q = (List.range n).foldl (fun (q : Nat × List (Option Nat) × Nat) i => if active mask t i then
      ((f q.1 (a.getD i 0)).1, some (f q.1 (a.getD i 0)).1 :: q.2.1, q.2.2 ||| (f q.1 (a.getD i 0)).2) else (q.1, none :: q.2.1, q.2.2))
      (scanUnit op t, [], 0)) : scanAll op t sat rm mask a = { out := q.2.1.reverse, flags := q.2.2 } := by
  subst hf hq
  unfold scanAll scanUnit
  rw [zip_range_getD ha]
  simp only [List.foldl_map]
  have mod (w : Nat) (v : Int) : bitsOf w v = (v % 2 ^ w).toNat := by simp [bitsOf]
  cases op <;> cases t.isInt <;> simp only [scanArith, mod] <;> rfl

theorem scanAll_eq {n : Nat} {a : List Nat} (ha : a.length = n) (op : ScanOp) (t : Ty) (sat : Bool) (rm : Rm) (mask : Mask)
    {f : Nat → Nat → Nat × Nat} (hf : f = arith2 (scanArith op) t sat rm) {run : Nat → Nat}
    (hr : run = scanBefore f (active mask t) (a.getD · 0) (scanUnit op t)) :
    scanAll op t sat rm mask a
      = { out := (List.range n).map fun i => if active mask t i then some (f (run i) (a.getD i 0)).1 else none
          flags := (List.range n).foldl (fun g i => if active mask t i then g ||| (f (run i) (a.getD i 0)).2 else g) 0 } := by
  rw [scanAll_foldl ha op t sat rm mask hf (scan_foldl f (active mask t) (a.getD · 0) (scanUnit op t) n).symm, List.reverse_reverse, hr]

theorem getD_append_at (a b : List Nat) (k : Nat) : (a ++ b).getD k 0 = if k < a.length then a.getD k 0 else b.getD (k - a.length) 0 := by
  split
  case isTrue h => exact List.getD_append _ _ _ _ h
  case isFalse h => exact List.getD_append_right _ _ _ _ (Nat.le_of_not_lt h)

section
variable {n : Nat} {a b : List Nat} (ha : a.length = n) (hb : b.length = n)

include ha hb in
theorem zip_getD : a.zip b = (List.range n).map fun i => (a.getD i 0, b.getD i 0) := by
  conv_lhs => rw [eq_map_getD ha, eq_map_getD hb, List.zip_map']

include ha hb in
theorem permAll_eq : permAll a b = (List.range n).map fun i => some (a.getD (b.getD i 0 % n) 0, 0) := by
  rw [permAll, ha]
  conv_lhs => rw [eq_map_getD hb, List.map_map]
  rfl

include ha in
theorem shufAll_eq (m : ShufMode) {pick both : Nat → Nat → Nat} (hp : pick = fun i k => if i % 2 = 0 then a.getD k 0 else b.getD k 0)
    (hq : both = fun _ k => if k < n then a.getD k 0 else b.getD (k - n) 0) :
    shufAll m a b = (List.range n).map fun i => some (match m with
      | .lo => pick i (i / 2)
      | .hi => pick i (i / 2 + n / 2)
      | .ev => both i (2 * i)
      | .od => both i (2 * i + 1), 0) := by
  subst hp hq
  unfold shufAll
  simp only [getD_append_at, ha]
  cases m <;> rfl

end

/-! ### Comparisons (R370) -/

theorem tyBits_le (t : Ty) : tyBits t ≤ 64 := by
  cases t <;> decide

theorem tyBits_pos (t : Ty) : 0 < tyBits t := by
  cases t <;> decide

theorem signedOf_bounds {w : Nat} (hw : 0 < w) (hw2 : w ≤ 64) (x : Nat) : -2 ^ 63 ≤ signedOf w x ∧ signedOf w x < 2 ^ 63 := by
  obtain ⟨v, rfl⟩ : ∃ v, w = v + 1 := ⟨w - 1, by omega⟩
  have le : 2 ^ v ≤ 2 ^ 63 := Nat.pow_le_pow_right (by decide) (by omega)
  have lt : x % 2 ^ (v + 1) < 2 ^ (v + 1) := Nat.mod_lt _ (by positivity)
  rw [signedOf, Nat.add_sub_cancel]
  rw [Nat.pow_succ] at lt ⊢
  split <;> omega

theorem toInt_ofInt_signedOf {w : Nat} (hw : 0 < w) (hw2 : w ≤ 64) (x : Nat) : (BitVec.ofInt 64 (signedOf w x)).toInt = signedOf w x :=
  BitVec.toInt_ofInt_eq_self (by decide) (signedOf_bounds hw hw2 x).1 (signedOf_bounds hw hw2 x).2

theorem cmpElem_int {t : Ty} (ht : t.isInt = true) (k : Cond) (a b : Nat) : cmpElem k t a b = (integerCompare k (tyBits t) a b, 0) := by
  have signed (x : Nat) := toInt_ofInt_signedOf (tyBits_pos t) (tyBits_le t) x
  have unsigned (x : Nat) : (BitVec.ofNat 64 (x % 2 ^ tyBits t)).toNat = x % 2 ^ tyBits t := by
    rw [BitVec.toNat_ofNat, Nat.mod_eq_of_lt]
    exact (Nat.mod_lt _ (by positivity)).trans_le (Nat.pow_le_pow_right (by decide) (tyBits_le t))
  have same : (BitVec.ofInt 64 (signedOf (tyBits t) a) = BitVec.ofInt 64 (signedOf (tyBits t) b)) ↔ signedOf (tyBits t) a = signedOf (tyBits t) b := by
    rw [← BitVec.toInt_inj, signed, signed]
  rw [cmpElem, if_pos ht]
  cases k
  all_goals simp only [condHolds, integerCompare, sextNat_eq_signedOf, signed, unsigned, bne, Bool.beq_eq_decide_eq, same]

/-- The bits of an element's bytes. -/
theorem getLsbD_elementBits (b i j : Nat) : (BitVec.ofNat 256 ((2 ^ b - 1) * 2 ^ (i * b)) : Mask).getLsbD j
    = (decide (j < 256) && decide (i * b ≤ j ∧ j < (i + 1) * b)) := by
  rw [BitVec.getLsbD_ofNat, Nat.testBit_mul_two_pow, Nat.testBit_two_pow_sub_one, Nat.add_one_mul]
  congr 1
  rw [Bool.eq_iff_iff]
  simp only [Bool.and_eq_true, decide_eq_true_eq]
  omega

/-- An element's bits set or cleared. -/
theorem getLsbD_setElement (m : Mask) (b i j : Nat) (hj : j < 256) (v : Bool) :
    (if v = true then m ||| BitVec.ofNat 256 ((2 ^ b - 1) * 2 ^ (i * b)) else m &&& ~~~BitVec.ofNat 256 ((2 ^ b - 1) * 2 ^ (i * b))).getLsbD j
      = if i * b ≤ j ∧ j < (i + 1) * b then v else m.getLsbD j := by
  cases v <;> by_cases h : i * b ≤ j ∧ j < (i + 1) * b
  all_goals simp only [Bool.false_eq_true, if_false, if_true, BitVec.getLsbD_or, BitVec.getLsbD_and, BitVec.getLsbD_not, getLsbD_elementBits, hj, h,
    decide_true, decide_false, and_self, Bool.and_true, Bool.and_false, Bool.not_true, Bool.not_false, Bool.or_true, Bool.or_false]

/-- The predicate that VCMP leaves, and its flags (R370). -/
theorem cmpPred_foldl (old mask : Mask) (t : Ty) (ht : t ≠ .i4) (res : Nat → Bool × Nat) (n : Nat) :
    let r := cmpPred old mask t ((List.range n).map res)
    (∀ j < 256, r.1.getLsbD j = if j / tyBytes t < n ∧ active mask t (j / tyBytes t) = true then (res (j / tyBytes t)).1 else old.getLsbD j)
    ∧ r.2 = (List.range n).foldl (fun g i => if active mask t i then g ||| (res i).2 else g) 0 := by
  rw [cmpPred, List.length_map, List.length_range, zip_range_map, List.foldl_map]
  induction n with
  | zero => simp
  | succ n ih =>
    obtain ⟨bits, flags⟩ := ih
    rw [List.range_succ, List.foldl_append, List.foldl_append, List.foldl_cons, List.foldl_nil, List.foldl_cons, List.foldl_nil, ← flags]
    cases on : active mask t n
    · refine ⟨fun j hj => ?_, rfl⟩
      simp only [Bool.false_eq_true, if_false]
      rw [bits j hj]
      refine if_congr ⟨fun h => ⟨by omega, h.2⟩, fun ⟨lt, h⟩ => ⟨lt_of_le_of_ne (by omega) ?_, h⟩⟩ rfl rfl
      rintro rfl
      simp [on] at h
    · refine ⟨fun j hj => ?_, rfl⟩
      have place : (n * tyBytes t ≤ j ∧ j < (n + 1) * tyBytes t) ↔ j / tyBytes t = n := by
        rw [← Nat.le_div_iff_mul_le (tyBytes_pos ht), ← Nat.div_lt_iff_lt_mul (tyBytes_pos ht)]
        omega
      simp only [if_true, getLsbD_setElement _ _ _ _ hj, place, bits j hj]
      by_cases hn : j / tyBytes t = n
      · simp [hn, on]
      · have lt : j / tyBytes t < n + 1 ↔ j / tyBytes t < n := by omega
        simp only [lt, hn, if_false]

theorem getLsbD_mergeMask (old new mask : Mask) {j : Nat} (hj : j < 256) :
    (mergeMask old new mask).getLsbD j = if mask.getLsbD j then new.getLsbD j else old.getLsbD j := by
  rw [mergeMask, BitVec.getLsbD_or, BitVec.getLsbD_and, BitVec.getLsbD_and, BitVec.getLsbD_not, decide_eq_true hj]
  cases mask.getLsbD j <;> simp

/-! ### Words for q4 (R376, R377) -/

section
variable (f : Nat → Nat → Nat × Nat)

/-- Flags of results 0 to n - 1, OR-ed. -/
def flagsOf (n : Nat) (e : Nat → Nat) : Nat := (List.range n).foldl (fun g i => g ||| e i) 0

theorem foldl_or (l : List Nat) (e : Nat → Nat) (z : Nat) : l.foldl (fun g i => g ||| e i) z = z ||| l.foldl (fun g i => g ||| e i) 0 := by
  induction l generalizing z with
  | nil => simp
  | cons a l ih => rw [List.foldl_cons, List.foldl_cons, ih, ih (0 ||| e a), Nat.zero_or, Nat.or_assoc]

theorem flagsOf_add (m n : Nat) (e : Nat → Nat) : flagsOf (m + n) e = flagsOf m e ||| flagsOf n fun i => e (m + i) := by
  rw [flagsOf, List.range_add, List.foldl_append, foldl_or, List.foldl_map]
  rfl

theorem treeLevel_eq (m : Nat) (x : Nat → Nat) : treeLevel f ((List.range (2 * m)).map x)
    = ((List.range m).map fun i => (f (x (2 * i)) (x (2 * i + 1))).1, flagsOf m fun i => (f (x (2 * i)) (x (2 * i + 1))).2) := by
  induction m generalizing x with
  | zero => rfl
  | succ m ih =>
    have two : 2 * (m + 1) = 2 * m + 1 + 1 := rfl
    have next (i : Nat) : 2 * (i + 1) = 2 * i + 1 + 1 := rfl
    have first (e : Nat → Nat) : flagsOf (m + 1) e = e 0 ||| flagsOf m fun i => e (i + 1) := by
      rw [Nat.add_comm m 1, flagsOf_add]
      simp only [Nat.add_comm 1]
      exact congrArg (· ||| _) (Nat.zero_or _)
    rw [two, List.range_succ_eq_map, List.range_succ_eq_map, List.range_succ_eq_map, first]
    simp only [List.map_cons, List.map_map, treeLevel, Function.comp_def]
    rw [ih fun i => x (i + 1 + 1)]
    simp only [next]

/-- A tree over the numbers x is one over the results of its lowest level, with the flags of that level. -/
theorem treeNode_succ (x : Nat → Nat) (l i : Nat) : treeNode f x (l + 1) i
    = ((treeNode f (fun j => (f (x (2 * j)) (x (2 * j + 1))).1) l i).1,
        (treeNode f (fun j => (f (x (2 * j)) (x (2 * j + 1))).1) l i).2
          ||| flagsOf (2 ^ l) fun j => (f (x (2 * (i * 2 ^ l + j))) (x (2 * (i * 2 ^ l + j) + 1))).2) := by
  induction l generalizing i with
  | zero => simp [treeNode, flagsOf]
  | succ l ih =>
    rw [treeNode, ih, ih, treeNode, Nat.pow_succ, Nat.mul_two, flagsOf_add]
    have even : i * (2 ^ l + 2 ^ l) = 2 * i * 2 ^ l := by ring
    have odd (j : Nat) : i * (2 ^ l + 2 ^ l) + (2 ^ l + j) = (2 * i + 1) * 2 ^ l + j := by ring
    simp only [odd]
    simp only [even, Prod.mk.injEq, true_and]
    ac_rfl

theorem treeRed_eq (l n : Nat) (hn : l ≤ n) (x : Nat → Nat) : treeRed f n ((List.range (2 ^ l)).map x) = treeNode f x l 0 := by
  induction l generalizing n x with
  | zero => cases n <;> rfl
  | succ l ih =>
    obtain ⟨n, rfl⟩ : ∃ m, n = m + 1 := ⟨n - 1, by omega⟩
    rw [treeNode_succ, Nat.pow_succ, Nat.mul_comm]
    have long (y : Nat) : (List.range (2 * 2 ^ l)).map x ≠ [y] := fun h => by
      have len := congrArg List.length h
      rw [List.length_map, List.length_range, List.length_singleton] at len
      omega
    rw [treeRed]
    · simp only [treeLevel_eq, ih n (by omega), Nat.zero_mul, Nat.zero_add]
    · exact long

end

section
variable {n : Nat} {a : List Nat} (ha : a.length = n) {t : Ty} (rm : Rm) (mask : Mask)
include ha

/-- VRED of integers: the active elements in order (R377). -/
theorem redAll_int (ht : t.isInt = true) (op : RedOp) {on : List Nat} (hon : on = (List.range n).filter (active mask t)) : redAll op t rm mask a
    = (match op with
      | .add => BitVec.ofInt 64 (on.map fun j => intOf t (a.getD j 0)).sum
      | .max => BitVec.ofInt 64 (on.foldl (fun m j => max m (intOf t (a.getD j 0))) (tyMin t))
      | .min => BitVec.ofInt 64 (on.foldl (fun m j => min m (intOf t (a.getD j 0))) (tyMax t))
      | .and => BitVec.ofInt 64 (intOf t (on.foldl (fun m j => m &&& a.getD j 0) (2 ^ tyBits t - 1)))
      | .or => BitVec.ofInt 64 (intOf t (on.foldl (fun m j => m ||| a.getD j 0) 0)), 0) := by
  unfold redAll
  rw [zip_range_getD ha, if_pos ht, hon]
  simp only [List.foldl_map, List.foldl_filter, extWord, ht, if_true, List.sum_eq_foldl]
  cases op <;> rfl

/-- VRED of floating-point numbers: the fixed tree, with the identity for an inactive element (R377). -/
theorem redAll_fp (ht : t.isInt = false) (op : RedOp) {l : Nat} (hl : l ≤ 8) (hn : n = 2 ^ l) {r : Nat × Nat}
    (hr : r = treeNode (match op with | .max => fpMinMax 23 true | .min => fpMinMax 23 false | _ => fpAdd 23 rm)
      (fun j => if active mask t j then (if t = .bf16 then a.getD j 0 * 2 ^ 16 else a.getD j 0)
        else match op with | .max => infBits 23 true | .min => infBits 23 false | _ => zeroBits 23 true) l 0) :
    redAll op t rm mask a = (BitVec.ofNat 64 r.1, r.2) := by
  unfold redAll
  rw [zip_range_getD ha, if_neg (by simp [ht])]
  dsimp only
  rw [List.map_map, hr, hn, ← treeRed_eq _ l 8 hl]
  cases op <;> rfl

end

/-! ### Block images (R381, R382) -/

theorem length_bsEncode (w : Nat) (rm : Rm) (xs : List FV) : (bsEncode w rm xs).1.length = xs.length := by
  unfold bsEncode
  dsimp only
  split
  · simp
  · split <;> simp

theorem length_image {ms : List Int} (h : ms.length = 64) (k : Nat) (g : Int → Nat) (e : Nat) :
    ((ms.flatMap fun m => bytesOfNat k (g m)) ++ bytesOfNat 8 e).length = 64 * k + 8 := by
  simp only [List.length_append, List.length_flatMap, length_bytesOfNat, List.map_const', List.sum_replicate, smul_eq_mul, h]

theorem blockParts_fst {k : Nat} (w16 : Bool) (hk : k = if w16 then 2 else 1) {bs : List Byte} (hb : 64 * k ≤ bs.length) :
    (blockParts w16 bs).1 = (List.range 64).map fun j => signedOf (8 * k) (natOfBytes ((bs.drop (k * j)).take k)) := by
  have pos : 0 < k := by
    rw [hk]
    split <;> decide
  unfold blockParts
  rw [← hk]
  dsimp only
  rw [pieces_eq pos 64 64 bs (by omega) le_rfl (.inl rfl), List.take_of_length_le (by simp), List.map_map]
  simp only [Function.comp_def, sextNat_eq_signedOf]

/-- The image of VBS, and its flags (R381). -/
theorem vbsAll_eq {k : Nat} (w16 : Bool) (hk : k = if w16 then 2 else 1) {rm : Rm} {a : List Nat} {ms : List Int} {e f : Nat}
    (h : bsEncode (8 * k) rm (a.map (unpack 23)) = (ms, e, f)) :
    vbsAll w16 rm a = ((ms.flatMap fun m => bytesOfNat k (m % 2 ^ (8 * k)).toNat) ++ bytesOfNat 8 e, f) := by
  have width : (if w16 then 16 else 8) = 8 * k := by
    rw [hk]
    cases w16 <;> rfl
  simp [vbsAll, blockImage, width, ← hk, h, bitsOf]

/-- What VUNBS decodes (R382). -/
theorem vunbsAll_eq {k : Nat} (w16 : Bool) (hk : k = if w16 then 2 else 1) {bs : List Byte} (hb : 64 * k ≤ bs.length) : vunbsAll w16 bs
    = (List.range 64).map fun j =>
      some (bsDecode (8 * k) (bs.getD (64 * k) 0).toNat (signedOf (8 * k) (natOfBytes ((bs.drop (k * j)).take k)))) := by
  have width : (if w16 then 16 else 8) = 8 * k := by
    rw [hk]
    cases w16 <;> rfl
  unfold vunbsAll
  simp only [width, blockParts_fst w16 hk hb, List.map_map]
  rw [hk]
  rfl

/-- A view covers a block image, whatever its kind (R179, R381). -/
theorem length_viewRows_ge (w : Word) {n : Nat} (hn : n ≤ 1024) : n ≤ (rangeOffs (viewRows w n)).length := by
  have least : 32 ≤ viewK w := by
    rw [viewK]
    exact Nat.le_mul_of_pos_right _ (by positivity)
  unfold viewRows rangeOffs
  split
  all_goals
    simp only [List.length_flatMap, List.length_map, List.length_range, List.map_map, Function.comp_def, List.map_const', List.sum_replicate,
      smul_eq_mul, List.map_cons, List.map_nil, List.sum_cons, List.sum_nil]
    omega

end Sys2Proof.Laws
end

section
/-! PROOFS. What the other vector instructions give at their grant (R352, R353, R366, R370 to R383). -/

namespace Sys2Proof.Laws

open Sys2Proof Sys2Proof.Machine

section
variable {s u : State} {key : Nat} {o : VOp} (hu : u = poisIf s key o.ctx (readPoison s key o))
include hu

theorem gives_of_result {t : Ty} {g : Nat → Option (Nat × Nat)} (h : vecResult u key o = some (t, collect o.mask t ((List.range t.count).map g))) :
    GivesElements s key o t g := by
  subst hu
  exact givesElements_of_result h

theorem readP_marked (p : Fin 8) : (u.ctx key o.ctx).readP p = (s.ctx key o.ctx).readP p := by
  rw [hu, poisIf]
  split
  · rw [State.ctx_modCtx_same]
    rfl
  · rfl

/-- VBS writes its block image from its view's first byte on (R381). -/
theorem runVector_vbs {wt : Fin 4} {t : Ty} {d : Fin 16} {a : Use (Fin 16)} {w16 : Bool} {r : Rnd} {k e f : Nat} {ms : List Int}
    (hk : k = if w16 then 2 else 1) (hi : o.instr = .vbs wt t d a w16 r)
    (henc : bsEncode (8 * k) (rmOf r o.rm) ((List.range 64).map fun j => unpack 23 ((viewElems u key o.ctx o.va .f32).getD j 0)) = (ms, e, f)) :
    runVector s key o = finishWrite u key o
      (((ms.flatMap fun m => bytesOfNat k (m % 2 ^ (8 * k)).toNat) ++ bytesOfNat 8 e).zip (List.range (64 * k + 8)) |>.map fun p =>
        (viewBase o.vd * 64 + p.2, p.1)) f := by
  have source : (viewElems u key o.ctx o.va .f32).map (unpack 23) = (List.range 64).map fun j => unpack 23 ((viewElems u key o.ctx o.va .f32).getD j 0) := by
    conv_lhs => rw [eq_map_getD (length_viewElems u key o.ctx o.va .f32), List.map_map]
    rfl
  have count : ms.length = 64 := by
    have len := congrArg (fun q => q.1.length) henc
    rw [length_bsEncode, List.length_map, List.length_range] at len
    exact len.symm
  rw [← source] at henc
  simp only [runVector, hi, ← hu, vbsAll_eq w16 hk henc, length_image count]

end

/-- Settles O57: each instruction's results by element, its predicate, its image or its word. -/
theorem vectorElements : Obligations.VectorElements := by
  unfold Obligations.VectorElements
  intro s key o c t d a b z x r wt u el fr rm rmr hu hel hfr hrm hrmr
  subst hel
  change rm = rmOf x.rnd o.rm at hrm
  change rmr = rmOf r o.rm at hrmr
  refine ⟨fun ht => ?fp, fun p hi => ?sel, fun g hi => ?bcast, fun src part hi => ?cvt, fun w part wb i hw hix => ?wide, fun g hg hi => ?dot,
    fun op f z run hi hf hz hrun ht => ?scan, fun hi => ?perm, fun m hi => ?shuf, fun sh hi => ?slide, fun w16 k hk => ?bs,
    fun k p res hi ht hres hint => ?cmp, fun p q w => ?preds, fun idx hi => ?ext, fun op on hi hon => ?red⟩
  case fp =>
    have notInt : t.isInt = false := by obtain rfl | rfl := ht <;> rfl
    refine ⟨fun hi => ?_, fun hi => ?_, fun hi => ?_, fun hi => ?_, fun hi => ?_, fun hi => ?_, fun hi => ?_, fun hi => ?_, fun hi => ?_, fun hi => ?_,
      fun hi => ?_⟩
    · exact gives_map2 (x := o.va) (y := o.vb) (f := fpAdd fr rm) hu (by simp only [vecResult, hi, hfr, hrm, arith2_add_fp notInt])
    · exact gives_map2 (x := o.va) (y := o.vb) (f := fpSub fr rm) hu (by simp only [vecResult, hi, hfr, hrm, arith2_sub_fp notInt])
    · exact gives_map2 (x := o.va) (y := o.vb) (f := fpMul fr rm) hu (by simp only [vecResult, hi, hfr, hrm, arith2_mul_fp notInt])
    · exact gives_map3 (x := o.va) (y := o.vb) (z := o.vc) (f := fpFma fr rm) hu (by simp only [vecResult, hi, hfr, hrm, fmaElem_fp notInt])
    · exact gives_map2 (x := o.va) (y := o.vb) (f := fpMinMax fr false) hu (by simp only [vecResult, hi, hfr, arith2_min_fp notInt])
    · exact gives_map2 (x := o.va) (y := o.vb) (f := fpMinMax fr true) hu (by simp only [vecResult, hi, hfr, arith2_max_fp notInt])
    · exact gives_map1 (x := o.va) (f := fun a => (fpAbs fr a, 0)) hu (by simp only [vecResult, hi, hfr, absElem_fp notInt])
    · exact gives_map1 (x := o.va) (f := fun a => (fpNeg fr a, 0)) hu (by simp only [vecResult, hi, hfr, negElem_fp notInt])
    · exact gives_map1 (x := o.va) (f := fpRcp fr rmr) hu (by simp only [vecResult, hi, hfr, hrmr]; rfl)
    · exact gives_map1 (x := o.va) (f := fpRsq fr rmr) hu (by simp only [vecResult, hi, hfr, hrmr]; rfl)
    · exact gives_map1 (x := o.va) (f := fpExp2 fr rmr) hu (by simp only [vecResult, hi, hfr, hrmr]; rfl)
  case sel =>
    refine gives_of_result hu ?_
    simp only [vecResult, hi]
    rw [zip_getD (length_viewElems ..) (length_viewElems ..), zip_range_map, List.map_map]
    rfl
  case bcast => exact gives_of_result hu (by simp only [vecResult, hi, bcastVal_eq])
  case cvt =>
    refine gives_of_result hu ?_
    simp only [vecResult, hi, cvtAll, cvtIndex_eq, hrm]
    congr
    funext j
    split
    · split <;> rfl
    · rfl
  case wide =>
    subst hix
    refine ⟨fun ht v hv => ⟨fun hi => ?_, fun hi => ?_⟩, fun ht v hv => ⟨fun hi => ?_, fun hi => ?_⟩⟩
    case refine_1 | refine_2 =>
      refine gives_of_result hu ?_
      simp only [vecResult, hi, hw, Option.bind_some, wideAll, wideElem, ht, hv, if_true]
      cases wb <;> rfl
    case refine_3 | refine_4 =>
      have notInt : t.isInt = false := by rw [ht]; rfl
      refine gives_of_result hu ?_
      simp only [vecResult, hi, hw, Option.bind_some, wideAll, wideElem_fp notInt, hv, hrm, Bool.false_eq_true, if_false, if_true]
      cases wb <;> simp only [Bool.false_eq_true, if_false, if_true]
  case dot =>
    subst hg
    refine ⟨fun ht => gives_of_result hu ?_, fun ht => gives_of_result hu ?_⟩
    · simp only [vecResult, hi, dotAll, dotGroup, ht, if_true, List.foldl_map, List.sum_eq_foldl]
      rfl
    · subst ht
      simp only [vecResult, hi, dotAll, dotGroup, hrm]
      rfl
  case scan =>
    have unit : z = scanUnit op t := by
      rw [hz]
      unfold scanUnit
      cases op <;> cases t.isInt <;> simp only [hfr]
    have step : f = arith2 (scanArith op) t x.sat rm := by
      rw [hf]
      cases op <;> rfl
    have result : vecResult u key o = some (t, scanAll op t x.sat rm o.mask (viewElems u key o.ctx o.va t)) := by simp only [vecResult, hi, hrm]
    rw [scanAll_eq (length_viewElems ..) op t x.sat rm o.mask step (run := run) (by rw [hrun, unit]; rfl)] at result
    subst hu
    have writes := runVector_of_result result
    exact writes
  case perm => exact gives_of_result hu (by simp only [vecResult, hi, permAll_eq (length_viewElems ..) (length_viewElems ..)])
  case shuf =>
    refine gives_of_result hu ?_
    simp only [vecResult, hi, shufAll_eq (length_viewElems ..) m rfl rfl] <;> rfl
  case slide =>
    refine gives_of_result hu ?_
    simp only [vecResult, hi, slideAll, length_viewElems]
  case bs =>
    refine ⟨fun hi ms e f henc => ?_, fun bs hi hbs => gives_of_result hu ?_⟩
    · rw [hrmr] at henc
      exact runVector_vbs hu hk hi henc
    · have long : 64 * k ≤ bs.length := by
        rw [hbs, length_readStore]
        exact (Nat.le_add_right _ 8).trans (length_viewRows_ge _ (by rw [hk]; split <;> decide))
      have span : (if w16 then 136 else 72) = 64 * k + 8 := by
        rw [hk]
        cases w16 <;> rfl
      simp only [vecResult, hi, span, ← hbs, vunbsAll_eq w16 hk long]
      rfl
  case cmp =>
    have results : ((viewElems u key o.ctx o.va t).zip (viewElems u key o.ctx o.vb t)).map (fun p => cmpElem k t p.1 p.2)
        = (List.range t.count).map res := by
      rw [zip_getD (length_viewElems ..) (length_viewElems ..), List.map_map]
      refine List.map_congr_left fun i _ => ?_
      rw [hres, hfr]
      cases hn : t.isInt
      · simp only [Function.comp_apply, cmpElem, hn, Bool.false_eq_true, if_false]
        rfl
      · simp only [Function.comp_apply, cmpElem_int hn, if_true]
    obtain ⟨bits, flags⟩ := cmpPred_foldl ((u.ctx key o.ctx).readP p) o.mask t ht res t.count
    refine ⟨(cmpPred ((u.ctx key o.ctx).readP p) o.mask t ((List.range t.count).map res)).1, ?_, fun j hj => ?_⟩
    · simp only [runVector, hi, ← hu, results, flags]
    · have inside : j / tyBytes t < t.count := by
        rw [Nat.div_lt_iff_lt_mul (tyBytes_pos ht), Nat.mul_comm, tyBytes_mul_count ht]
        exact hj
      rw [bits j hj, readP_marked hu]
      simp only [inside, true_and]
  case preds =>
    have old := readP_marked hu p
    have merge (new : Mask) (bit : Nat → Bool) (hb : ∀ j < 256, new.getLsbD j = bit j)
        (hr : runVector s key o = u.modCtx key o.ctx fun c => c.writeP p (mergeMask (c.readP p) new o.mask)) :
        ∃ m, runVector s key o = u.modCtx key o.ctx (fun k => k.writeP p m)
          ∧ ∀ j < 256, m.getLsbD j = if o.mask.getLsbD j then bit j else ((s.ctx key o.ctx).readP p).getLsbD j :=
      ⟨mergeMask ((u.ctx key o.ctx).readP p) new o.mask, hr, fun j hj => by rw [getLsbD_mergeMask _ _ _ hj, old, hb j hj]⟩
    refine ⟨fun hi => ?_, fun hi => ?_, fun hi => ?_, fun hi => ?_⟩
    · exact merge (o.pa &&& o.pb) _ (fun j _ => BitVec.getLsbD_and) (by simp only [runVector, hi, ← hu])
    · exact merge (o.pa ||| o.pb) _ (fun j _ => BitVec.getLsbD_or) (by simp only [runVector, hi, ← hu])
    · exact merge (~~~o.pa) (fun j => !o.pa.getLsbD j) (fun j hj => by simp [hj]) (by simp only [runVector, hi, ← hu])
    · simp only [runVector, hi, ← hu, List.countP_eq_length_filter, BitVec.getLsbD_and]
  case ext =>
    simp only [runVector, hi, ← hu, extWord]
  case red =>
    refine ⟨fun ht => ?_, fun ht hop n hn => ?_⟩
    · simp only [runVector, hi, ← hu, redAll_int (length_viewElems ..) _ _ ht op hon] <;> rfl
    · simp only [runVector, hi, ← hu, ← hrmr]
      obtain rfl | rfl := ht
      · rw [redAll_fp (length_viewElems u key o.ctx o.va .f32) rmr o.mask rfl op (l := 6) (by decide) rfl hn]
      · rw [redAll_fp (length_viewElems u key o.ctx o.va .bf16) rmr o.mask rfl op (l := 7) (by decide) rfl hn]

end Sys2Proof.Laws
end

section
/-! PROOFS. Accumulators and products: what MMA, MMA.RA, MMAR, MZERO and MACC leave (R263, R390, R391, R393, R395, R396). -/

namespace Sys2Proof.Laws

open Sys2Proof Sys2Proof.Machine

/-! ### Tables of 32 by 32 -/

@[simp] theorem elems_nil (t : Ty) : elems t [] = [] := by
  rw [elems]
  split <;> rfl

/-- A row of whole elements holds as many as its length says. -/
theorem length_elems_of {t : Ty} (ht : t ≠ .i4) {m : Nat} {bs : List Byte} (hb : bs.length = tyBytes t * m) : (elems t bs).length = m := by
  have many : m ≤ bs.length := by
    rw [hb]
    exact Nat.le_mul_of_pos_left _ (tyBytes_pos ht)
  rw [elems, if_neg ht, pieces_eq (tyBytes_pos ht) m _ _ hb.ge many (.inr hb), List.length_map, List.length_map, List.length_range]

theorem getD_map_of_default {α β : Type} (f : α → β) (l : List α) (i : Nat) (d : α) (e : β) (h : f d = e) : (l.map f).getD i e = f (l.getD i d) := by
  rw [← h, List.getD_map]

theorem list_eq_map_getD {α : Type} {n : Nat} {l : List α} (h : l.length = n) (d : α) : l = (List.range n).map fun i => l.getD i d := by
  subst h
  refine List.ext_getElem (by simp) fun i hi _ => ?_
  simp [List.getElem?_eq_getElem hi]

section
variable (s : State) (key : Nat) (n : Bool) {w : Word} (hw : viewKind w = .c)
include hw

theorem length_viewTile : (viewTile s key n w).length = 32 := by
  simp [viewTile, viewRows, hw]

theorem length_viewTile_row {i : Nat} (hi : i < 32) : ((viewTile s key n w).getD i []).length = 128 := by
  have row : (viewTile s key n w)[i]? = some (readStore s key n ((List.range 128).map fun k => viewBase w * 64 + i * viewPitch w + k)).1 := by
    simp [viewTile, viewRows, hw, hi]
  rw [List.getD_eq_getElem?_getD, row, Option.getD_some, length_readStore, List.length_map, List.length_range]

/-- The accumulators in a C view, row by row. -/
theorem viewTile_elems : (viewTile s key n w).map (elems .i32)
    = (List.range 32).map fun i => (List.range 32).map fun j => (elems .i32 ((viewTile s key n w).getD i [])).getD j 0 := by
  conv_lhs => rw [list_eq_map_getD (length_viewTile s key n hw) [], List.map_map]
  refine List.map_congr_left fun i hi => ?_
  exact eq_map_getD (length_elems_of (by decide) (length_viewTile_row s key n hw (List.mem_range.mp hi)))

end

/-- A product over a table of accumulators is a table of results, with their flags. -/
theorem product_eq (acc : Nat → Nat → Nat) (g : Nat → Nat → Nat → ElemRes) :
    product ((List.range 32).map fun i => (List.range 32).map (acc i)) g
      = (tableRows fun i j => g i j (acc i j), tableFlags fun i j => g i j (acc i j)) := by
  have rows (n : Nat) : (List.range n).foldl (fun (r : List (List Nat) × Nat) i =>
      (r.1 ++ [(List.range 32).map fun j => (g i j (acc i j)).1], (List.range 32).foldl (fun q j => q ||| (g i j (acc i j)).2) r.2)) ([], 0)
      = ((List.range n).map fun i => (List.range 32).map fun j => (g i j (acc i j)).1,
        (List.range n).foldl (fun q i => (List.range 32).foldl (fun q j => q ||| (g i j (acc i j)).2) q) 0) := by
    induction n with
    | zero => rfl
    | succ n ih => simp only [List.range_succ (n := n), List.foldl_append, List.map_append, ih, List.foldl_cons, List.foldl_nil, List.map_cons, List.map_nil]
  unfold product
  rw [zip_range_map, List.foldl_map]
  simp only [zip_range_map, List.map_map, List.foldl_map, Function.comp_def]
  exact rows 32

/-- What one element of a product is made of: its accumulator, the rows of A, and the columns of B with their exponents (R390, R391). -/
def productElem (u : State) (key : Nat) (o : VOp) (t : MmaTy) (ov bs : Bool) (cols rows : List (List Byte)) (i j : Nat) : Nat × Nat :=
  let acc := if ov then 0 else (elems .i32 ((viewTile u key o.ctx o.vd).getD i [])).getD j 0
  let col := elems (mmaElem t) ((cols.getD j []).take (viewK o.bv))
  if bs then mmaElemBs acc (elems (mmaElem t) (rows.getD i [])) col
    (((readStore u key o.ctx (rangeOffs [(viewBase o.vc * 64, 128)])).1.drop (4 * i)).take (viewK o.bv / 64) |>.map (·.toNat))
    (((cols.getD j []).drop (viewK o.bv)).take (viewK o.bv / 64) |>.map (·.toNat))
  else mmaElemAcc t acc (elems (mmaElem t) (rows.getD i [])) col

/-- Of the state a product reads the store's bytes alone. -/
theorem productElem_of_bytes {u v : State} (h : ∀ a, v.byteAt a = u.byteAt a) (key : Nat) (o : VOp) (t : MmaTy) (ov bs : Bool)
    (cols rows : List (List Byte)) : productElem v key o t ov bs cols rows = productElem u key o t ov bs cols rows := by
  have bytes (n : Bool) (offs : List Nat) : (readStore v key n offs).1 = (readStore u key n offs).1 := List.map_congr_left fun _ _ => h _
  funext i j
  simp only [productElem, viewTile, bytes]

theorem productElem_modCore (u : State) (k : Nat) {g : Core → Core} (hg : ∀ c, (g c).rdesc = c.rdesc) (key : Nat) (o : VOp) (t : MmaTy) (ov bs : Bool)
    (cols rows : List (List Byte)) : productElem (u.modCore k g) key o t ov bs cols rows = productElem u key o t ov bs cols rows := by
  have desc (l : Nat) : ((u.modCore k g).core l).rdesc = (u.core l).rdesc := by
    by_cases hl : l = k
    · rw [hl, State.core_modCore_same, hg]
    · rw [State.modCore, State.core_setCore_other _ _ hl]
  have phys (l : Nat) : (u.modCore k g).phys l = u.phys l := by simp only [State.phys, skewOf, spmDesc, desc]
  exact productElem_of_bytes (byteAt_congr rfl phys) key o t ov bs cols rows

/-- The multiply of MMA, MMA.RA and MMAR gives a table of such elements. -/
theorem multiply_eq (u : State) (key : Nat) (o : VOp) (hk : viewKind o.vd = .c) (t : MmaTy) (ov bs : Bool) (rows cols : List (List Byte)) :
    multiply u key o t ov bs rows cols
      = (tableRows (productElem u key o t ov bs cols rows), tableFlags (productElem u key o t ov bs cols rows)) := by
  have accs : (if ov then List.replicate 32 (List.replicate 32 0) else (viewTile u key o.ctx o.vd).map (elems .i32))
      = (List.range 32).map fun i => (List.range 32).map fun j => if ov then 0 else (elems .i32 ((viewTile u key o.ctx o.vd).getD i [])).getD j 0 := by
    cases ov
    · exact viewTile_elems u key o.ctx hk
    · rfl
  have row (i : Nat) : (rows.map (elems (mmaElem t))).getD i [] = elems (mmaElem t) (rows.getD i []) := getD_map_of_default _ _ _ _ _ (elems_nil _)
  have col (j : Nat) : (cols.map fun c => elems (mmaElem t) (c.take (viewK o.bv))).getD j []
      = elems (mmaElem t) ((cols.getD j []).take (viewK o.bv)) := getD_map_of_default _ _ _ [] _ (by simp)
  have exps (j : Nat) : (cols.map fun c => ((c.drop (viewK o.bv)).take (viewK o.bv / 64)).map (·.toNat)).getD j []
      = (((cols.getD j []).drop (viewK o.bv)).take (viewK o.bv / 64)).map (·.toNat) := getD_map_of_default _ _ _ [] _ (by simp)
  unfold multiply
  dsimp only
  rw [accs]
  cases bs
  all_goals simp only [Bool.false_eq_true, if_false, if_true, product_eq, row, col, exps, ← List.map_drop, ← List.map_take]
  all_goals rfl

/-! ### Groups and blocks (R263, R390, R391) -/

theorem pieces_append {α : Type} {k : Nat} (hk : 0 < k) (f : Nat) {l1 : List α} (h : l1.length = k) (l2 : List α) :
    pieces k (f + 1) (l1 ++ l2) = l1 :: pieces k f l2 := by
  have full : (l1 ++ l2).isEmpty = false := by
    cases l1
    · rw [List.length_nil] at h
      omega
    · rfl
  rw [pieces, full, if_neg (by simp), ← h, List.take_left, List.drop_left]

/-- Fuel for the whole list is enough. -/
theorem pieces_fuel {α : Type} {k : Nat} (hk : 0 < k) (f g : Nat) (l : List α) (hf : l.length ≤ f) (hg : l.length ≤ g) : pieces k f l = pieces k g l := by
  induction f generalizing g l with
  | zero =>
    rw [Nat.le_zero, List.length_eq_zero_iff] at hf
    subst hf
    cases g <;> rfl
  | succ f ih =>
    cases g with
    | zero =>
      rw [Nat.le_zero, List.length_eq_zero_iff] at hg
      subst hg
      rfl
    | succ g =>
      rw [pieces, pieces]
      split
      · rfl
      · rw [ih g _ (by rw [List.length_drop]; omega) (by rw [List.length_drop]; omega)]

/-- A sum step by step, its flags OR-ed. -/
def sumSteps {α : Type} (h : Nat → α → Nat × Nat) (l : List α) (r : Nat × Nat) : Nat × Nat :=
  l.foldl (fun r g => ((h r.1 g).1, r.2 ||| (h r.1 g).2)) r

theorem sumSteps_flags {α : Type} (h : Nat → α → Nat × Nat) (l : List α) (a q : Nat) :
    sumSteps h l (a, q) = ((sumSteps h l (a, 0)).1, q ||| (sumSteps h l (a, 0)).2) := by
  induction l generalizing a q with
  | nil => simp [sumSteps]
  | cons g l ih =>
    have step (q : Nat) : sumSteps h (g :: l) (a, q) = sumSteps h l ((h a g).1, q ||| (h a g).2) := rfl
    rw [step, step, ih, ih _ (0 ||| (h a g).2), Nat.zero_or, Nat.or_assoc]

theorem sumSteps_cons {α : Type} (h : Nat → α → Nat × Nat) (g : α) (l : List α) (a : Nat) :
    sumSteps h (g :: l) (a, 0) = ((sumSteps h l ((h a g).1, 0)).1, (h a g).2 ||| (sumSteps h l ((h a g).1, 0)).2) := by
  have step : sumSteps h (g :: l) (a, 0) = sumSteps h l ((h a g).1, 0 ||| (h a g).2) := rfl
  rw [step, sumSteps_flags, Nat.zero_or]

/-- A K-group onto an accumulator. -/
def groupStep (t : MmaTy) (acc : Nat) (g : List (Nat × Nat)) : Nat × Nat := accAdd acc (groupSum (g.map fun p => (mxuVal t p.1, mxuVal t p.2)))

theorem mmaElemAcc_steps {t : MmaTy} (h8 : t ≠ .i8) (h4 : t ≠ .i4) (acc : Nat) (x y : List Nat) :
    mmaElemAcc t acc x y = sumSteps (groupStep t) (pieces (mxuGroup t) x.length (x.zip y)) (acc, 0) := by
  cases t
  case i8 => exact absurd rfl h8
  case i4 => exact absurd rfl h4
  all_goals rfl

theorem mxuGroup_pos (t : MmaTy) : 0 < mxuGroup t := by
  cases t <;> decide

theorem mmaElemAcc_append {t : MmaTy} (h8 : t ≠ .i8) (h4 : t ≠ .i4) (acc : Nat) {x1 x2 y1 y2 : List Nat} (hx : x1.length = mxuGroup t)
    (hy : y1.length = mxuGroup t) {r q : Nat × Nat} (hr : r = groupStep t acc (x1.zip y1)) (hq : q = mmaElemAcc t r.1 x2 y2) :
    mmaElemAcc t acc (x1 ++ x2) (y1 ++ y2) = (q.1, r.2 ||| q.2) := by
  have pos := mxuGroup_pos t
  have fuel : (x1 ++ x2).length = (mxuGroup t - 1 + x2.length) + 1 := by
    rw [List.length_append, hx]
    omega
  have short : (x2.zip y2).length ≤ x2.length := by
    rw [List.length_zip]
    exact Nat.min_le_left ..
  rw [mmaElemAcc_steps h8 h4, fuel, List.zip_append (hx.trans hy.symm), pieces_append pos _ (by rw [List.length_zip, hx, hy, Nat.min_self]),
    pieces_fuel pos _ x2.length _ (by omega) short, sumSteps_cons, ← hr, hq, mmaElemAcc_steps h8 h4]

theorem intOf_signed {t : Ty} (ht : tySigned t = true) (x : Nat) : intOf t x = signedOf (tyBits t) x := by
  rw [intOf, if_pos ht, sextNat_eq_signedOf]

/-- Integers are summed exactly, modulo 2^32 (R263). -/
theorem mmaElemAcc_int {t : MmaTy} (ht : t = .i8 ∨ t = .i4) (acc : Nat) (x y : List Nat) : mmaElemAcc t acc x y
    = (((intOf .i32 acc + ((x.zip y).map fun p : Nat × Nat => signedOf (if t = MmaTy.i8 then 8 else 4) p.1 * signedOf (if t = MmaTy.i8 then 8 else 4) p.2).sum)
      % 2 ^ 32 : Int).toNat, 0) := by
  obtain rfl | rfl := ht
  all_goals
    simp only [mmaElemAcc, bitsOf, if_true, reduceCtorEq, if_false, intOf_signed (t := .i8) rfl, intOf_signed (t := .i4) rfl]
    rfl

/-- A block with its exponents onto an accumulator (R391). -/
def blockStep (acc : Nat) (g : List (Nat × Nat) × Nat × Nat) : Nat × Nat :=
  if g.2.1 = 255 ∨ g.2.2 = 255 then (defNan 23, flNV) else
    accAdd acc (.fin (g.1.map fun p => signedOf 8 p.1 * signedOf 8 p.2).sum ((g.2.1 : Int) + g.2.2 - 266)
      (g.1.all fun p => negZero (signedOf 8 p.1, signedOf 8 p.2)))

theorem mmaElemBs_steps (acc : Nat) (x y ex ey : List Nat) :
    mmaElemBs acc x y ex ey = sumSteps blockStep ((pieces 64 x.length (x.zip y)).zip (ex.zip ey)) (acc, 0) := by
  have step (r : Nat × Nat) (g : List (Nat × Nat) × Nat × Nat) : ((blockStep r.1 g).1, r.2 ||| (blockStep r.1 g).2)
      = if (decide (g.2.1 = 255) || decide (g.2.2 = 255)) = true then (defNan 23, r.2 ||| flNV) else
        let ps := g.1.map fun p => (intOf .i8 p.1, intOf .i8 p.2)
        let x := accAdd r.1 (.fin (ps.map fun p => p.1 * p.2).sum ((g.2.1 : Int) + g.2.2 - 266) (ps.all negZero))
        (x.1, r.2 ||| x.2) := by
    simp only [blockStep, Bool.or_eq_true, decide_eq_true_eq]
    split
    · rfl
    · simp only [List.map_map, List.all_map, intOf_signed (t := .i8) rfl, Function.comp_def, tyBits]
  unfold mmaElemBs sumSteps
  simp only [step]

theorem mmaElemBs_append (acc : Nat) {x1 x2 y1 y2 : List Nat} (xs ys : List Nat) (ex ey : Nat) (hx : x1.length = 64) (hy : y1.length = 64)
    {r q : Nat × Nat} (hr : r = blockStep acc (x1.zip y1, ex, ey)) (hq : q = mmaElemBs r.1 x2 y2 xs ys) :
    mmaElemBs acc (x1 ++ x2) (y1 ++ y2) (ex :: xs) (ey :: ys) = (q.1, r.2 ||| q.2) := by
  have fuel : (x1 ++ x2).length = (63 + x2.length) + 1 := by
    rw [List.length_append, hx]
    omega
  have short : (x2.zip y2).length ≤ x2.length := by
    rw [List.length_zip]
    exact Nat.min_le_left ..
  rw [mmaElemBs_steps, fuel, List.zip_append (hx.trans hy.symm), pieces_append (by decide) _ (by rw [List.length_zip, hx, hy, Nat.min_self]),
    pieces_fuel (by decide) _ x2.length _ (by omega) short, List.zip_cons_cons, List.zip_cons_cons, sumSteps_cons, ← hr, hq, mmaElemBs_steps]

end Sys2Proof.Laws
end

section
/-! PROOFS. Accumulators as store bytes, rows packed as memory holds them, and the entries of MEPI (R257, R390, R401 to R403). -/

namespace Sys2Proof.Laws

open Sys2Proof Sys2Proof.Machine

/-! ### Bytes of accumulators -/

theorem getElem?_bytesOfNat {n k : Nat} (h : k < n) (w : Nat) : (bytesOfNat n w)[k]? = some (BitVec.ofNat 8 (w / 256 ^ k)) := by
  obtain ⟨m, rfl⟩ : ∃ m, n = k + (m + 1) := ⟨n - k - 1, by omega⟩
  rw [← Nat.add_zero k, ← List.getElem?_drop, Nat.add_zero, drop_bytesOfNat]
  rfl

theorem length_flatMap_bytesOfNat (n : Nat) (xs : List Nat) : (xs.flatMap (bytesOfNat n)).length = xs.length * n := by
  simp only [List.length_flatMap, length_bytesOfNat, List.map_const', List.sum_replicate, smul_eq_mul]

theorem getElem?_flatMap_bytesOfNat {n k : Nat} (hk : k < n) (xs : List Nat) (j : Nat) :
    (xs.flatMap (bytesOfNat n))[n * j + k]? = xs[j]?.map fun x => BitVec.ofNat 8 (x / 256 ^ k) := by
  induction xs generalizing j with
  | nil => rfl
  | cons x xs ih =>
    cases j with
    | zero =>
      rw [Nat.mul_zero, Nat.zero_add, List.flatMap_cons, List.getElem?_append_left (by rw [length_bytesOfNat]; exact hk), getElem?_bytesOfNat hk]
      rfl
    | succ j =>
      have past : n * (j + 1) + k = n + (n * j + k) := by ring
      rw [List.flatMap_cons, List.getElem?_append_right (by rw [length_bytesOfNat, past]; exact Nat.le_add_right ..), length_bytesOfNat, past,
        Nat.add_sub_cancel_left, ih]
      rfl

theorem placeAcc_eq {w : Word} (hw : viewKind w = .c) (f : Nat → Nat → Nat × Nat) : placeAcc w (tableRows f)
    = (List.range 32).flatMap fun i => ((((List.range 32).map fun j => (f i j).1).flatMap (bytesOfNat 4)).zip (List.range 128)).map fun b =>
      (viewBase w * 64 + i * viewPitch w + b.2, b.1) := by
  have rows : viewRows w 256 = (List.range 32).map fun r => (viewBase w * 64 + r * viewPitch w, 128) := by
    unfold viewRows
    rw [hw]
  rw [placeAcc, rows, tableRows, List.zip_map', List.flatMap_map]

theorem length_placeAcc {w : Word} (hw : viewKind w = .c) (f : Nat → Nat → Nat × Nat) : (placeAcc w (tableRows f)).length = 4096 := by
  have row (i : Nat) : (((List.range 32).map fun j => (f i j).1).flatMap (bytesOfNat 4)).length = 128 := by
    rw [length_flatMap_bytesOfNat, List.length_map, List.length_range]
  rw [placeAcc_eq hw]
  simp only [List.length_flatMap, List.length_map, List.length_zip, row, List.length_range, Nat.min_self, List.map_const', List.sum_replicate]
  rfl

theorem mem_placeAcc {w : Word} (hw : viewKind w = .c) (f : Nat → Nat → Nat × Nat) {i j k : Nat} (hi : i < 32) (hj : j < 32) (hk : k < 4) :
    (viewBase w * 64 + i * viewPitch w + 4 * j + k, BitVec.ofNat 8 ((f i j).1 / 2 ^ (8 * k))) ∈ placeAcc w (tableRows f) := by
  have byte := getElem?_flatMap_bytesOfNat hk ((List.range 32).map fun j => (f i j).1) j
  rw [List.getElem?_map, List.getElem?_range hj, Option.map_some, Option.map_some] at byte
  rw [placeAcc_eq hw, List.mem_flatMap]
  refine ⟨i, List.mem_range.mpr hi, List.mem_map.mpr ⟨(BitVec.ofNat 8 ((f i j).1 / 256 ^ k), 4 * j + k), ?_, ?_⟩⟩
  · rw [List.mem_iff_getElem?]
    exact ⟨4 * j + k, List.getElem?_zip_eq_some.mpr ⟨byte, List.getElem?_range (by omega)⟩⟩
  · exact Prod.ext (Nat.add_assoc ..).symm (by rw [Nat.pow_mul])

/-! ### Packed rows (R257, R401) -/

/-- Codes of b bits, the first lowest. -/
def digits (b : Nat) : List Nat → Nat
  | [] => 0
  | x :: l => x % 2 ^ b + 2 ^ b * digits b l

theorem digits_append (b : Nat) (l1 l2 : List Nat) : digits b (l1 ++ l2) = digits b l1 + 2 ^ (b * l1.length) * digits b l2 := by
  induction l1 with
  | nil => simp [digits]
  | cons x l ih =>
    rw [List.cons_append, digits, digits, ih, List.length_cons, Nat.mul_succ, Nat.pow_add]
    ring

theorem digits_lt (b : Nat) (l : List Nat) : digits b l < 2 ^ (b * l.length) := by
  induction l with
  | nil => simp [digits]
  | cons x l ih =>
    have low : x % 2 ^ b < 2 ^ b := Nat.mod_lt _ (by positivity)
    rw [digits, List.length_cons, Nat.mul_succ, Nat.pow_add, Nat.mul_comm (2 ^ (b * l.length))]
    calc x % 2 ^ b + 2 ^ b * digits b l < 2 ^ b + 2 ^ b * digits b l := by omega
      _ = 2 ^ b * (digits b l + 1) := by ring
      _ ≤ 2 ^ b * 2 ^ (b * l.length) := Nat.mul_le_mul_left _ ih

theorem digits_eq_sum (b : Nat) (l : List Nat) : digits b l = ((List.range l.length).map fun j => l.getD j 0 % 2 ^ b * 2 ^ (b * j)).sum := by
  induction l with
  | nil => rfl
  | cons x l ih =>
    rw [digits, ih, List.length_cons, List.range_succ_eq_map, List.map_cons, List.sum_cons, List.map_map, ← List.sum_map_mul_left]
    congr 1
    · simp
    · refine congrArg List.sum (List.map_congr_left fun j _ => ?_)
      simp only [Function.comp_apply, List.getD_cons_succ, Nat.succ_eq_add_one, Nat.mul_succ, Nat.pow_add]
      ring

theorem natOfBytes_flatMap (n : Nat) (xs : List Nat) : natOfBytes (xs.flatMap (bytesOfNat n)) = digits (8 * n) xs := by
  induction xs with
  | nil => rfl
  | cons x xs ih =>
    rw [List.flatMap_cons, natOfBytes_append, natOfBytes_bytesOfNat, ih, length_bytesOfNat, digits, Nat.pow_mul]

/-- Codes packed in groups of k, n bytes to the group. -/
def packGroups (k n b : Nat) (xs : List Nat) : List Byte := (pieces k xs.length xs).flatMap fun g => bytesOfNat n (digits b g)

theorem packGroups_append {k : Nat} (hk : 0 < k) (n b : Nat) {l1 : List Nat} (h : l1.length = k) (l2 : List Nat) :
    packGroups k n b (l1 ++ l2) = bytesOfNat n (digits b l1) ++ packGroups k n b l2 := by
  have fuel : (l1 ++ l2).length = (k - 1 + l2.length) + 1 := by
    rw [List.length_append, h]
    omega
  rw [packGroups, fuel, pieces_append hk _ h, pieces_fuel hk _ l2.length _ (by omega) le_rfl]
  rfl

theorem packGroups_spec {k n b : Nat} (hk : 0 < k) (hn : b * k = 8 * n) (m : Nat) (xs : List Nat) (hx : xs.length = k * m) :
    (packGroups k n b xs).length = n * m ∧ natOfBytes (packGroups k n b xs) = digits b xs := by
  induction m generalizing xs with
  | zero =>
    rw [Nat.mul_zero, List.length_eq_zero_iff] at hx
    subst hx
    exact ⟨rfl, rfl⟩
  | succ m ih =>
    rw [Nat.mul_succ] at hx
    have first : (xs.take k).length = k := by
      rw [List.length_take]
      omega
    obtain ⟨len, val⟩ := ih (xs.drop k) (by rw [List.length_drop]; omega)
    rw [← List.take_append_drop k xs, packGroups_append hk n b first, List.length_append, natOfBytes_append, digits_append, len, val,
      natOfBytes_bytesOfNat, length_bytesOfNat, first, hn, Nat.pow_mul]
    refine ⟨by ring, ?_⟩
    have small := digits_lt b (xs.take k)
    rw [first, hn, Nat.pow_mul] at small
    rw [Nat.mod_eq_of_lt small]

/-- The length of every piece of a list of whole groups. -/
theorem length_of_mem_pieces {k m : Nat} (hk : 0 < k) {xs p : List Nat} (hx : xs.length = k * m) (hp : p ∈ pieces k xs.length xs) : p.length = k := by
  have many : m ≤ xs.length := by
    rw [hx]
    exact Nat.le_mul_of_pos_left _ hk
  rw [pieces_eq hk m _ _ hx.ge many (.inr hx), List.mem_map] at hp
  obtain ⟨i, hi, rfl⟩ := hp
  have inside : k * i + k ≤ k * m := by
    rw [← Nat.mul_succ]
    exact Nat.mul_le_mul_left _ (List.mem_range.mp hi)
  rw [List.length_take, List.length_drop]
  omega

theorem packRow_i4 {m : Nat} {xs : List Nat} (hx : xs.length = 2 * m) : packRow .i4 xs = packGroups 2 1 4 xs := by
  rw [packRow, packGroups, List.map_eq_flatMap]
  refine List.flatMap_congr fun p hp => ?_
  obtain ⟨x, y, rfl⟩ := List.length_eq_two.mp (length_of_mem_pieces (by decide) hx hp)
  have pair : digits 4 [x, y] = x % 16 + y % 16 * 16 := by
    simp only [digits]
    omega
  rw [pair]
  rfl

theorem packRow_t6 {m : Nat} {xs : List Nat} (hx : xs.length = 4 * m) : packRow .t6 xs = packGroups 4 3 6 xs := by
  rw [packRow, packGroups]
  refine List.flatMap_congr fun p hp => ?_
  have four := length_of_mem_pieces (by decide) hx hp
  rw [digits_eq_sum, four, zip_getD four (by simp), List.map_map]
  refine congrArg (fun l => bytesOfNat 3 (List.sum l)) (List.map_congr_left fun j hj => ?_)
  have place : (List.range 4).getD j 0 = j := by
    rw [List.getD_eq_getElem?_getD, List.getElem?_range (List.mem_range.mp hj), Option.getD_some]
  rw [Function.comp_apply, place, Nat.pow_mul]
  simp only [Nat.reducePow]

theorem packRow_bytes {t : Ty} (h4 : t ≠ .i4) (h6 : t ≠ .t6) (xs : List Nat) : packRow t xs = xs.flatMap (bytesOfNat (tyBytes t)) := by
  cases t
  case i4 => exact absurd rfl h4
  case t6 => exact absurd rfl h6
  all_goals rfl

/-- A row of 32 codes as memory holds it (R401). -/
theorem packRow_spec (t : Ty) {w : Nat} (hw : w = if t = .t6 then 6 else tyBits t) {xs : List Nat} (hx : xs.length = 32) :
    (packRow t xs).length = 4 * w ∧ natOfBytes (packRow t xs) = digits w xs := by
  subst hw
  by_cases h6 : t = .t6
  · subst h6
    rw [packRow_t6 (m := 8) hx]
    exact packGroups_spec (by decide) (by decide) 8 xs hx
  · by_cases h4 : t = .i4
    · subst h4
      rw [packRow_i4 (m := 16) hx]
      exact packGroups_spec (by decide) (by decide) 16 xs hx
    · rw [packRow_bytes h4 h6, if_neg h6, length_flatMap_bytesOfNat, natOfBytes_flatMap, hx, eight_mul_tyBytes h4]
      refine ⟨?_, rfl⟩
      have bits := eight_mul_tyBytes h4
      omega

theorem getD_tableRows (f : Nat → Nat → Nat × Nat) {i : Nat} (hi : i < 32) : (tableRows f).getD i [] = (List.range 32).map fun j => (f i j).1 := by
  rw [tableRows, List.getD_eq_getElem?_getD, List.getElem?_map, List.getElem?_range hi]
  rfl

/-- The entry that MEPI leaves in the epilogue buffer (R402, R403). -/
theorem grantMepi_eq {u : State} {key : Nat} {o : VOp} {t : Ty} {scale : Nat} {cols : Bool} {r : Rnd}
    (hp : mepiParts o.instr = some (t, scale, cols, r)) (hk : viewKind o.vc = .c) {f : Nat → Nat → Nat × Nat}
    (hf : f = fun i j => epiElem ((viewTy o.vc).getD .i32) t (rmOf r o.rm) ((elems .i32 ((viewTile u key o.ctx o.vc).getD i [])).getD j 0) scale
      (if cols then some ((viewElems u key o.ctx o.vd .f32).getD j 0) else none))
    {v : State} (hv : v = flagCtx (applyKills { u with nextId := u.nextId + 1 } key o) key o.ctx (tableFlags f)) :
    grantMepi u key o = v.modQuad (quadOf key) fun q => { q with epi := q.epi ++ [
      { id := u.nextId, pos := posOf key, op := o, left := 0, kill := granMask (killsOf o), asid := (u.ctx key o.ctx).asid
        rows := (List.range 32).map fun i => { addr := (o.sa.toNat + i * o.sc.toNat) % 2 ^ 64, bytes := packRow t ((tableRows f).getD i []) } }] } := by
  have col (j : Nat) : (if cols then some ((if cols then viewElems u key o.ctx o.vd .f32 else []).getD j 0) else none)
      = if cols then some ((viewElems u key o.ctx o.vd .f32).getD j 0) else none := by
    cases cols <;> rfl
  have rows : ((tableRows f).zip (List.range 32)).map (fun p => ({ addr := mepiRow o p.2, bytes := packRow t p.1 } : EpiRow))
      = (List.range 32).map fun i => { addr := (o.sa.toNat + i * o.sc.toNat) % 2 ^ 64, bytes := packRow t ((tableRows f).getD i []) } := by
    conv_lhs => rw [tableRows, zip_range_map, List.map_map]
    refine List.map_congr_left fun i hi => ?_
    rw [getD_tableRows f (List.mem_range.mp hi)]
    rfl
  unfold grantMepi
  rw [hp]
  simp only [viewTile_elems u key o.ctx hk, product_eq, col, ← hf, rows, ← hv]

/-! ### Grants -/

section
variable {s u : State} {key : Nat} {e : VEntry} {o : VOp} (hd : e.dead = false) (ho : o = e.op)
  (hu : u = poisIf s key o.ctx (readPoison s key o || e.bpois))
include hd ho hu

theorem runMatrix_mma {c : Com} {t : MmaTy} {d : Fin 16} {a : Use (Fin 16)} {b : Fin 16} {ov : Bool} {bs : Option (Use (Fin 16))}
    (hk : viewKind o.vd = .c) (hi : o.instr = .mma c t d a b ov bs) {f : Nat → Nat → Nat × Nat}
    (hf : f = productElem u key o t ov bs.isSome e.bCols e.rows) :
    runMatrix s key e = finishWrite u key o (placeAcc o.vd (tableRows f)) (tableFlags f) := by
  subst ho
  simp only [runMatrix, hd, hi, ← hu, Bool.false_eq_true, if_false, endProduct, multiply_eq u key e.op hk, hf]

theorem runMatrix_mmar {c : Com} {t : MmaTy} {d : Fin 16} {a : Use (Fin 16)} {b : Fin 16} {ov : Bool} {bs : Option (Use (Fin 16))}
    (hk : viewKind o.vd = .c) (hi : o.instr = .mmar c t d a b ov bs) {f : Nat → Nat → Nat × Nat}
    (hf : f = productElem u key o t ov bs.isSome e.bCols e.rows) :
    runMatrix s key e = rotate (finishWrite u key o (placeAcc o.vd (tableRows f)) (tableFlags f)) key e := by
  subst ho
  simp only [runMatrix, hd, hi, ← hu, Bool.false_eq_true, if_false, endProduct, multiply_eq u key e.op hk, hf]

/-- MMA.RA takes the rows of its tile, which leaves the core, and reads the store as it was (R392). -/
theorem runMatrix_mmaRa {c : Com} {t : MmaTy} {d : Fin 16} {g : Use Src} {b k : Fin 16} {ov : Bool} {sp : Space} {fl : Flight}
    (hk : viewKind o.vd = .c) (hi : o.instr = .mmaRa c t d g b ov k sp) (hfl : ((u.core key).fly.find? fun x => e.tile == some x.id) = some fl)
    {f : Nat → Nat → Nat × Nat} (hf : f = productElem u key o t ov false e.bCols (raRows o t fl.got)) :
    runMatrix s key e = finishWrite (u.modCore key fun c => { c with fly := c.fly.filter fun x => x.id ≠ fl.id }) key o
      (placeAcc o.vd (tableRows f)) (tableFlags f) := by
  subst ho
  simp only [runMatrix, hd, hi, ← hu, hfl, Bool.false_eq_true, if_false, endProduct, multiply_eq _ key e.op hk, hf]
  rw [productElem_modCore]
  exact fun _ => rfl

theorem runMatrix_mzero {c : Com} {t : Ty} {d : Fin 16} (hi : o.instr = .mzero c t d) :
    runMatrix s key e = finishWrite u key o (placeAcc o.vd (tableRows fun _ _ => (0, 0))) 0 := by
  subst ho
  simp only [runMatrix, hd, hi, ← hu, Bool.false_eq_true, if_false]
  rfl

theorem runMatrix_macc {c : Com} {t : Ty} {d : Fin 16} {a : Use (Fin 16)} {sat : Bool} (hk : viewKind o.vd = .c) (hi : o.instr = .macc c t d a sat)
    {v : Word → Nat → Nat → Nat} (hv : v = fun w i j => (elems .i32 ((viewTile u key o.ctx w).getD i [])).getD j 0) {f : Nat → Nat → Nat × Nat}
    (hf : f = fun i j => if t = .i32 then intResult .i32 sat (intOf .i32 (v o.vd i j) + intOf .i32 (v o.va i j)) else mxuSum (v o.vd i j) (v o.va i j)) :
    runMatrix s key e = finishWrite u key o (placeAcc o.vd (tableRows f)) (tableFlags f) := by
  subst ho hf hv
  have row (i : Nat) : ((viewTile u key e.op.ctx e.op.va).map (elems .i32)).getD i [] = elems .i32 ((viewTile u key e.op.ctx e.op.va).getD i []) :=
    getD_map_of_default _ _ _ _ _ (elems_nil _)
  simp only [runMatrix, hd, hi, ← hu, Bool.false_eq_true, if_false, viewTile_elems u key e.op.ctx hk, row, product_eq]

theorem runMatrix_mepi {t : Ty} {scale : Nat} {cols : Bool} {r : Rnd}
    (hi : (∃ c x g sp off k, o.instr = .mepi96 c t x g sp off k r ∧ scale = 0x3F800000 ∧ cols = k.isSome)
      ∨ (∃ c x g sp sc pitch k, o.instr = .mepi128 c t x g sp sc pitch k r ∧ scale = sc.toNat ∧ cols = k.isSome)) :
    runMatrix s key e = grantMepi u key o ∧ mepiParts o.instr = some (t, scale, cols, r) := by
  subst ho
  obtain ⟨c, x, g, sp, off, k, hi, rfl, rfl⟩ | ⟨c, x, g, sp, sc, pitch, k, hi, rfl, rfl⟩ := hi
  all_goals
    refine ⟨?_, by rw [hi]; rfl⟩
    simp only [runMatrix, hd, hi, ← hu, Bool.false_eq_true, if_false]

end

/-- Settles O58: a product is a table of elements, each a sum of K-groups or of blocks, and MEPI's entry holds the converted rows. -/
theorem matrixElements : Obligations.MatrixElements := by
  unfold Obligations.MatrixElements
  refine ⟨?products, fun t acc x y ht => mmaElemAcc_int ht acc x y, fun t acc h8 h4 => ⟨?nil, ?groups⟩, fun acc => ⟨rfl, ?blocks⟩,
    fun s key e hd hm => ?dead, ?others, fun w f hw => ⟨length_placeAcc hw f, fun i hi j hj k hk => mem_placeAcc hw f hi hj hk⟩, ?mepi, ?packed⟩
  case products =>
    intro s u key e o c t d a b ov bs acc f hd ho hk hu hacc col hcol hf
    have elem : f = productElem u key o t ov bs.isSome e.bCols := by
      subst hf hacc hcol
      rfl
    refine ⟨fun hi => runMatrix_mma hd ho hu hk hi (by rw [elem]), fun hi => runMatrix_mmar hd ho hu hk hi (by rw [elem]), fun g k sp fl hi hbs hfl => ?_⟩
    exact runMatrix_mmaRa hd ho hu hk hi hfl (by rw [elem, hbs]; rfl)
  case nil =>
    rw [mmaElemAcc_steps h8 h4]
    rfl
  case groups => exact fun x1 x2 y1 y2 hx hy r q hr hq => mmaElemAcc_append h8 h4 acc hx hy hr hq
  case blocks => exact fun x1 x2 y1 y2 xs ys ex ey hx hy r q hr hq => mmaElemBs_append acc xs ys ex ey hx hy hr hq
  case dead => simp only [runMatrix, hd, hm, if_true, Bool.false_eq_true, if_false]
  case others =>
    intro s u key e o c t d hd ho hu
    exact ⟨fun hi => runMatrix_mzero hd ho hu hi, fun a sat v f hi hk hv hf => runMatrix_macc hd ho hu hk hi hv hf⟩
  case mepi =>
    intro s u v key e o t scale cols r f hd ho hi hk hu hf hv
    obtain ⟨grant, parts⟩ := runMatrix_mepi hd ho hu hi
    rw [grant]
    exact grantMepi_eq parts hk hf hv
  case packed =>
    intro t w xs hw hx
    obtain ⟨size, value⟩ := packRow_spec t hw hx
    rw [digits_eq_sum, hx] at value
    exact ⟨size, value⟩

end Sys2Proof.Laws
end
